-- ==== Sys2Proof/Word.lean ====
section
/-!
DEFINITION. The word types of the Z9 model: bytes, byte strings, FP32 words and instants.
-/

namespace Sys2Proof

/-- One byte of a packet, a record or a memory (R9). -/
abbrev Byte := BitVec 8

/-- A byte string in ascending address order; multi-byte fields in it are little-endian (R9). -/
abbrev Bytes := List (BitVec 8)

/-- An FP32 word of R100. -/
abbrev F32 := BitVec 32

/-- An instant or a duration on the tick timebase, in tns (R11). -/
abbrev Tns := Nat

end Sys2Proof
end

