-- ==== Sys2Proof/Syntax.lean ====
section
/-!
DEFINITION. The commands of the block: one constructor per row of the opcode table, with the operands
an outside party or a unit of the device gives with it.
-/

namespace Sys2Proof

/-- Who asks for an object or writes it (R395): the host of a partition, or a management credential;
credential slot n of the manual is number n - 1 here. -/
inductive Requester where
  | host (p : Fin 16)
  | cred (c : Fin 8)
  deriving DecidableEq, Repr

/-- One of the four ring blocks of BAR0 (R336). -/
inductive RingSel where
  | normal
  | urgent
  | response
  | notice
  deriving DecidableEq, Repr

/-- What a read of a command ring from host memory brought: the packet's bytes, or an error completion
with the header as far as it was read (R343). -/
inductive HostRead where
  | packet (bytes : Bytes)
  | readError (header : Bytes)
  deriving DecidableEq, Repr

/-- How a flare-door write reached the port (R367, R368): its width in bits, its ARM word, and whether
the scheduling pair is in the middle of an earlier batch. -/
structure FlareWrite where
  width : Nat
  arm : Nat
  pairBusy : Bool
  deriving DecidableEq, Repr

/-- Symbols in error in one stack line a unit met while it read (R289): 0 none, 1 corrected, 2 or
more uncorrectable; `tagFails` for a tag that does not check; `lane` the active lane of the channel whose symbol was
corrected (R294). With `array` the error lies in the array of the region cache: in the cached copy of that line, or, for a line
that is not cached, in pinned line `la` of the region (R298, R313). -/
structure LineError where
  stack : Fin 12
  la : Nat
  symbols : Nat
  tagFails : Bool
  lane : Nat := 0
  array : Bool := false
  deriving DecidableEq, Repr

/-- What a unit met while it ran an item: the stack lines with errors, the bytes its arithmetic got wrong, as an offset
into the bytes its checksum covers and a mask, the mcyc its lines waited for slots of a stack (R126, R310), and the ns it
waited for late Stratus reads (R155, R261); empty and 0 for a healthy unit whose lines were served at once. -/
structure UnitObs where
  lines : List LineError
  wrong : List (Nat × BitVec 8)
  waited : Nat := 0
  late : Nat := 0
  deriving DecidableEq, Repr

/-- What a cell, or its block, reports (R95, R465). `corrected` is a single-bit store error. -/
inductive CellFaultKind where
  | corrected
  | storeMultiBit
  | feederParity
  | checksumCopies
  | scratchMultiBit
  | dmaParity
  | comparatorFault
  deriving DecidableEq, Repr

/-- What a Cirrus engine reports (R136). -/
inductive EngineFaultKind where
  | corrected
  | bufferMultiBit
  | checksumCopies
  deriving DecidableEq, Repr

/-- A control-core pair (R470). -/
inductive ControlPair where
  | region (r : Fin 6) (pair : Fin 2)
  | scheduling
  | management
  deriving DecidableEq, Repr

/-- A monitored clock (R471). -/
inductive ClockSel where
  | reference
  | region (r : Fin 6)
  | fabric
  | baseDie (s : Fin 12)
  | io
  deriving DecidableEq, Repr

/-- A monitored supply (R471). -/
inductive RailSel where
  | input
  | internal (n : Fin 32)
  deriving DecidableEq, Repr

/-- A temperature sensor (R472, R557). -/
inductive Sensor where
  | inlet
  | outlet
  | region (r : Fin 6)
  | ioDie
  | baseDie (s : Fin 12)
  | nand
  | backup
  deriving DecidableEq, Repr

/-- A unit that runs the built-in pattern (R453). -/
inductive PatternUnit where
  | cell (n : Fin 384)
  | engine (s : Fin 12) (e : Fin 16)
  deriving DecidableEq, Repr

/-- A Stratus read in progress: the FETCH of an object, the repair of a read-only line, the restore
or the first placement of an image, a save's, eviction's or recall's counterpart being rows of their own. -/
inductive StratusRead where
  | fetchObject (p : Fin 16) (tag : Nat)
  | repair (s : Fin 12) (la : Nat)
  | restore (image : Nat)
  | kvRecall (job layer : Nat)
  | weightStream (job : Nat)
  | restoreState (p : Fin 16) (tag : Nat)
  | patterns (region : Fin 6)
  deriving DecidableEq, Repr

/-- A management LAN (R420). -/
inductive Lan where
  | a
  | b
  deriving DecidableEq, Repr

/-- Who receives copies of a notice (R434, R435). -/
inductive Recipient where
  | part (p : Fin 16)
  | cred (c : Fin 8)
  deriving DecidableEq, Repr

/-- A PTP master's dataset as the best master clock algorithm compares it: the fields of an Announce
message in the order of the comparison, lower is better, with the grandmaster identity last. -/
structure PtpMaster where
  priority1 : Nat
  clockClass : Nat
  accuracy : Nat
  variance : Nat
  priority2 : Nat
  identity : Nat
  stepsRemoved : Nat
  deriving DecidableEq, Repr

/-- What a client offers in a DTLS handshake (R423): the SHA-256 of its public key, whether version,
suite, key exchange and signature are among those the device accepts, and whether it asks for a
pre-shared key, 0-RTT data or renegotiation. -/
structure DtlsHello where
  keyHash : Bytes
  accepted : Bool
  refusedFeature : Bool
  deriving DecidableEq, Repr

/-- What a start finds (R518 to R522): the bytes of the two lane-map and firmware checks and of the
tests of units, as the tests deliver them. -/
structure StartObs where
  systemAreaReadable : Bool
  bankVerifies : List Bool
  planVerifies : List Bool
  configVerifies : List Bool
  laneMapVerifies : Bool
  checkpointVerifies : Bool
  failingLanes : List (Fin 12 × Fin 32 × List Nat)
  bistChannels : List (Fin 12 × Fin 32)
  patternFails : List PatternUnit
  placementsKept : List Nat
  moduleId : BitVec 4
  retention : List (Fin 12 × Fin 32 × Nat)
  delays : List (PatternUnit × Nat)
  oscillators : List Nat
  eraseMax : Nat
  stratusReadOnly : Bool
  deriving DecidableEq, Repr

/-- The readings one guard-band step of a re-plan sees (R490): the replica delays in ps. -/
structure ReplanObs where
  delays : List (PatternUnit × Nat)
  deriving DecidableEq, Repr

/-- A tamper sensor (R514). -/
inductive TamperSensor where
  | mesh
  | fixingSwitch
  deriving DecidableEq, Repr

/-- A sub-stream of an IDE selective stream (R506). -/
inductive SubStream where
  | posted
  | nonPosted
  | completion
  deriving DecidableEq, Repr

/-- The commands: one constructor per row of the opcode table. -/
inductive Instr where
  | nop (p : Fin 16) (tag : Nat)
  | loadImageBegin (p : Fin 16) (tag : Nat)
  | loadImageTable (p : Fin 16) (tag : Nat)
  | loadImageData (p : Fin 16) (tag : Nat)
  | loadImageEnd (p : Fin 16) (tag : Nat)
  | unload (p : Fin 16) (tag : Nat)
  | bind (p : Fin 16) (tag : Nat)
  | submit (p : Fin 16) (tag : Nat)
  | input (p : Fin 16) (tag : Nat)
  | storeCreate (p : Fin 16) (tag : Nat)
  | storeWrite (p : Fin 16) (tag : Nat)
  | fetch (p : Fin 16) (tag : Nat) (met : List LineError := [])
  | fetchCopy (p : Fin 16) (tag : Nat)
  | fork (p : Fin 16) (tag : Nat)
  | streamOpen (p : Fin 16) (tag : Nat)
  | streamChunk (p : Fin 16) (tag : Nat)
  | streamChunkPause (p : Fin 16) (tag : Nat)
  | streamChunkResume (p : Fin 16) (tag : Nat)
  | streamSave (p : Fin 16) (tag : Nat)
  | streamSaveDetach (p : Fin 16) (tag : Nat)
  | streamSaveComplete (p : Fin 16) (tag : Nat)
  | streamRestore (p : Fin 16) (tag : Nat)
  | streamEnd (p : Fin 16) (tag : Nat)
  | streamEndImmediate (p : Fin 16) (tag : Nat)
  | fence (p : Fin 16) (tag : Nat)
  | fenceEndJob (p : Fin 16) (tag : Nat)
  | fenceComplete (p : Fin 16) (tag : Nat)
  | fieldTest (p : Fin 16) (tag : Nat)
  | odRead (p : Fin 16) (tag : Nat)
  | odWrite (p : Fin 16) (tag : Nat)
  | packetFetch (p : Fin 16) (urgent : Bool) (data : HostRead)
  | responseWrite (p : Fin 16)
  | cmdTailDb (p : Fin 16) (value : BitVec 32)
  | urgTailDb (p : Fin 16) (value : BitVec 32)
  | rspHeadDb (p : Fin 16) (value : BitVec 32)
  | ntcHeadDb (p : Fin 16) (value : BitVec 32)
  | ringEnable (p : Fin 16) (ring : RingSel)
  | ringDisable (p : Fin 16) (ring : RingSel)
  | release (p : Fin 16)
  | registerWrite (p : Fin 16) (offset : Nat) (width : Nat) (value : Nat)
  | quiesce (p : Fin 16) (write : FlareWrite)
  | abortJob (p : Fin 16) (write : FlareWrite) (job : Nat)
  | dropQueue (p : Fin 16) (write : FlareWrite)
  | functionLevelReset (p : Fin 16)
  | linkDown (port : Fin 4)
  | linkTraining (port : Fin 4) (speed width : Nat)
  | perst (port : Fin 4) (asserted : Bool)
  | vfEnable (p : Fin 16) (enable : Bool)
  | busMasterEnable (p : Fin 16) (enable : Bool)
  | configSpaceWrite (p : Fin 16)
  | ideCheckFail (p : Fin 16)
  | keyProg (p : Fin 16) (sub : SubStream) (transmit : Bool) (keySet : Fin 2) (key : Bytes) (ranges : List (Nat × Nat))
  | keySetGo (p : Fin 16) (sub : SubStream) (transmit : Bool) (keySet : Fin 2)
  | getTdispVersion (p : Fin 16)
  | getTdispCapabilities (p : Fin 16)
  | lockInterface (p : Fin 16)
  | getDeviceInterfaceReport (p : Fin 16)
  | getDeviceInterfaceState (p : Fin 16)
  | startInterface (p : Fin 16) (nonce : BitVec 64)
  | stopInterface (p : Fin 16)
  | getCertificate (port : Fin 4) (requester : Nat) (slot : Nat)
  | challenge (port : Fin 4) (requester : Nat) (slot : Nat) (nonce : Bytes)
  | getMeasurements (port : Fin 4) (requester : Nat) (index : Nat) (nonce : Bytes)
  | keyExchange (port : Fin 4) (requester : Nat) (slot : Nat) (data : Bytes)
  | tickBoundary
  | commitWindow (completes : Bool)
  | tickLoss
  | roundComplete (job : Nat) (met : List LineError := [])
  | tileClaim (cell : Fin 384)
  | tileComplete (cell : Fin 384) (obs : UnitObs)
  | cirrusOperationComplete (stack : Fin 12) (engine : Fin 16) (obs : UnitObs)
  | guaranteedWindowStart (stack : Fin 12)
  | cellFault (cell : Fin 384) (kind : CellFaultKind)
  | engineFault (stack : Fin 12) (engine : Fin 16) (kind : EngineFaultKind)
  | sorterDisagreement (region : Fin 6)
  | roLineRepair (stack : Fin 12) (la : Nat) (correctable : Bool)
  | wcbAgeFlush (region : Fin 6) (entry : Nat) (met : List LineError := [])
  | patrolScrub (err : LineError)
  | regulatorRefill
  | shareWindowStart
  | laneFailure (stack : Fin 12) (channel : Fin 32) (lane : Nat) (lockLost : Bool)
  | retrainingComplete (stack : Fin 12) (channel : Fin 32) (failing : List Nat)
  | regionLoss (region : Fin 6)
  | fabricLinkFailure (region : Fin 6) (link : Fin 2)
  | lockstepMismatch (pair : ControlPair)
  | pairTakeoverComplete (region : Fin 6)
  | chipPairRestartComplete (management : Bool) (ok : Bool) (obs : StartObs)
  | clockLoss (clock : ClockSel)
  | clockRelockTimeout (region : Fin 6)
  | supplyOutOfRange (rail : RailSel)
  | temperatureReading (sensor : Sensor) (centi : Int)
  | throttleRelease
  | causeClear (cause : Fin 11)
  | safeStateIn (pin : Fin 8) (high : Bool)
  | faultNDriverTest (released0 released1 : Bool)
  | faultLineMismatch (region : Fin 6)
  | idlePattern (unit : PatternUnit)
  | patternComplete (unit : PatternUnit) (pass : Bool)
  | fieldTestStart (region : Fin 6)
  | fieldTestComplete (region : Fin 6) (pass : Bool)
  | plannedRemovalSwitch (region : Fin 6)
  | placementComplete (image : Nat)
  | stratusReadComplete (read : StratusRead) (correctable : Bool)
  | stratusWriteDurable (p : Fin 16) (tag : Nat)
  | spillComplete (page : Nat) (ok : Bool) (met : List LineError := [])
  | evictionComplete (entry : Nat) (ok : Bool) (met : List LineError := [])
  | recallComplete (entry : Nat) (correctable : Bool)
  | garbageCollection (die : Fin 256)
  | readDisturbRefresh (die : Fin 256) (block : Fin 2048)
  | retentionRefresh (die : Fin 256) (block : Fin 2048)
  | staticWearLevelling (die : Fin 256)
  | badBlockRetirement (die : Fin 256) (block : Fin 2048)
  | dieFailure (die : Fin 256)
  | stratusCheckpoint
  | stratusMount (verifies : Bool)
  | timingEdge (pin : Fin 9) (instant : Nat) (highTns : Nat)
  | sourceLostTimeout
  | announceReceiptTimeout (lan : Lan)
  | ptpAnnounce (lan : Lan) (domain : Nat) (master : PtpMaster)
  | ptpSync (lan : Lan) (offset : Int) (taiNs : Nat)
  | pdelayReq (lan : Lan) (sequence : Nat)
  | holdoverExpired
  | taiSecondWrite (who : Requester) (second : BitVec 64)
  | dtlsHandshake (hello : DtlsHello)
  | sessionIdleTimeout (session : Nat)
  | mgmtOdRead (session : Nat) (message : Bytes)
  | mgmtOdWrite (session : Nat) (message : Bytes)
  | mgmtQuiesce (session : Nat) (message : Bytes)
  | mgmtAbortJob (session : Nat) (message : Bytes)
  | mgmtDropQueue (session : Nat) (message : Bytes)
  | mgmtRelease (session : Nat) (message : Bytes)
  | noticeAck (session : Nat) (message : Bytes)
  | credentialSet (session : Nat) (message : Bytes)
  | inspectPageFrame (session : Nat) (message : Bytes)
  | inspectPageList (session : Nat) (message : Bytes)
  | inspectStreamEntry (session : Nat) (message : Bytes)
  | inspectStateDesc (session : Nat) (message : Bytes)
  | inspectLines (session : Nat) (message : Bytes)
  | inspectObject (session : Nat) (message : Bytes)
  | inspectHeaders (session : Nat) (message : Bytes)
  | keepalive (session : Nat) (message : Bytes)
  | icmpv6Echo (lan : Lan) (data : Bytes)
  | neighbourDiscovery (lan : Lan) (target : Bytes)
  | prpSupervision
  | lanLost (lan : Lan)
  | lanRestored (lan : Lan)
  | noticeDelivery (rcpt : Recipient)
  | noticeResend (cred : Fin 8)
  | objectWrite (who : Requester) (index sub : Nat) (type : Nat) (value : Bytes)
  | readAndClear (who : Requester) (index sub : Nat)
  | watermarkSlotWrite (who : Requester) (index sub : Nat) (type : Nat) (value : Bytes)
  | partitionCreate (who : Requester) (p : Fin 16)
  | partitionDelete (who : Requester) (p : Fin 16)
  | configStore (who : Requester)
  | configStoreDurable (readBackOk : Bool)
  | defaults (who : Requester)
  | rebase (who : Requester)
  | resetWarm (who : Requester)
  | resetCold (who : Requester)
  | orderlyWindowEnd (obs : StartObs)
  | firmwareChunk (who : Requester) (value : Bytes)
  | firmwareBegin (who : Requester)
  | firmwareCommit (who : Requester)
  | firmwareCancel (who : Requester)
  | leaveSafeState (who : Requester)
  | safetyLockOpen (who : Requester)
  | safetyLockExpire
  | fieldTestMgmt (who : Requester) (unit : BitVec 16)
  | plannedFence (who : Requester) (unit : BitVec 16)
  | replanNow (who : Requester)
  | alarmAcknowledge (who : Requester) (switchClosed cellGood : Bool)
  | powerCapWrite (who : Requester) (watts : BitVec 16)
  | skyPinFunctionWrite (who : Requester) (pin : Fin 8) (function : BitVec 8)
  | skyPinTake (pin : Fin 8)
  | replicaRead (delays : List (PatternUnit × Nat))
  | ringOscillatorRead (losses : List Nat)
  | retentionRead (stack : Fin 12) (channel : Fin 32) (ms : Nat)
  | eyeRead (port : Fin 4) (widths : List Nat)
  | replanInterval
  | replanDecision (steps : List ReplanObs)
  | feedChange (present : BitVec 2) (millivoltP millivoltQ : BitVec 16)
  | inputResetRange
  | powerOn (obs : StartObs)
  | resetN (obs : StartObs)
  | startStepTimeout (step : Nat)
  | warmStartRetry (obs : StartObs)
  | startReady
  | tamper (sensor : TamperSensor)
  | lowCell
  | backupTemperature (centi : Int)
  | cellFailure
  | smbusPartNumber
  | smbusSerialNumber
  | smbusStartState
  | smbusFailedStep
  | smbusInputPower
  | smbusCoolantInlet
  | smbusAlarmCauses
  | smbusEnrol (fingerprint : Bytes)
  | smbusEnrolResult
  | dieRebuildComplete (die : Fin 256)
  | rspHoldoffExpiry (p : Fin 16)
  | taiSecondPulse
  | zenithPassComplete (region : Fin 6) (met : List LineError := [])
  | replanAfterStart
  deriving DecidableEq, Repr

end Sys2Proof
end

