-- ==== Sys2Proof/Machine/Bits.lean ====
section
/-!
DEFINITION. Bit fields, little-endian byte strings, the two checks of the manual (CRC-32C of R574,
CRC-64 of R93) and the plain list tables the model's state is made of.
-/

namespace Sys2Proof.Machine

/-- The bit field [hi:lo] of a word held as a number (R9). -/
def field (v hi lo : Nat) : Nat := (v >>> lo) % 2 ^ (hi + 1 - lo)

/-- Bit `i` of a word. -/
def bit (v i : Nat) : Bool := (v >>> i) % 2 == 1

/-- A byte string read as a little-endian number (R9). -/
def leNat : Bytes → Nat
  | [] => 0
  | b :: bs => b.toNat + 256 * leNat bs

/-- The `n` low bytes of a number, little-endian (R9). -/
def toLe : Nat → Nat → Bytes
  | 0, _ => []
  | n + 1, v => BitVec.ofNat 8 v :: toLe n (v / 256)

/-- The `len` bytes at offset `off`. -/
def slice (bs : Bytes) (off len : Nat) : Bytes := (bs.drop off).take len

/-- The little-endian number in the `len` bytes at `off`. -/
def leAt (bs : Bytes) (off len : Nat) : Nat := leNat (slice bs off len)

/-- A byte string padded with zeros to a multiple of `n` bytes. -/
def padTo (n : Nat) (bs : Bytes) : Bytes :=
  bs ++ List.replicate ((n - bs.length % n) % n) 0

/-- A byte string cut or zero-extended to exactly `n` bytes. -/
def fitTo (n : Nat) (bs : Bytes) : Bytes :=
  bs.take n ++ List.replicate (n - bs.length) 0

/-- Rounded-up division. -/
def ceilDiv (a b : Nat) : Nat := (a + b - 1) / b

/-- `v` limited to `lo`..`hi`. -/
def clampNat (lo hi v : Nat) : Nat := max lo (min hi v)

/-- Smallest multiple of `b` that is at least `a`. -/
def alignUp (a b : Nat) : Nat := ceilDiv a b * b

/-! ### CRC-32C (R574) -/

/-- Eight shifts of the reflected Castagnoli register. -/
def crc32cShift : Nat → Nat → Nat
  | 0, c => c
  | n + 1, c => crc32cShift n (if c % 2 == 1 then (c >>> 1) ^^^ 0x82F63B78 else c >>> 1)

/-- CRC-32C of a byte string: initial value and final XOR all ones, reflected (R574). -/
def crc32c (bs : Bytes) : Nat :=
  (bs.foldl (fun c b => crc32cShift 8 (c ^^^ b.toNat)) 0xFFFFFFFF) ^^^ 0xFFFFFFFF

/-! ### CRC-64 (R93) -/

/-- Eight shifts of the unreflected CRC-64 register. -/
def crc64Shift : Nat → Nat → Nat
  | 0, c => c
  | n + 1, c =>
    crc64Shift n
      (if bit c 63 then ((c <<< 1) % 2 ^ 64) ^^^ 0x42F0E1EBA9EA3693 else (c <<< 1) % 2 ^ 64)

/-- One byte into the tile checksum (R93). -/
def crc64Byte (c : Nat) (b : Byte) : Nat := crc64Shift 8 (c ^^^ (b.toNat <<< 56))

/-- The tile checksum of a byte string, from a register of 0 (R93). -/
def crc64 (bs : Bytes) : Nat := bs.foldl crc64Byte 0

/-! ### Plain tables -/

/-- Element `i` of a list replaced by `f` of it; a list too short is left as it is. -/
def modifyNth {α : Type} : List α → Nat → (α → α) → List α
  | [], _, _ => []
  | a :: as, 0, f => f a :: as
  | a :: as, n + 1, f => a :: modifyNth as n f

/-- The value a table keyed by numbers gives a key. -/
def tget {α : Type} : List (Nat × α) → Nat → Option α
  | [], _ => none
  | (k, v) :: t, x => if k = x then some v else tget t x

/-- The value a table gives a key, or a default for a key not listed. -/
def tgetD {α : Type} (t : List (Nat × α)) (k : Nat) (d : α) : α := (tget t k).getD d

/-- A table kept in ascending key order, with a key set. -/
def tset {α : Type} : List (Nat × α) → Nat → α → List (Nat × α)
  | [], x, v => [(x, v)]
  | (k, w) :: t, x, v =>
    if x < k then (x, v) :: (k, w) :: t
    else if k = x then (x, v) :: t
    else (k, w) :: tset t x v

/-- A table with a key taken out. -/
def terase {α : Type} : List (Nat × α) → Nat → List (Nat × α)
  | [], _ => []
  | (k, w) :: t, x => if k = x then t else (k, w) :: terase t x

/-- A table with a key's value changed, from a default when the key is not listed. -/
def tmodify {α : Type} (t : List (Nat × α)) (k : Nat) (d : α) (f : α → α) : List (Nat × α) :=
  tset t k (f (tgetD t k d))

/-- Sum of a list of numbers. -/
def sumNat (l : List Nat) : Nat := l.foldl (· + ·) 0

/-- Largest of a list of numbers; 0 for an empty list. -/
def maxNat (l : List Nat) : Nat := l.foldl max 0

/-- The smallest element of a list, 0 for none. -/
def minNat : List Nat → Nat
  | [] => 0
  | x :: l => l.foldl min x

/-- The element with the least key, the first of equals; none for an empty list. -/
def argMin {α : Type} (key : α → Nat) : List α → Option α
  | [] => none
  | a :: as =>
    match argMin key as with
    | none => some a
    | some b => if key b < key a then some b else some a

/-- The element with the greatest key, the first of equals; none for an empty list. -/
def argMax {α : Type} (key : α → Nat) : List α → Option α
  | [] => none
  | a :: as =>
    match argMax key as with
    | none => some a
    | some b => if key a < key b then some b else some a

/-- An insertion into a list kept in an order; equals keep their order of arrival. -/
def insertBy {α : Type} (before : α → α → Bool) (x : α) : List α → List α
  | [] => [x]
  | y :: ys => if before x y then x :: y :: ys else y :: insertBy before x ys

/-- A stable sort by insertion. -/
def sortBy {α : Type} (before : α → α → Bool) (l : List α) : List α :=
  l.foldl (fun acc x => insertBy before x acc) []

end Sys2Proof.Machine
end

