-- ==== Sys2Proof/Machine/Memory.lean ====
section
/-!
DEFINITION. The addressed memories of the device as one canonical byte list: the twelve stacks by
line address (R282, R283), the pinned areas of the six region caches (R298, R299) and the Stratus
user area by LOC (R315); with the side bands of lines (R286) and the poison of Stratus units (R318).
-/

namespace Sys2Proof.Machine

/-- Lines of one stack (R282). -/
def stackLines : Nat := 0x30000000

/-- Lines of one channel (R282). -/
def channelLines : Nat := 25165824

/-- Lines of one region cache (R298). -/
def cacheLines : Nat := 524288

/-- The memories that hold data: a stack, the pinned area of a region cache, or Stratus. -/
inductive Space where
  | stack (n : Nat)
  | cache (r : Nat)
  | stratus
  deriving DecidableEq, Repr

/-- First line number of a memory in the one line numbering of the model. -/
def Space.firstLine : Space → Nat
  | .stack n => n * stackLines
  | .cache r => 12 * stackLines + r * cacheLines
  | .stratus => 12 * stackLines + 6 * cacheLines

/-- Byte address of an offset in a memory, in the one address space of the model. -/
def Space.addr (s : Space) (off : Nat) : Nat := s.firstLine * 128 + off

/-- The side band of a line that is stored: POISON, RO and PART (R286). TAG and ECC follow from it
and the data (R287, R288). -/
structure SideBand where
  poison : Bool := false
  ro : Bool := false
  part : Nat := 0
  deriving DecidableEq, Repr

/-- Lines with one owner and RO flag: the first, and how many. -/
structure LineRun where
  first : Nat
  count : Nat
  ro : Bool
  part : Nat
  deriving DecidableEq, Repr

/-- The memory: bytes in canonical form; of the side bands the poisoned lines and the runs of lines whose owner or RO
flag is not the default, both ascending; and the Stratus units whose POISON flag is set. -/
structure Mem where
  bytes : List Host.Cell := []
  poisoned : List Nat := []
  runs : List LineRun := []
  poisonUnits : List Nat := []
  deriving DecidableEq, Repr

/-- What an unlisted address reads as: the start writes zeros to every line (R518 step 5, R501).
[notes/assumptions 10 DESIGN CHOICE, unsafe] -/
def unlistedByte : Byte := 0

/-- The byte at an address. -/
def cellsGet : List Host.Cell → Nat → Byte
  | [], _ => unlistedByte
  | (k, v) :: t, a => if k = a then v else cellsGet t a

/-- A byte written: the list stays strictly rising and lists no byte equal to the unlisted one. -/
def cellsPut : List Host.Cell → Nat → Byte → List Host.Cell
  | [], a, v => if v = unlistedByte then [] else [(a, v)]
  | (k, w) :: t, a, v =>
    if a < k then (if v = unlistedByte then (k, w) :: t else (a, v) :: (k, w) :: t)
    else if a = k then (if v = unlistedByte then t else (a, v) :: t)
    else (k, w) :: cellsPut t a v

/-- The canonical form above a lower bound: strictly rising addresses, no unlisted byte. -/
def cellsWfFrom : Nat → List Host.Cell → Bool
  | _, [] => true
  | lo, (k, v) :: t => decide (lo ≤ k) && v != unlistedByte && cellsWfFrom (k + 1) t

/-- The canonical form of a byte list. -/
def cellsWf (l : List Host.Cell) : Bool := cellsWfFrom 0 l

/-- The canonical form of the memory. -/
def Mem.wf (m : Mem) : Bool := cellsWf m.bytes

/-- Read one byte.
[notes/assumptions 10 DESIGN CHOICE, unsafe] -/
def Mem.read (m : Mem) (a : Nat) : Byte := cellsGet m.bytes a

/-- Write one byte. -/
def Mem.write (m : Mem) (a : Nat) (v : Byte) : Mem := { m with bytes := cellsPut m.bytes a v }

/-- Write a list of cells in order. -/
def Mem.apply (m : Mem) (cs : List Host.Cell) : Mem := cs.foldl (fun acc c => acc.write c.1 c.2) m

/-- The cells of a byte string from an address. -/
def cellsAt (a : Nat) : Bytes → List Host.Cell
  | [] => []
  | b :: bs => (a, b) :: cellsAt (a + 1) bs

/-- A range of a byte list replaced by cells of that range. -/
def cellsSplice (l : List Host.Cell) (a n : Nat) (cs : List Host.Cell) : List Host.Cell :=
  l.filter (fun c => decide (c.1 < a)) ++ cs.filter (fun c => c.2 != unlistedByte) ++
    l.filter (fun c => decide (a + n ≤ c.1))

/-- Write a byte string at an address. -/
def Mem.writeBytes (m : Mem) (a : Nat) (bs : Bytes) : Mem :=
  { m with bytes := cellsSplice m.bytes a bs.length (cellsAt a bs) }

/-- Read `n` bytes from an address. -/
def Mem.readBytes (m : Mem) (a n : Nat) : Bytes := (List.range n).map (fun i => m.read (a + i))

/-- Write zeros over a range. -/
def Mem.clear (m : Mem) (a n : Nat) : Mem :=
  { m with bytes := m.bytes.filter (fun c => !(decide (a ≤ c.1) && decide (c.1 < a + n))) }

/-- Bytes of a range that are listed, copied to another place; the rest of the range reads as
before at the source, so zeros are copied too. -/
def Mem.copy (m : Mem) (src dst n : Nat) : Mem :=
  let moved := (m.bytes.filter (fun c => decide (src ≤ c.1) && decide (c.1 < src + n))).map
    (fun c => (c.1 - src + dst, c.2))
  { m with bytes := cellsSplice m.bytes dst n moved }

/-- Side band of a line. -/
def Mem.sideOf (m : Mem) (line : Nat) : SideBand :=
  let p := m.poisoned.contains line
  match m.runs.find? (fun r => decide (r.first ≤ line) && decide (line < r.first + r.count)) with
  | some r => { poison := p, ro := r.ro, part := r.part }
  | none => { poison := p }

/-- Poison a line: the data stands (R290). -/
def Mem.poison (m : Mem) (line : Nat) : Mem :=
  if m.poisoned.contains line then m
  else { m with poisoned := insertBy (fun a b => decide (a < b)) line m.poisoned }

/-- Is any line of a byte range poisoned? -/
def Mem.rangePoisoned (m : Mem) (a n : Nat) : Bool :=
  n != 0 && m.poisoned.any (fun l => decide (a / 128 ≤ l) && decide (l ≤ (a + n - 1) / 128))

/-- Clear POISON of the lines a write covers whole (R290). -/
def Mem.clearPoison (m : Mem) (a n : Nat) : Mem :=
  { m with poisoned := m.poisoned.filter (fun l => !(decide (a ≤ l * 128) && decide (l * 128 + 128 ≤ a + n))) }

/-- What is left of runs outside a range of lines. -/
def cutRuns (l : List LineRun) (line n : Nat) : List LineRun :=
  l.flatMap (fun r =>
    [{ r with count := min (r.first + r.count) line - r.first },
     { r with first := max r.first (line + n), count := r.first + r.count - max r.first (line + n) }].filter
       (fun x => x.count != 0))

/-- A run entered over what stood there; a run of the default owner and flag is not listed. -/
def enterRun (l : List LineRun) (r : LineRun) : List LineRun :=
  let rest := cutRuns l r.first r.count
  if r.count = 0 || (!r.ro && r.part == 0) then rest else insertBy (fun a b => decide (a.first < b.first)) r rest

/-- Set the owner and RO flag of every line of a range; a range owned by partition 0 without RO has the default side
band. -/
def Mem.own (m : Mem) (line n : Nat) (ro : Bool) (part : Nat) : Mem :=
  { m with runs := enterRun m.runs { first := line, count := n, ro := ro, part := part } }

/-- The runs inside some byte ranges. -/
def keepRuns (l : List LineRun) (ranges : List (Nat × Nat)) : List LineRun :=
  ranges.foldl (fun acc x => l.foldl (fun acc' r =>
    let lo := max r.first (ceilDiv x.1 128)
    enterRun acc' { r with first := lo, count := min (r.first + r.count) (ceilDiv (x.1 + x.2) 128) - lo }) acc) []

/-- The integrity tag of a stack line (R287). -/
def lineTag (stack la : Nat) (b : SideBand) (data : Bytes) : Nat :=
  let ident := la % 2 ^ 30 + (stack % 16) * 2 ^ 32
  let flags := (if b.poison then 1 else 0) + (if b.ro then 2 else 0) + (b.part % 16) * 4
  crc32c (toLe 8 ident ++ toLe 4 flags ++ fitTo 128 data)

/-- The unit tag of a Stratus unit (R318). -/
def unitTag (loc : Nat) (data : Bytes) : Nat := crc32c (toLe 8 loc ++ fitTo 4096 data)

/-! ### Allocation -/

/-- An allocated extent: where, from which unit, how many units, for whom and for what. -/
structure Extent where
  base : Nat
  size : Nat
  part : Nat
  deriving DecidableEq, Repr

/-- The lowest base from a bound on, congruent to `phase` modulo `align`, at which `size` units are free; extents are in
ascending order of base.
[notes/assumptions 16 DESIGN CHOICE, unsafe] -/
def lowestFit (align size phase : Nat) : Nat → List Extent → Nat
  | lo, [] => alignUp (lo - phase) align + phase
  | lo, e :: es =>
    let c := alignUp (lo - phase) align + phase
    if c + size ≤ e.base then c else lowestFit align size phase (max lo (e.base + e.size)) es

/-- An extent entered in ascending order. -/
def addExtent (l : List Extent) (e : Extent) : List Extent :=
  insertBy (fun a b => decide (a.base < b.base)) e l

/-- Allocate the lowest free range that fits below `cap` units (R153, R315).
[notes/assumptions 16 DESIGN CHOICE, unsafe] -/
def allocate (cap align size part : Nat) (l : List Extent) (phase : Nat := 0) : Option (Nat × List Extent) :=
  let b := lowestFit align (max size 1) phase 0 l
  if b + max size 1 ≤ cap then some (b, addExtent l { base := b, size := max size 1, part := part })
  else none

/-- Free the extent that starts at a base. -/
def freeExtent (l : List Extent) (base : Nat) : List Extent := l.filter (fun e => e.base != base)

/-- Units in use. -/
def usedUnits (l : List Extent) : Nat := sumNat (l.map Extent.size)

/-! ### The channel map of a stack (R283, R295) -/

/-- Channel of a line address. -/
def laChannel (la : Nat) : Nat := la % 32

/-- Usable lines with `n` channels in service (R295). -/
def usableLines (n : Nat) : Nat := n * channelLines

/-- The lines below a bound whose channel is in a set, counted in ascending LA. -/
def countInChannels (chs : List Nat) (la : Nat) : Nat :=
  la / 32 * chs.length + (chs.filter (fun c => decide (c < la % 32))).length

/-- The j-th line at or above `lo` (a multiple of 32) whose channel is in the ascending set. -/
def nthInChannels (chs : List Nat) (lo j : Nat) : Nat :=
  if chs.length = 0 then lo else lo + j / chs.length * 32 + chs.getD (j % chs.length) 0

/-- Where a line address lies with some channels fenced (R295). -/
def mapLine (fenced : List Nat) (la : Nat) : Nat :=
  let good := (List.range 32).filter (fun c => !fenced.contains c)
  if fenced.contains (laChannel la) then
    nthInChannels good (usableLines good.length) (countInChannels fenced la)
  else la

end Sys2Proof.Machine
end

