-- ==== Sys2Proof/Config.lean ====
section
/-!
DEFINITION. What the manual leaves to the module or to chance: opaque constants with no body. No
statement can depend on a value of them.
-/

namespace Sys2Proof

/-- A fresh free value: the sampling phase of R446, a nonce of R508, a slew amount of R46. The machine
applies it to its counter of free values and advances the counter.
[notes/assumptions 17 DESIGN CHOICE, safe] -/
opaque Config.freeValue : Nat → BitVec 64

/-- The part fitted (R4): true for ZB9-1152-E.
[notes/assumptions 5 DESIGN CHOICE, safe] -/
opaque Config.gradeE : Bool

/-- Serial number 0x1000.03 (R404, R575).
[notes/assumptions 5 DESIGN CHOICE, safe] -/
opaque Config.serialNumber : Bytes

/-- Hardware revision 0x1000.04 (R404, R575).
[notes/assumptions 5 DESIGN CHOICE, safe] -/
opaque Config.hardwareRevision : BitVec 16

/-- Firmware version 0x1000.05 of the firmware the module is delivered with (R404, R575).
[notes/assumptions 5 DESIGN CHOICE, safe] -/
opaque Config.firmwareVersion : BitVec 32

/-- Manufacture time 0x1000.08 (R404, R575).
[notes/assumptions 5 DESIGN CHOICE, safe] -/
opaque Config.manufactureTime : BitVec 64

/-- MAC address 0x1000.09 (R420, R575).
[notes/assumptions 5 DESIGN CHOICE, safe] -/
opaque Config.macAddress : BitVec 48

/-- Input current of both feeds at an instant, in 10 mA (0x6003.04, R557): a reading no command brings.
[notes/assumptions 168 DESIGN CHOICE, safe] -/
opaque Config.inputCurrent : Nat → BitVec 16

/-- Input power at an instant, in W (0x6003.05, R557): a reading no command brings.
[notes/assumptions 168 DESIGN CHOICE, safe] -/
opaque Config.inputPower : Nat → BitVec 16

/-- Does a firmware image's signature verify against the Aclum key (R518 step 2, R531)?
[notes/assumptions 18 DESIGN CHOICE, safe] -/
opaque Config.signatureOk : Bytes → Bool

/-- Version of a firmware image, as 0x1000.05 (R532).
[notes/assumptions 18 DESIGN CHOICE, safe] -/
opaque Config.imageVersion : Bytes → BitVec 32

/-- Security version of a firmware image (R513, R531).
[notes/assumptions 18 DESIGN CHOICE, safe] -/
opaque Config.imageSecurity : Bytes → BitVec 32

/-- The four check symbols of the code of R288 for a line's 64 data symbols and 4 side symbols: the
manual fixes the code's size and strength and not its generator polynomial.
[notes/assumptions 11 DESIGN CHOICE, safe] -/
opaque Config.checkSymbols : Bytes → BitVec 64

/-- A certificate chain of slot 0 or 1 (R510).
[notes/assumptions 18 DESIGN CHOICE, safe] -/
opaque Config.certificate : Nat → Bytes

/-- The responder's signature of a transcript (R510).
[notes/assumptions 18 DESIGN CHOICE, safe] -/
opaque Config.signature : Bytes → Bytes

/-- SHA-384 of a byte string (R511).
[notes/assumptions 18 DESIGN CHOICE, safe] -/
opaque Config.sha384 : Bytes → Bytes

/-- SHA-384 digest of measurement block 1 to 5 for the firmware version in force (R511).
[notes/assumptions 18 DESIGN CHOICE, safe] -/
opaque Config.firmwareDigest : Nat → BitVec 32 → Bytes

/-- The responder's part of a key exchange (R510).
[notes/assumptions 18 DESIGN CHOICE, safe] -/
opaque Config.exchangeKey : Nat → Bytes

/-- The TDISP version a GET_TDISP_VERSION request is answered with: R508 names the request and no number.
[notes/assumptions 19 DESIGN CHOICE, safe] -/
opaque Config.tdispVersion : BitVec 8

/-- What a stack line that nothing is placed in holds of the Z9's tables: the kind of table and the number of the line in it,
or of its job. R469 places the tables in stack lines and names none.
[notes/assumptions 188 DESIGN CHOICE, safe] -/
opaque Config.tableLine : Nat → Nat → Option (Nat × Nat)

/-- Element i of an attention row of a member without a visible token: R132 rests on position 0 being visible.
[notes/assumptions 92 DESIGN CHOICE, safe] -/
opaque Config.emptyAttention : Nat → BitVec 32

/-- The INT32 code of an FP32 value that is no integer of its range: R107 calls the conversion not reachable and gives no
result.
[notes/assumptions 184 DESIGN CHOICE, safe] -/
opaque Config.int32Code : BitVec 32 → BitVec 32

/-- One of the manual's open yes-or-no choices, drawn as a free value. -/
opaque Config.freeChoice : Nat → Bool

end Sys2Proof
end

