-- ==== Sys2Proof/Machine/Number.lean ====
section
/-!
DEFINITION. Exact dyadic values, the fourteen formats of R100 and the one rounding of every
conversion (R104 to R113), with the FP32 sums, products and fused operations of R72 to R74.
-/

namespace Sys2Proof.Machine

/-- An extended number: the exact value of a datum. `fin neg m e` is ± m × 2^e; a zero keeps its
sign (R107). -/
inductive Ext where
  | nan
  | inf (neg : Bool)
  | fin (neg : Bool) (m : Nat) (e : Int)
  deriving DecidableEq, Repr

/-- Positive zero. -/
def Ext.zero : Ext := .fin false 0 0

/-- One. -/
def Ext.one : Ext := .fin false 1 0

/-- The exact value of an integer. -/
def Ext.ofInt (i : Int) : Ext := .fin (i < 0) i.natAbs 0

/-- Is the value a finite zero? -/
def Ext.isZero : Ext → Bool
  | .fin _ m _ => m == 0
  | _ => false

/-- Is the value NaN? -/
def Ext.isNan : Ext → Bool
  | .nan => true
  | _ => false

/-- Is the value finite? -/
def Ext.isFinite : Ext → Bool
  | .fin _ _ _ => true
  | _ => false

/-- The sign of a value (NaN counts as positive). -/
def Ext.sign : Ext → Bool
  | .nan => false
  | .inf n => n
  | .fin n _ _ => n

/-- The value with its sign turned. -/
def Ext.neg : Ext → Ext
  | .nan => .nan
  | .inf n => .inf (!n)
  | .fin n m e => .fin (!n) m e

/-- The magnitude. -/
def Ext.abs : Ext → Ext
  | .nan => .nan
  | .inf _ => .inf false
  | .fin _ m e => .fin false m e

/-- The value times 2^k, exact. -/
def Ext.scale (k : Int) : Ext → Ext
  | .fin n m e => .fin n m (e + k)
  | x => x

/-- `m` × 2^k for k ≥ 0, and the floor of m / 2^−k below. -/
def shiftNat (m : Nat) (k : Int) : Nat :=
  if 0 ≤ k then m <<< k.toNat else m >>> (-k).toNat

/-- The signed integer ± m × 2^(e − base), for base ≤ e. -/
def signedAt (neg : Bool) (m : Nat) (e base : Int) : Int :=
  let v : Int := ((m <<< (e - base).toNat : Nat) : Int)
  if neg then -v else v

/-- Exact sum. Inf − Inf is NaN (R73); a zero sum is −0 only when both terms are −0. -/
def Ext.add : Ext → Ext → Ext
  | .nan, _ => .nan
  | _, .nan => .nan
  | .inf a, .inf b => if a == b then .inf a else .nan
  | .inf a, .fin _ _ _ => .inf a
  | .fin _ _ _, .inf b => .inf b
  | .fin n m e, .fin n' m' e' =>
    let base := min e e'
    let s := signedAt n m e base + signedAt n' m' e' base
    if s = 0 then .fin (n && n' && m == 0 && m' == 0) 0 0
    else .fin (s < 0) s.natAbs base

/-- Exact product. Inf × 0 is NaN (R73). -/
def Ext.mul : Ext → Ext → Ext
  | .nan, _ => .nan
  | _, .nan => .nan
  | .inf a, .inf b => .inf (a != b)
  | .inf a, .fin n m _ => if m = 0 then .nan else .inf (a != n)
  | .fin n m _, .inf b => if m = 0 then .nan else .inf (n != b)
  | .fin n m e, .fin n' m' e' => .fin (n != n') (m * m') (e + e')

/-- Strict order of two values; false when either is NaN. +0 and −0 are equal (R217). -/
def Ext.lt : Ext → Ext → Bool
  | .nan, _ => false
  | _, .nan => false
  | .inf a, .inf b => a && !b
  | .inf a, .fin _ _ _ => a
  | .fin _ _ _, .inf b => !b
  | .fin n m e, .fin n' m' e' =>
    let base := min e e'
    decide (signedAt n m e base < signedAt n' m' e' base)

/-- Equality of values: +0 equals −0, NaN equals nothing (R217). -/
def Ext.eqv (a b : Ext) : Bool := !a.isNan && !b.isNan && !a.lt b && !b.lt a

/-- The larger of two values; NaN if either is NaN, +0 over −0 (R130, R214). -/
def Ext.max2 (a b : Ext) : Ext :=
  if a.isNan || b.isNan then .nan
  else if a.lt b then b
  else if b.lt a then a
  else if a.sign then b else a

/-! ### Rounding onto a grid -/

/-- How a conversion rounds: to nearest with ties to even (R105), or stochastically with the
element's draw (R109). -/
inductive Rounding where
  | nearest
  | stochastic (draw : Nat)
  deriving DecidableEq, Repr

/-- m × 2^e as a count of steps of 2^lsb, rounded (R105, R109). -/
def roundSteps (md : Rounding) (m : Nat) (e lsb : Int) : Nat :=
  if lsb ≤ e then m <<< (e - lsb).toNat
  else
    let k := (lsb - e).toNat
    let t := m >>> k
    let r := m % 2 ^ k
    match md with
    | .nearest =>
      if 2 ^ k < 2 * r then t + 1 else if 2 * r = 2 ^ k ∧ t % 2 = 1 then t + 1 else t
    | .stochastic d =>
      if 2 ^ 32 ≤ (r <<< 32) >>> k + d then t + 1 else t

/-- floor(log2 (m × 2^e)) for m > 0. -/
def floorLog2 (m : Nat) (e : Int) : Int := (Nat.log2 m : Int) + e

/-- A binary floating-point format of R100: exponent and mantissa widths, bias, largest finite value
as `maxM × 2^maxE`, and whether it has Inf. -/
structure FloatFmt where
  ebits : Nat
  mbits : Nat
  bias : Nat
  maxM : Nat
  maxE : Int
  hasInf : Bool
  nanCode : Nat
  deriving DecidableEq, Repr

def fmtFP32 : FloatFmt := ⟨8, 23, 127, 0xFFFFFF, 104, true, 0x7FC00000⟩
def fmtBF16 : FloatFmt := ⟨8, 7, 127, 0xFF, 120, true, 0x7FC0⟩
def fmtFP16 : FloatFmt := ⟨5, 10, 15, 0x7FF, 5, true, 0x7E00⟩
def fmtE4M3 : FloatFmt := ⟨4, 3, 7, 14, 5, false, 0x7F⟩
def fmtE5M2 : FloatFmt := ⟨5, 2, 15, 7, 13, true, 0x7E⟩
def fmtE2M3 : FloatFmt := ⟨2, 3, 1, 15, -1, false, 0⟩
def fmtE3M2 : FloatFmt := ⟨3, 2, 3, 7, 2, false, 0⟩
def fmtE2M1 : FloatFmt := ⟨2, 1, 1, 3, 1, false, 0⟩

/-- Exponent of the smallest subnormal (R100). -/
def FloatFmt.emin (f : FloatFmt) : Int := 1 - (f.bias : Int) - (f.mbits : Int)

/-- Exponent of the last place at magnitude m × 2^e, m > 0; subnormals are kept (R106). -/
def FloatFmt.lsb (f : FloatFmt) (m : Nat) (e : Int) : Int :=
  max f.emin (floorLog2 m e - (f.mbits : Int))

/-- Does the magnitude m × 2^e exceed the largest finite value? -/
def FloatFmt.exceeds (f : FloatFmt) (m : Nat) (e : Int) : Bool :=
  (Ext.fin false f.maxM f.maxE).lt (.fin false m e)

/-- One rounding of an exact value into a format with Inf, or with saturation where it has none
(R105 to R107, R109). Inf into E4M3 becomes NaN's code, handled at encoding. -/
def FloatFmt.round (f : FloatFmt) (md : Rounding) : Ext → Ext
  | .nan => .nan
  | .inf n => .inf n
  | .fin n m e =>
    if m = 0 then .fin n 0 0
    else
      let l := f.lsb m e
      let q := roundSteps md m e l
      if q = 0 then .fin n 0 0
      else if f.exceeds q l then
        match md with
        | .nearest => if f.hasInf then .inf n else .fin n f.maxM f.maxE
        | .stochastic _ => .fin n f.maxM f.maxE
      else .fin n q l

/-- The element code of a value already on the grid of a float format: sign, exponent, mantissa.
E4M3 takes NaN and Inf to 0x7F (R107). -/
def FloatFmt.encode (f : FloatFmt) (x : Ext) : Nat :=
  let signBit (n : Bool) : Nat := if n then 2 ^ (f.ebits + f.mbits) else 0
  match x with
  | .nan => f.nanCode
  | .inf n =>
    if f.hasInf then signBit n + (2 ^ f.ebits - 1) * 2 ^ f.mbits else f.nanCode
  | .fin n m e =>
    if m = 0 then signBit n
    else
      let l := f.lsb m e
      let q := shiftNat m (e - l)
      -- normals: biased exponent from the last place; subnormals have exponent field 0
      if q < 2 ^ f.mbits then signBit n + q
      else signBit n + (l - f.emin + 1).toNat * 2 ^ f.mbits + (q - 2 ^ f.mbits)

/-- The exact value of an element code of a float format (R100). `fullNan` formats give NaN only at
all ones (E4M3); the MX elements without NaN have none. -/
def FloatFmt.decode (f : FloatFmt) (w : Nat) : Ext :=
  let mant := w % 2 ^ f.mbits
  let ex := (w >>> f.mbits) % 2 ^ f.ebits
  let n := bit w (f.ebits + f.mbits)
  if f.hasInf && ex == 2 ^ f.ebits - 1 then (if mant = 0 then .inf n else .nan)
  else if f.nanCode = 0x7F && ex == 2 ^ f.ebits - 1 && mant == 2 ^ f.mbits - 1 then .nan
  else if ex = 0 then .fin n mant f.emin
  else .fin n (2 ^ f.mbits + mant) (f.emin + (ex : Int) - 1)

/-! ### FP32 arithmetic -/

/-- Round to nearest FP32, ties to even. -/
def rn32 (x : Ext) : Ext := fmtFP32.round .nearest x

/-- FP32 sum with one rounding. -/
def addF (a b : Ext) : Ext := rn32 (a.add b)

/-- FP32 product with one rounding. -/
def mulF (a b : Ext) : Ext := rn32 (a.mul b)

/-- a × b + c with one rounding (R130). -/
def fmaF (a b c : Ext) : Ext := rn32 ((a.mul b).add c)

/-- a × h + w × b, both products exact, one rounding (R172). -/
def fma2F (a h w b : Ext) : Ext := rn32 ((a.mul h).add (w.mul b))

/-- An FP32 quotient by a positive count, one rounding (AVG of R214). -/
def divCountF (x : Ext) (c : Nat) : Ext :=
  match x with
  | .fin n m e =>
    if c = 0 then .nan
    else
      -- 64 extra bits and a sticky bit below them
      let big := m <<< 64
      let q := big / c
      let s := if big % c = 0 then 0 else 1
      rn32 (.fin n (2 * q + s) (e - 65))
  | y => y

/-- The FP32 bit pattern of a value on the FP32 grid. -/
def toF32 (x : Ext) : F32 := BitVec.ofNat 32 (fmtFP32.encode x)

/-- The exact value of an FP32 bit pattern. -/
def ofF32 (w : F32) : Ext := fmtFP32.decode w.toNat

/-- Is an exact magnitude inside the FP32 range: not above the largest finite value and with no bit
below the smallest subnormal (R72)? -/
def inRange32 (m : Nat) (e : Int) : Bool :=
  m == 0 || (!fmtFP32.exceeds m e && (decide (-149 ≤ e) || m % 2 ^ (-149 - e).toNat == 0))

/-- A product of R72 step 1: exact, rounded to FP32 only outside the FP32 range. -/
def arrayProduct (a b : Ext) : Ext :=
  match a.mul b with
  | .fin n m e => if inRange32 m e then .fin n m e else rn32 (.fin n m e)
  | x => x

/-- The running sum of R72 step 2, from a first product. -/
def sumFrom : Ext → List Ext → Ext
  | s, [] => s
  | s, p :: ps => sumFrom (addF s p) ps

/-- The sum of one pass (R72); a pass with no product has the sum +0 (R204). -/
def passSum : List Ext → Ext
  | [] => .zero
  | p :: ps => sumFrom p ps

/-- A list cut into pieces of `n`, the last possibly shorter. -/
def chunksOf {α : Type} (n : Nat) : Nat → List α → List (List α)
  | 0, _ => []
  | fuel + 1, l => if l.isEmpty then [] else l.take n :: chunksOf n fuel (l.drop n)

/-- Pieces of `n ≥ 1` elements. -/
def pieces {α : Type} (n : Nat) (l : List α) : List (List α) := chunksOf (max n 1) l.length l

/-- The accumulator over passes: acc = s first, then RN(acc + s) (R72). An empty operator reads +0. -/
def accumulate : List Ext → Ext
  | [] => .zero
  | s :: ss => sumFrom s ss

/-- A dot product split into passes of depth `kp` (R72, R120). -/
def dotPasses (kp : Nat) (products : List Ext) : Ext :=
  accumulate ((pieces kp products).map passSum)

/-- Saturating INT32 accumulation of exact pass sums; a saturated entry stays saturated (R74). -/
def accumulateInt : Option Int → List Int → Int
  | acc, [] => acc.getD 0
  | acc, s :: ss =>
    let v := acc.getD 0 + s
    if 2 ^ 31 - 1 < v then 2 ^ 31 - 1
    else if v < -(2 ^ 31) then -(2 ^ 31)
    else accumulateInt (some v) ss

/-! ### Formats by code (R100) -/

/-- The float element format of a code, for the codes whose elements are floats. -/
def fmtOfCode : Nat → Option FloatFmt
  | 0 => some fmtFP32
  | 1 => some fmtBF16
  | 2 => some fmtFP16
  | 3 => some fmtE4M3
  | 4 => some fmtE5M2
  | 5 => some fmtE4M3
  | 6 => some fmtE5M2
  | 7 => some fmtE2M3
  | 8 => some fmtE3M2
  | 9 => some fmtE2M1
  | _ => none

/-- Bits of one element of a format code. -/
def fmtBits : Nat → Nat
  | 0 => 32
  | 1 => 16
  | 2 => 16
  | 7 => 6
  | 8 => 6
  | 9 => 4
  | 12 => 32
  | 13 => 16
  | _ => 8

/-- Is the code an MX format with an E8M0 scale per 32 elements? -/
def fmtIsMx (c : Nat) : Bool := decide (5 ≤ c ∧ c ≤ 10)

/-- Has the format a scale or exponent plane (R103)? -/
def fmtHasScale (c : Nat) : Bool := fmtIsMx c || c == 13

/-- A signed number of `bits` bits from its two's complement code. -/
def signedOf (bits w : Nat) : Int :=
  if w % 2 ^ bits < 2 ^ (bits - 1) then ((w % 2 ^ bits : Nat) : Int)
  else ((w % 2 ^ bits : Nat) : Int) - 2 ^ bits

/-- The two's complement code of a signed number. -/
def codeOfSigned (bits : Nat) (i : Int) : Nat := (i % (2 ^ bits : Int)).toNat

/-- The value of an element code, before its block scale (R100, R102). -/
def elementValue (c w : Nat) : Ext :=
  match fmtOfCode c with
  | some f => f.decode w
  | none =>
    if c = 10 then (Ext.ofInt (signedOf 8 w)).scale (-6)
    else if c = 11 then Ext.ofInt (signedOf 8 w)
    else if c = 12 then Ext.ofInt (signedOf 32 w)
    else Ext.ofInt (signedOf 16 w)

/-- The value of an element with its block's scale byte, exact (R102, R111). -/
def scaledValue (c w sc : Nat) : Ext :=
  if fmtIsMx c then (if sc = 0xFF then .nan else (elementValue c w).scale ((sc : Int) - 127))
  else if c = 13 then (if sc = 0xFF then .nan else (elementValue c w).scale ((sc : Int) - 141))
  else elementValue c w

/-- The value in FP32 from which every conversion starts (R104): MX values beyond FP32 become ±Inf, INT32 values are
rounded to nearest. The one SB16 value outside FP32, -32,768 at X = 254, becomes -Inf here and stays exact in a state.
[notes/assumptions 185 DESIGN CHOICE, unsafe] -/
def toFP32Value (x : Ext) : Ext := rn32 x

/-- Rounded integer of a finite value, ties to even (R105). -/
def roundInt (x : Ext) : Int :=
  match x with
  | .fin n m e =>
    let q : Int := (roundSteps .nearest m e 0 : Nat)
    if n then -q else q
  | _ => 0

/-- A signed integer limited to a range. -/
def clampInt (lo hi v : Int) : Int := max lo (min hi v)

/-- Code of a value in a scalar format, one rounding (R104 to R107, R109). INT32 comes from the accumulator, always in its
range; the code of any other value is free.
[notes/assumptions 184 DESIGN CHOICE, safe] -/
def encodeScalar (c : Nat) (md : Rounding) (x : Ext) : Nat :=
  match fmtOfCode c with
  | some f => f.encode (f.round md x)
  | none =>
    if c = 11 then
      match x with
      | .nan => 0
      | .inf n => if n then 0x80 else 0x7F
      | y => codeOfSigned 8 (clampInt (-128) 127 (roundInt y))
    else if c = 12 then
      let i := roundInt x
      if x.eqv (Ext.ofInt i) && decide (-2147483648 ≤ i) && decide (i ≤ 2147483647) then codeOfSigned 32 i
      else (Config.int32Code (toF32 x)).toNat
    else codeOfSigned (fmtBits c) (roundInt x)

/-- e_max of R108. -/
def mxEmax : Nat → Int
  | 5 => 8
  | 6 => 15
  | 7 => 2
  | 8 => 4
  | 9 => 2
  | _ => 0

/-- floor(log2 amax) of a block of finite values; none when all are zero. -/
def blockLog2 (vs : List Ext) : Option Int :=
  vs.foldl
    (fun acc v =>
      match v with
      | .fin _ m e =>
        if m = 0 then acc
        else
          match acc with
          | none => some (floorLog2 m e)
          | some a => some (max a (floorLog2 m e))
      | _ => acc)
    none

/-- The code of one scaled element q of an MX block, saturated at the element's largest (R108). -/
def mxElement (c : Nat) (md : Rounding) (q : Ext) : Nat :=
  match fmtOfCode c with
  | some f =>
    let y := f.round md q
    f.encode (match y with
      | .inf n => .fin n f.maxM f.maxE
      | z => z)
  | none =>
    match q with
    | .fin n m e =>
      let t : Int := (roundSteps md m (e + 6) 0 : Nat)
      codeOfSigned 8 (clampInt (-128) 127 (if n then -t else t))
    | _ => 0

/-- A zero element with the sign of its source (R108). -/
def mxZero (c : Nat) (v : Ext) : Nat :=
  match fmtOfCode c with
  | some f => f.encode (.fin v.sign 0 0)
  | none => 0

/-- One MX block: its scale byte and its element codes (R108). `mds` gives each element's
rounding. -/
def encodeMx (c : Nat) (vs : List (Ext × Rounding)) : Nat × List Nat :=
  if vs.any (fun v => !v.1.isFinite) then (0xFF, vs.map (fun _ => 0))
  else
    match blockLog2 (vs.map Prod.fst) with
    | none => (0, vs.map (fun v => mxZero c v.1))
    | some lg =>
      let xs := clampInt (-127) 127 (lg - mxEmax c)
      ((xs + 127).toNat, vs.map (fun v => mxElement c v.2 (v.1.scale (-xs))))

/-! ### SB16 (R111 to R113) -/

/-- The mantissa of a value at exponent byte X, before saturation (R112). -/
def sbMantissa (x : Nat) (v : Ext) : Int := roundInt (v.scale (141 - (x : Int)))

/-- Fresh encoding of a block (R112). -/
def sbFresh (vs : List Ext) : Nat × List Int :=
  if vs.any (fun v => !v.isFinite) then (0xFF, vs.map (fun _ => 0))
  else
    match blockLog2 vs with
    | none => (0, vs.map (fun _ => 0))
    | some lg =>
      let x := (clampInt 0 254 (lg + 130)).toNat
      (x, vs.map (fun v => clampInt (-32767) 32767 (sbMantissa x v)))

/-- Held encoding of a block at its present X (R112). -/
def sbHeld (x : Nat) (vs : List Ext) : Nat × List Int :=
  if x = 0xFF || vs.any (fun v => !v.isFinite) then (0xFF, vs.map (fun _ => 0))
  else (x, vs.map (fun v => clampInt (-32767) 32767 (sbMantissa x v)))

/-- Does a block trip on drift under its held encoding (R113)? -/
def sbTrips (x : Nat) (vs : List Ext) : Bool :=
  if vs.any (fun v => !v.isFinite) then decide (x < 0xFF)
  else if x = 0xFF then false
  else
    let raw := vs.map (sbMantissa x)
    let held := raw.map (clampInt (-32767) 32767)
    let top := maxNat (held.map Int.natAbs)
    raw.any (fun m => decide (32767 < m.natAbs)) ||
      (if top = 0 then vs.any (fun v => !v.isZero) else decide (Nat.log2 top ≤ 7))

/-- One block of a state write: fresh when the whole write renormalises or the block trips, else
held (R113). -/
def sbEncode (renorm : Bool) (x : Nat) (vs : List Ext) : Nat × List Int :=
  if renorm || sbTrips x vs then sbFresh vs else sbHeld x vs

/-! ### Packing (R101) -/

/-- Bytes of `n` packed elements of a format: MXFP6 24 B per 32, MXFP4 two per byte. -/
def packedBytes (c n : Nat) : Nat := ceilDiv (n * fmtBits c) 8

/-- The number whose bit string holds the codes in ascending order. -/
def packCodes (bits : Nat) : List Nat → Nat
  | [] => 0
  | c :: cs => c % 2 ^ bits + 2 ^ bits * packCodes bits cs

/-- Element codes packed into bytes (R101). -/
def packElements (c : Nat) (codes : List Nat) : Bytes :=
  toLe (packedBytes c codes.length) (packCodes (fmtBits c) codes)

/-- Code of element `i` in packed bytes (R101). -/
def codeAt (c : Nat) (bs : Bytes) (i : Nat) : Nat :=
  let b := fmtBits c
  (leAt bs (i * b / 8) ((b + 7) / 8 + 1) >>> (i * b % 8)) % 2 ^ b

end Sys2Proof.Machine
end

