-- ==== Sys2Proof/Machine/GateFunctions.lean ====
section
/-!
DEFINITION. The functions of the gate pipeline (R88, R89), each the FP32 value nearest to the exact
result: integer and fixed-point arithmetic with 480 fraction bits, far beyond the 24 bits of the
result, and one rounding.
-/

namespace Sys2Proof.Machine

/-- Fraction bits of the fixed-point evaluations. -/
def gfBits : Nat := 480

/-- One in fixed point. -/
def gfOne : Nat := 1 <<< gfBits

/-- Terms of Σ z^(2n+1) / (2n+1) from power `p` = z^(2n+1), for the inverse hyperbolic tangent. -/
def atanhTerms : Nat → Nat → Nat → Nat → Nat
  | 0, _, _, _ => 0
  | fuel + 1, z2, p, d => p / d + atanhTerms fuel z2 ((p * z2) >>> gfBits) (d + 2)

/-- atanh z for a fixed-point 0 ≤ z ≤ 1/3. -/
def gfAtanh (z : Nat) : Nat := atanhTerms 160 ((z * z) >>> gfBits) z 1

/-- ln 2 in fixed point: 2 atanh (1/3). -/
def gfLn2 : Nat := 2 * gfAtanh (gfOne / 3)

/-- Terms of the alternating arctangent series of 1/q. -/
def atanTerms : Nat → Nat → Nat → Nat → Int
  | 0, _, _, _ => 0
  | fuel + 1, q2, p, d => ((p / d : Nat) : Int) - atanTerms fuel q2 (p / q2) (d + 2)

/-- arctan (1/q) in fixed point. -/
def gfAtanInv (q : Nat) : Int := atanTerms 260 (q * q) (gfOne / q) 1

/-- π in fixed point (Machin). -/
def gfPi : Nat := (16 * gfAtanInv 5 - 4 * gfAtanInv 239).toNat

/-- Terms of Σ r^n / n! from term `t`. -/
def expTerms : Nat → Nat → Nat → Nat → Nat
  | 0, _, _, _ => 0
  | fuel + 1, r, t, n => t + expTerms fuel r (((t * r) >>> gfBits) / n) (n + 1)

/-- e^x as (E, k) with value E × 2^(k − 480), for |x| < 256 given as a signed fixed-point number. -/
def gfExp (x : Int) : Nat × Int :=
  let k := Int.fdiv x (gfLn2 : Int)
  let r := (x - k * (gfLn2 : Int)).toNat
  (expTerms 140 r gfOne 1, k)

/-- A finite value as a signed fixed-point number. -/
def gfOfFin (neg : Bool) (m : Nat) (e : Int) : Int :=
  let v : Int := (shiftNat m (e + (gfBits : Int)) : Nat)
  if neg then -v else v

/-- Is the magnitude m × 2^e at least 256? -/
def isHuge (m : Nat) (e : Int) : Bool := m != 0 && decide (8 ≤ floorLog2 m e)

/-- A magnitude below every rounding boundary of FP32, used as the result of far underflow. -/
def gfTiny : Ext := .fin false 1 (-400)

/-- EXP of a finite value (R88). -/
def expFin (neg : Bool) (m : Nat) (e : Int) : Ext :=
  if m = 0 then .one
  else if isHuge m e then (if neg then gfTiny else .inf false)
  else
    let r := gfExp (gfOfFin neg m e)
    .fin false (2 * r.1 + 1) (r.2 - (gfBits : Int) - 1)

/-- e^−|x| as (E, k, t) with t the same value in fixed point, |x| < 256. -/
def expNeg (m : Nat) (e : Int) : Nat × Int × Nat :=
  let r := gfExp (gfOfFin true m e)
  (r.1, r.2, shiftNat r.1 r.2)

/-- SIGMOID of a finite value (R88). -/
def sigmoidFin (neg : Bool) (m : Nat) (e : Int) : Ext :=
  if isHuge m e then (if neg then gfTiny else .one)
  else
    let r := expNeg m e
    let den := gfOne + r.2.2
    if neg then .fin false ((r.1 <<< gfBits) / den) (r.2.1 - (gfBits : Int))
    else .fin false ((gfOne <<< gfBits) / den) (-(gfBits : Int))

/-- ln (1 + t) in fixed point for 0 ≤ t ≤ 1. -/
def gfLn1p (t : Nat) : Nat := 2 * gfAtanh ((t <<< gfBits) / (2 * gfOne + t))

/-- SOFTPLUS of a finite value (R88). -/
def softplusFin (neg : Bool) (m : Nat) (e : Int) : Ext :=
  if isHuge m e then (if neg then gfTiny else .fin false m e)
  else
    let l := gfLn1p (expNeg m e).2.2
    if neg then .fin false (2 * l + 1) (-(gfBits : Int) - 1)
    else .fin false ((gfOfFin false m e).toNat + l) (-(gfBits : Int))

/-- TANH of a finite value (R88). Below 2^−30 the nearest FP32 value is the input itself. -/
def tanhFin (neg : Bool) (m : Nat) (e : Int) : Ext :=
  if m = 0 || decide (floorLog2 m e < -30) then .fin neg m e
  else if isHuge m e then .fin neg 1 0
  else if isHuge m (e + 1) then .fin neg (2 ^ 100 - 1) (-100)
  else
    let t := (expNeg m (e + 1)).2.2
    .fin neg (((gfOne - t) <<< gfBits) / (gfOne + t)) (-(gfBits : Int))

/-- LN of a positive finite value (R88): 2 atanh ((m' − 1)/(m' + 1)) + k ln 2 with m' in
[2/3, 4/3]. -/
def lnPos (m : Nat) (e : Int) : Ext :=
  let j := Nat.log2 m
  let up := decide (4 * 2 ^ j < 3 * m)
  let j' := if up then j + 1 else j
  let k : Int := e + (j' : Int)
  let d : Int := (m : Int) - (2 ^ j' : Nat)
  if d = 0 && k == 0 then .zero
  else
    let z := (d.natAbs <<< gfBits) / (m + 2 ^ j')
    let a : Int := (2 * gfAtanh z : Nat)
    let v := (if d < 0 then -a else a) + k * (gfLn2 : Int)
    .fin (v < 0) v.natAbs (-(gfBits : Int))

/-- Integer square root by bits. -/
def isqrtBits : Nat → Nat → Nat → Nat
  | 0, _, r => r
  | b + 1, n, r =>
    let c := r + 2 ^ b
    isqrtBits b n (if c * c ≤ n then c else r)

/-- Integer square root of a number below 2^(2 × 512). -/
def isqrt (n : Nat) : Nat := isqrtBits (Nat.log2 n / 2 + 1) n 0

/-- A value with a sticky bit below it. -/
def withSticky (neg : Bool) (q : Nat) (exact : Bool) (e : Int) : Ext :=
  .fin neg (2 * q + (if exact then 0 else 1)) (e - 1)

/-- SQRT of a positive finite value (R88). -/
def sqrtPos (m : Nat) (e : Int) : Ext :=
  let e2 := e - 128 - (e % 2)
  let big := shiftNat m (e - e2)
  let s := isqrt big
  withSticky false s (s * s == big) (e2 / 2)

/-- RSQRT of a positive finite value (R88). -/
def rsqrtPos (m : Nat) (e : Int) : Ext :=
  let m2 := if e % 2 = 0 then m else 2 * m
  let e2 := e - e % 2
  let s := isqrt ((1 <<< 320) / m2)
  withSticky false s (m2 * s * s == 1 <<< 320) (-160 - e2 / 2)

/-- RECIP of a finite nonzero value (R88). -/
def recipFin (neg : Bool) (m : Nat) (e : Int) : Ext :=
  let q := (1 <<< 160) / m
  withSticky neg q (q * m == 1 <<< 160) (-160 - e)

/-- Terms of the alternating series Σ (−1)^n y2^n / (d (d+1) …) from term `t`, for sine (d = 2) and
cosine (d = 1). -/
def trigTerms : Nat → Nat → Nat → Nat → Int
  | 0, _, _, _ => 0
  | fuel + 1, y2, t, d =>
    (t : Int) - trigTerms fuel y2 (((t * y2) >>> gfBits) / (d * (d + 1))) (d + 2)

/-- y² for y = 2π f / 2^k in fixed point. -/
def trigY2 (f k : Nat) : Nat :=
  let y := (2 * gfPi * f) >>> k
  (y * y) >>> gfBits

/-- sin (2π f / 2^k) for 0 ≤ f ≤ 2^k / 8, with full relative precision. -/
def sinSmall (neg : Bool) (f k : Nat) : Ext :=
  if f = 0 then .fin neg 0 0
  else
    .fin neg (f * (2 * gfPi) * (trigTerms 90 (trigY2 f k) gfOne 2).toNat)
      (-(k : Int) - 2 * (gfBits : Int))

/-- cos (2π f / 2^k) for 0 ≤ f ≤ 2^k / 8. -/
def cosSmall (neg : Bool) (f k : Nat) : Ext :=
  .fin neg (trigTerms 90 (trigY2 f k) gfOne 1).toNat (-(gfBits : Int))

/-- sin (2π f / 2^k) for 0 ≤ f < 2^k, k ≥ 3; a zero result has the sign `zneg`. -/
def sinTurn (neg zneg : Bool) (f k : Nat) : Ext :=
  let half := 2 ^ (k - 1)
  let n := neg != decide (half ≤ f)
  let f1 := f % half
  let f2 := if 2 ^ (k - 2) < f1 then half - f1 else f1
  if f2 = 0 then .fin zneg 0 0
  else if f2 ≤ 2 ^ (k - 3) then sinSmall n f2 k
  else cosSmall n (2 ^ (k - 2) - f2) k

/-- SIN2PI of a finite value (R88): a zero result has the sign of x. -/
def sin2piFin (neg : Bool) (m : Nat) (e : Int) : Ext :=
  if 0 ≤ e then .fin neg 0 0
  else
    let k := (-e).toNat + 3
    sinTurn neg neg ((8 * m) % 2 ^ k) k

/-- COS2PI of a finite value (R88): a zero result is +0. -/
def cos2piFin (m : Nat) (e : Int) : Ext :=
  if 0 ≤ e then .one
  else
    let k := (-e).toNat + 3
    sinTurn false false ((8 * m + 2 ^ (k - 2)) % 2 ^ k) k

/-- SIGMOID with the special cases of R89, rounded. -/
def sigmoidF : Ext → Ext
  | .nan => .nan
  | .inf n => if n then .zero else .one
  | .fin n m e => rn32 (sigmoidFin n m e)

/-- EXP with the special cases of R89, rounded. -/
def expF : Ext → Ext
  | .nan => .nan
  | .inf n => if n then .zero else .inf false
  | .fin n m e => rn32 (expFin n m e)

/-- LN with the special cases of R89, rounded. -/
def lnF : Ext → Ext
  | .nan => .nan
  | .inf n => if n then .nan else .inf false
  | .fin n m e => if m = 0 then .inf true else if n then .nan else rn32 (lnPos m e)

/-- SQRT with the special cases of R89, rounded. -/
def sqrtF : Ext → Ext
  | .nan => .nan
  | .inf n => if n then .nan else .inf false
  | .fin n m e => if m = 0 then .fin n 0 0 else if n then .nan else rn32 (sqrtPos m e)

/-- RSQRT with the special cases of R89, rounded. -/
def rsqrtF : Ext → Ext
  | .nan => .nan
  | .inf n => if n then .nan else .zero
  | .fin n m e => if m = 0 then .inf n else if n then .nan else rn32 (rsqrtPos m e)

/-- RECIP with the special cases of R89, rounded. -/
def recipF : Ext → Ext
  | .nan => .nan
  | .inf n => .fin n 0 0
  | .fin n m e => if m = 0 then .inf n else rn32 (recipFin n m e)

/-- COS2PI with the special cases of R89, rounded. -/
def cos2piF : Ext → Ext
  | .fin _ m e => rn32 (cos2piFin m e)
  | _ => .nan

/-- SIN2PI with the special cases of R89, rounded. -/
def sin2piF : Ext → Ext
  | .fin n m e => rn32 (sin2piFin n m e)
  | _ => .nan

/-- SILU: RN(x × SIGMOID(x)), with −Inf to −0 (R88, R89). -/
def siluF : Ext → Ext
  | .inf n => if n then .fin true 0 0 else .inf false
  | x => mulF x (sigmoidF x)

/-- One function of the list of R88 with the special cases of R89. -/
def gateFunc (func : Nat) (x : Ext) : Ext :=
  match func, x with
  | 0, y => y
  | _, .nan => .nan
  | 1, y => if Ext.zero.lt y then y else .zero
  | 2, y => sigmoidF y
  | 3, y => siluF y
  | 4, .inf n => if n then .zero else .inf false
  | 4, .fin n m e => rn32 (softplusFin n m e)
  | 5, y => expF y
  | 6, .inf n => .fin n 1 0
  | 6, .fin n m e => rn32 (tanhFin n m e)
  | 7, y => lnF y
  | 8, y => sqrtF y
  | 9, y => rsqrtF y
  | 10, y => recipF y
  | 11, y => cos2piF y
  | 12, y => sin2piF y
  | 13, y => y.abs
  | 14, y => mulF y y
  | _, y => y

/-- A gate control word (R87). -/
structure GateWord where
  func : Nat
  pre : Nat
  post : Nat
  draw : Nat
  site : Nat
  sr : Bool
  outFmt : Nat
  reserved : Bool
  deriving DecidableEq, Repr

/-- The fields of a gate control word (R87). -/
def GateWord.ofNat (w : Nat) : GateWord :=
  { func := field w 4 0, pre := field w 6 5, post := field w 8 7, draw := field w 10 9,
    site := field w 25 11, sr := bit w 26, outFmt := field w 30 27, reserved := bit w 31 }

/-- Generator words each row of 64 elements needs (R91). -/
def GateWord.words (g : GateWord) : Nat :=
  (if g.draw = 0 then 0 else if g.draw = 3 then 128 else 64) + (if g.sr then 64 else 0)

/-- The row interval ρ (R92). -/
def GateWord.rho (g : GateWord) : Nat := max 1 (g.words / 64)

/-- Generator words per output element on an engine (R129). -/
def GateWord.elementWords (g : GateWord) : Nat := g.words / 64

/-- PRE of R86: s and b are the column's vectors. -/
def gatePre (g : GateWord) (s b x : Ext) : Ext :=
  match g.pre with
  | 0 => x
  | 1 => mulF x s
  | 2 => addF x b
  | _ => fmaF x s b

/-- POST of R86 with its operand. -/
def gatePost (g : GateWord) (operand x : Ext) : Ext :=
  match g.post with
  | 1 => mulF x operand
  | 2 => addF x operand
  | _ => x

/-- The FP32 value an element has before OUT: POST(FUNC(PRE(x))) (R86). -/
def gateValue (g : GateWord) (s b operand x : Ext) : Ext :=
  gatePost g operand (gateFunc g.func (gatePre g s b x))

end Sys2Proof.Machine
end

