-- ==== Sys2Proof/Machine/ProgramFormat.lean ====
section
/-!
DEFINITION. The program image of R224 to R239 read from its bytes: header, tensors, operators,
problems, attention layers, draw sites and level descriptors; and the model image's tensor entries
of R352.
-/

namespace Sys2Proof.Machine

/-- A level descriptor (R239). -/
structure Level where
  order : Nat
  eP : Nat
  eM : Nat
  eN : Nat
  reserved : Nat
  deriving DecidableEq, Repr

/-- A level descriptor from its 64 bits. -/
def Level.ofNat (w : Nat) : Level :=
  { order := field w 2 0, eP := field w 23 8, eM := field w 43 24, eN := field w 63 44,
    reserved := field w 7 3 }

/-- A tensor descriptor (R227). -/
structure Tensor where
  cls : Nat
  fmt : Nat
  layout : Nat
  home : Nat
  hint : Nat
  cirrus : Bool
  perFuture : Bool
  obsSite : Nat
  rank : Nat
  d0 : Nat
  d1 : Nat
  d2 : Nat
  d3 : Nat
  pitch : Nat
  ref : Nat
  reserved : Bool
  deriving DecidableEq, Repr

/-- A tensor descriptor from its 512 bits. -/
def Tensor.ofNat (w : Nat) : Tensor :=
  { cls := field w 3 0, fmt := field w 7 4, layout := field w 9 8, home := field w 11 10,
    hint := field w 13 12, cirrus := bit w 14, perFuture := bit w 15, obsSite := field w 30 16,
    rank := field w 34 32, d0 := field w 95 64, d1 := field w 127 96, d2 := field w 159 128,
    d3 := field w 191 160, pitch := field w 223 192, ref := field w 255 224,
    reserved := bit w 31 || field w 63 35 != 0 || field w 511 256 != 0 }

/-- Rows of a MATRIX tensor, pixels of an image tensor: the product of the outer dimensions. -/
def Tensor.rows (t : Tensor) : Nat :=
  (if t.rank < 2 then 1 else t.d1) * (if t.rank < 3 then 1 else t.d2) *
    (if t.rank < 4 then 1 else t.d3)

/-- Elements of one slice. -/
def Tensor.elements (t : Tensor) : Nat := t.d0 * t.rows

/-- Bytes of one row in the element plane: MX and SB16 rows are padded to 32 elements (R103). -/
def rowElementBytes (fmt n : Nat) : Nat :=
  packedBytes fmt (if fmtHasScale fmt then alignUp n 32 else n)

/-- Distance between two rows (R200, R227). -/
def Tensor.rowPitch (t : Tensor) : Nat :=
  if t.layout = 0 then t.pitch
  else if t.layout = 1 then 128 * ceilDiv (packedBytes t.fmt t.d0) 128
  else packedBytes t.fmt t.d0

/-- Bytes of a row with the padding of R103, as far as they lie within the row's pitch.
[notes/assumptions 175 DEDUCED, unsafe] -/
def Tensor.rowEnd (t : Tensor) : Nat := min t.rowPitch (rowElementBytes t.fmt t.d0)

/-- Bytes of the element plane of one slice. -/
def Tensor.elementPlane (t : Tensor) : Nat := t.rows * t.rowPitch

/-- Offset of the scale plane: the first 128 B boundary after the element plane (R103). -/
def Tensor.scaleBase (t : Tensor) : Nat := alignUp t.elementPlane 128

/-- Scale bytes of one row. -/
def Tensor.rowScales (t : Tensor) : Nat := if fmtHasScale t.fmt then ceilDiv t.d0 32 else 0

/-- Bytes of one slice, both planes. -/
def Tensor.sliceBytes (t : Tensor) : Nat :=
  if fmtHasScale t.fmt then t.scaleBase + t.rows * t.rowScales else t.elementPlane

/-- Bytes of one slice rounded up to a line. -/
def Tensor.sliceStride (t : Tensor) : Nat := alignUp t.sliceBytes 128

/-- The PE program header (R225). -/
structure Header where
  magic : Nat
  version : Nat
  size : Nat
  crc : Nat
  imageTag : Nat
  nTens : Nat
  nOps : Nat
  nSites : Nat
  nAtt : Nat
  nProb : Nat
  nEdge : Nat
  offTens : Nat
  offOps : Nat
  offProb : Nat
  offEdge : Nat
  offSite : Nat
  offAtt : Nat
  s : Nat
  sObs : Nat
  inputMax : Nat
  recLayers : Nat
  kind : Nat
  c : Nat
  ns : Nat
  g : Nat
  rnN : Nat
  hMax : Nat
  hRes : Nat
  sH : Nat
  deriving DecidableEq, Repr

/-- The header from its 1,024 bits. -/
def Header.ofNat (w : Nat) : Header :=
  { magic := field w 31 0, version := field w 47 32, size := field w 95 64, crc := field w 127 96,
    imageTag := field w 191 128, nTens := field w 207 192, nOps := field w 223 208,
    nSites := field w 239 224, nAtt := field w 255 240, nProb := field w 287 256,
    nEdge := field w 319 288, offTens := field w 351 320, offOps := field w 383 352,
    offProb := field w 415 384, offEdge := field w 447 416, offSite := field w 479 448,
    offAtt := field w 511 480, s := field w 524 512, sObs := field w 529 525,
    inputMax := field w 575 544, recLayers := field w 584 576, kind := field w 586 585,
    c := field w 601 587, ns := field w 610 602, g := field w 617 611, rnN := field w 630 618,
    hMax := field w 658 640, hRes := field w 677 659, sH := field w 690 678 }

/-- An operator descriptor with its body and levels (R230, R231, R239). -/
structure OpDesc where
  cls : Nat
  array : Bool
  double : Bool
  batch : Nat
  phase : Nat
  fmtA : Nat
  fmtW : Nat
  gate : GateWord
  srcA : Nat
  srcW : Nat
  src2 : Nat
  vec : Nat
  dst : Nat
  count : Nat
  depFirst : Nat
  depCount : Nat
  probFirst : Nat
  probCount : Nat
  csA : Nat
  csW : Nat
  csD : Nat
  csV : Nat
  m : Nat
  k : Nat
  n : Nat
  h : Nat
  w : Nat
  kh : Nat
  kw : Nat
  stride : Nat
  dil : Nat
  pt : Nat
  pb : Nat
  pl : Nat
  pr : Nat
  gamma : Nat
  factor : Nat
  dir : Bool
  poolMode : Nat
  ph : Nat
  pw : Nat
  pstr : Nat
  attLayer : Nat
  gq : Nat
  retire : Nat
  recLayer : Nat
  gateZ : Bool
  kTop : Nat
  desc : Bool
  keyFmt : Bool
  idxSrc : Bool
  regions : Nat
  aop : Nat
  grouped : Bool
  l0 : Level
  l1 : Level
  l2 : Level
  l3 : Level
  raw : Nat
  deriving DecidableEq, Repr

/-- An operator descriptor from its 1,024 bits. -/
def OpDesc.ofNat (x : Nat) : OpDesc :=
  { cls := field x 5 0, array := bit x 6, double := bit x 7, batch := field x 9 8,
    phase := field x 11 10, fmtA := field x 19 16, fmtW := field x 23 20,
    gate := GateWord.ofNat (field x 63 32), srcA := field x 79 64, srcW := field x 95 80,
    src2 := field x 111 96, vec := field x 127 112, dst := field x 143 128,
    count := field x 159 144, depFirst := field x 191 160, depCount := field x 207 192,
    probFirst := field x 255 224, probCount := field x 279 256, csA := field x 307 288,
    csW := field x 327 308, csD := field x 347 328, csV := field x 367 348,
    m := field x 403 384, k := field x 423 404, n := field x 443 424,
    h := field x 459 444 + 1, w := field x 475 460 + 1, kh := field x 482 476,
    kw := field x 489 483, stride := field x 491 490, dil := field x 494 492 + 1,
    pt := field x 501 495, pb := field x 508 502, pl := field x 515 509, pr := field x 522 516,
    gamma := field x 525 523, factor := field x 527 526, dir := bit x 528,
    poolMode := field x 530 529, ph := field x 533 531 + 1, pw := field x 536 534 + 1,
    pstr := field x 539 537 + 1, attLayer := field x 551 540, gq := field x 558 552,
    retire := field x 574 559, recLayer := field x 583 575, gateZ := bit x 584,
    kTop := field x 595 585, desc := bit x 596, keyFmt := bit x 597, idxSrc := bit x 598,
    regions := field x 601 599, aop := field x 604 602, grouped := bit x 605,
    l0 := Level.ofNat (field x 831 768), l1 := Level.ofNat (field x 895 832),
    l2 := Level.ofNat (field x 959 896), l3 := Level.ofNat (field x 1023 960), raw := x }

/-- Stride σ of a convolution (R231). -/
def OpDesc.sigma (o : OpDesc) : Nat := 2 ^ o.stride

/-- Space-to-depth factor s (R231). -/
def OpDesc.s2d (o : OpDesc) : Nat := 2 ^ o.factor

/-- Group width γ (R231). -/
def OpDesc.gammaW (o : OpDesc) : Nat := 2 ^ o.gamma

/-- A problem descriptor (R234). -/
structure Problem where
  m : Nat
  k : Nat
  n : Nat
  dyn : Bool
  offA : Nat
  offW : Nat
  offD : Nat
  capO : Nat
  capI : Nat
  reserved : Bool
  deriving DecidableEq, Repr

/-- A problem descriptor from its 256 bits. -/
def Problem.ofNat (w : Nat) : Problem :=
  { m := field w 19 0, k := field w 39 20, n := field w 59 40, dyn := bit w 60,
    offA := field w 103 64, offW := field w 143 104, offD := field w 183 144,
    capO := field w 203 184, capI := field w 223 204,
    reserved := field w 63 61 != 0 || field w 255 224 != 0 }

/-- An attention-layer entry (R236). -/
structure AttLayer where
  lMax : Nat
  hKv : Nat
  dhCode : Nat
  fmt : Nat
  split : Bool
  cP : Nat
  reserved : Bool
  deriving DecidableEq, Repr

/-- An attention-layer entry from its 128 bits. -/
def AttLayer.ofNat (w : Nat) : AttLayer :=
  { lMax := field w 22 0, hKv := field w 29 23, dhCode := field w 31 30, fmt := field w 35 32,
    split := bit w 36, cP := field w 64 48, reserved := field w 47 37 != 0 || field w 127 65 != 0 }

/-- Head dimension. -/
def AttLayer.dh (a : AttLayer) : Nat := 64 * 2 ^ a.dhCode

/-- KV element bytes b (R139). -/
def AttLayer.b (a : AttLayer) : Nat := if a.fmt = 1 then 2 else 1

/-- Page size S_p (R139). -/
def AttLayer.pageBytes (a : AttLayer) : Nat := 32 * a.hKv * a.dh * a.b

/-- Page lines L_p (R139). -/
def AttLayer.pageLines (a : AttLayer) : Nat := a.pageBytes / 128

/-- A draw-site entry (R237). -/
structure SiteEntry where
  site : Nat
  kind : Nat
  reserved : Bool
  deriving DecidableEq, Repr

/-- A draw-site entry from its 32 bits. -/
def SiteEntry.ofNat (w : Nat) : SiteEntry :=
  { site := field w 14 0, kind := field w 17 16, reserved := bit w 15 || field w 31 18 != 0 }

/-- A program: the header and its six tables (R224). Edges are the raw 32-bit entries of R237. -/
structure Program where
  hdr : Header
  tensors : List Tensor
  ops : List OpDesc
  problems : List Problem
  edges : List Nat
  sites : List SiteEntry
  att : List AttLayer
  deriving DecidableEq, Repr

/-- `n` records of `size` bytes from offset `off`. -/
def records {α : Type} (f : Nat → α) (bs : Bytes) (off size n : Nat) : List α :=
  (List.range n).map (fun i => f (leAt bs (off + i * size) size))

/-- The program a byte string holds (R224 to R239). -/
def Program.ofBytes (bs : Bytes) : Program :=
  let h := Header.ofNat (leAt bs 0 128)
  { hdr := h
    tensors := records Tensor.ofNat bs h.offTens 64 h.nTens
    ops := records OpDesc.ofNat bs h.offOps 128 h.nOps
    problems := records Problem.ofNat bs h.offProb 32 h.nProb
    edges := records id bs h.offEdge 4 h.nEdge
    sites := records SiteEntry.ofNat bs h.offSite 4 h.nSites
    att := records AttLayer.ofNat bs h.offAtt 16 h.nAtt }

/-- A tensor entry of a model image (R352). -/
structure ImageEntry where
  fmt : Nat
  layout : Nat
  rank : Nat
  stackMask : Nat
  streamed : Bool
  d0 : Nat
  d1 : Nat
  d2 : Nat
  d3 : Nat
  pitch : Nat
  offset : Nat
  reserved : Bool
  deriving DecidableEq, Repr

/-- A tensor entry from its 256 bits. -/
def ImageEntry.ofNat (w : Nat) : ImageEntry :=
  { fmt := field w 3 0, layout := field w 5 4, rank := field w 8 6, stackMask := field w 27 16,
    streamed := bit w 28, d0 := field w 63 32, d1 := field w 95 64, d2 := field w 127 96,
    d3 := field w 159 128, pitch := field w 191 160, offset := field w 255 192,
    reserved := field w 15 9 != 0 || field w 31 29 != 0 }

/-- The tensor an image entry describes. -/
def ImageEntry.tensor (e : ImageEntry) : Tensor :=
  { cls := 0, fmt := e.fmt, layout := e.layout, home := 1, hint := 0, cirrus := false,
    perFuture := false, obsSite := 0, rank := e.rank, d0 := e.d0, d1 := e.d1, d2 := e.d2,
    d3 := e.d3, pitch := e.pitch, ref := 0, reserved := false }

/-- Extent of the outermost dimension, by which a mask splits a tensor (R259).
[notes/assumptions 23 DEDUCED, unsafe] -/
def ImageEntry.outer (e : ImageEntry) : Nat :=
  if e.rank ≤ 1 then e.d0 else if e.rank = 2 then e.d1 else if e.rank = 3 then e.d2 else e.d3

/-- Rows of one step of the outermost dimension of a tensor of RANK 2 or more.
[notes/assumptions 23 DEDUCED, unsafe] -/
def ImageEntry.perOuter (e : ImageEntry) : Nat := max (e.tensor.rows / max e.outer 1) 1

/-- Where `cols` steps of the outermost dimension from `col0` lie in a tensor: offset and bytes in the element
plane, offset and bytes in the scale plane (R103, R227). A tensor of RANK 1 is split inside its one row. -/
def ImageEntry.planes (e : ImageEntry) (col0 cols : Nat) : (Nat × Nat) × (Nat × Nat) :=
  let t := e.tensor
  if e.rank ≤ 1 then
    let lo := col0 * fmtBits t.fmt / 8
    let hi := if e.d0 ≤ col0 + cols then t.rowPitch else rowElementBytes t.fmt (col0 + cols)
    ((lo, hi - lo), (col0 / 32, if fmtHasScale t.fmt then ceilDiv (col0 + cols) 32 - col0 / 32 else 0))
  else
    let row0 := col0 * e.perOuter
    let rows := cols * e.perOuter
    ((row0 * t.rowPitch, rows * t.rowPitch),
     (row0 * t.rowScales, if fmtHasScale t.fmt then rows * t.rowScales else 0))

/-- Bytes of a placed slice: the element plane from a line boundary, then the scale plane (R123). -/
def ImageEntry.sliceBytesOf (e : ImageEntry) (col0 cols : Nat) : Nat :=
  let p := e.planes col0 cols
  alignUp p.1.2 128 + p.2.2

/-- Tensor by handle. -/
def Program.tensor? (p : Program) (h : Nat) : Option Tensor := p.tensors[h]?

/-- The edges of an operator as predecessor indexes (R237). -/
def Program.preds (p : Program) (o : OpDesc) : List Nat :=
  ((p.edges.drop o.depFirst).take o.depCount).map (fun e => e % 65536)

/-- The two phases of a round (R226). -/
inductive Phase where
  | observed
  | imagined
  deriving DecidableEq, Repr

/-- Is an operator active in a phase (R230 PHASE)? -/
def OpDesc.active (o : OpDesc) : Phase → Bool
  | .observed => o.phase != 2
  | .imagined => o.phase != 1

/-- CAP of a problem in a phase (R234). -/
def Problem.cap (q : Problem) : Phase → Nat
  | .observed => q.capO
  | .imagined => q.capI

/-- The problems of an operator, one shaped by the body when PROB_COUNT is 0 (R230). -/
def Program.problemsOf (p : Program) (o : OpDesc) : List Problem :=
  if o.probCount = 0 then
    [{ m := o.m, k := o.k, n := o.n, dyn := false, offA := 0, offW := 0, offD := 0, capO := 0,
       capI := 0, reserved := false }]
  else (p.problems.drop o.probFirst).take o.probCount

/-- Output height of a convolution (R203); 0 when the shape gives none. -/
def convOut (size padLo padHi dil k stride : Nat) : Nat :=
  let eff := dil * (k - 1) + 1
  if size + padLo + padHi < eff then 0 else (size + padLo + padHi - eff) / stride + 1

/-- H_o of a convolution. -/
def OpDesc.hOut (o : OpDesc) : Nat := convOut o.h o.pt o.pb o.dil o.kh o.sigma

/-- W_o of a convolution. -/
def OpDesc.wOut (o : OpDesc) : Nat := convOut o.w o.pl o.pr o.dil o.kw o.sigma

/-- The path of a convolution (R209). -/
inductive ConvPath where
  | direct
  | grouped
  | frequency
  | pieces (size : Nat)
  deriving DecidableEq, Repr

/-- The path R209 selects. A filter is eligible for the frequency domain with one group, stride 1,
dilation 1 and BF16 formats. -/
def OpDesc.convPath (o : OpDesc) : ConvPath :=
  let big := max o.kh o.kw
  let eligible := !o.grouped && o.stride == 0 && o.dil == 1 && o.fmtA == 1 && o.fmtW == 1
  if big ≤ 7 then (if o.grouped then .grouped else .direct)
  else if big = 8 then .pieces 7
  else if big ≤ 31 then (if eligible then .frequency else .pieces 7)
  else if eligible then .pieces 31
  else .pieces 7

/-- Output height of a pooling window, with zero padding on both sides (R214).
[notes/assumptions 214 DESIGN CHOICE, unsafe] -/
def poolOut (size pad win stride : Nat) : Nat := convOut size pad pad 1 win stride

/-- Rows and columns of the output an operator writes per problem or image: pixels and channels for
the image operators. -/
def OpDesc.imageOut (o : OpDesc) : Nat × Nat :=
  match o.cls with
  | 4 => (o.hOut * o.wOut, o.n)
  | 5 =>
    if o.dir then (o.h * o.s2d * (o.w * o.s2d), o.k / (o.s2d * o.s2d))
    else (o.h / o.s2d * (o.w / o.s2d), o.k * o.s2d * o.s2d)
  | _ =>
    if 2 ≤ o.poolMode then (1, o.k)
    else (poolOut o.h o.pt o.ph o.pstr * poolOut o.w o.pl o.pw o.pstr, o.k)

/-- The operators whose tiles are image tiles: CONV, REGROUP, POOL. -/
def OpDesc.isImage (o : OpDesc) : Bool := o.cls == 4 || o.cls == 5 || o.cls == 6

end Sys2Proof.Machine
end

