-- ==== Sys2Proof/Machine/JobTypes.lean ====
section
/-!
DEFINITION. What the device keeps of images, jobs, futures, streams, pages and rounds, as plain data.
-/

namespace Sys2Proof.Machine

/-- Completion codes of R15. -/
inductive Code where
  | ok
  | okPartial
  | late
  | rejectedFormat
  | notOwner
  | noRoom
  | notSchedulable
  | aborted
  | dataLost
  | quota
  | linePoisoned
  | fencedCapacity
  | tierFailed
  | postedWriteFailed
  | streamDetached
  | parallaxUnresolved
  | internal
  deriving DecidableEq, Repr

/-- The value of a completion code (R15). -/
def Code.toNat : Code → Nat
  | .ok => 0x00
  | .okPartial => 0x01
  | .late => 0x02
  | .rejectedFormat => 0x10
  | .noRoom => 0x11
  | .notSchedulable => 0x12
  | .quota => 0x13
  | .notOwner => 0x14
  | .linePoisoned => 0x20
  | .dataLost => 0x21
  | .tierFailed => 0x22
  | .parallaxUnresolved => 0x23
  | .streamDetached => 0x24
  | .aborted => 0x25
  | .fencedCapacity => 0x26
  | .postedWriteFailed => 0x30
  | .internal => 0x3F

/-- The stall causes of R16, in the order of R382. -/
inductive Stall where
  | stateRecall
  | tierLate
  | laneRetrain
  | regulator
  | parallaxRerun
  | fenceReissue
  deriving DecidableEq, Repr

/-- A placed range of a weight tensor: columns (outermost index) `col0` up to `col0 + cols` in one
stack from a line address (R259). -/
structure WeightSlice where
  stack : Nat
  la : Nat
  lines : Nat
  col0 : Nat
  cols : Nat
  lost : Bool := false
  deriving DecidableEq, Repr

/-- A model image (R258 to R261, R352). -/
structure Image where
  number : Nat
  generation : Nat
  part : Nat
  nTens : Nat
  dataBytes : Nat
  entries : List ImageEntry
  received : Nat
  loc : Nat
  units : Nat
  placed : Bool
  slices : List (List WeightSlice)
  restoring : Bool := false
  ended : Bool := false
  deriving DecidableEq, Repr

/-- Where a tensor of a job lives: its buffers, two for CARRY and OUTPUT, which of them is committed (R257),
and whether its home was lost (R273). -/
structure TensorHome where
  space : Space
  base : Nat
  bufBytes : Nat
  bufs : Nat := 2
  current : Nat := 0
  lost : Bool := false
  deriving DecidableEq, Repr

/-- Bytes of all buffers of a home. -/
def TensorHome.bytes (h : TensorHome) : Nat := h.bufs * h.bufBytes

/-- A window of a guaranteed grant on one stack, in mcyc of each tick (R125). -/
structure StackWindow where
  stack : Nat
  length : Nat
  deriving DecidableEq, Repr

/-- A window of a guaranteed job's sort on a sorter (R222): from which instant of each tick, in tns after its start, and how
many ccyc. -/
structure SortWindow where
  region : Nat
  offset : Tns
  length : Nat
  deriving DecidableEq, Repr

/-- A grant (R262).
[notes/assumptions 136 DEDUCED, unsafe] -/
structure Grant where
  cells : List Nat := []
  home : Nat := 0
  windows : List StackWindow := []
  slots : List (Nat × Nat) := []
  sorters : List Nat := []
  sortWindows : List SortWindow := []
  ports : List Nat := []
  deriving DecidableEq, Repr

/-- The four counts of a bound (R61). -/
structure Counts where
  cc : Nat := 0
  cm : Nat := 0
  cf : Nat := 0
  ci : Nat := 0
  deriving DecidableEq, Repr

/-- The batch parameters SUBMIT fixes (R18, R354). -/
structure Batch where
  guaranteed : Bool
  o : Nat
  fMax : Nat
  forkBudget : Nat
  cReq : Nat
  rounds : Nat
  seed : Nat
  partialOk : Bool := false
  deriving DecidableEq, Repr

/-- The pages of one attention layer of one future: the page list in window order and the window
length W_s (R142). -/
structure KvList where
  pages : List Nat := []
  win : Nat := 0
  deriving DecidableEq, Repr

/-- A live future (R22, R24). -/
structure Future where
  id : Nat
  seed : Nat
  step : Nat
  observed : Bool
  slot : Nat
  kv : List KvList
  deriving DecidableEq, Repr

/-- Where a state is (R175 LOC). -/
inductive Loc where
  | none
  | resident
  | evicting
  | evicted
  | recalling
  | lost
  deriving DecidableEq, Repr

/-- A stream-table entry (R175). `queue` is the stream's part of the chunk queue by tag; `freeEntry`
tells that STREAM_END asked for the entry. -/
structure StreamEntry where
  host : Bool
  part : Nat
  job : Nat
  id : Nat
  loc : Loc := .none
  reset : Bool := false
  pause : Bool := false
  ended : Bool := false
  savePend : Bool := false
  detach : Bool := false
  step : Nat := 0
  rnCnt : Nat := 0
  rnN : Nat := 64
  dir : Option Nat := Option.none
  qLen : Nat := 0
  lastTick : Nat := 0
  seed : Nat := 0
  slot : Nat := 0
  deriving DecidableEq, Repr

/-- A state-object descriptor (R176). -/
structure StateObj where
  ref : Nat := 0
  loc : Loc := .none
  stack : Nat := 0
  part : Nat := 0
  lines : Nat := 0
  addr : Nat := 0
  deriving DecidableEq, Repr

/-- Where a state directory block lies (R175 DIR). -/
structure DirHome where
  stack : Nat
  la : Nat
  lines : Nat
  deriving DecidableEq, Repr

/-- The states of a page frame (R143). -/
inductive PageState where
  | free
  | resident
  | spilling
  | spilled
  | lost
  deriving DecidableEq, Repr

/-- A page-frame entry (R143). -/
structure PageFrame where
  ref : Nat := 0
  fill : Nat := 0
  state : PageState := .free
  stack : Nat := 0
  part : Nat := 0
  lines : Nat := 0
  loc : Nat := 0
  deriving DecidableEq, Repr

/-- One part of a round: a future or a host stream (R278). -/
structure PartId where
  host : Bool
  id : Nat
  deriving DecidableEq, Repr

/-- A failure noted in a round: whom it touches (none: every part), its code, the time it reached
the IO die and the part-mask bit (R277 to R279). -/
structure Failure where
  who : Option PartId
  code : Code
  time : Tns
  maskBit : Nat
  deriving DecidableEq, Repr

/-- The executions of one sampled item and what each wrote (R448 to R451): the unit and, once read,
the checksum. Units are cell numbers, or stack × 16 + engine. -/
structure Vote where
  item : Nat
  orig : Nat
  origSum : Option Nat := Option.none
  dup : Option Nat := Option.none
  dupSum : Option Nat := Option.none
  third : Option Nat := Option.none
  thirdSum : Option Nat := Option.none
  bytes : List Host.Cell := []
  needThird : Bool := false
  deriving DecidableEq, Repr

/-- The number of a stall cause in the order of R382. -/
def Stall.index : Stall → Nat
  | .stateRecall => 0
  | .tierLate => 1
  | .laneRetrain => 2
  | .regulator => 3
  | .parallaxRerun => 4
  | .fenceReissue => 5

/-- The tile range of one region and its re-issue list (R242, R244). -/
structure TileRange where
  region : Nat
  next : Nat
  last : Nat
  reissue : List Nat := []
  deriving DecidableEq, Repr

/-- A Cirrus slice: its number in the instance, its stack and engine, the problem and the columns it computes, the
number of its K range or of its work item, whether its operation writes its result (the last range of K does), and whether it is done (R121, R122, R132,
R135). -/
structure Slice where
  item : Nat
  stack : Nat
  engine : Nat
  cost : Nat
  prob : Nat := 0
  col0 : Nat := 0
  cols : Nat := 0
  range : Nat := 0
  writes : Bool := true
  done : Bool := false
  deriving DecidableEq, Repr

/-- A sorter's part of a top-k operator: region, keys left, entries held, whether its own slice or the merge is
finished (R219, R220), and whether its held register was saved to make room for another job (R222). -/
structure SortPart where
  region : Nat
  first : Nat
  count : Nat
  taken : Nat := 0
  held : List (BitVec 32 × Nat) := []
  merged : Nat := 0
  done : Bool := false
  saved : Bool := false
  deriving DecidableEq, Repr

/-- State of an operator instance in a step. -/
inductive InstState where
  | waiting
  | running
  | done
  deriving DecidableEq, Repr

/-- The unit kinds of R238 and R252. -/
inductive UnitKind where
  | cells
  | cirrus
  | sorter
  | atomic
  | append
  deriving DecidableEq, Repr

/-- One operator instance of the present step; `stage` counts the stages of an expanded convolution
(R211, R213), `started` when it started and `stalled` the stalls its round had counted by then (R269), `left` the items
not yet complete, `phi` the sampling phase (R446), `counts` the run-time row
counts it read (R235), `flips` what the standing executions of its items got wrong. -/
structure Inst where
  op : Nat
  state : InstState := .waiting
  kind : UnitKind
  stage : Nat := 0
  started : Tns := 0
  stalled : Nat := 0
  left : Nat := 0
  total : Nat := 0
  ranges : List TileRange := []
  slices : List Slice := []
  sorts : List SortPart := []
  phi : Nat := 0
  votes : List Vote := []
  counts : Option (List Int) := none
  flips : List (Nat × List (Nat × Byte)) := []
  deriving DecidableEq, Repr

/-- A member of a step: who it is, the seed and the step being computed, its tensor slot, and the
frame or token it consumes (R21, R33, R179). -/
structure Member where
  who : PartId
  seed : Nat
  step : Nat
  slot : Nat
  frame : Option Bytes
  deriving DecidableEq, Repr

/-- A command whose response waits for the round: tag, sequence number, opcode and the part whose
code it carries (R356, R359, R181). -/
structure RoundCmd where
  tag : Nat
  seq : Nat
  opcode : Nat
  posted : Bool
  who : Option PartId
  slipped : Nat := 0
  deriving DecidableEq, Repr

/-- An INPUT frame taken at a cut and not yet consumed by its future (R25). -/
structure FrameIn where
  future : Nat
  tag : Nat
  seq : Nat
  urgent : Bool
  posted : Bool
  bytes : Bytes
  deriving DecidableEq, Repr

/-- A child entry of a FORK (R359). -/
structure ChildEntry where
  parent : Nat
  child : Nat
  seed : Option Nat
  deriving DecidableEq, Repr

/-- A FORK that belongs to a tick and waits for step 3 of a round (R26, R30). -/
structure ForkIn where
  tag : Nat
  seq : Nat
  urgent : Bool
  children : List ChildEntry
  prunes : List Nat
  deriving DecidableEq, Repr

/-- A STREAM_CHUNK in the chunk queue (R181): `used` tokens already consumed, `out` the outputs its
steps have given so far. -/
structure Chunk where
  job : Nat
  stream : Nat
  tag : Nat
  seq : Nat
  posted : Bool
  tokens : List Bytes
  used : Nat := 0
  reset : Bool
  newSeed : Option Nat
  out : Bytes := []
  slipped : Nat := 0
  deriving DecidableEq, Repr

/-- A round (R20, R25). `stage` is the overlay of staged bytes at the addresses that become homes
(R257); `futures`, `streams`, `frames` and `dirs` are the staged tables. `chunks` are the chunks with a token in the round, `resets` the tokens that reset a
stream, with their seeds, `fresh` and `renorm` the members of the step that start from zero state or renormalise
(R113, R183), `forkCount` the FORKs that belong to the round, `forked`, `forkedStreams`, `forkDirs` and `forkCells` what
the children took at the fork (R29), `ran` the cells that ran tiles of it (R454), `waiting` the waits that last, the one
raised first at the head, with the streams they count for, and `mark` the instant up to which its waits are counted
(R16); `lost` holds the part-mask bits of what it touched that was lost after its decision (R57), `fenced` that a unit of its grant left
service while it ran (R269), `dupUsed` the cycles its duplicates took (R97), `copied` the end of the page copies before the
present step's first operator (R149), `inStep` whether a step has begun and not ended (R226), `forkCopies` the pages its FORKs have
copied for that batch (R150), and `gone` the tensor slots of host streams whose entries were freed while it ran (R185). -/
structure Round where
  number : Nat
  due : Nat
  phase : Phase
  step : Nat
  obsSteps : Nat
  members : List Member := []
  frames : List (Nat × List Bytes) := []
  tokens : List (Nat × List Bytes) := []
  insts : List Inst := []
  stage : List Host.Cell := []
  futures : List Future := []
  streams : List StreamEntry := []
  pageFrames : List (Nat × PageFrame) := []
  dirs : List (Nat × List Nat) := []
  newPages : List Nat := []
  newObjs : List Nat := []
  childrenApplied : Nat := 0
  cmds : List RoundCmd := []
  forks : List RoundCmd := []
  failures : List Failure := []
  stalls : List Nat := [0, 0, 0, 0, 0, 0]
  ready : Bool := false
  readyAt : Tns := 0
  decided : Bool := false
  closing : List Nat := []
  cells : List Nat := []
  lateNoticed : Bool := false
  chunks : List Chunk := []
  resets : List (Nat × Nat × Option Nat) := []
  fresh : List Nat := []
  renorm : List Nat := []
  forkCount : Nat := 0
  forked : List Future := []
  forkedStreams : List StreamEntry := []
  forkDirs : List (Nat × List Nat) := []
  forkCells : List (Nat × List Host.Cell) := []
  ran : List Nat := []
  waiting : List (Stall × Tns × List Nat) := []
  mark : Tns := 0
  lost : List Nat := []
  fenced : Bool := false
  dupUsed : Nat := 0
  copied : Tns := 0
  inStep : Bool := false
  forkCopies : List Nat := []
  gone : List Nat := []
  deriving DecidableEq, Repr

/-- The counters of a job (R382): the EVENT and ACCUM values in the order of its window. -/
structure JobCounters where
  ok : Nat := 0
  late : Nat := 0
  failed : Nat := 0
  missed : Nat := 0
  cellBusy : Nat := 0
  cirrusBusy : Nat := 0
  sorterBusy : Nat := 0
  dupC : Nat := 0
  dupM : Nat := 0
  lost : Nat := 0
  stalls : List Nat := [0, 0, 0, 0, 0, 0]
  deriving DecidableEq, Repr

/-- The counters of a stream (R383), and when its entry was freed (R384). -/
structure StreamCounters where
  steps : Nat := 0
  slipped : Nat := 0
  stalls : List Nat := [0, 0, 0, 0, 0, 0]
  freedAt : Option Tns := none
  deriving DecidableEq, Repr

/-- Where a job stands. -/
inductive JobState where
  | bound
  | admitted
  | ended
  deriving DecidableEq, Repr

/-- The home of one attention layer (R152, R154, R155); `lost` for a spilled layer whose recall buffer was
lost and has no new one (R167). -/
structure KvHome where
  homeStacks : List Nat
  spilled : Bool := false
  recallBase : Nat := 0
  lost : Bool := false
  deriving DecidableEq, Repr

/-- A job (R17, R18). `slotLoss` counts the line slots per mcyc of each stack that its grant has lost with fenced channels
(R274). -/
structure Job where
  id : Nat
  part : Nat
  imageNo : Nat
  prog : Program
  handle : Nat
  orderDep : Bool
  pendingProg : Option (Program × Nat) := Option.none
  state : JobState := .bound
  batch : Batch := ⟨false, 1, 2, 0, 0, 0, 0, false⟩
  submitTag : Nat := 0
  submitSeq : Nat := 0
  admitOrder : Nat := 0
  firstTick : Nat := 0
  grant : Grant := {}
  counts : Counts := {}
  boundPs : Nat := 0
  homes : List (Option TensorHome) := []
  kvHomes : List KvHome := []
  recHomes : List Nat := []
  demand : List (Nat × Nat) := []
  slotLoss : List (Nat × Nat) := []
  kvBytes : Nat := 0
  pageDemand : Nat := 0
  stateBytes : Nat := 0
  spillBytes : Nat := 0
  entries : Nat := 0
  streamBuf : Option (Nat × Nat) := Option.none
  futures : List Future := []
  backlog : List FrameIn := []
  forksIn : List ForkIn := []
  nextRound : Nat := 1
  round : Option Round := Option.none
  readmit : Bool := false
  endAfter : Option Code := Option.none
  endCode : Code := .ok
  endedAt : Tns := 0
  lastTick : Nat := 0
  committed : Nat := 0
  shareUse : List Nat := [0, 0, 0]
  counters : JobCounters := {}
  streamCounters : List (Nat × StreamCounters) := []
  deriving DecidableEq, Repr

end Sys2Proof.Machine
end

