-- ==== Sys2Proof/Machine/Cycles.lean ====
section
/-!
DEFINITION. Tiles and their exact cycle counts: operand pairs and fills (R70, R75, R119), problems of
an instance (R234, R235), tiles in visit order (R240), tile cycles of every class (R85, R90, R92,
R160, R198, R202, R206, R208, R212, R215), engine operations (R129, R133, R197), and the sorter's
passes (R219, R220).
-/

namespace Sys2Proof.Machine

/-! ### Format pairs -/

/-- K_p of an operand pair on the array; none for a pair the array does not accept (R70). -/
def arrayDepth (a w : Nat) : Option Nat :=
  if (a == 3 || a == 4) && (w == 3 || w == 4) then some 128
  else if (a == 5 || a == 6) && (w == 5 || w == 6) then some 128
  else if a == 10 && w == 10 then some 128
  else if a == 11 && w == 11 then some 128
  else if (a == 5 || a == 6) && (w == 7 || w == 8 || w == 9) then some 128
  else if (a == 7 || a == 8 || a == 9) && (w == 7 || w == 8 || w == 9) then some 256
  else if a == 1 && w == 1 then some 64
  else if a == 2 && w == 2 then some 64
  else none

/-- Bytes of a stationary image (R75).
[notes/assumptions 30 DEDUCED, unsafe] -/
def imageBytes (w : Nat) : Nat :=
  if w = 5 || w = 6 || w = 10 then 8448
  else if w = 7 || w = 8 then 12800
  else if w = 9 then 8704
  else 8192

/-- Fill time F of a stationary image in ccyc (R75).
[notes/assumptions 30 DEDUCED, unsafe] -/
def fillTime (w : Nat) : Nat := ceilDiv (imageBytes w) 256

/-- Pass depth K_c of a weight format on the engines; none when they do not accept it (R119). -/
def engineDepth (w : Nat) : Option Nat :=
  if w = 7 || w = 8 || w = 9 then some 256
  else if w = 3 || w = 4 || w = 5 || w = 6 || w = 10 then some 128
  else if w = 1 || w = 2 then some 64
  else none

/-- Activation formats the engines accept (R119). -/
def engineActivation (a : Nat) : Bool := a == 0 || a == 1 || a == 2 || a == 3 || a == 4

/-- Lines of one run of 4,096 weights with its scales (R119). -/
def runLines (w : Nat) : Nat :=
  if w = 9 then 17
  else if w = 7 || w = 8 then 25
  else if w = 5 || w = 6 || w = 10 then 33
  else if w = 3 || w = 4 then 32
  else 64

/-- Compute time of a run per activation row in mcyc (R119). -/
def runCompute (w : Nat) : Nat :=
  if w = 7 || w = 8 || w = 9 then 4
  else if w = 1 || w = 2 then 16
  else 8

/-- Multiply-accumulates per mcyc for a KV format (R119, R133). -/
def kvMacs (f : Nat) : Nat := if f = 1 then 256 else 512

/-! ### Instances -/

/-- One problem of an instance: rows, reduction, columns, offsets, and the member it belongs to when
the list repeats per member. `rpm` is the rows of one member under BATCH ROWS, 0 otherwise. -/
structure IProb where
  rows : Nat
  k : Nat
  n : Nat
  offA : Nat
  offW : Nat
  offD : Nat
  member : Option Nat
  rpm : Nat
  head : Nat := 0
  deriving DecidableEq, Repr

/-- Member of a problem's row: under BATCH ROWS the row's own, else the problem's (R230). -/
def IProb.memberOf (q : IProb) (row : Nat) : Nat :=
  if q.rpm = 0 then q.member.getD 0 else row / q.rpm

/-- Byte offset of the first stationary image of a problem of a convolution: its OFF_W (R205, R234).
[notes/assumptions 177 DESIGN CHOICE, unsafe] -/
def imageBase (t : Tensor) (offW : Nat) : Nat :=
  offW / max t.d0 1 * t.rowPitch + packedBytes t.fmt (offW % max t.d0 1)

/-- Rows of a problem before batching: CAP for DYN in the bound, COUNT at run time (R235). -/
def problemRows (counts : Option (List Int)) (ph : Phase) (i : Nat) (q : Problem) : Nat :=
  if q.dyn then
    match counts with
    | none => q.cap ph
    | some cs => min (cs.getD i 0).toNat (q.cap ph)
  else q.m

/-- The problems of an operator instance with `nb` members (R230 BATCH, R235, R156). `counts` are
the run-time row counts, none for the bound. -/
def instProblems (p : Program) (o : OpDesc) (ph : Phase) (nb : Nat) (counts : Option (List Int)) :
    List IProb :=
  if o.cls = 1 then
    let a := p.att.getD o.attLayer (AttLayer.ofNat 0)
    (List.range nb).flatMap (fun mem => (List.range a.hKv).map (fun h =>
      { rows := o.m * o.gq, k := a.dh, n := a.dh, offA := 0, offW := 0, offD := 0,
        member := some mem, rpm := 0, head := h }))
  else
    let qs := (p.problemsOf o).zipIdx
    let base (rowsOf : Nat → Nat) (mem : Option Nat) (rpmOf : Nat → Nat) : List IProb :=
      qs.map (fun q =>
        let r := if !o.isImage then problemRows counts ph q.2 q.1
          else if o.probCount = 0 then o.imageOut.1 else min (problemRows counts ph q.2 q.1) o.imageOut.1
        let cols :=
          if o.cls = 3 then p.hdr.c
          else if o.isImage && o.probCount == 0 then o.imageOut.2 else q.1.n
        { rows := rowsOf r, k := if o.cls = 3 then p.hdr.ns else q.1.k, n := cols, offA := q.1.offA,
          offW := q.1.offW, offD := q.1.offD, member := mem, rpm := rpmOf r })
    if o.batch = 0 then base (fun r => r) none (fun _ => 0)
    else if o.batch = 1 && !o.isImage then base (fun r => r * nb) none (fun r => r)
    else (List.range nb).flatMap (fun mem => base (fun r => r) (some mem) (fun _ => 0))

/-- The stated row count that selects the unit (R233). -/
def statedRows (p : Program) (o : OpDesc) (ph : Phase) (nb : Nat) : Nat :=
  if o.cls = 1 then o.m * o.gq
  else
    maxNat ((p.problemsOf o).map (fun q =>
      let r := if q.dyn then q.cap ph else q.m
      if o.batch = 1 then r * nb else r))

/-- The unit an instantiation runs on (R71, R118, R156, R232, R233). -/
def unitOf (p : Program) (o : OpDesc) (ph : Phase) (nb : Nat) : UnitKind :=
  if o.cls = 2 then .append
  else if o.cls = 8 then .sorter
  else if o.cls = 9 then .atomic
  else if (o.cls = 0 || o.cls = 1 || o.cls = 3) && !o.array && decide (statedRows p o ph nb < 16)
  then .cirrus
  else .cells

/-! ### Tiles in visit order (R239, R240) -/

/-- A tile: problem, first row, rows, first column, columns, and its level-2 tile. -/
structure Tile where
  prob : Nat
  row0 : Nat
  rows : Nat
  col0 : Nat
  cols : Nat
  outer : Nat
  deriving DecidableEq, Repr

/-- The number q decoded in a loop order over extents along problems, rows and columns (R240). -/
def decodeOrder (q order eP eM eN : Nat) : Nat × Nat × Nat :=
  let P := max eP 1
  let M := max eM 1
  let N := max eN 1
  let first (a : Nat) : Nat := q % a
  let second (a b : Nat) : Nat := q / a % b
  let third (a b c : Nat) : Nat := q / (a * b) % c
  match order with
  | 0 => (third N M P, second N M, first N)
  | 1 => (third M N P, first M, second M N)
  | 2 => (second N P, third N P M, first N)
  | 3 => (first P, third P N M, second P N)
  | 4 => (second M P, first M, third M P N)
  | _ => (first P, second P M, third P M N)

/-- The non-empty tiles of an instance in visit order (R240, R242).
[notes/assumptions 210 DESIGN CHOICE, unsafe; 212 DESIGN CHOICE, unsafe] -/
def tilesOf (o : OpDesc) (probs : List IProb) : List Tile :=
  let et := max o.l0.eM 1
  let en := max o.l0.eN 1
  let mT := ceilDiv (maxNat (probs.map IProb.rows)) et
  let nT := ceilDiv (maxNat (probs.map IProb.n)) en
  let n1 := o.l1.eP * o.l1.eM * o.l1.eN
  let n2 := o.l2.eP * o.l2.eM * o.l2.eN
  let c3P := ceilDiv probs.length (max (o.l1.eP * o.l2.eP) 1)
  let c3M := ceilDiv mT (max (o.l1.eM * o.l2.eM) 1)
  let c3N := ceilDiv nT (max (o.l1.eN * o.l2.eN) 1)
  (List.range (n1 * n2 * (c3P * c3M * c3N))).filterMap (fun t =>
    let q1 := t % n1
    let q2 := t / n1 % n2
    let q3 := t / (n1 * n2)
    let a := decodeOrder q3 o.l3.order c3P c3M c3N
    let b := decodeOrder q2 o.l2.order o.l2.eP o.l2.eM o.l2.eN
    let c := decodeOrder q1 o.l1.order o.l1.eP o.l1.eM o.l1.eN
    let pi := (a.1 * o.l2.eP + b.1) * o.l1.eP + c.1
    let mi := (a.2.1 * o.l2.eM + b.2.1) * o.l1.eM + c.2.1
    let ni := (a.2.2 * o.l2.eN + b.2.2) * o.l1.eN + c.2.2
    match probs[pi]? with
    | none => none
    | some q =>
      if mi * et < q.rows ∧ ni * en < q.n then
        some { prob := pi, row0 := mi * et, rows := min et (q.rows - mi * et), col0 := ni * en,
               cols := min en (q.n - ni * en), outer := q3 }
      else none)

/-! ### Tile cycles -/

/-- Cycles of a chain of array operations: `passes` per chunk, `chunks` chunks, M rows, fill F, row
interval ρ on each chunk's last pass, and the gate tail (R85, R92, R212). -/
def chainCycles (passes chunks m f rho tail : Nat) : Nat :=
  let n := passes * chunks
  f + (n - chunks) * (m + 202) + chunks * (rho * m + 202) + (n - chunks) * (f - m) +
    (chunks - 1) * (f - rho * m) + tail

/-- T_tile of R85 with uniform rows.
[notes/assumptions 12 DESIGN CHOICE, safe] -/
def tileCycles (passes chunks m f : Nat) : Nat := chainCycles passes chunks m f 1 14

/-- T_att of R160. -/
def attCycles (mq dh nb ps : Nat) : Nat :=
  let no := nb * (ps + dh / 64)
  32 + no * (mq + 202) + (no - 1) * (32 - mq) + nb * (56 - mq) + mq * dh / 64 + 24

/-- e_k and g_k of R171. -/
def recCosts (kind : Nat) : Nat × Nat :=
  match kind with
  | 0 => (2, 6)
  | 1 => (4, 4)
  | _ => (1, 0)

/-- T_rec of R198. -/
def recCycles (kind ns nc m : Nat) : Nat :=
  ceilDiv (nc * m) 64 * (ns * (recCosts kind).1 + (recCosts kind).2) + 14

/-- Bytes of one pixel in the element plane, its padding included (R200). -/
def pixelPitch (layout fmt c : Nat) : Nat :=
  if layout = 2 then packedBytes fmt c else 128 * ceilDiv (packedBytes fmt c) 128

/-- Element slots of one pixel, padding included (R200, R202). -/
def pixelSlots (layout fmt c : Nat) : Nat :=
  if layout = 2 then c else pixelPitch layout fmt c * 8 / fmtBits fmt

/-- Bytes of one pixel in both planes (R103, R200). -/
def pixelBytes (layout fmt c : Nat) : Nat :=
  pixelPitch layout fmt c + (if fmtHasScale fmt then ceilDiv c 32 else 0)

/-- Element slots of columns `col0` on of one pixel: the last columns take the pixel's padding with them (R200, R215). -/
def spanSlots (layout fmt c col0 cols : Nat) : Nat :=
  if c ≤ col0 + cols then pixelSlots layout fmt c - col0 else cols

/-- Bytes of columns `col0` on of one pixel in both planes (R103, R200). -/
def spanBytes (layout fmt c col0 cols : Nat) : Nat :=
  (if c ≤ col0 + cols then pixelPitch layout fmt c - col0 * fmtBits fmt / 8 else packedBytes fmt cols) +
    (if fmtHasScale fmt then ceilDiv cols 32 else 0)

/-- One stage of a convolution: the direct, grouped or frequency work it stands for. -/
inductive ConvStage where
  | direct (kh kw : Nat)
  | grouped (kh kw : Nat)
  | freq (stage kh kw : Nat)
  | finish
  deriving DecidableEq, Repr

/-- Sizes of the pieces of one filter dimension (R213). -/
def pieceSizes (size k : Nat) : List Nat :=
  (List.range (ceilDiv k size)).map (fun a => min size (k - a * size))

/-- Does the operator's own gate pass after the last piece have to run (R213)? -/
def OpDesc.finishNeeded (o : OpDesc) : Bool :=
  !(o.gate.func == 0 && o.gate.pre == 0 && o.gate.post == 0 && !o.gate.sr && o.gate.outFmt == 0)

/-- The stages one piece of a filter runs, by R209 on the piece. -/
def pieceStages (o : OpDesc) (kh kw : Nat) : List ConvStage :=
  match ({ o with kh := kh, kw := kw } : OpDesc).convPath with
  | .direct => [.direct kh kw]
  | .grouped => [.grouped kh kw]
  | .frequency => (List.range 7).map (fun s => .freq s kh kw)
  | .pieces q =>
    (pieceSizes q kh).flatMap (fun a => (pieceSizes q kw).map (fun b =>
      if o.grouped then .grouped a b else .direct a b))

/-- The stages of an operator in the order R211 and R213 give; a class that is not expanded has the
one stage `finish`. -/
def OpDesc.stages (o : OpDesc) : List ConvStage :=
  if o.cls = 4 then
    match o.convPath with
    | .direct => [.direct o.kh o.kw]
    | .grouped => [.grouped o.kh o.kw]
    | .frequency => (List.range 7).map (fun s => .freq s o.kh o.kw)
    | .pieces q =>
      (pieceSizes q o.kh).flatMap (fun a =>
        (pieceSizes q o.kw).flatMap (fun b => pieceStages o a b)) ++
        (if o.finishNeeded then [.finish] else [])
  else [.finish]

/-- Spatial tiles n_t of the frequency path (R210). -/
def freqTiles (o : OpDesc) (kh kw : Nat) : Nat :=
  ceilDiv o.hOut (65 - kh) * ceilDiv o.wOut (65 - kw)

/-- Rows, reduction depth, columns and number of problems of one frequency stage for `imgs` images
(R211). -/
def freqShape (o : OpDesc) (stage kh kw imgs : Nat) : Nat × Nat × Nat × Nat :=
  let nt := freqTiles o kh kw
  match stage with
  | 0 => (64 * o.k * nt * imgs, 64, 64, 1)
  | 1 => (31 * o.k * nt * imgs, 64, 128, 1)
  | 2 => (33 * o.k * nt * imgs, 64, 128, 1)
  | 3 => (nt * imgs, 2 * o.k, 2 * o.n, 2112)
  | 4 => (33 * o.n * nt * imgs, 64, 128, 1)
  | 5 => (33 * o.n * nt * imgs, 64, 128, 1)
  | _ => (64 * o.n * nt * imgs, 64, 64, 1)

/-- Stationary images a stage of a convolution takes for `k` and `n` channels (R205, R208, R211). -/
def stageImages (o : OpDesc) (k n : Nat) : ConvStage → Nat
  | .direct kh kw => kh * kw * ceilDiv k ((arrayDepth o.fmtA o.fmtW).getD 128) * ceilDiv n 64
  | .grouped kh kw => ceilDiv (kh * kw) ((arrayDepth o.fmtA o.fmtW).getD 128 / 64) * ceilDiv n 64
  | .freq 3 _ _ => 2112 * (ceilDiv (2 * k) 64 * ceilDiv (2 * n) 64)
  | _ => 0

/-- The number of the first stationary image of a stage: images lie in the order of the stages (R205, R213). -/
def firstImage (o : OpDesc) (k n num : Nat) : Nat :=
  sumNat ((o.stages.take num).map (stageImages o k n))

/-- The images that `cols` columns from `col0` of a problem read at a stage: the first and how many (R205, R207,
R211). -/
def stageColumns (o : OpDesc) (q : IProb) (st : ConvStage) (num prob col0 cols : Nat) : Nat × Nat :=
  let c0 := col0 / 64
  let c1 := ceilDiv (col0 + cols) 64
  match st with
  | .freq 3 _ _ =>
    let pk := ceilDiv q.k 64
    (firstImage o o.k o.n num + prob * (pk * ceilDiv q.n 64) + c0 * pk, (c1 - c0) * pk)
  | .direct _ _ | .grouped _ _ =>
    let pk := stageImages o q.k 64 st
    (firstImage o q.k q.n num + c0 * pk, (c1 - c0) * pk)
  | _ => (0, 0)

/-- The problems of an instance at a stage: a frequency stage has its own shape. -/
def stageProblems (p : Program) (o : OpDesc) (ph : Phase) (nb : Nat) (counts : Option (List Int))
    (st : ConvStage) : List IProb :=
  match st with
  | .freq s kh kw =>
    let imgs := (instProblems p o ph nb counts).length
    let sh := freqShape o s kh kw imgs
    (List.range sh.2.2.2).map (fun _ =>
      { rows := sh.1, k := sh.2.1, n := sh.2.2.1, offA := 0, offW := 0, offD := 0, member := none,
        rpm := 0 })
  | _ => instProblems p o ph nb counts

/-- The tiles of an instance at a stage: a frequency stage groups its rows by E_M and spans its columns (R212). -/
def stageTiles (p : Program) (o : OpDesc) (ph : Phase) (nb : Nat) (counts : Option (List Int))
    (st : ConvStage) : List Tile :=
  let probs := stageProblems p o ph nb counts st
  match st with
  | .freq _ _ _ => tilesOf { o with l0 := { o.l0 with eN := maxNat (probs.map IProb.n) } } probs
  | _ => tilesOf o probs

/-- Input pixels that a window of `kh` × `kw` taps reads for a tile of output pixels `wo` to a row: the rows of the
image between its first and last output pixel, or the span of one row (R204, R214). -/
def windowPixels (h w wo sigma dil kh kw : Nat) (t : Tile) : Nat :=
  let y0 := t.row0 / max wo 1
  let y1 := (t.row0 + t.rows - 1) / max wo 1
  let ny := min h ((y1 - y0) * sigma + dil * (kh - 1) + 1)
  let nx := if y0 = y1 then min w ((t.rows - 1) * sigma + dil * (kw - 1) + 1) else w
  ny * nx

/-- Input pixels a direct or grouped convolution tile reads. -/
def haloPixels (o : OpDesc) (kh kw : Nat) (t : Tile) : Nat :=
  windowPixels o.h o.w o.wOut o.sigma o.dil kh kw t

/-- Input pixels a depth-to-space tile reads: the blocks of s × s output pixels its output pixels lie in (R201). -/
def d2sPixels (w s : Nat) (t : Tile) : Nat :=
  let wo := max (w * s) 1
  let y0 := t.row0 / wo
  let x0 := t.row0 % wo
  let y1 := (t.row0 + t.rows - 1) / wo
  let x1 := (t.row0 + t.rows - 1) % wo
  if t.rows = 0 then 0
  else sumNat ((List.range (y1 / s + 1 - y0 / s)).map (fun i =>
    let b := y0 / s + i
    let first := decide (y0 / s = b)
    let last := decide (y1 / s = b)
    -- whole output rows of the tile in this band
    let lo := max (b * s) (if x0 = 0 then y0 else y0 + 1)
    let hi := min (b * s + s) (if x1 + 1 = wo then y1 + 1 else y1)
    if y0 = y1 then x1 / s + 1 - x0 / s
    else if lo < hi then w
    else min w ((if first then w - x0 / s else 0) + (if last then x1 / s + 1 else 0))))

/-- Input pixels a regroup tile reads (R201). -/
def regroupPixels (o : OpDesc) (t : Tile) : Nat :=
  if o.dir then d2sPixels o.w o.s2d t else t.rows * o.s2d * o.s2d

/-- Input pixels a pooling tile reads (R214). -/
def poolPixels (o : OpDesc) (t : Tile) : Nat :=
  if 2 ≤ o.poolMode then o.h * o.w
  else windowPixels o.h o.w (poolOut o.w o.pl o.pw o.pstr) o.pstr 1 o.ph o.pw t

/-- Layout of a tensor by handle; PADDED where there is none. -/
def Program.layoutOf (p : Program) (h : Nat) : Nat := ((p.tensor? h).map Tensor.layout).getD 1

/-- Is a stage a piece of a decomposed filter, whose result is the running FP32 sum (R213)? -/
def OpDesc.inPieces (o : OpDesc) : Bool :=
  o.cls == 4 && match o.convPath with
    | .pieces _ => true
    | _ => false

/-- Does a stage run with the operator's own gate word (R211, R213)? -/
def OpDesc.ownGate (o : OpDesc) : ConvStage → Bool
  | .freq s _ _ => s == 6 && !o.inPieces
  | .direct _ _ | .grouped _ _ => !o.inPieces
  | .finish => true

/-- The gate word a stage runs with: the operator's own, or one that writes ungated FP32. -/
def OpDesc.stageGate (o : OpDesc) (st : ConvStage) : GateWord :=
  if o.ownGate st then o.gate
  else { func := 0, pre := 0, post := 0, draw := 0, site := 0, sr := false, outFmt := 0, reserved := false }

/-- Does a stage of a decomposed filter add the running FP32 result: every stage that ends a piece but the first
(R213)? `n` is the number of the stage. -/
def OpDesc.addsRunning (o : OpDesc) (st : ConvStage) (n : Nat) : Bool :=
  o.inPieces && match st with
    | .direct _ _ | .grouped _ _ => n != 0
    | .freq s _ _ => s == 6 && n != 6
    | .finish => false

/-- T_x of one tile without its claim (R232, R250). `blocks` is the key blocks of an attention
tile. -/
def tileTime (p : Program) (o : OpDesc) (st : ConvStage) (q : IProb) (t : Tile) (blocks : Nat) :
    Nat :=
  let rho := (o.stageGate st).rho
  let kp := (arrayDepth o.fmtA o.fmtW).getD 128
  let f := fillTime o.fmtW
  let chunks := ceilDiv t.cols 64
  match o.cls with
  | 0 => chainCycles (max (ceilDiv q.k kp) 1) chunks t.rows f rho 14
  | 1 =>
    let a := p.att.getD o.attLayer (AttLayer.ofNat 0)
    attCycles t.rows a.dh blocks (ceilDiv a.dh ((arrayDepth o.fmtA a.fmt).getD 128))
  | 3 => recCycles p.hdr.kind p.hdr.ns t.cols t.rows
  | 4 =>
    match st with
    | .direct kh kw => chainCycles (kh * kw * ceilDiv q.k kp) chunks t.rows f rho 14
    | .grouped kh kw => chainCycles (ceilDiv (kh * kw) (kp / 64)) chunks t.rows f rho 14
    | .freq s _ _ =>
      chainCycles (ceilDiv q.k 64) chunks t.rows 32 (if s = 6 then rho else 1) 78
    | .finish => t.rows * chunks * rho + 14
  | 5 =>
    let rd := regroupPixels o t * pixelSlots (p.layoutOf o.srcA) o.fmtA o.k
    let wr := t.rows * pixelSlots (p.layoutOf o.dst) o.gate.outFmt o.imageOut.2
    ceilDiv (max rd wr) 64 * rho + 14
  | 6 =>
    let rp := ceilDiv (spanSlots 1 o.gate.outFmt q.n t.col0 t.cols) 64
    if 2 ≤ o.poolMode then rp * max (o.h * o.w) rho + 14
    else t.rows * rp * max (o.ph * o.pw) rho + 14
  | _ => t.rows * chunks * rho + 14

/-! ### Block DMA terms (R250) -/

/-- Bytes of one stream's state of `nc` channels: mantissas and exponents (R174). -/
def recStateBytes (ns nc : Nat) : Nat := nc * ns * 2 + ceilDiv (nc * ns) 32

/-- Bytes of `rows` rows of `n` elements with their scales.
[notes/assumptions 29 DEDUCED, unsafe] -/
def rowsBytes (fmt n rows : Nat) : Nat :=
  rows * rowElementBytes fmt n + (if fmtHasScale fmt then rows * ceilDiv n 32 else 0)

/-- Bytes that must be in the cell store before a tile's first operation: activation rows with
scales, vectors and the first image, or every input of a class without images (R250); `run`: the running sum that a
later piece adds (R213).
[notes/assumptions 29 DEDUCED, unsafe] -/
def tileInBytes (p : Program) (o : OpDesc) (st : ConvStage) (q : IProb) (t : Tile) (run : Bool := false) : Nat :=
  let vec := if o.vec = 0xFFFF || !o.ownGate st then 0 else 8 * t.cols
  let running := if run then rowsBytes 0 t.cols t.rows else 0
  let second := if o.src2 = 0xFFFF || o.gate.post = 0 || o.gate.draw != 0 then 0
    else rowsBytes (((p.tensor? o.src2).map Tensor.fmt).getD 0) t.cols t.rows
  match o.cls with
  | 0 => rowsBytes o.fmtA q.k t.rows + vec + imageBytes o.fmtW
  | 1 => rowsBytes o.fmtA q.k t.rows + 8192
  | 3 =>
    let ops := if p.hdr.kind = 2 then 2 else 3
    t.rows * t.cols * (4 * ops) + t.rows * recStateBytes p.hdr.ns t.cols +
      (if p.hdr.kind = 2 then 0
       else t.rows * p.hdr.g * p.hdr.ns * 8 + 4 * t.cols * (if p.hdr.kind = 1 then p.hdr.ns else 1) + 4 * t.cols)
  | 4 =>
    match st with
    | .direct kh kw =>
      haloPixels o kh kw t * pixelBytes 1 o.fmtA q.k + vec + imageBytes o.fmtW + running
    | .grouped kh kw =>
      haloPixels o kh kw t * pixelBytes 1 o.fmtA t.cols + vec + imageBytes o.fmtW + running
    | .freq s _ _ => rowsBytes 1 q.k t.rows + 8192 + (if s = 6 then vec else 0) + running
    | .finish => rowsBytes 0 t.cols t.rows + vec + second
  | 5 =>
    regroupPixels o t * pixelBytes (p.layoutOf o.srcA) o.fmtA o.k + vec + second
  | 6 => poolPixels o t * spanBytes 1 o.fmtA q.n t.col0 t.cols + vec + second
  | _ => rowsBytes o.fmtA t.cols t.rows + vec + second

/-- Output bytes of a tile of a problem with `n` columns (R250). -/
def tileOutBytes (p : Program) (o : OpDesc) (st : ConvStage) (n : Nat) (t : Tile) : Nat :=
  let fmt := (o.stageGate st).outFmt
  match o.cls, st with
  | 4, .freq s _ _ => if s = 1 || s = 4 then t.rows * t.cols * 4 else
      if s = 6 then rowsBytes fmt t.cols t.rows else t.rows * t.cols * 2
  | 4, _ | 6, _ => t.rows * spanBytes 1 fmt n t.col0 t.cols
  | 5, _ => t.rows * spanBytes (p.layoutOf o.dst) fmt n t.col0 t.cols
  | 3, _ => rowsBytes fmt t.cols t.rows + t.rows * recStateBytes p.hdr.ns t.cols
  | _, _ => rowsBytes fmt t.cols t.rows

/-! ### Engines (R128, R129, R133, R197) -/

/-- Columns of each of E engines for N_s columns (R121). -/
def engineCols (ns e : Nat) : Nat := ceilDiv ns (max e 1)

/-- T_op of R129 with `nch` channels in service (R296): M rows, R runs, weight format, n_e columns, w
words, and `extra` lines beside the weight's.
[notes/assumptions 12 DESIGN CHOICE, safe] -/
def opCycles (nch m runs wfmt ne w extra : Nat) : Nat :=
  let l := runs * runLines wfmt + extra
  let rd := if nch = 32 then ceilDiv l 4 else ceilDiv (8 * l) (max nch 1)
  64 + max (max rd (runs * runCompute wfmt * m)) (ceilDiv (ne * m * w) 64) + 24

/-- Runs of an engine's slice: K padded to 32, times n_e columns (R123).
[notes/assumptions 12 DESIGN CHOICE, safe] -/
def sliceRuns (k ne : Nat) : Nat := ceilDiv (alignUp k 32 * ne) 4096

/-- T_page of R133 for one fetch group of q rows. -/
def pageCycles (dh b q fmt : Nat) : Nat := max (ceilDiv (dh * b) 16) (ceilDiv (32 * dh * q) (kvMacs fmt)) + 2

/-- T_page summed over the fetch groups of `rows` rows (R131, R133).
[notes/assumptions 100 DEDUCED, unsafe] -/
def pageGroups (dh b rows fmt : Nat) : Nat :=
  let full := rows / 16
  full * pageCycles dh b 16 fmt + (if rows % 16 = 0 then 0 else pageCycles dh b (rows % 16) fmt)

/-- T_item of R133 for n_p pages. -/
def itemCycles (dh b rows fmt np : Nat) : Nat := 64 + np * pageGroups dh b rows fmt + 24

/-- One fold of the partials of q rows with its exchange and result write: `near` of them from the stack of chunk 0,
`far` from the other stack of the region (R128, R132, R133).
[notes/assumptions 176 DEDUCED, unsafe] -/
def foldCycles (dh q near far outBytes : Nat) : Nat :=
  let b := q * (dh + 2) * 4
  24 + ceilDiv (near * b) 512 + (if far = 0 then 0 else 120 + ceilDiv (far * b) 256) +
    (24 + (near + far) * (2 + ceilDiv (q * dh) 256)) + (ceilDiv (ceilDiv outBytes 128) 4 + 42)

/-- The K ranges an engine operation splits into (R122): starts and depths, each at a multiple of K_c. -/
def kRanges (kc m k bytes : Nat) : List (Nat × Nat) :=
  let per := max ((131072 / max (m * bytes) 1) / max kc 1 * kc) (max kc 1)
  if k = 0 then [(0, 0)] else (List.range (ceilDiv k per)).map (fun i => (i * per, min per (k - i * per)))

/-- Lines of the PRE vectors an engine operation of `cols` columns reads: s, b or both (R86, R129). -/
def vecLines (o : OpDesc) (cols : Nat) : Nat :=
  if o.vec = 0xFFFF then 0
  else (if o.gate.pre = 0 then 0 else if o.gate.pre = 3 then 2 else 1) * ceilDiv (4 * cols) 128

/-- T_op of each K range of an engine operation on `cols` columns: the last one writes the outputs, and reads the
vectors and draws its words (R122, R129). -/
def rangeCycles (nch : Nat) (o : OpDesc) (m k cols : Nat) : List Nat :=
  let rs := kRanges ((engineDepth o.fmtW).getD 64) m k (max (fmtBits o.fmtA / 8) 1)
  rs.zipIdx.map (fun r =>
    let last := r.2 + 1 == rs.length
    opCycles nch m (sliceRuns r.1.2 cols) o.fmtW cols (if last then o.gate.elementWords else 0)
      (if last then vecLines o cols else 0))

/-- T_upd of R197: M streams, n_c channels, L lines. -/
def updCycles (kind ns m nc l : Nat) : Nat :=
  64 + max (ceilDiv l 4) (m * ceilDiv nc 256 * (ns * (recCosts kind).1 + (recCosts kind).2)) + 24

/-- Lines of one stream's state of n_c channels: mantissas and exponents (R174). -/
def stateLines (ns nc : Nat) : Nat := ceilDiv (nc * ns * 2) 128 + ceilDiv (nc * ns / 32) 128

/-- Bytes of one layer's state object (R174). -/
def stateObjBytes (c ns : Nat) : Nat := alignUp (c * ns * 2) 128 + alignUp (c * ns / 32) 128

/-- S_st of R191 with the directory block of R175. -/
def streamStateBytes (p : Program) : Nat :=
  p.hdr.recLayers * stateObjBytes p.hdr.c p.hdr.ns +
    (if p.hdr.recLayers = 0 then 0 else alignUp (4 * p.hdr.recLayers) 128)

/-- Lines of a program's directory block (R175). -/
def dirLines (p : Program) : Nat := alignUp (4 * p.hdr.recLayers) 128 / 128

/-- State objects a job reserves: the committed and the staged one of each resident stream (R191). -/
def stateCopies (p : Program) (b : Batch) : Nat := (b.fMax + p.hdr.hRes) * 2

/-- Lines of A and D that an engine reads for `nc` channels (R197). -/
def constLines (p : Program) (nc : Nat) : Nat :=
  if p.hdr.kind = 2 then 0
  else ceilDiv (4 * nc * (if p.hdr.kind = 1 then p.hdr.ns else 1)) 128 + ceilDiv (4 * nc) 128

/-- T_upd of `nc` channels of `m` streams of a program's recurrence (R197). -/
def recOpCycles (p : Program) (m nc : Nat) : Nat :=
  updCycles p.hdr.kind p.hdr.ns m nc (m * 2 * stateLines p.hdr.ns nc + constLines p nc)

/-- Copy batch T_copy of n copies of L_p lines on a stack (R149, R296). -/
def copyCycles (nch n lp : Nat) : Nat := if n = 0 then 0 else 48 + ceilDiv (n * lp) (max nch 1)

/-! ### Sorters (R219, R220) -/

/-- Passes b of one region (R219). -/
def sortPasses (n k : Nat) : Nat :=
  if n = 0 then 0 else if n ≤ 1024 then 1 else 1 + ceilDiv (n - 1024) (1024 - k)

/-- T_reg of R219. -/
def sortRegionCycles (n k : Nat) : Nat := 24 + sortPasses n k * 72 + ceilDiv k 64 + 8

/-- Merge passes b_m (R220).
[notes/assumptions 105 DEDUCED, unsafe] -/
def mergePasses (r k : Nat) : Nat := if r ≤ 1 then 0 else ceilDiv ((r - 1) * k) (1024 - k)

/-- Keys of region i of r over n keys: contiguous ranges, the first ones larger by one (R218). -/
def sortSlice (n r i : Nat) : Nat × Nat :=
  let q := n / max r 1
  let x := n % max r 1
  (i * q + min i x, q + if i < x then 1 else 0)

end Sys2Proof.Machine
end

