-- ==== Sys2Proof/Machine/Bound.lean ====
section
/-!
DEFINITION. The bound of a round (R249 to R253), the Parallax allowance (R457), the spill and
streaming terms (R165, R261) and the admissible time (R61).
-/

namespace Sys2Proof.Machine

/-- What a bound is computed for: cells and home region of the grant, line slots per stack, where
tensors live, weight placements, engines and channels in service, the clock in MHz, the sampling N,
the admissible time in ns, and the partition's Stratus grants in units of 0.1 GB/s. -/
structure BoundEnv where
  cells : List Nat
  home : Nat
  slots : List (Nat × Nat)
  defSlots : Nat
  place : List (Option Space)
  slices : List (List WeightSlice)
  streamed : List Bool
  kv : List (List Nat)
  kvSpilled : List Bool
  recHome : List Nat
  engines : List Nat
  channels : List Nat
  mhz : Nat
  sampling : Nat
  windowNs : Nat
  readGrant : Nat
  writeGrant : Nat
  deriving DecidableEq, Repr

/-- Duration of counts in units of 1 / (10 × f) ns at f MHz (R11, R12). -/
def Counts.time (c : Counts) (mhz : Nat) : Nat :=
  c.cc * 10000 + c.cm * (10 * mhz) + c.cf * (5 * mhz) + c.ci * (8 * mhz)

/-- Sum of counts. -/
def Counts.add (a b : Counts) : Counts :=
  { cc := a.cc + b.cc, cm := a.cm + b.cm, cf := a.cf + b.cf, ci := a.ci + b.ci }

/-- Counts times a number. -/
def Counts.times (n : Nat) (a : Counts) : Counts :=
  { cc := n * a.cc, cm := n * a.cm, cf := n * a.cf, ci := n * a.ci }

/-- The longest of a list of terms at a clock; a tie goes to the one listed first (R251). -/
def Counts.longest (mhz : Nat) : Counts → List Counts → Counts
  | best, [] => best
  | best, c :: cs => Counts.longest mhz (if best.time mhz < c.time mhz then c else best) cs

/-- Duration in ps, rounded up (R354). -/
def Counts.ps (c : Counts) (mhz : Nat) : Nat :=
  ceilDiv (c.cc * 1000000 + (c.cm * 1000 + c.cf * 500 + c.ci * 800) * mhz) (max mhz 1)

/-- Line slots on a stack, 1 at least (R265). -/
def BoundEnv.slotsOn (e : BoundEnv) (k : Nat) : Nat := max 1 (tgetD e.slots k e.defSlots)

/-- Stack or region of a tensor. -/
def BoundEnv.spaceOf (e : BoundEnv) (h : Nat) : Option Space := (e.place[h]?).join

/-- Region of a cell number (R263). -/
def cellRegion (n : Nat) : Nat := n / 64

/-- Regions that hold cells, ascending. -/
def regionsOf (cells : List Nat) : List Nat :=
  (List.range 6).filter (fun r => cells.any (fun c => cellRegion c == r))

/-- Cells of a region in a list. -/
def cellsIn (cells : List Nat) (r : Nat) : List Nat := cells.filter (fun c => cellRegion c == r)

/-- The tile ranges of the regions: region r takes the next min(c_r × q, remaining) (R242). -/
def tileRanges (cells : List Nat) (n : Nat) : List TileRange :=
  let q := ceilDiv n (max cells.length 1)
  ((regionsOf cells).foldl
    (fun (acc : Nat × List TileRange) r =>
      let take := min ((cellsIn cells r).length * q) (n - acc.1)
      (acc.1 + take, acc.2 ++ [{ region := r, next := acc.1, last := acc.1 + take }]))
    (0, [])).2

/-- Region a memory belongs to. -/
def Space.region : Space → Nat
  | .stack k => k / 2
  | .cache r => r
  | .stratus => 6

/-- A read or write of an operator's traffic: the memory it goes to, its lines and its bytes. -/
structure Traffic where
  space : Space
  lines : Nat
  bytes : Nat := 128 * lines
  deriving DecidableEq, Repr

/-- Lines of `rows` rows of `n` elements of a format, each row from a line of its own. -/
def rowsLines (fmt n rows : Nat) : Nat :=
  rows * ceilDiv (rowElementBytes fmt n) 128 +
    (if fmtHasScale fmt then ceilDiv (rows * ceilDiv n 32) 128 else 0)

/-- The byte ranges of a slice that hold columns `col0` on of rows `row0` on, ascending in each plane (R103, R227).
`pad`: a write, whose last column takes the row's padding with it (R307). -/
def Tensor.ranges (t : Tensor) (row0 rows col0 cols : Nat) (pad : Bool) : List (Nat × Nat) :=
  let last := decide (t.d0 ≤ col0 + cols)
  let lo := col0 * fmtBits t.fmt / 8
  let hi := if last && pad then t.rowPitch else min t.rowPitch (rowElementBytes t.fmt (col0 + cols))
  let elems := if rows = 0 || cols = 0 then []
    else if col0 = 0 && hi = t.rowPitch then [(row0 * t.rowPitch, (row0 + rows) * t.rowPitch)]
    else (List.range rows).map (fun i => ((row0 + i) * t.rowPitch + lo, (row0 + i) * t.rowPitch + hi))
  let b0 := col0 / 32
  let b1 := min t.rowScales (ceilDiv (col0 + cols) 32)
  let scales := if !fmtHasScale t.fmt || rows = 0 || b1 ≤ b0 then []
    else if b0 = 0 && b1 = t.rowScales then
      [(t.scaleBase + row0 * t.rowScales, t.scaleBase + (row0 + rows) * t.rowScales)]
    else (List.range rows).map (fun i =>
      (t.scaleBase + (row0 + i) * t.rowScales + b0, t.scaleBase + (row0 + i) * t.rowScales + b1))
  elems ++ scales

/-- Lines of ascending byte ranges, a line that two ranges share counted once. -/
def rangeLines (l : List (Nat × Nat)) : Nat :=
  (l.foldl (fun (acc : Nat × Nat) x =>
    let lo := max (x.1 / 128) acc.2
    let hi := ceilDiv x.2 128
    (acc.1 + (hi - lo), max hi acc.2)) (0, 0)).1

/-- Rows of a problem as rows of the slices that hold them: member, first row, rows (R230, R235).
[notes/assumptions 30 DEDUCED, unsafe] -/
def IProb.runs (q : IProb) (perFuture : Bool) (row0 rows : Nat) : List (Nat × Nat × Nat) :=
  if !perFuture then [(0, row0, rows)]
  else if q.rpm = 0 then [(q.member.getD 0, row0, rows)]
  else (List.range (ceilDiv (row0 + rows) q.rpm - row0 / q.rpm)).map (fun i =>
    let m := row0 / q.rpm + i
    let lo := max row0 (m * q.rpm)
    (m, lo - m * q.rpm, min (row0 + rows) ((m + 1) * q.rpm) - lo))

/-- Byte ranges of a block of an operand of a problem, by member: rows and columns from an element offset. -/
def Tensor.block (t : Tensor) (q : IProb) (off row0 rows col0 cols : Nat) (pad : Bool) :
    List (Nat × List (Nat × Nat)) :=
  (q.runs t.perFuture row0 rows).map (fun r =>
    (r.1, t.ranges (off / max t.d0 1 + r.2.1) r.2.2 (off % max t.d0 1 + col0) cols pad))

/-- Lines of a block of an operand. -/
def Tensor.blockLines (t : Tensor) (q : IProb) (off row0 rows col0 cols : Nat) : Nat :=
  sumNat ((t.block q off row0 rows col0 cols false).map (fun x => rangeLines x.2))

/-- Weight traffic of `cols` columns from `col0`, by the placed slices (R251, R259). -/
def weightTraffic (e : BoundEnv) (t : Tensor) (fmt k col0 cols : Nat) : List Traffic :=
  (e.slices.getD t.ref []).filterMap (fun s =>
    let lo := max col0 s.col0
    let hi := min (col0 + cols) (s.col0 + s.cols)
    if lo < hi then
      some { space := .stack s.stack, lines := rangeLines (t.ranges (lo - s.col0) (hi - lo) 0 k false)
             bytes := rowsBytes fmt k (hi - lo) }
    else none)

/-- Traffic of `cols` columns from `col0` of `rows` rows from `row0` of a placed weight that is not a matrix
multiplication's, by the slices of its outermost dimension (R259). -/
def placedTraffic (e : BoundEnv) (t : Tensor) (row0 rows col0 cols : Nat) : List Traffic :=
  let per := max (t.rows / max (if t.rank = 2 then t.d1 else if t.rank = 3 then t.d2 else t.d3) 1) 1
  (e.slices.getD t.ref []).filterMap (fun s =>
    let first := s.col0 * (if t.rank ≤ 1 then 1 else per)
    let last := (s.col0 + s.cols) * (if t.rank ≤ 1 then 1 else per)
    if t.rank ≤ 1 then
      let lo := max col0 first
      let hi := min (col0 + cols) last
      if rows = 0 || hi ≤ lo then none
      else some { space := .stack s.stack, lines := rangeLines (t.ranges 0 1 (lo - first) (hi - lo) false)
                  bytes := rowsBytes t.fmt (hi - lo) 1 }
    else
      let lo := max row0 first
      let hi := min (row0 + rows) last
      if cols = 0 || hi ≤ lo then none
      else some { space := .stack s.stack, lines := rangeLines (t.ranges (lo - first) (hi - lo) col0 cols false)
                  bytes := rowsBytes t.fmt cols (hi - lo) })

/-- The rectangle of a problem that tiles cover: first row, end row, first column, end column. -/
def spanOf (ts : List Tile) (pr : Nat) : Nat × Nat × Nat × Nat :=
  let l := ts.filter (fun t => t.prob == pr)
  (minNat (l.map Tile.row0), maxNat (l.map (fun t => t.row0 + t.rows)), minNat (l.map Tile.col0),
    maxNat (l.map (fun t => t.col0 + t.cols)))

/-- Lines of `pix` pixels of an image operand, `c` of its channels (R200, R251). -/
def pixelLines (layout fmt c pix : Nat) : Nat :=
  (if layout = 2 then ceilDiv (pix * packedBytes fmt c) 128 else pix * ceilDiv (packedBytes fmt c) 128) +
    (if fmtHasScale fmt then ceilDiv (pix * ceilDiv c 32) 128 else 0)

/-- Traffic of the bytes `lo` to `hi` of the element plane of a placed weight (R251, R259). -/
def planeTraffic (e : BoundEnv) (t : Tensor) (lo hi : Nat) : List Traffic :=
  let per := if t.rank ≤ 1 then 1
    else max (t.rows / max (if t.rank = 2 then t.d1 else if t.rank = 3 then t.d2 else t.d3) 1) 1
  let at' (n : Nat) : Nat := if t.rank ≤ 1 then n * fmtBits t.fmt / 8 else n * per * t.rowPitch
  (e.slices.getD t.ref []).filterMap (fun s =>
    let a := max lo (at' s.col0)
    let b := min hi (at' (s.col0 + s.cols))
    if a < b then some { space := .stack s.stack, lines := rangeLines [(a - at' s.col0, b - at' s.col0)], bytes := b - a }
    else none)

/-- A tile that covers the rows its list of tiles spans in a problem. -/
def spanTile (ts : List Tile) (pr : Nat) : Tile :=
  let r := spanOf ts pr
  { prob := pr, row0 := r.1, rows := r.2.1 - r.1, col0 := r.2.2.1, cols := r.2.2.2 - r.2.2.1, outer := 0 }

/-- Pages of chunk `c` of a list of pages (R132). -/
def chunkPages (pages cp c : Nat) : Nat := min cp (pages - c * cp)

/-- Traffic of the tiles of one level-2 tile: activations, weights, second operand, vectors, and the
KV or state they read, for the operands whose flag is set.
[notes/assumptions 29 DEDUCED, unsafe] -/
def fetchTraffic (p : Program) (e : BoundEnv) (o : OpDesc) (num : Nat) (probs : List IProb)
    (ts : List Tile) (fa fw f2 fv : Bool) : List Traffic :=
  let st := o.stages.getD num .finish
  let at' (h lines : Nat) : List Traffic :=
    match e.spaceOf h with
    | some s => if lines = 0 then [] else [{ space := s, lines := lines }]
    | none => []
  let prob (t : Tile) : IProb := probs.getD t.prob ⟨0, 0, 0, 0, 0, 0, none, 0, 0⟩
  let probOf (n : Nat) : IProb := probs.getD n ⟨0, 0, 0, 0, 0, 0, none, 0, 0⟩
  let ps := (ts.map Tile.prob).eraseDups
  let rowsOnce := (ts.map (fun t => (t.prob, t.row0, t.rows))).eraseDups
  let offs := (ts.map (fun t => (prob t).offW)).eraseDups
  let exact (h : Nat) (off : IProb → Nat) (all : Bool) : List Traffic :=
    match p.tensor? h with
    | none => []
    | some t => ps.flatMap (fun n =>
        let q := probOf n
        let r := spanOf ts n
        let c := if all then (0, q.k) else (r.2.2.1, r.2.2.2 - r.2.2.1)
        if t.cls = 0 then
          placedTraffic e t (off q / max t.d0 1 + r.1) (r.2.1 - r.1) (off q % max t.d0 1 + c.1) c.2
        else
          match e.spaceOf h with
          | some s => [{ space := s, lines := t.blockLines q (off q) r.1 (r.2.1 - r.1) c.1 c.2
                         bytes := rowsBytes t.fmt c.2 (r.2.1 - r.1) }]
          | none => [])
  let pixels (pix : IProb → Tile → Nat) (chans : IProb → Tile → Nat) : List Traffic :=
    at' o.srcA (sumNat (ps.map (fun n =>
      let t := spanTile ts n
      pixelLines (p.layoutOf o.srcA) o.fmtA (chans (probOf n) t) (pix (probOf n) t))))
  let act :=
    if !fa then []
    else
      match o.cls, st with
      | 4, .direct kh kw => pixels (fun _ t => haloPixels o kh kw t) (fun q _ => q.k)
      | 4, .grouped kh kw => pixels (fun _ t => haloPixels o kh kw t) (fun _ t => t.cols)
      | 4, .freq 0 _ _ => at' o.srcA (sumNat (ts.map (fun t => t.rows)))
      | 4, _ => []
      | 0, _ => exact o.srcA IProb.offA true
      | 7, _ => exact o.srcA IProb.offA false
      | 5, _ => pixels (fun _ t => regroupPixels o t) (fun _ _ => o.k)
      | 6, _ => pixels (fun _ t => poolPixels o t) (fun _ _ => o.k)
      | _, _ => at' o.srcA (sumNat (rowsOnce.map (fun r =>
          rowsLines o.fmtA ((probs.getD r.1 ⟨0, 0, 0, 0, 0, 0, none, 0, 0⟩).k) r.2.2)))
  let wgt :=
    if !fw then []
    else
      match o.cls with
      | 0 =>
        match p.tensor? o.srcW with
        | none => []
        | some w => offs.flatMap (fun f =>
            let l := ts.filter (fun t => (prob t).offW == f)
            let lo := minNat (l.map Tile.col0)
            weightTraffic e w o.fmtW (maxNat (l.map (fun t => (prob t).k))) (f / max w.d0 1 + lo)
              (maxNat (l.map (fun t => t.col0 + t.cols)) - lo))
      | 4 =>
        match p.tensor? o.srcW with
        | none => []
        | some w => ((ps.map (fun n =>
            let t := spanTile ts n
            let i := stageColumns o (probOf n) st num n t.col0 t.cols
            let base := imageBase w (probOf n).offW
            (base + i.1 * imageBytes o.fmtW, base + (i.1 + i.2) * imageBytes o.fmtW))).eraseDups).flatMap
              (fun r => planeTraffic e w r.1 r.2)
      | 1 =>
        let a := p.att.getD o.attLayer (AttLayer.ofNat 0)
        let heads := ((ts.map Tile.prob).eraseDups).length
        let homes := e.kv.getD o.attLayer []
        let pages := ceilDiv a.lMax 16
        homes.zipIdx.map (fun k =>
          let here := sumNat (((List.range (ceilDiv pages (max a.cP 1))).filter (fun c =>
            c % max homes.length 1 == k.2)).map (chunkPages pages a.cP))
          { space := .stack k.1, lines := heads * here * (32 * a.dh * a.b / 128) })
      | 3 =>
        match e.recHome[o.recLayer]? with
        | some k => [{ space := .stack k, lines := sumNat (ts.map (fun t =>
            2 * t.rows * stateLines p.hdr.ns t.cols)) }]
        | none => []
      | _ => []
  let two :=
    if !f2 || o.src2 = 0xFFFF || o.gate.post = 0 || o.gate.draw != 0 then []
    else exact o.src2 IProb.offD false
  let vec :=
    if !fv || o.vec = 0xFFFF then []
    else
      let lo := minNat (ts.map Tile.col0)
      let hi := maxNat (ts.map (fun t => t.col0 + t.cols))
      let nv := (((p.tensor? o.vec).map Tensor.d0).getD 0) / 2
      match e.spaceOf o.vec with
      | none =>
        ((p.tensor? o.vec).toList.filter (fun t => t.cls == 0)).flatMap (fun t =>
          placedTraffic e t 0 1 lo (hi - lo) ++ placedTraffic e t 0 1 (nv + lo) (hi - lo))
      | some s => [{ space := s, lines := rangeLines [(4 * lo, 4 * hi), (4 * (nv + lo), 4 * (nv + hi))]
                     bytes := 8 * (hi - lo) }]
  act ++ wgt ++ two ++ vec

/-- Reads of one region's tiles: each operand is fetched for the first level-2 tile and whenever its coordinates
change (R251). -/
def regionReads (p : Program) (e : BoundEnv) (o : OpDesc) (num : Nat) (probs : List IProb)
    (ts : List Tile) : List Traffic :=
  let outers := (ts.map Tile.outer).eraseDups
  let coords (j : Nat) : List (Nat × Nat) × List (Nat × Nat) × List (Nat × Nat × Nat) × List Nat :=
    let tj := ts.filter (fun t => t.outer == j)
    ((tj.map (fun t => (t.prob, t.row0))).eraseDups,
     (tj.map (fun t => ((probs.getD t.prob ⟨0, 0, 0, 0, 0, 0, none, 0, 0⟩).offW, t.col0))).eraseDups,
     (tj.map (fun t => (t.prob, t.row0, t.col0))).eraseDups, (tj.map Tile.col0).eraseDups)
  outers.zipIdx.flatMap (fun x =>
    let tj := ts.filter (fun t => t.outer == x.1)
    let c := coords x.1
    let prev := if x.2 = 0 then none else (outers[x.2 - 1]?).map coords
    let diff {β : Type} [BEq β] (f : List (Nat × Nat) × List (Nat × Nat) × List (Nat × Nat × Nat) ×
        List Nat → β) : Bool :=
      match prev with
      | none => true
      | some q => f q != f c
    fetchTraffic p e o num probs tj (diff (·.1)) (diff (·.2.1))
      (diff (·.2.2.1)) (diff (·.2.2.2)))

/-- The byte ranges of its destination that a tile writes, by member. -/
def tileRangesOut (t : Tensor) (o : OpDesc) (a : AttLayer) (q : IProb) (x : Tile) : List (Nat × List (Nat × Nat)) :=
  if o.cls = 1 then
    (List.range x.rows).map (fun i =>
      let row := x.row0 + i
      (q.member.getD 0, t.ranges (q.offD / max t.d0 1 + row / max o.gq 1) 1
        (q.offD % max t.d0 1 + (q.head * o.gq + row % max o.gq 1) * a.dh) a.dh true))
  else t.block q q.offD x.row0 x.rows x.col0 x.cols true

/-- Lines of whole lines in byte ranges, and the lines the ranges cover in part, with the member in the upper
places.
[notes/assumptions 32 DEDUCED, unsafe] -/
def coverOf (l : List (Nat × List (Nat × Nat))) : Nat × List Nat :=
  let rs := l.flatMap (fun x => x.2.map (fun r => (x.1, r)))
  (sumNat (rs.map (fun r => r.2.2 / 128 - ceilDiv r.2.1 128)),
   (rs.flatMap (fun r =>
     (if r.2.1 % 128 = 0 then [] else [r.1 * 2 ^ 48 + r.2.1 / 128]) ++
       (if r.2.2 % 128 = 0 then [] else [r.1 * 2 ^ 48 + r.2.2 / 128]))).eraseDups)

/-- Distinct numbers of an ascending list. -/
def distinct : List Nat → Nat
  | [] => 0
  | [_] => 1
  | x :: y :: l => distinct (y :: l) + if x = y then 0 else 1

/-- Lines an operator writes to its destination, once each, and one more line read for each that no tile writes
whole (R251, R307).
[notes/assumptions 32 DEDUCED, unsafe] -/
def outLines (p : Program) (o : OpDesc) (st : ConvStage) (probs : List IProb) (ts : List Tile) : Nat :=
  match p.tensor? o.dst with
  | none => 0
  | some t =>
    let a := p.att.getD o.attLayer (AttLayer.ofNat 0)
    let whole := match o.cls, st with
      | 4, .freq s _ _ => decide (s = 6)
      | _, _ => true
    if !whole then sumNat (ts.map (fun x =>
      ceilDiv (tileOutBytes p o st (probs.getD x.prob ⟨0, 0, 0, 0, 0, 0, none, 0, 0⟩).n x) 128))
    else
      let cs := ts.map (fun x => coverOf (tileRangesOut t o a (probs.getD x.prob ⟨0, 0, 0, 0, 0, 0, none, 0, 0⟩) x))
      sumNat (cs.map Prod.fst) + 2 * distinct ((cs.flatMap Prod.snd).mergeSort (fun x y => decide (x ≤ y)))

/-- Key blocks of the widest attention tile, for the bound (R160). -/
def boundBlocks (p : Program) (o : OpDesc) : Nat :=
  ceilDiv ((p.att.getD o.attLayer (AttLayer.ofNat 0)).lMax) 64

/-- The cost of one stage on cells: its counts at the clock, its non-empty tiles, T_max, and the
regions whose fabric port it needs (R250, R251). -/
structure CellCost where
  counts : Counts
  tiles : Nat
  tMax : Nat
  ports : List Nat
  deriving DecidableEq, Repr

/-- Per-tile term of R250 and its T_in and T_out.
[notes/assumptions 29 DEDUCED, unsafe] -/
def tileTerm (p : Program) (o : OpDesc) (st : ConvStage) (run : Bool) (probs : List IProb) (t : Tile) :
    Nat × Nat × Nat :=
  let q := probs.getD t.prob ⟨0, 0, 0, 0, 0, 0, none, 0, 0⟩
  let tin := ceilDiv (tileInBytes p o st q t run) 256
  let tout := ceilDiv (tileOutBytes p o st q.n t) 256
  let tx := tileTime p o st q t (boundBlocks p o)
  (if o.double then 12 + max tx (tin + tout) else 12 + tin + tx + tout, tin, tout)

/-- One stage on cells, number `num` of its operator's (R250, R251). -/
def stageCost (p : Program) (e : BoundEnv) (o : OpDesc) (ph : Phase) (nb : Nat) (st : ConvStage) (num : Nat) :
    CellCost :=
  let probs := stageProblems p o ph nb none st
  let ts := stageTiles p o ph nb none st
  let n := ts.length
  let q := ceilDiv n (max e.cells.length 1)
  let terms := ts.map (tileTerm p o st (o.addsRunning st num) probs)
  let tMax := maxNat (terms.map (·.1))
  let tc := if o.double then maxNat (terms.map (·.2.1)) + q * tMax + maxNat (terms.map (·.2.2))
    else q * tMax
  let ranges := tileRanges e.cells n
  let tilesOf (r : TileRange) : List Tile := (ts.drop r.next).take (r.last - r.next)
  let all := ranges.flatMap (fun r => regionReads p e o num probs (tilesOf r))
  let dst := e.spaceOf o.dst
  let out := match dst with
    | some (.stack _) => outLines p o st probs ts
    | _ => 0
  let onStack (k : Nat) : Nat :=
    sumNat ((all.filter (fun t => t.space == .stack k)).map Traffic.lines) + (if dst = some (.stack k) then out else 0)
  let tm := maxNat ((List.range 12).map (fun k =>
    if onStack k = 0 then 0 else 64 + ceilDiv (onStack k) (e.slotsOn k)))
  let foreignOf (r : TileRange) : Nat :=
    sumNat ((tilesOf r).map (fun t =>
      sumNat (((fetchTraffic p e o num probs [t] true true true true).filter (fun x =>
        x.space.region != r.region)).map Traffic.bytes) +
        (if !dst.any (fun s => s.region != r.region) then 0
         else if o.cls = 3 then rowsBytes o.gate.outFmt t.cols t.rows else tileOutBytes p o st (probs.getD t.prob ⟨0, 0, 0, 0, 0, 0, none, 0, 0⟩).n t)))
  let foreign := ranges.map (fun r => (r.region, foreignOf r))
  let tf := maxNat (foreign.map (fun r => if r.2 = 0 then 0 else 96 + ceilDiv r.2 800))
  let first := ts.take 1
  let pre := fetchTraffic p e o num probs first true false (decide (5 ≤ o.cls)) true
  let firstImg : List Traffic :=
    match (fetchTraffic p e o num probs first false true false false).head? with
    | some w => if o.cls = 0 || o.cls = 1 || o.cls = 4 then
        [{ w with lines := min w.lines (imageBytes (if o.cls = 1 then 3 else o.fmtW) / 128) }] else [w]
    | none => []
  let onPre (k : Nat) : Nat :=
    sumNat (((pre ++ firstImg).filter (fun t => t.space == .stack k)).map Traffic.lines)
  let pm := maxNat ((List.range 12).map (fun k =>
    if onPre k = 0 then 0 else 64 + ceilDiv (onPre k) (e.slotsOn k)))
  let longest := Counts.longest e.mhz { cc := tc } [{ cm := tm }, { cf := tf }]
  { counts := ({ cm := pm } : Counts).add (longest.add
      { cc := 24, cf := if (regionsOf e.cells).length < 2 then 0 else 64 })
    tiles := n, tMax := tMax,
    ports := (foreign.filter (fun r => r.2 != 0)).map (·.1) }

/-- Columns of a weight placed in a stack (R121). -/
def colsOnStack (e : BoundEnv) (ref k : Nat) : Nat :=
  sumNat (((e.slices.getD ref []).filter (fun s => s.stack == k)).map WeightSlice.cols)

/-- The columns of a range of a weight that a stack holds: the first and the end (R121, R259). -/
def stackSpan (slices : List WeightSlice) (k col0 cols : Nat) : Nat × Nat :=
  let l := slices.filterMap (fun s =>
    let lo := max col0 s.col0
    let hi := min (col0 + cols) (s.col0 + s.cols)
    if s.stack = k && decide (lo < hi) then some (lo, hi) else none)
  (minNat (l.map Prod.fst), maxNat (l.map Prod.snd))

/-- Columns dealt to engines in contiguous groups in ascending engine number: engine, first column, columns (R121). -/
def engineShares (lo hi : Nat) (es : List Nat) : List (Nat × Nat × Nat) :=
  let ne := engineCols (hi - lo) es.length
  es.zipIdx.filterMap (fun g =>
    let a := lo + g.2 * ne
    if a < hi then some (g.1, a, min ne (hi - a)) else none)

/-- The largest sum of T_item on any engine of the stack at place `i` of a layer's homes, for one sequence: item
h × n_c + c runs on engine i mod E (R132, R133). -/
def itemSum (a : AttLayer) (rows pages nHomes i eng : Nat) : Nat :=
  let nc := ceilDiv pages (max a.cP 1)
  let items := (List.range a.hKv).flatMap (fun h =>
    ((List.range nc).filter (fun c => c % max nHomes 1 == i)).map (fun c => (h * nc + c, c)))
  maxNat ((List.range eng).map (fun g =>
    sumNat ((items.filter (fun x => x.1 % eng == g)).map (fun x =>
      itemCycles a.dh a.b rows a.fmt (chunkPages pages a.cP x.2)))))

/-- Cost of a Cirrus operator in mcyc, with the duplicates of R457 (R120 to R133, R197, R252). -/
def cirrusCost (p : Program) (e : BoundEnv) (o : OpDesc) (ph : Phase) (nb : Nat) : Nat :=
  let eng (k : Nat) : Nat := max (e.engines.getD k 16) 1
  let nch (k : Nat) : Nat := e.channels.getD k 32
  let outB (rows cols : Nat) : Nat := rowsBytes o.gate.outFmt cols rows
  match o.cls with
  | 1 =>
    let a := p.att.getD o.attLayer (AttLayer.ofNat 0)
    let rows := o.m * o.gq
    let pages := ceilDiv a.lMax 16
    let nc := ceilDiv pages a.cP
    let homes := e.kv.getD o.attLayer [0]
    let far := if homes.length = 2 then nc / 2 else 0
    let k0 := eng (homes.headD 0)
    let fold := nb * ceilDiv a.hKv k0 * foldCycles a.dh rows (nc - far) far (outB rows a.dh)
    maxNat (homes.zipIdx.map (fun k =>
      let here := ceilDiv (nc - k.2) (max homes.length 1)
      let item := itemCycles a.dh a.b rows a.fmt (min a.cP pages)
      let s := ceilDiv (nb * a.hKv * here) (max e.sampling 1)
      nb * itemSum a rows pages homes.length k.2 (eng k.1) + ceilDiv s 8 * item + 16)) + fold
  | 3 =>
    let m := statedRows p o ph nb
    match e.recHome[o.recLayer]? with
    | none => 0
    | some k =>
      let ncC := engineCols p.hdr.c (eng k)
      let t := recOpCycles p m ncC
      let inB := m * (((p.tensor? o.srcA).map Tensor.d0).getD 0) * 4
      let s := ceilDiv (eng k) (max e.sampling 1)
      64 + ceilDiv inB 512 + t + (ceilDiv (ceilDiv (outB m ncC) 128) 4 + 42) + 40 + ceilDiv s 8 * t + 16
  | _ =>
    let probs := instProblems p o ph nb none
    let ref := ((p.tensor? o.srcW).map Tensor.ref).getD 0
    let d0 := max (((p.tensor? o.srcW).map Tensor.d0).getD 1) 1
    let used := (List.range 12).filter (fun k => colsOnStack e ref k != 0)
    maxNat (used.map (fun k =>
      let parts := probs.filterMap (fun q =>
        let sp := stackSpan (e.slices.getD ref []) k (q.offW / d0) q.n
        if q.rows = 0 || sp.2 ≤ sp.1 then none else some (q, engineShares sp.1 sp.2 (List.range (eng k))))
      -- time on the stack, T_op of its slices, number of slices
      let cost (x : IProb × List (Nat × Nat × Nat)) : Nat × List Nat × Nat :=
        let ops := x.2.map (fun g => rangeCycles (nch k) o x.1.rows x.1.k g.2.2)
        let widest := maxNat (x.2.map (fun g => g.2.2))
        (64 + ceilDiv (rowsBytes o.fmtA x.1.k x.1.rows) 512 + maxNat (ops.map sumNat) +
          (ceilDiv (ceilDiv (outB x.1.rows widest) 128) 4 + 42), ops.flatten, sumNat (ops.map List.length))
      let cs := parts.map cost
      let s := ceilDiv (sumNat (cs.map (·.2.2))) (max e.sampling 1)
      sumNat (cs.map (·.1)) + ceilDiv s 8 * maxNat (cs.flatMap (·.2.1)) + 16))

/-- Key bytes of a top-k operator. -/
def topkKeys (o : OpDesc) : Nat := o.m + o.k * 2 ^ 20

/-- The cost of an operator instance, its cell stages (for A_P) and the ports it needs (R252). -/
def opCost (p : Program) (e : BoundEnv) (o : OpDesc) (ph : Phase) (nb : Nat) :
    Counts × List CellCost :=
  match unitOf p o ph nb with
  | .cells =>
    let cs := o.stages.zipIdx.map (fun x => stageCost p e o ph nb x.1 x.2)
    (cs.foldl (fun acc c => acc.add c.counts) {}, cs)
  | .cirrus => ({ cm := cirrusCost p e o ph nb }, [])
  | .sorter =>
    let r := max o.regions 1
    let n := topkKeys o
    let reg := maxNat ((List.range r).map (fun i => sortRegionCycles (sortSlice n r i).2 o.kTop))
    if r = 1 then ({ cc := reg }, [])
    else
      ({ cc := reg + mergePasses r o.kTop * 72 + ceilDiv o.kTop 64 + 8,
         cf := 96 + ceilDiv (8 * o.kTop * (r - 1)) 800 }, [])
  | .append =>
    let a := p.att.getD o.attLayer (AttLayer.ofNat 0)
    ({ cm := maxNat ((e.kv.getD o.attLayer []).map (fun k =>
        64 + ceilDiv (nb * (ceilDiv o.m 16 + 1) * a.pageLines) (e.slotsOn k))) }, [])
  | .atomic =>
    let n := o.m * (if o.batch = 0 then 1 else nb) * (if o.aop = 5 then 2 else 1)
    ({ cf := 96 + ceilDiv (16 * n) 800, cc := 32 + ceilDiv n 16 }, [])

/-- The cost of an edge from producer d on one unit to consumer i on another (R252).
[notes/assumptions 28 DEDUCED, unsafe] -/
def edgeCost (e : BoundEnv) (ud ui : UnitKind) (d i : OpDesc) : Counts :=
  let reads := [i.srcA, i.srcW, i.src2, i.vec, i.count].contains d.dst
  let dstStack := match e.spaceOf d.dst with
    | some (.stack _) => true
    | _ => false
  let drain : Counts :=
    if ud == .cells && (ui == .cirrus || (reads && dstStack)) then { cm := 48 } else {}
  let keyRegion := match e.spaceOf i.srcA with
    | some s => s.region
    | none => e.home
  let keys : Counts :=
    if ui == .sorter && (decide (1 < i.regions) || keyRegion != e.home) then
      { cf := 96 + ceilDiv (topkKeys i * (if i.keyFmt then 2 else 4)) 800 }
    else {}
  drain.add keys

/-- Do two operators share a unit (R238)?
[notes/assumptions 101 DEDUCED, unsafe] -/
def sharesUnit (p : Program) (e : BoundEnv) (ph : Phase) (nb : Nat) (a b : OpDesc) : Bool :=
  let ua := unitOf p a ph nb
  let ub := unitOf p b ph nb
  let stacksOf (o : OpDesc) : List Nat :=
    match o.cls with
    | 1 => e.kv.getD o.attLayer []
    | 3 => (e.recHome[o.recLayer]?).toList
    | _ => (List.range 12).filter (fun k =>
        colsOnStack e (((p.tensor? o.srcW).map Tensor.ref).getD 0) k != 0)
  match ua, ub with
  | .cells, .cells => true
  | .cirrus, .cirrus => (stacksOf a).any (fun k => (stacksOf b).contains k)
  | .sorter, .sorter => true
  | .atomic, .atomic => true
  | _, _ => false

/-- One operator in the walk of R253: where it came from, the counts up to its start and to its finish, and its
finish time. -/
structure WalkPoint where
  op : Nat
  base : Counts
  total : Counts
  finish : Nat
  deriving DecidableEq, Repr

/-- The walk of one step of R253, with the cell stages of every operator: `prev` is the last operator of the step
before. -/
def stepWalk (p : Program) (e : BoundEnv) (ph : Phase) (nb : Nat) (prev : Option (Nat × Phase × Nat)) :
    List WalkPoint × List CellCost :=
  (p.ops.zipIdx.filter (fun o => o.1.active ph)).foldl
    (fun (acc : List WalkPoint × List CellCost) o =>
      let c := opCost p e o.1 ph nb
      let preds := p.preds o.1
      let implicit : List (Nat × Counts) :=
        if acc.1.isEmpty then
          match prev with
          | none => []
          | some (d, dph, dnb) =>
            match p.ops[d]? with
            | none => []
            | some od =>
              let ec := edgeCost e (unitOf p od dph dnb) (unitOf p o.1 ph nb) od o.1
              [(ec.time e.mhz, ec)]
        else []
      let cands := implicit ++ acc.1.filterMap (fun w =>
        match p.ops[w.op]? with
        | none => none
        | some od =>
          let dep := preds.contains w.op
          if dep || sharesUnit p e ph nb od o.1 then
            let ec := if dep then edgeCost e (unitOf p od ph nb) (unitOf p o.1 ph nb) od o.1 else {}
            some (w.finish + ec.time e.mhz, w.total.add ec)
          else none)
      let best := argMax (fun (x : Nat × Counts) => x.1) cands
      let base : Counts := (best.map Prod.snd).getD {}
      let total := base.add c.1
      (acc.1 ++ [{ op := o.2, base := base, total := total, finish := total.time e.mhz }], acc.2 ++ c.2))
    ([], [])

/-- One step of R253: the counts of the critical path and the cell stages of every operator. -/
def stepCounts (p : Program) (e : BoundEnv) (ph : Phase) (nb : Nat) (prev : Option (Nat × Phase × Nat)) :
    Counts × List CellCost :=
  let walk := stepWalk p e ph nb prev
  (((argMax WalkPoint.finish walk.1).map WalkPoint.total).getD {}, walk.2)

/-- Batch sizes of the phases (R226). -/
def phaseBatch (p : Program) (b : Batch) : Phase → Nat
  | .observed => b.o + p.hdr.hMax
  | .imagined => if b.forkBudget = 0 then 0 else b.fMax - b.o

/-- S_o of R226. -/
def obsStepsBound (p : Program) (b : Batch) : Nat :=
  max (if b.o = 0 then 0 else p.hdr.sObs) (if p.hdr.hMax = 0 then 0 else p.hdr.sH)

/-- Last operator active in a phase. -/
def lastActive (p : Program) (ph : Phase) (nb : Nat) : Option (Nat × Phase × Nat) :=
  ((p.ops.zipIdx.filter (fun o => o.1.active ph)).getLast?).map (fun o => (o.2, ph, nb))

/-- Part of A_P of one step's instances (R457). -/
def allowanceOf (e : BoundEnv) (cs : List CellCost) : Nat :=
  let c := max e.cells.length 1
  sumNat (cs.map (fun x =>
    if x.tiles = 0 then 0
    else
      let s := if c = 1 then 0 else ceilDiv x.tiles (max e.sampling 1)
      (ceilDiv (x.tiles + s) c - ceilDiv x.tiles c) * x.tMax + 128))

/-- The largest copy batch over the stacks before the first imagined step (R249 part 3). -/
def copyBatch (p : Program) (e : BoundEnv) (b : Batch) : Nat :=
  let ni := phaseBatch p b .imagined
  if ni = 0 then 0
  else
    maxNat ((List.range 12).map (fun k =>
      let per := p.att.zipIdx.filterMap (fun a =>
        if (e.kv.getD a.2 []).contains k then
          some ((ni + if b.fMax = 65536 then ceilDiv a.1.lMax 16 else 0) * a.1.pageLines)
        else none)
      if per.isEmpty then 0 else 48 + ceilDiv (sumNat per) (max (e.channels.getD k 32) 1)))

/-- Time of X bytes at a grant in units of 0.1 GB/s, in ps; without a grant no time is admissible. -/
def grantPs (bytes grant : Nat) : Nat :=
  if grant = 0 then 10 ^ 18 else ceilDiv (bytes * 10000) grant

/-- Steps of a round in which an operator of a class acts on an attention layer, `so` observed and `si` imagined. -/
def layerSteps (p : Program) (cls l so si : Nat) : Nat :=
  let on (ph : Phase) : Bool := p.ops.any (fun o => o.cls == cls && o.attLayer == l && o.active ph)
  (if on .observed then so else 0) + (if on .imagined then si else 0)

/-- One program time of a flash die in ps: its 4 planes of 16 KiB at its share of the raw program bandwidth (R314, R322).
[notes/assumptions 200 DEDUCED, unsafe] -/
def programPs : Nat := grantPs (256 * (4 * 16384)) 768

/-- Spill terms of R165 in ps for `so` observed and `si` imagined steps: a recall in every step that reads the layer,
and the pages that can fill in the round. -/
def spillPs (p : Program) (e : BoundEnv) (b : Batch) (so si : Nat) : Nat :=
  let nf := if b.forkBudget = 0 then b.o else b.fMax
  let reads := p.att.zipIdx.map (fun a =>
    if e.kvSpilled.getD a.2 false then
      layerSteps p 1 a.2 so si * (1600000000 + grantPs (nf * ceilDiv a.1.lMax 16 * a.1.pageBytes) e.readGrant)
    else 0)
  let appended (l : Nat) (ph : Phase) : Nat :=
    sumNat (p.ops.map (fun o => if o.cls = 2 && o.attLayer = l && o.active ph then o.m else 0))
  let fills := p.att.zipIdx.map (fun a =>
    if e.kvSpilled.getD a.2 false then
      (b.o * ceilDiv (appended a.2 .observed * so) 16 +
        phaseBatch p b .imagined * ceilDiv (appended a.2 .imagined * si) 16) * a.1.pageBytes
    else 0)
  sumNat reads + (if sumNat fills = 0 then 0 else grantPs (sumNat fills) e.writeGrant + programPs)

/-- Bytes of a weight operand that the problems of an instance can read (R261): the columns of a MATMUL weight, the
whole of any other. -/
def streamedBytes (o : OpDesc) (t : Tensor) (h : Nat) (probs : List IProb) : Nat :=
  if o.cls = 0 && o.srcW = h then
    sumNat ((probs.map (fun q => (q.offW, q.k, q.n))).eraseDups.map (fun q => rowsBytes t.fmt q.2.1 q.2.2))
  else t.sliceBytes

/-- Operands of an operator that its class reads. -/
def OpDesc.reads (o : OpDesc) : List Nat :=
  ([o.srcA, o.srcW, o.src2, o.vec, o.count].filter (· != 0xFFFF)).eraseDups

/-- Streaming terms of R261 of one step in ps: for each instance that reads STREAMED tensors, 1.6 ms and their bytes at
the read grant. -/
def streamPs (p : Program) (e : BoundEnv) (ph : Phase) (nb : Nat) : Nat :=
  sumNat (p.ops.map (fun o =>
    let probs := (instProblems p o ph nb none).filter (fun q => q.rows != 0)
    let bytes := o.reads.map (fun h => match p.tensor? h with
      | some t => if t.cls == 0 && e.streamed.getD t.ref false then streamedBytes o t h probs else 0
      | none => 0)
    if !o.active ph || probs.isEmpty || sumNat bytes = 0 then 0
    else 1600000000 + grantPs (sumNat bytes) e.readGrant))

/-- The Parallax allowance A_P of a round in ccyc (R457). -/
def parallaxAllowance (p : Program) (e : BoundEnv) (b : Batch) : Nat :=
  let no := phaseBatch p b .observed
  let ni := phaseBatch p b .imagined
  let cells (ph : Phase) (nb : Nat) : List CellCost := (stepCounts p e ph nb none).2
  obsStepsBound p b * allowanceOf e (cells .observed no) +
    (if ni = 0 then 0 else p.hdr.s * allowanceOf e (cells .imagined ni)) + (ceilDiv e.windowNs 10000000 + 1) * 1280

/-- The bound of a round: its counts with the allowance, B in ps, and the ports it needs (R249).
[notes/assumptions 12 DESIGN CHOICE, safe] -/
def roundBound (p : Program) (e : BoundEnv) (b : Batch) : Counts × Nat × List Nat :=
  let no := phaseBatch p b .observed
  let ni := phaseBatch p b .imagined
  let so := obsStepsBound p b
  let si := if ni = 0 then 0 else p.hdr.s
  let lastO := lastActive p .observed no
  let lastI := lastActive p .imagined ni
  let o1 := stepCounts p e .observed no none
  let o2 := stepCounts p e .observed no lastO
  let i1 := stepCounts p e .imagined ni (if so = 0 then none else lastO)
  let i2 := stepCounts p e .imagined ni (match lastI with
    | some x => some x
    | none => lastO)
  let obs := if so = 0 then {} else o1.1.add (o2.1.times (so - 1))
  let img := if si = 0 then {} else i1.1.add (i2.1.times (si - 1))
  let intake : Counts := { ci := 128, cf := 96 + ceilDiv (b.o * p.hdr.sObs * p.hdr.inputMax) 800 }
  let copies : Counts := { cm := copyBatch p e b }
  let total := (((intake.add obs).add copies).add img).add { cc := parallaxAllowance p e b }
  let extra := spillPs p e b so si + so * streamPs p e .observed no + si * streamPs p e .imagined ni
  (total, total.ps e.mhz + extra,
    ((if so = 0 then [] else o1.2) ++ (if si = 0 then [] else i1.2)).flatMap CellCost.ports)

/-- The operators of a round in the order of its admitted schedule, each with the counts before its start (R249, R253). -/
def roundSchedule (p : Program) (e : BoundEnv) (b : Batch) : List (Nat × Counts) :=
  let no := phaseBatch p b .observed
  let ni := phaseBatch p b .imagined
  let so := obsStepsBound p b
  let si := if ni = 0 then 0 else p.hdr.s
  let intake : Counts := { ci := 128, cf := 96 + ceilDiv (b.o * p.hdr.sObs * p.hdr.inputMax) 800 }
  let step (ph : Phase) (nb : Nat) (prev : Option (Nat × Phase × Nat)) (acc : List (Nat × Counts) × Counts) :
      List (Nat × Counts) × Counts :=
    let w := stepWalk p e ph nb prev
    (acc.1 ++ w.1.map (fun x => (x.op, acc.2.add x.base)), acc.2.add (stepCounts p e ph nb prev).1)
  let lastO := lastActive p .observed no
  let obs := (List.range so).foldl (fun acc i => step .observed no (if i = 0 then none else lastO) acc) ([], intake)
  let copied := (obs.1, obs.2.add { cm := copyBatch p e b })
  ((List.range si).foldl (fun acc i => step .imagined ni (if i = 0 then (if so = 0 then none else lastO) else
    (match lastActive p .imagined ni with
      | some x => some x
      | none => lastO)) acc) copied).1

/-- The admissible time W in ns for a period in µs and a guard band in 0.1 % (R61). -/
def admissibleNs (periodUs guard : Nat) : Nat := periodUs * 1000 - 16000 - guard * periodUs

end Sys2Proof.Machine
end

