-- ==== Sys2Proof/Machine/Bind.lean ====
section
/-!
DEFINITION. The checks of BIND in the order of R245, each with the byte offset of its first failing
field counted from the start of the BIND payload.
-/

namespace Sys2Proof.Machine

/-- A check: nothing when it holds, the offset of its field when it fails. -/
def ck (bad : Bool) (off : Nat) : Option Nat := if bad then some off else none

/-- The first failing offset of a list of checks. -/
def firstFail : List (Option Nat) → Option Nat
  | [] => none
  | some o :: _ => some o
  | none :: t => firstFail t

/-- Checks over an indexed list, in order. -/
def eachIdx {α : Type} (l : List α) (f : Nat → α → List (Option Nat)) : List (Option Nat) :=
  l.zipIdx.flatMap (fun x => f x.2 x.1)

/-- The six tables: offset, record size, count and the header byte of the offset field (R224). -/
def tablesOf (h : Header) : List (Nat × Nat × Nat × Nat) :=
  [(h.offTens, 64, h.nTens, 40), (h.offOps, 128, h.nOps, 44), (h.offProb, 32, h.nProb, 48),
   (h.offEdge, 4, h.nEdge, 52), (h.offSite, 4, h.nSites, 56), (h.offAtt, 16, h.nAtt, 60)]

/-- Do two tables overlap? -/
def tablesOverlap (a b : Nat × Nat × Nat × Nat) : Bool :=
  a.2.2.1 != 0 && b.2.2.1 != 0 && decide (a.1 < b.1 + b.2.1 * b.2.2.1) &&
    decide (b.1 < a.1 + a.2.1 * a.2.2.1)

/-- Is a byte position inside the header or a table? -/
def inTables (h : Header) (x : Nat) : Bool :=
  decide (x < 128) ||
    (tablesOf h).any (fun t => decide (t.1 ≤ x) && decide (x < t.1 + t.2.1 * t.2.2.1))

/-- First byte outside the header and the tables that is not 0 (R224). -/
def strayByte (h : Header) (bs : Bytes) : Option Nat :=
  (bs.zipIdx.find? (fun b => b.1 != 0 && !inTables h b.2)).map Prod.snd

/-- CRC-32C of the image with its CRC field at 0 (R225). -/
def programCrc (img : Bytes) : Nat :=
  crc32c (img.take 12 ++ [0, 0, 0, 0] ++ img.drop 16)

/-- The first reserved field of a record that is not 0, as the byte its lowest bit lies in (R10, R245). -/
def reservedIn (fields : List (Nat × Nat)) (x : Nat) : Option Nat :=
  firstFail (fields.map (fun f => ck (field x f.1 f.2 != 0) (f.2 / 8)))

/-- Reserved fields of the records of the six tables (R227, R230, R231, R234, R236, R237, R239). -/
def tensorReserved : Nat → Option Nat := reservedIn [(31, 31), (63, 35), (511, 256)]
def opReserved : Nat → Option Nat :=
  reservedIn [(15, 12), (31, 24), (63, 63), (223, 208), (287, 280), (383, 368), (767, 606), (775, 771), (839, 835),
    (903, 899), (967, 963)]
def problemReserved : Nat → Option Nat := reservedIn [(63, 61), (255, 224)]
def edgeReserved : Nat → Option Nat := reservedIn [(31, 16)]
def siteReserved : Nat → Option Nat := reservedIn [(15, 15), (31, 18)]
def attReserved : Nat → Option Nat := reservedIn [(47, 37), (127, 65)]

/-- A check of every record of a table of the image, as offsets in the payload. -/
def eachRecord (img : Bytes) (off size n : Nat) (f : Nat → Option Nat) : List (Option Nat) :=
  (List.range n).map (fun i => (f (leAt img (off + i * size) size)).map (· + (64 + off + i * size)))

/-- Step 1 of R245: bind fields, tags, MAGIC, VERSION, SIZE, CRC, table bounds, reserved fields. -/
def bindFormChecks (payload : Bytes) : Option Nat :=
  let img := payload.drop 64
  let w := leAt img 0 128
  let h := Header.ofNat w
  let bt := leAt payload 0 8
  firstFail
    ([ck (leAt payload 8 56 != 0) 8,
      ck (bt == 0 && h.imageTag == 0) 0,
      ck (bt != 0 && h.imageTag != 0 && bt != h.imageTag) 0,
      ck (h.magic != 0x50525A39) 64,
      ck (h.version != 1) 68,
      ck (h.size != img.length || decide (img.length < 320) || decide (2097088 < img.length) ||
        img.length % 64 != 0) 72,
      ck (h.crc != programCrc img) 76] ++
    (tablesOf h).map (fun t =>
      ck (if t.2.2.1 = 0 then t.1 != 0
          else t.1 % 64 != 0 || decide (t.1 < 128) || decide (img.length < t.1 + t.2.1 * t.2.2.1))
        (64 + t.2.2.2)) ++
    (tablesOf h).zipIdx.flatMap (fun a => (tablesOf h).zipIdx.map (fun b =>
      ck (decide (b.2 < a.2) && tablesOverlap a.1 b.1) (64 + a.1.2.2.2))) ++
    [(strayByte h img).map (· + 64),
     ck (field w 63 48 != 0) 70, ck (field w 543 530 != 0) 130, ck (field w 639 631 != 0) 142,
     ck (field w 1023 691 != 0) 150] ++
    eachRecord img h.offTens 64 h.nTens tensorReserved ++
    eachRecord img h.offOps 128 h.nOps opReserved ++
    eachRecord img h.offProb 32 h.nProb problemReserved ++
    eachRecord img h.offEdge 4 h.nEdge edgeReserved ++
    eachRecord img h.offSite 4 h.nSites siteReserved ++
    eachRecord img h.offAtt 16 h.nAtt attReserved)

/-- The image tag BIND uses (R353). -/
def bindTag (payload : Bytes) : Nat :=
  let bt := leAt payload 0 8
  if bt = 0 then (Header.ofNat (leAt payload 64 128)).imageTag else bt

/-- Offset of the tag field that named the image. -/
def bindTagOffset (payload : Bytes) : Nat := if leAt payload 0 8 = 0 then 64 + 16 else 0

/-- Step 3 of R245: every WEIGHT tensor agrees with the image's entry. -/
def bindWeightChecks (p : Program) (im : Image) : Option Nat :=
  firstFail (eachIdx p.tensors (fun i t =>
    let at' := 64 + p.hdr.offTens + 64 * i
    if t.cls != 0 then []
    else
      match im.entries[t.ref]? with
      | none => [some (at' + 28)]
      | some e =>
        [ck (e.fmt != t.fmt) at', ck (e.layout != t.layout) (at' + 1), ck (e.rank != t.rank) (at' + 4),
         ck (e.d0 != t.d0) (at' + 8), ck (e.d1 != t.d1) (at' + 12), ck (e.d2 != t.d2) (at' + 16),
         ck (e.d3 != t.d3) (at' + 20)]))

/-- The fields of the body as bits of the descriptor, M to CONV_GROUPED (R231). -/
def bodyFields : List (Nat × Nat) :=
  [(403, 384), (423, 404), (443, 424), (459, 444), (475, 460), (482, 476), (489, 483), (491, 490), (494, 492), (501, 495),
   (508, 502), (515, 509), (522, 516), (525, 523), (527, 526), (528, 528), (530, 529), (533, 531), (536, 534), (539, 537),
   (551, 540), (558, 552), (574, 559), (583, 575), (584, 584), (595, 585), (596, 596), (597, 597), (598, 598), (601, 599),
   (604, 602), (605, 605)]

/-- The numbers in `bodyFields` of the fields a class uses (R232). -/
def usedFields (cls : Nat) : List Nat :=
  match cls with
  | 0 => [0, 1, 2]
  | 1 => [0, 20, 21]
  | 2 => [0, 20, 22]
  | 3 => [0, 23, 24]
  | 4 => [1, 2, 3, 4, 5, 6, 7, 8, 9, 10, 11, 12, 13, 31]
  | 5 => [1, 3, 4, 14, 15]
  | 6 => [1, 3, 4, 9, 11, 16, 17, 18, 19]
  | 7 => [0, 2]
  | 8 => [0, 1, 25, 26, 27, 28, 29]
  | _ => [0, 30]

/-- Offset in the descriptor of the first body field that a class does not use and that is not 0. -/
def bodyStray (o : OpDesc) : Option Nat :=
  ((bodyFields.zipIdx.find? (fun x => !(usedFields o.cls).contains x.2 && field o.raw x.1.1 x.1.2 != 0))).map
    (fun x => x.1.2 / 8)

/-- Does a class use operand W, operand 2, VEC, and has it a gate control word (R232)? A regroup or pooling pass takes
the vectors and the second operand of its gate word (R86, R202).
[notes/assumptions 178 DEDUCED, unsafe] -/
def usesW (cls : Nat) : Bool := cls == 0 || cls == 3 || cls == 4
def usesTwo (cls : Nat) : Bool := cls == 0 || (decide (4 ≤ cls) && decide (cls ≤ 7)) || cls == 9
def usesVec (cls : Nat) : Bool := cls == 0 || (decide (4 ≤ cls) && decide (cls ≤ 7))
def usesGate (cls : Nat) : Bool := cls != 2 && cls != 8 && cls != 9

/-- Is a handle a tensor of the program? -/
def Program.hasHandle (p : Program) (h : Nat) : Bool := decide (h < p.tensors.length)

/-- Smallest and largest batch a phase can have: O ≥ 1, one imagined future; F_max at most 65,536 (R19, R226). -/
def minBatch (p : Program) : Phase → Nat
  | .observed => 1 + p.hdr.hMax
  | .imagined => 1
def maxBatch (p : Program) : Phase → Nat
  | .observed => 65536 + p.hdr.hMax
  | .imagined => 65535

/-- The phases an operator is active in. -/
def OpDesc.phases (o : OpDesc) : List Phase := [Phase.observed, Phase.imagined].filter (fun ph => o.active ph)

/-- The units an operator can run on in a phase: BIND knows no batch, so an operator under BATCH ROWS may have two.
[notes/assumptions 27 DEDUCED, unsafe] -/
def bindUnits (p : Program) (o : OpDesc) (ph : Phase) : List UnitKind :=
  [unitOf p o ph (minBatch p ph), unitOf p o ph (maxBatch p ph)].eraseDups

/-- Does every unit an operator can run on in some phase fail a check?
[notes/assumptions 27 DEDUCED, unsafe] -/
def badOn (p : Program) (o : OpDesc) (bad : Phase → UnitKind → Bool) : Bool :=
  o.phases.any (fun ph => (bindUnits p o ph).all (bad ph))

/-- Can an operator run on cells in some phase; must it in some phase? -/
def mayUseCells (p : Program) (o : OpDesc) : Bool := o.phases.any (fun ph => (bindUnits p o ph).contains .cells)
def mustUseCells (p : Program) (o : OpDesc) : Bool := badOn p o (fun _ u => decide (u = .cells))

/-- Are an operator's level descriptors those of a cell operator (R239)? -/
def hasLevels (p : Program) (o : OpDesc) : Bool :=
  mustUseCells p o || (mayUseCells p o && field o.raw 1023 768 != 0)

/-- Does a run of elements from an offset leave a slice (R234)? -/
def offsetBad (p : Program) (h off rows cols : Nat) : Bool :=
  match p.tensor? h with
  | none => false
  | some t =>
    rows != 0 && cols != 0 &&
      decide (max t.elements 1 < off + (rows - 1) * t.d0 + cols)

/-- Elements of a recurrent step's operand row (R171, R232). -/
def recRow (h : Header) : Nat := if h.kind = 2 then 2 * h.c else 3 * h.c + 2 * h.g * h.ns

/-- Elements of SRC_A that one operation of an ATOMIC operator takes (R308). -/
def operationElements (p : Program) (o : OpDesc) : Nat :=
  ceilDiv (8 * (if o.aop = 5 then 16 else if o.aop ≤ 1 then 4 else 8)) (fmtBits (((p.tensor? o.srcA).map Tensor.fmt).getD 0))

/-- Rows and columns of operand A and of the destination for a problem of `rows` rows (R230 to R232). -/
def problemShape (p : Program) (o : OpDesc) (q : Problem) (rows : Nat) : (Nat × Nat) × (Nat × Nat) :=
  let a := p.att.getD o.attLayer (AttLayer.ofNat 0)
  match o.cls with
  | 0 => ((rows, q.k), (rows, q.n))
  | 1 => ((o.m, a.hKv * o.gq * a.dh), (o.m, a.hKv * o.gq * a.dh))
  | 2 => ((o.m, 2 * a.hKv * a.dh), (0, 0))
  | 3 => ((rows, recRow p.hdr), (rows, p.hdr.c))
  | 9 => ((1, rows * operationElements p o), (0, 0))
  | 4 => ((o.h * o.w, q.k), (o.imageOut.1, if o.probCount = 0 then o.imageOut.2 else q.n))
  | 5 | 6 => ((o.h * o.w, o.k), o.imageOut)
  | 7 => ((rows, q.n), (rows, q.n))
  | _ => ((0, 0), (0, 0))

/-- Rows a problem addresses in a slice of a tensor with `nb` members: those of one member in a PER_FUTURE slice, of all
of them under BATCH ROWS elsewhere. -/
def sliceRows (p : Program) (o : OpDesc) (h nb rows : Nat) : Nat :=
  if o.batch = 1 && !o.isImage && !((p.tensor? h).map Tensor.perFuture).getD true then rows * nb else rows

/-- Does a problem leave operand A, operand W or the destination, with a batch of `nb` members (R234)?
[notes/assumptions 177 DESIGN CHOICE, unsafe] -/
def leavesA (p : Program) (o : OpDesc) (q : Problem) (rows nb : Nat) : Bool :=
  let x := (problemShape p o q rows).1
  rows != 0 && offsetBad p o.srcA q.offA (sliceRows p o o.srcA nb x.1) x.2
def leavesW (p : Program) (o : OpDesc) (q : Problem) (rows : Nat) : Bool :=
  rows != 0 && match o.cls, p.tensor? o.srcW with
    | 0, some _ => offsetBad p o.srcW q.offW q.n q.k
    | 3, some t => p.hdr.kind != 2 &&
        decide (t.elements < (if p.hdr.kind = 1 then p.hdr.c * p.hdr.ns else p.hdr.c) + p.hdr.c)
    | 4, some t => decide (t.elementPlane < imageBase t q.offW +
        firstImage o q.k (if o.probCount = 0 then o.imageOut.2 else q.n) o.stages.length * imageBytes o.fmtW)
    | _, _ => false
def leavesD (p : Program) (o : OpDesc) (q : Problem) (rows nb : Nat) : Bool :=
  let x := (problemShape p o q rows).2
  rows != 0 && offsetBad p o.dst q.offD (sliceRows p o o.dst nb x.1) x.2

/-- Rows a problem has at most in a phase: M, or the phase's CAP of a DYN problem; an image operator's own shape has no
rows field (R234). -/
def Problem.rowsIn (q : Problem) (o : OpDesc) (ph : Phase) : Nat :=
  if o.isImage && o.probCount = 0 then 1
  else if q.dyn then q.cap ph else q.m

/-- Does a check of a problem's rows fail in some phase of its operator? -/
def anyPhase (o : OpDesc) (q : Problem) (bad : Phase → Nat → Bool) : Bool := o.phases.any (fun ph => bad ph (q.rowsIn o ph))

/-- Has a problem rows in some phase? An empty one reads and writes nothing. -/
def Problem.inUse (q : Problem) (o : OpDesc) : Bool := anyPhase o q (fun _ r => r != 0)

/-- Does the index tensor of an ATOMIC operator hold fewer indexes than a problem has operations (R234, R308)?
[notes/assumptions 199 DEDUCED, unsafe] -/
def leavesIndex (p : Program) (o : OpDesc) (q : Problem) (rows nb : Nat) : Bool :=
  o.cls == 9 && match p.tensor? o.src2 with
    | none => false
    | some t => decide (t.rows * (rowElementBytes t.fmt t.d0 / 8) <
        q.offA / max (operationElements p o) 1 + sliceRows p o o.src2 nb rows)

/-- Is an operand DENSE where R200 does not allow it? -/
def denseBad (p : Program) (o : OpDesc) (h : Nat) : Bool :=
  h != 0xFFFF && ((p.tensor? h).map Tensor.layout).getD 0 == 2 &&
    !(o.cls == 5 && ((h == o.srcA && !o.dir) || (h == o.dst && o.dir)))

/-- Has a level descriptor a field that is not 0? -/
def levelSet (l : Level) : Bool := l.order != 0 || l.eP != 0 || l.eM != 0 || l.eN != 0

/-- Offset in a level descriptor of its first field that is not 0 (R239). -/
def levelField (l : Level) : Nat := if l.order != 0 then 0 else if l.eP != 0 then 1 else if l.eM != 0 then 3 else 5

/-- The whole N of a problem, which E_N may be beside a multiple of 64 (R239). -/
def wholeN (p : Program) (o : OpDesc) (q : Problem) : Nat :=
  if o.isImage && o.probCount = 0 then o.imageOut.2
  else if o.cls = 1 then (p.att.getD o.attLayer (AttLayer.ofNat 0)).dh
  else if o.cls = 3 then p.hdr.c else q.n

/-- Step 4 of R245: counts, offsets, handles, edges, header fields, problems, levels, class fields,
operator formats against tensors, INPUT tensors. -/
def bindStructureChecks (p : Program) : Option Nat :=
  let h := p.hdr
  let header :=
    [ck (h.nTens == 0) 88, ck (h.nOps == 0 || decide (32768 < h.nOps)) 90,
     ck (decide (32768 < h.nSites)) 92, ck (decide (1024 < h.nAtt)) 94,
     ck (decide (65536 < h.nProb)) 96, ck (decide (524288 < h.nEdge)) 100,
     ck (h.s == 0 || decide (4096 < h.s)) 128, ck (h.sObs == 0 || decide (16 < h.sObs)) 129,
     ck (decide (2097152 < h.inputMax) || h.inputMax % 64 != 0) 132,
     ck (decide (256 < h.recLayers)) 136,
     ck (decide (2 < h.kind)) 137,
     ck (h.recLayers == 0 && (h.kind != 0 || h.c != 0)) 137, ck (h.recLayers == 0 && h.ns != 0) 139,
     ck (h.recLayers == 0 && h.g != 0) 140,
     ck (if h.recLayers = 0 then h.rnN != 0 else h.rnN == 0 || decide (4096 < h.rnN)) 141,
     ck (decide (262144 < h.hMax) || (h.recLayers == 0 && h.hMax != 0)) 144,
     ck (decide (h.hMax < h.hRes)) 146,
     ck (if h.hMax = 0 then h.sH != 0 else h.sH == 0 || decide (4096 < h.sH)) 148,
     ck (h.hMax != 0 && h.inputMax == 0) 132]
  let tensors := eachIdx p.tensors (fun i t =>
    let a := 64 + h.offTens + 64 * i
    [ck (decide (6 < t.cls)) a, ck (decide (13 < t.fmt)) a, ck (t.layout == 3) (a + 1),
     ck (decide (1 < t.home) || (t.home == 0 && (t.cls == 0 || decide (4 ≤ t.cls)))) (a + 1),
     ck (t.hint == 3 && t.cls != 1) (a + 1),
     ck (t.cls == 3 && !t.perFuture) (a + 1),
     ck (t.cls != 3 && t.obsSite != 0) (a + 2),
     ck (t.cls == 3 && !(p.sites.any (fun s => s.site == t.obsSite))) (a + 2),
     ck (t.rank == 0 || decide (4 < t.rank)) (a + 4),
     ck (t.d0 == 0) (a + 8), ck (if t.rank < 2 then t.d1 != 0 else t.d1 == 0) (a + 12),
     ck (if t.rank < 3 then t.d2 != 0 else t.d2 == 0) (a + 16),
     ck (if t.rank < 4 then t.d3 != 0 else t.d3 == 0) (a + 20),
     ck (t.cls == 5 && decide (h.recLayers ≤ t.ref)) (a + 28),
     ck (t.cls == 6 && decide (h.nAtt ≤ t.ref)) (a + 28),
     ck (t.cls != 0 && t.cls != 5 && t.cls != 6 && t.ref != 0) (a + 28)])
  let ops := eachIdx p.ops (fun i o =>
    let a := 64 + h.offOps + 128 * i
    let fmtIs (f hd : Nat) : Bool := ((p.tensor? hd).map (fun t => t.fmt == f)).getD false
    let cells := hasLevels p o
    [ck (decide (9 < o.cls)) a, ck (o.batch == 3) (a + 1), ck (o.phase == 3) (a + 1),
     ck (decide (13 < o.fmtA)) (a + 2), ck (decide (13 < o.fmtW)) (a + 2),
     ck (!usesW o.cls && o.fmtW != 0) (a + 2),
     ck (p.hasHandle o.srcA && !fmtIs o.fmtA o.srcA) (a + 2),
     ck (usesW o.cls && p.hasHandle o.srcW && !fmtIs o.fmtW o.srcW) (a + 2),
     ck (o.cls == 3 && o.fmtW != 0) (a + 2),
     ck (usesGate o.cls && p.hasHandle o.dst && !fmtIs o.gate.outFmt o.dst) (a + 4),
     ck (!p.hasHandle o.srcA) (a + 8),
     ck (if usesW o.cls && !(o.cls == 3 && h.kind == 2) then !p.hasHandle o.srcW else o.srcW != 0xFFFF) (a + 10),
     ck (if usesTwo o.cls then o.src2 != 0xFFFF && !p.hasHandle o.src2 else o.src2 != 0xFFFF) (a + 12),
     ck (o.cls == 9 && !p.hasHandle o.src2) (a + 12),
     ck (usesGate o.cls && o.gate.post != 0 && o.gate.draw == 0 && !p.hasHandle o.src2) (a + 12),
     ck (if usesVec o.cls then o.vec != 0xFFFF && !p.hasHandle o.vec else o.vec != 0xFFFF) (a + 14),
     ck (usesVec o.cls && o.gate.pre != 0 && !p.hasHandle o.vec) (a + 14),
     ck (usesGate o.cls && !usesVec o.cls && o.gate.pre != 0) (a + 4),
     ck (!p.hasHandle o.dst && !(o.cls == 2 && o.dst == 0xFFFF)) (a + 16),
     ck (o.count != 0xFFFF && !fmtIs 12 o.count) (a + 18),
     ck ((p.problemsOf o).any (fun q => q.dyn) && o.count == 0xFFFF) (a + 18),
     ck (decide (p.edges.length < o.depFirst + o.depCount)) (a + 20),
     ck (o.probCount != 0 && decide (p.problems.length < o.probFirst + o.probCount)) (a + 28),
     (bodyStray o).map (· + a),
     ck (o.cls == 1 && decide (h.nAtt ≤ o.attLayer)) (a + 67),
     ck (o.cls == 1 && (o.gq == 0 || decide (64 < o.gq))) (a + 69),
     ck (o.cls == 2 && decide (h.nAtt ≤ o.attLayer)) (a + 67),
     ck (o.cls == 3 && decide (h.recLayers ≤ o.recLayer)) (a + 71),
     ck (o.cls == 5 && o.factor == 0) (a + 65),
     ck (o.cls == 4 && o.stride == 3) (a + 61),
     ck (o.cls == 9 && decide (5 < o.aop)) (a + 75),
     ck (o.cls == 9 && (((p.tensor? o.dst).map (fun t => t.home != 0)).getD true)) (a + 16),
     ck (o.cls == 0 && o.probCount == 0 && ([o.srcA, o.srcW].any (fun hd =>
        ((p.tensor? hd).map (fun t => t.d0 != o.k)).getD false))) (a + 50),
     ck (o.cls == 0 && o.probCount == 0 && (((p.tensor? o.srcW).map (fun t => t.rows != o.n)).getD false ||
        ((p.tensor? o.dst).map (fun t => t.d0 != o.n)).getD false)) (a + 53),
     ck (o.probCount == 0 && (p.problemsOf o).any (fun q => anyPhase o q (fun ph r => leavesA p o q r (minBatch p ph)))) (a + 8),
     ck (o.probCount == 0 && (p.problemsOf o).any (fun q => anyPhase o q (fun _ r => leavesW p o q r))) (a + 10),
     ck ((p.problemsOf o).any (fun q => anyPhase o q (fun ph r => leavesIndex p o q r (minBatch p ph)))) (a + 12),
     ck (o.probCount == 0 && (p.problemsOf o).any (fun q => anyPhase o q (fun ph r => leavesD p o q r (minBatch p ph)))) (a + 16),
     ck (o.cls == 8 && (((p.tensor? o.srcA).map (fun t => !t.perFuture && decide (t.elements < topkKeys o))).getD false))
       (a + 8),
     ck (o.cls == 8 && (((p.tensor? o.dst).map (fun t => decide (t.sliceBytes < 8 + 8 * o.kTop))).getD false)) (a + 16),
     ck (!cells && levelSet o.l0) (a + 96 + levelField o.l0),
     ck (cells && o.l0.order != 0) (a + 96), ck (cells && o.l0.eP != 1) (a + 97),
     ck (cells && (o.l0.eM == 0 || decide (2048 < o.l0.eM))) (a + 99),
     ck (cells && (o.l0.eN == 0 || (o.l0.eN % 64 != 0 && (p.problemsOf o).any (fun q =>
        o.l0.eN != wholeN p o q)))) (a + 101)] ++
    [(o.l1, 104), (o.l2, 112)].flatMap (fun l =>
      [ck (!cells && levelSet l.1) (a + l.2 + levelField l.1),
       ck (cells && decide (5 < l.1.order)) (a + l.2), ck (cells && l.1.eP == 0) (a + l.2 + 1),
       ck (cells && l.1.eM == 0) (a + l.2 + 3), ck (cells && l.1.eN == 0) (a + l.2 + 5)]) ++
    [ck (!cells && levelSet o.l3) (a + 120 + levelField o.l3),
     ck (cells && decide (5 < o.l3.order)) (a + 120), ck (cells && o.l3.eP != 0) (a + 121),
     ck (cells && o.l3.eM != 0) (a + 123), ck (cells && o.l3.eN != 0) (a + 125)] ++
    eachIdx (p.preds o) (fun j e =>
      [ck (decide (i ≤ e)) (64 + h.offEdge + 4 * (o.depFirst + j))]) ++
    (if o.probCount = 0 then [] else
      eachIdx (p.problemsOf o) (fun j q =>
        let b := 64 + h.offProb + 32 * (o.probFirst + j)
        [ck (o.cls == 0 && q.inUse o && [o.srcA, o.srcW].any (fun hd =>
            ((p.tensor? hd).map (fun t => t.d0 != q.k)).getD false)) (b + 2),
         ck (o.cls == 0 && q.inUse o && ((p.tensor? o.dst).map (fun t => t.d0 != q.n)).getD false) (b + 5),
         ck (anyPhase o q (fun ph r => leavesA p o q r (minBatch p ph))) (b + 8),
         ck (anyPhase o q (fun _ r => leavesW p o q r)) (b + 13),
         ck (anyPhase o q (fun ph r => leavesD p o q r (minBatch p ph))) (b + 18)])))
  let problems := eachIdx p.problems (fun i q =>
    let b := 64 + h.offProb + 32 * i
    [ck (!q.dyn && q.capO != 0) (b + 23), ck (!q.dyn && q.capI != 0) (b + 25)])
  firstFail (header ++ tensors ++ ops ++ problems ++
    eachIdx p.sites (fun i s => [ck ((p.sites.take i).any (fun s' => s'.site == s.site)) (64 + h.offSite + 4 * i),
      ck (s.kind == 3) (64 + h.offSite + 4 * i + 2)]))

/-- Legality of a gate control word for its operator (R87).
[notes/assumptions 34 DEDUCED, unsafe] -/
def gateBad (p : Program) (o : OpDesc) : Bool :=
  let g := o.gate
  let perFuture := ((p.tensor? o.dst).map Tensor.perFuture).getD false
  let els := ((p.tensor? o.dst).map Tensor.elements).getD 0
  g.reserved || decide (14 < g.func) || g.post == 3 || decide (13 < g.outFmt) ||
    (g.outFmt == 12 && !(o.fmtA == 11 && o.fmtW == 11 && g.func == 0 && g.pre == 0 && g.post == 0)) ||
    (g.sr && !(g.outFmt == 1 || (decide (3 ≤ g.outFmt) && decide (g.outFmt ≤ 10)))) ||
    (g.draw == 3 && g.func != 0) ||
    (g.draw != 0 && g.post == 0) ||
    ((g.draw != 0 || g.sr) && !perFuture) ||
    (g.draw != 0 && !(p.sites.any (fun s => s.site == g.site && s.kind + 1 == g.draw))) ||
    ((g.draw != 0 || g.sr) && decide ((if g.draw = 3 then 2 ^ 33 else 2 ^ 34) < els))

/-- Format pair legality of a matrix operator on the unit it runs on (R70, R119). -/
def pairBad (u : UnitKind) (a w : Nat) : Bool :=
  match u with
  | .cirrus => !engineActivation a || (engineDepth w).isNone
  | _ => (arrayDepth a w).isNone

/-- Formats of attention (R119, R158). -/
def attPairBad (u : UnitKind) (a kv : Nat) : Bool :=
  match u with
  | .cirrus => !engineActivation a
  | _ => !((a == 1 && kv == 1) || ((a == 3 || a == 4) && (kv == 3 || kv == 4)))

/-- May a convolution not have `k` input channels; not `n` output channels beside them (R203, R207, R208)? -/
def inChannelsBad (o : OpDesc) (k : Nat) : Bool :=
  k == 0 || decide (65536 < k) || (o.grouped && k % o.gammaW != 0)
def outChannelsBad (o : OpDesc) (k n : Nat) : Bool := n == 0 || decide (65536 < n) || (o.grouped && n != k)

/-- Shape checks of a convolution whose descriptor lies at `a`, and whose problems lie at `b` (R203, R207 to R209). -/
def convChecks (p : Program) (o : OpDesc) (a b : Nat) : List (Option Nat) :=
  (if o.probCount = 0 then [ck (inChannelsBad o o.k) (a + 50), ck (outChannelsBad o o.k o.n) (a + 53)]
   else []) ++
  [ck (o.hOut == 0) (a + 55), ck (o.wOut == 0) (a + 57), ck (o.kh == 0 || decide (127 < o.kh)) (a + 59),
   ck (o.kw == 0 || decide (127 < o.kw)) (a + 60), ck (decide (o.dil * (o.kh - 1) < o.pt)) (a + 61),
   ck (decide (o.dil * (o.kh - 1) < o.pb)) (a + 62), ck (decide (o.dil * (o.kw - 1) < o.pl)) (a + 63),
   ck (decide (o.dil * (o.kw - 1) < o.pr)) (a + 64),
   ck (if o.grouped then decide (6 < o.gamma) else o.gamma != 0) (a + 65)] ++
  (if o.probCount = 0 then [] else
    eachIdx (p.problemsOf o) (fun j q =>
      [ck (q.inUse o && inChannelsBad o q.k) (b + 32 * j + 2), ck (q.inUse o && outChannelsBad o q.k q.n) (b + 32 * j + 5)]))

/-- Shape checks of a pooling operator whose descriptor lies at `a` (R214). -/
def poolChecks (o : OpDesc) (a : Nat) : List (Option Nat) :=
  [ck (o.k == 0 || decide (65536 < o.k)) (a + 50),
   ck (decide (2 ≤ o.poolMode) && decide (65536 < o.h * o.w)) (a + 55),
   ck (decide (o.poolMode < 2) && decide (o.ph ≤ o.pt)) (a + 61),
   ck (decide (o.poolMode < 2) && decide (o.pw ≤ o.pl)) (a + 63)]

/-- Is n_e × M of a problem above 16,384 on some stack, with E engines and a batch of `nb` members (R122)?
[notes/assumptions 27 DEDUCED, unsafe] -/
def accumulatorBad (p : Program) (im : Image) (o : OpDesc) (ph : Phase) (nb : Nat) : Bool :=
  match p.tensor? o.srcW with
  | none => false
  | some t => (instProblems p o ph nb none).any (fun q => (List.range 12).any (fun k =>
      let sp := stackSpan (im.slices.getD t.ref []) k (q.offW / max t.d0 1) q.n
      decide (16384 < engineCols (sp.2 - sp.1) 16 * q.rows)))

/-- Is an operand a STREAMED weight (R261)? -/
def streamedOperand (p : Program) (im : Image) (_o : OpDesc) (h : Nat) : Bool :=
  match p.tensor? h with
  | some t => t.cls == 0 && ((im.entries[t.ref]?).map ImageEntry.streamed).getD false
  | none => false

/-- Has a tile of attention on cells more rows than R158 allows? -/
def attRowsBad (p : Program) (o : OpDesc) : Bool :=
  match p.att[o.attLayer]? with
  | some t => decide (2048 * 64 / t.dh < o.l0.eM)
  | none => true

/-- Step 5 of R245: formats and shapes. -/
def bindShapeChecks (p : Program) (im : Image) : Option Nat :=
  let h := p.hdr
  let hasRec := h.recLayers != 0
  let header :=
    [ck (hasRec && (decide (h.c < 64) || decide (16384 < h.c) || h.c % 64 != 0)) 137,
     ck (hasRec && (if h.kind = 2 then h.ns != 1
        else !(h.ns == 32 || h.ns == 64 || h.ns == 128 || h.ns == 256))) 139,
     ck (hasRec && (h.g == 0 || decide (64 < h.g) || h.c % max h.g 1 != 0)) 140]
  let tensors := eachIdx p.tensors (fun i t =>
    let a := 64 + h.offTens + 64 * i
    let elLimit := ((p.sites.find? (fun s => s.site == t.obsSite)).map
      (fun s => if s.kind = 2 then 2 ^ 33 else 2 ^ 34)).getD (2 ^ 34)
    [ck (t.layout == 2 && !(t.fmt == 0 || t.fmt == 1 || t.fmt == 2 || t.fmt == 3 || t.fmt == 4 ||
        t.fmt == 11)) (a + 1),
     ck (t.cls == 3 && decide (elLimit < t.elements)) (a + 2),
     ck (if t.layout = 0 then
           t.pitch == 0 || t.pitch % 128 != 0 || decide (t.pitch < rowElementBytes t.fmt t.d0)
         else t.pitch != 0) (a + 24)])
  let atts := eachIdx p.att (fun i t =>
    let a := 64 + h.offAtt + 16 * i
    [ck (t.lMax == 0 || decide (4194304 < t.lMax)) a, ck (t.hKv == 0 || decide (64 < t.hKv)) (a + 2),
     ck (t.dhCode == 3) (a + 3), ck (!(t.fmt == 3 || t.fmt == 4 || t.fmt == 1)) (a + 4),
     ck (t.split && p.ops.any (fun o => o.cls == 2 && o.attLayer == i && o.retire != 0)) (a + 4),
     ck (t.cP == 0 || decide (65536 < t.cP)) (a + 6)])
  let ops := eachIdx p.ops (fun i o =>
    let a := 64 + h.offOps + 128 * i
    let layoutOf (hd : Nat) : Nat := ((p.tensor? hd).map Tensor.layout).getD 0
    let kvFmt := ((p.att[o.attLayer]?).map AttLayer.fmt).getD 3
    let topRegions := o.cls == 8 && decide (1 < o.regions)
    let n := o.m + o.k * 2 ^ 20
    [ck (usesGate o.cls && gateBad p o) (a + 4),
     ck (o.cls == 0 && badOn p o (fun _ u => pairBad u o.fmtA o.fmtW)) (a + 2),
     ck (o.cls == 1 && badOn p o (fun _ u => attPairBad u o.fmtA kvFmt)) (a + 2),
     ck (o.cls == 3 && o.fmtA != 0) (a + 2),
     ck (o.cls == 4 && (arrayDepth o.fmtA o.fmtW).isNone) (a + 2),
     if o.cls = 4 then firstFail (convChecks p o a (64 + h.offProb + 32 * o.probFirst)) else none,
     ck (denseBad p o o.srcA) (a + 8), ck (denseBad p o o.srcW) (a + 10), ck (denseBad p o o.src2) (a + 12),
     ck (denseBad p o o.vec) (a + 14), ck (denseBad p o o.dst) (a + 16), ck (denseBad p o o.count) (a + 18),
     ck (o.isImage && o.cls != 5 && layoutOf o.srcA != 1) (a + 8),
     ck (o.isImage && o.cls != 5 && layoutOf o.dst != 1) (a + 16),
     ck (o.cls == 8 && o.fmtA != (if o.keyFmt then 1 else 0)) (a + 74),
     ck (o.cls == 5 && !(layoutOf o.srcA == 1 || (layoutOf o.srcA == 2 && !o.dir))) (a + 8),
     ck (o.cls == 5 && !(layoutOf o.dst == 1 || (layoutOf o.dst == 2 && o.dir))) (a + 16),
     ck (o.cls == 5 && !o.dir && o.h % o.s2d != 0) (a + 55), ck (o.cls == 5 && !o.dir && o.w % o.s2d != 0) (a + 57),
     ck (o.cls == 5 && (o.k == 0 || decide (65536 < o.k) ||
        (!o.dir && decide (65536 < o.k * o.s2d * o.s2d)) ||
        (o.dir && o.k % (o.s2d * o.s2d) != 0))) (a + 50),
     if o.cls = 6 then firstFail (poolChecks o a) else none,
     ck (o.cls == 8 && (decide (16 < o.k) || decide (16777216 < n))) (a + 48),
     ck (o.cls == 8 && (o.kTop == 0 || decide (1024 < o.kTop) ||
        ((topRegions || decide (1024 < ceilDiv n (max o.regions 1))) && decide (512 < o.kTop))))
        (a + 73),
     ck (o.cls == 8 && (o.regions == 0 || decide (6 < o.regions))) (a + 74),
     ck (o.cls == 0 && badOn p o (fun ph u => decide (u = .cirrus) && accumulatorBad p im o ph (minBatch p ph))) (a + 53),
     ck (badOn p o (fun _ u => decide (u = .cirrus) && streamedOperand p im o o.srcA)) (a + 8),
     ck (badOn p o (fun _ u => decide (u = .cirrus) && streamedOperand p im o o.srcW)) (a + 10),
     ck (badOn p o (fun _ u => decide (u = .cirrus) && streamedOperand p im o o.src2)) (a + 12),
     ck (badOn p o (fun _ u => decide (u = .cirrus) && streamedOperand p im o o.vec)) (a + 14),
     ck (o.cls == 1 && hasLevels p o && attRowsBad p o) (a + 99),
     ck (o.vec != 0xFFFF && usesVec o.cls &&
        (match p.tensor? o.vec with
         | some t => t.fmt != 0 || (p.problemsOf o).any (fun q => decide (t.d0 / 2 < wholeN p o q))
         | none => true)) (a + 14)])
  firstFail (header ++ tensors ++ atts ++ ops)

/-- Do two address ranges of the cell store overlap? -/
def rangesOverlap (a b : Nat × Nat) : Bool :=
  a.2 != 0 && b.2 != 0 && decide (a.1 < b.1 + b.2) && decide (b.1 < a.1 + a.2)

/-- Problem columns and rows that bound the tiles of a stage: those of an image operator's own shape are known at BIND. -/
def stageLimit (p : Program) (o : OpDesc) (st : ConvStage) : Nat × Nat :=
  match st with
  | .freq s kh kw => ((freqShape o s kh kw 1).2.2.1, 2048)
  | _ =>
    (maxNat ((p.problemsOf o).map (wholeN p o)),
     if o.isImage then o.imageOut.1 else 2048)

/-- Tiles of `m` rows and `n` columns of a stage that between them take the most room: those of an image operator start at
every place in a row of its output that a multiple of `step` rows reaches (R204, R240). -/
def footTiles (p : Program) (o : OpDesc) (st : ConvStage) (step m n : Nat) : List Tile :=
  let lim := stageLimit p o st
  let wo := if o.cls = 4 then o.wOut else if o.cls = 5 && o.dir then o.w * o.s2d * o.s2d
    else if o.cls = 6 && decide (o.poolMode < 2) then poolOut o.w o.pl o.pw o.pstr else 1
  let starts := if o.isImage then min (ceilDiv lim.2 (max step 1)) (max wo 1) else 1
  (List.range starts).map (fun i =>
    { prob := 0, row0 := i * step, rows := if o.isImage then min m (lim.2 - i * step) else m, col0 := 0
      cols := min n (max lim.1 1), outer := 0 })

/-- Bytes of `rows` rows of `n` elements in the cell store, each at a pitch of whole 128 B, with their scale plane (R78,
R103). -/
def storeRows (fmt n rows : Nat) : Nat :=
  rows * alignUp (rowElementBytes fmt n) 128 + (if fmtHasScale fmt then rows * ceilDiv n 32 else 0)

/-- Bytes of a stage's activation rows in the cell store, for a problem of `k` by `n` (R241). -/
def storeIn (p : Program) (o : OpDesc) (st : ConvStage) (k n : Nat) (t : Tile) : Nat :=
  match o.cls, st with
  | 0, _ | 1, _ => storeRows o.fmtA k t.rows
  | 4, .direct kh kw => haloPixels o kh kw t * pixelBytes 1 o.fmtA k
  | 4, .grouped kh kw => haloPixels o kh kw t * spanBytes 1 o.fmtA k t.col0 t.cols
  | 4, .freq _ _ _ => storeRows 1 k t.rows
  | 4, .finish => storeRows 0 t.cols t.rows
  | 5, _ => regroupPixels o t * pixelBytes (p.layoutOf o.srcA) o.fmtA o.k
  | 6, _ => poolPixels o t * spanBytes 1 o.fmtA n t.col0 t.cols
  | 3, _ =>
    let ops := if p.hdr.kind = 2 then 2 else 3
    ops * storeRows 0 t.cols t.rows + (if p.hdr.kind = 2 then 0 else storeRows 0 (2 * p.hdr.g * p.hdr.ns) t.rows) +
      t.rows * recStateBytes p.hdr.ns t.cols
  | _, _ => storeRows o.fmtA t.cols t.rows

/-- Bytes of a stage's output rows in the cell store (R241). -/
def storeOut (p : Program) (o : OpDesc) (st : ConvStage) (n : Nat) (t : Tile) : Nat :=
  match o.cls, st with
  | 4, .freq s _ _ => if s = 1 || s = 4 then storeRows 0 t.cols t.rows else if s = 6 then tileOutBytes p o st n t
      else storeRows 1 t.cols t.rows
  | 4, _ | 5, _ | 6, _ => tileOutBytes p o st n t
  | _, _ => storeRows o.gate.outFmt t.cols t.rows

/-- Depth of the activation rows of a stage. -/
def stageDepth (p : Program) (o : OpDesc) (st : ConvStage) : Nat :=
  match st with
  | .freq s kh kw => (freqShape o s kh kw 1).2.1
  | _ => if o.cls = 1 then (p.att.getD o.attLayer (AttLayer.ofNat 0)).dh else maxNat ((p.problemsOf o).map Problem.k)

/-- Stationary-image bytes of a stage's weights in the cell store or block scratch. -/
def stageImage (o : OpDesc) (st : ConvStage) : Nat :=
  match o.cls, st with
  | 0, _ => imageBytes o.fmtW
  | 1, _ => imageBytes 3
  | 4, .finish => 0
  | 4, .freq _ _ _ => imageBytes 1
  | 4, _ => imageBytes o.fmtW
  | _, _ => 0

/-- The four regions of a stage's tile in the cell store: activations, the ring of image slots, outputs, vectors (R241). -/
def storeRegions (p : Program) (o : OpDesc) (st : ConvStage) : List (Nat × Nat) :=
  let lim := stageLimit p o st
  let en := match st with
    | .freq _ _ _ => lim.1
    | _ => o.l0.eN
  let ts := footTiles p o st o.l0.eM o.l0.eM en
  [(o.csA, maxNat (ts.map (storeIn p o st (stageDepth p o st) lim.1))), (o.csW, 4 * alignUp (stageImage o st) 1024),
   (o.csD, maxNat (ts.map (storeOut p o st lim.1))), (o.csV, if o.vec = 0xFFFF || !o.ownGate st then 0 else 8 * o.l0.eN)]

/-- Bytes of a level-1 tile's operands in block scratch: the activation rows, second operands and outputs of the rows and
columns it spans, the vectors and the whole weights of those columns (R241). -/
def scratchBytes (p : Program) (o : OpDesc) (st : ConvStage) : Nat :=
  let lim := stageLimit p o st
  let en := match st with
    | .freq _ _ _ => lim.1
    | _ => o.l0.eN * o.l1.eN
  let ts := footTiles p o st (o.l0.eM * o.l1.eM) (o.l0.eM * o.l1.eM) en
  let k := maxNat ((p.problemsOf o).map Problem.k)
  let cols := min en (max lim.1 1)
  let probs := min o.l1.eP (max (if o.batch = 2 then o.l1.eP else (p.problemsOf o).length) 1)
  let weights := min o.l1.eP (max ((p.problemsOf o).map Problem.offW).eraseDups.length 1)
  let images := match o.cls, st with
    | 0, _ => ceilDiv k ((arrayDepth o.fmtA o.fmtW).getD 128) * ceilDiv cols 64
    | 1, _ => 0
    | _, .freq 3 _ _ => ceilDiv (2 * o.k) 64 * ceilDiv (2 * o.n) 64
    | 4, _ => stageImages o k cols st
    | _, _ => 0
  let second (t : Tile) : Nat :=
    if o.src2 = 0xFFFF || !o.ownGate st || !usesTwo o.cls || o.cls == 9 || o.gate.post = 0 || o.gate.draw != 0 then 0
    else storeRows (((p.tensor? o.src2).map Tensor.fmt).getD 0) t.cols t.rows
  maxNat (ts.map (fun t => storeIn p o st (stageDepth p o st) lim.1 t + second t + storeOut p o st lim.1 t)) * probs +
    images * stageImage o st * weights + (if o.vec = 0xFFFF || !o.ownGate st then 0 else 8 * cols)

/-- Step 6 of R245: cell-store and block-scratch footprints of every stage (R78, R99, R241). -/
def bindFootprintChecks (p : Program) : Option Nat :=
  firstFail (eachIdx p.ops (fun i o =>
    let a := 64 + p.hdr.offOps + 128 * i
    if !hasLevels p o then []
    else
      let lim := if o.double then 0x80000 else 0x100000
      let fields := [36, 38, 41, 43]
      [ck (o.csA % 1024 != 0) (a + 36), ck (o.csW % 1024 != 0) (a + 38), ck (o.csD % 1024 != 0) (a + 41),
       ck (o.csV % 1024 != 0) (a + 43)] ++
      o.stages.flatMap (fun st =>
        let rs := storeRegions p o st
        rs.zipIdx.map (fun r => ck (r.1.2 != 0 && decide (lim < r.1.1 + r.1.2)) (a + fields.getD r.2 0)) ++
          rs.zipIdx.flatMap (fun x => rs.zipIdx.map (fun y =>
            ck (decide (y.2 < x.2) && rangesOverlap x.1 y.1) (a + fields.getD x.2 0))) ++
          [ck (decide (8 * 2 ^ 20 < scratchBytes p o st)) (a + 104)])))

/-- Tensors of an operator whose descriptor does not set CIRRUS. -/
def unmarked (p : Program) (o : OpDesc) : List Nat :=
  [o.srcA, o.srcW, o.src2, o.vec, o.dst].filter (fun hd =>
    match p.tensor? hd with
    | some t => !t.cirrus
    | none => false)

/-- Step 7 of R245: CIRRUS on every tensor a Cirrus operator touches. -/
def bindCirrusChecks (p : Program) : Option Nat :=
  firstFail (p.ops.flatMap (fun o =>
    if badOn p o (fun _ u => decide (u = .cirrus)) then
      (unmarked p o).map (fun hd => some (64 + p.hdr.offTens + 64 * hd + 1))
    else []))

/-! ### What only a batch decides (R122, R233, R234) -/

/-- What BIND checks of the unit an operator runs on, with a batch of `nb` members, the descriptor lying at `a`.
[notes/assumptions 27 DEDUCED, unsafe] -/
def opChecks (p : Program) (im : Image) (o : OpDesc) (a : Nat) (ph : Phase) (nb : Nat) : List (Option Nat) :=
  let u := unitOf p o ph nb
  let onCells := decide (u = .cells)
  let onEngines := decide (u = .cirrus)
  let problem (j body field : Nat) : Nat :=
    if o.probCount = 0 then a + body else 64 + p.hdr.offProb + 32 * (o.probFirst + j) + field
  [ck (o.cls == 0 && pairBad u o.fmtA o.fmtW) (a + 2),
   ck (o.cls == 1 && attPairBad u o.fmtA (((p.att[o.attLayer]?).map AttLayer.fmt).getD 3)) (a + 2),
   ck (onCells && field o.raw 1023 768 == 0) (a + 97), ck (onCells && o.cls == 1 && attRowsBad p o) (a + 99),
   ck (onEngines && streamedOperand p im o o.srcA) (a + 8), ck (onEngines && streamedOperand p im o o.srcW) (a + 10),
   ck (onEngines && streamedOperand p im o o.src2) (a + 12), ck (onEngines && streamedOperand p im o o.vec) (a + 14),
   ck (onEngines && o.cls == 0 && accumulatorBad p im o ph nb) (a + 53)] ++
  (if onEngines then (unmarked p o).map (fun hd => some (64 + p.hdr.offTens + 64 * hd + 1)) else []) ++
  eachIdx (p.problemsOf o) (fun j q =>
    [ck (leavesA p o q (q.rowsIn o ph) nb) (problem j 8 8), ck (leavesIndex p o q (q.rowsIn o ph) nb) (a + 12),
     ck (leavesD p o q (q.rowsIn o ph) nb) (problem j 16 18)])

/-- The first field in which a program does not run with a batch as BIND accepted it. SUBMIT refuses a job whose batch does
not, and so does BIND a rebinding.
[notes/assumptions 27 DEDUCED, unsafe] -/
def batchChecks (p : Program) (im : Image) (b : Batch) : Option Nat :=
  firstFail (eachIdx p.ops (fun i o => o.phases.flatMap (fun ph =>
    if phaseBatch p b ph = 0 then [] else opChecks p im o (64 + p.hdr.offOps + 128 * i) ph (phaseBatch p b ph))))

/-- The result of the checks on a BIND payload against the image the tag names (none: no image of the
binding partition): the code and the offset of the first failing field (R245). -/
def bindCheck (payload : Bytes) (image : Option Image) : Option (Code × Nat) :=
  match bindFormChecks payload with
  | some o => some (.rejectedFormat, o)
  | none =>
    match image with
    | none => some (.notOwner, bindTagOffset payload)
    | some im =>
      let p := Program.ofBytes (payload.drop 64)
      (firstFail [bindWeightChecks p im, bindStructureChecks p, bindShapeChecks p im,
        bindFootprintChecks p, bindCirrusChecks p]).map (fun o => (.rejectedFormat, o))

/-- The ORDER_DEPENDENT mark of R38 and R247. -/
def Program.orderDependent (p : Program) : Bool :=
  p.ops.any (fun o => o.cls == 9 && (o.aop == 0 || o.aop == 5))

/-- Operators after the expansion of R232 (R247). -/
def Program.expandedOps (p : Program) : Nat := sumNat (p.ops.map (fun o => o.stages.length))

/-- May a program replace another on a live job (R248)? -/
def rebindCompatible (a b : Program) : Bool :=
  a.hdr.s == b.hdr.s && a.hdr.sObs == b.hdr.sObs && a.hdr.recLayers == b.hdr.recLayers &&
    a.hdr.kind == b.hdr.kind && a.hdr.c == b.hdr.c && a.hdr.ns == b.hdr.ns && a.hdr.g == b.hdr.g &&
    a.hdr.hMax == b.hdr.hMax && a.hdr.hRes == b.hdr.hRes && a.hdr.sH == b.hdr.sH && a.att == b.att

end Sys2Proof.Machine
end

