-- ==== Sys2Proof/Machine/DeviceTypes.lean ====
section
/-!
DEFINITION. What the device keeps of partitions, ports, units, memory controllers, the flash tier, time,
management, notices, security, start and pins, as plain data. Default values are the values at reset.
-/

namespace Sys2Proof.Machine

/-! ### Rings, packets and responses (R336 to R350) -/

/-- A ring block of BAR0 (R337). -/
structure Ring where
  base : Nat := 0
  log2 : Nat := 0
  seq0 : Nat := 0
  enable : Bool := false
  halted : Bool := false
  cause : Nat := 0
  head : Nat := 0
  tail : Nat := 0
  deriving DecidableEq, Repr

/-- A fetched command packet (R345) with its arrival stamp (R50) and its place in the order of
acceptance; `started` once its work has begun, `checked` once its opcode's own checks have passed. -/
structure Packet where
  urgent : Bool
  opcode : Nat
  posted : Bool
  partialOk : Bool
  urgentClass : Bool
  part : Nat
  seq : Nat
  tag : Nat
  job : Nat
  tick : Nat
  len : Nat
  arg0 : Nat
  arg1 : Nat
  payload : Bytes
  arrival : Tns
  order : Nat
  started : Bool := false
  checked : Bool := false
  deriving DecidableEq, Repr

/-- A tag in flight (R348) and its command, for FENCE (R361). -/
structure Flight where
  tag : Nat
  seq : Nat
  opcode : Nat
  urgent : Bool
  posted : Bool
  job : Nat
  order : Nat
  completed : Bool := false
  deriving DecidableEq, Repr

/-- A response packet (R349). `stream` holds the STEP and LOC that completions of stream commands carry (R175), for
which the layouts give no place; `accepted` tells the answer of an accepted command from that of a refused packet.
[notes/assumptions 121 DEDUCED, unsafe] -/
structure Response where
  code : Nat
  opcode : Nat
  more : Bool := false
  jobEnd : Bool := false
  part : Nat
  seq : Nat
  tag : Nat
  info : Nat := 0
  tick : Nat
  payload : Bytes := []
  release : Option Nat := none
  stream : Option (Nat × Loc) := none
  accepted : Bool := true
  deriving DecidableEq, Repr

/-- What a started command waits for. -/
inductive WaitFor where
  /-- FENCE: every earlier command of the partition (R361). -/
  | fence
  /-- FETCH of a job tensor: the named tick's commit (R358). -/
  | fetchTick (tick : Nat)
  /-- FETCH of a Stratus object: its reads (R321). -/
  | fetchStratus
  /-- FETCH of a Stratus object whose units a STORE has replaced since: its reads of the old bytes (R331). -/
  | fetchOld (bytes : Bytes)
  /-- STORE, LOAD_IMAGE DATA: durability (R327). -/
  | durable
  /-- LOAD_IMAGE END: the placement of the image (R352). -/
  | placed (image : Nat)
  /-- STREAM_SAVE: the copy's capture at a commit, then its durability (R186, R187). -/
  | save (entry : Nat) (captured : Option Bytes)
  /-- STREAM_OPEN: the read of the saved image if it has one, then the next boundary (R180). -/
  | opening (ready : Bool)
  /-- STREAM_RESTORE: the read of the saved image, then the next boundary (R189). -/
  | restoring (ready : Bool)
  /-- STREAM_END: the boundary or commit that frees the entry (R185). -/
  | entry (index : Nat)
  /-- FIELD_TEST: the test's result (R362). -/
  | test (unit : Nat)
  /-- INPUT, FORK, STREAM_CHUNK: the round or the tick that takes it (R356, R359, R181, R182). -/
  | round
  /-- BIND: the placement of the image (R523) or the boundary of a rebinding (R64). -/
  | bind (image : Nat)
  deriving DecidableEq, Repr

/-- A started command that has not completed. -/
structure Wait where
  pkt : Packet
  what : WaitFor
  deriving DecidableEq, Repr

/-- A failed posted command recorded for the next FENCE (R365, R366). -/
structure PostFail where
  seq : Nat
  urgent : Bool
  opcode : Nat
  code : Nat
  order : Nat
  deriving DecidableEq, Repr

/-- A future or host stream poisoned by a failed posted command (R365). -/
structure PoisonedName where
  job : Nat
  id : Nat
  seq : Nat
  deriving DecidableEq, Repr

/-- A stored object or a saved-state object (R357, R186, R188). `base` is a line address of `stack`, or a
Stratus location. -/
structure Object where
  part : Nat
  stratus : Bool
  stack : Nat
  base : Nat
  total : Nat
  saved : Bool := false
  lost : Bool := false
  poisoned : Bool := false
  releasing : Bool := false
  deriving DecidableEq, Repr

/-- Bytes of a STORE that have reached, or are to reach, their home and become visible at a commit
window (R357). -/
structure StoreWrite where
  handle : Nat
  tag : Nat
  offset : Nat
  data : Bytes
  atHome : Bool
  deriving DecidableEq, Repr

/-! ### Notices (R434 to R443) -/

/-- What a notice says, by kind (R437). -/
inductive NoticeBody where
  | watermark (slot target : Nat) (up : Bool) (level peak duration : Nat) (above : Bool)
  | postedFail (seq opcode code : Nat) (urgent : Bool)
  | capacity (unitKind cause unit cells engines : Nat)
  | tickLate (job cause due : Nat)
  | fault (causes unit bit : Nat)
  | replan (clock prev boundary : Nat) (guard : List Nat)
  | alarm (cause : Nat)
  deriving DecidableEq, Repr

/-- One recipient's copy of a notice (R435, R436). -/
structure Notice where
  body : NoticeBody
  count : Nat := 0
  tick : Nat
  time : Nat
  timeValid : Bool
  raised : Tns
  part : Nat
  device : Bool
  deriving DecidableEq, Repr

/-- A watermark slot's volatile parts (R408): partition slots hold all of it here, device slots only
the state, their values being stored objects. -/
structure SlotState where
  above : Bool := false
  deriving DecidableEq, Repr

/-! ### Security of a function (R506 to R508) -/

/-- TDI states (R508). -/
inductive Tdi where
  | unlocked
  | locked
  | run
  | error
  deriving DecidableEq, Repr

/-- One key slot of an IDE stream (R506). -/
structure IdeKey where
  sub : SubStream
  transmit : Bool
  keySet : Nat
  key : Bytes
  deriving DecidableEq, Repr

/-- A function's IDE selective stream (R506): the programmed keys, the key set in use by sub-stream
and direction, the address ranges, and whether it is established. -/
structure IdeStream where
  keys : List IdeKey := []
  inUse : List (SubStream × Bool × Nat) := []
  ranges : List (Nat × Nat) := []
  established : Bool := false
  deriving DecidableEq, Repr

/-- An entry of the MSI-X table (R336). -/
structure MsixEntry where
  addr : Nat := 0
  data : Nat := 0
  masked : Bool := true
  deriving DecidableEq, Repr

/-- A flare-door action waiting in the port's buffer (R368), with its place in the order of arrival. -/
structure FlareEntry where
  action : Nat
  job : Nat
  order : Nat
  absorbed : Nat := 0
  deriving DecidableEq, Repr

/-! ### A partition -/

/-- Everything a partition and its function hold. -/
structure Part where
  created : Bool := false
  name : Bytes := []
  present : Bool := false
  busMaster : Bool := false
  quiesced : Bool := false
  releasePending : Bool := false
  releaseReplies : List (Nat × Nat) := []
  holdoff : Nat := 0
  headWb : Nat := 0
  normal : Ring := {}
  urgent : Ring := {}
  rsp : Ring := {}
  ntc : Ring := {}
  cmdTail : Nat := 0
  urgTail : Nat := 0
  rspHead : Nat := 0
  ntcHead : Nat := 0
  headsWritten : List Nat := [0, 0]
  msix : List (Nat × MsixEntry) := []
  msixPending : List Nat := []
  vectors : List Nat := [0, 0, 0, 0]
  lastVector0 : Option Tns := none
  heldVector0 : Bool := false
  expectSeq : List (Option Nat) := [none, none]
  flareLast : Nat := 0
  flareTaken : Nat := 0
  flareIgnored : Nat := 0
  flareOverflow : Bool := false
  flareBuffer : List FlareEntry := []
  overflowMark : Bool := false
  overflowWrites : Nat := 0
  inbox : List Packet := []
  flights : List Flight := []
  outbox : List Response := []
  rspWritten : List Response := []
  waits : List Wait := []
  postFails : List PostFail := []
  poisonedNames : List PoisonedName := []
  doorbellsIgnored : Nat := 0
  nextHandle : Nat := 1
  storeWrites : List StoreWrite := []
  chunks : List Chunk := []
  boxes : Option (Nat × Nat × Nat) := none
  shareUse : List Nat := [0, 0, 0]
  buckets : List (Nat × Nat) := []
  bucketLow : Nat := 16000
  selectJob : Nat := 0
  selectStream : Nat := 0
  slotValues : List (Nat × Nat) := []
  pending : List Notice := []
  ntcEntries : List (Nat × Notice) := []
  ntcSeq : Nat := 0
  ntcPhase : Bool := true
  tdi : Tdi := .unlocked
  lockNonce : Option Nat := none
  ide : IdeStream := {}
  deriving DecidableEq, Repr

/-! ### Ports (R332, R510, R540) -/

/-- An answer the device gives over data object exchange (R508 to R511). -/
inductive DoeAnswer where
  | tdispVersion (version : Nat)
  | tdispCapabilities
  | tdispLocked (nonce : Nat)
  | tdispReport (partition regionMask inspection : Nat) (ranges : List (Nat × Nat × Bool))
  | tdispState (state : Nat)
  | tdispOk
  | tdispError
  | keyAck
  | keyError
  | certificate (chain : Bytes)
  | challengeAuth (signature : Bytes)
  | measurements (blocks : List (Nat × Bytes)) (signature : Bytes)
  | keyExchange (session : Nat) (data : Bytes)
  | spdmBusy
  | spdmError
  deriving DecidableEq, Repr

/-- A host port; `served` is the function of it whose packet was fetched last (R340).
[notes/assumptions 197 DESIGN CHOICE, unsafe] -/
structure Port where
  linkUp : Bool := false
  speed : Nat := 0
  width : Nat := 0
  inReset : Bool := true
  perst : Bool := true
  requesters : List Nat := []
  sessions : List Nat := []
  answers : List (Nat × DoeAnswer) := []
  eye : Nat := 0
  served : Nat := 3
  retune : List Nat := []
  deriving DecidableEq, Repr

/-! ### Compute units -/

/-- The part an execution plays in the Parallax check (R448, R451). -/
inductive Role where
  | original
  | duplicate
  | third
  deriving DecidableEq, Repr

/-- The tile a cell holds, or the slice an engine holds. `milli` counts thousandths of a cycle it had run at the instant
`since`, from which the present clock counts (R12, R98). `entries` are the transaction entries its lines hold in the
controllers of its stacks, `wants` the lines for which no entry was free (R285); `halted` the cause and the instant from which it
waits at its end for a line under repair or a channel that retrains (R291, R294). -/
structure Held where
  job : Nat
  round : Nat
  op : Nat
  item : Nat
  role : Role
  cost : Nat
  start : Tns
  charged : Bool
  since : Tns
  milli : Nat := 0
  entries : List (Nat × Nat) := []
  wants : List (Nat × Nat) := []
  halted : Option (Stall × Tns) := none
  deriving DecidableEq, Repr

/-- Work a unit ran since its last passed pattern (R455). -/
structure Suspect where
  job : Nat
  round : Nat
  phase : Phase
  step : Nat
  op : Nat
  stage : Nat
  item : Nat
  role : Role
  deriving DecidableEq, Repr

/-- A stationary image in a stationary set (R75): of which operator of a job, its number in the order its tile fills them
(R84), and its bytes. -/
structure StationaryImage where
  job : Nat
  op : Nat
  image : Nat
  bytes : Bytes := []
  deriving DecidableEq, Repr

/-- The program-visible parts of a unit (R69, R94, R116): the bytes of its cell store or vector buffer that are not 0, the codes
in each row feeder queue of a cell, front first, its two stationary sets, the words of its accumulators, empty when they are
invalid, the working area of an engine, and both copies of its output checksum register. `upper` tells the half of the cell
store a tile under DOUBLE lies in (R241). -/
structure UnitParts where
  store : List Host.Cell := []
  feeders : List (List Nat) := []
  active : Option StationaryImage := none
  idle : Option StationaryImage := none
  acc : List F32 := []
  work : Bytes := []
  checksum : Nat := 0
  checksumCopy : Nat := 0
  upper : Bool := false
  deriving DecidableEq, Repr

/-- A cell or an engine; `ahead` is the tile a cell has claimed beside the one whose operations it runs (R243), `idlePattern` tells a pattern that a claim may abandon from one that it may not (R454),
`patternAt` the instant from which the present clock counts the pattern it runs, and `patternMilli` the thousandths of a
cycle it had run by then. -/
structure ComputeUnit where
  fenced : Bool := false
  testing : Bool := false
  margin : Bool := false
  held : Option Held := none
  ahead : Option Held := none
  pattern : Bool := false
  idlePattern : Bool := false
  patternAt : Tns := 0
  patternMilli : Nat := 0
  lastPass : Tns := 0
  suspects : List Suspect := []
  delay : Nat := 0
  parts : UnitParts := {}
  deriving DecidableEq, Repr

/-- A Zenith sorter (R216): the pass it runs and the register it holds, by job and operator; `start` and `milli` time the
pass as those of `Held` do. -/
structure Sorter where
  fenced : Bool := false
  job : Option (Nat × Nat) := none
  charged : Bool := false
  start : Tns := 0
  milli : Nat := 0
  entries : List (Nat × Nat) := []
  deriving DecidableEq, Repr

/-- A write-combining entry (R304). -/
structure WcbEntry where
  line : Nat
  cells : List Host.Cell
  jobs : List Nat
  born : Tns
  deriving DecidableEq, Repr

/-- A field test asked for (R461): the unit in the layout of R362, who waits for it, and whether it
runs. `origin` 0: host, 1: management, 2:
automatic; `loaded`: its pattern set has been read. -/
structure TestReq where
  unit : Nat
  origin : Nat
  wasFenced : Bool := false
  loaded : Bool := false
  running : Bool := false
  started : Tns := 0
  deriving DecidableEq, Repr

/-- A stack line in the unpinned ways of its region's cache: its number in the one line numbering, and the job whose access
brought it; `act` for a line of an ACT tensor, which is written back (R300, R302); `poison` the POISON bit of the copy's side band
(R298). -/
structure CacheLine where
  line : Nat
  job : Nat
  act : Bool
  keep : Bool := false
  dirty : Bool := false
  poison : Bool := false
  deriving DecidableEq, Repr

/-- A region of the device; `cached` lists the sets of its cache's unpinned ways, each with its lines most recent first, and
`levelTwo` the stack lines that the pinned area holds for the level-2 tiles of each guaranteed job, most recent first (R299). -/
structure Region where
  outOfService : Bool := false
  draining : Bool := false
  pair0Fenced : Bool := false
  pair1Fenced : Bool := false
  takeover : Bool := false
  linksFailed : List Nat := []
  guard : Nat := 0
  oscLoss : Nat := 0
  oscAtReplan : Nat := 0
  wcb : List WcbEntry := []
  cached : List (Nat × List CacheLine) := []
  levelTwo : List (Nat × List Nat) := []
  sorter : Sorter := {}
  tests : List TestReq := []
  passed : List Nat := []
  deriving DecidableEq, Repr

/-- A stack of stacked memory (R282, R293 to R297, R125, R493). -/
structure Stack where
  outOfService : Bool := false
  fenced : List Nat := []
  failedLanes : List (Nat × List Nat) := []
  spares : List (Nat × Nat) := []
  badSpares : List (Nat × Nat) := []
  retraining : List (Nat × Tns) := []
  window : Option Nat := none
  windowStart : Tns := 0
  guard : Nat := 0
  refresh : List (Nat × Nat) := []
  retention : List (Nat × Nat) := []
  hourlyScrub : List Nat := []
  oscLoss : Nat := 0
  oscAtReplan : Nat := 0
  lcCount : Nat := 0
  laneHits : List (Nat × List Tns) := []
  deriving DecidableEq, Repr

/-- A planned fence or removal waiting for a boundary (R268, R272). -/
structure Removal where
  unit : Nat
  cause : Nat
  started : Bool := false
  deriving DecidableEq, Repr

/-! ### Stratus (R314 to R330) -/

/-- A die of Stratus; `bounded` BOUNDED reads are queued on it and `issued` reads, 8 at most, are issued; a program or erase
is `suspended` while a BOUNDED read is queued (R320). -/
structure Die where
  fenced : Bool := false
  rebuilding : Bool := false
  freeErased : Nat := 100
  bounded : Nat := 0
  issued : Nat := 0
  suspended : Bool := false
  deriving DecidableEq, Repr

/-- An erase block of Stratus, kept once it differs from a new one; `programmed` while it is not erased, and then `valid` its
valid units (R323). -/
structure Block where
  erases : Nat := 0
  reads : Nat := 0
  third : Bool := false
  retired : Bool := false
  programmed : Bool := false
  valid : Nat := 0
  deriving DecidableEq, Repr

/-- The flash tier; `spareHeld` while SPARE writes wait for garbage collection, `spareWaits` the stream entries whose eviction
waits, each with the instant from which it does (R324). -/
structure Stratus where
  mounted : Bool := false
  alloc : List Extent := []
  dies : List (Nat × Die) := []
  blocks : List (Nat × Block) := []
  badUnits : List Nat := []
  retired : Nat := 0
  written : Nat := 0
  lifeMark : Nat := 0
  checkpoint : Option Tns := none
  readOnly : Bool := false
  spareHeld : Bool := false
  spareWaits : List (Nat × Tns) := []
  deriving DecidableEq, Repr

/-- A transfer between a stack and Stratus in progress (R154, R193, R155). -/
inductive Transfer where
  | spill (page loc : Nat)
  | evict (entry : Nat) (locs : List (Nat × Nat)) (tick : Nat)
  | recall (entry : Nat) (addrs : List (Nat × Nat × Nat))
  deriving DecidableEq, Repr

/-! ### Time (R40 to R48, R431 to R433) -/

/-- Time states of R45. -/
inductive TimeMode where
  | acquiring
  | locked
  | holdover
  | freeRun
  | timeInvalid
  deriving DecidableEq, Repr

/-- The timing unit's tick. -/
structure TickUnit where
  tick : Nat := 0
  started : Bool := false
  start : Tns := 0
  startTai : Nat := 0
  next : Tns := 0
  period : Nat := 1000000
  guard : Nat := 50
  commitDone : Bool := false
  roundsDone : Bool := false
  lossDeclared : Bool := false
  onSchedule : Nat := 0
  periodWritten : Option Tns := none
  capWritten : Option Tns := none
  windowAfter : Option Nat := none
  shareWindow : Nat := 10000
  deriving DecidableEq, Repr

/-- Alignment to the sources. `err` is the phase error e of the next boundary as it is scheduled, `errNow` the one the
present tick began with, and `measured` tells that e has been measured since the source showed itself (R45, R46). -/
structure TimeSync where
  mode : TimeMode := .acquiring
  holdStart : Option Tns := none
  taiOffset : Int := 0
  taiValid : Bool := false
  err : Int := 0
  errNow : Int := 0
  measured : Bool := false
  present : Bool := false
  pendingSecond : Option (Nat × Tns) := none
  lastEdge : Option Tns := none
  gridOrigin : Option Tns := none
  gridEdges : Nat := 0
  ignoredRow : Nat := 0
  ignored : Nat := 0
  selectedAt : Tns := 0
  portA : Nat := 0
  portB : Nat := 0
  masterA : Option PtpMaster := none
  masterB : Option PtpMaster := none
  offset : Int := 0
  invalidStart : Bool := false
  pulses : Nat := 0
  lastPulse : Option Tns := none
  tickPulses : Nat := 0
  deriving DecidableEq, Repr

/-! ### Management (R420 to R430) -/

/-- An open session. -/
structure Session where
  cred : Nat
  lastRecord : Tns
  kept : List (Nat × Tns × List Bytes) := []
  headersUntil : Option (Nat × Tns × Nat) := none
  deriving DecidableEq, Repr

/-- A credential slot's notices and selectors (R435 to R439, R382). -/
structure Cred where
  fingerprint : Option Bytes := none
  pending : List Notice := []
  sent : List (Nat × Notice) := []
  nextSeq : Nat := 0
  selectJob : List (Nat × Nat) := []
  selectStream : List (Nat × Nat) := []
  deriving DecidableEq, Repr

/-- Management ports and sessions. -/
structure Mgmt where
  sessions : List (Nat × Session) := []
  nextSession : Nat := 1
  creds : List (Nat × Cred) := []
  lost : List Lan := []
  supervision : Nat := 0
  sentMessages : List (Nat × Bytes) := []
  frames : List (Lan × Bytes) := []
  alerts : Nat := 0
  down : Bool := false
  deriving DecidableEq, Repr

/-! ### Stored configuration (R405, R415 to R418) -/

/-- A copy of the stored configuration. -/
structure StoredCopy where
  epoch : Nat
  generation : Nat
  values : List (Nat × Nat)
  names : List (Nat × Bytes)
  deriving DecidableEq, Repr

/-- The stored-configuration objects and the two copies. -/
structure ConfigStore where
  copyA : Option StoredCopy := none
  copyB : Option StoredCopy := none
  inForce : Nat := 0
  generation : Nat := 0
  epoch : Nat := 0
  result : Nat := 0
  storedTai : Nat := 0
  bytes : Nat := 0
  applied : Nat := 0
  writing : Option StoredCopy := none
  report : List Nat := []
  reportBad : Nat := 0
  deriving DecidableEq, Repr

/-! ### Start and firmware (R517 to R532) -/

/-- A firmware bank. -/
structure Bank where
  version : Nat := 0
  security : Nat := 0
  deriving DecidableEq, Repr

/-- Start state. -/
structure Start where
  status : Nat := 0
  kind : Nat := 0
  failedStep : Nat := 0
  millis : Nat := 0
  resetAt : Tns := 0
  stepsDone : Bool := false
  failed : Bool := false
  forced : Bool := false
  orderly : Option (Nat × Tns) := none
  bank : Nat := 0
  bankA : Bank := {}
  bankB : Bank := {}
  staged : Option Nat := none
  firstBoot : Bool := false
  install : Nat := 0
  received : Bytes := []
  stagedVersion : Nat := 0
  moduleId : Nat := 0
  powered : Bool := true
  waitInput : Bool := false
  thermalOff : Bool := false
  replanDue : Option Tns := none
  patternsAt : Tns := 0
  deriving DecidableEq, Repr

/-- The backup domain (R512 to R515). -/
structure Backup where
  alarmPending : Bool := false
  alarms : Nat := 0
  monotonic : Nat := 0
  failedWarm : Nat := 0
  rights : List (Nat × Nat) := []
  meshBroken : Bool := false
  switchOpen : Bool := false
  cellLow : Bool := false
  clockStopped : Bool := false
  floor : Nat := 0
  deriving DecidableEq, Repr

/-! ### Ageing (R487 to R497) -/

/-- A stored margin plan (R496). -/
structure Plan where
  clock : Nat := 1600
  gen : Nat := 0
  guardRegions : List Nat := [0, 0, 0, 0, 0, 0]
  guardStacks : List Nat := [0, 0, 0, 0, 0, 0, 0, 0, 0, 0, 0, 0]
  refresh : List (Nat × Nat) := []
  markCells : List Nat := []
  markEngines : List Nat := []
  deriving DecidableEq, Repr

/-- Margin state; `clocks` are the compute clocks before the present one, each with the instant it ended, newest first, as far
back as a round may have begun (R12). -/
structure Ageing where
  clock : Nat := 1600
  clocks : List (Tns × Nat) := []
  planned : Nat := 1600
  capClock : Nat := 1600
  throttle : Nat := 1600
  sigma : Nat := 64
  state : Nat := 0
  pendingClock : Option (Nat × Tns × Nat) := none
  again : Bool := false
  lastTick : Nat := 0
  lastAt : Tns := 0
  worstDelay : Nat := 0
  worstUnit : Nat := 0xFFFF
  raiseOnce : Bool := false
  planA : Option Plan := none
  planB : Option Plan := none
  planGen : Nat := 0
  eraseMax : Nat := 0
  deriving DecidableEq, Repr

/-! ### Pins and power (R412, R547 to R557) -/

/-- A sky pin; `since` is the instant its function took it (R551). -/
structure SkyPin where
  function : Nat := 0
  since : Tns := 0
  changing : Option (Nat × Tns) := none
  queued : List Nat := []
  outside : Option Bool := none
  acceptedHigh : Bool := true
  deriving DecidableEq, Repr

/-- Readings of sensors and of the 48 V input (R557). -/
structure Power where
  milliP : Nat := 0
  milliQ : Nat := 0
  feeds : Nat := 0
  sensors : List (Nat × Int) := []
  throttled : List Nat := []
  inletOut : Option Tns := none
  released : Bool := false
  deriving DecidableEq, Repr

/-- The SMBus port's last answers (R545). -/
structure Smbus where
  data : Bytes := []
  enrolResult : Nat := 0
  deriving DecidableEq, Repr

/-! ### Causes -/

/-- What holds each device cause (R467 to R473). Units that await a pattern are cell numbers, or 384 + engine
number; pairs are region numbers, 100 the scheduling pair, 101 the management pair. -/
structure CauseSupport where
  clocks : List ClockSel := []
  rails : List RailSel := []
  hot : List Nat := []
  pinsLow : List Nat := []
  pairs : List Nat := []
  awaitPass : List Nat := []
  awaitJobs : List Nat := []
  patternFails : List (Nat × Tns) := []
  deriving DecidableEq, Repr

end Sys2Proof.Machine
end

