-- ==== Sys2Proof/Machine/State.lean ====
section
/-!
DEFINITION. The state of the block as plain data, its value right after reset, and the reasons a step
can stop.
-/

namespace Sys2Proof.Machine

/-- Everything but the addressed memories, the safety controller and the queue. -/
structure Dev where
  now : Tns := 0
  freeCount : Nat := 0
  tick : TickUnit := {}
  time : TimeSync := {}
  conf : List (Nat × Nat) := []
  force : List (Nat × Nat) := []
  counters : List (Nat × Nat) := []
  deviceSlots : List (Nat × Bool) := []
  parts : List (Nat × Part) := []
  ports : List (Nat × Port) := []
  regions : List (Nat × Region) := []
  stackTab : List (Nat × Stack) := []
  cells : List (Nat × ComputeUnit) := []
  engines : List (Nat × ComputeUnit) := []
  jobs : List (Nat × Job) := []
  images : List (Nat × Image) := []
  nextImage : Nat := 1
  objects : List (Nat × Object) := []
  pageFrames : List (Nat × PageFrame) := []
  streams : List (Nat × StreamEntry) := []
  stateObjs : List (Nat × StateObj) := []
  dirs : List (Nat × List Nat) := []
  dirHomes : List (Nat × DirHome) := []
  stackAlloc : List (Nat × List Extent) := []
  cacheAlloc : List (Nat × List Extent) := []
  stratus : Stratus := {}
  transfers : List Transfer := []
  repairs : List (Nat × Nat) := []
  removals : List Removal := []
  capacityEvents : List (Nat × Nat × Nat) := []
  mgmt : Mgmt := {}
  store : ConfigStore := {}
  start : Start := {}
  backup : Backup := {}
  ageing : Ageing := {}
  pins : List (Nat × SkyPin) := []
  power : Power := {}
  smbus : Smbus := {}
  support : CauseSupport := {}
  lockOpened : Option Tns := none
  mgmtTest : Nat := 0
  mgmtTestUnit : Nat := 0
  lastReport : Nat := 0
  lastValue : Option (Nat × Bytes) := none
  driverTest : Tns := 0
  arrivals : Nat := 0
  raised : List (Nat × Nat) := []
  deriving DecidableEq, Repr

/-- The safety controller (R467, R475 to R479): the causes present as a mask (0x5001.02), whether the
device is in the safe state (0x5001.01), whether a release is given, and whether FAULT_N is driven high. -/
structure Safety where
  safe : Bool := false
  causes : Nat := 0
  release : Bool := false
  faultHigh : Bool := false
  deriving DecidableEq, Repr

/-- The state of the block. -/
structure State where
  dev : Dev := {}
  mem : Mem := {}
  safety : Safety := {}
  pending : List Instr := []
  deriving DecidableEq, Repr

/-- Why a step stops with a fault. -/
inductive Fault where
  /-- Raised by no command: the manual gives every command of the table an effect, and a command whose
  conditions do not hold leaves the block as it is. Nothing rests on it: safe. -/
  | unreachable
  deriving DecidableEq, Repr

/-- Why a step is refused. -/
inductive Refusal where
  /-- Raised by the dispatcher for a row that has no meaning yet, with the row's mnemonic. The machine
  stops where the hardware goes on: safe. -/
  | notModelled (mnemonic : String)
  deriving DecidableEq, Repr

/-- The block right after reset (R41, R394, R444, R524): every object at its default, every table
empty, FAULT_N asserted (R478), nothing waiting. A register with no entry here reads the default its
type gives, which is the reset value the manual states or the log names.
[notes/assumptions 6 DESIGN CHOICE, unsafe; 7 DESIGN CHOICE, unsafe; 8 PRESUMED, unsafe; 9 PRESUMED, unsafe; 113 DEDUCED, unsafe;
194 DESIGN CHOICE, unsafe; 197 DESIGN CHOICE, unsafe] -/
def State.reset : State := {}

end Sys2Proof.Machine
end

