-- ==== Sys2Proof/Machine/ObjectTable.lean ====
section
/-!
DEFINITION. The object dictionary's map (R403): type, access, range, step, default and counter kind of
every object, as the owning rules state them.
-/

namespace Sys2Proof.Machine

/-- Types of R393; the number is the TYPE code of R363. -/
inductive Ty where
  | bool
  | u8
  | u16
  | u32
  | u64
  | i32
  | i64
  | f32
  | str
  | blob
  deriving DecidableEq, Repr

/-- The TYPE code (R363). -/
def Ty.code : Ty → Nat
  | .bool => 0
  | .u8 => 1
  | .u16 => 2
  | .u32 => 3
  | .u64 => 4
  | .i32 => 5
  | .i64 => 6
  | .f32 => 7
  | .str => 8
  | .blob => 9

/-- Width in bytes of a fixed-width type (R393). -/
def Ty.width : Ty → Nat
  | .bool => 1
  | .u8 => 1
  | .u16 => 2
  | .u32 => 4
  | .u64 => 8
  | .i32 => 4
  | .i64 => 8
  | .f32 => 4
  | .str => 0
  | .blob => 0

/-- Access of R394. -/
inductive Acc where
  | ro
  | rw
  | wo
  | rws
  deriving DecidableEq, Repr

/-- Counter kinds of R386. -/
inductive CounterKind where
  | notCounter
  | event
  | accum
  | narrow
  deriving DecidableEq, Repr

/-- What the dictionary says of an object. `legal` lists the bits a value may set (R10); `encoded` tells
that values above `hi` are reserved and not clamped (R398 step 3). -/
structure ObjInfo where
  ty : Ty
  acc : Acc
  lo : Nat := 0
  hi : Nat := 2 ^ 64 - 1
  step : Nat := 1
  dflt : Nat := 0
  maxLen : Nat := 0
  minLen : Nat := 0
  encoded : Bool := false
  legal : Nat := 2 ^ 64 - 1
  kind : CounterKind := .notCounter
  deriving DecidableEq, Repr

/-- A read-only reading. -/
def roObj (ty : Ty) (dflt : Nat := 0) : Option ObjInfo := some { ty := ty, acc := .ro, dflt := dflt }

/-- A stored object with a range. -/
def setObj (ty : Ty) (lo hi dflt : Nat) (step : Nat := 1) : Option ObjInfo :=
  some { ty := ty, acc := .rws, lo := lo, hi := hi, dflt := dflt, step := step }

/-- A stored object whose values are an encoding. -/
def codeObj (ty : Ty) (hi dflt : Nat) : Option ObjInfo :=
  some { ty := ty, acc := .rws, hi := hi, dflt := dflt, encoded := true }

/-- A command object. -/
def cmdObj (ty : Ty) (lo hi : Nat) : Option ObjInfo :=
  some { ty := ty, acc := .wo, lo := lo, hi := hi, encoded := true }

/-- A counter that is RO or RW from management (R386). -/
def countObj (acc : Acc) (kind : CounterKind) : Option ObjInfo :=
  some { ty := .u64, acc := acc, kind := kind }

/-- Is `sub` one of the first `n` subindexes from `first`? -/
def subIn (sub first n : Nat) : Bool := decide (first ≤ sub) && decide (sub < first + n)

/-- Objects of a partition block: `low` is the index less 0x4P00. -/
def partObj (low sub : Nat) : Option ObjInfo :=
  match low, sub with
  | 0x00, 1 => codeObj .u8 1 0
  | 0x00, 2 => some { ty := .str, acc := .rws, maxLen := 32 }
  | 0x00, 3 => roObj .u8
  | 0x01, 1 => setObj .u16 0 384 24
  | 0x01, 2 => some { ty := .u8, acc := .rws, lo := 1, hi := 0x3F, dflt := 0x3F }
  | 0x01, 3 => setObj .u8 1 12 2
  | 0x01, 4 => roObj .u16
  | 0x01, 5 => roObj .u16
  | 0x02, 1 => roObj .u64
  | 0x02, 2 => roObj .u64
  | 0x02, 3 => roObj .u32 1000000
  | 0x02, 4 => roObj .u8
  | 0x02, 5 => roObj .u16 1600
  | 0x02, 6 => roObj .u16 50
  | 0x10, 1 => setObj .u32 0 1179648 0
  | 0x10, 2 => setObj .bool 0 1 0
  | 0x10, 3 => setObj .u32 0 32768 0
  | 0x10, 4 => roObj .u32
  | 0x10, 5 => roObj .u32
  | 0x10, 6 => roObj .u32
  | 0x11, 1 => setObj .u32 0 262144 0
  | 0x11, 2 => setObj .u32 0 1179648 0
  | 0x11, 3 => setObj .u32 0 32768 0
  | 0x11, 4 => setObj .bool 0 1 0
  | 0x11, 5 => setObj .u32 1 (2 ^ 32 - 1) 16
  | 0x11, 6 => setObj .u32 256 65536 4096
  | 0x11, 7 => roObj .u32
  | 0x11, 8 => roObj .u32
  | 0x12, 1 => setObj .u32 0 64000 4000
  | 0x12, 2 => setObj .u32 1000 1048576 16000
  | 0x12, 3 => roObj .u32 16000
  | 0x13, 1 => setObj .u16 0 1536 96
  | 0x13, 2 => setObj .u16 0 384 24
  | 0x13, 3 => setObj .u32 0 32768 0
  | 0x13, 4 => roObj .u64
  | 0x14, 1 => setObj .u16 4 1024 64
  | 0x14, 2 => setObj .u16 4 1024 16
  | 0x14, 3 => setObj .u32 16 131072 8192
  | 0x14, 4 => roObj .u32
  | 0x14, 5 => roObj .u32
  | 0x14, 6 => roObj .u32
  | 0x14, 7 => some { ty := .u32, acc := .ro, kind := .narrow }
  | 0x15, 1 => setObj .u16 1 10000 100
  | 0x15, 2 => roObj .u64
  | 0x15, 3 => roObj .u64
  | 0x15, 4 => roObj .u64
  | 0x16, 1 => countObj .rw .event
  | 0x16, 2 => countObj .rw .event
  | 0x20, 1 => some { ty := .u32, acc := .rw, hi := 2 ^ 32 - 1, legal := 0xFFFFFF }
  | 0x21, 1 => some { ty := .u64, acc := .rw, legal := 0xFFFFFFFF00FFFFFF }
  | 0x30, 1 => roObj .u8
  | 0x30, 2 => roObj .bool
  | _, _ =>
    if low = 0x16 && subIn sub 3 9 then countObj .rw .accum
    else if low = 0x20 && subIn sub 2 4 then countObj .ro .event
    else if low = 0x20 && subIn sub 6 12 then countObj .ro .accum
    else if low = 0x21 && subIn sub 2 2 then countObj .ro .event
    else if low = 0x21 && subIn sub 4 6 then countObj .ro .accum
    else if subIn low 0x40 8 then
      match sub with
      | 1 => some { ty := .u32, acc := .rw, hi := 2 ^ 32 - 1, legal := 0xFFFFFF }
      | 2 => some { ty := .u64, acc := .rw, dflt := 2 ^ 64 - 1 }
      | 3 => some { ty := .u64, acc := .rw }
      | 4 => some { ty := .bool, acc := .rw, hi := 1 }
      | 5 => roObj .u8
      | _ => none
    else none

/-- Objects outside the partition area. -/
def deviceObj (idx sub : Nat) : Option ObjInfo :=
  match idx, sub with
  | 0x1000, 1 => some { ty := .str, acc := .ro, maxLen := 16 }
  | 0x1000, 2 => some { ty := .str, acc := .ro, maxLen := 16 }
  | 0x1000, 3 => some { ty := .str, acc := .ro, maxLen := 12 }
  | 0x1000, 4 => roObj .u16
  | 0x1000, 5 => roObj .u32
  | 0x1000, 6 => roObj .u16 1
  | 0x1000, 7 => roObj .u8
  | 0x1000, 8 => roObj .u64
  | 0x1000, 9 => roObj .u64
  | 0x1100, 0x01 => cmdObj .u8 1 3
  | 0x1100, 0x02 => roObj .u32
  | 0x1100, 0x03 => roObj .u16
  | 0x1100, 0x04 => roObj .u8
  | 0x1100, 0x05 => roObj .u64
  | 0x1100, 0x06 => roObj .u32
  | 0x1100, 0x07 => roObj .u8
  | 0x1100, 0x10 => cmdObj .u8 1 2
  | 0x1100, 0x11 => roObj .u8
  | 0x1100, 0x12 => roObj .u8
  | 0x1100, 0x13 => roObj .u8
  | 0x1100, 0x14 => roObj .u32
  | 0x1100, 0x15 => some { ty := .blob, acc := .wo, minLen := 8, maxLen := 1032 }
  | 0x1100, 0x16 => cmdObj .u8 1 3
  | 0x1100, 0x17 => roObj .u8
  | 0x1100, 0x18 => roObj .u8
  | 0x1100, 0x19 => roObj .u32
  | 0x1101, 1 => some { ty := .blob, acc := .ro, maxLen := 65536 }
  | 0x1101, 2 => roObj .u32
  | 0x1101, 3 => roObj .u32
  | 0x2000, 1 => setObj .u32 100 60000000 1000000
  | 0x2000, 2 => codeObj .u8 3 1
  | 0x2000, 3 => setObj .u32 0 (2 ^ 32 - 1) 0
  | 0x2000, 4 => setObj .u16 10 500 50
  | 0x2000, 5 => setObj .u32 1 1000000 100
  | 0x2000, 6 => codeObj .u8 8 0
  | 0x2000, 7 => setObj .u8 0 255 0
  | 0x2000, 8 => some { ty := .u64, acc := .wo }
  | 0x2001, 1 => roObj .u64
  | 0x2001, 2 => roObj .u64
  | 0x2001, 3 => roObj .u8
  | 0x2001, 4 => roObj .u32
  | 0x2001, 5 => some { ty := .u32, acc := .ro, kind := .narrow }
  | 0x2001, 6 => roObj .u32 1000000
  | 0x2001, 7 => roObj .u8
  | 0x2001, 8 => roObj .i32
  | 0x2002, 1 => countObj .rw .event
  | 0x2002, 2 => countObj .rw .event
  | 0x2003, 1 => setObj .u32 100 60000000 10000
  | 0x3010, 1 => setObj .u8 10 90 40
  | 0x3012, 1 => setObj .u8 0 12 8
  | 0x3020, 1 => roObj .u32
  | 0x3020, 2 => roObj .u32
  | 0x3021, 1 => roObj .u32
  | 0x3030, 1 => roObj .u64 (2 ^ 33)
  | 0x3030, 2 => roObj .u16
  | 0x3030, 3 => roObj .u32
  | 0x3030, 4 => roObj .u16 256
  | 0x3030, 5 => roObj .u8
  | 0x3030, 6 => roObj .u8 100
  | 0x3030, 7 => roObj .u64
  | 0x5000, 1 => setObj .u16 1 1024 32
  | 0x5000, 2 => setObj .bool 0 1 1
  | 0x5001, 1 => roObj .u8
  | 0x5001, 2 => roObj .u32
  | 0x5001, 3 => cmdObj .u8 1 1
  | 0x5001, 4 => setObj .bool 0 1 0
  | 0x5002, 1 => some { ty := .bool, acc := .rw, hi := 1 }
  | 0x5010, 1 => some { ty := .u16, acc := .wo, legal := 0x7773 }
  | 0x5010, 2 => roObj .u8
  | 0x5020, 1 => roObj .u16 384
  | 0x5020, 2 => roObj .u16 192
  | 0x5020, 3 => roObj .u8 0x3F
  | 0x5020, 4 => roObj .u8 0x3F
  | 0x5020, 5 => roObj .u8
  | 0x5020, 6 => roObj .u16
  | 0x5021, 1 => some { ty := .u16, acc := .wo, legal := 0x7773 }
  | 0x6000, 0x01 => roObj .u16 1600
  | 0x6000, 0x02 => setObj .u16 400 1600 400 25
  | 0x6000, 0x03 => setObj .u16 1 168 24
  | 0x6000, 0x04 => cmdObj .u8 1 1
  | 0x6000, 0x05 => roObj .u8
  | 0x6000, 0x06 => roObj .u16 1600
  | 0x6000, 0x07 => roObj .u16
  | 0x6000, 0x08 => roObj .u16 0xFFFF
  | 0x6000, 0x09 => roObj .u64
  | 0x6000, 0x3C => roObj .u16
  | 0x6000, 0x3D => setObj .u16 0 64 0
  | 0x6002, 1 => setObj .u8 0 100 50 5
  | 0x6003, 0x01 => setObj .u16 750 1500 1500 25
  | 0x6003, 0x02 => roObj .u16
  | 0x6003, 0x03 => roObj .u16
  | 0x6003, 0x04 => roObj .u16
  | 0x6003, 0x05 => roObj .u16
  | 0x6003, 0x06 => roObj .u8
  | 0x6003, 0x07 => roObj .u16 1600
  | 0x6003, 0x08 => roObj .u8 64
  | 0x8000, 9 => roObj .bool
  | 0x9000, 1 => roObj .u8 1
  | 0x9000, 2 => roObj .u64
  | 0x9001, 1 => roObj .bool
  | 0x9001, 2 => roObj .u8
  | 0x9001, 3 => cmdObj .u8 1 1
  | 0xA000, 1 => roObj .u16
  | _, _ =>
    if (idx = 0x3013 || idx = 0x3014) && subIn sub 1 12 then roObj .u8 (if idx = 0x3014 then 32 else 0)
    else if idx = 0x5022 && subIn sub 1 6 then roObj .u64
    else if idx = 0x5023 && subIn sub 1 12 then roObj .u16
    else if idx = 0x6000 && subIn sub 0x10 6 then roObj .u16
    else if idx = 0x6000 && subIn sub 0x20 12 then roObj .u16 0xFFFF
    else if idx = 0x6000 && subIn sub 0x2C 12 then roObj .u8 32
    else if idx = 0x6000 && subIn sub 0x38 4 then roObj .u16
    else if idx = 0x6001 && (subIn sub 1 6 || subIn sub 0x11 12) then roObj .u8
    else if idx = 0x6003 && subIn sub 0x10 0x17 then roObj .i32
    else if idx = 0x7000 && subIn sub 1 4 then countObj .rw .accum
    else if idx = 0x7010 && subIn sub 1 12 then countObj .ro .event
    else if subIn idx 0x7020 6 && subIn sub 1 64 then countObj .ro .event
    else if subIn idx 0x7030 12 && subIn sub 1 16 then countObj .ro .event
    else if idx = 0x7040 && subIn sub 1 6 then countObj .ro .event
    else if subIn idx 0x7100 32 then
      match sub with
      | 1 => some { ty := .u32, acc := .rws, hi := 2 ^ 32 - 1, legal := 0xFFFFFF }
      | 2 => some { ty := .u64, acc := .rws, dflt := 2 ^ 64 - 1 }
      | 3 => some { ty := .u64, acc := .rws }
      | 4 => some { ty := .bool, acc := .rws, hi := 1 }
      | 5 => roObj .u8
      | _ => none
    else if idx = 0x8000 && subIn sub 1 8 then codeObj .u8 7 0
    else if idx = 0x8001 && subIn sub 1 8 then codeObj .u8 1 1
    else if idx = 0x8002 && subIn sub 1 8 then some { ty := .u8, acc := .rw, hi := 255, legal := 3 }
    else if idx = 0x8003 && subIn sub 1 8 then roObj .bool
    else if idx = 0x8004 && subIn sub 1 8 then roObj .u8
    else if idx = 0x9010 && subIn sub 1 8 then
      some { ty := .u16, acc := .rws, hi := 0xFFFF, dflt := if sub = 1 then 0x00FF else 0, legal := 0xFF }
    else if idx = 0xA001 && subIn sub 1 8 then
      some { ty := .u16, acc := .rws, hi := 0xFFFF, dflt := 0x01FF, legal := 0x1FF }
    else none

/-- Is an index in the partition area (R13)? -/
def inPartArea (idx : Nat) : Bool := idx / 0x1000 == 4

/-- The partition an index of the partition area belongs to. -/
def partOfIndex (idx : Nat) : Nat := idx / 256 % 16

/-- What the dictionary says of an object at a subindex from 0x01 to 0x7F (R392, R403). -/
def objInfo (idx sub : Nat) : Option ObjInfo :=
  if inPartArea idx then partObj (idx % 256) sub else deviceObj idx sub

/-- The key of an object in the model's tables. -/
def objKey (idx sub : Nat) : Nat := idx * 256 + sub

/-- The index of the block of a partition. -/
def partIndex (p low : Nat) : Nat := 0x4000 + p * 256 + low

/-- Every index of R403 outside the partition area, ascending. -/
def deviceIndexes : List Nat :=
  [0x1000, 0x1100, 0x1101, 0x2000, 0x2001, 0x2002, 0x2003, 0x3010, 0x3012, 0x3013, 0x3014, 0x3020,
    0x3021, 0x3030, 0x5000, 0x5001, 0x5002, 0x5010, 0x5020, 0x5021, 0x5022, 0x5023, 0x6000, 0x6001,
    0x6002, 0x6003, 0x7000, 0x7010] ++ (List.range 6).map (· + 0x7020) ++
  (List.range 12).map (· + 0x7030) ++ [0x7040] ++ (List.range 32).map (· + 0x7100) ++
  [0x8000, 0x8001, 0x8002, 0x8003, 0x8004, 0x9000, 0x9001, 0x9010, 0xA000, 0xA001]

/-- The low parts of the indexes of a partition block, ascending (R403). -/
def partLows : List Nat :=
  [0x00, 0x01, 0x02, 0x10, 0x11, 0x12, 0x13, 0x14, 0x15, 0x16, 0x20, 0x21, 0x30, 0x40, 0x41, 0x42,
    0x43, 0x44, 0x45, 0x46, 0x47]

/-- Every index of R403, ascending. -/
def allIndexes : List Nat :=
  (deviceIndexes.filter (fun i => decide (i < 0x4000))) ++
  (List.range 16).flatMap (fun p => partLows.map (partIndex p)) ++
  (deviceIndexes.filter (fun i => decide (0x5000 ≤ i)))

/-- Does an index exist (R403)? -/
def indexExists (idx : Nat) : Bool :=
  if inPartArea idx then partLows.contains (idx % 256) else deviceIndexes.contains idx

/-- The objects of an index that exist, ascending (R392). -/
def subsOf (idx : Nat) : List Nat :=
  ((List.range 0x80).filter (fun s => s != 0)).filter (fun s => (objInfo idx s).isSome)

/-- Configured value of an object (R397): the last accepted one, else its default. -/
def Dev.confAt (d : Dev) (idx sub : Nat) : Nat :=
  tgetD d.conf (objKey idx sub) (((objInfo idx sub).map ObjInfo.dflt).getD 0)

/-- Value in force of an object that takes effect at a tick boundary (R68, R400). -/
def Dev.forceAt (d : Dev) (idx sub : Nat) : Nat :=
  tgetD d.force (objKey idx sub) (((objInfo idx sub).map ObjInfo.dflt).getD 0)

/-- Set the configured value; a value equal to the default is not listed. -/
def Dev.setConf (d : Dev) (idx sub v : Nat) : Dev :=
  { d with
    conf := if v = ((objInfo idx sub).map ObjInfo.dflt).getD 0 then terase d.conf (objKey idx sub)
      else tset d.conf (objKey idx sub) v }

/-- Configured value of an object of a partition. -/
def Dev.pconf (d : Dev) (p low sub : Nat) : Nat := d.confAt (partIndex p low) sub

/-- Value in force of an object of a partition. -/
def Dev.pforce (d : Dev) (p low sub : Nat) : Nat := d.forceAt (partIndex p low) sub

/-! ### Counters (R386 to R390) -/

/-- An EVENT counter advanced: VALUE wraps modulo 2^48 and sets WRAP (R386). -/
def eventAdd (c n : Nat) : Nat :=
  let v := c % 2 ^ 48 + n
  let wrap := bit c 48 || decide (2 ^ 48 ≤ v)
  v % 2 ^ 48 + (if wrap then 2 ^ 48 else 0)

/-- An ACCUM counter advanced: saturates at 2^64 - 1 (R386). -/
def accumAdd (c n : Nat) : Nat := min (c + n) (2 ^ 64 - 1)

/-- A counter of a kind advanced. -/
def counterAdd : CounterKind → Nat → Nat → Nat
  | .event, c, n => eventAdd c n
  | .accum, c, n => accumAdd c n
  | .narrow, c, n => (c + n) % 2 ^ 32
  | .notCounter, c, _ => c

/-- A counter object's value. -/
def Dev.counter (d : Dev) (idx sub : Nat) : Nat := tgetD d.counters (objKey idx sub) 0

/-- A counter object advanced by its kind. -/
def Dev.count (d : Dev) (idx sub n : Nat) : Dev :=
  let k := ((objInfo idx sub).map ObjInfo.kind).getD .notCounter
  { d with counters := tset d.counters (objKey idx sub) (counterAdd k (d.counter idx sub) n) }

/-- A partition's accounting counter advanced (R381). -/
def Dev.account (d : Dev) (p sub n : Nat) : Dev := d.count (partIndex p 0x16) sub n

end Sys2Proof.Machine
end

