-- ==== Sys2Proof/Machine/Ops.lean ====
section
/-!
DEFINITION. The named operations over the state: accessors of its tables, free values, responses and
posted failures, device causes, and the one way in which a command's effect becomes the next state.
-/

namespace Sys2Proof.Machine

/-! ### Tables -/

/-- Partition `p`. -/
def Dev.part (d : Dev) (p : Nat) : Part := tgetD d.parts p {}

/-- Partition `p` replaced. -/
def Dev.setPart (d : Dev) (p : Nat) (x : Part) : Dev := { d with parts := tset d.parts p x }

/-- Partition `p` changed. -/
def Dev.modPart (d : Dev) (p : Nat) (f : Part → Part) : Dev := d.setPart p (f (d.part p))

/-- Host port `n`. -/
def Dev.port (d : Dev) (n : Nat) : Port := tgetD d.ports n {}

/-- Host port `n` changed. -/
def Dev.modPort (d : Dev) (n : Nat) (f : Port → Port) : Dev :=
  { d with ports := tset d.ports n (f (d.port n)) }

/-- Region `r`. -/
def Dev.region (d : Dev) (r : Nat) : Region := tgetD d.regions r {}

/-- Region `r` changed. -/
def Dev.modRegion (d : Dev) (r : Nat) (f : Region → Region) : Dev :=
  { d with regions := tset d.regions r (f (d.region r)) }

/-- Stack `k`. -/
def Dev.stack (d : Dev) (k : Nat) : Stack := tgetD d.stackTab k {}

/-- Stack `k` changed. -/
def Dev.modStack (d : Dev) (k : Nat) (f : Stack → Stack) : Dev :=
  { d with stackTab := tset d.stackTab k (f (d.stack k)) }

/-- Cell number `n` (R263). -/
def Dev.cell (d : Dev) (n : Nat) : ComputeUnit := tgetD d.cells n {}

/-- Cell `n` changed. -/
def Dev.modCell (d : Dev) (n : Nat) (f : ComputeUnit → ComputeUnit) : Dev :=
  { d with cells := tset d.cells n (f (d.cell n)) }

/-- Engine number stack × 16 + e (R488). -/
def Dev.engine (d : Dev) (n : Nat) : ComputeUnit := tgetD d.engines n {}

/-- Engine `n` changed. -/
def Dev.modEngine (d : Dev) (n : Nat) (f : ComputeUnit → ComputeUnit) : Dev :=
  { d with engines := tset d.engines n (f (d.engine n)) }

/-- A live or ended job by id. -/
def Dev.job? (d : Dev) (j : Nat) : Option Job := tget d.jobs j

/-- A job replaced. -/
def Dev.setJob (d : Dev) (x : Job) : Dev := { d with jobs := tset d.jobs x.id x }

/-- A job changed, if there is one. -/
def Dev.modJob (d : Dev) (j : Nat) (f : Job → Job) : Dev :=
  match d.job? j with
  | some x => { d with jobs := tset d.jobs j (f x) }
  | none => d

/-- A job that has not ended. -/
def Dev.liveJob (d : Dev) (j : Nat) : Option Job :=
  match d.job? j with
  | some x => if x.state = .ended then none else some x
  | none => none

/-- The jobs that have not ended, in ascending id. -/
def Dev.liveJobs (d : Dev) : List Job :=
  (d.jobs.map Prod.snd).filter (fun j => decide (j.state ≠ .ended))

/-- A partition's live jobs. -/
def Dev.jobsOf (d : Dev) (p : Nat) : List Job := d.liveJobs.filter (fun j => j.part == p)

/-- Credential slot `c`, 0 to 7. -/
def Dev.cred (d : Dev) (c : Nat) : Cred := tgetD d.mgmt.creds c {}

/-- Credential slot `c` changed. -/
def Dev.modCred (d : Dev) (c : Nat) (f : Cred → Cred) : Dev :=
  { d with mgmt := { d.mgmt with creds := tset d.mgmt.creds c (f (d.cred c)) } }

/-- Rights word of a credential (R413). -/
def Dev.rights (d : Dev) (c : Nat) : Nat := tgetD d.backup.rights c (if c = 0 then 0x00FF else 0)

/-- Sky pin `n`. -/
def Dev.pin (d : Dev) (n : Nat) : SkyPin := tgetD d.pins n {}

/-- Sky pin `n` changed. -/
def Dev.modPin (d : Dev) (n : Nat) (f : SkyPin → SkyPin) : Dev :=
  { d with pins := tset d.pins n (f (d.pin n)) }

/-- A page-frame entry (R143). -/
def Dev.frame (d : Dev) (n : Nat) : PageFrame := tgetD d.pageFrames n {}

/-- A page-frame entry set; an entry at its reset value is not listed. -/
def Dev.setFrame (d : Dev) (n : Nat) (f : PageFrame) : Dev :=
  { d with pageFrames := if f = {} then terase d.pageFrames n else tset d.pageFrames n f }

/-- A stream-table entry in use (R175). -/
def Dev.stream? (d : Dev) (n : Nat) : Option StreamEntry := tget d.streams n

/-- A stream-table entry set. -/
def Dev.setStream (d : Dev) (n : Nat) (e : StreamEntry) : Dev :=
  { d with streams := tset d.streams n e }

/-- A state-object descriptor (R176). -/
def Dev.obj (d : Dev) (n : Nat) : StateObj := tgetD d.stateObjs n {}

/-- A state-object descriptor set; a free one is not listed. -/
def Dev.setObj (d : Dev) (n : Nat) (o : StateObj) : Dev :=
  { d with stateObjs := if o = {} then terase d.stateObjs n else tset d.stateObjs n o }

/-- The extents allocated in a stack. -/
def Dev.stackUse (d : Dev) (k : Nat) : List Extent := tgetD d.stackAlloc k []

/-- The extents allocated in a region cache's pinned area. -/
def Dev.cacheUse (d : Dev) (r : Nat) : List Extent := tgetD d.cacheAlloc r []

/-- Usable lines of a stack (R295, R297). -/
def Dev.stackCap (d : Dev) (k : Nat) : Nat :=
  if (d.stack k).outOfService then 0 else usableLines (32 - (d.stack k).fenced.length)

/-- Lines of a stack that hold KV pages, state objects and directory blocks. -/
def Dev.stackDyn (d : Dev) (k : Nat) : Nat :=
  sumNat (d.pageFrames.map (fun f =>
    if (f.2.state = .resident ∨ f.2.state = .spilling) ∧ f.2.stack = k then f.2.lines else 0)) +
    sumNat (d.stateObjs.map (fun o =>
      if (o.2.loc = .resident ∨ o.2.loc = .evicting) ∧ o.2.stack = k then o.2.lines else 0)) +
    sumNat (d.dirHomes.map (fun h => if h.2.stack = k then h.2.lines else 0))

/-- Lines of a stack that admitted jobs demand for pages and states (R163, R191).
[notes/assumptions 148 DEDUCED, unsafe] -/
def Dev.stackDemand (d : Dev) (k : Nat) : Nat :=
  sumNat (d.liveJobs.map (fun j => tgetD j.demand k 0))

/-- Free lines of a stack: its capacity less what is allocated, jobs' demand for pages and states counting in
full (R164). -/
def Dev.stackFree (d : Dev) (k : Nat) : Nat :=
  let dyn := d.stackDyn k
  d.stackCap k - (usedUnits (d.stackUse k) - dyn + max dyn (d.stackDemand k))

/-- An extent allocated in a stack. -/
def Dev.takeStack (d : Dev) (k align lines part : Nat) (phase : Nat := 0) : Option (Nat × Dev) :=
  match allocate (d.stackCap k) align lines part (d.stackUse k) phase with
  | some (b, l) => some (b, { d with stackAlloc := tset d.stackAlloc k l })
  | none => none

/-- An extent of a stack given back. -/
def Dev.giveStack (d : Dev) (k base : Nat) : Dev :=
  { d with stackAlloc := tset d.stackAlloc k (freeExtent (d.stackUse k) base) }

/-- Stratus units allocated (R315). -/
def Dev.takeStratus (d : Dev) (units part : Nat) : Option (Nat × Dev) :=
  match allocate (2 ^ 33) 1 units part d.stratus.alloc with
  | some (b, l) => some (b, { d with stratus := { d.stratus with alloc := l } })
  | none => none

/-- Stratus units given back. -/
def Dev.giveStratus (d : Dev) (base : Nat) : Dev :=
  { d with stratus := { d.stratus with alloc := freeExtent d.stratus.alloc base } }

/-! ### Free values, time -/

/-- The next free value and the device with its counter advanced.
[notes/assumptions 17 DESIGN CHOICE, safe] -/
def Dev.free (d : Dev) : Nat × Dev :=
  ((Config.freeValue d.freeCount).toNat, { d with freeCount := d.freeCount + 1 })

/-- TAI time in ns, when valid (R41). -/
def Dev.tai (d : Dev) : Option Nat :=
  if d.time.taiValid then some ((d.now : Int) + d.time.taiOffset).toNat else none

/-- Has the start reached ready (R517)? -/
def Dev.ready (d : Dev) : Bool := d.start.status == 1

/-- Does the management network accept every request (R517)? -/
def Dev.fullManagement (d : Dev) : Bool := d.start.status == 1 || d.start.status == 3

/-- Time advanced to an instant that lies ahead.
[notes/assumptions 1 DESIGN CHOICE, unsafe; 167 DESIGN CHOICE, unsafe] -/
def Dev.advance (d : Dev) (t : Tns) : Dev := { d with now := max d.now t }

/-! ### Units in service (R263, R276) -/

/-- Is a cell neither fenced nor under test, in a region in service? -/
def Dev.cellUp (d : Dev) (n : Nat) : Bool :=
  !(d.cell n).fenced && !(d.cell n).testing && !(d.region (n / 64)).outOfService

/-- Is an engine in service? -/
def Dev.engineUp (d : Dev) (n : Nat) : Bool :=
  !(d.engine n).fenced && !(d.engine n).testing && !(d.stack (n / 16)).outOfService &&
    !(d.region (n / 32)).outOfService

/-- Cells in service (R276).
[notes/assumptions 102 DEDUCED, unsafe] -/
def Dev.cellsUp (d : Dev) : List Nat := (List.range 384).filter d.cellUp

/-- Engines in service (R276). -/
def Dev.enginesUp (d : Dev) : List Nat := (List.range 192).filter d.engineUp

/-- In-service engines of a stack. -/
def Dev.stackEngines (d : Dev) (k : Nat) : List Nat :=
  (List.range 16).filter (fun e => d.engineUp (k * 16 + e))

/-! ### Responses (R344, R348, R349, R365) -/

/-- Payload bytes of a response, padded to 32 B. -/
def Response.body (r : Response) : Bytes := padTo 32 r.payload

/-- The 28 B of a response header before its CRC (R349). -/
def Response.headBits (r : Response) : Nat :=
  r.code + r.opcode * 2 ^ 8 + (if r.more then 2 ^ 16 else 0) + (if r.jobEnd then 2 ^ 17 else 0) +
    r.part * 2 ^ 24 + r.seq * 2 ^ 32 + r.tag * 2 ^ 64 + r.info % 2 ^ 32 * 2 ^ 96 + r.tick % 2 ^ 64 * 2 ^ 128 +
    r.body.length * 2 ^ 192

/-- A response packet as the ring holds it (R349): CRC over the header with CRC 0, then the payload.
[notes/assumptions 121 DEDUCED, unsafe] -/
def Response.bytes (r : Response) : Bytes :=
  let zero := toLe 32 r.headBits
  let crc := crc32c (zero ++ r.body)
  toLe 32 (r.headBits + crc * 2 ^ 224) ++ r.body

/-- Ring units of 32 B that a response takes. -/
def Response.units (r : Response) : Nat := 1 + r.body.length / 32

/-- Bytes a response takes in the outbox. -/
def Response.size (r : Response) : Nat := r.units * 32

/-- A response placed in its partition's outbox (R344). -/
def Dev.emit (d : Dev) (p : Nat) (r : Response) : Dev :=
  d.modPart p (fun x => { x with outbox := x.outbox ++ [r] })

/-- The largest payload of one response (R349). -/
def maxPayload : Nat := 2097152

/-- A payload cut into responses with MORE (R349). -/
def splitResponse (r : Response) : List Response :=
  if r.payload.length ≤ maxPayload then [r]
  else
    let ps := pieces maxPayload r.payload
    (ps.zip (List.range ps.length)).map
      (fun x => { r with payload := x.1, more := decide (x.2 + 1 < ps.length) })

/-- A tag's command marked complete (R361). -/
def Dev.markDone (d : Dev) (p tag : Nat) : Dev :=
  d.modPart p (fun x =>
    { x with flights := x.flights.map (fun f => if f.tag = tag then { f with completed := true } else f) })

/-- A tag no longer in flight (R348). -/
def Dev.dropFlight (d : Dev) (p tag : Nat) : Dev :=
  d.modPart p (fun x => { x with flights := x.flights.filter (fun f => f.tag != tag) })

/-- A packet taken out of its inbox, which frees its space (R342). -/
def Dev.dropPacket (d : Dev) (p tag : Nat) : Dev :=
  d.modPart p (fun x => { x with inbox := x.inbox.filter (fun k => k.tag != tag) })

/-- A wait of a command removed. -/
def Dev.dropWait (d : Dev) (p tag : Nat) : Dev :=
  d.modPart p (fun x => { x with waits := x.waits.filter (fun w => w.pkt.tag != tag) })

/-- Is a code a success, so that a posted command gives no failure (R365)? -/
def succeeded (c : Code) : Bool := decide (c.toNat < 0x10)

/-! ### Notices (R434 to R443) -/

/-- KIND less 1: the bit of R414. -/
def NoticeBody.kindBit : NoticeBody → Nat
  | .watermark _ _ up _ _ _ _ => if up then 0 else 1
  | .postedFail .. => 3
  | .capacity .. => 4
  | .tickLate .. => 5
  | .fault .. => 6
  | .replan .. => 7
  | .alarm _ => 8

/-- Merge key of a notice for a partition (R441); the first number tells the kinds apart, watermark kinds sharing
one. -/
def NoticeBody.key (part : Nat) : NoticeBody → Nat × Nat × Nat
  | .watermark slot .. => (0, slot, 0)
  | .postedFail .. => (3, part, 0)
  | .capacity k _ u _ _ => (4, k, u)
  | .tickLate j _ _ => (5, j, 0)
  | .fault _ _ b => (6, b, 0)
  | .replan .. => (7, 0, 0)
  | .alarm c => (8, c, 0)

/-- Merge key of a copy (R441). -/
def Notice.key (n : Notice) : Nat × Nat × Nat := n.body.key n.part

/-- A pending copy with a later one merged: COUNT and the running fields change (R441, R443). -/
def mergeNotice (old new : Notice) : Notice :=
  { old with
    count := min (old.count + 1) 65535
    body := match old.body, new.body with
      | .watermark s t up l pk _ _, .watermark _ _ _ l' _ _ ab' =>
        .watermark s t up l (if up then max pk l' else min pk l') (new.raised - old.raised) ab'
      | .capacity k c u _ _, .capacity _ _ _ n e => .capacity k c u n e
      | .fault _ u b, .fault cs _ _ => .fault cs u b
      | .replan _ pv _ _, .replan c _ b g => .replan c pv b g
      | b, _ => b }

/-- A copy entered among the pending ones, merging by key (R441). A TICK_LATE copy that finds 1,023
others merges into the overflow copy of job 0 (R440). -/
def addNotice (l : List Notice) (n : Notice) : List Notice :=
  let late := (l.filter (fun x => x.body.kindBit == 5 && x.key.2.1 != 0)).length
  let known := l.any (fun x => decide (x.key = n.key))
  let n' := match n.body with
    | .tickLate j c du => if !known && decide (1023 ≤ late) && j != 0
        then { n with body := .tickLate 0 c du } else n
    | _ => n
  if l.any (fun x => decide (x.key = n'.key)) then
    l.map (fun x => if x.key = n'.key then mergeNotice x n' else x)
  else l ++ [n']

/-- A notice made now. -/
def Dev.notice (d : Dev) (part : Option Nat) (b : NoticeBody) : Notice :=
  { body := b, tick := d.tick.tick, time := d.tai.getD d.now, timeValid := d.time.taiValid,
    raised := d.now, part := part.getD 0, device := part.isNone }

/-- A copy raised for a partition's ring. -/
def Dev.noticePart (d : Dev) (p : Nat) (n : Notice) : Dev :=
  d.modPart p (fun x => { x with pending := addNotice x.pending n })

/-- The enrolled credentials that take a kind (R414, R434).
[notes/assumptions 43 DEDUCED, unsafe] -/
def Dev.subscribers (d : Dev) (kindBit : Nat) : List Nat :=
  (List.range 8).filter (fun c =>
    (d.cred c).fingerprint.isSome && bit (d.forceAt 0xA001 (c + 1)) kindBit)

/-- Copies raised for every management credential that takes the kind (R434, R435). -/
def Dev.noticeMgmt (d : Dev) (n : Notice) : Dev :=
  (d.subscribers n.body.kindBit).foldl
    (fun acc c => acc.modCred c (fun x => { x with pending := addNotice x.pending n })) d

/-- A notice for some partitions' rings and for management (R434). -/
def Dev.notify (d : Dev) (part : Option Nat) (rings : List Nat) (b : NoticeBody) : Dev :=
  let n := d.notice part b
  (rings.foldl (fun acc p => acc.noticePart p n) d).noticeMgmt n

/-- The CREATED partitions. -/
def Dev.createdParts (d : Dev) : List Nat := (List.range 16).filter (fun p => (d.part p).created)

/-- A CAPACITY_CHANGE raised for partitions, and for management with the first of them; with no partition, and for the
flash tier, it is the device's (R268, R328, R436, R437).
[notes/assumptions 21 DEDUCED, unsafe] -/
def Dev.noticeCapacity (d : Dev) (rings : List Nat) (unitKind cause unit : Nat) : Dev :=
  let b : NoticeBody := .capacity unitKind cause unit d.cellsUp.length d.enginesUp.length
  let who (p : Option Nat) : Notice := d.notice (if unitKind = 6 then none else p) b
  (rings.foldl (fun acc p => acc.noticePart p (who (some p))) d).noticeMgmt (who rings.head?)

/-- A CAPACITY_CHANGE for a quota, raised for its partition (R268, R436, R437).
[notes/assumptions 140 DEDUCED, unsafe] -/
def Dev.noticeQuota (d : Dev) (p : Nat) : Dev :=
  d.notify (some p) [p] (.capacity 7 6 0 d.cellsUp.length d.enginesUp.length)

/-- An ALARM, to management only (R434). -/
def Dev.alarm (d : Dev) (cause : Nat) : Dev := d.notify none [] (.alarm cause)

/-! ### Completions (R344, R348, R365, R366) -/

/-- Handle named by a STORE packet (R357). -/
def Packet.handle (k : Packet) : Nat := leAt k.payload 0 4

/-- Poison of every unit or line of an object (R365).
[notes/assumptions 80 DEDUCED, unsafe] -/
def Dev.poisonObject (d : Dev) (h : Nat) : Dev :=
  { d with objects := d.objects.map (fun o => if o.1 = h then (o.1, { o.2 with poisoned := true }) else o) }

/-- A posted command that failed: notice, record for the next FENCE, poison (R365).
[notes/assumptions 80 DEDUCED, unsafe] -/
def Dev.failPosted (d : Dev) (p : Nat) (k : Packet) (c : Code) : Dev :=
  let d1 := d.notify (some p) [p] (.postedFail k.seq k.opcode c.toNat k.urgent)
  let d2 := d1.modPart p (fun x =>
    { x with
      postFails := x.postFails ++
        [{ seq := k.seq, urgent := k.urgent, opcode := k.opcode, code := c.toNat, order := k.order }]
      poisonedNames :=
        if k.opcode = 0x11 then x.poisonedNames
        else if x.poisonedNames.any (fun n => n.job == k.job && n.id == k.arg0 % 2 ^ 32)
        then x.poisonedNames
        else x.poisonedNames ++ [{ job := k.job, id := k.arg0 % 2 ^ 32, seq := k.seq }] })
  if k.opcode = 0x11 then d2.poisonObject (p * 2 ^ 32 + k.handle) else d2

/-- STEP and LOC of the stream a stream command names (R175, R360). -/
def Dev.streamMark (d : Dev) (k : Packet) : Option (Nat × Loc) :=
  if decide (0x21 ≤ k.opcode) && decide (k.opcode ≤ 0x25) then
    let host := !(k.opcode == 0x23 && bit k.arg1 0)
    (d.streams.find? (fun s => s.2.job == k.job && s.2.id == k.arg0 && s.2.host == host)).map
      (fun s => (s.2.step, s.2.loc))
  else none

/-- A command completed: its inbox space and its wait end, a response goes to the outbox, or, for a
posted command, nothing or the steps of R365 (R348, R350).
[notes/assumptions 46 DEDUCED, unsafe] -/
def Dev.complete (d : Dev) (p : Nat) (k : Packet) (c : Code) (info : Nat := 0) (payload : Bytes := []) :
    Dev :=
  let d1 := (d.dropPacket p k.tag).dropWait p k.tag
  if k.posted then
    let d2 := if succeeded c then d1 else d1.failPosted p k c
    d2.dropFlight p k.tag
  else
    let r : Response :=
      { code := c.toNat, opcode := k.opcode, part := p, seq := k.seq, tag := k.tag, info := info,
        tick := d.tick.tick, payload := payload, stream := d.streamMark k }
    ((splitResponse r).foldl (fun acc x => acc.emit p x) d1).markDone p k.tag

/-- A packet marked as started: it no longer counts as unstarted for DROP_QUEUE (R372).
[notes/assumptions 3 DESIGN CHOICE, unsafe] -/
def Dev.startPacket (d : Dev) (p tag : Nat) : Dev :=
  d.modPart p (fun x =>
    { x with inbox := x.inbox.map (fun k => if k.tag = tag then { k with started := true } else k) })

/-- A started command that waits; the payload stays in the inbox only while it is needed there. -/
def Dev.wait (d : Dev) (p : Nat) (k : Packet) (w : WaitFor) : Dev :=
  (d.startPacket p k.tag).modPart p (fun x => { x with waits := x.waits ++ [{ pkt := k, what := w }] })

/-- The packet with a tag in a partition's inboxes. -/
def Dev.packet? (d : Dev) (p tag : Nat) : Option Packet :=
  (d.part p).inbox.find? (fun k => k.tag == tag)

/-- The wait of a tag. -/
def Dev.wait? (d : Dev) (p tag : Nat) : Option Wait :=
  (d.part p).waits.find? (fun w => w.pkt.tag == tag)

/-! ### Vectors (R339) -/

/-- A message-signalled interrupt raised; a masked vector sets its pending bit, and a function in TDI
state ERROR or without bus mastership writes none (R339, R508, R334). -/
def Dev.vector (d : Dev) (p v : Nat) : Dev :=
  d.modPart p (fun x =>
    if x.tdi = .error || !x.busMaster then x
    else if (tgetD x.msix v {}).masked then
      { x with msixPending := if x.msixPending.contains v then x.msixPending else x.msixPending ++ [v] }
    else { x with vectors := modifyNth x.vectors v (· + 1) })

/-! ### Device causes and the safe state (R467, R475, R476) -/

/-- The unit of a region in the layout of R362. -/
def regionUnit (r : Nat) : Nat := 2 + r * 16

/-- A device cause detected, with the unit of R437; the safety controller takes it at the end of the
command. -/
def Dev.raise (d : Dev) (cause unit : Nat) : Dev := { d with raised := d.raised ++ [(cause, unit)] }

/-- The mask of a list of cause bits. -/
def causeMask (l : List (Nat × Nat)) : Nat := l.foldl (fun acc x => acc ||| (1 <<< x.1)) 0

/-- A round that the safe state withholds: its staging is dropped and it ends INTERNAL in its commit
window (R475, R476).
[notes/assumptions 82 DEDUCED, unsafe] -/
def Round.withhold (r : Round) (t : Tns) : Round :=
  { r with
    insts := [], stage := [], cells := [], ready := true, readyAt := t
    futures := [], streams := [], pageFrames := []
    failures := [{ who := none, code := .internal, time := t, maskBit := 6 }] }

/-- Cells, engines and sorters stopped, undecided rounds withheld (R475 steps 4 and 5).
[notes/assumptions 156 DEDUCED, unsafe] -/
def Dev.safeStop (d : Dev) : Dev :=
  { d with
    cells := d.cells.map (fun c => (c.1, { c.2 with held := none, ahead := none, parts := {}, pattern := false, idlePattern := false }))
    engines := d.engines.map (fun c => (c.1, { c.2 with held := none, parts := {}, pattern := false, idlePattern := false }))
    regions := d.regions.map (fun r => (r.1, { r.2 with
      sorter := { r.2.sorter with job := none }
      wcb := []
      cached := r.2.cached.map (fun s => (s.1, s.2.filter (fun x => !x.act))) }))
    stackTab := d.stackTab.map (fun k => (k.1, { k.2 with window := none }))
    jobs := d.jobs.map (fun j =>
      (j.1, { j.2 with round := j.2.round.map (fun r => if r.decided then r else r.withhold d.now) })) }

/-- Code of a unit that runs the built-in pattern: the cell number, or 384 + engine number. -/
def patternCode : PatternUnit → Nat
  | .cell n => n
  | .engine k e => 384 + k.val * 16 + e.val

/-- Is a unit of the pattern code in service? -/
def Dev.codeUp (d : Dev) (c : Nat) : Bool := if c < 384 then d.cellUp c else d.engineUp (c - 384)

/-- The built-in pattern starts on a unit. -/
def Dev.startPattern (d : Dev) (c : Nat) : Dev :=
  if c < 384 then d.modCell c (fun x => { x with pattern := true, idlePattern := false, patternAt := d.now, patternMilli := 0 })
  else d.modEngine (c - 384) (fun x => { x with pattern := true, idlePattern := false, patternAt := d.now, patternMilli := 0 })

/-- The built-in pattern starts on every in-service cell and engine (R468).
[notes/assumptions 156 DEDUCED, unsafe] -/
def Dev.patternAll (d : Dev) : Dev :=
  let l := (List.range 576).filter d.codeUp
  let d1 := l.foldl Dev.startPattern d
  { d1 with support := { d1.support with awaitPass := l } }

/-- Lowest bit of a mask that another lacks. -/
def lowestNew (new old : Nat) : Nat :=
  ((List.range 11).find? (fun b => bit new b && !bit old b)).getD 11

/-- The unit given with the first cause of a bit. -/
def unitOfCause (l : List (Nat × Nat)) (b : Nat) : Nat :=
  ((l.find? (fun x => x.1 == b)).map Prod.snd).getD 0xFFFF

/-- The FAULT notice of an entry, or of a further cause (R475, R486, R437). -/
def Dev.faultNotice (d : Dev) (causes old : Nat) (lines : List (Nat × Nat)) : Dev :=
  let b := if lowestNew causes old = 11 then (lines.map Prod.fst).foldl min 10 else lowestNew causes old
  d.notify none d.createdParts (.fault causes (unitOfCause lines b) b)

/-! ### The effect of a command -/

/-- A change of the addressed memories. -/
inductive MemOp where
  | write (addr : Nat) (bytes : Bytes)
  | cells (cs : List Host.Cell)
  | clear (addr n : Nat)
  | copy (src dst n : Nat)
  | poison (line : Nat)
  | clearPoison (addr n : Nat)
  | own (line n : Nat) (ro : Bool) (part : Nat)
  | poisonUnits (us : List Nat)
  | cleanUnits (us : List Nat)
  | wipe
  | keepOnly (ranges : List (Nat × Nat))
  deriving DecidableEq, Repr

/-- A change of memory carried out. `keepOnly` zeroes every byte outside some ranges and the side bands
with them (R522); `wipe` zeroes all of it. -/
def MemOp.run (m : Mem) : MemOp → Mem
  | .write a bs => m.writeBytes a bs
  | .cells cs => m.apply cs
  | .clear a n => m.clear a n
  | .copy a b n => m.copy a b n
  | .poison l => m.poison l
  | .clearPoison a n => m.clearPoison a n
  | .own l n ro p => m.own l n ro p
  | .poisonUnits us => { m with poisonUnits := us ++ m.poisonUnits.filter (fun u => !us.contains u) }
  | .cleanUnits us => { m with poisonUnits := m.poisonUnits.filter (fun u => !us.contains u) }
  | .wipe => {}
  | .keepOnly rs =>
    { m with
      bytes := m.bytes.filter (fun c => rs.any (fun r => decide (r.1 ≤ c.1) && decide (c.1 < r.1 + r.2)))
      poisoned := m.poisoned.filter (fun l => rs.any (fun r => decide (r.1 ≤ l * 128) && decide (l * 128 < r.1 + r.2)))
      runs := keepRuns m.runs rs
      poisonUnits := m.poisonUnits.filter (fun u =>
        let a := Space.stratus.addr (u * 4096)
        rs.any (fun r => decide (r.1 ≤ a) && decide (a < r.1 + r.2))) }

/-- A change of the safety controller. -/
inductive SafetyOp where
  /-- a cause's clearing condition holds (R467) -/
  | clear (cause : Nat)
  /-- a release by 0x5001.03 (R479) -/
  | release
  /-- the exit at a tick boundary, `auto` being 0x5001.04 (R479) -/
  | boundary (auto : Bool)
  /-- ready (R517): FAULT_N is released if no cause is present -/
  | ready
  /-- a reset (R444, R478) -/
  | restart
  deriving DecidableEq, Repr

/-- May the device leave the safe state at this boundary (R479)? -/
def Safety.mayLeave (s : Safety) (auto : Bool) : Bool := s.safe && s.causes == 0 && (s.release || auto)

/-- A change of the safety controller carried out. -/
def SafetyOp.run (s : Safety) : SafetyOp → Safety
  | .clear b => { s with causes := if bit s.causes b then s.causes - 2 ^ b else s.causes }
  | .release => { s with release := s.safe }
  | .boundary auto =>
    if s.mayLeave auto then { s with safe := false, release := false, faultHigh := true } else s
  | .ready => { s with faultHigh := !s.safe && s.causes == 0 }
  | .restart => {}

/-- What a command does: the device after it, the memory and safety changes in order. -/
structure Eff where
  dev : Dev
  mem : List MemOp := []
  safety : List SafetyOp := []

/-- The safety controller with the causes a command raised (R475): any cause asserts FAULT_N and
enters SAFE. -/
def Safety.take (s : Safety) (lines : List (Nat × Nat)) : Safety :=
  if lines.isEmpty then s
  else { safe := true, causes := s.causes ||| causeMask lines, release := false, faultHigh := false }

/-- The device once the safety controller has taken the raised causes: stopped at an entry, and a FAULT
notice sent (R475). -/
def Dev.settle (d : Dev) (before after : Safety) : Dev :=
  if d.raised.isEmpty then d
  else
    let d1 := { d with raised := [] }
    let d2 := if before.safe then d1 else d1.safeStop
    let d3 := if d.raised.any (fun x => x.1 == 0) && !bit before.causes 0 then d2.patternAll else d2
    d3.faultNotice after.causes before.causes d.raised

end Sys2Proof.Machine
end

