-- ==== Sys2Proof/Machine/Cache.lean ====
section
/-!
DEFINITION. The unpinned ways of the region caches (R298, R300 to R302): which stack lines they hold, in what order of use,
with which marks.
-/

namespace Sys2Proof.Machine

/-- Set of a stack line in its region's cache (R298). -/
def cacheSet (la : Nat) : Nat := (la % 2 ^ 15) ^^^ (la / 2 ^ 15 % 2 ^ 15)

/-- How an access reaches a line. -/
inductive Access where
  | read
  | full
  | part
  deriving DecidableEq, Repr

/-- Does an access write? -/
def Access.writes : Access → Bool
  | .read => false
  | _ => true

/-- The line of a set that is replaced next; a set lists its lines most recent first (R302). -/
def cacheVictim (l : List CacheLine) : Option CacheLine :=
  match l.reverse.find? (fun x => !x.keep && !x.dirty) with
  | some x => some x
  | none => match l.reverse.find? (fun x => !x.keep) with
    | some x => some x
    | none => l.getLast?

/-- A set with lines replaced until fewer than `ways` remain; at most `n` are. -/
def cacheRoom (ways : Nat) : Nat → List CacheLine → List CacheLine
  | 0, l => l
  | n + 1, l =>
    if l.length < ways then l
    else match cacheVictim l with
      | some v => cacheRoom ways n (l.filter (fun x => x.line != v.line))
      | none => l

/-- A set that takes one more KEEP line: beyond half of the ways the least recent KEEP line becomes normal (R302). -/
def cacheKeep (ways : Nat) (l : List CacheLine) : List CacheLine :=
  if (l.filter CacheLine.keep).length < ways / 2 then l
  else match l.reverse.find? CacheLine.keep with
    | some v => l.map (fun x => if x.line = v.line then { x with keep := false } else x)
    | none => l

/-- One access to a line of a set by the hint of its tensor: 1 STREAM, 2 KEEP, 3 LAST_USE (R300, R301).
[notes/assumptions 191 DEDUCED, unsafe] -/
def cacheAccess (ways : Nat) (l : List CacheLine) (a : Access) (hint : Nat) (x : CacheLine) : List CacheLine :=
  let others := l.filter (fun y => y.line != x.line)
  match l.find? (fun y => y.line == x.line) with
  | some old =>
    let y := { old with
      keep := old.keep || (hint == 2 && !a.writes), dirty := old.dirty || (a.writes && old.act)
      poison := old.poison && decide (a ≠ .full) }
    if hint = 3 && !a.writes then others
    else if hint = 1 then l.map (fun z => if z.line = x.line then y else z)
    else y :: (if y.keep && !old.keep then cacheKeep ways others else others)
  | none =>
    if hint = 1 || (hint = 3 && !a.writes) || (a.writes && !(decide (a = .full) && x.act)) then l
    else
      let kept := if hint = 2 then cacheKeep ways l else l
      { x with keep := hint == 2, dirty := a.writes } :: cacheRoom ways kept.length kept

/-- Unpinned ways of every set: those above the pinned area in force (R299). -/
def Dev.unpinnedWays (d : Dev) : Nat := 16 - d.forceAt 0x3012 1

/-- The dirty lines that an access takes out of a set, to be written to the stack: those replaced, not one that LAST_USE drops
(R300). -/
def evictedLines (old new : List CacheLine) (line : Nat) : List CacheLine :=
  old.filter (fun x => x.dirty && x.line != line && !new.any (fun y => y.line == x.line))

/-- A set with at most half of its ways for KEEP lines, the least recent ones becoming normal (R302). -/
def cacheHalf (ways : Nat) : Nat → List CacheLine → List CacheLine
  | 0, l => l
  | n + 1, l => if (l.filter CacheLine.keep).length ≤ ways / 2 then l else cacheHalf ways n (cacheKeep ways l)

/-- Region of a line of the one numbering, if it is a stack line, and its address in the stack. -/
def cachedBy (line : Nat) : Option (Nat × Nat) :=
  if line < 12 * stackLines then some (line / stackLines / 2, line % stackLines) else none

/-- The copy of a stack line in the unpinned ways of its region's cache. -/
def Dev.cachedCopy (d : Dev) (line : Nat) : Option CacheLine :=
  match cachedBy line with
  | some (r, la) => (tgetD (d.region r).cached (cacheSet la) []).find? (fun x => x.line == line)
  | none => none

/-- Does the cache of its region hold a stack line, in its unpinned ways or among the level-2 tiles of a guaranteed job? -/
def Dev.cached (d : Dev) (line : Nat) : Bool :=
  (d.cachedCopy line).isSome || (cachedBy line).any (fun x => (d.region x.1).levelTwo.any (fun l => l.2.contains line))

/-- A stack line held pinned for the level-2 tiles of a guaranteed job, `room` lines of them in the region (R299). -/
def Dev.pinLine (d : Dev) (r job line room : Nat) : Dev :=
  d.modRegion r (fun y => { y with levelTwo := tset y.levelTwo job ((line :: (tgetD y.levelTwo job []).filter (· != line)).take room) })

/-- One access to a stack line in the cache of its region; a line of another memory is not cached. -/
def Dev.cacheTouch (d : Dev) (a : Access) (hint : Nat) (x : CacheLine) : Dev :=
  match cachedBy x.line with
  | none => d
  | some (r, la) =>
    d.modRegion r (fun y => { y with
      cached := tset y.cached (cacheSet la) (cacheAccess d.unpinnedWays (tgetD y.cached (cacheSet la) []) a hint x) })

/-- ACT lines that a test on their job selects dropped without a write, and with them its level-2 tiles (R228, R299, R300). -/
def Region.dropAct (r : Region) (which : Nat → Bool) : Region :=
  { r with
    cached := (r.cached.map (fun s => (s.1, s.2.filter (fun x => !(x.act && which x.job))))).filter (fun s => !s.2.isEmpty)
    levelTwo := r.levelTwo.filter (fun l => !which l.1) }

/-- The ACT lines of a job dropped at the end of its round. -/
def Dev.dropAct (d : Dev) (job : Nat) : Dev :=
  { d with regions := d.regions.map (fun r => (r.1, r.2.dropAct (· == job))) }

/-- Every set held to the unpinned ways in force, and its KEEP lines to half of them (R299, R302). -/
def Dev.trimCaches (d : Dev) : Dev :=
  { d with regions := d.regions.map (fun r =>
      (r.1, { r.2 with cached := r.2.cached.map (fun s => (s.1,
        cacheRoom (d.unpinnedWays + 1) s.2.length (cacheHalf d.unpinnedWays s.2.length s.2))) })) }

end Sys2Proof.Machine
end

