-- ==== Sys2Proof/Machine/Values.lean ====
section
/-!
DEFINITION. What every object of the dictionary reads (R397): configured values, readings of the present
condition, counters and the windows of job and stream counters.
-/

namespace Sys2Proof.Machine

/-- Time state code (R45). -/
def TimeMode.code : TimeMode → Nat
  | .acquiring => 0
  | .locked => 1
  | .holdover => 2
  | .freeRun => 3
  | .timeInvalid => 4

/-- The time state of R45: TIME_INVALID stands in for ACQUIRING and FREE_RUN from a start after the backup
clock stopped until a source supplies the TAI time. -/
def Dev.timeState (d : Dev) : TimeMode :=
  if d.time.invalidStart && !d.time.taiValid &&
      (decide (d.time.mode = .acquiring) || decide (d.time.mode = .freeRun)) then .timeInvalid
  else d.time.mode

/-- TDI state code (R407). -/
def Tdi.code : Tdi → Nat
  | .unlocked => 0
  | .locked => 1
  | .run => 2
  | .error => 3

/-- A mask of the numbers below `n` that satisfy a test. -/
def maskOf (n : Nat) (f : Nat → Bool) : Nat :=
  (List.range n).foldl (fun acc i => if f i then acc + 2 ^ i else acc) 0

/-- Two's complement of a width. -/
def twos (bits : Nat) (i : Int) : Nat := (i % (2 ^ bits : Int)).toNat

/-- The object of the handle space of a partition (R357). -/
def Dev.object? (d : Dev) (p h : Nat) : Option Object := tget d.objects (p * 2 ^ 32 + h)

/-- The stored objects of a partition. -/
def Dev.objectsOf (d : Dev) (p : Nat) : List (Nat × Object) := d.objects.filter (fun o => o.2.part == p)

/-- Does a host stream's entry hold an evicted or recalling state (R190)? -/
def StreamEntry.away (e : StreamEntry) : Bool :=
  e.host && (decide (e.loc = .evicted) || decide (e.loc = .recalling))

/-- Does a packet take inbox space: not an INPUT or a STREAM_CHUNK from its intake on (R342)? -/
def Packet.takesInbox (k : Packet) : Bool := !(k.started && (k.opcode == 0x10 || k.opcode == 0x22))

/-- Bytes in use in an inbox (R341, R342). -/
def Part.inboxBytes (x : Part) (urgent : Bool) : Nat :=
  sumNat ((x.inbox.filter (fun k => k.urgent == urgent && k.takesInbox)).map (fun k => 64 + k.len))

/-- May a response of some bytes, `payload` of them payload, enter an outbox of `cap` bytes with `used` in use: the last
64 KiB are kept for payloads of at most 2 KiB (R344)? -/
def entersOutbox (cap used size payload : Nat) : Bool :=
  decide (used + size ≤ cap - if payload ≤ 2048 then 0 else 65536)

/-- The completed responses, in order of completion, that have found room in an outbox of `cap` bytes; another waits
outside until there is room for it (R344).
[notes/assumptions 201 DEDUCED, unsafe] -/
def inOutbox (cap : Nat) : Nat → List Response → List Response
  | _, [] => []
  | used, r :: rs =>
    if entersOutbox cap used r.size r.body.length then r :: inOutbox cap (used + r.size) rs else inOutbox cap used rs

/-- Bytes of a partition's outbox (R341). -/
def Dev.outboxCap (d : Dev) (p : Nat) : Nat := d.pforce p 0x14 2 * 1048576

/-- Bytes in use in a partition's outbox (R341, R344). -/
def Dev.outboxBytes (d : Dev) (p : Nat) : Nat :=
  sumNat ((inOutbox (d.outboxCap p) 0 (d.part p).outbox).map Response.size)

/-- Life used in units of 0.01 % (R325): the larger of bytes written against 58,432 TiB and the mean
erase count against 3,000. -/
def Stratus.life (s : Stratus) : Nat :=
  max (s.written * 10000 / (58432 * 2 ^ 28))
    (sumNat (s.blocks.map (fun b => b.2.erases)) * 10000 / (3000 * 256 * 2048))

/-- Free user units of Stratus. -/
def Stratus.freeUnits (s : Stratus) : Nat := 2 ^ 33 - usedUnits s.alloc

/-- Dies fenced. -/
def Stratus.fencedDies (s : Stratus) : Nat := (s.dies.filter (fun x => x.2.fenced)).length

/-- State of the tier (R330): the ninth fenced die makes it READ_ONLY (R328). -/
def Stratus.state (s : Stratus) : Nat :=
  if s.readOnly || 9 ≤ s.fencedDies then 2 else if s.dies.any (fun x => x.2.rebuilding) then 1 else 0

/-- Lowest free erased blocks on any die in service, in %. -/
def Stratus.lowestFree (s : Stratus) : Nat :=
  ((s.dies.filter (fun x => !x.2.fenced)).map (fun x => x.2.freeErased)).foldl min 100

/-- Management copies of ALARM notices pending (R549). -/
def Dev.alarmPendingCopies (d : Dev) : Bool :=
  d.mgmt.creds.any (fun c => c.2.pending.any (fun n => n.body.kindBit == 8))

/-- The alarm condition of R549. -/
def Dev.alarmCondition (d : Dev) : Bool :=
  d.backup.alarmPending || d.deviceSlots.any (fun x => x.2) || d.alarmPendingCopies

/-- Is FAULT_N high for the pin functions? Only while NORMAL and ready (R478). -/
def Safety.faultLevel (s : Safety) : Bool := s.faultHigh

/-- Level at a sky pin (R547, R550): what its function drives, else what is outside, else the idle pull. -/
def State.pinLevel (s : State) (n : Nat) : Bool :=
  let x := s.dev.pin n
  let idle := s.dev.confAt 0x8001 (n + 1) == 1
  let outer := x.outside.getD idle
  if x.changing.isSome then outer
  else match x.function with
    | 0 =>
      let g := s.dev.confAt 0x8002 (n + 1)
      if bit g 0 then bit g 1 else outer
    | 2 => s.dev.tick.started && decide (x.since ≤ s.dev.tick.start) && decide (s.dev.now < s.dev.tick.start + 1000)
    | 4 => s.dev.time.lastPulse.any (fun t => decide (x.since ≤ t) && decide (s.dev.now < t + 1000))
    | 5 => !s.dev.alarmCondition
    | 6 => s.safety.faultHigh
    | _ => outer

/-- A job window's counter (R382): 2 to 5 EVENT, 6 to 17 ACCUM. -/
def JobCounters.value (c : JobCounters) : Nat → Nat
  | 0x02 => c.ok
  | 0x03 => c.late
  | 0x04 => c.failed
  | 0x05 => c.missed
  | 0x06 => c.cellBusy
  | 0x07 => c.cirrusBusy
  | 0x08 => c.sorterBusy
  | 0x09 => c.dupC
  | 0x0A => c.dupM
  | 0x0B => c.lost
  | s => c.stalls.getD (s - 0x0C) 0

/-- A job window's counter set. -/
def JobCounters.set (c : JobCounters) (s v : Nat) : JobCounters :=
  match s with
  | 0x02 => { c with ok := v }
  | 0x03 => { c with late := v }
  | 0x04 => { c with failed := v }
  | 0x05 => { c with missed := v }
  | 0x06 => { c with cellBusy := v }
  | 0x07 => { c with cirrusBusy := v }
  | 0x08 => { c with sorterBusy := v }
  | 0x09 => { c with dupC := v }
  | 0x0A => { c with dupM := v }
  | 0x0B => { c with lost := v }
  | _ => { c with stalls := c.stalls.set (s - 0x0C) v }

/-- A stream window's counter (R383). -/
def StreamCounters.value (c : StreamCounters) : Nat → Nat
  | 0x02 => c.steps
  | 0x03 => c.slipped
  | s => c.stalls.getD (s - 0x04) 0

/-- A stream window's counter set. -/
def StreamCounters.set (c : StreamCounters) (s v : Nat) : StreamCounters :=
  match s with
  | 0x02 => { c with steps := v }
  | 0x03 => { c with slipped := v }
  | _ => { c with stalls := c.stalls.set (s - 0x04) v }

/-- The job selector of a requester for a partition (R382). -/
def Dev.jobSelector (d : Dev) (who : Requester) (p : Nat) : Nat :=
  match who with
  | .host _ => (d.part p).selectJob
  | .cred c => tgetD (d.cred c.val).selectJob p 0

/-- The stream selector of a requester for a partition (R383). -/
def Dev.streamSelector (d : Dev) (who : Requester) (p : Nat) : Nat :=
  match who with
  | .host _ => (d.part p).selectStream
  | .cred c => tgetD (d.cred c.val).selectStream p 0

/-- Does a job id name a stream or future of the job with an entry or a live future (R384)? -/
def Job.hasStream (j : Job) (d : Dev) (id : Nat) : Bool :=
  j.futures.any (fun f => f.id == id) ||
    d.streams.any (fun e => e.2.job == j.id && e.2.id == id)

/-- Status of a window read (R384): 4 where the selector names nothing, 5 for another partition's job. -/
def Dev.windowStatus (d : Dev) (who : Requester) (p low : Nat) : Nat :=
  let sel := if low = 0x20 then d.jobSelector who p else d.streamSelector who p
  match d.job? (sel % 2 ^ 24) with
  | none => 4
  | some j =>
    if j.part != p then 5
    else if low = 0x20 then 0
    else if j.hasStream d (sel / 2 ^ 32) || (tget j.streamCounters (sel / 2 ^ 32)).isSome then 0 else 4

/-- A counter seen through a window (R382, R383). -/
def Dev.windowValue (d : Dev) (who : Requester) (p low sub : Nat) : Nat :=
  let sel := if low = 0x20 then d.jobSelector who p else d.streamSelector who p
  match d.job? (sel % 2 ^ 24) with
  | none => 0
  | some j =>
    if j.part != p then 0
    else if low = 0x20 then j.counters.value sub
    else (tgetD j.streamCounters (sel / 2 ^ 32) {}).value sub

/-- Bytes to whole MiB, rounded up. -/
def mib (b : Nat) : Nat := ceilDiv b 1048576

/-- Cells held by a partition's guaranteed grants (R267). -/
def Dev.grantedCells (d : Dev) (p : Nat) : List Nat :=
  (d.jobsOf p).flatMap (fun j => if j.state = .admitted && j.batch.guaranteed then j.grant.cells else [])

/-- Stacked-memory demand of a partition's jobs in bytes, that of one which has ended counting until the boundary (R166). -/
def Dev.kvDemanded (d : Dev) (p : Nat) : Nat := sumNat ((d.jobs.filter (fun j => j.2.part == p)).map (fun j => j.2.kvBytes))

/-- Pool pages demanded, those of a job that has ended counting until the boundary (R166). -/
def Dev.pagesDemanded (d : Dev) : Nat := sumNat (d.jobs.map (fun j => j.2.pageDemand))

/-- Is a region in a partition's mask? -/
def Dev.regionUsable (d : Dev) (p r : Nat) : Bool := bit (d.pforce p 0x01 2) r

/-- Numbers a partition's block reads. -/
def State.partNumber (s : State) (who : Requester) (p low sub : Nat) : Nat :=
  let d := s.dev
  let x := d.part p
  match low, sub with
  | 0x00, 3 => if !x.present then 0 else if x.busMaster then 2 else 1
  | 0x01, 4 => (d.grantedCells p).length
  | 0x01, 5 => (d.cellsUp.filter (fun n => d.regionUsable p (n / 64))).length
  | 0x02, 1 => d.tick.tick
  | 0x02, 2 => d.tick.startTai
  | 0x02, 3 => d.tick.period
  | 0x02, 4 => d.timeState.code
  | 0x02, 5 => d.ageing.clock
  | 0x02, 6 => d.tick.guard
  | 0x10, 4 => mib (d.kvDemanded p)
  | 0x10, 5 => (d.pageFrames.filter (fun f => f.2.part == p && decide (0 < f.2.ref))).length
  | 0x10, 6 => (d.pageFrames.filter (fun f => f.2.part == p && decide (1 < f.2.ref))).length
  | 0x11, 7 => sumNat ((d.jobsOf p).map Job.entries)
  | 0x11, 8 => (d.streams.filter (fun e => e.2.part == p && e.2.away)).length
  | 0x12, 3 => x.bucketLow
  | 0x13, 4 => sumNat ((d.stratus.alloc.filter (fun e => e.part == p)).map Extent.size)
  | 0x14, 4 => x.inboxBytes false
  | 0x14, 5 => d.outboxBytes p
  | 0x14, 6 => x.flights.length
  | 0x14, 7 => x.doorbellsIgnored
  | 0x15, 2 => x.shareUse.getD 0 0
  | 0x15, 3 => x.shareUse.getD 1 0
  | 0x15, 4 => x.shareUse.getD 2 0
  | 0x20, 1 => d.jobSelector who p
  | 0x21, 1 => d.streamSelector who p
  | 0x30, 1 => x.tdi.code
  | 0x30, 2 => if x.ide.established then 1 else 0
  | _, _ =>
    if low = 0x16 then d.counter (partIndex p low) sub
    else if low = 0x20 || low = 0x21 then d.windowValue who p low sub
    else if subIn low 0x40 8 then
      if sub = 5 then tgetD x.slotValues (low * 256 + 5) 0
      else tgetD x.slotValues (low * 256 + sub) (((partObj low sub).map ObjInfo.dflt).getD 0)
    else d.pconf p low sub

/-- Sensor object's subindex in 0x6003 (R557). -/
def Sensor.sub : Sensor → Nat
  | .inlet => 0x10
  | .outlet => 0x11
  | .region r => 0x12 + r.val
  | .ioDie => 0x18
  | .baseDie k => 0x19 + k.val
  | .nand => 0x25
  | .backup => 0x26

/-- Refresh interval of a channel in ms (R493, R496): 32 unless halved. -/
def Stack.refreshOf (k : Stack) (c : Nat) : Nat := tgetD k.refresh c 32

/-- Numbers the device objects read. -/
def State.deviceNumber (s : State) (idx sub : Nat) : Nat :=
  let d := s.dev
  match idx, sub with
  | 0x1000, 4 => Config.hardwareRevision.toNat
  | 0x1000, 5 =>
    if d.start.bank = 0 && d.start.bankA.version != 0 then d.start.bankA.version
    else if d.start.bank = 1 && d.start.bankB.version != 0 then d.start.bankB.version
    else Config.firmwareVersion.toNat
  | 0x1000, 6 => 1
  | 0x1000, 7 => d.start.moduleId
  | 0x1000, 8 => Config.manufactureTime.toNat
  | 0x1000, 9 => Config.macAddress.toNat
  | 0x1100, 0x02 => d.store.generation
  | 0x1100, 0x03 => d.store.epoch
  | 0x1100, 0x04 => d.store.result
  | 0x1100, 0x05 => d.store.storedTai
  | 0x1100, 0x06 => d.store.bytes
  | 0x1100, 0x07 => d.store.applied
  | 0x1100, 0x11 => d.start.status
  | 0x1100, 0x12 => d.start.kind
  | 0x1100, 0x13 => d.start.failedStep
  | 0x1100, 0x14 => d.start.millis
  | 0x1100, 0x17 => d.start.install
  | 0x1100, 0x18 => d.start.bank
  | 0x1100, 0x19 => d.start.stagedVersion
  | 0x1101, 2 => d.store.report.length
  | 0x1101, 3 => d.store.reportBad
  | 0x2001, 1 => d.tick.tick
  | 0x2001, 2 => d.tick.startTai
  | 0x2001, 3 => d.timeState.code
  | 0x2001, 4 => (d.time.holdStart.map (fun t => (d.now - t) / 1000000000)).getD 0
  | 0x2001, 5 => d.time.ignored
  | 0x2001, 6 => d.tick.period
  | 0x2001, 7 => d.time.portA + d.time.portB * 16
  | 0x2001, 8 => twos 32 d.time.offset
  | 0x3020, 1 => min (2 ^ 26) d.pagesDemanded
  | 0x3020, 2 => (d.pageFrames.filter (fun f => decide (0 < f.2.ref))).length
  | 0x3021, 1 => sumNat (d.liveJobs.map Job.entries)
  | 0x3030, 1 => d.stratus.freeUnits
  | 0x3030, 2 => min 65535 d.stratus.life
  | 0x3030, 3 => d.stratus.retired
  | 0x3030, 4 => 256 - d.stratus.fencedDies
  | 0x3030, 5 => d.stratus.state
  | 0x3030, 6 => d.stratus.lowestFree
  | 0x3030, 7 => d.stratus.written
  | 0x5001, 1 => if s.safety.safe then 1 else 0
  | 0x5001, 2 => s.safety.causes
  | 0x5002, 1 => if d.lockOpened.isSome then 1 else 0
  | 0x5010, 2 => d.mgmtTest
  | 0x5020, 1 => d.cellsUp.length
  | 0x5020, 2 => d.enginesUp.length
  | 0x5020, 3 => maskOf 6 (fun r => !(d.region r).outOfService)
  | 0x5020, 4 => maskOf 6 (fun r => !(d.region r).outOfService && !(d.region r).sorter.fenced)
  | 0x5020, 5 => maskOf 6 (fun r => (d.region r).draining)
  | 0x5020, 6 => sumNat (d.stackTab.map (fun k => k.2.fenced.length))
  | 0x6000, 0x01 => d.ageing.clock
  | 0x6000, 0x05 => d.ageing.state
  | 0x6000, 0x06 => d.ageing.planned
  | 0x6000, 0x07 => d.ageing.worstDelay
  | 0x6000, 0x08 => d.ageing.worstUnit
  | 0x6000, 0x09 => d.ageing.lastTick
  | 0x6000, 0x3C => d.ageing.eraseMax
  | 0x6003, 0x02 => d.power.milliP
  | 0x6003, 0x03 => d.power.milliQ
  | 0x6003, 0x04 => (Config.inputCurrent d.now).toNat
  | 0x6003, 0x05 => (Config.inputPower d.now).toNat
  | 0x6003, 0x06 => d.power.feeds
  | 0x6003, 0x07 => d.ageing.capClock
  | 0x6003, 0x08 => d.ageing.sigma
  | 0x8000, 9 => if d.alarmCondition then 1 else 0
  | 0x9000, 1 => 1
  | 0x9000, 2 => d.backup.monotonic
  | 0x9001, 1 => if d.backup.alarmPending then 1 else 0
  | 0x9001, 2 => d.backup.alarms
  | 0xA000, 1 => sumNat (d.mgmt.creds.map (fun c => c.2.pending.length))
  | _, _ =>
    if idx = 0x2002 || (0x7000 ≤ idx && idx < 0x7100) then d.counter idx sub
    else if idx = 0x3013 then sumNat ((d.stack (sub - 1)).spares.map Prod.snd)
    else if idx = 0x3014 then 32 - (d.stack (sub - 1)).fenced.length
    else if idx = 0x5022 then maskOf 64 (fun n => (d.cell ((sub - 1) * 64 + n)).fenced)
    else if idx = 0x5023 then maskOf 16 (fun e => (d.engine ((sub - 1) * 16 + e)).fenced)
    else if idx = 0x6000 && subIn sub 0x10 6 then (d.region (sub - 0x10)).oscLoss
    else if idx = 0x6000 && subIn sub 0x20 12 then
      ((d.stack (sub - 0x20)).retention.map Prod.snd).foldl min 0xFFFF
    else if idx = 0x6000 && subIn sub 0x2C 12 then
      ((d.stack (sub - 0x2C)).refresh.map Prod.snd).foldl min 32
    else if idx = 0x6000 && subIn sub 0x38 4 then (d.port (sub - 0x38)).eye
    else if idx = 0x6001 && subIn sub 1 6 then (d.region (sub - 1)).guard
    else if idx = 0x6001 then (d.stack (sub - 0x11)).guard
    else if idx = 0x6003 && 0x10 ≤ sub then twos 32 (tgetD d.power.sensors sub 0)
    else if subIn idx 0x7100 32 && sub = 5 then (if tgetD d.deviceSlots idx false then 1 else 0)
    else if idx = 0x8003 then (if s.pinLevel (sub - 1) then 1 else 0)
    else if idx = 0x8004 then (if (d.pin (sub - 1)).changing.isSome then 1 else 0)
    else if idx = 0x9010 then d.rights (sub - 1)
    else d.confAt idx sub

/-- The number an object of a numeric type reads. -/
def State.number (s : State) (who : Requester) (idx sub : Nat) : Nat :=
  if inPartArea idx then s.partNumber who (partOfIndex idx) (idx % 256) sub
  else s.deviceNumber idx sub

/-- Bytes of an ASCII string. -/
def ascii (t : String) : Bytes := t.toList.map (fun c => BitVec.ofNat 8 c.toNat)

/-- The bytes an STR or BLOB object reads. -/
def State.textOf (s : State) (idx sub : Nat) : Bytes :=
  match idx, sub with
  | 0x1000, 1 => ascii "Aclum"
  | 0x1000, 2 => if Config.gradeE then ascii "ZB9-1152-E" else ascii "ZB9-1152-C"
  | 0x1000, 3 => fitTo 12 Config.serialNumber
  | 0x1101, 1 => (s.dev.store.report.flatMap (fun w => toLe 8 w)).take 65536
  | _, _ => if inPartArea idx && sub = 2 then (s.dev.part (partOfIndex idx)).name else []

/-- The value bytes of an object (R393). -/
def State.valueBytes (s : State) (who : Requester) (idx sub : Nat) (i : ObjInfo) : Bytes :=
  match i.ty with
  | .str => s.textOf idx sub
  | .blob => s.textOf idx sub
  | t => toLe t.width (s.number who idx sub)

/-- A target's value as a slot compares it (R408, R442): an EVENT counter by its VALUE field, a signed
target sign-extended to 64 bits. -/
def State.targetValue (s : State) (target : Nat) : Nat :=
  let idx := target % 65536
  let sub := target / 65536 % 256
  let who : Requester := .host ⟨partOfIndex idx, Nat.mod_lt _ (by decide)⟩
  match objInfo idx sub with
  | none => 0
  | some i =>
    let v := s.number who idx sub
    if i.kind = .event then v % 2 ^ 48
    else if i.ty = .i32 then (if bit v 31 then v + (2 ^ 64 - 2 ^ 32) else v)
    else v

/-- May a target be watched (R408)? -/
def watchable (target : Nat) : Bool :=
  match objInfo (target % 65536) (target / 65536 % 256) with
  | none => false
  | some i =>
    target / 2 ^ 24 == 0 && !(i.acc == .wo) && match i.ty with
      | .u8 => true
      | .u16 => true
      | .u32 => true
      | .u64 => true
      | .i32 => true
      | .i64 => true
      | _ => false

/-! ### Watermark slots (R408, R442, R443) -/

/-- A slot: its index, whose it is, and its values. -/
structure SlotView where
  index : Nat
  part : Option Nat
  target : Nat
  up : Nat
  down : Nat
  above : Bool
  deriving DecidableEq, Repr

/-- The enabled slots of a partition. -/
def Dev.partSlots (d : Dev) (p : Nat) : List SlotView :=
  let x := d.part p
  ((x.slotValues.filter (fun v => v.1 % 256 == 4 && v.2 == 1)).map (fun v => v.1 / 256)).map (fun low =>
    { index := partIndex p low, part := some p, target := tgetD x.slotValues (low * 256 + 1) 0,
      up := tgetD x.slotValues (low * 256 + 2) (2 ^ 64 - 1), down := tgetD x.slotValues (low * 256 + 3) 0,
      above := tgetD x.slotValues (low * 256 + 5) 0 == 1 })

/-- The enabled device slots. -/
def Dev.wideSlots (d : Dev) : List SlotView :=
  ((d.conf.filter (fun v => subIn (v.1 / 256) 0x7100 32 && v.1 % 256 == 4 && v.2 == 1)).map
    (fun v => v.1 / 256)).map (fun i =>
    { index := i, part := none, target := d.confAt i 1, up := d.confAt i 2, down := d.confAt i 3,
      above := tgetD d.deviceSlots i false })

/-- Every enabled slot. -/
def Dev.slots (d : Dev) : List SlotView :=
  (d.parts.flatMap (fun x => if x.2.created then d.partSlots x.1 else [])) ++ d.wideSlots

/-- A slot's state set. -/
def Dev.setSlot (d : Dev) (v : SlotView) (above : Bool) : Dev :=
  match v.part with
  | some p =>
    d.modPart p (fun x =>
      { x with slotValues := tset x.slotValues (v.index % 256 * 256 + 5) (if above then 1 else 0) })
  | none => { d with deviceSlots := tset d.deviceSlots v.index above }

/-- A pending copy's PEAK and STATE follow the slot (R443). -/
def peakNotice (slot value : Nat) (above : Bool) (n : Notice) : Notice :=
  match n.body with
  | .watermark s t up l pk du _ =>
    if s = slot then
      { n with body := .watermark s t up l (if up then max pk value else min pk value) du above }
    else n
  | _ => n

/-- Every pending copy of a slot follows a change of its target's value. -/
def Dev.trackPeak (d : Dev) (slot value : Nat) (above : Bool) : Dev :=
  { d with
    parts := d.parts.map (fun x => (x.1, { x.2 with pending := x.2.pending.map (peakNotice slot value above) }))
    mgmt := { d.mgmt with
      creds := d.mgmt.creds.map (fun c =>
        (c.1, { c.2 with pending := c.2.pending.map (peakNotice slot value above) })) } }

/-- One slot compared with its target's new value (R442). -/
def Dev.crossSlot (d : Dev) (v : SlotView) (value : Nat) : Dev :=
  let up := !v.above && decide (v.up ≤ value)
  let down := v.above && decide (value ≤ v.down)
  let above := if up then true else if down then false else v.above
  let d1 := if up || down then
      let rings := match v.part with
        | some p => [p]
        | none => []
      (d.setSlot v above).notify v.part rings (.watermark v.index v.target up value value 0 above)
    else d
  d1.trackPeak v.index value above

/-- The slots compared after a command: each enabled slot whose target's value changed (R442). -/
def State.watch (s0 s1 : State) : Dev :=
  s0.dev.slots.foldl (fun acc v =>
    let a := s0.targetValue v.target
    let b := s1.targetValue v.target
    if a = b then acc else acc.crossSlot v b) s1.dev

/-- The next state of a command: memory and safety changes in order, the raised causes taken, the
slots compared.
[notes/assumptions 2 DESIGN CHOICE, unsafe; 166 DESIGN CHOICE, unsafe] -/
def State.apply (s : State) (e : Eff) : State :=
  let sf := e.safety.foldl SafetyOp.run s.safety
  let sf' := sf.take e.dev.raised
  let s1 : State :=
    { s with dev := e.dev.settle sf sf', mem := e.mem.foldl MemOp.run s.mem, safety := sf' }
  { s1 with dev := s.watch s1 }

/-- The next state of a command that changes the device only. -/
def State.withDev (s : State) (d : Dev) : State := s.apply { dev := d }

/-- Completion of a command with an effect.
[notes/assumptions 2 DESIGN CHOICE, unsafe] -/
def State.done (s : State) (e : Eff) : Host.Outcome State Fault Refusal := .next (s.apply e)

end Sys2Proof.Machine
end

