-- ==== Sys2Proof/Machine/JobOps.lean ====
section
/-!
DEFINITION. What ends a tile, a round and a job: units stopped, pages, state objects and homes freed,
responses of the commands a round holds, and the final ROUND response (R20, R56, R96, R151, R166, R178,
R185, R355).
-/

namespace Sys2Proof.Machine

/-! ### Effects built step by step -/

/-- The device of an effect changed. -/
def Eff.mod (e : Eff) (f : Dev → Dev) : Eff := { e with dev := f e.dev }

/-- Memory changes appended to an effect. -/
def Eff.ops (e : Eff) (l : List MemOp) : Eff := { e with mem := e.mem ++ l }

/-- An effect that changes nothing yet. -/
def Dev.eff (d : Dev) : Eff := { dev := d }

/-- Bytes of a stack range. -/
def stackAddr (k la : Nat) : Nat := (Space.stack k).addr (la * 128)

/-- First line number of a stack. -/
def stackLine (k la : Nat) : Nat := (Space.stack k).firstLine + la

/-- A stack extent freed: zero data and PART 0 into every line, then the frame is free (R501). -/
def Eff.freeLines (e : Eff) (k la lines : Nat) : Eff :=
  (e.mod (fun d => d.giveStack k la)).ops
    [.clear (stackAddr k la) (lines * 128), .own (stackLine k la) lines false 0,
      .clearPoison (stackAddr k la) (lines * 128)]

/-- A stack extent taken for a partition: its PART into every side band, with zero data (R501). -/
def Eff.takeLines (e : Eff) (k align lines part : Nat) (phase : Nat := 0) : Option (Nat × Eff) :=
  match e.dev.takeStack k align lines part phase with
  | some (b, d) =>
    some (b, { e with
      dev := d
      mem := e.mem ++ [.clear (stackAddr k b) (lines * 128), .own (stackLine k b) lines false part] })
  | none => none

/-- A Stratus extent freed: an unmapped unit reads zeros (R501). -/
def Eff.freeUnits (e : Eff) (loc units : Nat) : Eff :=
  (e.mod (fun d =>
    let d1 := d.giveStratus loc
    { d1 with stratus := { d1.stratus with
        badUnits := d1.stratus.badUnits.filter (fun u => u < loc || loc + units ≤ u) } })).ops
    [.clear (Space.stratus.addr (loc * 4096)) (units * 4096), .cleanUnits ((List.range units).map (· + loc))]

/-! ### Pages (R143, R151, R167) and state objects (R176, R178) -/

/-- A page frame freed with what it holds (R166, R167). A page in transfer is freed at its end. -/
def Eff.freePage (e : Eff) (n : Nat) : Eff :=
  let f := e.dev.frame n
  match f.state with
  | .resident => (e.freeLines f.stack f.loc f.lines).mod (fun d => d.setFrame n {})
  | .spilled =>
    (e.freeUnits f.loc (ceilDiv (f.lines * 128) 4096)).mod (fun d => d.setFrame n {})
  | .spilling => e.mod (fun d => d.setFrame n { f with ref := 0 })
  | .lost => e.mod (fun d => d.setFrame n {})
  | .free => e

/-- One holder of a page less; the page is freed at 0 (R145, R148). -/
def Eff.dropPage (e : Eff) (n : Nat) : Eff :=
  let f := e.dev.frame n
  if f.ref ≤ 1 then e.freePage n else e.mod (fun d => d.setFrame n { f with ref := f.ref - 1 })

/-- A state object freed with what it holds (R178). -/
def Eff.freeObj (e : Eff) (n : Nat) : Eff :=
  let o := e.dev.obj n
  match o.loc with
  | .resident => (e.freeLines o.stack o.addr o.lines).mod (fun d => d.setObj n {})
  | .evicted =>
    (e.freeUnits o.addr (ceilDiv (o.lines * 128) 4096)).mod (fun d => d.setObj n {})
  | .evicting => e.mod (fun d => d.setObj n { o with ref := 0 })
  | .recalling => e.mod (fun d => d.setObj n { o with ref := 0 })
  | .lost => e.mod (fun d => d.setObj n {})
  | .none => e.mod (fun d => d.setObj n {})

/-- One holder of a state object less (R178). -/
def Eff.dropObj (e : Eff) (n : Nat) : Eff :=
  let o := e.dev.obj n
  if o.ref ≤ 1 then e.freeObj n else e.mod (fun d => d.setObj n { o with ref := o.ref - 1 })

/-- Every page a job holds in a layer, by its committed lists and those of its round. -/
def Job.layerPages (j : Job) (l : Nat) : List Nat :=
  let fs := j.futures ++ ((j.round.map (fun r => r.futures ++ r.forked)).getD [])
  (fs.flatMap (fun f => (f.kv.getD l {}).pages)).eraseDups

/-- A job's demand for pages or states moved from one stack to another.
[notes/assumptions 139 DEDUCED, unsafe] -/
def Job.moveDemand (j : Job) (old new n : Nat) : Job :=
  if old = new then j
  else { j with demand := tset (tset j.demand old (tgetD j.demand old 0 - n)) new (tgetD j.demand new 0 + n) }

/-- The home of a page changed in its entry and in the entry that a running round has staged for it (R154). -/
def Dev.moveFrame (d : Dev) (page : Nat) (f : PageFrame → PageFrame) : Dev :=
  let d1 := d.setFrame page (f (d.frame page))
  { d1 with jobs := d1.jobs.map (fun j => (j.1, { j.2 with round := j.2.round.map (fun r =>
      match tget r.pageFrames page with
      | some g => { r with pageFrames := tset r.pageFrames page (f g) }
      | none => r) })) }

/-- The state objects of a stream's directory (R175 DIR). -/
def Dev.directory (d : Dev) (s : StreamEntry) : List Nat :=
  match s.dir with
  | some n => tgetD d.dirs n []
  | none => []

/-- A directory block freed with its lines (R175). -/
def Eff.freeDir (e : Eff) (n : Nat) : Eff :=
  let e1 := match tget e.dev.dirHomes n with
    | some h => e.freeLines h.stack h.la h.lines
    | none => e
  e1.mod (fun d => { d with dirs := terase d.dirs n, dirHomes := terase d.dirHomes n })

/-- A directory block's content in its lines: the numbers of the state objects in ascending layer order (R175). -/
def Eff.writeDir (e : Eff) (n : Nat) (objs : List Nat) : Eff :=
  match tget e.dev.dirHomes n with
  | some h => e.ops [.write (stackAddr h.stack h.la) (padTo 128 (objs.flatMap (toLe 4)))]
  | none => e

/-- A recall of an entry's state given up: Stratus stays its home (R193). An eviction is never abandoned (R194).
[notes/assumptions 125 DEDUCED, unsafe] -/
def Eff.stopRecall (e : Eff) (n : Nat) : Eff :=
  e.dev.transfers.foldl (fun acc t =>
    match t with
    | .evict _ _ _ => acc
    | .recall m addrs =>
      if m != n then acc
      else
        let a := addrs.foldl (fun b x => b.freeLines x.2.1 x.2.2 (b.dev.obj x.1).lines) acc
        let objs := ((a.dev.stream? n).map a.dev.directory).getD []
        a.mod (fun d => { (objs.foldl (fun x o => x.setObj o { x.obj o with loc := .evicted }) d) with
          transfers := d.transfers.filter (fun y => decide (y ≠ t)) })
    | .spill _ _ => acc) e

/-- When a stream's entry was freed, noted with its counters (R384).
[notes/assumptions 126 DEDUCED, unsafe] -/
def Dev.noteFreed (d : Dev) (job id : Nat) : Dev :=
  d.modJob job (fun y => { y with streamCounters := y.streamCounters.map (fun c =>
    (c.1, if c.1 = id then { c.2 with freedAt := some d.now } else c.2)) })

/-- A stream-table entry freed, its state objects losing one holder each (R185). -/
def Eff.freeStream (e0 : Eff) (n : Nat) : Eff :=
  let e := e0.stopRecall n
  match e.dev.stream? n with
  | none => e
  | some s =>
    let e1 := (e.dev.directory s).foldl Eff.dropObj e
    let e2 := match s.dir with
      | some k => e1.freeDir k
      | none => e1
    e2.mod (fun d => ({ d with streams := terase d.streams n } : Dev).noteFreed s.job s.id)

/-- The stream entry of a future. -/
def Dev.futureEntry (d : Dev) (job id : Nat) : Option (Nat × StreamEntry) :=
  d.streams.find? (fun s => s.2.job == job && s.2.id == id && !s.2.host)

/-- The entry of a host stream. -/
def Dev.hostEntry (d : Dev) (job id : Nat) : Option (Nat × StreamEntry) :=
  d.streams.find? (fun s => s.2.job == job && s.2.id == id && s.2.host)

/-! ### Completions by tag -/

/-- A waiting command completed by its tag. -/
def Dev.completeTag (d : Dev) (p tag : Nat) (c : Code) (info : Nat := 0) (payload : Bytes := []) : Dev :=
  match d.wait? p tag with
  | some w => d.complete p w.pkt c info payload
  | none =>
    match d.packet? p tag with
    | some k => d.complete p k c info payload
    | none => d

/-- Every chunk of a list of the partition's chunk queue ended with a code (R184, R185, R187). -/
def Dev.endChunks (d : Dev) (p : Nat) (which : Chunk → Bool) (c : Code) : Dev :=
  let gone := (d.part p).chunks.filter which
  let d1 := d.modPart p (fun x => { x with chunks := x.chunks.filter (fun k => !which k) })
  gone.foldl (fun acc k => acc.completeTag p k.tag c) d1

/-! ### Units stopped (R96, R137, R377, R380) -/

/-- Cycles of a clock in MHz that have passed since an instant.
[notes/assumptions 145 DEDUCED, unsafe] -/
def cyclesSince (now start mhz : Nat) : Nat := (now - start) * mhz / 1000

/-- A share counter of a partition charged: 0 cells, 1 engines, 2 sorters (R377).
[notes/assumptions 86 DEDUCED, unsafe] -/
def Dev.charge (d : Dev) (j : Job) (kind n : Nat) : Dev :=
  (d.modPart j.part (fun x => { x with shareUse := modifyNth x.shareUse kind (· + n) })).modJob j.id
    (fun y => { y with shareUse := modifyNth y.shareUse kind (· + n) })

/-- A credit of share use, never below 0 (R377). -/
def Dev.credit (d : Dev) (j : Job) (kind n : Nat) : Dev :=
  (d.modPart j.part (fun x => { x with shareUse := modifyNth x.shareUse kind (· - n) })).modJob j.id
    (fun y => { y with shareUse := modifyNth y.shareUse kind (· - n) })

/-- Cell busy time of a job's tile (R380): job, partition and device counters; a duplicate's cycles go
to the duplicate count. -/
def Dev.cellBusy (d : Dev) (j : Job) (role : Role) (n : Nat) : Dev :=
  if role = .original then
    ((d.account j.part (if j.batch.guaranteed then 4 else 5) n).count 0x7000 1 n).modJob j.id
      (fun y => { y with counters := { y.counters with cellBusy := accumAdd y.counters.cellBusy n } })
  else
    (d.account j.part 9 n).modJob j.id
      (fun y => { y with counters := { y.counters with dupC := accumAdd y.counters.dupC n } })

/-- Engine busy time of a job's slice (R380). -/
def Dev.engineBusy (d : Dev) (j : Job) (role : Role) (n : Nat) : Dev :=
  if role = .original then
    ((d.account j.part 6 n).count 0x7000 2 n).modJob j.id
      (fun y => { y with counters := { y.counters with cirrusBusy := accumAdd y.counters.cirrusBusy n } })
  else
    (d.account j.part 0xA n).modJob j.id
      (fun y => { y with counters := { y.counters with dupM := accumAdd y.counters.dupM n } })

/-- Lost cycles of a best-effort job (R59, R380). -/
def Dev.lostCycles (d : Dev) (j : Job) (n : Nat) : Dev :=
  (d.account j.part 0xB n).modJob j.id
    (fun y => { y with counters := { y.counters with lost := accumAdd y.counters.lost n } })

/-- Stall time of a job counted under one cause: in its counters, those of the streams named, and its round's (R16,
R380). -/
def Job.addStall (y : Job) (s : Stall) (streams : List Nat) (ns : Nat) : Job :=
  { y with
    counters := { y.counters with stalls := modifyNth y.counters.stalls s.index (fun c => accumAdd c ns) }
    streamCounters := streams.foldl (fun acc i => tmodify acc i {} (fun c =>
      { c with stalls := modifyNth c.stalls s.index (fun v => accumAdd v ns) })) y.streamCounters
    round := y.round.map (fun r => { r with stalls := modifyNth r.stalls s.index (· + ns) }) }

/-- The waits of a job's round counted up to an instant, each ns once under the wait raised first (R16, R380). -/
def Job.sweep (y : Job) (now : Tns) : Job :=
  match y.round with
  | none => y
  | some r =>
    match r.waiting with
    | [] => y
    | w :: _ =>
      let z := y.addStall w.1 w.2.2 (now - max r.mark w.2.1)
      { z with round := z.round.map (fun x => { x with mark := max x.mark now }) }

/-- A wait of a job of some length that ends now: of a round, the part that no wait raised before it has counted (R16,
R380). -/
def Job.stall (y : Job) (s : Stall) (now : Tns) (ns : Nat) : Job :=
  match y.round with
  | none => y.addStall s [] ns
  | some r =>
    if r.waiting.any (fun w => decide (w.2.1 < now - ns)) then y.sweep now
    else
      let z := y.addStall s [] (now - max r.mark (now - ns))
      { z with round := z.round.map (fun x => { x with mark := max x.mark now }) }

/-- The waits of a round that last from now on: those that go on keep their place, new ones follow (R16). -/
def Job.setWaits (y : Job) (now : Tns) (l : List (Stall × List Nat)) : Job :=
  let z := y.sweep now
  { z with round := z.round.map (fun r =>
      let kept := r.waiting.filterMap (fun w => (l.find? (fun x => decide (x.1 = w.1))).map (fun x => (w.1, w.2.1, x.2)))
      let new := l.filter (fun x => !(r.waiting.any (fun w => decide (w.1 = x.1))))
      { r with waiting := kept ++ new.map (fun x => (x.1, now, x.2)) }) }

/-- A stall of a job that ends now, counted under one cause (R16, R380).
[notes/assumptions 145 DEDUCED, unsafe] -/
def Dev.stall (d : Dev) (job : Nat) (s : Stall) (ns : Nat) : Dev := d.modJob job (fun y => y.stall s d.now ns)

/-- The ns that thousandths of a cycle take from an instant, under the clocks that have ended, oldest first, and then the present
one (R12). -/
def nsFrom (mhz : Nat) : List (Tns × Nat) → Tns → Nat → Nat
  | [], _, m => ceilDiv m mhz
  | (e, f) :: l, t, m =>
    if e ≤ t then nsFrom mhz l t m
    else if m ≤ (e - t) * f then ceilDiv m f
    else (e - t) + nsFrom mhz l e (m - (e - t) * f)

/-- The ns that cycles of the compute clock take from an instant on, whatever clocks were in force meanwhile (R12). -/
def Dev.cyclesNs (d : Dev) (start : Tns) (cycles : Nat) : Nat :=
  nsFrom d.ageing.clock d.ageing.clocks.reverse start (cycles * 1000)

/-- Cycles an item has run on its unit, whose clock in MHz may have changed meanwhile (R12, R98); none while it waits for a
transaction entry (R285). -/
def Held.ran (h : Held) (now : Tns) (mhz : Nat) : Nat :=
  if h.wants.isEmpty then min h.cost ((h.milli + (now - h.since) * mhz) / 1000) else 0

/-- The instant at which an item that is never stopped ends at a clock (R12, R98). -/
def Held.endAt (h : Held) (mhz : Nat) : Tns := h.since + ceilDiv (h.cost * 1000 - h.milli) mhz

/-- One cell stopped: its accumulator and both stationary sets become invalid, the tile's data in its store is discarded and
its checksum register cleared; its partial tile is charged for what it ran, and a best-effort claim is credited
the rest (R96, R377, R380). -/
def Dev.stopCell (d : Dev) (n : Nat) : Dev :=
  match (d.cell n).held with
  | none => d
  | some h =>
    let ran := h.ran d.now d.ageing.clock
    let d1 := d.modCell n (fun c => { c with held := none, ahead := none, parts := {} })
    match d1.job? h.job with
    | none => d1
    | some j =>
      let d2 := d1.cellBusy j h.role ran
      if h.charged then d2.credit j 0 (h.cost - ran) else d2

/-- One engine stopped: its accumulators and working area become invalid and its checksum register is cleared (R137, R377,
R380). -/
def Dev.stopEngine (d : Dev) (n : Nat) : Dev :=
  match (d.engine n).held with
  | none => d
  | some h =>
    let ran := h.ran d.now 1000
    let d1 := d.modEngine n (fun c => { c with held := none, parts := {} })
    match d1.job? h.job with
    | none => d1
    | some j =>
      let d2 := d1.engineBusy j h.role ran
      if h.charged then d2.credit j 1 (h.cost - ran) else d2

/-- Every unit that works for a job stopped, with its windows and combined writes (R96, R137, R223). -/
def Dev.stopJob (d : Dev) (job : Nat) : Dev :=
  let cs := (d.cells.filter (fun c => c.2.held.any (fun h => h.job == job))).map Prod.fst
  let es := (d.engines.filter (fun c => c.2.held.any (fun h => h.job == job))).map Prod.fst
  let d1 := cs.foldl Dev.stopCell d
  let d2 := es.foldl Dev.stopEngine d1
  { d2 with
    regions := d2.regions.map (fun r =>
      (r.1, { r.2 with
        sorter := if r.2.sorter.job.any (fun x => x.1 == job) then { r.2.sorter with job := none }
          else r.2.sorter
        wcb := r.2.wcb.filter (fun w => !w.jobs.contains job)
        cached := (r.2.dropAct (· == job)).cached
        levelTwo := (r.2.dropAct (· == job)).levelTwo }))
    stackTab := d2.stackTab.map (fun k =>
      (k.1, if k.2.window = some job then { k.2 with window := none } else k.2)) }

/-! ### Rounds ended without commit (R25, R29, R151, R277, R355) -/

/-- Payload of a ROUND response: the 32 B record and the status entries (R355).
[notes/assumptions 24 DEDUCED, unsafe] -/
def roundPayload (number : Nat) (status : List (PartId × Code)) : Bytes :=
  padTo 32 (toLe 8 number ++ toLe 4 status.length ++ toLe 20 0 ++
    status.flatMap (fun s =>
      toLe 4 s.1.id ++ toLe 4 ((if s.1.host then 1 else 0) + s.2.toNat * 256)))

/-- A ROUND response of a job (R355). -/
def Dev.roundResponse (d : Dev) (j : Job) (c : Code) (info : Nat) (jobEnd : Bool) (number : Nat)
    (status : List (PartId × Code)) : Dev :=
  let r : Response :=
    { code := c.toNat, opcode := 0x80, jobEnd := jobEnd, part := j.part, seq := j.submitSeq,
      tag := j.submitTag, info := info, tick := d.tick.tick, payload := roundPayload number status }
  (splitResponse r).foldl (fun acc x => acc.emit j.part x) d

/-- Code a command of a round gets: the round's, or its part's under PARTIAL_OK (R356, R184). -/
def cmdCode (c : Code) (status : List (PartId × Code)) (k : RoundCmd) : Code :=
  match k.who with
  | none => c
  | some w =>
    match status.find? (fun s => decide (s.1 = w)) with
    | some s => s.2
    | none => if c = .okPartial then .ok else c

/-- The commands a round holds completed (R356, R359, R184).
[notes/assumptions 120 DEDUCED, unsafe] -/
def Dev.endCommands (d : Dev) (j : Job) (r : Round) (c : Code) (status : List (PartId × Code)) : Dev :=
  let d1 := r.cmds.foldl (fun acc k => acc.completeTag j.part k.tag (cmdCode c status k) k.slipped) d
  r.forks.foldl (fun acc k => acc.completeTag j.part k.tag c) d1

/-- The chunks with a token in a round that failed end with its code; their tokens are consumed (R184).
[notes/assumptions 120 DEDUCED, unsafe] -/
def Dev.endRoundChunks (d : Dev) (p : Nat) (r : Round) (c : Code) (status : List (PartId × Code)) : Dev :=
  r.chunks.foldl (fun acc k =>
    let code := cmdCode c status { tag := k.tag, seq := k.seq, opcode := 0x22, posted := k.posted, who := some ⟨true, k.stream⟩ }
    let had := (acc.part p).chunks.any (fun x => x.tag == k.tag)
    let d1 := if had then acc.endChunks p (fun x => x.tag == k.tag) code else acc.completeTag p k.tag code k.slipped
    if !had then d1
    else { d1 with streams := d1.streams.map (fun s =>
      if s.2.host && s.2.job == k.job && s.2.id == k.stream then (s.1, { s.2 with qLen := s.2.qLen - 1 }) else s) }) d

/-- What a round allocated, freed: pages, state objects, and directory blocks that no stream of the table names (R151,
R175, R178). -/
def Eff.discard (e : Eff) (r : Round) : Eff :=
  let e1 := r.newObjs.foldl Eff.freeObj (r.newPages.foldl Eff.freePage e)
  let named (n : Nat) : Bool := e.dev.streams.any (fun s => decide (s.2.dir = some n))
  ((r.dirs.map Prod.fst).filter (fun n => !named n)).foldl Eff.freeDir e1

/-- A round that ends with a failure code: units stopped, staging discarded, every future as before,
its commands and its ROUND response answered (R25, R29, R277, R355).
[notes/assumptions 85 DEDUCED, unsafe] -/
def Eff.failRound (e : Eff) (job : Nat) (c : Code) (mask : Nat) (status : List (PartId × Code)) : Eff :=
  match e.dev.job? job with
  | none => e
  | some j =>
    match j.round with
    | none => e
    | some r =>
      let e1 := (e.mod (fun d => (d.modJob job (fun y => y.sweep d.now)).stopJob job)).discard r
      let d1 := e1.dev.modJob job (fun y =>
        { y with round := none, counters := { y.counters with failed := eventAdd y.counters.failed 1 } })
      let d2 := (d1.endCommands j r c status).endRoundChunks j.part r c status
      { e1 with dev := d2.roundResponse j c (mask * 65536) false r.number status }

/-! ### The end of a job (R20, R56, R166, R185) -/

/-- Homes of a job freed: tensors, stream buffer, recall buffers (R228, R261, R155). -/
def Eff.freeHomes (e : Eff) (j : Job) : Eff :=
  let one (acc : Eff) (h : Option TensorHome) : Eff :=
    match h with
    | none => acc
    | some t =>
      if t.lost then acc
      else match t.space with
      | .stack k => acc.freeLines k (t.base / 128) (ceilDiv (t.bytes) 128)
      | .cache r =>
        (acc.mod (fun d =>
          { d with cacheAlloc := tset d.cacheAlloc r (freeExtent (d.cacheUse r) (t.base / 128)) })).ops
          [.clear (t.space.addr t.base) (t.bytes)]
      | .stratus => acc
  let e1 := j.homes.foldl one e
  let e2 := match j.streamBuf with
    | some (k, la) => e1.freeLines k la (256 * 8192)
    | none => e1
  j.kvHomes.foldl (fun acc h =>
    if h.spilled && !h.lost then acc.freeLines (h.homeStacks.headD 0) h.recallBase (64 * 8192) else acc) e2

/-- Pages and states of a job's futures freed (R166). -/
def Eff.freeFutures (e : Eff) (j : Job) : Eff :=
  let e1 := j.futures.foldl (fun acc f =>
    f.kv.foldl (fun a l => l.pages.foldl Eff.dropPage a) acc) e
  let mine := (e1.dev.streams.filter (fun s => s.2.job == j.id && !s.2.host)).map Prod.fst
  mine.foldl Eff.freeStream e1

/-- Every host stream of a job ended as STREAM_END with IMMEDIATE ends one: its entry is freed at the next boundary; a save
of it that has been aborted holds it no longer (R185). -/
def Dev.endHosts (d : Dev) (job : Nat) (aborted : Bool) : Dev :=
  { d with streams := d.streams.map (fun s =>
      (s.1, if s.2.host && s.2.job == job then
          { s.2 with ended := true, qLen := 0, savePend := s.2.savePend && !aborted, detach := s.2.detach && !aborted }
        else s.2)) }

/-- A job ends with a code (R20): its round, if undecided, ends with `roundCode`; its waiting frames,
forks and chunks end, its accepted FORKs ABORTED whatever the code (R31), and, for an abort, its packets and waits; pages, state and homes are freed; the last
ROUND response carries JOB_END when the job had been submitted.
[notes/assumptions 119 DEDUCED, unsafe] -/
def Eff.endJob (e : Eff) (job : Nat) (c roundCode : Code) : Eff :=
  match e.dev.job? job with
  | none => e
  | some j0 =>
    if j0.state = .ended then e
    else
      let e1 := e.failRound job roundCode 0 []
      match e1.dev.job? job with
      | none => e1
      | some j =>
        let p := j.part
        let waitCode : Code := if c = .aborted then .aborted else .rejectedFormat
        let d1 := j.backlog.foldl (fun acc f => acc.completeTag p f.tag waitCode) e1.dev
        let d1 := match j.pendingProg with
          | some x => d1.completeTag p x.2 waitCode
          | none => d1
        let d2 := j.forksIn.foldl (fun acc f => acc.completeTag p f.tag .aborted) d1
        let d3 := d2.endChunks p (fun k => k.job == job) .aborted
        let tags := if c = .aborted then
            (((d3.part p).inbox.filter (fun k => k.job == job && !k.started)).map Packet.tag) ++
              (((d3.part p).waits.filter (fun w => w.pkt.job == job && w.pkt.opcode != 0x30)).map
                (fun w => w.pkt.tag))
          else (((d3.part p).inbox.filter (fun k => k.job == job && k.opcode == 0x20 && !k.started)).map Packet.tag) ++
            (((d3.part p).waits.filter (fun w =>
              w.pkt.job == job && (decide (w.what = .round)))).map (fun w => w.pkt.tag))
        let d4 := tags.foldl (fun acc t => acc.completeTag p t .aborted) d3
        let e2 := ((({ e1 with dev := d4 } : Eff).freeFutures j).freeHomes j).mod
          (fun d => (d.endHosts job (decide (c = .aborted))).stopJob job)
        let e3 := e2.mod (fun d => d.modJob job (fun y =>
          { y with
            state := .ended, endCode := c, endedAt := d.now, round := none, futures := [], backlog := [],
            forksIn := [], homes := [], kvHomes := [], recHomes := [], streamBuf := none, grant := {},
            entries := 0, stateBytes := 0, spillBytes := 0, pendingProg := none }))
        if j.state = .admitted then e3.mod (fun d => d.roundResponse j c 0 true (j.nextRound - 1) [])
        else e3

/-- ABORT_JOB, END_JOB and a function-level reset end a job this way; a decided round commits first (R56, R371). -/
def Eff.abortJob (e : Eff) (job : Nat) : Eff :=
  if ((e.dev.job? job).bind Job.round).any Round.decided then
    e.mod (fun d => d.modJob job (fun y => { y with endAfter := some .aborted }))
  else e.endJob job .aborted .aborted

/-! ### Stop actions on a partition (R370 to R372) -/

/-- QUIESCE: the partition's rounds stop and end ABORTED; nothing new starts until RELEASE (R370).
[notes/assumptions 44 DEDUCED, unsafe] -/
def Eff.quiesce (e : Eff) (p : Nat) : Eff :=
  let js := (e.dev.jobsOf p).filter (fun j => j.round.any (fun r => !r.decided))
  let e1 := js.foldl (fun acc j => acc.failRound j.id .aborted 0 []) e
  e1.mod (fun d => d.modPart p (fun x => { x with quiesced := true }))

/-- Distance from one free-running pointer to another (R338). -/
def ahead (a b : Nat) : Nat := (a + 2 ^ 32 - b % 2 ^ 32) % 2 ^ 32

/-- The ring a fetch reads. -/
def Part.cmdRing (x : Part) (urgent : Bool) : Ring := if urgent then x.urgent else x.normal

/-- The tail doorbell of a command ring. -/
def Part.cmdDoorbell (x : Part) (urgent : Bool) : Nat := if urgent then x.urgTail else x.cmdTail

/-- Both HEADs written back once that of a ring has advanced by 64 KiB or its ring has become empty (R338). -/
def Part.writeHead (x : Part) (urgent : Bool) : Part :=
  let r := x.cmdRing urgent
  if x.headWb != 0 && (decide (1024 ≤ ahead r.head (x.headsWritten.getD (if urgent then 1 else 0) 0)) ||
      r.head == x.cmdDoorbell urgent)
  then { x with headsWritten := [x.normal.head, x.urgent.head] } else x

/-- Does a round of its job, running or decided, step a chunk? -/
def Dev.inRound (d : Dev) (k : Chunk) : Bool :=
  ((d.job? k.job).bind Job.round).any (fun r => r.chunks.any (fun c => c.tag == k.tag && c.used != 0))

/-- QLEN of an entry set to the chunks its queue holds. -/
def Dev.countQueue (d : Dev) (n : Nat) : Dev :=
  match d.stream? n with
  | none => d
  | some s => d.setStream n { s with
      qLen := ((d.part s.part).chunks.filter (fun c => c.job == s.job && c.stream == s.id)).length }

/-- Both command rings of a partition skipped to the host's tails, a ring that held packets having become empty; the next
packet is taken with any SEQ (R338, R372). -/
def Part.skipRings (x : Part) : Part :=
  let held (urgent : Bool) : Bool := (x.cmdRing urgent).head != x.cmdDoorbell urgent
  let y : Part := { x with
    normal := { x.normal with head := x.cmdTail }
    urgent := { x.urgent with head := x.urgTail }
    expectSeq := [none, none] }
  if held false then y.writeHead false else if held true then y.writeHead true else y

/-- DROP_QUEUE: unstarted inbox commands and queued chunks end ABORTED, each command ring skips to the
host's tail, and the next packet is taken with any SEQ (R372). A chunk of which a round has taken a token goes on
(R184, R373). -/
def Dev.dropQueue (d : Dev) (p : Nat) : Dev :=
  let tags := ((d.part p).inbox.filter (fun k => !k.started)).map Packet.tag
  let d1 := tags.foldl (fun acc t => acc.completeTag p t .aborted) d
  let d2 := d1.endChunks p (fun k => !d.inRound k) .aborted
  let d3 := ((d2.streams.filter (fun s => s.2.part == p && s.2.host)).map Prod.fst).foldl Dev.countQueue d2
  d3.modPart p Part.skipRings

/-- BAR0 of a function at its reset values, every ring disabled (R335, R336). -/
def Part.resetBar (x : Part) : Part :=
  { x with
    quiesced := false, releasePending := false, holdoff := 0, headWb := 0, normal := {}, urgent := {},
    rsp := {}, ntc := {}, cmdTail := 0, urgTail := 0, rspHead := 0, ntcHead := 0, headsWritten := [0, 0],
    msix := [], msixPending := [], vectors := [0, 0, 0, 0], lastVector0 := none, heldVector0 := false,
    expectSeq := [none, none], flareLast := 0, flareTaken := 0, flareIgnored := 0, flareOverflow := false,
    flareBuffer := [], overflowMark := false, overflowWrites := 0, rspWritten := [],
    ntcEntries := [], ntcSeq := 0, ntcPhase := true }

/-- The outbox emptied without writing: the commands it answered are over (R508, R526). -/
def Part.discardOutbox (x : Part) : Part :=
  { x with outbox := [], flights := x.flights.filter (fun f => !f.completed) }

/-- Everything a partition has under way ends ABORTED (R526): rounds, jobs, waiting and started commands. -/
def Eff.endAll (e : Eff) (p : Nat) : Eff :=
  let e1 := e.quiesce p
  let e2 := (e1.dev.jobsOf p).foldl (fun acc j => acc.abortJob j.id) e1
  e2.mod (fun d =>
    let d1 := d.dropQueue p
    ((d1.part p).waits.map (fun w => w.pkt.tag)).foldl (fun acc t => acc.completeTag p t .aborted) d1)

/-- A function-level reset: QUIESCE, ABORT_JOB of every job and DROP_QUEUE together, then the rings
and BAR0 at reset; QUIESCE is released when it completes (R335). A TDI in another state than
CONFIG_UNLOCKED returns there, losing its keys and the responses held in ERROR (R508).
[notes/assumptions 47 DEDUCED, unsafe] -/
def Eff.functionReset (e : Eff) (p : Nat) : Eff :=
  let inError := decide ((e.dev.part p).tdi = .error)
  let e1 := e.quiesce p
  let e2 := (e1.dev.jobsOf p).foldl (fun acc j => acc.abortJob j.id) e1
  let e3 := e2.mod (fun d => d.dropQueue p)
  e3.mod (fun d => d.modPart p (fun x =>
    let y := if inError then x.resetBar.discardOutbox else x.resetBar
    { y with tdi := .unlocked, lockNonce := none, ide := {} }))

end Sys2Proof.Machine
end

