-- ==== Sys2Proof/Machine/LineErrors.lean ====
section
/-!
DEFINITION. What the check of a stack line does (R289 to R291, R294, R469): errors corrected and counted against their
lane, lines poisoned, read-only lines put up for repair, and failed lines of the Z9's own tables.
-/

namespace Sys2Proof.Machine

/-! ### Lanes (R294) -/

/-- A lane declared failed: the channel starts retraining; accesses to it wait, and rounds that run count the wait under
LANE_RETRAIN.
[notes/assumptions 155 DEDUCED, unsafe] -/
def Dev.laneFails (d : Dev) (k c lane : Nat) : Dev :=
  let x := d.stack k
  if x.outOfService || x.fenced.contains c || (tget x.retraining c).isSome then d
  else d.modStack k (fun y => { y with
    retraining := tset y.retraining c d.now
    failedLanes := tset y.failedLanes c (lane :: ((tgetD y.failedLanes c []).filter (· != lane))) })

/-- Corrected symbols of one lane within 1 ms that declare it failed. -/
def laneLimit : Nat := 16

/-- One corrected symbol counted: in the stack's counter, and against its lane, which the sixteenth within 1 ms fails. -/
def Dev.laneHit (d : Dev) (k c lane : Nat) : Dev :=
  let key := c * 128 + lane
  let hits := d.now :: (tgetD (d.stack k).laneHits key []).filter (fun t => decide (d.now < t + 1000000))
  let full := decide (laneLimit ≤ hits.length)
  let d1 := (d.count 0x7010 (k + 1) 1).modStack k (fun y => { y with laneHits := tset y.laneHits key (if full then [] else hits) })
  if full then d1.laneFails k c lane else d1

/-! ### The Z9's own tables (R469) -/

/-- A table line: what it holds entries of. -/
inductive TableLine where
  | frames (first : Nat)
  | lists (job : Nat)
  | streams (first : Nat)
  | objects (first : Nat)
  | staging (job : Nat)
  deriving DecidableEq, Repr

/-- What a line holds that nothing is placed in: page-frame entries, page lists, stream-table entries, state-object
descriptors, staging records, or no table entry. The manual places the tables in no particular lines.
[notes/assumptions 188 DESIGN CHOICE, safe] -/
def Dev.tableLine (d : Dev) (k la : Nat) : Option TableLine :=
  if (d.stackUse k).any (fun e => decide (e.base ≤ la) && decide (la < e.base + e.size)) then none
  else match Config.tableLine k la with
    | some (0, n) => some (.frames (n * 8))
    | some (1, n) => some (.lists n)
    | some (2, n) => some (.streams (n * 2))
    | some (3, n) => some (.objects (n * 8))
    | some (_, n) => some (.staging n)
    | none => none

/-- Does a job's future, committed or staged, hold a page? -/
def Job.holdsPage (j : Job) (n : Nat) : Bool := (List.range j.prog.att.length).any (fun l => (j.layerPages l).contains n)

/-- The live jobs that have an entry in a table line: 8 page-frame entries or descriptors of 16 B lie in a line, or 2 stream
entries of 64 B (R143, R175, R176). -/
def Dev.tableJobs (d : Dev) (t : TableLine) : List Nat :=
  ((d.liveJobs.filter (fun j =>
    match t with
    | .frames a => (List.range 8).any (fun i => j.holdsPage (a + i))
    | .lists n => j.id == n
    | .streams a => (d.streams.any (fun s => s.2.job == j.id && (s.1 == a || s.1 == a + 1)))
    | .objects a => d.streams.any (fun s => s.2.job == j.id &&
        (d.directory s.2).any (fun o => decide (a ≤ o) && decide (o < a + 8)))
    | .staging n => j.id == n && j.round.isSome)).map Job.id)

/-- A job whose table line failed ends INTERNAL with JOB_END; a decided round commits first (R20, R56). -/
def Eff.endInternal (e : Eff) (job : Nat) : Eff :=
  if ((e.dev.job? job).bind Job.round).any Round.decided then
    e.mod (fun d => d.modJob job (fun y => { y with endAfter := some .internal }))
  else e.endJob job .internal .internal

/-- A table line has failed (R469): cause [1], and every job with an entry in it ends INTERNAL. -/
def Eff.tableFails (e : Eff) (k : Nat) (t : TableLine) : Eff :=
  let js := e.dev.tableJobs t
  let e1 := js.foldl Eff.endInternal e
  e1.mod (fun d => ({ d with support := { d.support with
    awaitJobs := d.support.awaitJobs ++ js.filter (fun j => !d.support.awaitJobs.contains j) } } : Dev).raise 1 (regionUnit (k / 2)))

/-! ### The check of a line (R289) -/

/-- Does a line error end its reader? One symbol in error is corrected, and the check goes no further. -/
def badLine (x : LineError) : Bool := decide (2 ≤ x.symbols) || (x.symbols == 0 && x.tagFails)

/-- An error in the array of a region cache, which its SECDED corrects or finds (R298, R313): a clean cached line is dropped and
will be read again; a dirty ACT line or a pinned line is poisoned. -/
def Dev.arrayError (d : Dev) (x : LineError) : Eff :=
  let line := stackLine x.stack x.la
  let r := x.stack.val / 2
  if x.symbols < 2 then d.eff
  else match d.cachedCopy line with
    | some c =>
      (d.modRegion r (fun y => { y with cached := y.cached.map (fun s => (s.1,
        if c.dirty then s.2.map (fun z => if z.line = line then { z with poison := true } else z)
        else s.2.filter (fun z => z.line != line))) })).eff
    | none =>
      if (d.region r).levelTwo.any (fun l => l.2.contains line) then
        (d.modRegion r (fun y => { y with levelTwo := y.levelTwo.map (fun l => (l.1, l.2.filter (· != line))) })).eff
      else if x.la < cacheLines then d.eff.ops [.poison ((Space.cache r).firstLine + x.la)] else d.eff

/-- One line error that a read met: a symbol corrected and counted; else the line poisoned, or put up for repair if it is
read-only; a failed line of a table ends the jobs with entries there.
[notes/assumptions 11 DESIGN CHOICE, safe] -/
def Dev.lineError (d : Dev) (m : Mem) (x : LineError) : Eff :=
  let line := stackLine x.stack x.la
  if x.array then d.arrayError x
  else if x.symbols = 1 then (d.laneHit x.stack (laChannel x.la) x.lane).eff
  else
    let table : Eff → Eff := fun e => match d.tableLine x.stack x.la with
      | some t => e.tableFails x.stack t
      | none => e
    if !badLine x then (if m.poisoned.contains line then table d.eff else d.eff)
    else if (m.sideOf line).ro then
      ({ d with repairs := if d.repairs.contains (x.stack.val, x.la) then d.repairs
          else d.repairs ++ [(x.stack.val, x.la)] } : Dev).eff.ops [.poison line]
    else table (d.eff.ops [.poison line])

/-- Line errors that a unit outside a tile or an engine operation met, before what it does with the lines: a merge, a FETCH,
a copy or append, a sorter, or Stratus receiving a line (R287). What reads the line after that meets its poison. -/
def State.meet (s : State) (l : List LineError) : State :=
  l.foldl (fun acc x => acc.apply (acc.dev.lineError acc.mem x)) s

end Sys2Proof.Machine
end

