-- ==== Sys2Proof/Machine/Lop.lean ====
section
/-!
DEFINITION. The Lanifa Object Protocol's messages (R426, R427) and the copies of command and response
headers an inspection asked for (R504, R505).
-/

namespace Sys2Proof.Machine

/-- A reply (R426): TYPE with bit 7 set, STATUS, REQ_ID, LEN and the payload. -/
def lopReply (type reqId : Nat) (more : Bool) (status : Nat) (payload : Bytes) : Bytes :=
  toLe 16 (1 + (type + 128) * 2 ^ 8 + (if more then 2 ^ 16 else 0) + status * 2 ^ 24 + reqId * 2 ^ 32 +
    payload.length * 2 ^ 64) ++ payload

/-- A message the device sends on its own (NOTICE). -/
def lopMessage (type reqId : Nat) (payload : Bytes) : Bytes :=
  toLe 16 (1 + type * 2 ^ 8 + reqId * 2 ^ 32 + payload.length * 2 ^ 64) ++ payload

/-- The fields of a request's header (R426). -/
structure LopHeader where
  version : Nat
  type : Nat
  reserved : Bool
  reqId : Nat
  len : Nat
  deriving DecidableEq, Repr

/-- The header of a message. -/
def LopHeader.of (m : Bytes) : LopHeader :=
  let w := leAt m 0 16
  { version := field w 3 0, type := field w 15 8,
    reserved := field w 7 4 != 0 || field w 31 16 != 0 || field w 127 80 != 0,
    reqId := field w 63 32, len := field w 79 64 }

/-- A message sent to a session. -/
def Dev.sendTo (d : Dev) (session : Nat) (m : Bytes) : Dev :=
  { d with mgmt := { d.mgmt with sentMessages := d.mgmt.sentMessages ++ [(session, m)] } }

/-- A header copied to every session that inspects the partition's headers and whose duration has not
ended (R505). -/
def Dev.copyHeader (d : Dev) (p : Nat) (header : Bytes) : Dev :=
  d.mgmt.sessions.foldl (fun acc s =>
    match s.2.headersUntil with
    | some (q, t, req) =>
      if q = p && decide (d.now ≤ t) then acc.sendTo s.1 (lopReply 7 req true 0 header) else acc
    | none => acc) d

/-- The inspections of headers whose duration has ended get their last reply (R504, R505). -/
def Dev.endHeaders (d : Dev) : Dev :=
  d.mgmt.sessions.foldl (fun acc s =>
    match s.2.headersUntil with
    | some (_, t, req) =>
      if t < d.now then
        let a := acc.sendTo s.1 (lopReply 7 req false 0 [])
        { a with mgmt := { a.mgmt with
            sessions := tset a.mgmt.sessions s.1 { s.2 with headersUntil := none } } }
      else acc
    | none => acc) d

end Sys2Proof.Machine
end

