-- ==== Sys2Proof/Machine/Time.lean ====
section
/-!
DEFINITION. Alignment of the ticks (R43 to R47, R431 to R433, R548): the selected source, its edges and
messages, holdover, the phase error and the next boundary.
-/

namespace Sys2Proof.Machine

/-- The selected source, 0x2000.02: 0 FREE, 1 PTP, 2 PPS, 3 TICK_IN (R43). A selection acts at once (R68). -/
def Dev.source (d : Dev) : Nat := d.confAt 0x2000 2

/-- The selected timing input pin, 0x2000.06: 0 PPS_IN, n + 1 SKYn (R43). -/
def Dev.timingPin (d : Dev) : Nat := d.confAt 0x2000 6

/-- Does the selected input feed the selected source (R548)? PTP and FREE need no input. -/
def Dev.feeds (d : Dev) : Bool :=
  let sky (f : Nat) : Bool :=
    d.timingPin != 0 && (d.pin (d.timingPin - 1)).function == f && (d.pin (d.timingPin - 1)).changing.isNone
  match d.source with
  | 2 => d.timingPin == 0 || sky 3
  | 3 => sky 1
  | _ => true

/-- Does the selected input feed the selected source as a start finds it, a sky pin that is still taking its function having it
already (R45, R548, R550)? -/
def Dev.feedsAtStart (d : Dev) : Bool :=
  let taking (f : Nat) : Bool := d.timingPin != 0 && (d.pin (d.timingPin - 1)).changing.any (fun c => c.1 == f)
  d.feeds || (d.source == 2 && taking 3) || (d.source == 3 && taking 1)

/-- The period in force, in tns. -/
def Dev.periodTns (d : Dev) : Nat := d.tick.period * 1000

/-- Phase offset in force, in tns (R44).
[notes/assumptions 71 DEDUCED, unsafe] -/
def Dev.phaseTns (d : Dev) : Nat := d.forceAt 0x2000 3 * 1000

/-- A grid point of the source, when its grid is known (R44). Under PTP and PPS, T + taiOffset - phase is a
multiple of the period; under PPS without the second number every edge lies on the grid when the period
divides 1 s; under TICK_IN every accepted edge does, from the second of the present grid on. -/
def Dev.gridPoint (d : Dev) : Option Int :=
  let viaTai : Int := d.phaseTns - d.time.taiOffset
  match d.source with
  | 1 => if d.time.taiValid then some viaTai else none
  | 2 =>
    if d.time.taiValid then some viaTai
    else if 1000000 % d.tick.period = 0 then d.time.lastEdge.map (fun t => (t + d.phaseTns : Int))
    else none
  | 3 => if 2 ≤ d.time.gridEdges then d.time.lastEdge.map (fun t => (t : Int)) else none
  | _ => none

/-- Signed distance of an instant from the nearest point of a grid with a period.
[notes/assumptions 66 DESIGN CHOICE, unsafe] -/
def phaseError (t g : Int) (period : Nat) : Int :=
  let r := (t - g) % (period : Int)
  if 2 * r ≤ period then r else r - period

/-- The first grid point at or after an instant. -/
def nextGrid (t g : Int) (period : Nat) : Nat := (t + (g - t) % (period : Int)).toNat

/-- LOCKED while the phase error, of the present tick's start and of the next boundary, is below 50 ns (R45, R46). -/
def TimeSync.aligned (t : TimeSync) : TimeMode :=
  if t.err.natAbs < 50 ∧ t.errNow.natAbs < 50 then .locked else .acquiring

/-- The time state and phase error after the source showed itself (R45, R46): the error of the next boundary is the
measured one, and a tick that is being slewed or stretched keeps the error it began with. -/
def Dev.measure (d : Dev) : Dev :=
  match d.gridPoint with
  | some g =>
    let e := if d.tick.started then phaseError d.tick.next g d.periodTns else 0
    let t : TimeSync := { d.time with
      err := e, errNow := if d.time.measured then d.time.errNow else e, measured := true, present := true, holdStart := none }
    { d with time := { t with mode := t.aligned } }
  | none =>
    { d with time := { d.time with measured := false, present := true, holdStart := none, mode := .acquiring } }

/-- The TAI time of the timebase comes from a source: its offset is fixed, and the start time of the present tick with
it when time was invalid or the source gives another second number (R41, R44). -/
def Dev.setTai (d : Dev) (offset : Int) : Dev :=
  { d with
    tick := if d.tick.started && (!d.time.taiValid || decide (500000000 ≤ (offset - d.time.taiOffset).natAbs)) then
        { d.tick with startTai := ((d.tick.start : Int) + offset).toNat } else d.tick
    time := { d.time with taiOffset := offset, taiValid := true, invalidStart := false } }

/-- The source is lost (R45): HOLDOVER at once, no boundary moves. -/
def Dev.loseSource (d : Dev) : Dev :=
  if d.source = 0 ∨ d.time.mode = .holdover ∨ d.time.mode = .freeRun then d
  else { d with time := { d.time with mode := .holdover, holdStart := some d.now, present := false, err := 0, errNow := 0, measured := false } }

/-- Does either port hold a valid master (R433)? -/
def TimeSync.hasMaster (t : TimeSync) : Bool := t.masterA.isSome || t.masterB.isSome

/-- The state right after the source or its pin is selected (R45, R68, R548). `atStart`: the selection a
start finds, which acquires. -/
def Dev.selectTime (d : Dev) (atStart : Bool) : Dev :=
  let t := { d.time with
    err := 0, errNow := 0, measured := false, present := false, gridOrigin := none, gridEdges := 0, ignoredRow := 0,
    lastEdge := none, selectedAt := d.now, holdStart := none, pendingSecond := none }
  let held : TimeSync := { t with mode := .holdover, holdStart := some d.now }
  { d with
    time :=
      match d.source with
      | 0 => { t with mode := .freeRun, holdStart := some d.now }
      | 1 =>
        if t.hasMaster then { t with mode := .acquiring, present := true }
        else if atStart then { t with mode := .acquiring } else held
      | 2 => if atStart && d.feedsAtStart then { t with mode := .acquiring } else held
      | _ => if d.feeds || (atStart && d.feedsAtStart) then { t with mode := .acquiring } else held }

/-! ### Edges (R44, R548) -/

/-- A PPS edge: a pending second number applies from an edge at least 100 ms after its write; with a
known second the edge marks the nearest one. -/
def Dev.ppsEdge (d : Dev) (t : Nat) : Dev :=
  let d1 : Dev := { d with time := { d.time with lastEdge := some t, present := true } }
  let d2 : Dev :=
    match d1.time.pendingSecond with
    | some (sec, w) =>
      if w + 100000000 ≤ t then
        let x := d1.setTai ((sec * 1000000000 : Int) - t)
        { x with time := { x.time with pendingSecond := none } }
      else d1
    | none => d1
  (if d2.time.taiValid then
      let sec := ((t : Int) + d2.time.taiOffset + 500000000) / 1000000000
      d2.setTai (sec * 1000000000 - t)
    else d2).measure

/-- An accepted TICK_IN edge.
[notes/assumptions 68 DEDUCED, unsafe] -/
def Dev.tickInAccept (d : Dev) (t : Nat) : Dev :=
  ({ d with time := { d.time with lastEdge := some t, gridEdges := d.time.gridEdges + 1, ignoredRow := 0 } } : Dev).measure

/-- A TICK_IN edge that defines a new grid. -/
def Dev.tickInOrigin (d : Dev) (t : Nat) : Dev :=
  let d1 : Dev := { d with
    time := { d.time with gridOrigin := some t, gridEdges := 1, ignoredRow := 0, lastEdge := some t } }
  d1.measure

/-- A TICK_IN edge (R44): accepted within 10 us of the grid, or of the predicted boundary once aligned;
ignored and counted otherwise, the second one ignored in a row while acquiring defining a new grid.
[notes/assumptions 68 DEDUCED, unsafe] -/
def Dev.tickInEdge (d : Dev) (t : Nat) : Dev :=
  match d.time.gridOrigin with
  | none => d.tickInOrigin t
  | some o =>
    let settled := decide (2 ≤ d.time.gridEdges)
    let g : Int := if settled then d.tick.next else o
    if (phaseError t g d.periodTns).natAbs ≤ 10000 || (settled && (d.time.err != 0) &&
        decide ((phaseError t (d.time.lastEdge.getD t) d.periodTns).natAbs ≤ 10000)) then d.tickInAccept t
    else
      let d1 := { d with time := { d.time with
        ignored := (d.time.ignored + 1) % 2 ^ 32, ignoredRow := d.time.ignoredRow + 1 } }
      if !settled && 2 ≤ d1.time.ignoredRow then d1.tickInOrigin t else d1

/-- TIMING_EDGE: an edge counts when its high level lasts 100 ns and its pin feeds the source. -/
def Dev.timingEdge (d : Dev) (pin t high : Nat) : Dev :=
  let d1 := d.advance t
  if high < 100 || pin != d.timingPin || !d.feeds then d1
  else match d.source with
    | 2 => d1.ppsEdge t
    | 3 => d1.tickInEdge t
    | _ => d1

/-- SOURCE_LOST_TIMEOUT: no accepted edge for 1.5 s under PPS, for two periods under TICK_IN (R43), counted from the
selection of the source while no edge has been accepted (R44 says so of TICK_IN).
[notes/assumptions 170 DESIGN CHOICE, unsafe] -/
def Dev.sourceTimeout (d : Dev) : Dev :=
  let since := d.time.lastEdge.getD d.time.selectedAt
  match d.source with
  | 2 => (d.advance (since + 1500000000)).loseSource
  | 3 => (d.advance (since + 2 * d.periodTns)).loseSource
  | _ => d

/-! ### PTP (R431 to R433) -/

/-- The order of the best master clock algorithm: the fields of an Announce in turn, lower better; equal
masters fall to LAN A, port 1. -/
def masterFields (m : PtpMaster) : List Nat :=
  [m.priority1, m.clockClass, m.accuracy, m.variance, m.priority2, m.identity, m.stepsRemoved]

/-- Lexicographic comparison. -/
def lexLt : List Nat → List Nat → Bool
  | a :: as, b :: bs => if a < b then true else if b < a then false else lexLt as bs
  | _, _ => false

/-- The LAN whose port is SLAVE: none when no port holds a valid master.
[notes/assumptions 69 DEDUCED, unsafe] -/
def TimeSync.slave (t : TimeSync) : Option Lan :=
  match t.masterA, t.masterB with
  | none, none => none
  | some _, none => some .a
  | none, some _ => some .b
  | some a, some b => if lexLt (masterFields b) (masterFields a) then some .b else some .a

/-- Port states of 0x2001.07: 1 LISTENING without a master, 3 SLAVE, 4 PASSIVE_SLAVE (R432).
[notes/assumptions 69 DEDUCED, unsafe] -/
def TimeSync.ports (t : TimeSync) : TimeSync :=
  match t.slave with
  | none => { t with portA := 1, portB := 1 }
  | some .a => { t with portA := 3, portB := if t.masterB.isSome then 4 else 1 }
  | some .b => { t with portB := 3, portA := if t.masterA.isSome then 4 else 1 }

/-- The master the SLAVE port follows. -/
def TimeSync.master (t : TimeSync) : Option PtpMaster :=
  match t.slave with
  | none => none
  | some .a => t.masterA
  | some .b => t.masterB

/-- The masters known change (R433): a new SLAVE or grandmaster reads ACQUIRING until its phase error is
measured; no master is a loss of the source. -/
def Dev.setMasters (d : Dev) (a b : Option PtpMaster) : Dev :=
  let t := ({ d.time with masterA := a, masterB := b } : TimeSync).ports
  let same := decide (t.slave = d.time.slave) && decide (t.master.map (·.identity) = d.time.master.map (·.identity))
  let d1 := { d with time := t }
  if d.source != 1 then d1
  else if !t.hasMaster then d1.loseSource
  else if same then d1
  else { d1 with time := { t with
    err := 0, errNow := 0, measured := false, present := true, holdStart := none, mode := .acquiring } }

/-- PTP_ANNOUNCE in the domain of 0x2000.07. -/
def Dev.announce (d : Dev) (lan : Lan) (domain : Nat) (m : PtpMaster) : Dev :=
  if domain != d.forceAt 0x2000 7 then d
  else match lan with
    | .a => d.setMasters (some m) d.time.masterB
    | .b => d.setMasters d.time.masterA (some m)

/-- The announce receipt timeout of a port. -/
def Dev.announceTimeout (d : Dev) (lan : Lan) : Dev :=
  match lan with
  | .a => d.setMasters none d.time.masterB
  | .b => d.setMasters d.time.masterA none

/-- PTP_SYNC on the SLAVE port: the measured offset, the TAI time, and the phase error by it. Under PPS it
gives the second number of the last edge while time is invalid, and replaces a written one once its own offset is below
the 50 ns of LOCKED (R44, R45).
[notes/assumptions 171 DEDUCED, unsafe] -/
def Dev.ptpSync (d : Dev) (lan : Lan) (offset : Int) (taiNs : Nat) : Dev :=
  if d.time.slave != some lan then d
  else
    let t := { d.time with offset := offset }
    match d.source with
    | 1 =>
      (({ d with time := t } : Dev).setTai ((taiNs : Int) - d.now)).measure
    | 2 =>
      let locked := decide (offset.natAbs < 50)
      match t.lastEdge with
      | some e =>
        if t.taiValid && !locked then { d with time := t }
        else
          let sec := ((e : Int) + ((taiNs : Int) - d.now) + 500000000) / 1000000000
          let d1 := ({ d with time := { t with pendingSecond := if locked then none else t.pendingSecond } } : Dev).setTai
            (sec * 1000000000 - e)
          if t.present then d1.measure else d1
      | none => { d with time := t }
    | _ => { d with time := t }

/-! ### Boundaries (R42, R46) -/

/-- The tick that starts at a boundary: when it ends, and the phase error left. `changed`: the period
changes at this boundary (R42). In HOLDOVER and FREE_RUN the error is 0 unless a phase change gave one (R45, R68). -/
def Dev.nextTick (d : Dev) (changed : Bool) : Nat × Int :=
  let t := d.now
  let p := d.periodTns
  match (if d.source = 3 then none else d.gridPoint), changed with
  | some g, true => (nextGrid (t + p) g p, 0)
  | none, true => (t + p, d.time.err)
  | _, false =>
    let e := d.time.err
    if e.natAbs ≤ d.forceAt 0x2000 5 * 1000 then
      let lim : Int := p / 10000
      let m : Int := max (-lim) (min lim e)
      (((t + p : Int) - m).toNat, e - m)
    else (((t + p : Int) + (-e) % (p : Int)).toNat, 0)

/-- The tick unit after a boundary fixed the end of the new tick: the tick begins with the phase error its start has,
and a source that is present and measured reads LOCKED once that is below 50 ns (R45, R46). -/
def Dev.alignTick (d : Dev) (changed : Bool) : Dev :=
  let n := d.nextTick changed
  let live := d.time.present && (decide (d.time.mode = .locked) || decide (d.time.mode = .acquiring))
  let t : TimeSync := { d.time with errNow := d.time.err, err := n.2 }
  { d with
    tick := { d.tick with next := n.1 }
    time := if live && d.gridPoint.isSome && t.measured then { t with mode := t.aligned } else t }

/-- The end of HOLDOVER's hour (R45). -/
def Dev.holdoverEnd (d : Dev) : Dev :=
  if d.time.mode = .holdover ∧ d.source ≠ 0 then
    let d1 := d.advance (d.time.holdStart.getD d.now + 3600000000000)
    ({ d1 with time := { d1.time with mode := .freeRun } } : Dev).alarm 1
  else d

/-- The pulse at the next TAI second, while time is valid (R47): the present instant when it is one that has had no
pulse. -/
def Dev.secondPulse (d : Dev) : Dev :=
  match d.tai with
  | some t =>
    let r := t % 1000000000
    let wait := if r = 0 ∧ d.time.lastPulse ≠ some d.now then 0 else 1000000000 - r
    let d1 := d.advance (d.now + wait)
    { d1 with time := { d1.time with pulses := d1.time.pulses + 1, lastPulse := some d1.now } }
  | none => d

/-- TIMING_EDGE. -/
def execTimingEdge (pin : Fin 9) (instant highTns : Nat) (s : State) : Host.Outcome State Fault Refusal :=
  s.done (s.dev.timingEdge pin instant highTns).eff

/-- SOURCE_LOST_TIMEOUT. -/
def execSourceLostTimeout (s : State) : Host.Outcome State Fault Refusal := s.done s.dev.sourceTimeout.eff

/-- ANNOUNCE_RECEIPT_TIMEOUT. -/
def execAnnounceReceiptTimeout (lan : Lan) (s : State) : Host.Outcome State Fault Refusal :=
  s.done (s.dev.announceTimeout lan).eff

/-- PTP_ANNOUNCE. -/
def execPtpAnnounce (lan : Lan) (domain : Nat) (master : PtpMaster) (s : State) : Host.Outcome State Fault Refusal :=
  s.done (s.dev.announce lan domain master).eff

/-- PTP_SYNC. -/
def execPtpSync (lan : Lan) (offset : Int) (taiNs : Nat) (s : State) : Host.Outcome State Fault Refusal :=
  s.done (s.dev.ptpSync lan offset taiNs).eff

/-- PDELAY_REQ: answered on its port (R431); the frame is noted by a mark and the request's sequence.
[notes/assumptions 62 DESIGN CHOICE, unsafe] -/
def execPdelayReq (lan : Lan) (sequence : Nat) (s : State) : Host.Outcome State Fault Refusal :=
  s.done ({ s.dev with mgmt := { s.dev.mgmt with frames := s.dev.mgmt.frames ++ [(lan, 3 :: toLe 2 sequence)] } } : Dev).eff

/-- HOLDOVER_EXPIRED. -/
def execHoldoverExpired (s : State) : Host.Outcome State Fault Refusal := s.done s.dev.holdoverEnd.eff

/-- TAI_SECOND_PULSE. -/
def execTaiSecondPulse (s : State) : Host.Outcome State Fault Refusal := s.done s.dev.secondPulse.eff

end Sys2Proof.Machine
end

