-- ==== Sys2Proof/Machine/Units.lean ====
section
/-!
DEFINITION. Units of the device and how they leave and enter service: the unit layout of R362, emergency
fences with the re-issue of claimed work (R244, R269, R136), planned removals (R268) and field-test
requests (R461).
-/

namespace Sys2Proof.Machine

/-! ### The unit layout of R362 ARG0[15:0] -/

/-- Kind: 0 cell, 1 block, 2 region. -/
def unitKind (u : Nat) : Nat := field u 1 0

/-- Region of a unit. -/
def unitRegion (u : Nat) : Nat := field u 6 4

/-- Block of a unit. -/
def unitBlock (u : Nat) : Nat := field u 10 8

/-- Does the layout name a unit? -/
def unitLegal (u : Nat) : Bool := decide (unitKind u < 3) && decide (unitRegion u < 6)

/-- The layout of a cell. -/
def cellUnit (n : Nat) : Nat := n / 64 * 16 + n / 8 % 8 * 256 + n % 8 * 4096

/-- The layout of a block, number region × 8 + block. -/
def blockUnit (b : Nat) : Nat := 1 + b / 8 * 16 + b % 8 * 256

/-- The code of an engine beside the layout (R488). -/
def engineUnit (n : Nat) : Nat := 0x8000 + n

/-- The cells a unit covers. -/
def unitCells (u : Nat) : List Nat :=
  if 0x8000 ≤ u then []
  else match unitKind u with
    | 0 => [unitRegion u * 64 + unitBlock u * 8 + field u 14 12]
    | 1 => (List.range 8).map (· + (unitRegion u * 64 + unitBlock u * 8))
    | _ => (List.range 64).map (· + unitRegion u * 64)

/-- The engines a unit covers: those of a region's two stacks, or one engine. -/
def unitEngines (u : Nat) : List Nat :=
  if 0x8000 ≤ u then [u - 0x8000]
  else if unitKind u = 2 then (List.range 32).map (· + unitRegion u * 32) else []

/-- Is a unit the same as, or inside, another? -/
def unitInside (a b : Nat) : Bool :=
  (unitCells a).all (fun n => (unitCells b).contains n) && decide (unitKind a ≤ unitKind b)

/-- The unit kind of a CAPACITY_CHANGE notice (R437). -/
def noticeKind (u : Nat) : Nat := if 0x8000 ≤ u then 3 else unitKind u

/-- The unit number of a CAPACITY_CHANGE notice (R437).
[notes/assumptions 21 DEDUCED, unsafe] -/
def noticeUnit (u : Nat) : Nat := if 0x8000 ≤ u then u - 0x8000 else u

/-- A capacity change to be told at the next boundary (R268). -/
def Dev.capacityEvent (d : Dev) (unitKind cause unit : Nat) : Dev :=
  { d with capacityEvents := d.capacityEvents ++ [(unitKind, cause, unit)] }

/-- A capacity change of a unit. -/
def Dev.capacityOf (d : Dev) (u cause : Nat) : Dev := d.capacityEvent (noticeKind u) cause (noticeUnit u)

/-! ### Work given back (R244, R464) -/

/-- A tile number back on a region's re-issue list, in ascending order (R244). -/
def Inst.giveBack (x : Inst) (region item : Nat) : Inst :=
  let r := if x.ranges.any (fun t => t.region == region) then region
    else ((x.ranges.head?).map (·.region)).getD region
  { x with
    ranges := x.ranges.map (fun t =>
      if t.region = r && !t.reissue.contains item then
        { t with reissue := insertBy (fun a b => decide (a < b)) item t.reissue } else t) }

/-- The vote of an item changed. -/
def Inst.modVote (x : Inst) (item : Nat) (f : Vote → Vote) : Inst :=
  { x with votes := x.votes.map (fun v => if v.item = item then f v else v) }

/-- An instance of a round changed, by operator. -/
def Round.modInst (r : Round) (op : Nat) (f : Inst → Inst) : Round :=
  { r with insts := r.insts.map (fun x => if x.op = op then f x else x) }

/-- A job's round changed. -/
def Dev.modRound (d : Dev) (job : Nat) (f : Round → Round) : Dev :=
  d.modJob job (fun j => { j with round := j.round.map f })

/-- The item a stopped cell held goes back: an original to the re-issue list, a duplicate or third
execution to be posted again. -/
def Dev.giveBackTile (d : Dev) (n : Nat) (h : Held) : Dev :=
  d.modRound h.job (fun r =>
    if r.number != h.round then r
    else r.modInst h.op (fun x =>
      match h.role with
      | .original => x.giveBack (n / 64) h.item
      | .duplicate => x.modVote h.item (fun v => { v with dup := none })
      | .third => x.modVote h.item (fun v => { v with third := none })))

/-- The operation an engine gives up starts again with its slice: the earlier K ranges of the same columns ran into
accumulators that are no longer valid, so they run again too (R122, R137). -/
def Inst.restartGroup (x : Inst) (item : Nat) : Inst :=
  match x.slices.find? (fun s => s.item == item) with
  | none => x
  | some a =>
    let again (s : Slice) : Bool :=
      s.done && s.prob == a.prob && s.col0 == a.col0 && s.stack == a.stack && s.engine == a.engine
    { x with
      left := x.left + (x.slices.filter again).length
      slices := x.slices.map (fun s => if again s then { s with done := false } else s) }

/-- The item a stopped engine held goes back: an original's slice starts again, a duplicate or third execution is to be
posted again (R137). -/
def Dev.giveBackSlice (d : Dev) (h : Held) : Dev :=
  d.modRound h.job (fun r =>
    if r.number != h.round then r
    else r.modInst h.op (fun x =>
      match h.role with
      | .original => x.restartGroup h.item
      | .duplicate => x.modVote h.item (fun v => { v with dup := none })
      | .third => x.modVote h.item (fun v => { v with third := none })))

/-- What a fence costs a best-effort job, which has no admitted schedule: the time its stopped item had run (R269).
[notes/assumptions 145 DEDUCED, unsafe] -/
def Dev.reissueStall (d : Dev) (h : Held) : Dev :=
  match d.liveJob h.job with
  | some j => if j.batch.guaranteed then d else d.stall h.job .fenceReissue (d.now - h.start)
  | none => d

/-- Guaranteed rounds that a test selects have lost a unit: what delays them beyond their admitted schedule from now on
counts under FENCE_REISSUE (R269). -/
def Dev.markFenced (d : Dev) (which : Job → Round → Bool) : Dev :=
  { d with jobs := d.jobs.map (fun j =>
      (j.1, { j.2 with round := j.2.round.map (fun r =>
        if j.2.batch.guaranteed && which j.2 r then { r with fenced := true } else r) })) }

/-- A cell stops and what it held is re-issued (R244, R269). -/
def Dev.stopAndReissue (d : Dev) (n : Nat) : Dev :=
  match (d.cell n).held with
  | none => d
  | some h =>
    let d1 := match (d.cell n).ahead with
      | some a => d.giveBackTile n a
      | none => d
    ((d1.giveBackTile n h).reissueStall h).stopCell n

/-- An engine stops and what it held is re-issued (R136, R137). -/
def Dev.stopSlice (d : Dev) (n : Nat) : Dev :=
  match (d.engine n).held with
  | none => d
  | some h => ((d.giveBackSlice h).reissueStall h).stopEngine n

/-! ### Sorts on a sorter (R219, R220, R222, R223) -/

/-- The region that merges a top-k instance: the lowest one of its parts in service (R220).
[notes/assumptions 105 DEDUCED, unsafe] -/
def Inst.mergeRegion (x : Inst) (d : Dev) : Option Nat :=
  (sortBy (fun a b => decide (a < b)) (x.sorts.map SortPart.region)).find? (fun g => !(d.region g).outOfService && !(d.region g).sorter.fenced)

/-- Has an instance merge passes left, all its parts being done? -/
def Inst.merging (x : Inst) (k : Nat) : Bool :=
  x.sorts.all SortPart.done && decide (1 < x.sorts.length) &&
    decide (((x.sorts.head?).map SortPart.merged).getD 0 < mergePasses x.sorts.length k)

/-- Is a part of a top-k instance at work on a region's sorter: one that has keys left there, or the part that merges? -/
def Inst.onSorter (x : Inst) (d : Dev) (k g : Nat) (p : SortPart) : Bool :=
  (p.region == g && !p.done) || (x.merging k && x.mergeRegion d == some g && x.sorts.head? == some p)

/-- Does a sorter's held register hold entries of a part? -/
def Inst.inRegister (x : Inst) (d : Dev) (k g : Nat) (p : SortPart) : Bool :=
  x.onSorter d k g p && (p.taken != 0 && !p.done || p.merged != 0)

/-- Some parts restarted from their first pass, on another sorter (R223). -/
def Inst.restartSort (x : Inst) (k : Nat) (which : SortPart → Bool) (dest : Nat) : Inst :=
  let l := x.sorts.map (fun s => if which s
    then { s with region := dest, taken := 0, held := [], merged := 0, done := s.count == 0, saved := false } else s)
  { x with
    sorts := l
    left := (l.filter (fun s => !s.done)).length +
      (if 1 < l.length then mergePasses l.length k - ((l.head?).map SortPart.merged).getD 0 else 0) }

/-- A pass of a best-effort sort stopped: its held register becomes invalid, and the slice starts again from its first pass
(R96, R223). -/
def Dev.stopSort (d : Dev) (g : Nat) : Dev :=
  match (d.region g).sorter.job with
  | none => d
  | some (job, op) =>
    match d.job? job with
    | none => d
    | some j =>
      if j.batch.guaranteed then d
      else
        let k := (j.prog.ops.getD op (OpDesc.ofNat 0)).kTop
        let ran := min 72 (((d.region g).sorter.milli + (d.now - (d.region g).sorter.start) * d.ageing.clock) / 1000)
        ((d.lostCycles j ran).modRound job (fun r => r.modInst op (fun x => x.restartSort k (x.onSorter d k g) g))).modRegion g
          (fun y => { y with sorter := { y.sorter with job := none } })

/-- Has a round a cell operator instance that is not complete? -/
def Round.cellsNeeded (r : Round) : Bool :=
  r.insts.any (fun x => decide (x.kind = .cells) && decide (x.state ≠ .done) && x.ranges.length != 0)

/-- A failure noted in a round, once for each code and part (R277, R278). -/
def Round.fail (r : Round) (who : Option PartId) (c : Code) (t : Tns) (maskBit : Nat) : Round :=
  if r.decided || r.failures.any (fun f => decide (f.who = who) && decide (f.code = c) && f.maskBit == maskBit) then r
  else { r with failures := r.failures ++ [{ who := who, code := c, time := t, maskBit := maskBit }] }

/-- Ranges of regions with no granted cell left move to the lowest region of the round that has one (R244);
with no granted cell left at all, the operator ends FENCED_CAPACITY (R254). -/
def Dev.moveRanges (d : Dev) : Dev :=
  { d with
    jobs := d.jobs.map (fun j =>
      (j.1, { j.2 with
        round := j.2.round.map (fun r =>
          let alive (g : Nat) : Bool := r.cells.any (fun n => n / 64 == g && d.cellUp n)
          match (List.range 6).find? alive with
          | none =>
            if j.2.batch.guaranteed && r.cellsNeeded then r.fail none .fencedCapacity d.now (j.2.grant.home % 6) else r
          | some dest => { r with insts := r.insts.map (fun x =>
              { x with ranges := x.ranges.map (fun t => if alive t.region then t else { t with region := dest }) }) }) })) }

/-- Guaranteed jobs that hold a cell are re-admitted at the next boundary (R270). -/
def Dev.markReadmit (d : Dev) (which : Job → Bool) : Dev :=
  { d with jobs := d.jobs.map (fun j =>
      (j.1, if decide (j.2.state = .admitted) && j.2.batch.guaranteed && which j.2 then { j.2 with readmit := true }
        else j.2)) }

/-- Does a job use a stack by windows, slots or homes? -/
def Job.usesStack (j : Job) (k : Nat) : Bool :=
  j.grant.windows.any (fun w => w.stack == k) || j.grant.slots.any (fun s => s.1 == k)

/-- A cell out of service inside the tick: its claimed tiles are re-issued (R269); what its parts hold goes with the stop, between
tiles as well (R96). -/
def Dev.fenceCell (d : Dev) (n : Nat) : Dev :=
  if (d.cell n).fenced then d
  else
    let d1 := ((d.stopAndReissue n).modCell n (fun c => { c with fenced := true, pattern := false, parts := {} })).markFenced
      (fun _ r => r.cells.contains n)
    (d1.markReadmit (fun j => j.grant.cells.contains n)).moveRanges

/-- The slices that a fenced engine leaves, dealt anew: its columns cut where the survivors' shares of the operator's
columns on the stack begin, an attention item to the survivor its number names (R121, R132, R136).
[notes/assumptions 144 DEDUCED, unsafe] -/
def reshare (p : Program) (o : OpDesc) (nch : Nat) (surv : List Nat) (probs : List IProb) (onStack gone : List Slice) :
    List Slice :=
  if o.cls = 1 then
    gone.map (fun s => { s with engine := surv.getD (s.range % max surv.length 1) 0, done := false })
  else
    ((gone.map (fun s => (s.prob, s.col0, s.cols))).eraseDups).flatMap (fun g =>
      let q := probs.getD g.1 ⟨0, 0, 0, 0, 0, 0, none, 0, 0⟩
      let all := onStack.filter (fun s => s.prob == g.1)
      let lo := minNat (all.map Slice.col0)
      let hi := maxNat (all.map (fun s => s.col0 + s.cols))
      (engineShares lo hi surv).flatMap (fun x =>
        let a := max g.2.1 x.2.1
        let b := min (g.2.1 + g.2.2) (x.2.1 + x.2.2)
        if b ≤ a then []
        else
          let cs := if o.cls = 3 then [recOpCycles p q.rows (b - a)] else rangeCycles nch o q.rows q.k (b - a)
          cs.zipIdx.map (fun c =>
            ({ item := 0, stack := (gone.headD ⟨0, 0, 0, 0, 0, 0, 0, 0, true, false⟩).stack, engine := x.1, prob := g.1, col0 := a
               cols := b - a, range := c.2, writes := o.cls != 3 && decide (c.2 + 1 = cs.length), cost := c.1 } : Slice))))

/-- The slices of an instance that an engine still has to run, with the finished K ranges of the same columns. -/
def Inst.leftBy (x : Inst) (k e : Nat) : List Slice :=
  let mine := x.slices.filter (fun s => s.stack == k && s.engine == e)
  mine.filter (fun s => mine.any (fun t => !t.done && t.prob == s.prob && t.col0 == s.col0))

/-- An instance whose slices on one engine are dealt to the survivors of the stack, under new item numbers and with no
vote (R136).
[notes/assumptions 144 DEDUCED, unsafe] -/
def Inst.redeal (x : Inst) (p : Program) (ph : Phase) (nb nch : Nat) (surv : List Nat) (k e : Nat) : Inst :=
  let o := p.ops.getD x.op (OpDesc.ofNat 0)
  let gone := x.leftBy k e
  let away (item : Nat) : Bool := gone.any (fun s => s.item == item)
  let next := maxNat (x.slices.map Slice.item) + 1
  let new := (reshare p o nch surv (instProblems p o ph nb x.counts) (x.slices.filter (fun s => s.stack == k)) gone).zipIdx.map
    (fun s => { s.1 with item := next + s.2 })
  { x with
    slices := x.slices.filter (fun s => !away s.item) ++ new
    left := x.left + new.length - (gone.filter (fun s => !s.done)).length
    total := x.total + new.length - gone.length
    votes := x.votes.filter (fun v => !away v.item)
    flips := x.flips.filter (fun f => !away f.1) }

/-- The parts whose data some unfinished slices cover: the members of their rows, or every part where no one member owns
the data (R278). -/
def Round.coveredBy (r : Round) (p : Program) (x : Inst) (l : List Slice) : List (Option PartId) :=
  let o := p.ops.getD x.op (OpDesc.ofNat 0)
  let probs := instProblems p o r.phase r.members.length x.counts
  if o.cls = 3 || ((p.tensor? o.dst).map Tensor.perFuture).getD false then
    ((l.map Slice.prob).eraseDups.flatMap (fun i => match probs[i]? with
      | some q => (List.range q.rows).filterMap (fun row => (r.members[q.memberOf row]?).map (fun m => some m.who))
      | none => [])).eraseDups
  else if l.isEmpty then [] else [none]

/-- An engine out of service inside the tick: its slices are re-dealt; with no survivor, the parts its unfinished slices
cover end FENCED_CAPACITY (R136, R278).
[notes/assumptions 144 DEDUCED, unsafe] -/
def Dev.fenceEngine (d : Dev) (n : Nat) : Dev :=
  if (d.engine n).fenced then d
  else
    let k := n / 16
    let touches (x : Inst) : Bool := !(x.leftBy k (n % 16)).isEmpty
    let d1 := ((d.stopSlice n).modEngine n (fun c => { c with fenced := true, pattern := false, parts := {} })).markFenced
      (fun _ r => r.insts.any touches)
    let surv := d1.stackEngines k
    let nch := 32 - (d1.stack k).fenced.length
    let d2 : Dev := { d1 with
      jobs := d1.jobs.map (fun j =>
        (j.1, { j.2 with
          round := j.2.round.map (fun r =>
            if surv.isEmpty then
              (r.insts.flatMap (fun x => r.coveredBy j.2.prog x ((x.leftBy k (n % 16)).filter (fun s => !s.done)))).foldl
                (fun acc who => acc.fail who .fencedCapacity d.now (k / 2)) r
            else { r with insts := r.insts.map (fun x =>
              if touches x then x.redeal j.2.prog r.phase r.members.length nch surv k (n % 16) else x) }) })) }
    d2.markReadmit (fun j => j.usesStack k)

/-- An emergency fence of a unit of the R362 layout, or of an engine (R268), told at the boundary. -/
def Dev.emergencyFence (d : Dev) (u : Nat) : Dev :=
  let news := (unitCells u).any (fun n => !(d.cell n).fenced) || (unitEngines u).any (fun n => !(d.engine n).fenced)
  let d1 := (unitCells u).foldl Dev.fenceCell d
  let d2 := (unitEngines u).foldl Dev.fenceEngine d1
  if news then d2.capacityOf u 0 else d2

/-! ### Planned removals (R268, R272) -/

/-- A removal asked for: it acts at the boundary after the rounds on the unit have committed. -/
def Dev.planRemoval (d : Dev) (u cause : Nat) : Dev :=
  if d.removals.any (fun r => r.unit == u) then d
  else { d with removals := d.removals ++ [{ unit := u, cause := cause }] }

/-! ### Field tests (R461) -/

/-- A field test asked for: it joins a queued test that covers the unit or a running test of the same unit,
and absorbs queued tests inside it. -/
def Dev.requestTest (d : Dev) (u origin : Nat) : Dev :=
  d.modRegion (unitRegion u) (fun r =>
    if r.tests.any (fun t => (!t.running && unitInside u t.unit) || t.unit == u) then r
    else { r with
      tests := r.tests.filter (fun t => t.running || !unitInside t.unit u) ++ [{ unit := u, origin := origin }] })

/-- A field test from management (R409): PENDING while it waits. -/
def Dev.requestMgmtTest (d : Dev) (u : Nat) : Dev :=
  { d.requestTest u 1 with mgmtTest := 1, mgmtTestUnit := u }

end Sys2Proof.Machine
end

