-- ==== Sys2Proof/Machine/Loss.lean ====
section
/-!
DEFINITION. What is lost with a region (R273) or with the lines of a stack channel (R274, R295): data
becomes LOST, rounds that touch it end, layers get new homes, and the region or stack leaves service.
-/

namespace Sys2Proof.Machine

/-- Stacks a partition's data can be homed in: those in service of the regions of its mask (R259, R267).
[notes/assumptions 136 DEDUCED, unsafe] -/
def Dev.usableStacks (d : Dev) (p : Nat) : List Nat :=
  (List.range 12).filter (fun k =>
    d.regionUsable p (k / 2) && !(d.region (k / 2)).outOfService && !(d.region (k / 2)).draining &&
      !(d.stack k).outOfService)

/-- The stack with the most free memory, ties to the lowest number (R152, R259).
[notes/assumptions 88 DEDUCED, unsafe] -/
def Dev.roomiest (d : Dev) (l : List Nat) : Option Nat := argMax d.stackFree l

/-- Lines of a recall buffer of 64 MiB (R155). -/
def recallLines : Nat := 64 * 8192

/-! ### Data by where it is -/

/-- A page is lost: its frame is free and a spill of it stops (R167). -/
def Eff.losePage (e : Eff) (n : Nat) : Eff :=
  let f := e.dev.frame n
  let e1 := (e.freeLines f.stack f.loc f.lines).mod (fun d => d.setFrame n { f with state := .lost })
  e1.dev.transfers.foldl (fun acc t =>
    match t with
    | .spill pg loc =>
      if pg = n then (acc.freeUnits loc (ceilDiv (f.lines * 128) 4096)).mod
        (fun d => { d with transfers := d.transfers.filter (fun x => decide (x ≠ t)) })
      else acc
    | _ => acc) e1

/-- A state object is lost, with the lines or the units it has (R199); one that a decided round has staged stays LOST for its
commit (R57). -/
def Eff.loseObj (e : Eff) (n : Nat) : Eff :=
  let o := e.dev.obj n
  let e1 := match o.loc with
    | .resident => e.freeLines o.stack o.addr o.lines
    | .evicting => e.freeLines o.stack o.addr o.lines
    | .evicted => e.freeUnits o.addr (ceilDiv (o.lines * 128) 4096)
    | .recalling => e.freeUnits o.addr (ceilDiv (o.lines * 128) 4096)
    | _ => e
  let staged := e.dev.liveJobs.any (fun j => j.round.any (fun r => r.decided && r.newObjs.contains n))
  e1.mod (fun d => d.setObj n (if o.ref = 0 && !staged then {} else { o with loc := .lost }))

/-- Units of Stratus a list of (object, LOC) pairs takes. -/
def Eff.freeLocs (e : Eff) (l : List (Nat × Nat)) : Eff :=
  l.foldl (fun acc x => acc.freeUnits x.2 (ceilDiv ((acc.dev.obj x.1).lines * 128) 4096)) e

/-- Stack lines a recall had taken, given back. -/
def Eff.freeRecall (e : Eff) (l : List (Nat × Nat × Nat)) : Eff :=
  l.foldl (fun acc x => acc.freeLines x.2.1 x.2.2 (acc.dev.obj x.1).lines) e

/-- Streams whose state is lost: LOC reads LOST and an eviction of it stops; a recall into lost lines goes
back to waiting for room (R199). -/
def Eff.loseStreams (e : Eff) (lost : Space → Nat → Nat → Bool) : Eff :=
  let gone (d : Dev) (s : StreamEntry) : Bool := (d.directory s).any (fun n => decide ((d.obj n).loc = .lost))
  let e1 := e.dev.transfers.foldl (fun acc t =>
    match t with
    | .evict _ locs _ =>
      if locs.any (fun x => decide ((acc.dev.obj x.1).loc ≠ .evicting)) then
        (acc.freeLocs locs).mod (fun d => { d with transfers := d.transfers.filter (fun x => decide (x ≠ t)) })
      else acc
    | .recall n addrs =>
      if (acc.dev.stream? n).any (gone acc.dev) then
        (acc.freeRecall addrs).mod (fun d => { d with transfers := d.transfers.filter (fun x => decide (x ≠ t)) })
      else if addrs.any (fun x => lost (.stack x.2.1) x.2.2 (acc.dev.obj x.1).lines) then
        (acc.freeRecall addrs).mod (fun d =>
          { d with transfers := d.transfers.map (fun x => if x = t then .recall n [] else x) })
      else acc
    | .spill _ _ => acc) e
  e1.mod (fun d => { d with
    streams := d.streams.map (fun s =>
      (s.1, if decide (s.2.loc ≠ .none) && gone d s.2 then { s.2 with loc := .lost } else s.2)) })

/-- Directory blocks whose lines are lost, with the state objects they name (R175, R199). -/
def Dev.lostDirs (d : Dev) (lost : Space → Nat → Nat → Bool) : List Nat :=
  (d.dirHomes.filter (fun h => lost (.stack h.2.stack) h.2.la h.2.lines)).map Prod.fst

/-- The lines of lost directory blocks given up. -/
def Eff.loseDirs (e : Eff) (l : List Nat) : Eff :=
  l.foldl (fun acc n =>
    match tget acc.dev.dirHomes n with
    | some h => (acc.freeLines h.stack h.la h.lines).mod (fun d => { d with dirHomes := terase d.dirHomes n })
    | none => acc) e

/-- Stored objects of stacks that are lost (R273). -/
def Eff.loseObjects (e : Eff) (lost : Space → Nat → Nat → Bool) : Eff :=
  e.dev.objects.foldl (fun acc o =>
    let n := ceilDiv o.2.total 128
    if !o.2.stratus && !o.2.lost && lost (.stack o.2.stack) o.2.base n then
      (acc.freeLines o.2.stack o.2.base n).mod (fun d =>
        { d with objects := tset d.objects o.1 { o.2 with lost := true } })
    else acc) e

/-- Inbox and outbox of a partition that are lost get a new home at the next boundary.
[notes/assumptions 88 DEDUCED, unsafe] -/
def Eff.loseBoxes (e : Eff) (lost : Space → Nat → Nat → Bool) : Eff :=
  e.dev.parts.foldl (fun acc x =>
    match x.2.boxes with
    | some (k, la, n) =>
      if lost (.stack k) la n then (acc.freeLines k la n).mod (fun d => d.modPart x.1 (fun y => { y with boxes := none }))
      else acc
    | none => acc) e

/-- Placed weight slices that are lost: the image is incomplete until they are restored (R275). -/
def Eff.loseWeights (e : Eff) (lost : Space → Nat → Nat → Bool) : Eff :=
  let hit (s : WeightSlice) : Bool := !s.lost && lost (.stack s.stack) s.la s.lines
  let e1 := e.dev.images.foldl (fun acc i =>
    i.2.slices.foldl (fun a l => l.foldl (fun b s =>
      if hit s then b.freeLines s.stack s.la s.lines else b) a) acc) e
  e1.mod (fun d => { d with
    images := d.images.map (fun i =>
      if i.2.slices.any (fun l => l.any hit) then
        (i.1, { i.2 with
          restoring := true
          slices := i.2.slices.map (fun l => l.map (fun s => if hit s then { s with lost := true } else s)) })
      else i) })

/-- Is the home of a tensor lost? -/
def TensorHome.hit (h : TensorHome) (lost : Space → Nat → Nat → Bool) : Bool :=
  !h.lost && lost h.space (h.base / 128) (ceilDiv (h.bytes) 128)

/-- A tensor home given up: its extent is free. -/
def Eff.freeHome (e : Eff) (h : TensorHome) : Eff :=
  match h.space with
  | .stack k => e.freeLines k (h.base / 128) (ceilDiv (h.bytes) 128)
  | .cache r =>
    (e.mod (fun d => { d with cacheAlloc := tset d.cacheAlloc r (freeExtent (d.cacheUse r) (h.base / 128)) })).ops
      [.clear (h.space.addr h.base) (h.bytes)]
  | .stratus => e

/-- The homes of jobs that are lost; a lost weight stream buffer is allocated again at the next boundary
(R261). -/
def Eff.loseHomes (e : Eff) (lost : Space → Nat → Nat → Bool) : Eff :=
  e.dev.liveJobs.foldl (fun acc j =>
    let a1 := j.homes.foldl (fun a h =>
      match h with
      | some t => if t.hit lost then a.freeHome t else a
      | none => a) acc
    let a2 := match j.streamBuf with
      | some b => if lost (.stack b.1) b.2 (256 * 8192) then a1.freeLines b.1 b.2 (256 * 8192) else a1
      | none => a1
    a2.mod (fun d => d.modJob j.id (fun y => { y with
      homes := y.homes.map (fun h => h.map (fun t => if t.hit lost then { t with lost := true } else t))
      streamBuf := match y.streamBuf with
        | some b => if lost (.stack b.1) b.2 (256 * 8192) then none else some b
        | none => none }))) e

/-! ### New homes of layers (R152, R155, R272) -/

/-- New home stacks of an attention layer: the roomiest surviving stack, or region for SPLIT. -/
def Dev.newKvHome (d : Dev) (p : Nat) (split : Bool) : Option (List Nat) :=
  let us := d.usableStacks p
  if split then
    (argMax (fun r => d.stackFree (2 * r) + d.stackFree (2 * r + 1))
      ((List.range 6).filter (fun r => us.contains (2 * r) && us.contains (2 * r + 1)))).map
        (fun r => [2 * r, 2 * r + 1])
  else (d.roomiest us).map (fun k => [k])

/-- One attention layer whose home a test gives up gets a new home, with a new recall buffer if it is
spilled. `free` tells whether its old buffer must be given back. -/
def Eff.rehomeKv (e : Eff) (j : Job) (layer : Nat) (free : Bool) : Eff :=
  match j.kvHomes[layer]? with
  | none => e
  | some h =>
    let e1 := if free && h.spilled && !h.lost then e.freeLines (h.homeStacks.headD 0) h.recallBase recallLines else e
    let set (x : Eff) (n : KvHome) : Eff :=
      x.mod (fun d => d.modJob j.id (fun y => { y with kvHomes := y.kvHomes.set layer n }))
    let follow (x : Eff) (k : Nat) : Eff := x.mod (fun d => (j.layerPages layer).foldl (fun acc n =>
      acc.moveFrame n (fun g => if g.state = .spilled then { g with stack := k } else g)) d)
    match e1.dev.newKvHome j.part (decide (h.homeStacks.length = 2)) with
    | none => set e1 { h with lost := true }
    | some ks =>
      if h.spilled then
        match e1.takeLines (ks.headD 0) 1 recallLines j.part with
        | some (b, e2) => follow (set e2 { h with homeStacks := ks, recallBase := b, lost := false }) (ks.headD 0)
        | none => set e1 { h with homeStacks := ks, lost := true }
      else set e1 { h with homeStacks := ks }

/-- State objects a job holds in a recurrent layer, by committed directories and those of its round. -/
def Dev.layerObjs (d : Dev) (j : Job) (l : Nat) : List Nat :=
  let committed := (d.streams.filter (fun s => s.2.job == j.id)).filterMap (fun s => (d.directory s.2)[l]?)
  let staged := (j.round.map (fun r => (r.dirs ++ r.forkDirs).filterMap (fun x => x.2[l]?))).getD []
  (committed ++ staged).eraseDups

/-- The home of a recurrent layer changed, with its demand; its objects in Stratus are to be recalled there (R177, R199).
[notes/assumptions 139 DEDUCED, unsafe] -/
def Dev.rehomeRec (d : Dev) (job l old dest : Nat) : Dev :=
  match d.liveJob job with
  | none => d
  | some j =>
    let dir := if l = 0 then dirLines j.prog else 0
    let lines := stateCopies j.prog j.batch * (stateObjBytes j.prog.hdr.c j.prog.hdr.ns / 128 + dir)
    let d1 := d.modJob job (fun y => ({ y with recHomes := y.recHomes.set l dest } : Job).moveDemand old dest lines)
    (d1.layerObjs j l).foldl (fun acc n =>
      let o := acc.obj n
      if o.loc = .evicted || o.loc = .recalling then acc.setObj n { o with stack := dest } else acc) d1

/-- The layers of every job that live in a stack outside service get new homes.
[notes/assumptions 134 DEDUCED, unsafe] -/
def Eff.rehomeLayers (e : Eff) (lost : Space → Nat → Nat → Bool) : Eff :=
  e.dev.liveJobs.foldl (fun acc j =>
    let bad (k : Nat) : Bool := (acc.dev.stack k).outOfService
    let a1 := (List.range j.kvHomes.length).foldl (fun a l =>
      match j.kvHomes[l]? with
      | some h =>
        let buffer := h.spilled && !h.lost && lost (.stack (h.homeStacks.headD 0)) h.recallBase recallLines
        if h.homeStacks.any bad || buffer then a.rehomeKv j l true else a
      | none => a) acc
    (List.range j.recHomes.length).foldl (fun a l =>
      let k := j.recHomes.getD l 0
      if !(a.dev.stack k).outOfService then a
      else match a.dev.roomiest (a.dev.usableStacks j.part) with
        | none => a
        | some dest => a.mod (fun d => d.rehomeRec j.id l k dest)) a1) e

/-! ### Rounds that touch what is lost -/

/-- The parts that take steps in a round: observed futures with frames, host streams with tokens, and every
imagined future of the staged set (R25, R226). -/
def Round.takers (r : Round) : List PartId :=
  (r.frames.map (fun f => (⟨false, f.1⟩ : PartId))) ++
    ((r.futures.filter (fun f => !f.observed)).map (fun f => (⟨false, f.id⟩ : PartId))) ++
    (r.tokens.map (fun t => (⟨true, t.1⟩ : PartId)))

/-- A page entry as a round sees it. -/
def Round.page (r : Round) (d : Dev) (n : Nat) : PageFrame := (tget r.pageFrames n).getD (d.frame n)

/-- The future of an id as a round sees it. -/
def Round.future? (r : Round) (j : Job) (id : Nat) : Option Future :=
  match r.futures.find? (fun f => f.id == id) with
  | some f => some f
  | none => j.futures.find? (fun f => f.id == id)

/-- The stream entry of a part as a round sees it. -/
def Round.stream? (r : Round) (d : Dev) (job : Nat) (who : PartId) : Option StreamEntry :=
  match r.streams.find? (fun s => s.id == who.id && s.host == who.host) with
  | some s => some s
  | none => (d.streams.find? (fun s => s.2.job == job && s.2.id == who.id && s.2.host == who.host)).map Prod.snd

/-- The directory of a stream entry as a round sees it. -/
def Round.directory (r : Round) (d : Dev) (s : StreamEntry) : List Nat :=
  match s.dir with
  | some n => (tget r.dirs n).getD (tgetD d.dirs n [])
  | none => []

/-- Does a part hold a page or a state object that satisfies a test, in an attention or a recurrent layer of a list? -/
def Round.partHas (r : Round) (d : Dev) (j : Job) (who : PartId) (att recs : List Nat) (page : PageFrame → Bool)
    (obj : StateObj → Bool) : Bool :=
  let pages := if who.host then []
    else ((r.future? j who.id).map (fun f => att.flatMap (fun l => (f.kv.getD l {}).pages))).getD []
  pages.any (fun n => page (r.page d n)) ||
    ((r.stream? d j.id who).map (fun s =>
      let dir := r.directory d s
      recs.any (fun l => (dir[l]?).any (fun n => obj (d.obj n))))).getD false

/-- The spilled pages a part holds in an attention layer (R155). -/
def Round.spilledPages (r : Round) (d : Dev) (j : Job) (layer : Nat) (who : PartId) : List Nat :=
  if who.host then []
  else match r.future? j who.id with
    | some f => (f.kv.getD layer {}).pages.filter (fun n => decide ((r.page d n).state = .spilled))
    | none => []

/-! ### What the work of a round touches (R273) -/

/-- Is a tensor operand a STREAMED weight of the image (R261)? -/
def streamedRef (p : Program) (im : Image) (h : Nat) : Bool :=
  ((p.tensor? h).filter (fun t => t.cls == 0)).any (fun t => (im.entries[t.ref]?).any ImageEntry.streamed)

/-- Has a job's round an imagined phase (R226)? -/
def Job.imagines (j : Job) : Bool := phaseBatch j.prog j.batch .imagined != 0

/-- The operators a round's work touches, by the phases it has. -/
def Round.opsTouched (r : Round) (j : Job) : List OpDesc :=
  j.prog.ops.filter (fun o => (r.obsSteps != 0 && o.active .observed) || (j.imagines && o.active .imagined))

/-- The operators a round has still to run or to complete. -/
def Round.opsAhead (r : Round) (j : Job) : List OpDesc :=
  let p := j.prog
  if r.ready || !r.closing.isEmpty then []
  else
    let now := r.insts.filterMap (fun x => if x.state = .done then none else p.ops[x.op]?)
    let step := if r.inStep then r.step + 1 else r.step
    let obs := if decide (r.phase = .observed) && decide (step < r.obsSteps) then p.ops.filter (fun o => o.active .observed) else []
    let img := if j.imagines && (decide (r.phase = .observed) || decide (step < p.hdr.s)) then
        p.ops.filter (fun o => o.active .imagined) else []
    now ++ obs ++ img

/-- An operator of a program by number. -/
def Program.op (p : Program) (n : Nat) : OpDesc := p.ops.getD n (OpDesc.ofNat 0)

/-- The problems of an instance at its present stage. -/
def Inst.probs (x : Inst) (p : Program) (ph : Phase) (nb : Nat) : List IProb :=
  let o := p.op x.op
  stageProblems p o ph nb x.counts (o.stages.getD x.stage .finish)

/-- The tensors an operator names. -/
def OpDesc.tensors (o : OpDesc) : List Nat :=
  [o.srcA, o.srcW, o.src2, o.vec, o.dst, o.count].filter (fun h => h != 0xFFFF)

/-- Does an operator read a weight tensor of an image whose placed slices satisfy a test? -/
def OpDesc.readsSlice (o : OpDesc) (p : Program) (im : Image) (test : WeightSlice → Bool) : Bool :=
  o.tensors.any (fun h => ((p.tensor? h).filter (fun t => t.cls == 0)).any (fun t => (im.slices.getD t.ref []).any test))

/-- A failure of a loss in a round; one that was decided before completes DATA_LOST (R57). -/
def Round.loses (r : Round) (who : Option PartId) (c : Code) (t : Tns) (maskBit : Nat) : Round :=
  if r.decided then (if c = .dataLost && !r.lost.contains maskBit then { r with lost := r.lost ++ [maskBit] } else r)
  else r.fail who c t maskBit

/-- The failures a loss gives a round, by what its work touches: DATA_LOST for lost tensors, for sorters' keys and for each
part whose pages, recall buffer or state are lost; FENCED_CAPACITY for lost weights it still needs (R57, R167, R273,
R278, R223).
[notes/assumptions 85 DEDUCED, unsafe] -/
def Dev.lossFailures (d : Dev) (lost : Space → Nat → Nat → Bool) (maskBit : Nat) (j : Job) (r : Round) : Round :=
  let lines (s : Nat) (la n : Nat) : Bool := lost (.stack s) la n
  let p := j.prog
  let touched := r.opsTouched j
  let ahead := r.opsAhead j
  let handles := (touched.flatMap OpDesc.tensors).eraseDups
  let gone := handles.filter (fun h => ((j.homes[h]?).join).any (fun t => t.hit lost))
  let shared := gone.any (fun h => !((p.tensor? h).map Tensor.perFuture).getD false)
  let im := tget d.images j.imageNo
  let r1 := if shared || r.insts.any (fun x => decide (x.state = .running) && x.sorts.any (fun s =>
        lost (.cache s.region) 0 cacheLines)) ||
      (j.streamBuf.any (fun b => lines b.1 b.2 (256 * 8192)) && im.any (fun i => ahead.any (fun o => o.tensors.any (streamedRef p i))))
    then r.loses none .dataLost d.now maskBit else r
  let r2 := if im.any (fun i => ahead.any (fun o => o.readsSlice p i (fun s => !s.lost && lines s.stack s.la s.lines)))
    then r1.loses none .fencedCapacity d.now maskBit else r1
  let att := ((touched.filter (fun o => o.cls == 1 || o.cls == 2)).map OpDesc.attLayer).eraseDups
  let recs := ((touched.filter (fun o => o.cls == 3)).map OpDesc.recLayer).eraseDups
  let buffers := att.filter (fun l => (j.kvHomes[l]?).any (fun h =>
    h.spilled && !h.lost && lines (h.homeStacks.headD 0) h.recallBase recallLines))
  r.takers.foldl (fun acc who =>
    if !gone.isEmpty || buffers.any (fun l => !(r.spilledPages d j l who).isEmpty) || r.partHas d j who att recs
        (fun f => (decide (f.state = .resident) || decide (f.state = .spilling)) && lines f.stack f.loc f.lines)
        (fun o => (decide (o.loc = .resident) || decide (o.loc = .evicting)) && lines o.stack o.addr o.lines)
    then acc.loses (some who) .dataLost d.now maskBit else acc) r2

/-- The parts of a round that read what was lost before it (R167, R199): pages and states, and pages behind a recall buffer
that has no new home. A stream whose first token resets it reads none. -/
def Dev.staleParts (d : Dev) (j : Job) (r : Round) : List PartId :=
  let touched := r.opsTouched j
  let att := ((touched.filter (fun o => o.cls == 1 || o.cls == 2)).map OpDesc.attLayer).eraseDups
  let recs := ((touched.filter (fun o => o.cls == 3)).map OpDesc.recLayer).eraseDups
  r.takers.filter (fun w =>
    !(w.host && r.resets.any (fun x => x.1 == w.id && x.2.1 == 0)) &&
      (r.partHas d j w att recs (fun f => decide (f.state = .lost)) (fun o => decide (o.loc = .lost)) ||
        att.any (fun l => (j.kvHomes[l]?).any KvHome.lost && !(r.spilledPages d j l w).isEmpty)))

/-- Everything a test calls lost becomes LOST (R273, R274); a state whose home is Stratus is not, though the block that names
its objects is (R199).
[notes/assumptions 134 DEDUCED, unsafe] -/
def Eff.lose (e : Eff) (lost : Space → Nat → Nat → Bool) (maskBit : Nat) : Eff :=
  let e1 := e.mod (fun d => { d with
    jobs := d.jobs.map (fun j =>
      (j.1, { j.2 with round := j.2.round.map (fun r => d.lossFailures lost maskBit j.2 r) })) })
  let pages := (e1.dev.pageFrames.filter (fun f =>
    (decide (f.2.state = .resident) || decide (f.2.state = .spilling)) && lost (.stack f.2.stack) f.2.loc f.2.lines)).map
      Prod.fst
  let dirs := e1.dev.lostDirs lost
  let named := dirs.flatMap (fun n => tgetD e1.dev.dirs n [])
  let objs := (e1.dev.stateObjs.filter (fun o =>
    (decide (o.2.loc = .resident) || decide (o.2.loc = .evicting)) &&
      (named.contains o.1 || lost (.stack o.2.stack) o.2.addr o.2.lines))).map Prod.fst
  let e2 := (objs.foldl Eff.loseObj (pages.foldl Eff.losePage e1)).loseDirs dirs
  ((((((e2.loseStreams lost).loseBoxes lost).loseObjects lost).loseWeights lost).loseHomes lost).rehomeLayers lost).mod (fun d =>
    { d with repairs := d.repairs.filter (fun x => !lost (.stack x.1) x.2 1) })

/-! ### A region or a stack leaves service -/

/-- The test of a region's loss. -/
def inRegion (r : Nat) : Space → Nat → Nat → Bool
  | .stack k, _, _ => k / 2 == r
  | .cache c, _, _ => c == r
  | .stratus, _, _ => false

/-- Sudden loss of a region (R273, R474): its units stop, its stacks leave service with their data, and
guaranteed jobs that held units there are re-admitted at the next boundary.
[notes/assumptions 134 DEDUCED, unsafe] -/
def Eff.loseRegion (e : Eff) (r : Nat) : Eff :=
  if (e.dev.region r).outOfService then e
  else
    let cells := (List.range 64).map (· + r * 64)
    let engines := (List.range 32).map (· + r * 32)
    let e1 := e.mod (fun d => (cells.foldl Dev.stopAndReissue d).markFenced (fun _ x => x.cells.any (fun n => n / 64 == r)))
    let e2 := e1.mod (fun d => engines.foldl Dev.stopSlice d)
    let e3 := e2.lose (inRegion r) r
    let e4 := e3.mod (fun d =>
      ((d.modRegion r (fun x => { x with
        outOfService := true, draining := false, takeover := false, wcb := [], cached := [], levelTwo := [], sorter := {} })).modStack (2 * r)
          (fun x => { x with outOfService := true, window := none })).modStack (2 * r + 1)
          (fun x => { x with outOfService := true, window := none }))
    let e5 := e4.mod (fun d => (d.markReadmit (fun j =>
      j.grant.cells.any (fun n => n / 64 == r) || j.usesStack (2 * r) || j.usesStack (2 * r + 1) ||
        j.grant.sorters.contains r)).moveRanges)
    (e5.rehomeLayers (inRegion r)).mod (fun d =>
      { d.capacityOf (regionUnit r) 5 with removals := d.removals.filter (fun x => x.unit != regionUnit r) })

/-- The test of a channel fence: a datum with a line in a newly fenced channel, at or above Λ, or at a
location the new map changes (R295). A datum of 32 lines or more has a line in every channel.
[notes/assumptions 135 DEDUCED, unsafe] -/
def channelHit (stack : Nat) (old new : List Nat) : Space → Nat → Nat → Bool
  | .stack k, la, n =>
    k == stack && (decide (32 ≤ n) || (List.range n).any (fun i =>
      let l := la + i
      (new.contains (laChannel l) && !old.contains (laChannel l)) ||
        decide (usableLines (32 - new.length) ≤ l) || mapLine new l != mapLine old l))
  | _, _, _ => false

/-- A stack leaves service with its data and its engines (R297). -/
def Eff.loseStack (e : Eff) (k : Nat) : Eff :=
  let test : Space → Nat → Nat → Bool := fun s _ _ => decide (s = .stack k)
  let e1 := e.mod (fun d => ((List.range 16).map (· + k * 16)).foldl (fun acc n =>
    acc.stopSlice n) d)
  let e2 := (e1.lose test (k / 2)).mod (fun d => d.modStack k (fun x => { x with outOfService := true, window := none }))
  (e2.rehomeLayers test).mod (fun d => d.markReadmit (fun j => j.usesStack k))

/-- The line slots of a channel that leaves service leave every grant on its stack (R274).
[notes/assumptions 180 DEDUCED, unsafe] -/
def Dev.fewerSlots (d : Dev) (k : Nat) : Dev :=
  let ch := 32 - (d.stack k).fenced.length
  let left (n : Nat) : Nat := max 1 (n * ch / (ch + 1))
  { d with jobs := d.jobs.map (fun j =>
      let had := tgetD j.2.grant.slots k 0
      (j.1, if had = 0 then j.2 else { j.2 with
        slotLoss := tset j.2.slotLoss k (tgetD j.2.slotLoss k 0 + (had - left had))
        grant := { j.2.grant with slots := tset j.2.grant.slots k (left had) } })) }

/-- A channel fenced at the end of its retraining (R295, R274, R297).
[notes/assumptions 135 DEDUCED, unsafe] -/
def Eff.fenceChannel (e : Eff) (k c : Nat) : Eff :=
  let old := (e.dev.stack k).fenced
  if old.contains c then e
  else
    let new := insertBy (fun a b => decide (a < b)) c old
    let e1 := (e.lose (channelHit k old new) (k / 2)).mod (fun d =>
      (((d.modStack k (fun x => { x with fenced := new })).fewerSlots k).markReadmit (fun j => j.usesStack k)).capacityEvent 5 4
        (k * 32 + c))
    if 8 < new.length then e1.loseStack k else e1

end Sys2Proof.Machine
end

