-- ==== Sys2Proof/Machine/Pins.lean ====
section
/-!
DEFINITION. Sky pins (R412, R547 to R552): function changes, the safe-state input, and what a change means
for the timing source and for cause [8].
-/

namespace Sys2Proof.Machine

/-- Is a sky pin the selected timing input, feeding the source (R548)? -/
def Dev.pinFeeds (d : Dev) (n : Nat) : Bool := (d.source == 2 || d.source == 3) && d.timingPin == n + 1 && d.feeds

/-- Cause [8] follows the SAFE_STATE_IN pins that read low (R478, R486).
[notes/assumptions 154 DEDUCED, unsafe] -/
def Eff.pinHigh (e : Eff) (n : Nat) : Eff :=
  let l := e.dev.support.pinsLow.filter (· != n)
  let was := e.dev.support.pinsLow.contains n
  let e1 := e.mod (fun d => { d with support := { d.support with pinsLow := l } })
  if was && l.isEmpty then { e1 with safety := e1.safety ++ [.clear 8] } else e1

/-- The change sequence starts (R550): the old function releases the pin (R551). -/
def Eff.pinRelease (e : Eff) (n f : Nat) : Eff :=
  let feeding := e.dev.pinFeeds n
  let e1 := if (e.dev.pin n).function = 7 then e.pinHigh n else e
  let e2 := if feeding then e1.mod Dev.loseSource else e1
  e2.mod (fun d => d.modPin n (fun x => { x with changing := some (f, d.now) }))

/-- An accepted function write of another function: a change at once, or after the one in progress (R412).
[notes/assumptions 154 DEDUCED, unsafe] -/
def Eff.pinFunction (e : Eff) (n f : Nat) : Eff :=
  if (e.dev.pin n).changing.isSome then e.mod (fun d => d.modPin n (fun x => { x with queued := x.queued ++ [f] }))
  else e.pinRelease n f

/-- SKY_PIN_TAKE: 2,560 tns after the first reference edge, which lies 1 to 40 tns after the write, the new
function takes the pin (R550); a queued write then runs its own sequence.
[notes/assumptions 67 DESIGN CHOICE, safe] -/
def Dev.pinTake (d : Dev) (n : Nat) : Eff :=
  match (d.pin n).changing with
  | none => d.eff
  | some (f, t0) =>
    let r := d.free
    let d1 := r.2.advance (t0 + 2561 + r.1 % 40)
    let d2 := d1.modPin n (fun x => { x with function := f, since := d1.now, changing := none, acceptedHigh := true })
    let d3 := if d2.pinFeeds n then
        { d2 with time := { d2.time with
            gridOrigin := none, gridEdges := 0, ignoredRow := 0, lastEdge := none, selectedAt := d2.now } }
      else d2
    match (d3.pin n).queued with
    | [] => d3.eff
    | g :: rest => (d3.modPin n (fun x => { x with queued := rest })).eff.pinRelease n g

/-- A level held at a sky pin for 25 samples: on a SAFE_STATE_IN pin low raises cause [8], high ends this
pin's part in it (R478).
[notes/assumptions 154 DEDUCED, unsafe] -/
def Dev.pinLevelHeld (d : Dev) (n : Nat) (high : Bool) : Eff :=
  let d1 := d.modPin n (fun x => { x with outside := some high })
  if (d.pin n).function != 7 || (d.pin n).changing.isSome then d1.eff
  else
    let d2 := d1.modPin n (fun x => { x with acceptedHigh := high })
    if high then d2.eff.pinHigh n
    else if d.support.pinsLow.contains n then d2.eff
    else ({ d2 with support := { d2.support with pinsLow := d2.support.pinsLow ++ [n] } } : Dev).raise 8 0xFFFF |>.eff

/-- SKY_PIN_TAKE. -/
def execSkyPinTake (pin : Fin 8) (s : State) : Host.Outcome State Fault Refusal := s.done (s.dev.pinTake pin)

/-- SAFE_STATE_IN. -/
def execSafeStateIn (pin : Fin 8) (high : Bool) (s : State) : Host.Outcome State Fault Refusal :=
  s.done (s.dev.pinLevelHeld pin high)

end Sys2Proof.Machine
end

