-- ==== Sys2Proof/Machine/Ageing.lean ====
section
/-!
DEFINITION. Ageing monitors and the re-plan (R487 to R497): readings, triggers, guard bands, margin
fences, refresh intervals, the planned clock and the stored plan.
-/

namespace Sys2Proof.Machine

/-! ### Readings (R487, R488) -/

/-- Code of a unit in 0x6000.08 (R488). -/
def patternUnitCode : PatternUnit → Nat
  | .cell n => cellUnit n
  | .engine k e => engineUnit (k.val * 16 + e.val)

/-- One replica reading. -/
def Dev.setDelay (d : Dev) (r : PatternUnit × Nat) : Dev :=
  match r.1 with
  | .cell n => d.modCell n (fun c => { c with delay := r.2 })
  | .engine k e => d.modEngine (k.val * 16 + e.val) (fun c => { c with delay := r.2 })

/-- The largest delay of any unit and the unit it is of. -/
def Dev.worst (d : Dev) : Dev :=
  let l := (d.cells.map (fun c => (c.2.delay, cellUnit c.1))) ++ (d.engines.map (fun c => (c.2.delay, engineUnit c.1)))
  match argMax Prod.fst l with
  | some w => { d with ageing := { d.ageing with worstDelay := min 65535 w.1, worstUnit := w.2 } }
  | none => d

/-- Replica readings taken. -/
def Dev.readDelays (d : Dev) (l : List (PatternUnit × Nat)) : Dev := (l.foldl Dev.setDelay d).worst

/-- Does a delay in ps keep the rule of R487 at a clock in MHz: d ≤ 0.92 of the cycle time? -/
def delayOk (delay mhz : Nat) : Bool := decide (delay * mhz ≤ 920000)

/-- Clock of the Cirrus engines in MHz (R117). -/
def engineMhz : Nat := 1000

/-- In-service cells of a region that break the rule at a clock. -/
def Dev.slowCells (d : Dev) (mhz : Nat) : List Nat :=
  d.cellsUp.filter (fun n => !delayOk (d.cell n).delay mhz)

/-- In-service engines that break the rule. -/
def Dev.slowEngines (d : Dev) : List Nat :=
  d.enginesUp.filter (fun n => !delayOk (d.engine n).delay engineMhz)

/-- A trigger of R489: it starts a re-plan, joins the one in progress, or asks for one at the pending
boundary. -/
def Dev.replanTrigger (d : Dev) : Dev :=
  match d.ageing.state with
  | 0 => { d with ageing := { d.ageing with state := 1 } }
  | 1 => d
  | _ => { d with ageing := { d.ageing with again := true } }

/-- REPLICA_READ: a reading that breaks the rule at the planned clock is a trigger. -/
def Dev.replicaRead (d : Dev) (l : List (PatternUnit × Nat)) : Dev :=
  let d1 := d.readDelays l
  if (d1.slowCells d1.ageing.planned).isEmpty && d1.slowEngines.isEmpty then d1 else d1.replanTrigger

/-- Ring-oscillator losses: regions 0 to 5, then base dies S0 to S11, in 0.01 %. -/
def Dev.setLosses (d : Dev) (l : List Nat) : Dev :=
  let d1 := (List.range 6).foldl (fun acc r =>
    if r < l.length then acc.modRegion r (fun x => { x with oscLoss := l.getD r 0 }) else acc) d
  (List.range 12).foldl (fun acc k =>
    if 6 + k < l.length then acc.modStack k (fun x => { x with oscLoss := l.getD (6 + k) 0 }) else acc) d1

/-- RING_OSCILLATOR_READ: a rise of 50 since the last re-plan is a trigger.
[notes/assumptions 163 DEDUCED, unsafe] -/
def Dev.oscillatorRead (d : Dev) (l : List Nat) : Dev :=
  let d1 := d.setLosses l
  if d1.regions.any (fun r => decide (r.2.oscAtReplan + 50 ≤ r.2.oscLoss)) ||
      d1.stackTab.any (fun k => decide (k.2.oscAtReplan + 50 ≤ k.2.oscLoss)) then d1.replanTrigger else d1

/-- Does a channel's retention keep its rule: at least 4 times its refresh interval (R487)? A channel with
no reading is not judged (R576). -/
def Stack.retentionOk (k : Stack) (c : Nat) : Bool :=
  match tget k.retention c with
  | some ms => decide (4 * k.refreshOf c ≤ ms)
  | none => true

/-- RETENTION_READ. -/
def Dev.retentionRead (d : Dev) (k c ms : Nat) : Dev :=
  let d1 := d.modStack k (fun x => { x with retention := tset x.retention c ms })
  if (d1.stack k).retentionOk c then d1 else d1.replanTrigger

/-- EYE_READ: the narrowest width; lanes below 0.200 UI are re-tuned at the next link recovery (R493).
[notes/assumptions 164 DEDUCED, unsafe] -/
def Dev.eyeRead (d : Dev) (n : Nat) (w : List Nat) : Dev :=
  if !(d.port n).linkUp || w.isEmpty then d
  else d.modPort n (fun x =>
    { x with
      eye := w.foldl min (w.headD 0)
      retune := (List.range w.length).filter (fun i => decide (w.getD i 0 < 200)) })

/-! ### The re-plan (R490 to R493) -/

/-- Guard-band limit 0x6002.01.
[notes/assumptions 162 DEDUCED, unsafe] -/
def Dev.guardLimit (d : Dev) : Nat := d.forceAt 0x6002 1

/-- Floor clock 0x6000.02.
[notes/assumptions 162 DEDUCED, unsafe] -/
def Dev.floorClock (d : Dev) : Nat := d.forceAt 0x6000 2

/-- Guard band of a die: 0 to 5 a region, 6 to 17 a base die. -/
def Dev.guardOf (d : Dev) (u : Nat) : Nat := if u < 6 then (d.region u).guard else (d.stack (u - 6)).guard

/-- Does some unit of a die break the replica rule? -/
def Dev.dieSlow (d : Dev) (u : Nat) : Bool :=
  if u < 6 then (d.slowCells d.ageing.planned).any (fun n => n / 64 == u)
  else d.slowEngines.any (fun n => n / 16 == u - 6)

/-- One guard-band step of 5 mV: 2 ms, then the readings again. -/
def Dev.guardStep (d : Dev) (u : Nat) (o : ReplanObs) : Dev :=
  let d1 := if u < 6 then d.modRegion u (fun x => { x with guard := x.guard + 5 })
    else d.modStack (u - 6) (fun x => { x with guard := x.guard + 5 })
  ({ d1 with now := d1.now + 2000000 } : Dev).readDelays o.delays

/-- The guard-band loop of R490 over the dies from `u` on, each step taking the next readings; `fuel` bounds
the number of steps and dies. -/
def Dev.guardLoop : Nat → Dev → Nat → List ReplanObs → Dev × List Nat
  | 0, d, _, _ => (d, [])
  | fuel + 1, d, u, obs =>
    if 18 ≤ u then (d, [])
    else if d.dieSlow u && d.guardOf u + 5 ≤ d.guardLimit then
      let r := Dev.guardLoop fuel (d.guardStep u (obs.headD { delays := [] })) u obs.tail
      (r.1, u :: r.2)
    else Dev.guardLoop fuel d (u + 1) obs

/-- Largest multiple of 25 MHz, at most 1,600, at which a delay keeps the rule. -/
def neededClock (delay : Nat) : Nat := if delay = 0 then 1600 else min 1600 (920000 / delay / 25 * 25)

/-- Largest delay of in-service cells outside a list. -/
def Dev.worstCell (d : Dev) (without : List Nat) : Nat :=
  maxNat ((d.cellsUp.filter (fun n => !without.contains n)).map (fun n => (d.cell n).delay))

/-- The planned clock a re-plan decides without some cells (R490); `raise` lets it rise (R497). -/
def Dev.newClock (d : Dev) (without : List Nat) (raise : Bool) : Nat :=
  let f := max (neededClock (d.worstCell without)) d.floorClock
  if raise then min 1600 f else min d.ageing.planned f

/-- The cells that get a margin fence (R491): every slow cell when all fit in 0x6000.3D, else those slow at
the floor clock. -/
def Dev.marginCells (d : Dev) : List Nat :=
  let slow := d.slowCells d.ageing.planned
  if slow.length ≤ d.forceAt 0x6000 0x3D then slow else d.slowCells d.floorClock

/-- A unit gets a margin mark and a planned fence (R491, R492). -/
def Dev.marginFence (d : Dev) (p : PatternUnit) : Dev :=
  match p with
  | .cell n => (d.modCell n (fun c => { c with margin := true })).planRemoval (cellUnit n) 1
  | .engine k e =>
    (d.modEngine (k.val * 16 + e.val) (fun c => { c with margin := true })).planRemoval (engineUnit (k.val * 16 + e.val)) 1

/-- Marked cells whose rule a clock meets, and marked engines whose die took a guard-band step and whose
reading meets the rule, lose their mark and return at the next boundary (R491, R492). -/
def Dev.marginReturn (d : Dev) (clock : Nat) (stepped : List Nat) : Dev :=
  let cs := (d.cells.filter (fun c => c.2.margin && c.2.fenced && delayOk c.2.delay clock)).map Prod.fst
  let es := (d.engines.filter (fun c =>
    c.2.margin && c.2.fenced && stepped.contains (6 + c.1 / 16) && delayOk c.2.delay engineMhz)).map Prod.fst
  let d1 := cs.foldl (fun acc n => (acc.modCell n (fun c => { c with margin := false })).modRegion (n / 64)
    (fun r => { r with passed := r.passed ++ [cellUnit n] })) d
  es.foldl (fun acc n => (acc.modEngine n (fun c => { c with margin := false })).modRegion (n / 32)
    (fun r => { r with passed := r.passed ++ [engineUnit n] })) d1

/-- Refresh intervals halved where retention breaks its rule; at 8 ms the patrol scrub runs hourly (R493). -/
def Stack.replanRefresh (k : Stack) : Stack :=
  (List.range 32).foldl (fun acc c =>
    if acc.retentionOk c then acc
    else if acc.refreshOf c ≤ 8 then
      { acc with hourlyScrub := if acc.hourlyScrub.contains c then acc.hourlyScrub else acc.hourlyScrub ++ [c] }
    else { acc with refresh := tset acc.refresh c (acc.refreshOf c / 2) }) k

/-- The plan as it stands (R496). -/
def Dev.planNow (d : Dev) (clock : Nat) : Plan :=
  { clock := clock, gen := d.ageing.planGen
    guardRegions := (List.range 6).map (fun r => (d.region r).guard)
    guardStacks := (List.range 12).map (fun k => (d.stack k).guard)
    refresh := d.stackTab.flatMap (fun k => k.2.refresh.map (fun c => (k.1 * 32 + c.1, c.2)))
    markCells := (d.cells.filter (fun c => c.2.margin)).map Prod.fst
    markEngines := (d.engines.filter (fun c => c.2.margin)).map Prod.fst }

/-- The plan in force among the copies. -/
def Ageing.stored (a : Ageing) : Option Plan :=
  match a.planA, a.planB with
  | some x, some y => if x.gen ≤ y.gen then some y else some x
  | some x, none => some x
  | none, y => y

/-- The plan written into the copy that does not hold the present generation, if it changed and Stratus can
be written (R496, R498). -/
def Dev.writePlan (d : Dev) (clock : Nat) : Dev :=
  let p := d.planNow clock
  if d.ageing.stored.any (fun q => decide ({ q with gen := 0 } = { p with gen := 0 })) || d.stratus.state == 2 then d
  else
    let g := d.ageing.planGen + 1
    let q := { p with gen := g }
    let inA := d.ageing.planA.any (fun x => x.gen == d.ageing.planGen)
    { d with ageing :=
        if inA then { d.ageing with planB := some q, planGen := g } else { d.ageing with planA := some q, planGen := g } }

/-- Number of the first tick boundary at or after an instant. -/
def Dev.boundaryAfter (d : Dev) (t : Tns) : Nat :=
  d.tick.tick + 1 + ceilDiv (t - d.tick.next) d.periodTns

/-- REPLAN_DECISION (R490, R495). -/
def Dev.replanDecide (d : Dev) (steps : List ReplanObs) : Dev :=
  if d.ageing.state != 1 then d
  else
    let before := (List.range 6).map (fun r => (d.region r).guard)
    let g := Dev.guardLoop 400 d 0 steps
    let d1 := g.1
    let raise := d1.ageing.raiseOnce
    let fences := d1.marginCells
    let clock := d1.newClock fences raise
    let d2 := fences.foldl (fun acc n => acc.marginFence (.cell ⟨n % 384, Nat.mod_lt _ (by decide)⟩)) d1
    let d3 := d2.slowEngines.foldl (fun acc n =>
      acc.marginFence (.engine ⟨n / 16 % 12, Nat.mod_lt _ (by decide)⟩ ⟨n % 16, Nat.mod_lt _ (by decide)⟩)) d2
    let d4 := d3.marginReturn clock g.2
    let d5 : Dev := { d4 with
      stackTab := d4.stackTab.map (fun k => (k.1, k.2.replanRefresh))
      stratus := { d4.stratus with
        blocks := d4.stratus.blocks.map (fun b => (b.1, if 3000 < b.2.erases then { b.2 with third := true } else b.2)) }
      regions := d4.regions.map (fun r => (r.1, { r.2 with oscAtReplan := r.2.oscLoss })) }
    let d6 : Dev := { d5 with stackTab := d5.stackTab.map (fun k => (k.1, { k.2 with oscAtReplan := k.2.oscLoss })) }
    let d7 := d6.writePlan clock
    let guards := (List.range 6).map (fun r => (d7.region r).guard)
    let change := decide (clock ≠ d7.ageing.planned)
    let due := d7.now + 10000000
    let k := d7.boundaryAfter due
    let d8 : Dev := { d7 with ageing := { d7.ageing with
      state := if change then 2 else 0
      pendingClock := if change then some (clock, due, k) else none
      raiseOnce := false, lastTick := d7.tick.tick, lastAt := d7.now } }
    if change || decide (guards ≠ before) then
      d8.notify none d8.createdParts
        (.replan clock d7.ageing.planned (if change then k else d7.tick.tick) guards)
    else d8

/-- REPLAN_INTERVAL: 0x6000.03 hours after the last re-plan (R489). -/
def Dev.replanInterval (d : Dev) : Dev :=
  (d.advance (d.ageing.lastAt + d.forceAt 0x6000 3 * 3600000000000)).replanTrigger

/-- REPLAN_AFTER_START: the re-plan within 60 s of ready that R497 asks for. -/
def Dev.replanAfterStart (d : Dev) : Dev :=
  match d.start.replanDue with
  | none => d
  | some _ => ({ d with start := { d.start with replanDue := none } } : Dev).replanTrigger

/-- REPLICA_READ. -/
def execReplicaRead (delays : List (PatternUnit × Nat)) (s : State) : Host.Outcome State Fault Refusal :=
  s.done (s.dev.replicaRead delays).eff

/-- RING_OSCILLATOR_READ. -/
def execRingOscillatorRead (losses : List Nat) (s : State) : Host.Outcome State Fault Refusal :=
  s.done (s.dev.oscillatorRead losses).eff

/-- RETENTION_READ. -/
def execRetentionRead (stack : Fin 12) (channel : Fin 32) (ms : Nat) (s : State) : Host.Outcome State Fault Refusal :=
  s.done (s.dev.retentionRead stack channel ms).eff

/-- EYE_READ. -/
def execEyeRead (port : Fin 4) (widths : List Nat) (s : State) : Host.Outcome State Fault Refusal :=
  s.done (s.dev.eyeRead port widths).eff

/-- REPLAN_INTERVAL. -/
def execReplanInterval (s : State) : Host.Outcome State Fault Refusal := s.done s.dev.replanInterval.eff

/-- REPLAN_DECISION. -/
def execReplanDecision (steps : List ReplanObs) (s : State) : Host.Outcome State Fault Refusal :=
  s.done (s.dev.replanDecide steps).eff

/-- REPLAN_AFTER_START. -/
def execReplanAfterStart (s : State) : Host.Outcome State Fault Refusal := s.done s.dev.replanAfterStart.eff

end Sys2Proof.Machine
end

