-- ==== Sys2Proof/Machine/Store.lean ====
section
/-!
DEFINITION. Stored configuration (R415, R416), requested resets (R526) and firmware banks (R531, R532), as
the effects of writes of their command objects.
-/

namespace Sys2Proof.Machine

/-! ### Stored configuration -/

/-- Does a stored copy hold an object: RWS, apart from 0x9010, in the block of a CREATED partition (R415)? -/
def Dev.storable (d : Dev) (idx sub : Nat) : Bool :=
  (objInfo idx sub).any (fun i => i.acc == .rws) && idx != 0x9010 &&
    (!inPartArea idx || d.pconf (partOfIndex idx) 0 1 == 1)

/-- Every stored object, in ascending index and subindex. -/
def Dev.storableKeys (d : Dev) : List (Nat × Nat) :=
  allIndexes.flatMap (fun i => ((subsOf i).filter (d.storable i)).map (fun sub => (i, sub)))

/-- A snapshot of every configured stored value (R415 step 1). -/
def Dev.snapshot (d : Dev) (generation epoch : Nat) : StoredCopy :=
  let ks := d.storableKeys
  { epoch := epoch, generation := generation
    values := (ks.filter (fun k => decide ((objInfo k.1 k.2).map ObjInfo.ty ≠ some .str))).map
      (fun k => (objKey k.1 k.2, d.confAt k.1 k.2))
    names := (ks.filter (fun k => decide ((objInfo k.1 k.2).map ObjInfo.ty = some .str))).map
      (fun k => (objKey k.1 k.2, (d.part (partOfIndex k.1)).name)) }

/-- Is a command under way (R415)? -/
def Dev.storeBusy (d : Dev) : Bool := d.store.result == 1

/-- STORE, and REBASE with generation 1 and the next epoch: the write starts, or the tier refuses it (R415,
R416).
[notes/assumptions 63 DESIGN CHOICE, safe] -/
def Dev.startStore (d : Dev) (rebase : Bool) : Dev :=
  if d.stratus.state = 2 then { d with store := { d.store with result := 4 } }
  else
    let c := if rebase then d.snapshot 1 (d.store.epoch + 1) else d.snapshot (d.store.generation + 1) d.store.epoch
    { d with store := { d.store with result := 1, writing := some c } }

/-- Is a STORE or REBASE refused at the last generation or epoch (R416)?
[notes/assumptions 64 DEDUCED, unsafe] -/
def Dev.storeExhausted (d : Dev) (rebase : Bool) : Bool :=
  if rebase then d.store.epoch == 65535 else d.store.generation == 2 ^ 32 - 1

/-- CONFIG_STORE_DURABLE (R415 step 3): the copy is durable and read back; its size in bytes is a free value,
since no layout is given.
[notes/assumptions 63 DESIGN CHOICE, safe; 64 DEDUCED, unsafe] -/
def Dev.storeDurable (d : Dev) (ok : Bool) : Dev :=
  match d.store.writing with
  | none => d
  | some c =>
    if !ok then { d with store := { d.store with result := 4, writing := none } }
    else
      let toB := d.store.inForce == 1
      let r := d.free
      { r.2 with store := { d.store with
        copyA := if toB then d.store.copyA else some c
        copyB := if toB then some c else d.store.copyB
        inForce := if toB then 2 else 1
        generation := c.generation, epoch := c.epoch, result := 2, writing := none
        storedTai := d.tai.getD 0, bytes := r.1 % 2 ^ 32 } }

/-! ### Backup domain (R513) -/

/-- The monotonic counter has reached its end: what it counts is refused (R513). -/
def Dev.monotonicFull (d : Dev) : Bool := d.backup.monotonic == 2 ^ 64 - 1

/-- The monotonic counter one higher, saturating (R513). -/
def Dev.countMonotonic (d : Dev) : Dev :=
  { d with backup := { d.backup with monotonic := min (d.backup.monotonic + 1) (2 ^ 64 - 1) } }

/-! ### Firmware (R531, R532) -/

/-- BEGIN: the install buffer is empty.
[notes/assumptions 65 DEDUCED, unsafe] -/
def Dev.firmwareBegin (d : Dev) : Dev :=
  { d with start := { d.start with install := 1, received := [], staged := none, stagedVersion := 0 } }

/-- A chunk at the offset received so far (R531 step 2). -/
def Dev.firmwareChunk (d : Dev) (v : Bytes) : Option Dev :=
  if d.start.install = 1 ∧ leAt v 0 8 = d.start.received.length then
    some { d with start := { d.start with received := d.start.received ++ v.drop 8 } }
  else none

/-- Does a received image verify: signature, size of at most 256 MiB, security version against the floor
(R531 step 3)? -/
def Dev.imageOk (d : Dev) : Bool :=
  Config.signatureOk d.start.received && decide (d.start.received.length ≤ 268435456) &&
    decide (d.backup.floor ≤ (Config.imageSecurity d.start.received).toNat)

/-- COMMIT: the bank not in force is written and STAGED, or the image is REJECTED (R531). -/
def Dev.firmwareCommit (d : Dev) : Dev :=
  if !d.imageOk then { d with start := { d.start with install := 4 } }
  else
    let b : Bank := { version := (Config.imageVersion d.start.received).toNat
                      security := (Config.imageSecurity d.start.received).toNat }
    let t := if d.start.bank = 0 then 1 else 0
    { d with start := { d.start with
        bankA := if t = 0 then b else d.start.bankA
        bankB := if t = 1 then b else d.start.bankB
        staged := some t, install := 3, stagedVersion := b.version } }.countMonotonic

/-- CANCEL: the install is given up.
[notes/assumptions 65 DEDUCED, unsafe] -/
def Dev.firmwareCancel (d : Dev) : Dev :=
  { d with start := { d.start with install := 0, received := [], staged := none, stagedVersion := 0 } }

/-! ### Requested resets (R526) -/

/-- The orderly window of a reset written to 0x1100.10: every partition quiesced, jobs and commands ended,
a Stratus checkpoint written; a reset of the held state, and one that interrupts a cold start, is cold (R527,
R529, R530). -/
def Dev.orderlyReset (d : Dev) (cold : Bool) : Eff :=
  let k := if cold || d.start.status == 2 || (d.start.status == 0 && d.start.kind == 0) then 0 else 1
  let e := (List.range 16).foldl Eff.endAll d.eff
  e.mod (fun d => { d with
    start := { d.start with orderly := some (k, d.now) }
    stratus := { d.stratus with checkpoint := some d.now } })

/-! ### The power cap (R554, R555) -/

/-- Power-cap clock of a cap in W: the largest multiple of 25 MHz, 400 to 1,600, whose model input power at
full stack load is within the cap; 400 when none is (R554). -/
def capClockOf (c : Nat) : Nat :=
  max 400 (min 1600 ((c * 22400 - 22080000) / 7200 / 25 * 25))

/-- Slots per mcyc of a guaranteed share on each stack, summed: 64 for a stack with windows (R555). -/
def guaranteedSlots (jobs : List Job) : Nat :=
  sumNat ((List.range 12).map (fun k =>
    if jobs.any (fun j => j.grant.windows.any (fun w => w.stack == k)) then 64
    else sumNat (jobs.map (fun j => sumNat ((j.grant.slots.filter (fun x => x.1 == k)).map Prod.snd)))))

/-- Is the load limit too low for a number of guaranteed slots: L - 680 - 30 G negative (R556)? -/
def capTooLow (c slots : Nat) : Bool := decide (896 * c < 652800 + 450 * slots)

/-- The best-effort slot ceiling (R555): 64 unless the cap clock is 400 MHz and L is below 1,040 W. -/
def sigmaOf (c slots : Nat) : Nat :=
  if capClockOf c = 400 ∧ 14 * c < 15600 then min 64 ((896 * c - 652800 - 450 * slots) / 5400) else 64

/-- The guaranteed jobs admitted. -/
def Dev.guaranteedJobs (d : Dev) : List Job :=
  d.liveJobs.filter (fun j => decide (j.state = .admitted) && j.batch.guaranteed)

/-- The compute clock in force: the lowest of planned, power-cap and throttle clocks (R494). -/
def Dev.takeClock (d : Dev) : Dev :=
  { d with ageing := { d.ageing with clock := min d.ageing.planned (min d.ageing.capClock d.ageing.throttle) } }

/-- A cap taken into use: its clock, and σ by the grants that stand. -/
def Dev.takeCap (d : Dev) (c : Nat) : Dev :=
  ({ d with ageing := { d.ageing with
      capClock := capClockOf c, sigma := sigmaOf c (guaranteedSlots d.guaranteedJobs) } } : Dev).takeClock

/-! ### Ready (R517, R525, R529, R531) -/

/-- The security version of the bank in force. -/
def Start.bankSecurity (x : Start) : Nat :=
  if x.bank = 0 then x.bankA.security else if x.bank = 1 then x.bankB.security else 0

/-- Ready: the host ports leave reset, every configured value is in force, the count of failed warm starts
is 0, the firmware floor rises with a first boot, and tick 0 will start at the first boundary of the source,
or at once where no grid is known. -/
def Dev.becomeReady (d : Dev) : Dev :=
  let d1 := (List.range 4).foldl (fun acc n => acc.modPort n (fun x => { x with inReset := false })) d
  let d2 : Dev := { d1 with
    start := { d1.start with
      status := 1, failed := false, millis := (d1.now - d1.start.resetAt) / 1000000, firstBoot := false
      forced := false }
    backup := { d1.backup with
      failedWarm := 0
      floor := if d1.start.firstBoot then max d1.backup.floor d1.start.bankSecurity else d1.backup.floor }
    force := d1.conf
    ageing := { d1.ageing with lastAt := d1.now } }
  let d3 : Dev := { d2 with tick := { d2.tick with
    period := d2.confAt 0x2000 1, guard := d2.confAt 0x2000 4, periodWritten := none, capWritten := none
    shareWindow := d2.confAt 0x2003 1 } }
  let d4 : Dev := { d3 with tick := { d3.tick with
    next := match d3.gridPoint with
      | some g => nextGrid d3.now g d3.periodTns
      | none => d3.now } }
  let d5 := d4.takeCap (d4.confAt 0x6003 1)
  if d.start.forced then d5.alarm 4 else d5

end Sys2Proof.Machine
end

