-- ==== Sys2Proof/Machine/Admission.lean ====
section
/-!
DEFINITION. Admission and re-admission (R61 to R64, R152, R163 to R165, R170, R191, R228, R261 to R265, R270,
R556): which cells a grant holds, where a job's data is homed, what it demands, and its bound.
-/

namespace Sys2Proof.Machine

/-! ### Units a grant may take (R263, R265) -/

/-- A cell that no guaranteed grant holds, in service and in no draining region (R263, R272). -/
def Dev.freeCell (d : Dev) (n : Nat) : Bool :=
  d.cellUp n && !(d.region (n / 64)).draining && !(d.guaranteedJobs.any (fun j => j.grant.cells.contains n))

/-- Weights a program reads, by entry of the image. -/
def Program.weightRefs (p : Program) : List Nat :=
  (p.tensors.filterMap (fun t => if t.cls = 0 then some t.ref else none)).eraseDups

/-- Weight bytes of a job placed in a region. -/
def Image.bytesIn (im : Image) (refs : List Nat) (r : Nat) : Nat :=
  sumNat (refs.map (fun i => sumNat ((im.slices.getD i []).map (fun s =>
    if s.stack / 2 = r && !s.lost then s.lines * 128 else 0))))

/-- Regions in the order of first-free placement: the anchor, then the others of the mask (R263). -/
def Dev.regionOrder (d : Dev) (p : Nat) (im : Image) (refs : List Nat) : List Nat :=
  let usable (r : Nat) : Bool := d.regionUsable p r && !(d.region r).outOfService
  let all := (List.range 6).filter usable
  match argMax (im.bytesIn refs) (List.range 6) with
  | some a => all.filter (· == a) ++ all.filter (· != a)
  | none => all

/-- Cells that a test takes, in first-free order (R263). -/
def Dev.firstFree (d : Dev) (p : Nat) (im : Image) (refs : List Nat) (ok : Nat → Bool) : List Nat :=
  (d.regionOrder p im refs).flatMap (fun r => ((List.range 64).map (· + r * 64)).filter ok)

/-- Units an operator runs on in the phases of a batch. -/
def unitsIn (p : Program) (b : Batch) (o : OpDesc) : List UnitKind :=
  let one (ph : Phase) (steps : Nat) : List UnitKind :=
    if o.active ph && steps != 0 then [unitOf p o ph (phaseBatch p b ph)] else []
  (one .observed (obsStepsBound p b) ++
    one .imagined (if phaseBatch p b .imagined = 0 then 0 else p.hdr.s)).eraseDups

/-- Stacks an operator's operands lie in, its job's weight stream buffer among them when it reads a STREAMED one
(R261, R262). -/
def operandStacks (o : OpDesc) (p : Program) (im : Image) (homes : List (Option TensorHome)) (kv : List KvHome)
    (recs : List Nat) (buf : Option (Nat × Nat)) : List Nat :=
  let homeOf (h : Nat) : List Nat :=
    match (homes[h]?).join with
    | some t => match t.space with
      | .stack k => [k]
      | _ => []
    | none => []
  let reads := [o.srcA, o.srcW, o.src2, o.vec, o.count]
  let weight (h : Nat) : List Nat := match p.tensor? h with
    | some t => if t.cls = 0 then (im.slices.getD t.ref []).map WeightSlice.stack else []
    | none => []
  ((o.dst :: reads).flatMap homeOf ++ reads.flatMap weight ++
    (if reads.any (streamedRef p im) then (buf.map Prod.fst).toList else []) ++
    (if o.cls = 1 || o.cls = 2 then ((kv[o.attLayer]?).map KvHome.homeStacks).getD [] else []) ++
    (if o.cls = 3 then (recs[o.recLayer]?).toList else [])).eraseDups

/-- Stacks on which an operator's engines work (R121, R132, R197). -/
def engineStacks (o : OpDesc) (p : Program) (im : Image) (kv : List KvHome) (recs : List Nat) : List Nat :=
  match o.cls with
  | 1 => ((kv[o.attLayer]?).map KvHome.homeStacks).getD []
  | 3 => (recs[o.recLayer]?).toList
  | _ => match p.tensor? o.srcW with
    | some t => ((im.slices.getD t.ref []).map WeightSlice.stack).eraseDups
    | none => []

/-- Line slots of a stack for guaranteed jobs: 12 per mcyc, those of the channels that are fenced taken off (R265,
R274).
[notes/assumptions 180 DEDUCED, unsafe] -/
def Dev.slotLimit (d : Dev) (k : Nat) : Nat := 12 * (32 - (d.stack k).fenced.length) / 32

/-- Line slots a job may take on a stack beside the other guaranteed jobs: none beside windows (R265). -/
def Dev.slotsLeft (d : Dev) (except k : Nat) : Nat :=
  let others := d.guaranteedJobs.filter (fun j => j.id != except)
  if others.any (fun j => j.grant.windows.any (fun w => w.stack == k)) then 0
  else d.slotLimit k - sumNat (others.map (fun j => tgetD j.grant.slots k 0))

/-- Regions whose sorters a top-k operator uses: those with granted cells, then the others of the mask, in
ascending order, sorters in service only.
[notes/assumptions 147 DEDUCED, unsafe] -/
def Dev.sortRegions (d : Dev) (p : Nat) (cells : List Nat) (n : Nat) : List Nat :=
  let ok (r : Nat) : Bool := d.regionUsable p r && !(d.region r).outOfService && !(d.region r).draining &&
    !(d.region r).sorter.fenced
  let own := regionsOf cells
  (own.filter ok ++ ((List.range 6).filter (fun r => ok r && !own.contains r))).take n

/-- The grant that goes with some cells: the line slots are the partition's default, less those the job has lost with fenced
channels, capped by those free (R262, R265, R274). -/
def Dev.grantFor (d : Dev) (j : Job) (im : Image) (cells : List Nat) (home : Nat) (homes : List (Option TensorHome))
    (kv : List KvHome) (recs : List Nat) (buf : Option (Nat × Nat)) : Grant :=
  let p := j.prog
  let cellOps := p.ops.filter (fun o =>
    (unitsIn p j.batch o).contains .cells || (unitsIn p j.batch o).contains .append)
  let engOps := p.ops.filter (fun o => (unitsIn p j.batch o).contains .cirrus)
  let used := (cellOps.flatMap (fun o => operandStacks o p im homes kv recs buf)).eraseDups
  let wins := (engOps.flatMap (fun o => engineStacks o p im kv recs)).eraseDups
  let tops := p.ops.filter (fun o => (unitsIn p j.batch o).contains .sorter)
  { cells := cells, home := home
    windows := wins.map (fun k => { stack := k, length := 0 })
    slots := (sortBy (fun a b => decide (a < b)) used).map (fun k =>
      (k, min (max 1 (d.pforce j.part 0x01 3 - tgetD j.slotLoss k 0)) (d.slotsLeft j.id k)))
    sorters := (tops.flatMap (fun o => d.sortRegions j.part cells o.regions)).eraseDups }

/-- The limits of R265 and R54, that every unit is in service, and that none is new in a draining region (R272). -/
def Dev.grantFits (d : Dev) (j : Job) (g : Grant) : Bool :=
  let others := d.guaranteedJobs.filter (fun x => x.id != j.id)
  let drains (k : Nat) : Bool := (d.region (k / 2)).draining
  decide (others.length < 2048) &&
    g.slots.all (fun s => !drains s.1 || decide (s.2 ≤ tgetD j.grant.slots s.1 0)) &&
    g.windows.all (fun w => !drains w.stack || j.grant.windows.any (fun v => v.stack == w.stack)) &&
    g.slots.all (fun s => decide (1 ≤ s.2) && decide (s.2 ≤ d.slotsLeft j.id s.1) && !(d.stack s.1).outOfService) &&
    g.windows.all (fun w => !(others.any (fun x =>
      x.grant.windows.any (fun v => v.stack == w.stack) || x.grant.slots.any (fun v => v.1 == w.stack))) &&
      !(d.stackEngines w.stack).isEmpty) &&
    g.sorters.all (fun r => !(others.any (fun x => x.grant.sorters.contains r))) &&
    g.ports.all (fun r => !(others.any (fun x => x.grant.ports.contains r))) &&
    !capTooLow (d.forceAt 0x6003 1) (guaranteedSlots (others ++ [{ j with grant := g }]))

/-! ### The bound of a job on a grant -/

/-- What the bound of a job is computed for (R61, R253). -/
def Dev.boundEnv (d : Dev) (j : Job) (im : Image) (g : Grant) (homes : List (Option TensorHome)) (kv : List KvHome)
    (recs : List Nat) : BoundEnv :=
  { cells := g.cells, home := g.home, slots := g.slots, defSlots := d.pforce j.part 0x01 3
    place := homes.map (fun h => h.map TensorHome.space), slices := im.slices
    streamed := im.entries.map ImageEntry.streamed, kv := kv.map KvHome.homeStacks
    kvSpilled := kv.map KvHome.spilled, recHome := recs
    engines := (List.range 12).map (fun k => (d.stackEngines k).length)
    channels := (List.range 12).map (fun k => 32 - (d.stack k).fenced.length)
    mhz := d.ageing.clock, sampling := d.forceAt 0x5000 1
    windowNs := admissibleNs d.tick.period d.tick.guard
    readGrant := d.pforce j.part 0x13 1, writeGrant := d.pforce j.part 0x13 2 }

/-- The windows of a job's sorts on the sorters of its grant: each at its place in the admitted schedule, which the tick
starts with (R222).
[notes/assumptions 193 DEDUCED, unsafe] -/
def Dev.sortWindowsOf (d : Dev) (j : Job) (e : BoundEnv) (g : Grant) : List SortWindow :=
  if g.sorters.isEmpty then []
  else (roundSchedule j.prog e j.batch).flatMap (fun x =>
    let o := j.prog.ops.getD x.1 (OpDesc.ofNat 0)
    if o.cls != 8 then []
    else (d.sortRegions j.part g.cells o.regions).map (fun r =>
      { region := r, offset := x.2.ps e.mhz / 1000, length := (opCost j.prog e o .observed 0).1.cc }))

/-- The grant with its ports and windows, the counts and the bound in ps. -/
def Dev.boundOf (d : Dev) (j : Job) (im : Image) (g : Grant) (homes : List (Option TensorHome)) (kv : List KvHome)
    (recs : List Nat) : Grant × Counts × Nat :=
  let r := roundBound j.prog (d.boundEnv j im g homes kv recs) j.batch
  ({ g with
     ports := r.2.2.eraseDups
     sortWindows := d.sortWindowsOf j (d.boundEnv j im g homes kv recs) g
     windows := g.windows.map (fun w => { w with length := r.1.cm }) }, r.1, r.2.1)

/-- Is the bound within W (R61)? -/
def Dev.withinW (d : Dev) (ps : Nat) : Bool := decide (ps ≤ admissibleNs d.tick.period d.tick.guard * 1000)

/-! ### Homes of a job (R152, R177, R228, R261) -/

/-- A stack range taken when the stack has the room (R164). -/
def Eff.takeRoom (e : Eff) (k align lines part : Nat) (phase : Nat := 0) : Option (Nat × Eff) :=
  if e.dev.stackFree k < lines then none else e.takeLines k align lines part phase

/-- Lines of the pinned area of a region cache (R299). -/
def Dev.pinnedArea (d : Dev) : Nat := d.forceAt 0x3012 1 * 32768

/-- A range of a region cache's pinned area taken, with zero data. -/
def Eff.takeCache (e : Eff) (r lines part : Nat) : Option (Nat × Eff) :=
  match allocate e.dev.pinnedArea 1 lines part (e.dev.cacheUse r) with
  | some (b, l) => some (b, { e with
      dev := { e.dev with cacheAlloc := tset e.dev.cacheAlloc r l }
      mem := e.mem ++ [.clear ((Space.cache r).addr (b * 128)) (lines * 128)] })
  | none => none

/-- Members that may hold a slice of a PER_FUTURE tensor: futures and host streams. -/
def memberSlots (p : Program) (b : Batch) : Nat := b.fMax + p.hdr.hMax

/-- Bytes of one buffer of a tensor: every member's slice when it is PER_FUTURE (R227). -/
def tensorBytes (p : Program) (b : Batch) (t : Tensor) : Nat :=
  t.sliceStride * (if t.perFuture then memberSlots p b else 1)

/-- Bytes that the rows and columns which a level-2 tile spans in a problem take of the operands other than the weight: the
inputs of R250, the vectors and the second POST operand. -/
def levelTwoIn (p : Program) (o : OpDesc) (st : ConvStage) (q : IProb) (t : Tile) : Nat :=
  let image := if o.cls = 0 then imageBytes o.fmtW else if o.cls = 1 then 8192
    else if o.cls = 4 then (match st with
      | .finish => 0
      | .freq _ _ _ => 8192
      | _ => imageBytes o.fmtW)
    else 0
  let counted := (decide (5 ≤ o.cls) || decide (o.cls = 4 ∧ st = .finish))
  let second := if o.src2 = 0xFFFF || !o.ownGate st || o.gate.post = 0 || o.gate.draw != 0 || counted then 0
    else rowsBytes (((p.tensor? o.src2).map Tensor.fmt).getD 0) t.cols t.rows
  tileInBytes p o st q t - image + second

/-- The weights that the columns which a level-2 tile spans in a problem read: where they start, their first image or column,
and their bytes. -/
def levelTwoWeights (o : OpDesc) (st : ConvStage) (num n : Nat) (q : IProb) (t : Tile) : Nat × Nat × Nat :=
  match o.cls, st with
  | 0, _ => (q.offW, t.col0, rowsBytes o.fmtW q.k t.cols)
  | 4, .finish => (0, 0, 0)
  | 4, _ =>
    let i := stageColumns o q st num n t.col0 t.cols
    (q.offW, i.1, i.2 * imageBytes o.fmtW)
  | _, _ => (0, 0, 0)

/-- Bytes of the largest level-2 tile of an operator over its stages: the operands that its tiles read, each once, and their
outputs (R241).
[notes/assumptions 146 DEDUCED, unsafe] -/
def levelTwoBytes (p : Program) (o : OpDesc) (ph : Phase) (nb : Nat) : Nat :=
  maxNat (o.stages.zipIdx.map (fun st =>
    let probs := stageProblems p o ph nb none st.1
    let ts := stageTiles p o ph nb none st.1
    let prob (t : Tile) : IProb := probs.getD t.prob ⟨0, 0, 0, 0, 0, 0, none, 0, 0⟩
    maxNat ((ts.map Tile.outer).eraseDups.map (fun j =>
      let tj := ts.filter (fun t => t.outer == j)
      let ps := (tj.map Tile.prob).eraseDups
      sumNat (ps.map (fun n => levelTwoIn p o st.1 (probs.getD n ⟨0, 0, 0, 0, 0, 0, none, 0, 0⟩) (spanTile tj n))) +
        sumNat ((ps.map (fun n => levelTwoWeights o st.1 st.2 n (probs.getD n ⟨0, 0, 0, 0, 0, 0, none, 0, 0⟩)
          (spanTile tj n))).eraseDups.map (fun x => x.2.2)) +
        sumNat (tj.map (fun t => tileOutBytes p o st.1 (prob t).n t))))))

/-- Bytes of the largest level-2 tile of a guaranteed job (R299).
[notes/assumptions 146 DEDUCED, unsafe] -/
def jobLevelTwo (p : Program) (b : Batch) : Nat :=
  maxNat (p.ops.flatMap (fun o =>
    [Phase.observed, Phase.imagined].map (fun ph =>
      if o.active ph && decide (unitOf p o ph (phaseBatch p b ph) = .cells)
      then levelTwoBytes p o ph (phaseBatch p b ph) else 0)))

/-- The home of one tensor in the home region (R228, R257). -/
def Eff.placeTensor (e : Eff) (part region : Nat) (p : Program) (b : Batch) (t : Tensor) :
    Option (Eff × Option TensorHome) :=
  if t.cls = 0 || 5 ≤ t.cls then some (e, none)
  else
    let bytes := alignUp (tensorBytes p b t) 128
    let bufs := if t.cls = 2 || t.cls = 4 then 2 else 1
    let lines := bufs * bytes / 128
    if t.home = 0 then
      (e.takeCache region lines part).map (fun x =>
        (x.2, some { space := .cache region, base := x.1 * 128, bufBytes := bytes, bufs := bufs }))
    else
      let ks := [2 * region, 2 * region + 1].filter (fun k => !(e.dev.stack k).outOfService)
      match e.dev.roomiest ks with
      | none => none
      | some k => (e.takeRoom k 1 lines part).map (fun x =>
          (x.2, some { space := .stack k, base := x.1 * 128, bufBytes := bytes, bufs := bufs }))

/-- The homes of a list of tensors, in handle order. -/
def Eff.placeTensors (e : Eff) (part region : Nat) (p : Program) (b : Batch) :
    List Tensor → Option (Eff × List (Option TensorHome))
  | [] => some (e, [])
  | t :: ts =>
    match e.placeTensor part region p b t with
    | none => none
    | some (e1, h) => (Eff.placeTensors e1 part region p b ts).map (fun x => (x.1, h :: x.2))

/-- The two level-2 tiles of a guaranteed job in its home region's cache, kept as one more home (R299).
[notes/assumptions 146 DEDUCED, unsafe] -/
def Eff.placeLevelTwo (e : Eff) (part region bytes : Nat) : Option (Eff × List (Option TensorHome)) :=
  if bytes = 0 then some (e, [])
  else
    let b := alignUp bytes 128
    (e.takeCache region (2 * b / 128) part).map (fun x =>
      (x.2, [some { space := .cache region, base := x.1 * 128, bufBytes := b }]))

/-- N_f of R163. -/
def Batch.nF (b : Batch) : Nat := if b.forkBudget = 0 then b.o else b.fMax

/-- Page demand of a layer (R163).
[notes/assumptions 148 DEDUCED, unsafe] -/
def pageDemand (b : Batch) (a : AttLayer) : Nat := b.nF * (ceilDiv a.lMax 16 + 1)

/-- Stack lines a layer demands for its pages: tail pages and copies alone when it is spilled (R163, R165).
[notes/assumptions 100 DEDUCED, unsafe] -/
def kvLines (b : Batch) (a : AttLayer) (spilled : Bool) : Nat :=
  (if spilled then 2 * b.nF else pageDemand b a) * a.pageLines

/-- Room of a stack with a job's demand so far taken off.
[notes/assumptions 148 DEDUCED, unsafe] -/
def Dev.roomWith (d : Dev) (need : List (Nat × Nat)) (k : Nat) : Nat := d.stackFree k - tgetD need k 0

/-- The home of one attention layer (R152, R155, R164); which layers spill is settled before, so a spilled one is placed
with the demand it then has (R165).
[notes/assumptions 179 DESIGN CHOICE, unsafe; 208 DESIGN CHOICE, unsafe] -/
def Eff.placeKv (e : Eff) (part : Nat) (b : Batch) (need : List (Nat × Nat)) (a : AttLayer) (spilled : Bool) :
    Option (Eff × KvHome × List (Nat × Nat)) :=
  let us := e.dev.usableStacks part
  let room := e.dev.roomWith need
  let ks? := if a.split then
      (argMax (fun r => room (2 * r) + room (2 * r + 1))
        ((List.range 6).filter (fun r => us.contains (2 * r) && us.contains (2 * r + 1)))).map (fun r => [2 * r, 2 * r + 1])
    else (argMax room us).map (fun k => [k])
  match ks? with
  | none => none
  | some ks =>
    let lines := kvLines b a spilled
    let total := lines + if spilled then recallLines else 0
    if sumNat (ks.map room) < total then none
    else
      let per := ceilDiv lines (max ks.length 1)
      let need' := ks.foldl (fun n k => tset n k (tgetD n k 0 + per)) need
      if spilled then
        (e.takeRoom (ks.headD 0) 1 recallLines part).map (fun x =>
          (x.2, { homeStacks := ks, spilled := true, recallBase := x.1 }, need'))
      else some (e, { homeStacks := ks }, need')

/-- The homes of the attention layers, in ascending order (R152). -/
def Eff.placeKvs (e : Eff) (part : Nat) (b : Batch) (need : List (Nat × Nat)) :
    List (AttLayer × Bool) → Option (Eff × List KvHome × List (Nat × Nat))
  | [] => some (e, [], need)
  | a :: as =>
    match e.placeKv part b need a.1 a.2 with
    | none => none
    | some (e1, h, n1) => (Eff.placeKvs e1 part b n1 as).map (fun x => (x.1, h :: x.2.1, x.2.2))

/-- The weight whose stack is a recurrent layer's: the step's own, or, where a step of KIND 2 has none, that of the
operator that makes the step's input (R177).
[notes/assumptions 181 DEDUCED, unsafe] -/
def stepWeight (p : Program) (o : OpDesc) : Option Tensor :=
  let weight (h : Nat) : Option Tensor := (p.tensor? h).filter (fun t => t.cls == 0)
  match weight o.srcW with
  | some t => some t
  | none => p.ops.findSome? (fun x => if x.dst = o.srcA then weight x.srcW else none)

/-- The home stack of a recurrent layer: the stack of its step weights when engines run it, else the roomiest
(R177). -/
def Dev.recHome (d : Dev) (part : Nat) (p : Program) (b : Batch) (im : Image) (need : List (Nat × Nat)) (layer : Nat) :
    Option Nat :=
  let own := (p.ops.find? (fun o => o.cls == 3 && o.recLayer == layer)).bind (fun o =>
    if (unitsIn p b o).contains .cirrus then
      (stepWeight p o).bind (fun t => ((im.slices.getD t.ref []).head?).map WeightSlice.stack)
    else none)
  match own with
  | some k => some k
  | none => argMax (d.roomWith need) (d.usableStacks part)

/-- The homes of the recurrent layers, with their demand (R177, R191). -/
def Dev.placeRecs (d : Dev) (part : Nat) (p : Program) (b : Batch) (im : Image) :
    List (Nat × Nat) → List Nat → Option (List Nat × List (Nat × Nat))
  | need, [] => some ([], need)
  | need, l :: ls =>
    match d.recHome part p b im need l with
    | none => none
    | some k =>
      let dir := if l = 0 then dirLines p else 0
      let lines := stateCopies p b * (stateObjBytes p.hdr.c p.hdr.ns / 128 + dir)
      if d.roomWith need k < lines then none
      else (Dev.placeRecs d part p b im (tset need k (tgetD need k 0 + lines)) ls).map
        (fun x => (k :: x.1, x.2))

/-- Lines of a weight stream buffer of 256 MiB (R261). -/
def streamLines : Nat := 256 * 8192

/-- Does a program read a STREAMED tensor (R261)? -/
def readsStreamed (p : Program) (im : Image) : Bool :=
  p.weightRefs.any (fun i => ((im.entries[i]?).map ImageEntry.streamed).getD false)

/-- Everything a job has homed. -/
structure Placed where
  eff : Eff
  homes : List (Option TensorHome)
  kv : List KvHome
  recs : List Nat
  buf : Option (Nat × Nat)
  demand : List (Nat × Nat)

/-- A job's data homed with a home region; none when something lacks room (R164, R228). -/
def Eff.placeJob (e : Eff) (part region : Nat) (p : Program) (b : Batch) (im : Image) (spilled : List Bool) :
    Option Placed :=
  match e.placeTensors part region p b p.tensors with
  | none => none
  | some (e1, hs) =>
    match e1.placeLevelTwo part region (if b.guaranteed then jobLevelTwo p b else 0) with
    | none => none
    | some (e2, two) =>
      let stream : Option (Eff × Option (Nat × Nat)) :=
        if !readsStreamed p im then some (e2, none)
        else match e2.dev.roomiest ([2 * region, 2 * region + 1].filter (fun k => !(e2.dev.stack k).outOfService)) with
          | none => none
          | some k => (e2.takeRoom k 1 streamLines part).map (fun x => (x.2, some (k, x.1)))
      match stream with
      | none => none
      | some (e3, buf) =>
        match e3.placeKvs part b [] (p.att.zipIdx.map (fun a => (a.1, spilled.getD a.2 false))) with
        | none => none
        | some (e4, kv, need) =>
          (e4.dev.placeRecs part p b im need (List.range p.hdr.recLayers)).map (fun x =>
            { eff := e4, homes := hs ++ two, kv := kv, recs := x.1, buf := buf, demand := x.2 })

/-! ### Reservations (R62, R164, R165, R170, R191) -/

/-- Stacked-memory bytes a job demands for KV with some layers spilled (R163, R165, R261). -/
def kvDemand (p : Program) (b : Batch) (im : Image) (spilled : List Bool) : Nat :=
  sumNat (p.att.zipIdx.map (fun a =>
    (kvLines b a.1 (spilled.getD a.2 false) + if spilled.getD a.2 false then recallLines else 0) * 128)) +
    (if readsStreamed p im then streamLines * 128 else 0)

/-- Bytes of the full pages of spilled layers (R165). -/
def spillDemand (p : Program) (b : Batch) (spilled : List Bool) : Nat :=
  sumNat (p.att.zipIdx.map (fun a =>
    if spilled.getD a.2 false then b.nF * ceilDiv a.1.lMax 16 * a.1.pageBytes else 0))

/-- Layers marked spilled in descending order until the demand fits; none when it never does (R165). -/
def spillFrom (p : Program) (b : Batch) (im : Image) (free : Nat) : Nat → List Bool → Option (List Bool)
  | 0, sp => if kvDemand p b im sp ≤ free then some sp else none
  | l + 1, sp => if kvDemand p b im sp ≤ free then some sp else spillFrom p b im free l (sp.set l true)

/-- Which layers spill, or none for NO_ROOM (R164 to R166). -/
def Dev.spillSet (d : Dev) (part : Nat) (p : Program) (b : Batch) (im : Image) : Option (List Bool) :=
  let none' := List.replicate p.att.length false
  let free := d.pforce part 0x10 1 * 1048576 - d.kvDemanded part
  if kvDemand p b im none' ≤ free then some none'
  else if d.pforce part 0x10 2 = 0 then none
  else
    match spillFrom p b im free p.att.length none' with
    | none => none
    | some sp =>
      let room := d.pforce part 0x10 3 * 1073741824 - sumNat ((d.jobsOf part).map Job.spillBytes)
      if spillDemand p b sp ≤ room then some sp else none

/-- Stream-table entries a job holds; a program without recurrent layers has no streams (R169, R170).
[notes/assumptions 149 DEDUCED, unsafe] -/
def streamEntries (p : Program) (b : Batch) : Nat := if p.hdr.recLayers = 0 then 0 else b.fMax + p.hdr.hMax

/-- State bytes a job reserves (R191).
[notes/assumptions 148 DEDUCED, unsafe] -/
def stateDemand (p : Program) (b : Batch) : Nat := stateCopies p b * streamStateBytes p

/-- Pages a job demands of the device pool. -/
def poolDemand (p : Program) (b : Batch) : Nat := sumNat (p.att.map (pageDemand b))

/-- The checks that need no candidate grant: entries, pool and state reservation. -/
def Dev.reservationsOk (d : Dev) (part : Nat) (p : Program) (b : Batch) : Bool :=
  let mine := sumNat ((d.jobsOf part).map Job.entries)
  let all := sumNat (d.liveJobs.map Job.entries)
  let state := sumNat ((d.jobsOf part).map Job.stateBytes)
  let pool := d.pagesDemanded
  decide (mine + streamEntries p b ≤ d.pforce part 0x11 1) && decide (all + streamEntries p b ≤ 262144) &&
    decide (state + stateDemand p b ≤ d.pforce part 0x11 2 * 1048576) && decide (pool + poolDemand p b ≤ 2 ^ 26)

/-! ### Admission (R62, R264, R354) -/

/-- A grant that fits, with the homes and the bound that go with it. -/
structure Admission where
  placed : Placed
  grant : Grant
  counts : Counts
  ps : Nat

/-- Cells of the candidate grants (R264). -/
def Dev.candidates (d : Dev) (j : Job) (im : Image) : List (List Nat) :=
  let free := d.firstFree j.part im j.prog.weightRefs d.freeCell
  let lim := min (d.pforce j.part 0x01 1 - (d.grantedCells j.part).length) free.length
  if j.batch.cReq = 0 then (List.range (lim / 8)).map (fun i => free.take (8 * (i + 1)))
  else if j.batch.cReq ≤ lim then [free.take j.batch.cReq] else []

/-- Lowest region that holds cells. -/
def homeRegion (cells : List Nat) : Nat := (regionsOf cells).headD 0

/-- The first candidate that fits; NO_ROOM when none has room for the job's data, else NOT_SCHEDULABLE. -/
def Eff.firstFit (e : Eff) (j : Job) (im : Image) (spilled : List Bool) (room : Bool) :
    List (List Nat) → Except Code Admission
  | [] => .error (if room then .notSchedulable else .noRoom)
  | cs :: rest =>
    match e.placeJob j.part (homeRegion cs) j.prog j.batch im spilled with
    | none => Eff.firstFit e j im spilled room rest
    | some pl =>
      let g0 := e.dev.grantFor j im cs (homeRegion cs) pl.homes pl.kv pl.recs pl.buf
      let r := e.dev.boundOf j im g0 pl.homes pl.kv pl.recs
      if e.dev.withinW r.2.2 && e.dev.grantFits j r.1 then
        .ok { placed := pl, grant := r.1, counts := r.2.1, ps := r.2.2 }
      else Eff.firstFit e j im spilled true rest

/-- The nominal grant of a best-effort job, by which it is checked for room and bounded (R354). -/
def Eff.nominal (e : Eff) (j : Job) (im : Image) (spilled : List Bool) : Except Code Admission :=
  let n := max 1 (e.dev.pforce j.part 0x01 1 - (e.dev.grantedCells j.part).length)
  let cs := (e.dev.firstFree j.part im j.prog.weightRefs e.dev.cellUp).take n
  match e.placeJob j.part (homeRegion cs) j.prog j.batch im spilled with
  | none => .error .noRoom
  | some pl =>
    let g : Grant := { cells := cs, home := homeRegion cs }
    let r := e.dev.boundOf j im g pl.homes pl.kv pl.recs
    .ok { placed := pl, grant := { home := homeRegion cs }, counts := r.2.1, ps := r.2.2 }

/-- Have the layers of a job room in the home stacks that R152 and R177 give them (R164)? -/
def Eff.layersFit (e : Eff) (j : Job) (im : Image) (spilled : List Bool) : Bool :=
  let p := j.prog
  ((e.placeKvs j.part j.batch [] (p.att.zipIdx.map (fun a => (a.1, spilled.getD a.2 false)))).bind (fun x =>
    x.1.dev.placeRecs j.part p j.batch im x.2.2 (List.range p.hdr.recLayers))).isSome

/-- Admission of a job with its batch (R62, R164). A guaranteed job with no candidate at all is not schedulable, once its
layers have room. -/
def Eff.admitJob (e : Eff) (j : Job) (im : Image) : Except Code Admission :=
  if (batchChecks j.prog im j.batch).isSome then .error .rejectedFormat
  else if !e.dev.reservationsOk j.part j.prog j.batch then .error .noRoom
  else
    match e.dev.spillSet j.part j.prog j.batch im with
    | none => .error .noRoom
    | some sp =>
      if sp.any id && e.dev.stratus.state = 2 then .error .noRoom
      else if j.batch.guaranteed then
        let cs := e.dev.candidates j im
        e.firstFit j im sp (cs.isEmpty && e.layersFit j im sp) cs
      else e.nominal j im sp

/-- The observed futures SUBMIT creates (R21, R22, R24). -/
def observedFutures (p : Program) (b : Batch) : List Future :=
  (List.range b.o).map (fun i =>
    { id := i, seed := b.seed, step := 0, observed := true, slot := i, kv := p.att.map (fun _ => {}) })

/-- The stream of a future without state (R168, R175). -/
def futureStream (part job : Nat) (p : Program) (id seed slot : Nat) : StreamEntry :=
  { host := false, part := part, job := job, id := id, rnN := p.hdr.rnN, seed := seed, slot := slot }

/-- Is an eviction in progress that names a stream-table entry? -/
def Dev.evicting (d : Dev) (n : Nat) : Bool :=
  d.transfers.any (fun t =>
    match t with
    | .evict m _ _ => m == n
    | _ => false)

/-- Lowest free stream-table entry that no eviction in progress names.
[notes/assumptions 16 DESIGN CHOICE, unsafe] -/
def Dev.freeEntry (d : Dev) : Nat :=
  let n := d.streams.length + d.transfers.length
  ((List.range (n + 1)).find? (fun n => (tget d.streams n).isNone && !d.evicting n)).getD n

/-- A stream entered at the lowest free entry. -/
def Dev.addStream (d : Dev) (s : StreamEntry) : Dev := d.setStream d.freeEntry s

/-- The job admitted: grant, homes, demand, observed futures and their streams (R58, R170). -/
def Admission.take (a : Admission) (j : Job) (firstTick order : Nat) : Eff :=
  let p := j.prog
  let b := j.batch
  let kv := a.placed.kv
  let sp := kv.map KvHome.spilled
  let im := (tget a.placed.eff.dev.images j.imageNo)
  let e := a.placed.eff.mod (fun d => d.setJob { j with
    state := .admitted, grant := a.grant, counts := a.counts, boundPs := a.ps, admitOrder := order
    firstTick := firstTick, homes := a.placed.homes, kvHomes := kv, recHomes := a.placed.recs
    streamBuf := a.placed.buf, demand := a.placed.demand
    kvBytes := (im.map (fun i => kvDemand p b i sp)).getD 0, pageDemand := poolDemand p b
    stateBytes := stateDemand p b, spillBytes := spillDemand p b sp, entries := streamEntries p b
    futures := observedFutures p b })
  if p.hdr.recLayers = 0 then e
  else e.mod (fun d => (List.range b.o).foldl (fun acc i =>
    acc.addStream (futureStream j.part j.id p i b.seed i)) d)

/-! ### Re-admission (R64, R270) -/

/-- Cells of a grant that are in service, in no draining region, and in a region of the partition's mask (R267). -/
def Dev.surviving (d : Dev) (j : Job) : List Nat :=
  j.grant.cells.filter (fun n => d.cellUp n && !(d.region (n / 64)).draining && d.regionUsable j.part (n / 64))

/-- The cell sets R270 tries in turn: the surviving grant, that grant filled up from free cells, and a fresh
search. -/
def Dev.readmitCells (d : Dev) (j : Job) (im : Image) : List (List Nat) :=
  let own := d.surviving j
  let others := sumNat (((d.jobsOf j.part).filter (fun x => x.id != j.id)).map (fun x =>
    if x.state = .admitted && x.batch.guaranteed then x.grant.cells.length else 0))
  let quota := d.pforce j.part 0x01 1 - others
  let free := d.firstFree j.part im j.prog.weightRefs d.freeCell
  let fill := min (j.grant.cells.length - own.length) (quota - own.length)
  let more := sortBy (fun a b => decide (a < b)) (own ++ free.take fill)
  let pool := d.firstFree j.part im j.prog.weightRefs (fun n => d.freeCell n || own.contains n)
  let lim := min quota pool.length
  [own, more] ++
    (if j.batch.cReq = 0 then (List.range (lim / 8)).map (fun i => pool.take (8 * (i + 1)))
     else if j.batch.cReq ≤ lim then [pool.take j.batch.cReq] else [])

/-- The first cell set on which a job's bound fits, its data staying where it is (R270). -/
def Dev.readmitOn (d : Dev) (j : Job) (im : Image) : List (List Nat) → Option (Grant × Counts × Nat)
  | [] => none
  | cs :: rest =>
    if cs.isEmpty then Dev.readmitOn d j im rest
    else
      let g0 := d.grantFor j im cs j.grant.home j.homes j.kvHomes j.recHomes j.streamBuf
      let r := d.boundOf j im g0 j.homes j.kvHomes j.recHomes
      if d.withinW r.2.2 && d.grantFits j r.1 then some r else Dev.readmitOn d j im rest

/-- A job that no longer fits ends NOT_SCHEDULABLE, after its LATE round if it has one (R64, R65). -/
def Eff.dropAdmission (e : Eff) (job : Nat) : Eff :=
  if ((e.dev.liveJob job).bind Job.round).isSome then
    e.mod (fun d => d.modJob job (fun y => { y with
      endAfter := some (y.endAfter.getD .notSchedulable), readmit := false }))
  else e.endJob job .notSchedulable .notSchedulable

/-- One guaranteed job re-admitted: its new grant, or its end, which a LATE round delays (R64, R65). A job whose
image is being restored waits (R275). -/
def Eff.readmit (e : Eff) (job : Nat) : Eff :=
  match e.dev.liveJob job with
  | none => e
  | some j =>
    match tget e.dev.images j.imageNo with
    | none => e
    | some im =>
      if im.restoring then e
      else match e.dev.readmitOn j im (e.dev.readmitCells j im) with
        | some r => e.mod (fun d => d.modJob job (fun y =>
            { y with grant := r.1, counts := r.2.1, boundPs := r.2.2, readmit := false }))
        | none => e.dropAdmission job

/-- The guaranteed jobs that a test selects, oldest admission first.
[notes/assumptions 83 DEDUCED, unsafe; 143 DEDUCED, unsafe] -/
def Dev.inOrder (d : Dev) (which : Job → Bool) : List Nat :=
  (sortBy (fun (a b : Job) => decide (a.admitOrder < b.admitOrder)) (d.guaranteedJobs.filter which)).map Job.id

/-- Re-admission of the jobs a test selects (R64). -/
def Eff.readmitAll (e : Eff) (which : Job → Bool) : Eff := (e.dev.inOrder which).foldl Eff.readmit e

end Sys2Proof.Machine
end

