-- ==== Sys2Proof/Machine/Od.lean ====
section
/-!
DEFINITION. The object dictionary's reads and writes (R387, R388, R392 to R402): who may reach which object,
the checks of a write in their order, what an accepted value does at once, and the entries of R363.
-/

namespace Sys2Proof.Machine

/-! ### Rights (R395, R396, R413, R517) -/

/-- Has a credential a right bit? -/
def Dev.hasRight (d : Dev) (c b : Nat) : Bool := bit (d.rights c) b

/-- The right bit a management write needs (R396). -/
def writeRight (idx sub : Nat) : Nat :=
  if idx = 0x1100 ∧ sub = 1 then 2
  else if (idx = 0x5001 ∧ sub = 3) ∨ (idx = 0x5002 ∧ sub = 1) ∨ (idx = 0x5010 ∧ sub = 1) ∨ (idx = 0x5021 ∧ sub = 1)
  then 4
  else if (idx = 0x6000 ∧ sub = 4) ∨ (idx = 0x1100 ∧ (sub = 0x10 ∨ sub = 0x15 ∨ sub = 0x16)) then 6
  else if idx = 0x9001 ∧ sub = 3 then 7
  else if idx = 0x9010 then 5
  else 1

/-- What a host may write in its block (R395). -/
def hostWritable (low sub : Nat) : Bool :=
  ((low == 0x20 || low == 0x21) && sub == 1) || (subIn low 0x40 8 && subIn sub 1 4)

/-- May the present state of the start answer a write (R517, R530)? -/
def Dev.startAllowsWrite (d : Dev) (idx sub : Nat) : Bool :=
  d.fullManagement || (idx == 0x1100 && sub == 0x10) || (idx == 0x9001 && sub == 3) ||
    (d.start.status == 2 && idx == 0x1100 && (sub == 0x15 || sub == 0x16))

/-- May the present state of the start answer a read (R517)? -/
def Dev.startAllowsRead (d : Dev) (idx : Nat) : Bool :=
  d.fullManagement || idx == 0x1000 || idx == 0x1100 || idx == 0x9000 || idx == 0x9001

/-- Has the requester the right to write (R395, R396)? `sys`: the application of the stored configuration,
which holds every right (R418). -/
def Dev.mayWrite (d : Dev) (who : Requester) (sys : Bool) (idx sub : Nat) : Bool :=
  sys || match who with
    | .host p => inPartArea idx && partOfIndex idx == p.val && hostWritable (idx % 256) sub
    | .cred c => d.hasRight c (writeRight idx sub) && d.startAllowsWrite idx sub

/-- Has the requester the right to read (R395, R396)? -/
def Dev.mayRead (d : Dev) (who : Requester) (idx : Nat) : Bool :=
  match who with
  | .host p => inPartArea idx && partOfIndex idx == p.val
  | .cred c => d.hasRight c 0 && d.startAllowsRead idx

/-- Has the requester the right to read and clear (R381, R388, R395)? -/
def Dev.mayClear (d : Dev) (who : Requester) (idx : Nat) : Bool :=
  match who with
  | .host p => inPartArea idx && partOfIndex idx == p.val && (idx % 256 == 0x20 || idx % 256 == 0x21)
  | .cred c => d.hasRight c 1 && d.fullManagement

/-! ### Ranges (R399, R317, R341, R162, R190) -/

/-- Bytes to whole GiB, rounded up. -/
def gib (b : Nat) : Nat := ceilDiv b 1073741824

/-- Stratus bytes of a partition's objects that a test selects. -/
def Dev.stratusBytes (d : Dev) (p : Nat) (f : Object → Bool) : Nat :=
  sumNat ((d.objectsOf p).map (fun o => if o.2.stratus && f o.2 then ceilDiv o.2.total 4096 * 4096 else 0))

/-- Stratus bytes of a partition's evicted states and of those whose eviction is in progress. -/
def Dev.evictedBytes (d : Dev) (p : Nat) : Nat :=
  sumNat (d.stateObjs.map (fun o =>
    if o.2.part = p ∧ (o.2.loc = .evicted ∨ o.2.loc = .recalling ∨ o.2.loc = .evicting) then ceilDiv (o.2.lines * 128) 4096 * 4096 else 0))

/-- Present demand below which a reservation is clamped (R162, R190, R317). -/
def Dev.demandOf (d : Dev) (p low sub : Nat) : Nat :=
  match low, sub with
  | 0x10, 1 => mib (d.kvDemanded p)
  | 0x10, 3 => gib (sumNat ((d.jobsOf p).map Job.spillBytes))
  | 0x11, 1 => sumNat ((d.jobsOf p).map Job.entries)
  | 0x11, 2 => mib (sumNat ((d.jobsOf p).map Job.stateBytes))
  | 0x11, 3 => gib (d.stratusBytes p (fun o => o.saved) + d.evictedBytes p)
  | 0x13, 3 => gib (d.stratusBytes p (fun o => !o.saved) +
      sumNat (d.images.map (fun i => if i.2.part = p then i.2.units * 4096 else 0)))
  | _, _ => 0

/-- The CREATED partitions by configuration.
[notes/assumptions 54 DEDUCED, unsafe] -/
def Dev.configuredParts (d : Dev) : List Nat := (List.range 16).filter (fun q => d.pconf q 0 1 == 1)

/-- Sum of an object's configured values over the other CREATED partitions.
[notes/assumptions 54 DEDUCED, unsafe] -/
def Dev.othersSum (d : Dev) (p low sub : Nat) : Nat :=
  sumNat ((d.configuredParts.filter (· != p)).map (fun q => d.pconf q low sub))

/-- Stratus reservations of every CREATED partition but one object of one partition (R317). -/
def Dev.reservedElse (d : Dev) (p low sub : Nat) : Nat :=
  sumNat (d.configuredParts.flatMap (fun q =>
    [(0x10, 3), (0x11, 3), (0x13, 3)].map (fun o =>
      if q = p ∧ o = (low, sub) then 0 else d.pconf q o.1 o.2)))

/-- The range of an object as other objects and present use leave it (R399).
[notes/assumptions 56 DEDUCED, unsafe] -/
def Dev.rangeOf (d : Dev) (idx sub : Nat) (i : ObjInfo) : Nat × Nat :=
  if inPartArea idx then
    let p := partOfIndex idx
    let low := idx % 256
    let demand := d.demandOf p low sub
    if low = 0x12 ∧ sub = 2 then (max i.lo (d.pconf p 0x12 1), i.hi)
    else if low = 0x13 ∧ sub = 1 then (i.lo, 1536 - d.othersSum p 0x13 1)
    else if low = 0x13 ∧ sub = 2 then (i.lo, 384 - d.othersSum p 0x13 2)
    else if low = 0x14 ∧ sub = 3 then (i.lo, max i.lo (131072 - d.othersSum p 0x14 3))
    else if (low = 0x10 ∨ low = 0x11 ∨ low = 0x13) ∧ sub = 3 then
      (demand, max demand (32768 - d.reservedElse p low sub))
    else if low = 0x10 ∨ low = 0x11 then (max i.lo demand, i.hi)
    else if subIn low 0x40 8 ∧ sub = 3 then
      (0, tgetD (d.part p).slotValues (low * 256 + 2) (2 ^ 64 - 1))
    else (i.lo, i.hi)
  else if idx = 0x2000 ∧ sub = 3 then (0, d.confAt 0x2000 1 - 1)
  else if subIn idx 0x7100 32 ∧ sub = 3 then (0, d.confAt idx 2)
  else (i.lo, i.hi)

/-! ### The checks of R398 -/

/-- One entry of a write (R363). -/
structure Entry where
  idx : Nat
  sub : Nat
  type : Nat
  status : Nat
  value : Bytes
  deriving DecidableEq, Repr

/-- Reports of R363. -/
def rAccepted : Nat := 0
/-- CLAMPED_LOW. -/
def rClampedLow : Nat := 1
/-- CLAMPED_HIGH. -/
def rClampedHigh : Nat := 2
/-- ROUNDED. -/
def rRounded : Nat := 3
/-- REJECTED_TYPE. -/
def rType : Nat := 4
/-- REJECTED_ACCESS. -/
def rAccess : Nat := 5

/-- Is a subindex the read-and-clear alias of an EVENT or ACCUM counter (R388)? -/
def isAlias (idx sub : Nat) : Bool :=
  decide (0x80 ≤ sub) && decide (sub < 0x100) &&
    (objInfo idx (sub - 0x80)).any (fun i => i.kind == .event || i.kind == .accum)

/-- Are the value's length and bits legal for the type (R398 step 3)? -/
def ObjInfo.wellTyped (i : ObjInfo) (w : Entry) : Bool :=
  let v := leNat w.value
  w.status == 0 && w.type == i.ty.code && match i.ty with
    | .str => decide (w.value.length ≤ i.maxLen) && w.value.all (fun b => decide (0x20 ≤ b.toNat) && decide (b.toNat ≤ 0x7E))
    | .blob => decide (i.minLen ≤ w.value.length) && decide (w.value.length ≤ i.maxLen)
    | .bool => w.value.length == 1 && decide (v ≤ 1)
    | t =>
      w.value.length == t.width && decide (v &&& i.legal = v) &&
        (!(i.kind == .event) || decide (v < 2 ^ 49)) &&
        (!i.encoded || (decide (i.lo ≤ v) && decide (v ≤ i.hi)))

/-- Further encodings that are reserved: a unit of R362 that names none, a TICK_IN source with pin 0, a slot
target that cannot be watched (R43, R408).
[notes/assumptions 56 DEDUCED, unsafe] -/
def Dev.encodingOk (d : Dev) (idx sub v : Nat) : Bool :=
  if (idx = 0x5010 ∨ idx = 0x5021) ∧ sub = 1 then unitLegal v
  else if idx = 0x2000 ∧ sub = 2 then !(v == 3 && d.timingPin == 0)
  else if idx = 0x2000 ∧ sub = 6 then !(v == 0 && d.source == 3)
  else if (subIn idx 0x7100 32 || (inPartArea idx && subIn (idx % 256) 0x40 8)) ∧ sub = 1 then watchable v
  else true

/-- Does a partition hold a job, an image or an object (R407)?
[notes/assumptions 53 DEDUCED, unsafe] -/
def Dev.partHolds (d : Dev) (p : Nat) : Bool :=
  !(d.jobsOf p).isEmpty || d.images.any (fun i => i.2.part == p) || d.objects.any (fun o => o.2.part == p)

/-- Does a region home data of a partition (R267)? -/
def Dev.regionHomes (d : Dev) (p r : Nat) : Bool :=
  (d.cacheUse r).any (fun e => e.part == p) || (d.stackUse (2 * r)).any (fun e => e.part == p) ||
    (d.stackUse (2 * r + 1)).any (fun e => e.part == p)

/-- Pinned bytes of a region cache in use, in lines (R299). -/
def Dev.pinnedLines (d : Dev) : Nat := maxNat ((List.range 6).map (fun r => usedUnits (d.cacheUse r)))

/-- Does the present state permit the change (R398 step 4)?
[notes/assumptions 52 DEDUCED, unsafe] -/
def State.permits (s : State) (sys : Bool) (idx sub v : Nat) (value : Bytes) : Bool :=
  let d := s.dev
  let lock := d.lockOpened.isSome || sys
  if inPartArea idx then
    let p := partOfIndex idx
    match idx % 256, sub with
    | 0x00, 1 => v != 0 || d.pconf p 0 1 == 0 || (!d.partHolds p && decide ((d.part p).tdi = .unlocked))
    | 0x01, 2 =>
      decide ((d.part p).tdi = .unlocked) &&
        (List.range 6).all (fun r => bit v r || !bit (d.pconf p 1 2) r || !d.regionHomes p r)
    | 0x10, 2 => v == 1 || !(d.jobsOf p).any (fun j => j.kvHomes.any (fun h => h.spilled))
    | low, 1 => !(subIn low 0x40 8) || (inPartArea (v % 65536) && partOfIndex (v % 65536) == p)
    | _, _ => true
  else match idx, sub with
    | 0x1100, 1 => !d.storeBusy && (v == 2 || !d.storeExhausted (v == 3))
    | 0x1100, 0x10 => d.start.orderly.isNone
    | 0x1100, 0x15 => !d.backup.alarmPending && (d.firmwareChunk value).isSome
    | 0x1100, 0x16 =>
      v == 3 || (!d.backup.alarmPending && (v == 1 || (d.start.install == 1 && !d.monotonicFull)))
    | 0x2000, 8 => d.source == 2
    | 0x3012, 1 => decide (d.pinnedLines ≤ v * 32768)
    | 0x5001, 3 => s.safety.causes == 0
    | 0x5001, 4 => lock
    | 0x5010, 1 => d.mgmtTest != 1 && d.mgmtTest != 2
    | 0x9001, 3 =>
      !(d.backup.meshBroken || d.backup.switchOpen || d.backup.cellLow)
    | 0x9010, _ =>
      !d.monotonicFull && (List.range 8).any (fun c => bit (if c + 1 = sub then v else d.rights c) 5)
    | 0x8000, _ => lock || (v != 7 && d.confAt 0x8000 sub != 7) || v == d.confAt 0x8000 sub
    | _, _ => true

/-- A value brought into the range and onto the step, with the report (R398 steps 5 to 8).
[notes/assumptions 56 DEDUCED, unsafe] -/
def fitValue (lo hi step v : Nat) : Nat × Nat :=
  if v < lo then (lo, rClampedLow)
  else if hi < v then (hi, rClampedHigh)
  else if v % step = 0 then (v, rAccepted)
  else if 2 * (v % step) ≤ step then (v - v % step, rRounded)
  else (v - v % step + step, rRounded)

/-! ### What an accepted value does -/

/-- Every object of a partition's block at its default (R407).
[notes/assumptions 55 DEDUCED, unsafe] -/
def Dev.clearBlock (d : Dev) (p : Nat) : Dev :=
  { d with
    conf := d.conf.filter (fun c => !(inPartArea (c.1 / 256) && partOfIndex (c.1 / 256) == p))
    force := d.force.filter (fun c => !(inPartArea (c.1 / 256) && partOfIndex (c.1 / 256) == p)) }

/-- A slot's state set from its target's present value (R408). -/
def State.resetSlot (s : State) (d : Dev) (idx target up : Nat) : Dev :=
  let above := decide (up ≤ ({ s with dev := d } : State).targetValue target)
  d.setSlot { index := idx, part := if inPartArea idx then some (partOfIndex idx) else none,
              target := target, up := up, down := 0, above := above } above

/-- A write of a watermark slot (R408); a lower up level clamps the down level (R399). -/
def State.writeSlot (s : State) (idx sub v : Nat) : Dev :=
  let d := s.dev
  if inPartArea idx then
    let low := idx % 256
    let p := partOfIndex idx
    let get (x : Part) (k df : Nat) : Nat := tgetD x.slotValues (low * 256 + k) df
    let d1 := d.modPart p (fun x => { x with slotValues := tset x.slotValues (low * 256 + sub) v })
    let d2 := if sub = 2 then d1.modPart p (fun x =>
        { x with slotValues := tset x.slotValues (low * 256 + 3) (min v (get x 3 0)) }) else d1
    if sub = 1 ∨ sub = 4 then
      s.resetSlot d2 idx (get (d2.part p) 1 0) (get (d2.part p) 2 (2 ^ 64 - 1))
    else d2
  else
    let d1 := d.setConf idx sub v
    let d2 := if sub = 2 then d1.setConf idx 3 (min v (d1.confAt idx 3)) else d1
    if sub = 1 ∨ sub = 4 then s.resetSlot d2 idx (d2.confAt idx 1) (d2.confAt idx 2) else d2

/-- A counter set by a write (R386, R390). -/
def Dev.writeCounter (d : Dev) (idx sub v : Nat) (i : ObjInfo) : Dev :=
  { d with counters := tset d.counters (objKey idx sub) (if i.kind = .event then v % 2 ^ 48 else v) }

/-- A job or stream selector (R382, R383). -/
def Dev.writeSelector (d : Dev) (who : Requester) (p low v : Nat) : Dev :=
  match who with
  | .host _ => d.modPart p (fun x => if low = 0x20 then { x with selectJob := v } else { x with selectStream := v })
  | .cred c => d.modCred c (fun x =>
      if low = 0x20 then { x with selectJob := tset x.selectJob p v } else { x with selectStream := tset x.selectStream p v })

/-- Rights in the backup domain (R413, R513). -/
def Dev.writeRights (d : Dev) (c v : Nat) : Dev :=
  ({ d with backup := { d.backup with rights := tset d.backup.rights c v } } : Dev).countMonotonic

/-- The acknowledgement of backup alarms (R515): in ALARM_HELD the host ports leave reset and the device is
ready; a start that had failed is then in the held state (R530). -/
def Dev.ackAlarm (d : Dev) : Eff :=
  let d1 := { d with backup := { d.backup with alarmPending := false, alarms := 0 } }
  if d.start.status = 3 then
    if d.start.failed then ({ d1 with start := { d1.start with status := 2 } } : Dev).eff
    else { dev := d1.becomeReady, safety := [.ready] }
  else d1.eff

/-- What an accepted value of a configuration or command object does at once; other configured values take
effect at the next boundary (R400).
[notes/assumptions 55 DEDUCED, unsafe; 57 DEDUCED, unsafe] -/
def State.accept (s : State) (who : Requester) (sys : Bool) (idx sub v : Nat) (value : Bytes) (i : ObjInfo) : Eff :=
  let d := s.dev
  let conf := d.setConf idx sub v
  if inPartArea idx then
    let p := partOfIndex idx
    let low := idx % 256
    if low = 0x00 ∧ sub = 1 then
      (if v = 1 ∧ d.pconf p 0 1 = 0 ∧ !(d.part p).created then
        ((d.clearBlock p).modPart p (fun x => { x with name := [], slotValues := [] })).setConf idx sub v
       else conf).eff
    else if low = 0x00 ∧ sub = 2 then (d.modPart p (fun x => { x with name := value })).eff
    else if low = 0x12 ∧ sub = 1 then
      (conf.setConf idx 2 (max v (conf.confAt idx 2))).eff
    else if i.kind != .notCounter then (d.writeCounter idx sub v i).eff
    else if low = 0x20 ∨ low = 0x21 then (d.writeSelector who p low v).eff
    else if subIn low 0x40 8 then (s.writeSlot idx sub v).eff
    else conf.eff
  else if i.kind != .notCounter then (d.writeCounter idx sub v i).eff
  else if subIn idx 0x7100 32 then (s.writeSlot idx sub v).eff
  else match idx, sub with
    | 0x1100, 1 => (if v = 2 then d else d.startStore (v == 3)).eff
    | 0x1100, 0x10 => d.orderlyReset (v == 2)
    | 0x1100, 0x15 => ((d.firmwareChunk value).getD d).eff
    | 0x1100, 0x16 => (if v = 1 then d.firmwareBegin else if v = 2 then d.firmwareCommit else d.firmwareCancel).eff
    | 0x2000, 1 =>
      let c := conf.setConf 0x2000 3 (min (v - 1) (conf.confAt 0x2000 3))
      (if v = d.confAt 0x2000 1 then c
       else { c with tick := { c.tick with periodWritten := some d.now } }).eff
    | 0x2000, 2 => (if v = d.source then conf else conf.selectTime sys).eff
    | 0x2000, 6 => (if v = d.timingPin then conf else if d.source < 2 then conf else conf.selectTime sys).eff
    | 0x2000, 8 => ({ d with time := { d.time with pendingSecond := some (v, d.now) } } : Dev).eff
    | 0x2003, 1 => conf.eff
    | 0x5001, 3 => { dev := d, safety := [.release] }
    | 0x5002, 1 => ({ d with lockOpened := if v = 0 then none else if d.lockOpened.isSome then d.lockOpened else some d.now } : Dev).eff
    | 0x5010, 1 => (d.requestMgmtTest v).eff
    | 0x5021, 1 => (d.planRemoval v 1).eff
    | 0x6000, 4 => d.replanTrigger.eff
    | 0x6003, 1 =>
      (if v = d.confAt 0x6003 1 then conf else { conf with tick := { conf.tick with capWritten := some d.now } }).eff
    | 0x9001, 3 => d.ackAlarm
    | 0x8000, n => if v = d.confAt 0x8000 n then d.eff else conf.eff.pinFunction (n - 1) v
    | 0x9010, n => (d.writeRights (n - 1) v).eff
    | _, _ => conf.eff

/-- An object of a partition that is not CREATED, which does not exist (R398 step 1). -/
def Dev.absent (d : Dev) (idx sub : Nat) : Bool :=
  inPartArea idx && d.pconf (partOfIndex idx) 0 1 != 1 && !(idx % 256 == 0 && sub == 1)

/-- One entry checked by R398 in order and applied, with its report. -/
def State.writeOne (s : State) (who : Requester) (sys : Bool) (w : Entry) : Eff × Nat :=
  let d := s.dev
  let keep (r : Nat) : Eff × Nat := (d.eff, r)
  if !indexExists w.idx || d.absent w.idx w.sub then keep rType
  else if w.sub = 0 || isAlias w.idx w.sub then keep rAccess
  else match objInfo w.idx w.sub with
    | none => keep rType
    | some i =>
      if !d.mayWrite who sys w.idx w.sub || i.acc == .ro then keep rAccess
      else if !i.wellTyped w || !d.encodingOk w.idx w.sub (leNat w.value) then keep rType
      else if !s.permits sys w.idx w.sub (leNat w.value) w.value then
        (if w.idx = 0x1100 ∧ w.sub = 1 ∧ !d.storeBusy then
          ({ d with store := { d.store with result := 3 } } : Dev).eff else d.eff, rAccess)
      else if i.ty = .str ∨ i.ty = .blob then (s.accept who sys w.idx w.sub 0 w.value i, rAccepted)
      else
        let lim := d.rangeOf w.idx w.sub i
        let f := fitValue lim.1 lim.2 i.step (leNat w.value)
        (s.accept who sys w.idx w.sub f.1 w.value i, f.2)

/-- Entries applied in order, each in the state the earlier ones left (R399). -/
def State.writeAll (s : State) (who : Requester) (sys : Bool) : List Entry → State × List Nat
  | [] => (s, [])
  | w :: ws =>
    let r := s.writeOne who sys w
    let rest := (s.apply r.1).writeAll who sys ws
    (rest.1, r.2 :: rest.2)

/-- A report word of R363. -/
def reportWord (idx sub r : Nat) : Nat := idx + sub * 2 ^ 16 + r * 2 ^ 24

/-- The value bytes of a number for an object. -/
def entryFor (idx sub v : Nat) : Entry :=
  match objInfo idx sub with
  | some i => { idx := idx, sub := sub, type := i.ty.code, status := 0, value := toLe i.ty.width v }
  | none => { idx := idx, sub := sub, type := 1, status := 0, value := toLe 1 v }

/-- The reports that replace the contents of 0x1101 (R405). -/
def Dev.setReport (d : Dev) (ks : List (Nat × Nat)) (rs : List Nat) : Dev :=
  { d with store := { d.store with
      report := (ks.zip rs).map (fun x => reportWord x.1.1 x.1.2 x.2)
      reportBad := (rs.filter (· != 0)).length } }

/-- Objects DEFAULTS writes (R417). -/
def defaultKeys : List (Nat × Nat) :=
  (deviceIndexes.filter (fun i => !(decide (0x9000 ≤ i) && decide (i < 0xA000)))).flatMap (fun i =>
    ((subsOf i).filter (fun sub => (objInfo i sub).any (fun o => o.acc == .rws))).map (fun sub => (i, sub)))

/-- DEFAULTS (R417): the default of every stored object outside the partition and security areas, with the
rights of the requester. -/
def State.defaults (s : State) (who : Requester) : State :=
  let r := s.writeAll who false (defaultKeys.map (fun k =>
    entryFor k.1 k.2 (((objInfo k.1 k.2).map ObjInfo.dflt).getD 0)))
  let d := r.1.dev.setReport defaultKeys r.2
  r.1.withDev { d with store := { d.store with result := 2 } }

/-- One entry of any request: DEFAULTS applies its own entries in turn. -/
def State.writeEntry (s : State) (who : Requester) (w : Entry) : State × Nat :=
  let r := s.writeOne who false w
  if w.idx = 0x1100 ∧ w.sub = 1 ∧ leNat w.value = 2 ∧ r.2 = rAccepted then (s.defaults who, r.2)
  else (s.apply r.1, r.2)

/-- The entries of one request, in order.
[notes/assumptions 58 DEDUCED, unsafe] -/
def State.writeEntries (s : State) (who : Requester) : List Entry → State × List Nat
  | [] => (s, [])
  | w :: ws =>
    let r := s.writeEntry who w
    let rest := r.1.writeEntries who ws
    (rest.1, r.2 :: rest.2)

/-! ### Entries in a payload (R363, R402) -/

/-- Entries read from a payload: those before its end, and the offset of the first head that does not lie
whole within it, or of a zero head that nonzero bytes follow. -/
def parseEntries : Nat → Bytes → Nat → List Entry × Option Nat
  | 0, _, _ => ([], none)
  | fuel + 1, bs, off =>
    if bs.length ≤ off then ([], none)
    else if bs.length < off + 8 then ([], if (bs.drop off).all (· == 0) then none else some off)
    else
      let h := leAt bs off 8
      if h = 0 then ([], if (bs.drop off).all (· == 0) then none else some off)
      else
        let len := field h 63 32
        let next := off + 8 + alignUp len 8
        if bs.length < next then ([], some off)
        else
          let rest := parseEntries fuel bs next
          ({ idx := field h 15 0, sub := field h 23 16, type := field h 27 24, status := field h 31 28,
             value := slice bs (off + 8) len } :: rest.1, rest.2)

/-- The entries of a payload. -/
def entriesOf (bs : Bytes) : List Entry × Option Nat := parseEntries (bs.length / 8 + 1) bs 0

/-- One 8 B report for each entry. -/
def reportBytes (ws : List Entry) (rs : List Nat) : Bytes :=
  (ws.zip rs).flatMap (fun x => toLe 8 (reportWord x.1.idx x.1.sub x.2))

/-! ### Reads (R387, R388, R392, R397) -/

/-- An entry of a read response (R363). -/
def readEntryBytes (idx sub type status : Nat) (value : Bytes) : Bytes :=
  toLe 8 (idx + sub * 2 ^ 16 + type * 2 ^ 24 + status * 2 ^ 28 + value.length * 2 ^ 32) ++ padTo 8 value

/-- Status of a read of an object that exists: 5 without the right or for a WO object, R384's for a counter
window.
[notes/assumptions 53 DEDUCED, unsafe] -/
def State.readStatus (s : State) (who : Requester) (idx sub : Nat) (i : ObjInfo) : Nat :=
  if !s.dev.mayRead who idx || i.acc == .wo then 5
  else if inPartArea idx && (idx % 256 == 0x20 || idx % 256 == 0x21) && sub != 1 then
    s.dev.windowStatus who (partOfIndex idx) (idx % 256)
  else 0

/-- One object read: the entry, all zero under status 4 and 5. -/
def State.readEntry (s : State) (who : Requester) (idx sub : Nat) : Bytes :=
  match (if s.dev.absent idx sub then none else objInfo idx sub) with
  | none => readEntryBytes idx sub 0 (if s.dev.mayRead who idx then 4 else 5) []
  | some i =>
    let v := s.valueBytes who idx sub i
    let st := s.readStatus who idx sub i
    readEntryBytes idx sub i.ty.code st (if st = 0 then v else v.map (fun _ => 0))

/-- Every object of an index in one snapshot: WHOLE and the record entry (R387, R392). -/
def State.readWhole (s : State) (who : Requester) (idx : Nat) : Bytes :=
  let l := (subsOf idx).filter (fun sub => !s.dev.absent idx sub)
  if indexExists idx && !l.isEmpty then l.flatMap (s.readEntry who idx)
  else readEntryBytes idx 0 0 (if s.dev.mayRead who idx then 4 else 5) []

/-- A counter set to 0 by its alias (R388). -/
def Dev.clearCounter (d : Dev) (who : Requester) (idx sub : Nat) : Dev :=
  let low := idx % 256
  if inPartArea idx && low = 0x20 then d.modJob (d.jobSelector who (partOfIndex idx) % 2 ^ 24) (fun j =>
    { j with counters := j.counters.set sub 0 })
  else if inPartArea idx && low = 0x21 then
    let sel := d.streamSelector who (partOfIndex idx)
    d.modJob (sel % 2 ^ 24) (fun j =>
      { j with streamCounters := tmodify j.streamCounters (sel / 2 ^ 32) {} (fun c => c.set sub 0) })
  else { d with counters := tset d.counters (objKey idx sub) 0 }

/-- A read of an alias (R388): the counter as it stood, then 0. -/
def State.readAlias (s : State) (who : Requester) (idx sub : Nat) : Bytes × Dev :=
  match (if s.dev.absent idx (sub - 0x80) then none else objInfo idx (sub - 0x80)) with
  | none => (readEntryBytes idx sub 0 4 [], s.dev)
  | some i =>
    let v := s.valueBytes who idx (sub - 0x80) i
    let st := if !s.dev.mayClear who idx then 5 else s.readStatus who idx (sub - 0x80) i
    if st = 0 then (readEntryBytes idx sub i.ty.code 0 v, s.dev.clearCounter who idx (sub - 0x80))
    else (readEntryBytes idx sub i.ty.code st (v.map (fun _ => 0)), s.dev)

/-- A read of any address: the entries' bytes and the device after it. -/
def State.readObject (s : State) (who : Requester) (idx sub : Nat) (whole : Bool) : Bytes × Dev :=
  if whole || sub == 0 then (s.readWhole who idx, s.dev)
  else if isAlias idx sub then s.readAlias who idx sub
  else (s.readEntry who idx sub, s.dev)

end Sys2Proof.Machine
end

