-- ==== Sys2Proof/Machine/Images.lean ====
section
/-!
DEFINITION. Model images (R258 to R261, R352): the five phases of LOAD_IMAGE and where weight tensors are placed;
and which packet of an inbox a command row starts.
-/

namespace Sys2Proof.Machine

/-! ### Starting a command -/

/-- Does an earlier command of the packet's job come first: on its ring by SEQ, on the other by arrival (R347, R248)? FENCE
does not wait. -/
def Dev.jobTurn (d : Dev) (p : Nat) (k : Packet) : Bool :=
  let x := d.part p
  let ofJob (o : Nat) : Bool := o != 0x30 && o != 0x31 && o != 0x32 && o != 0x33 && o != 0 && o != 1 && o != 0x11
  !(ofJob k.opcode && (x.inbox.any (fun q => ofJob q.opcode && q.job == k.job &&
      decide (q.order < k.order) && !q.started && !q.checked) ||
    x.waits.any (fun w => w.pkt.opcode == 2 && w.pkt.job == k.job && decide (w.pkt.order < k.order))))

/-- The packet a row of an opcode starts: in the inbox, not started, of a partition that is not quiesced, in its
turn (R370). -/
def Dev.starting (d : Dev) (p tag opcode : Nat) : Option Packet :=
  match d.packet? p tag with
  | some k =>
    if k.opcode = opcode && !k.started && !k.checked && d.ready && !(d.part p).quiesced && d.jobTurn p k then some k
    else none
  | none => none

/-- The job a started command names, or the code it ends with (R17, R346). -/
def Dev.jobFor (d : Dev) (p : Nat) (k : Packet) : Except Code Job :=
  match d.liveJob k.job with
  | none => .error .rejectedFormat
  | some j => if j.part = p then .ok j else .error .notOwner

/-- The start of a command that needs nothing but its packet.
[notes/assumptions 3 DESIGN CHOICE, unsafe] -/
def Dev.startWith (d : Dev) (p tag opcode : Nat) (f : Packet → Eff) : Eff :=
  match d.starting p tag opcode with
  | some k => f k
  | none => d.eff

/-- A command that ends at once with a failure. -/
def Dev.refuse (d : Dev) (p : Nat) (k : Packet) (c : Code) : Eff := (d.complete p k c).eff

/-! ### Image entries (R352) -/

/-- Is a tensor entry legal: field ranges, extents by rank, the pitch of a MATRIX (R227), whole within the data?
[notes/assumptions 114 DEDUCED, unsafe] -/
def ImageEntry.legal (e : ImageEntry) (dataBytes : Nat) : Bool :=
  !e.reserved && decide (e.fmt ≤ 13) && decide (e.layout ≤ 2) && decide (1 ≤ e.rank) && decide (e.rank ≤ 4) &&
    e.offset % 128 == 0 && !(e.streamed && e.stackMask != 0) && e.d0 != 0 &&
    (if e.rank < 2 then e.d1 == 0 else e.d1 != 0) && (if e.rank < 3 then e.d2 == 0 else e.d2 != 0) &&
    (if e.rank < 4 then e.d3 == 0 else e.d3 != 0) &&
    (if e.layout = 0 then e.pitch != 0 && e.pitch % 128 == 0 && decide (rowElementBytes e.fmt e.d0 ≤ e.pitch)
     else e.pitch == 0) && decide (e.offset + e.tensor.sliceBytes ≤ dataBytes)

/-- The tensor entries of a payload; an all-zero last entry is padding to 64 B.
[notes/assumptions 114 DEDUCED, unsafe] -/
def entriesIn (bs : Bytes) : List ImageEntry :=
  let ws := (pieces 32 bs).map leNat
  (if ws.getLast? = some 0 then ws.dropLast else ws).map ImageEntry.ofNat

/-- Stacks and columns a tensor is split over (R259).
[notes/assumptions 23 DEDUCED, unsafe] -/
def ImageEntry.split (e : ImageEntry) (pick : Option Nat) : List (Nat × Nat × Nat) :=
  let ks := (List.range 12).filter (bit e.stackMask)
  if ks.isEmpty then (pick.map (fun k => (k, 0, e.outer))).toList
  else
    let per := ceilDiv e.outer ks.length
    (ks.zipIdx.map (fun k => (k.1, k.2 * per, min per (e.outer - k.2 * per)))).filter (fun x => x.2.2 != 0)

/-- Is a weight laid out for the engines: a matrix in a format they read (R119, R123)?
[notes/assumptions 31 DEDUCED, unsafe] -/
def ImageEntry.onEngines (t : ImageEntry) : Bool := t.rank == 2 && (engineDepth t.fmt).isSome

/-- A range to place: its stack, its columns, and the line address it starts at, modulo an alignment. -/
structure SliceWish where
  stack : Nat
  col0 : Nat
  cols : Nat
  align : Nat := 16
  phase : Nat := 0
  deriving DecidableEq, Repr

/-- The ranges a stack's columns are placed in: one for each of its 16 engines, that of engine e from a line of channel
2e (R121, R123, R284), or one from a 2,048 B boundary for a tensor no engine reads (R259).
[notes/assumptions 31 DEDUCED, unsafe] -/
def ImageEntry.wishes (t : ImageEntry) (x : Nat × Nat × Nat) : List SliceWish :=
  if t.onEngines then
    (engineShares x.2.1 (x.2.1 + x.2.2) (List.range 16)).map (fun g =>
      { stack := x.1, col0 := g.2.1, cols := g.2.2, align := 32, phase := 2 * g.1 })
  else [{ stack := x.1, col0 := x.2.1, cols := x.2.2 }]

/-- The ranges of one tensor placed, or none when one does not fit (R259, R260).
[notes/assumptions 31 DEDUCED, unsafe] -/
def Eff.placeSlices (e : Eff) (part : Nat) (t : ImageEntry) : List SliceWish → Option (Eff × List WeightSlice)
  | [] => some (e, [])
  | x :: xs =>
    let lines := ceilDiv (t.sliceBytesOf x.col0 x.cols) 128
    if (e.dev.stack x.stack).outOfService then none
    else match e.takeRoom x.stack x.align lines part (phase := x.phase) with
      | none => none
      | some (la, e1) => (Eff.placeSlices e1 part t xs).map (fun r =>
          (r.1, { stack := x.stack, la := la, lines := lines, col0 := x.col0, cols := x.cols } :: r.2))

/-- One weight tensor placed; a STREAMED one has no placement (R261).
[notes/assumptions 31 DEDUCED, unsafe] -/
def Eff.placeWeight (e : Eff) (part : Nat) (t : ImageEntry) : Option (Eff × List WeightSlice) :=
  if t.streamed then some (e, [])
  else
    let sp := t.split (e.dev.roomiest (e.dev.usableStacks part))
    if sp.isEmpty then none else e.placeSlices part t (sp.flatMap t.wishes)

/-- Every tensor of an image placed in ascending index (R259). -/
def Eff.placeWeights (e : Eff) (part : Nat) : List ImageEntry → Option (Eff × List (List WeightSlice))
  | [] => some (e, [])
  | t :: ts =>
    match e.placeWeight part t with
    | none => none
    | some (e1, l) => (Eff.placeWeights e1 part ts).map (fun r => (r.1, l :: r.2))

/-- The bytes of a placed slice copied from the image's durable home. -/
def Image.copyOps (im : Image) (t : ImageEntry) (s : WeightSlice) : List MemOp :=
  let x := t.tensor
  let src := Space.stratus.addr (im.loc * 4096 + t.offset)
  let dst := (Space.stack s.stack).addr (s.la * 128)
  let p := t.planes s.col0 s.cols
  [.copy (src + p.1.1) dst p.1.2] ++
    (if fmtHasScale x.fmt then
      [.copy (src + x.scaleBase + p.2.1) (dst + alignUp p.1.2 128) p.2.2]
     else []) ++
    [.own ((Space.stack s.stack).firstLine + s.la) s.lines true im.part]

/-! ### LOAD_IMAGE (R352) -/

/-- The image a tag names. -/
def Dev.imageOf (d : Dev) (tag : Nat) : Option Image :=
  match tget d.images (tag % 2 ^ 32) with
  | some i => if i.generation = tag / 2 ^ 32 then some i else none
  | none => none

/-- An image replaced. -/
def Dev.setImage (d : Dev) (i : Image) : Dev := { d with images := tset d.images i.number i }

/-- Is the phase field well formed: bits [7:3] 0, the offset 0 where the phase has none?
[notes/assumptions 114 DEDUCED, unsafe] -/
def phaseClean (k : Packet) : Bool :=
  field k.arg0 7 3 == 0 && (field k.arg0 2 0 == 1 || field k.arg0 2 0 == 2 || field k.arg0 63 8 == 0)

/-- The start of a LOAD_IMAGE phase on a tagged image of the partition. -/
def Dev.imagePhase (d : Dev) (p tag phase : Nat) (f : Packet → Image → Eff) : Eff :=
  d.startWith p tag 1 (fun k =>
    if field k.arg0 2 0 != phase then d.eff
    else if !phaseClean k then d.refuse p k .rejectedFormat
    else match d.imageOf k.arg1 with
      | none => d.refuse p k .rejectedFormat
      | some im => if im.part = p then f k im else d.refuse p k .notOwner)

/-- Free bytes of a partition's Stratus reservation for images and stored tensors (R317). -/
def Dev.stratusRoom (d : Dev) (p : Nat) : Nat :=
  d.pforce p 0x13 3 * 1073741824 -
    (d.stratusBytes p (fun o => !o.saved) +
      sumNat (d.images.map (fun i => if i.2.part = p then i.2.units * 4096 else 0)))

/-- LOAD_IMAGE BEGIN; a packet with a reserved phase value ends here too. -/
def Dev.imageBegin (d : Dev) (p tag : Nat) : Eff :=
  d.startWith p tag 1 (fun k =>
    let ph := field k.arg0 2 0
    if 1 ≤ ph && ph ≤ 4 then d.eff
    else if ph != 0 || !phaseClean k || k.arg1 != 0 || k.payload.length < 64 then d.refuse p k .rejectedFormat
    else
      let h := leAt k.payload 0 64
      let n := field h 31 0
      let bytes := field h 127 64
      let es := entriesIn (k.payload.drop 64)
      if field h 63 32 != 0 || field h 511 128 != 0 || n = 0 || 2 ^ 24 < n || n < es.length ||
          es.any (fun e => !e.legal bytes) then d.refuse p k .rejectedFormat
      else
        let units := ceilDiv bytes 4096
        if d.stratusRoom p < units * 4096 then d.refuse p k .noRoom
        else match d.takeStratus units p with
          | none => d.refuse p k .noRoom
          | some (loc, d1) =>
            let no := d1.nextImage
            let im : Image :=
              { number := no, generation := 1, part := p, nTens := n, dataBytes := bytes, entries := es
                received := 0, loc := loc, units := units, placed := false, slices := [] }
            let d2 := ({ d1 with nextImage := no + 1 } : Dev).setImage im
            (d2.complete p k .ok 0 (toLe 4 no ++ toLe 4 1)).eff)

/-- LOAD_IMAGE TABLE.
[notes/assumptions 114 DEDUCED, unsafe] -/
def Dev.imageTable (d : Dev) (p tag : Nat) : Eff :=
  d.imagePhase p tag 1 (fun k im =>
    let es := entriesIn k.payload
    if im.ended || field k.arg0 63 8 != im.entries.length || im.nTens < im.entries.length + es.length ||
        es.any (fun e => !e.legal im.dataBytes) then d.refuse p k .rejectedFormat
    else ((d.setImage { im with entries := im.entries ++ es }).complete p k .ok).eff)

/-- LOAD_IMAGE DATA: the bytes go to Stratus and the command completes when they are durable (R327). -/
def Dev.imageData (d : Dev) (p tag : Nat) : Eff :=
  d.imagePhase p tag 2 (fun k im =>
    let n := min k.payload.length (im.dataBytes - im.received)
    if im.ended || field k.arg0 63 8 != im.received || n = 0 || n + 64 ≤ k.payload.length
    then d.refuse p k .rejectedFormat
    else if d.stratus.state = 2 then d.refuse p k .tierFailed
    else ((d.setImage { im with received := im.received + n }).wait p k .durable).eff)

/-- Does a data packet of an image still wait to be durable? -/
def Dev.dataPending (d : Dev) (p : Nat) (im : Image) : Bool :=
  (d.part p).waits.any (fun w => w.pkt.opcode == 1 && decide (w.what = .durable) &&
    w.pkt.arg1 % 2 ^ 32 == im.number)

/-- LOAD_IMAGE END (R259, R260). -/
def Dev.imageEnd (d : Dev) (p tag : Nat) : Eff :=
  d.imagePhase p tag 3 (fun k im =>
    if d.dataPending p im then d.eff
    else if !k.payload.isEmpty || im.ended || im.entries.length != im.nTens || im.received != im.dataBytes
    then d.refuse p k .rejectedFormat
    else if im.entries.any (fun e => (List.range 12).any (fun s => bit e.stackMask s && !d.regionUsable p (s / 2)))
    then d.refuse p k .notOwner
    else match d.eff.placeWeights p im.entries with
      | none =>
        ((d.eff.freeUnits im.loc im.units).mod (fun x => { x with images := terase x.images im.number })).mod
          (fun x => x.complete p k .noRoom)
      | some (e, sl) =>
        e.mod (fun x => (x.setImage { im with slices := sl, ended := true }).wait p k (.placed im.number)))

/-- Does a LOAD_IMAGE END wait for the placement of an image? -/
def Dev.placing (d : Dev) (image : Nat) : Bool :=
  d.parts.any (fun x => x.2.waits.any (fun w => decide (w.what = .placed image)))

/-- LOAD_IMAGE UNLOAD (R260). -/
def Dev.imageUnload (d : Dev) (p tag : Nat) : Eff :=
  d.imagePhase p tag 4 (fun k im =>
    if d.dataPending p im || d.placing im.number || im.restoring then d.eff
    else if !k.payload.isEmpty || d.liveJobs.any (fun j => j.imageNo == im.number) then d.refuse p k .rejectedFormat
    else
      let e1 := im.slices.foldl (fun acc l => l.foldl (fun a s =>
        if s.lost then a else a.freeLines s.stack s.la s.lines) acc) d.eff
      (e1.freeUnits im.loc im.units).mod (fun x =>
        (({ x with images := terase x.images im.number } : Dev).complete p k .ok)))

/-- LOAD_IMAGE_BEGIN. -/
def execLoadImageBegin (p : Fin 16) (tag : Nat) (s : State) : Host.Outcome State Fault Refusal :=
  s.done (s.dev.imageBegin p tag)

/-- LOAD_IMAGE_TABLE. -/
def execLoadImageTable (p : Fin 16) (tag : Nat) (s : State) : Host.Outcome State Fault Refusal :=
  s.done (s.dev.imageTable p tag)

/-- LOAD_IMAGE_DATA. -/
def execLoadImageData (p : Fin 16) (tag : Nat) (s : State) : Host.Outcome State Fault Refusal :=
  s.done (s.dev.imageData p tag)

/-- LOAD_IMAGE_END. -/
def execLoadImageEnd (p : Fin 16) (tag : Nat) (s : State) : Host.Outcome State Fault Refusal :=
  s.done (s.dev.imageEnd p tag)

/-- UNLOAD. -/
def execUnload (p : Fin 16) (tag : Nat) (s : State) : Host.Outcome State Fault Refusal :=
  s.done (s.dev.imageUnload p tag)

end Sys2Proof.Machine
end

