-- ==== Sys2Proof/Machine/Draws.lean ====
section
/-!
DEFINITION. The reproducible draws of the generator: Philox4x32-10 (R32), its counter (R33), the
three draw kinds (R34) and the rounding draw of R35 and R110.
-/

namespace Sys2Proof.Machine

/-- One round of Philox4x32 (R32): the four counter words and the two key words. -/
def philoxRound (c : Nat × Nat × Nat × Nat) (k0 k1 : Nat) : Nat × Nat × Nat × Nat :=
  let p0 := 0xD2511F53 * c.1
  let p1 := 0xCD9E8D57 * c.2.2.1
  ((p1 >>> 32) ^^^ c.2.1 ^^^ k0, p1 % 2 ^ 32, (p0 >>> 32) ^^^ c.2.2.2 ^^^ k1, p0 % 2 ^ 32)

/-- `n` rounds with the key increments of R32. -/
def philoxRounds : Nat → Nat × Nat × Nat × Nat → Nat → Nat → Nat × Nat × Nat × Nat
  | 0, c, _, _ => c
  | n + 1, c, k0, k1 =>
    philoxRounds n (philoxRound c k0 k1) ((k0 + 0x9E3779B9) % 2 ^ 32) ((k1 + 0xBB67AE85) % 2 ^ 32)

/-- One call of the generator: ten rounds (R32). -/
def philox (c : Nat × Nat × Nat × Nat) (seed : Nat) : Nat × Nat × Nat × Nat :=
  philoxRounds 10 c (seed % 2 ^ 32) ((seed >>> 32) % 2 ^ 32)

/-- Word `i` of a call. -/
def philoxWord (w : Nat × Nat × Nat × Nat) (i : Nat) : Nat :=
  match i with
  | 0 => w.1
  | 1 => w.2.1
  | 2 => w.2.2.1
  | _ => w.2.2.2

/-- Who draws: id, seed and the step being computed (R22, R33, R179). -/
structure Drawer where
  id : Nat
  seed : Nat
  step : Nat
  deriving DecidableEq, Repr

/-- The counter of a draw at a site (R33); `c0` is the element index field of its kind. -/
def drawCounter (d : Drawer) (site c0 : Nat) : Nat × Nat × Nat × Nat :=
  (c0 % 2 ^ 32, site * 2 ^ 16 + (d.step >>> 32) % 2 ^ 16, d.step % 2 ^ 32, d.id % 2 ^ 32)

/-- The BITS word of element `e` at a site (R34). -/
def bitsDraw (d : Drawer) (site e : Nat) : Nat :=
  philoxWord (philox (drawCounter d site (e / 4)) d.seed) (e % 4)

/-- The UNIFORM draw of element `e` (R34). -/
def uniformDraw (d : Drawer) (site e : Nat) : Ext := .fin false (bitsDraw d site e >>> 8) (-24)

/-- The NORMAL draw of element `e` (R34, R88). -/
def normalDraw (d : Drawer) (site e : Nat) : Ext :=
  let w := philox (drawCounter d site (e / 2)) d.seed
  let a := philoxWord w (2 * (e % 2))
  let b := philoxWord w (2 * (e % 2) + 1)
  let u1 : Ext := .fin false ((a >>> 8) + 1) (-24)
  let u2 : Ext := .fin false (b >>> 8) (-24)
  let l := lnF u1
  let minus2l := (Ext.fin true 2 0).mul l
  mulF (sqrtF minus2l) (cos2piF u2)

/-- The FP32 operand POST takes from a draw of the gate control word's kind (R87).
[notes/assumptions 34 DEDUCED, unsafe] -/
def drawOperand (d : Drawer) (kind site e : Nat) : Ext :=
  match kind with
  | 1 => rn32 (.fin false (bitsDraw d site e) 0)
  | 2 => uniformDraw d site e
  | _ => normalDraw d site e

/-- The rounding of output element `e` of operator `k` (R35, R110). -/
def outRounding (d : Drawer) (sr : Bool) (k e : Nat) : Rounding :=
  if sr then .stochastic (bitsDraw d (0x8000 + k) e) else .nearest

end Sys2Proof.Machine
end

