-- ==== Sys2Proof/Machine/Operators.lean ====
section
/-!
DEFINITION. What the operators of a program compute, element by element: operand forms (R101, R103,
R200, R227), MATMUL (R72 to R74, R120), convolutions (R203 to R213), REGROUP, POOL and GATE (R86,
R201, R214), attention (R130, R132, R157), the recurrence (R172), top-k (R217 to R221) and atomics
(R308).
-/

namespace Sys2Proof.Machine

/-- What an operator sees of the device in one step: the memory with the round's staged bytes over
it, the job's program, homes and image, the members of the step, the phase, the page lists and
frames, the state objects of each member, and the units of Stratus that could not be read.
[notes/assumptions 13 DESIGN CHOICE, unsafe] -/
structure View where
  mem : Mem
  stage : List Host.Cell
  prog : Program
  homes : List (Option TensorHome)
  image : Image
  members : List Member
  phase : Phase
  kv : List (Nat × List KvList)
  frames : List (Nat × PageFrame)
  states : List (Nat × List (Option StateObj))
  resets : List Nat
  bad : List Nat

/-- A staged byte, if the round wrote one at the address. -/
def stagedByte : List Host.Cell → Nat → Option Byte
  | [], _ => none
  | (k, v) :: t, a => if k = a then some v else stagedByte t a

/-- The bytes at an address, the round's staged bytes over the memory (R228, R134).
[notes/assumptions 15 DEDUCED, unsafe] -/
def View.bytes (v : View) (a n : Nat) : Bytes :=
  (List.range n).map (fun i => (stagedByte v.stage (a + i)).getD (v.mem.read (a + i)))

/-- The bytes of a tensor that the round writes at `w` and whose committed bytes are at `c`: an ACT
tensor reads +0 where the round has not written (R228). -/
def View.tensorBytes (v : View) (act : Bool) (w c n : Nat) : Bytes :=
  (List.range n).map (fun i =>
    match stagedByte v.stage (w + i) with
    | some b => b
    | none => if act then 0 else v.mem.read (c + i))

/-- Address of buffer `k` of a home. -/
def TensorHome.buffer (h : TensorHome) (k : Nat) : Nat := h.space.addr (h.base + k * h.bufBytes)

/-- Address of the committed buffer and of the buffer this round writes (R257). -/
def TensorHome.committed (h : TensorHome) : Nat := h.buffer h.current
def TensorHome.staged (h : TensorHome) (two : Bool) : Nat :=
  if two then h.buffer (1 - h.current) else h.buffer h.current

/-- Has a tensor class two buffers (R257)? -/
def hasTwoBuffers (cls : Nat) : Bool := cls == 2 || cls == 4

/-! ### Reading elements -/

/-- The value of element `col` of a packed row with its scale byte. -/
def packedElem (fmt : Nat) (row : Bytes) (sc i : Nat) : Ext := scaledValue fmt (codeAt fmt row i) sc

/-- The byte window that holds element `col` of a row: start and the index inside it. -/
def elemWindow (fmt col : Nat) : Nat × Nat :=
  let g := col / 32 * 32
  (g * fmtBits fmt / 8, col - g)

/-- Byte `off` of a weight tensor from its placements, or from Stratus when it is streamed
(R246, R259, R261). -/
def View.weightByte (v : View) (ref off : Nat) : Byte :=
  match v.image.entries[ref]? with
  | none => 0
  | some e =>
    if e.streamed then v.mem.read (Space.stratus.addr (v.image.loc * 4096 + e.offset + off))
    else
      let t := e.tensor
      let inScale := decide (t.scaleBase ≤ off) && fmtHasScale t.fmt
      -- where a slice holds the byte, as the offset from the slice's first line
      let at_ (s : WeightSlice) : Option Nat :=
        let p := e.planes s.col0 s.cols
        let o := off - t.scaleBase - p.2.1
        if inScale then
          if t.scaleBase + p.2.1 ≤ off ∧ o < p.2.2 then some (alignUp p.1.2 128 + o) else none
        else if p.1.1 ≤ off ∧ off < p.1.1 + p.1.2 then some (off - p.1.1) else none
      match (v.image.slices.getD ref []).findSome? (fun s => (at_ s).map (fun o => (s, o))) with
      | none => 0
      | some x => v.mem.read ((Space.stack x.1.stack).addr (x.1.la * 128) + x.2)

/-- Bytes of a weight tensor. -/
def View.weightBytes (v : View) (ref off n : Nat) : Bytes :=
  (List.range n).map (fun i => v.weightByte ref (off + i))

/-- Code and scale byte of an element of a weight tensor, by linear index. -/
def View.weightCode (v : View) (t : Tensor) (lin : Nat) : Nat × Nat :=
  let row := lin / max t.d0 1
  let col := lin % max t.d0 1
  let w := elemWindow t.fmt col
  let sc := if fmtHasScale t.fmt then
      (v.weightByte t.ref (t.scaleBase + row * t.rowScales + col / 32)).toNat else 0
  (codeAt t.fmt (v.weightBytes t.ref (row * t.rowPitch + w.1) (packedBytes t.fmt 32 + 1)) w.2, sc)

/-- Who draws for a member (R33, R179). -/
def Member.drawer (m : Member) : Drawer := { id := m.who.id, seed := m.seed, step := m.step }

/-- Byte offset of an INPUT tensor's slice in a frame (R229). -/
def frameOffset (p : Program) (h : Nat) : Nat :=
  sumNat ((p.tensors.take h).map (fun t => if t.cls = 3 then t.sliceStride else 0))

/-- Bytes a frame must hold (R229): up to the end of its last slice. -/
def frameBytes (p : Program) : Nat :=
  p.tensors.foldl (fun acc t => if t.cls = 3 then alignUp acc 128 + t.sliceBytes else acc) 0

/-- Code and scale byte of an element of an INPUT tensor: from the member's frame, or drawn at its OBS_SITE and converted
to its format, whose blocks run along each row (R103, R229). -/
def View.inputCode (v : View) (h : Nat) (t : Tensor) (m : Member) (lin : Nat) : Nat × Nat :=
  let row := lin / max t.d0 1
  let col := lin % max t.d0 1
  match m.frame with
  | some bs =>
    let w := elemWindow t.fmt col
    let base := frameOffset v.prog h
    let sc := if fmtHasScale t.fmt then leAt bs (base + t.scaleBase + row * t.rowScales + col / 32) 1 else 0
    (codeAt t.fmt (slice bs (base + row * t.rowPitch + w.1) (packedBytes t.fmt 32 + 1)) w.2, sc)
  | none =>
    let kind := ((v.prog.sites.find? (fun s => s.site == t.obsSite)).map SiteEntry.kind).getD 0
    let draw (i : Nat) : Ext := drawOperand m.drawer (kind + 1) t.obsSite i
    let lo := col / 32 * 32
    let block := (List.range (min 32 (t.d0 - lo))).map (fun i => draw (row * t.d0 + lo + i))
    if fmtIsMx t.fmt then
      let b := encodeMx t.fmt (block.map (fun x => (x, Rounding.nearest)))
      (b.2.getD (col - lo) 0, b.1)
    else if t.fmt = 13 then
      let b := sbFresh block
      (codeOfSigned 16 (b.2.getD (col - lo) 0), b.1)
    else (encodeScalar t.fmt .nearest (draw lin), 0)

/-- Row within the member's slice for a PER_FUTURE tensor, the whole row number otherwise. -/
def IProb.rowOf (q : IProb) (perFuture : Bool) (row : Nat) : Nat :=
  if perFuture && q.rpm != 0 then row % q.rpm else row

/-- A member by position. -/
def View.member (v : View) (i : Nat) : Member :=
  v.members.getD i { who := ⟨false, 0⟩, seed := 0, step := 0, slot := 0, frame := none }

/-- Code and scale byte of an element at a linear index of a tensor's slice for a member (R227, R228). -/
def View.code (v : View) (h mem lin : Nat) : Nat × Nat :=
  match v.prog.tensor? h with
  | none => (0, 0)
  | some t =>
    if t.cls = 0 then v.weightCode t lin
    else if t.cls = 3 then v.inputCode h t (v.member mem) lin
    else
      match (v.homes[h]?).join with
      | none => (0, 0)
      | some hm =>
        let off := if t.perFuture then (v.member mem).slot * t.sliceStride else 0
        let w := hm.staged (hasTwoBuffers t.cls) + off
        let c := hm.committed + off
        let row := lin / max t.d0 1
        let col := lin % max t.d0 1
        let win := elemWindow t.fmt col
        let act := t.cls == 1
        let so := t.scaleBase + row * t.rowScales + col / 32
        let sc := if fmtHasScale t.fmt then leNat (v.tensorBytes act (w + so) (c + so) 1) else 0
        let eo := row * t.rowPitch + win.1
        (codeAt t.fmt (v.tensorBytes act (w + eo) (c + eo) (packedBytes t.fmt 32 + 1)) win.2, sc)

/-- Element at a linear index of a tensor's slice for a member (R102, R227). -/
def View.elem (v : View) (h mem lin : Nat) : Ext :=
  match v.prog.tensor? h with
  | none => .zero
  | some t =>
    let c := v.code h mem lin
    scaledValue t.fmt c.1 c.2

/-- Linear index of element (row, col) of an operand of a problem, with its element offset. -/
def View.operandAt (v : View) (h : Nat) (q : IProb) (off row col : Nat) : Nat :=
  match v.prog.tensor? h with
  | none => 0
  | some t => off + q.rowOf t.perFuture row * t.d0 + col

/-- Element (row, col) of an operand of a problem, with its element offset. -/
def View.operand (v : View) (h : Nat) (q : IProb) (off row col : Nat) : Ext :=
  v.elem h (q.memberOf row) (v.operandAt h q off row col)

/-! ### Writing rows -/

/-- The cells that write codes of a format without scales from a linear index of a destination slice; the end of a row
takes its padding with it (R200, R307).
[notes/assumptions 107 DEDUCED, unsafe] -/
def View.writeCodes (v : View) (h mem lin : Nat) (codes : List Nat) : List Host.Cell :=
  match v.prog.tensor? h, (v.homes[h]?).join with
  | some t, some hm =>
    let base := hm.staged (hasTwoBuffers t.cls) +
      (if t.perFuture then (v.member mem).slot * t.sliceStride else 0)
    let col := lin % max t.d0 1
    let rowAt := base + lin / max t.d0 1 * t.rowPitch
    let rowEnd := t.rowEnd
    cellsAt (rowAt + col * fmtBits t.fmt / 8) (packElements t.fmt codes) ++
      (if t.d0 ≤ col + codes.length then cellsAt (rowAt + rowEnd) (List.replicate (t.rowPitch - rowEnd) 0) else [])
  | _, _ => []

/-- The cells that write the values of consecutive elements from a linear index of a destination
slice, each with its rounding; blocks run over groups of 32 lanes and a block that a piece of a row leaves short is
padded with +0 (R86, R103, R108, R112). The end of a row takes its padding with it (R200, R307).
[notes/assumptions 107 DEDUCED, unsafe] -/
def View.writeRow (v : View) (h mem lin : Nat) (xs : List (Ext × Rounding)) : List Host.Cell :=
  match v.prog.tensor? h, (v.homes[h]?).join with
  | some t, some hm =>
    let base := hm.staged (hasTwoBuffers t.cls) +
      (if t.perFuture then (v.member mem).slot * t.sliceStride else 0)
    let row := lin / max t.d0 1
    let col := lin % max t.d0 1
    let rowAt := base + row * t.rowPitch
    let rowEnd := t.rowEnd
    let pad := if t.d0 ≤ col + xs.length then cellsAt (rowAt + rowEnd) (List.replicate (t.rowPitch - rowEnd) 0) else []
    (if fmtIsMx t.fmt then
      (pieces 32 xs).zipIdx.flatMap (fun b =>
        let e := encodeMx t.fmt b.1
        let codes := e.2 ++ List.replicate (32 - e.2.length) 0
        let at' := (col + 32 * b.2) * fmtBits t.fmt / 8
        cellsAt (rowAt + at') ((packElements t.fmt codes).take (t.rowPitch - at')) ++
          [(base + t.scaleBase + row * t.rowScales + (col + 32 * b.2) / 32, BitVec.ofNat 8 e.1)])
    else if t.fmt = 13 then
      (pieces 32 xs).zipIdx.flatMap (fun b =>
        let e := sbFresh (b.1.map Prod.fst)
        let codes := e.2.map (codeOfSigned 16) ++ List.replicate (32 - e.2.length) 0
        let at' := (col + 32 * b.2) * 2
        cellsAt (rowAt + at') ((packElements 13 codes).take (t.rowPitch - at')) ++
          [(base + t.scaleBase + row * t.rowScales + (col + 32 * b.2) / 32, BitVec.ofNat 8 e.1)])
    else v.writeCodes h mem lin (xs.map (fun x => encodeScalar t.fmt x.2 x.1))) ++ (if fmtHasScale t.fmt then pad else [])
  | _, _ => []

/-! ### The fused gate (R86) -/

/-- Value and rounding of output element (row, col) of a problem from the accumulated value x. -/
def View.gateElem (v : View) (o : OpDesc) (opIdx : Nat) (q : IProb) (row col : Nat) (x : Ext) :
    Ext × Rounding :=
  let g := o.gate
  let dst := v.prog.tensor? o.dst
  let d0 := (dst.map Tensor.d0).getD 1
  let pf := (dst.map Tensor.perFuture).getD false
  let lin := q.offD + q.rowOf pf row * d0 + col
  let m := v.member (q.memberOf row)
  let nv := (((v.prog.tensor? o.vec).map Tensor.d0).getD 0) / 2
  let s := if g.pre = 1 || g.pre = 3 then v.elem o.vec 0 col else .one
  let b := if 2 ≤ g.pre then v.elem o.vec 0 (nv + col) else .zero
  let operand :=
    if g.post = 0 then .zero
    else if g.draw = 0 then toFP32Value (v.operand o.src2 q q.offD row col)
    else drawOperand m.drawer g.draw g.site lin
  (gateValue g s b operand x, outRounding m.drawer g.sr opIdx lin)

/-- The cells of one output row of a problem, columns `col0` onward, from accumulated values.
[notes/assumptions 107 DEDUCED, unsafe] -/
def View.outRow (v : View) (o : OpDesc) (opIdx : Nat) (q : IProb) (row col0 : Nat) (xs : List Ext) :
    List Host.Cell :=
  let dst := v.prog.tensor? o.dst
  let d0 := (dst.map Tensor.d0).getD 1
  let pf := (dst.map Tensor.perFuture).getD false
  v.writeRow o.dst (q.memberOf row) (q.offD + q.rowOf pf row * d0 + col0)
    (xs.zipIdx.map (fun x => v.gateElem o opIdx q row (col0 + x.2) x.1))

/-! ### MATMUL (R72 to R74, R120) -/

/-- Signed integer of an INT8 operand value. -/
def extInt (x : Ext) : Int := roundInt x

/-- One accumulated output element from its products pass by pass: FP32, or INT32 with saturation
after INT8 × INT8 (R72, R74). -/
def accumulated (int8 : Bool) (passes : List (List (Ext × Ext))) : Ext :=
  if int8 then
    Ext.ofInt (accumulateInt none (passes.map (fun ps =>
      (ps.map (fun x => extInt x.1 * extInt x.2)).foldl (· + ·) 0)))
  else accumulate (passes.map (fun ps => passSum (ps.map (fun x => arrayProduct x.1 x.2))))

/-- What the gate receives: INT32 rounded to FP32 unless it passes through (R74). -/
def gateInput (o : OpDesc) (int8 : Bool) (x : Ext) : Ext :=
  if int8 && o.gate.outFmt != 12 then rn32 x else x

/-- The accumulator entries of `cols` columns of one MATMUL row after its last pass; `kp` is the pass depth of the unit. -/
def View.matmulAcc (v : View) (o : OpDesc) (kp : Nat) (q : IProb) (row col0 cols : Nat) : List Ext :=
  let wd0 := ((v.prog.tensor? o.srcW).map Tensor.d0).getD 1
  let a := (List.range q.k).map (fun k => v.operand o.srcA q q.offA row k)
  (List.range cols).map (fun n =>
    let ws := (List.range q.k).map (fun k => v.elem o.srcW 0 (q.offW + (col0 + n) * wd0 + k))
    accumulated (o.fmtA == 11 && o.fmtW == 11) (pieces kp (a.zip ws)))

/-- The words of some accumulator entries: FP32, or INT32 after INT8 x INT8 (R72, R74). -/
def accWords (o : OpDesc) (xs : List Ext) : List F32 :=
  xs.map (fun x => if o.fmtA = 11 ∧ o.fmtW = 11 then BitVec.ofInt 32 (extInt x) else toF32 x)

/-- Rows of a MATMUL tile: row numbers and the cells they write. `kp` is the pass depth of the
unit. -/
def View.matmulRow (v : View) (o : OpDesc) (opIdx kp : Nat) (q : IProb) (row col0 cols : Nat) :
    List Host.Cell :=
  v.outRow o opIdx q row col0
    ((v.matmulAcc o kp q row col0 cols).map (gateInput o (o.fmtA == 11 && o.fmtW == 11)))

/-! ### Image operators -/

/-- Element (y, x, c) of an image operand, none outside it (R200, R204). -/
def View.pixel (v : View) (h : Nat) (q : IProb) (height width : Nat) (y x : Int) (c : Nat) : Option Ext :=
  if 0 ≤ y ∧ y < (height : Int) ∧ 0 ≤ x ∧ x < (width : Int) then
    some (v.operand h q q.offA (y.toNat * width + x.toNat) c)
  else none

/-- Element (k, n) of a stationary image of a weight tensor, the `img`th from byte `from_` on, laid out by R75.
[notes/assumptions 177 DESIGN CHOICE, unsafe] -/
def View.imageElem (v : View) (t : Tensor) (from_ kp img k n : Nat) : Ext :=
  let base := from_ + img * imageBytes t.fmt
  let i := n * kp + k
  let win := elemWindow t.fmt i
  let sc := if fmtIsMx t.fmt then
      (v.weightByte t.ref (base + packedBytes t.fmt (64 * kp) + i / 32)).toNat else 0
  packedElem t.fmt (v.weightBytes t.ref (base + win.1) (packedBytes t.fmt 32 + 1)) sc win.2

/-- The taps of a filter in raster order. -/
def taps (kh kw : Nat) : List (Nat × Nat) :=
  (List.range kh).flatMap (fun y => (List.range kw).map (fun x => (y, x)))

/-- Products of one output element of a direct convolution, pass by pass (R204, R205); the piece
starts at filter position (fy, fx) and its images at `img0`. -/
def View.directPasses (v : View) (o : OpDesc) (q : IProb) (t : Tensor) (kh kw fy fx img0 pix n : Nat) :
    List (List (Ext × Ext)) :=
  let kp := (arrayDepth o.fmtA o.fmtW).getD 128
  let wo := max o.wOut 1
  let yo := pix / wo
  let xo := pix % wo
  let ranges := ceilDiv q.k kp
  let pk := kh * kw * ranges
  (taps kh kw).zipIdx.flatMap (fun tp =>
    let y : Int := ((yo * o.sigma + (fy + tp.1.1) * o.dil : Nat) : Int) - (o.pt : Int)
    let x : Int := ((xo * o.sigma + (fx + tp.1.2) * o.dil : Nat) : Int) - (o.pl : Int)
    (List.range ranges).map (fun j =>
      (List.range (min kp (q.k - j * kp))).filterMap (fun k =>
        (v.pixel o.srcA q o.h o.w y x (j * kp + k)).map (fun a =>
          (a, v.imageElem t (imageBase t q.offW) kp (img0 + n / 64 * pk + tp.2 * ranges + j) k (n % 64))))))

/-- Products of one output element of a grouped convolution, pass by pass (R207). -/
def View.groupedPasses (v : View) (o : OpDesc) (q : IProb) (t : Tensor) (kh kw fy fx img0 pix n : Nat) :
    List (List (Ext × Ext)) :=
  let kp := (arrayDepth o.fmtA o.fmtW).getD 128
  let tau := kp / 64
  let wo := max o.wOut 1
  let yo := pix / wo
  let xo := pix % wo
  let ps := pieces tau (taps kh kw)
  ps.zipIdx.map (fun pass =>
    pass.1.zipIdx.flatMap (fun tp =>
      let y : Int := ((yo * o.sigma + (fy + tp.1.1) * o.dil : Nat) : Int) - (o.pt : Int)
      let x : Int := ((xo * o.sigma + (fx + tp.1.2) * o.dil : Nat) : Int) - (o.pl : Int)
      (List.range 64).filterMap (fun i =>
        if i / o.gammaW = n % 64 / o.gammaW then
          (v.pixel o.srcA q o.h o.w y x (n / 64 * 64 + i)).map (fun a =>
            (a, v.imageElem t (imageBase t q.offW) kp (img0 + n / 64 * ps.length + pass.2) (64 * tp.2 + i) (n % 64)))
        else none)))

/-- A twiddle: the BF16 value nearest to cos or −/+ sin of 2π j / 64, scaled (R211). -/
def twCos (j : Nat) : Ext := fmtBF16.round .nearest (cos2piFin (j % 64) (-6))
def twSin (j : Nat) : Ext := fmtBF16.round .nearest (sin2piFin false (j % 64) (-6))

/-- Sum of one BF16 pass of products (K_p = 64 passes when longer) (R211). -/
def specDot (xs ws : List Ext) : Ext := dotPasses 64 ((xs.zip ws).map (fun x => arrayProduct x.1 x.2))

/-- Column of a table. -/
def column (rows : List (List Ext)) (i : Nat) : List Ext := rows.map (fun r => r.getD i .zero)

/-- Entry (k, n) of the stationary columns of a frequency stage other than P (R211). -/
def freqTable (stage k n : Nat) : Ext :=
  let a := n % 64 * k
  match stage with
  | 0 => if n ≤ 32 then twCos (n * k) else (twSin ((n - 32) * k)).neg
  | 1 => if n < 64 then twSin a else twCos a
  | 2 => if n < 64 then twCos a else (twSin a).neg
  | 4 => if n < 64 then (twSin a).neg else twCos a
  | 5 => if n < 64 then twCos a else twSin a
  | _ =>
    if k = 0 then .one
    else if k = 32 then (if n % 2 = 0 then .one else Ext.one.neg)
    else if k < 32 then (twCos (k * n)).scale 1
    else ((twSin ((k - 32) * n)).scale 1).neg

/-- Columns of a frequency stage other than P (R211). -/
def freqColumns (stage : Nat) : Nat := if stage = 0 ∨ stage = 6 then 64 else 128

/-- The pass sums of one activation row of a frequency stage other than P (R211). -/
def freqDots (stage : Nat) (row : List Ext) : List Ext :=
  (List.range (freqColumns stage)).map (fun n => specDot row ((List.range row.length).map (fun k => freqTable stage k n)))

/-- Values added and rounded to BF16. -/
def addBF16 (xs ys : List Ext) : List Ext := (xs.zip ys).map (fun x => fmtBF16.round .nearest (addF x.1 x.2))

/-- G of one 64 × 64 block: rows y, with Gr for u = 0 to 32 and then Gi for u = 1 to 31 (stage F1 of R211). -/
def freqG (x : List (List Ext)) : List (List Ext) := x.map (fun r => (freqDots 0 r).map (fmtBF16.round .nearest))

/-- Zr and then Zi of row u, v = 0 to 63 each (stages F2i and F2r of R211). -/
def freqZ (g : List (List Ext)) (u : Nat) : List Ext :=
  let d := freqDots 2 (column g u)
  if 1 ≤ u ∧ u ≤ 31 then addBF16 d (freqDots 1 (column g (32 + u))) else d.map (fmtBF16.round .nearest)

/-- Forward transform of one 64 × 64 block: Zr and Zi for u = 0 to 32, v = 0 to 63 (R211). -/
def freqForward (x : List (List Ext)) : List (List Ext) × List (List Ext) :=
  let g := freqG x
  let z := (List.range 33).map (freqZ g)
  (z.map (fun r => r.take 64), z.map (fun r => r.drop 64))

/-- Qr and then Qi of row u, y = 0 to 63 each (stages I2i and I2r of R211). -/
def freqQ (yr yi : List Ext) : List Ext := addBF16 (freqDots 5 yr) (freqDots 4 yi)

/-- The activation row of stage I1 for row y of the block: Qr for u = 0 to 32, then Qi for u = 1 to 31 (R211). -/
def freqQRow (q : List (List Ext)) (y : Nat) : List Ext := column q y ++ (((q.drop 1).take 31).map (fun r => r.getD (64 + y) .zero))

/-- Inverse transform of one output spectrum: the accumulated real block before PRE (stages I2i, I2r,
I1 of R211). -/
def freqInverse (yr yi : List (List Ext)) : List (List Ext) :=
  let q := (List.range 33).map (fun u => freqQ (yr.getD u []) (yi.getD u []))
  (List.range 64).map (fun y => freqDots 6 (freqQRow q y))

/-- The 64 × 64 input block of a spatial tile and a channel, for a filter or piece of `kh` × `kw` at (`fy`, `fx`) (R210,
R213). -/
def View.freqBlock (v : View) (o : OpDesc) (q : IProb) (kh kw fy fx ti c : Nat) : List (List Ext) :=
  let tb := max (ceilDiv o.wOut (65 - kw)) 1
  let y0 : Int := ((ti / tb * (65 - kh) + fy : Nat) : Int) - (o.pt : Int)
  let x0 : Int := ((ti % tb * (65 - kw) + fx : Nat) : Int) - (o.pl : Int)
  (List.range 64).map (fun (y : Nat) => (List.range 64).map (fun (x : Nat) =>
    (v.pixel o.srcA q o.h o.w (y0 + (y : Int)) (x0 + (x : Int)) c).getD .zero))

/-- The forward spectra of a spatial tile, one for each input channel. -/
def View.freqSpectra (v : View) (o : OpDesc) (q : IProb) (kh kw fy fx ti : Nat) : List (List (List Ext) × List (List Ext)) :=
  (List.range q.k).map (fun c => freqForward (v.freqBlock o q kh kw fy fx ti c))

/-- One result of stage P at frequency (u, w): column `col` of Yr and then Yi (R211); the images of the piece start at `img0`.
[notes/assumptions 198 DESIGN CHOICE, unsafe] -/
def View.freqP (v : View) (q : IProb) (t : Tensor) (img0 : Nat) (zs : List (List (List Ext) × List (List Ext)))
    (u w col : Nat) : Ext :=
  let pk := ceilDiv (2 * q.k) 64
  let per := pk * ceilDiv (2 * q.n) 64
  let ins := zs.map (fun z => (z.1.getD u []).getD w .zero) ++ zs.map (fun z => (z.2.getD u []).getD w .zero)
  fmtBF16.round .nearest (specDot ins ((List.range (2 * q.k)).map (fun k =>
    v.imageElem t (imageBase t q.offW) 64 (img0 + (u * 64 + w) * per + col / 64 * pk + k / 64) (k % 64) (col % 64))))

/-- Row u of the output spectrum of a channel, its real or its imaginary part. -/
def View.freqYRow (v : View) (q : IProb) (t : Tensor) (img0 : Nat) (zs : List (List (List Ext) × List (List Ext)))
    (u col : Nat) : List Ext :=
  (List.range 64).map (fun w => v.freqP q t img0 zs u w col)

/-- The accumulated outputs of the frequency path for one image: a list over output channels of the
pixels in raster order, before the 2^−12 scale (R210, R211).
[notes/assumptions 198 DESIGN CHOICE, unsafe] -/
def View.freqConv (v : View) (o : OpDesc) (q : IProb) (t : Tensor) (kh kw fy fx img0 : Nat) :
    List (List Ext) :=
  let ly := 65 - kh
  let lx := 65 - kw
  let tb := ceilDiv o.wOut lx
  let blocks := (List.range (freqTiles o kh kw)).map (fun ti =>
    let zs := v.freqSpectra o q kh kw fy fx ti
    (List.range q.n).map (fun ch =>
      freqInverse ((List.range 33).map (fun u => v.freqYRow q t img0 zs u ch))
        ((List.range 33).map (fun u => v.freqYRow q t img0 zs u (q.n + ch)))))
  (List.range q.n).map (fun ch => (List.range (o.hOut * o.wOut)).map (fun pix =>
    let y := pix / max o.wOut 1
    let x := pix % max o.wOut 1
    let ti := y / ly * tb + x / lx
    ((((blocks.getD ti []).getD ch []).getD (kh - 1 + y % ly) []).getD (kw - 1 + x % lx) .zero)))

/-- Stationary images a piece of a filter takes in a problem (R205, R208, R211). -/
def pieceImages (o : OpDesc) (q : IProb) (kh kw : Nat) (path : ConvPath) : Nat :=
  let kp := (arrayDepth o.fmtA o.fmtW).getD 128
  match path with
  | .grouped => ceilDiv (kh * kw) (kp / 64) * ceilDiv q.n 64
  | .frequency => 2112 * (ceilDiv (2 * q.k) 64 * ceilDiv (2 * q.n) 64)
  | _ => kh * kw * ceilDiv q.k kp * ceilDiv q.n 64

/-- The pieces of a filter: origin, size and path, in the order of R213; one piece when it is not
decomposed.
[notes/assumptions 213 DESIGN CHOICE, unsafe] -/
def convPieces (o : OpDesc) : List (Nat × Nat × Nat × Nat × ConvPath) :=
  let small (a b fy fx : Nat) : List (Nat × Nat × Nat × Nat × ConvPath) :=
    match ({ o with kh := a, kw := b } : OpDesc).convPath with
    | .pieces s =>
      (pieceSizes s a).zipIdx.flatMap (fun y => (pieceSizes s b).zipIdx.map (fun x =>
        (fy + y.2 * s, fx + x.2 * s, y.1, x.1, if o.grouped then ConvPath.grouped else .direct)))
    | path => [(fy, fx, a, b, path)]
  match o.convPath with
  | .pieces s =>
    (pieceSizes s o.kh).zipIdx.flatMap (fun y => (pieceSizes s o.kw).zipIdx.flatMap (fun x =>
      small y.1 x.1 (y.2 * s) (x.2 * s)))
  | path => [(0, 0, o.kh, o.kw, path)]

/-- The accumulated values of one output pixel, columns `col0` on, of a piece. The frequency path
scales by 2^−12 in PRE (R211). -/
def View.pieceRow (v : View) (o : OpDesc) (q : IProb) (pc : Nat × Nat × Nat × Nat × ConvPath)
    (img0 row col0 cols : Nat) : List Ext :=
  let int8 := o.fmtA == 11 && o.fmtW == 11
  match v.prog.tensor? o.srcW with
  | none => []
  | some t =>
    match pc.2.2.2.2 with
    | .frequency =>
      let all := v.freqConv o q t pc.2.2.1 pc.2.2.2.1 pc.1 pc.2.1 img0
      (List.range cols).map (fun n =>
        mulF ((all.getD (col0 + n) []).getD row .zero) (.fin false 1 (-12)))
    | .grouped =>
      (List.range cols).map (fun n => gateInput o int8 (accumulated int8
        (v.groupedPasses o q t pc.2.2.1 pc.2.2.2.1 pc.1 pc.2.1 img0 row (col0 + n))))
    | _ =>
      (List.range cols).map (fun n => gateInput o int8 (accumulated int8
        (v.directPasses o q t pc.2.2.1 pc.2.2.2.1 pc.1 pc.2.1 img0 row (col0 + n))))

/-- The values of one output pixel after the first `n` pieces of a filter: the first gives its FP32 result, each later one adds
the running result; a filter in one piece is not rounded here (R213). Beside them the stationary images those pieces take.
-/
def View.runningSum (v : View) (o : OpDesc) (q : IProb) (row col0 cols n : Nat) : List Ext × Nat :=
  let ps := convPieces o
  let r := (ps.take n).foldl
    (fun (acc : Option (List Ext) × Nat) pc =>
      let xs := if 1 < ps.length then (v.pieceRow o q pc acc.2 row col0 cols).map rn32
        else v.pieceRow o q pc acc.2 row col0 cols
      let sum := match acc.1 with
        | none => xs
        | some run => (xs.zip run).map (fun x => addF x.1 x.2)
      (some sum, acc.2 + pieceImages o q pc.2.2.1 pc.2.2.2.1 pc.2.2.2.2))
    (none, 0)
  (r.1.getD [], r.2)

/-- The cells of one output pixel of a convolution: its pieces in order, then the operator's own gate (R213). -/
def View.convRow (v : View) (o : OpDesc) (opIdx : Nat) (q : IProb) (row col0 cols : Nat) :
    List Host.Cell :=
  v.outRow o opIdx q row col0 (v.runningSum o q row col0 cols (convPieces o).length).1

/-- The pixel and channel of the input that channel `ch` of an output pixel of a regroup takes (R201). -/
def OpDesc.regroupFrom (o : OpDesc) (row ch : Nat) : Nat × Nat :=
  let s := o.s2d
  if o.dir then
    let wOut := o.w * s
    let y := row / wOut
    let x := row % wOut
    (y / s * o.w + x / s, (y % s * s + x % s) * (o.k / (s * s)) + ch)
  else
    let wOut := max (o.w / s) 1
    let y := row / wOut
    let x := row % wOut
    let tap := ch / max o.k 1
    ((y * s + tap / s) * o.w + (x * s + tap % s), ch % max o.k 1)

/-- Does a regroup leave the bits of its elements as they are: equal formats without scales and no gate (R202)?
[notes/assumptions 211 DESIGN CHOICE, unsafe] -/
def View.regroupsBits (v : View) (o : OpDesc) : Bool :=
  match v.prog.tensor? o.srcA, v.prog.tensor? o.dst with
  | some a, some d => a.fmt == d.fmt && !fmtHasScale a.fmt && o.gate.pre == 0 && o.gate.func == 0 && o.gate.post == 0
  | _, _ => false

/-- The cells of one output pixel of a regroup (R201, R202). -/
def View.regroupRow (v : View) (o : OpDesc) (opIdx : Nat) (q : IProb) (row col0 cols : Nat) :
    List Host.Cell :=
  let src := (List.range cols).map (fun i => o.regroupFrom row (col0 + i))
  if v.regroupsBits o then
    let dst := v.prog.tensor? o.dst
    let lin := q.offD + q.rowOf ((dst.map Tensor.perFuture).getD false) row * (dst.map Tensor.d0).getD 1 + col0
    v.writeCodes o.dst (q.memberOf row) lin
      (src.map (fun p => (v.code o.srcA (q.memberOf p.1) (v.operandAt o.srcA q q.offA p.1 p.2)).1))
  else v.outRow o opIdx q row col0 (src.map (fun p => toFP32Value (v.operand o.srcA q q.offA p.1 p.2)))

/-- One pooled value of a window (R214). -/
def poolValue (avg : Bool) (xs : List Ext) : Ext :=
  if avg then divCountF (xs.foldl (fun (acc : Option Ext) x => some (match acc with
    | none => x
    | some a => addF a x)) none |>.getD .zero) xs.length
  else (xs.foldl (fun (acc : Option Ext) x => some (match acc with
    | none => x
    | some a => a.max2 x)) none).getD .zero

/-- The cells of one output pixel of a pooling operator (R214). -/
def View.poolRow (v : View) (o : OpDesc) (opIdx : Nat) (q : IProb) (row col0 cols : Nat) :
    List Host.Cell :=
  let avg := o.poolMode % 2 == 1
  let win : List (Int × Int) :=
    if 2 ≤ o.poolMode then
      (taps o.h o.w).map (fun t => ((t.1 : Int), (t.2 : Int)))
    else
      let wo := max (poolOut o.w o.pl o.pw o.pstr) 1
      (taps o.ph o.pw).map (fun t =>
        (((row / wo * o.pstr + t.1 : Nat) : Int) - (o.pt : Int),
         ((row % wo * o.pstr + t.2 : Nat) : Int) - (o.pl : Int)))
  let xs := (List.range cols).map (fun i =>
    poolValue avg (win.filterMap (fun p =>
      (v.pixel o.srcA q o.h o.w p.1 p.2 (col0 + i)).map toFP32Value)))
  v.outRow o opIdx q row col0 xs

/-- The cells of one row of a standalone gate pass (R86, R90). -/
def View.gateRow (v : View) (o : OpDesc) (opIdx : Nat) (q : IProb) (row col0 cols : Nat) :
    List Host.Cell :=
  v.outRow o opIdx q row col0
    ((List.range cols).map (fun n => toFP32Value (v.operand o.srcA q q.offA row (col0 + n))))

/-! ### Attention -/

/-- Code of element (slot t, dimension i) of K or V of a head in a page (R139); slots at or beyond FILL read
+0 (R141). -/
def View.kvCode (v : View) (a : AttLayer) (page head : Nat) (isV : Bool) (t i : Nat) : Nat :=
  let f := tgetD v.frames page {}
  if f.fill ≤ t then 0
  else
    let base := (Space.stack f.stack).addr (f.loc * 128)
    let addr := if f.state = .spilled then Space.stratus.addr (f.loc * 4096) else base
    let hb := head * (32 * a.dh * a.b)
    let off := if isV then hb + 16 * a.dh * a.b + i * 16 * a.b + t * a.b else hb + t * a.dh * a.b + i * a.b
    leNat (v.bytes (addr + off) a.b)

/-- Element (slot t, dimension i) of K or V of a head in a page (R139, R141). -/
def View.kvElem (v : View) (a : AttLayer) (page head : Nat) (isV : Bool) (t i : Nat) : Ext :=
  scaledValue a.fmt (v.kvCode a page head isV t i) 0

/-- The page list of a member in an attention layer. -/
def View.kvList (v : View) (mem layer : Nat) : KvList :=
  ((tget v.kv (v.member mem).who.id).getD []).getD layer {}

/-- Element (position, dimension) of K or V of a head; a position past the page list reads +0, as a slot past FILL does
(R141). -/
def View.kvAt (v : View) (a : AttLayer) (l : KvList) (head : Nat) (isV : Bool) (pos i : Nat) : Ext :=
  match l.pages[pos / 16]? with
  | some page => v.kvElem a page head isV (pos % 16) i
  | none => .zero

/-- Running state of one query row: m, l and o (R130). -/
structure AttRow where
  m : Ext
  l : Ext
  acc : List Ext
  deriving DecidableEq, Repr

/-- The start of a query row.
[notes/assumptions 92 DESIGN CHOICE, safe] -/
def AttRow.start (dh : Nat) : AttRow := { m := .inf true, l := .zero, acc := List.replicate dh .zero }

/-- Largest score of a list, from m (R130). -/
def scoreMax (m : Ext) (ss : List Ext) : Ext := ss.foldl Ext.max2 m

/-- a − b with one rounding. -/
def subF (a b : Ext) : Ext := addF a b.neg

/-- One page of decode attention on an engine for one row: the visible tokens' scores and values in
ascending order (R130). -/
def attPage (r : AttRow) (toks : List (Ext × List Ext)) : AttRow :=
  if toks.isEmpty then r
  else
    let mp := scoreMax r.m (toks.map Prod.fst)
    let c := expF (subF r.m mp)
    toks.foldl
      (fun acc t =>
        let e := expF (subF t.1 mp)
        { m := mp, l := addF acc.l e, acc := (acc.acc.zip t.2).map (fun x => fmaF e x.2 x.1) })
      { m := mp, l := mulF r.l c, acc := r.acc.map (fun x => mulF x c) }

/-- The fold of a later chunk's partial into the running one (R132 step 5). -/
def attFold (a b : AttRow) : AttRow :=
  let mp := a.m.max2 b.m
  let ea := expF (subF a.m mp)
  let eb := expF (subF b.m mp)
  { m := mp, l := fmaF b.l eb (mulF a.l ea),
    acc := (b.acc.zip a.acc).map (fun x => fmaF x.1 eb (mulF x.2 ea)) }

/-- Query row element: token row, columns (h × G_Q + g) × d_h on. -/
def View.query (v : View) (o : OpDesc) (a : AttLayer) (q : IProb) (row : Nat) : List Ext :=
  let tok := row / max o.gq 1
  let g := row % max o.gq 1
  (List.range a.dh).map (fun i => v.operand o.srcA q q.offA tok ((q.head * o.gq + g) * a.dh + i))

/-- Position of a query row's token: the step's M tokens end the window (R144). -/
def queryPos (o : OpDesc) (l : KvList) (row : Nat) : Nat := l.win - o.m + row / max o.gq 1

/-- A word with some of its bytes changed: offsets are counted from the start of the string it stands in, at `off`. -/
def flipWord (w : BitVec 32) (off : Nat) (fl : List (Nat × Byte)) : BitVec 32 :=
  fl.foldl (fun acc f =>
    if off ≤ f.1 && f.1 < off + 4 then acc ^^^ BitVec.ofNat 32 (f.2.toNat * 256 ^ (f.1 - off)) else acc) w

/-- The partial of a row as an item that got bytes of it wrong left it: m, l and o of each row in turn (R132). -/
def AttRow.flipped (a : AttRow) (row dh : Nat) (fl : List (Nat × Byte)) : AttRow :=
  if fl.isEmpty then a
  else
    let b := row * (dh + 2) * 4
    let go (x : Ext) (i : Nat) : Ext := ofF32 (flipWord (toF32 x) (b + 4 * i) fl)
    { m := go a.m 0, l := go a.l 1, acc := a.acc.zipIdx.map (fun x => go x.1 (2 + x.2)) }

/-- The bytes of the partial of a row. -/
def AttRow.bytes (a : AttRow) : Bytes := (a.m :: a.l :: a.acc).flatMap (fun x => toLe 4 (toF32 x).toNat)

/-- The partial of one chunk of pages for one row (R130). -/
def View.chunkRow (v : View) (a : AttLayer) (l : KvList) (head pos : Nat) (qs : List Ext) (ps : List Nat) : AttRow :=
  let kc := (engineDepth a.fmt).getD 128
  ps.foldl
    (fun r pi =>
      let toks := (List.range 16).filterMap (fun t =>
        let x := pi * 16 + t
        if x ≤ pos ∧ x < l.win then
          some (dotPasses kc ((qs.zip ((List.range a.dh).map (fun i => v.kvAt a l head false x i))).map
              (fun y => arrayProduct y.1 y.2)),
            (List.range a.dh).map (fun i => v.kvAt a l head true x i))
        else none)
      attPage r toks)
    (AttRow.start a.dh)

/-- One decode row on engines: chunks of C_P pages folded in ascending order (R130, R132). -/
def View.decodeRow (v : View) (o : OpDesc) (a : AttLayer) (q : IProb) (row : Nat)
    (flips : Nat → List (Nat × Byte)) : List Ext :=
  let l := v.kvList (q.memberOf 0) o.attLayer
  let qs := v.query o a q row
  let pos := queryPos o l row
  let parts := ((pieces a.cP (List.range l.pages.length)).zipIdx).map (fun c =>
    (v.chunkRow a l q.head pos qs c.1).flipped row a.dh (flips c.2))
  match parts with
  | [] => List.replicate a.dh .zero
  | p :: ps =>
    let r := ps.foldl attFold p
    let inv := recipF r.l
    r.acc.map (fun x => mulF x inv)

/-- What the gate pipeline writes of one row of a block in attention mode: the e values and the statistics m, l and c
(R159). -/
structure AttBlock where
  es : List Ext
  m : Ext
  l : Ext
  c : Ext
  deriving DecidableEq, Repr

/-- One attention row on cells: key blocks of 64 positions up to the block of the tile's last row, with what each block
leaves in the cell store (R157, R159). -/
def View.cellAttBlocks (v : View) (o : OpDesc) (a : AttLayer) (q : IProb) (row lastRow : Nat) : AttRow × List AttBlock :=
  let l := v.kvList (q.memberOf 0) o.attLayer
  let qs := v.query o a q row
  let pos := queryPos o l row
  let nb := queryPos o l lastRow / 64 + 1
  let kp := (arrayDepth o.fmtA a.fmt).getD 128
  let pf := if a.fmt = 1 then fmtBF16 else fmtE4M3
  (List.range nb).foldl
    (fun (st : AttRow × List AttBlock) j =>
      let r := st.1
      let toks := (List.range 64).map (fun t => 64 * j + t)
      let score (x : Nat) : Ext := dotPasses kp
        ((qs.zip ((List.range a.dh).map (fun i => v.kvAt a l q.head false x i))).map
          (fun y => arrayProduct y.1 y.2))
      let visible (x : Nat) : Bool := decide (x ≤ pos) && decide (x < l.win)
      let vis := toks.filter visible
      let val (es : List Ext) (i : Nat) : Ext := passSum ((es.zip toks).map (fun e =>
        arrayProduct e.1 (v.kvAt a l q.head true e.2 i)))
      if vis.isEmpty then
        let es := toks.map (fun _ => Ext.zero)
        ({ r with acc := r.acc.zipIdx.map (fun x => fmaF x.1 .one (val es x.2)) }, st.2 ++ [⟨es, r.m, r.l, .one⟩])
      else
        let ss := vis.map score
        let mp := scoreMax r.m ss
        let c := expF (subF r.m mp)
        let ev := ss.map (fun s => pf.round .nearest (expF (subF s mp)))
        let es := (toks.foldl (fun (acc : List Ext × List Ext) x =>
          if visible x then (acc.1 ++ [acc.2.headD .zero], acc.2.tail) else (acc.1 ++ [.zero], acc.2))
          ([], ev)).1
        let l1 := ev.foldl addF (mulF r.l c)
        ({ m := mp, l := l1, acc := r.acc.zipIdx.map (fun x => fmaF x.1 c (val es x.2)) }, st.2 ++ [⟨es, mp, l1, c⟩]))
    (AttRow.start a.dh, [])

/-- The output of one attention row on cells (R157). -/
def View.cellAttRow (v : View) (o : OpDesc) (a : AttLayer) (q : IProb) (row lastRow : Nat) : List Ext :=
  let r := (v.cellAttBlocks o a q row lastRow).1
  let inv := recipF r.l
  r.acc.map (fun x => mulF x inv)

/-- The bytes of an attention tile that its checksum covers before its output: block by block the e rows, then the row
statistics (R159, R161).
[notes/assumptions 186 DEDUCED, unsafe] -/
def View.attChecked (v : View) (o : OpDesc) (q : IProb) (rows : List Nat) : Bytes :=
  let a := v.prog.att.getD o.attLayer (AttLayer.ofNat 0)
  if (v.kvList (q.memberOf 0) o.attLayer).win = 0 then []
  else
    let pf := if a.fmt = 1 then fmtBF16 else fmtE4M3
    let all := rows.map (fun r => (v.cellAttBlocks o a q r (maxNat rows)).2)
    let word (x : Ext) : Bytes := toLe 4 (toF32 x).toNat
    (List.range (maxNat (all.map List.length))).flatMap (fun j =>
      let bs := all.filterMap (fun r => r[j]?)
      bs.flatMap (fun b => b.es.flatMap (fun e => toLe (if a.fmt = 1 then 2 else 1) (pf.encode e))) ++
        bs.flatMap (fun b => word b.m ++ word b.l ++ word b.c))

/-- The cells of one attention row of a problem, on engines or on cells; `flips` gives what the items of each chunk
got wrong. -/
def View.attRow (v : View) (o : OpDesc) (opIdx : Nat) (onCells : Bool) (q : IProb) (row lastRow : Nat)
    (flips : Nat → List (Nat × Byte)) : List Host.Cell :=
  let a := v.prog.att.getD o.attLayer (AttLayer.ofNat 0)
  let tok := row / max o.gq 1
  let g := row % max o.gq 1
  let l := v.kvList (q.memberOf 0) o.attLayer
  let xs := if l.win = 0 then (List.range a.dh).map (fun i => ofF32 (Config.emptyAttention i))
    else if onCells then v.cellAttRow o a q row lastRow else v.decodeRow o a q row flips
  v.outRow o opIdx q tok ((q.head * o.gq + g) * a.dh) xs

/-! ### Recurrence (R171, R172) -/

/-- The bytes of a member's present state object of a layer; none when it has no state or its step
starts from zero (R174, R183). -/
def View.stateObj (v : View) (mem layer : Nat) : Option StateObj :=
  if v.resets.contains mem then none
  else ((((tget v.states mem).getD [])[layer]?).join)

/-- Element index e of a state: mantissa and exponent, zero without a state (R174). -/
def View.stateElem (v : View) (ob : Option StateObj) (total e : Nat) : Ext × Nat :=
  match ob with
  | none => (.zero, 0)
  | some s =>
    let base := (Space.stack s.stack).addr (s.addr * 128)
    let x := leNat (v.bytes (base + alignUp (2 * total) 128 + e / 32) 1)
    (scaledValue 13 (leNat (v.bytes (base + 2 * e) 2)) x, x)

/-- One channel of a step: the new state of the channel and its output (R172). `h` is the old state
along j. -/
def recChannel (kind g ns c : Nat) (gateZ : Bool) (a : Nat → Ext) (w : Nat → Ext) (chans : Nat)
    (h : List Ext) : List Ext × Ext :=
  -- a: the step's operands; w: the constants A then D
  if kind = 2 then
    let h' := fmaF (a c) (h.headD .zero) (a (chans + c))
    ([h'], h')
  else
    let u := a c
    let z := a (chans + c)
    let dl := a (2 * chans + c)
    let grp := c * g / max chans 1
    let b (j : Nat) : Ext := a (3 * chans + grp * ns + j)
    let cc (j : Nat) : Ext := a (3 * chans + g * ns + grp * ns + j)
    let wgt := mulF dl u
    let a0 := expF (mulF dl (w c))
    let decay (j : Nat) : Ext := if kind = 0 then a0 else expF (mulF dl (w (c * ns + j)))
    let h' := h.zipIdx.map (fun x => fma2F (decay x.2) x.1 wgt (b x.2))
    let acc := h'.zipIdx.foldl (fun s x => fmaF (cc x.2) x.1 s) .zero
    let d := w ((if kind = 0 then chans else chans * ns) + c)
    let y := fmaF d u acc
    (h', if gateZ then mulF y (siluF z) else y)

/-- The bytes of a new state object from its values and old exponents (R113, R174): element plane,
then exponent plane.
[notes/assumptions 33 DEDUCED, unsafe] -/
def stateBytes (renorm : Bool) (vals : List (Ext × Nat)) : Bytes :=
  let blocks := (pieces 32 vals).map (fun b =>
    sbEncode renorm ((b.head?.map Prod.snd).getD 0) (b.map Prod.fst))
  let mant := blocks.flatMap (fun b => b.2.flatMap (fun m => toLe 2 (codeOfSigned 16 m)))
  padTo 128 mant ++ padTo 128 (blocks.map (fun b => BitVec.ofNat 8 b.1))

/-- One recurrent step of a member in a layer: the cells of its output row and the bytes of its new
state object (R172, R113).
[notes/assumptions 33 DEDUCED, unsafe] -/
def View.recStep (v : View) (o : OpDesc) (opIdx : Nat) (q : IProb) (row : Nat) (renorm : Bool) :
    List Host.Cell × Bytes :=
  let hd := v.prog.hdr
  let mem := q.memberOf row
  let ob := v.stateObj mem o.recLayer
  let total := hd.c * hd.ns
  let a (i : Nat) : Ext := v.operand o.srcA q q.offA row i
  let w (i : Nat) : Ext := v.elem o.srcW 0 i
  let chans := (List.range hd.c).map (fun c =>
    let old := (List.range hd.ns).map (fun j => v.stateElem ob total (c * hd.ns + j))
    let r := recChannel hd.kind hd.g hd.ns c o.gateZ a w hd.c (old.map Prod.fst)
    (r.1.zip (old.map Prod.snd), r.2))
  (v.outRow o opIdx q row 0 (chans.map Prod.snd),
   stateBytes (renorm || ob.isNone) (chans.flatMap Prod.fst))

/-! ### Top-k (R217 to R221) -/

/-- A sorter entry: key bits and index (R216). -/
abbrev SortEntry := BitVec 32 × Nat

/-- The key as written: every NaN is 0x7FC0_0000 (R217). -/
def canonKey (x : Ext) : BitVec 32 := match x with
  | .nan => 0x7FC00000
  | y => toF32 y

/-- Does entry a rank before entry b (R217)? -/
def ranksBefore (desc : Bool) (a b : SortEntry) : Bool :=
  let ka := ofF32 a.1
  let kb := ofF32 b.1
  if !ka.isNan && kb.isNan then true
  else if ka.isNan && !kb.isNan then false
  else if ka.isNan && kb.isNan then decide (a.2 < b.2)
  else if ka.eqv kb then decide (a.2 < b.2)
  else if desc then kb.lt ka else ka.lt kb

/-- The first k of held entries and a batch in rank order (R219). -/
def sortPass (desc : Bool) (k : Nat) (held batch : List SortEntry) : List SortEntry :=
  (sortBy (ranksBefore desc) (held ++ batch)).take k

/-- The key and index at position i of the key tensor (R218). -/
def View.sortEntry (v : View) (o : OpDesc) (i : Nat) : SortEntry :=
  match v.prog.tensor? o.srcA with
  | none => (0x7FC00000, i)
  | some t =>
    let per := max t.elements 1
    let mem := if t.perFuture then i / per else 0
    let key := v.elem o.srcA mem (if t.perFuture then i % per else i)
    (canonKey key, if o.idxSrc then i else (v.member (if t.perFuture then mem else i)).who.id)

/-- Keys of an instance: n, or the slices of the members that take part when the tensor is per
future. -/
def View.sortKeys (v : View) (o : OpDesc) : Nat :=
  let n := o.m + o.k * 2 ^ 20
  match v.prog.tensor? o.srcA with
  | some t => if t.perFuture then min n (v.members.length * t.elements) else n
  | none => n

/-- The result: COUNT, then k entries, the rest NaN and 0xFFFF_FFFF (R218). -/
def topkBytes (k n : Nat) (es : List SortEntry) : Bytes :=
  toLe 4 (min k n) ++ toLe 4 0 ++
    es.flatMap (fun e => toLe 4 e.1.toNat ++ toLe 4 e.2) ++
    (List.range (k - es.length)).flatMap (fun _ => toLe 4 0x7FC00000 ++ toLe 4 0xFFFFFFFF)

/-- Raw bytes written at the start of a tensor's staged buffer. -/
def View.writeRaw (v : View) (h : Nat) (bs : Bytes) : List Host.Cell :=
  match v.prog.tensor? h, (v.homes[h]?).join with
  | some t, some hm => cellsAt (hm.staged (hasTwoBuffers t.cls)) bs
  | _, _ => []

/-! ### Atomics (R308) -/

/-- One atomic on the target's bits (R308): `t` the old value, `a` the operand, `e` the expected value
of a compare-and-swap. -/
def atomicResult (aop t a e : Nat) : Nat :=
  match aop with
  | 0 =>
    let x := (ofF32 (BitVec.ofNat 32 t)).add (ofF32 (BitVec.ofNat 32 a))
    (toF32 (rn32 x)).toNat
  | 1 => (t + a) % 2 ^ 32
  | 2 => (t + a) % 2 ^ 64
  | 3 => if signedOf 64 t ≤ signedOf 64 a then t else a
  | 4 => if signedOf 64 t < signedOf 64 a then a else t
  | _ => if t = e then a else t

/-- Width of an atomic's element in bytes. -/
def atomicWidth (aop : Nat) : Nat := if aop ≤ 1 then 4 else 8

/-- Raw bytes of an INPUT tensor from an offset in its rows: of the member's frame, or of its draws (R229). -/
def View.inputBytes (v : View) (h : Nat) (t : Tensor) (m : Member) (off n : Nat) : Bytes :=
  let rowBytes := max (rowElementBytes t.fmt t.d0) 1
  match m.frame with
  | some bs => slice bs (frameOffset v.prog h + off / rowBytes * t.rowPitch + off % rowBytes) n
  | none =>
    let w := max (fmtBits t.fmt / 8) 1
    (List.range n).map (fun i =>
      let b := off + i
      let c := (v.inputCode h t m (b / rowBytes * t.d0 + b % rowBytes / w)).1
      BitVec.ofNat 8 (c / 256 ^ (b % rowBytes % w)))

/-- Raw bytes from an offset in the rows of an operand of a member. -/
def View.rawOperand (v : View) (h mem off n : Nat) : Bytes :=
  match v.prog.tensor? h, (v.homes[h]?).join with
  | some t, none =>
    if t.cls = 3 then v.inputBytes h t (v.member mem) off n
    else if t.cls = 0 then
      let rowBytes := max (rowElementBytes t.fmt t.d0) 1
      v.weightBytes t.ref (off / rowBytes * t.rowPitch + off % rowBytes) n
    else List.replicate n 0
  | some t, some hm =>
    if t.cls = 3 then v.inputBytes h t (v.member mem) off n
    else
    let so := if t.perFuture then (v.member mem).slot * t.sliceStride else 0
    let row := off / max (rowElementBytes t.fmt t.d0) 1
    let at' := row * t.rowPitch + off % max (rowElementBytes t.fmt t.d0) 1 + so
    v.tensorBytes (t.cls == 1) (hm.staged (hasTwoBuffers t.cls) + at') (hm.committed + at') n
  | _, _ => List.replicate n 0

/-- Elements of `w` bytes in one row of a tensor. -/
def Tensor.perRow (t : Tensor) (w : Nat) : Nat := max (rowElementBytes t.fmt t.d0 / max w 1) 1

/-- Raw bytes of element `i` of an operand whose elements have `w` bytes (values 4, 8 or 16 B, indexes 8 B). -/
def View.rawElement (v : View) (h mem i w : Nat) : Bytes :=
  let t := (v.prog.tensor? h).getD (Tensor.ofNat 0)
  v.rawOperand h mem (i / t.perRow w * rowElementBytes t.fmt t.d0 + i % t.perRow w * w) w

/-- The number of the first operation of a problem in an operand, from its element offset OFF_A. -/
def View.firstOperation (v : View) (o : OpDesc) (q : IProb) : Nat :=
  let t := (v.prog.tensor? o.srcA).getD (Tensor.ofNat 0)
  q.offA * (fmtBits t.fmt / 8) / (if o.aop = 5 then 16 else atomicWidth o.aop)

/-- The staged bytes after operation `i` of a problem (R308, R309).
[notes/assumptions 199 DEDUCED, unsafe] -/
def View.atomicOne (v : View) (o : OpDesc) (q : IProb) (i : Nat) : View :=
  let wd := atomicWidth o.aop
  let vb := if o.aop = 5 then 16 else wd
  let mem := q.memberOf i
  let own (h : Nat) : Nat := v.firstOperation o q + q.rowOf (((v.prog.tensor? h).map Tensor.perFuture).getD false) i
  let operand := v.rawElement o.srcA mem (own o.srcA) vb
  let idx := q.offD + leNat (v.rawElement o.src2 mem (own o.src2) 8)
  match v.prog.tensor? o.dst, (v.homes[o.dst]?).join with
  | some t, some hm =>
    let so := if t.perFuture then (v.member mem).slot * t.sliceStride else 0
    let at' := so + idx / t.perRow wd * t.rowPitch + idx % t.perRow wd * wd
    if hm.bufBytes < at' + wd then v
    else
      let old := leNat (v.tensorBytes (t.cls == 1) (hm.staged (hasTwoBuffers t.cls) + at')
        (hm.committed + at') wd)
      let e := leAt operand 0 8
      let a := if o.aop = 5 then leAt operand 8 8 else leNat operand
      let cells := cellsAt (hm.staged (hasTwoBuffers t.cls) + at') (toLe wd (atomicResult o.aop old a e))
      { v with stage := cells ++ v.stage }
  | _, _ => v

/-- Every operation of an ATOMIC operator, its problems and their operations in ascending order (R232, R309). On one line
the hardware applies them in the order of their arrival.
[notes/assumptions 196 DESIGN CHOICE, unsafe] -/
def View.atomics (v : View) (o : OpDesc) (probs : List IProb) : View :=
  probs.foldl (fun acc q => (List.range q.rows).foldl (fun acc' i => acc'.atomicOne o q i) acc) v

/-! ### One tile -/

/-- Does a byte of a tensor's staged buffer lie in a scale plane (R103)? -/
def View.isScale (v : View) (h a : Nat) : Bool :=
  match v.prog.tensor? h, (v.homes[h]?).join with
  | some t, some hm =>
    let off := a - hm.staged (hasTwoBuffers t.cls)
    fmtHasScale t.fmt && decide (t.scaleBase ≤ if t.perFuture then off % max t.sliceStride 1 else off)
  | _, _ => false

/-- The bytes one operation of a tile writes in ascending cell-store address: rows of elements, then their scales
(R93, R103).
[notes/assumptions 186 DEDUCED, unsafe] -/
def View.inStore (v : View) (h : Nat) (cs : List Host.Cell) : List Host.Cell :=
  cs.filter (fun c => !v.isScale h c.1) ++ cs.filter (fun c => v.isScale h c.1)

/-- The cells that columns `col0` on of one row of a tile of a cell operator write. -/
def View.tileRow (v : View) (o : OpDesc) (opIdx : Nat) (q : IProb) (t : Tile) (r col0 cols : Nat) : List Host.Cell :=
  match o.cls with
  | 0 => v.matmulRow o opIdx ((arrayDepth o.fmtA o.fmtW).getD 128) q r col0 cols
  | 1 => v.attRow o opIdx true q r (t.row0 + t.rows - 1) (fun _ => [])
  | 4 => v.convRow o opIdx q r col0 cols
  | 5 => v.regroupRow o opIdx q r col0 cols
  | 6 => v.poolRow o opIdx q r col0 cols
  | 7 => v.gateRow o opIdx q r col0 cols
  | _ => []

/-- The numbers of the rows of a tile. -/
def Tile.rowList (t : Tile) : List Nat := (List.range t.rows).map (fun i => t.row0 + i)

/-- The bytes a tile of a cell operator writes, in the order its checksum takes them: operation by operation, one for
every 64 columns of a matrix or a convolution, one pass for the others (R93).
[notes/assumptions 186 DEDUCED, unsafe] -/
def View.tileOutput (v : View) (o : OpDesc) (opIdx : Nat) (q : IProb) (t : Tile) : List Host.Cell :=
  let ops := if o.cls = 0 || o.cls = 4 then
      (List.range (ceilDiv t.cols 64)).map (fun c => (t.col0 + 64 * c, min 64 (t.cols - 64 * c)))
    else [(t.col0, t.cols)]
  ops.flatMap (fun c => v.inStore o.dst (t.rowList.flatMap (fun r => v.tileRow o opIdx q t r c.1 c.2)))

end Sys2Proof.Machine
end

