-- ==== Sys2Proof/Machine/HostCommands.lean ====
section
/-!
DEFINITION. Host commands other than those of images and streams (R351 to R366): NOP, BIND, SUBMIT, INPUT, STORE,
FETCH, FORK, FENCE, FIELD_TEST, OD_READ and OD_WRITE.
-/

namespace Sys2Proof.Machine

/-! ### BIND (R245 to R248, R353) -/

/-- Payload of a BIND completion (R353).
[notes/assumptions 112 DEDUCED, unsafe] -/
def bindPayload (p : Program) : Bytes := toLe 4 p.expandedOps ++ toLe 4 (if p.orderDependent then 1 else 0)

/-- A new job bound to an image.
[notes/assumptions 113 DEDUCED, unsafe] -/
def Dev.bindNew (d : Dev) (p : Nat) (k : Packet) (im : Image) (prog : Program) : Dev :=
  let h := (d.part p).nextHandle
  let d1 := (d.modPart p (fun x => { x with nextHandle := x.nextHandle + 1 })).setJob
    { id := k.job, part := p, imageNo := im.number, prog := prog, handle := h, orderDep := prog.orderDependent }
  d1.complete p k .ok h (bindPayload prog)

/-- A live job rebound: at once before its SUBMIT, else at the first boundary after, a rebinding that waits being
superseded (R248, R254).
[notes/assumptions 115 DEDUCED, unsafe] -/
def Dev.rebind (d : Dev) (p : Nat) (k : Packet) (j : Job) (prog : Program) : Dev :=
  if j.state = .bound then
    (d.setJob { j with prog := prog, orderDep := prog.orderDependent }).complete p k .ok j.handle (bindPayload prog)
  else
    let d1 := match j.pendingProg with
      | some (q, t) => d.completeTag p t .ok j.handle (bindPayload q)
      | none => d
    (d1.modJob j.id (fun y => { y with pendingProg := some (prog, k.tag) })).wait p k (.bind j.imageNo)

/-- Has an earlier LOAD_IMAGE packet of an image not completed (R248)? -/
def Dev.loadsFirst (d : Dev) (p image : Nat) (k : Packet) : Bool :=
  let first (q : Packet) : Bool := q.opcode == 1 && q.arg1 == image && decide (q.order < k.order)
  (d.part p).inbox.any first || (d.part p).waits.any (fun w => first w.pkt)

/-- BIND. It waits in SAFE, for an earlier LOAD_IMAGE of its image and for the placement of the image; one that stays only in
Stratus ends it (R477, R523, R248). -/
def Dev.bindCmd (d : Dev) (safe : Bool) (p tag : Nat) : Eff :=
  if safe then d.eff
  else d.startWith p tag 2 (fun k =>
    if d.loadsFirst p (bindTag k.payload) k then d.eff
    else if k.arg0 != 0 || k.arg1 != 0 || k.job = 0 then d.refuse p k .rejectedFormat
    else
    let im := (d.imageOf (bindTag k.payload)).bind (fun i => if i.part = p && i.ended then some i else none)
    match bindCheck k.payload im with
    | some (c, off) => (d.complete p k c off).eff
    | none =>
      match im with
      | none => d.refuse p k .notOwner
      | some i =>
        let prog := Program.ofBytes (k.payload.drop 64)
        if i.restoring || d.placing i.number then d.eff
        else if !i.placed then d.refuse p k .fencedCapacity
        else match d.liveJob k.job with
          | none => (d.bindNew p k i prog).eff
          | some j =>
            if j.part != p then d.refuse p k .notOwner
            else if j.imageNo != i.number || !rebindCompatible prog j.prog then d.refuse p k .rejectedFormat
            else match (if j.state = .bound then none else batchChecks prog i j.batch) with
              | some off => (d.complete p k .rejectedFormat off).eff
              | none => (d.rebind p k j prog).eff)

/-! ### SUBMIT (R18, R62, R63, R354) -/

/-- The batch parameters of a SUBMIT payload, none for an illegal one. -/
def submitBatch (k : Packet) : Option Batch :=
  let w := leAt k.payload 0 64
  let b : Batch :=
    { guaranteed := bit w 0, o := field w 14 8, fMax := field w 48 32, forkBudget := field w 80 64
      cReq := field w 104 96, rounds := field w 159 128, seed := field w 223 160, partialOk := k.partialOk }
  if k.payload.length != 64 || field w 7 1 != 0 || field w 31 15 != 0 || field w 63 49 != 0 || field w 95 81 != 0 ||
      field w 127 105 != 0 || field w 511 224 != 0 || b.o = 0 || 64 < b.o || b.fMax ≤ b.o || 65536 < b.fMax ||
      65536 < b.forkBudget || 384 < b.cReq then none
  else some b

/-- Number of the tick that starts next. -/
def Dev.nextTickNo (d : Dev) : Nat := if d.tick.started then d.tick.tick + 1 else 0

/-- Payload of a SUBMIT completion (R354). -/
def submitPayload (first : Nat) (a : Admission) (guaranteed : Bool) : Bytes :=
  toLe 8 first ++ toLe 8 a.counts.cc ++ toLe 8 a.counts.cm ++ toLe 8 a.counts.cf ++ toLe 8 a.counts.ci ++
    toLe 8 a.ps ++ toLe 8 (if guaranteed then a.grant.cells.length else 0)

/-- SUBMIT. It waits in SAFE (R477). -/
def Dev.submit (d : Dev) (safe : Bool) (p tag : Nat) : Eff :=
  if safe then d.eff
  else d.startWith p tag 3 (fun k =>
    match d.jobFor p k with
    | .error c => d.refuse p k c
    | .ok j0 =>
      match submitBatch k with
      | none => d.refuse p k .rejectedFormat
      | some b =>
        if j0.state ≠ .bound || k.arg0 != 0 || k.arg1 != 0 then d.refuse p k .rejectedFormat
        else
          let j := { j0 with batch := b, submitTag := k.tag, submitSeq := k.seq }
          match tget d.images j.imageNo with
          | none => d.refuse p k .rejectedFormat
          | some im =>
            match d.eff.admitJob j im with
            | .error c => d.refuse p k c
            | .ok a =>
              let first := max k.tick d.nextTickNo
              let order := 1 + maxNat (d.jobs.map (fun x => x.2.admitOrder))
              (a.take j first order).mod (fun x =>
                x.complete p k .ok 0 (submitPayload first a b.guaranteed)))

/-! ### INPUT and FORK (R26, R356, R359) -/

/-- The failing SEQ of a poisoned future or stream (R365). -/
def Dev.poisonedBy (d : Dev) (p job id : Nat) : Option Nat :=
  ((d.part p).poisonedNames.find? (fun n => n.job == job && n.id == id)).map PoisonedName.seq

/-- The checks of an INPUT on arrival: code and INFO, none when it passes (R356). -/
def Dev.inputCheck (d : Dev) (p : Nat) (k : Packet) : Option (Code × Nat) :=
  match d.jobFor p k with
  | .error c => some (c, 0)
  | .ok j =>
    match d.poisonedBy p k.job k.arg0 with
    | some s => some (.postedWriteFailed, s)
    | none =>
      if j.state ≠ .admitted || k.arg1 != 0 || !(j.futures.any (fun f => f.observed && f.id == k.arg0)) ||
          decide (k.payload.length < frameBytes j.prog) || decide (j.prog.hdr.inputMax < k.payload.length)
      then some (.rejectedFormat, 0) else none

/-- A child entry of a FORK payload. -/
def childAt (bs : Bytes) (i : Nat) : ChildEntry :=
  let w := leAt bs (64 + 24 * i) 24
  { parent := field w 31 0, child := field w 63 32, seed := if bit w 128 then some (field w 127 64) else none }

/-- A FORK as its payload gives it; none for an illegal layout (R359). -/
def forkOf (k : Packet) : Option ForkIn :=
  let h := leAt k.payload 0 64
  let nc := field h 31 0
  let np := field h 63 32
  let size := 64 + 24 * nc + 4 * np
  if k.payload.length != alignUp size 64 || field h 511 64 != 0 || k.arg0 != 0 || k.arg1 != 0 ||
      (List.range nc).any (fun i => field (leAt k.payload (64 + 24 * i) 24) 191 129 != 0) then none
  else some
    { tag := k.tag, seq := k.seq, urgent := k.urgent, children := (List.range nc).map (childAt k.payload)
      prunes := (List.range np).map (fun i => leAt k.payload (64 + 24 * nc + 4 * i) 4) }

/-- The checks of a FORK on arrival; those of R31 come when it is applied. -/
def Dev.forkCheck (d : Dev) (p : Nat) (k : Packet) : Option (Code × Nat) :=
  match d.jobFor p k with
  | .error c => some (c, 0)
  | .ok j => if j.state ≠ .admitted || (forkOf k).isNone then some (.rejectedFormat, 0) else none

/-- A packet marked as checked: it waits in the inbox for its tick (R50). -/
def Dev.markChecked (d : Dev) (p tag : Nat) : Dev :=
  d.modPart p (fun x =>
    { x with inbox := x.inbox.map (fun k => if k.tag = tag then { k with checked := true } else k) })

/-- A command of a tick judged on arrival: it ends, or waits for its tick. -/
def Dev.arrive (d : Dev) (p tag opcode : Nat) (check : Packet → Option (Code × Nat)) : Eff :=
  d.startWith p tag opcode (fun k =>
    match check k with
    | some (c, info) => (d.complete p k c info).eff
    | none => (d.markChecked p tag).eff)

/-! ### STORE (R357) -/

/-- An object entered under the partition's next handle.
[notes/assumptions 113 DEDUCED, unsafe; 150 DEDUCED, unsafe] -/
def Eff.addObject (e : Eff) (p : Nat) (o : Object) : Nat × Eff :=
  let h := (e.dev.part p).nextHandle
  (h, e.mod (fun d => { (d.modPart p (fun x => { x with nextHandle := h + 1 })) with
    objects := tset d.objects (p * 2 ^ 32 + h) o }))

/-- STORE with HANDLE 0. -/
def Dev.storeCreate (d : Dev) (p tag : Nat) : Eff :=
  d.startWith p tag 0x11 (fun k =>
    if k.handle != 0 then d.eff
    else
      let w := leAt k.payload 0 64
      let total := field w 191 128
      if k.payload.length != 64 || field w 63 33 != 0 || field w 511 192 != 0 || total < 64 || 2 ^ 45 < total ||
          k.arg0 != 0 || k.arg1 != 0 then d.refuse p k .rejectedFormat
      else if bit w 32 then
        let units := ceilDiv total 4096
        if d.stratus.state = 2 then d.refuse p k .tierFailed
        else if d.stratusRoom p < units * 4096 then d.refuse p k .noRoom
        else match d.takeStratus units p with
          | none => d.refuse p k .noRoom
          | some (loc, d1) =>
            let r := d1.eff.addObject p { part := p, stratus := true, stack := 0, base := loc, total := total }
            r.2.mod (fun x => x.complete p k .ok r.1)
      else
        match d.roomiest (d.usableStacks p) with
        | none => d.refuse p k .noRoom
        | some s => match d.eff.takeRoom s 1 (ceilDiv total 128) p with
          | none => d.refuse p k .noRoom
          | some (la, e) =>
            let r := e.addObject p { part := p, stratus := false, stack := s, base := la, total := total }
            r.2.mod (fun x => x.complete p k .ok r.1))

/-- STORE with a handle: the bytes reach a stack at once, or wait to be durable in Stratus; a commit window makes
them visible.
[notes/assumptions 116 DEDUCED, unsafe] -/
def Dev.storeWrite (d : Dev) (p tag : Nat) : Eff :=
  d.startWith p tag 0x11 (fun k =>
    if k.handle = 0 then d.eff
    else
      let w := leAt k.payload 0 64
      let off := field w 127 64
      let data := k.payload.drop 64
      match d.object? p k.handle with
      | none => d.refuse p k .rejectedFormat
      | some o =>
        if o.releasing || off % 64 != 0 || o.total < off + data.length || field w 63 33 != 0 || field w 511 192 != 0 ||
            k.payload.length < 64 || k.arg0 != 0 || k.arg1 != 0 then d.refuse p k .rejectedFormat
        else if o.lost then d.refuse p k .dataLost
        else if o.stratus && d.stratus.state = 2 then d.refuse p k .tierFailed
        else
          let sw : StoreWrite := { handle := k.handle, tag := k.tag, offset := off, data := data, atHome := !o.stratus }
          let d1 := d.modPart p (fun x => { x with storeWrites := x.storeWrites ++ [sw] })
          (if o.stratus then d1.wait p k .durable else d1.complete p k .ok k.handle).eff)

/-! ### FETCH (R255, R358) -/

/-- Does the outbox have room for a response of some payload bytes, no response waiting outside it (R344)?
[notes/assumptions 201 DEDUCED, unsafe] -/
def Dev.outboxTakes (d : Dev) (p bytes : Nat) : Bool :=
  decide ((inOutbox (d.outboxCap p) 0 (d.part p).outbox).length = (d.part p).outbox.length) &&
    entersOutbox (d.outboxCap p) (d.outboxBytes p) (32 + bytes) bytes

/-- A FETCH of an object completed; with RELEASE its home is freed once the response is sent. -/
def Dev.completeFetch (d : Dev) (p : Nat) (k : Packet) (key : Nat) (release : Bool) (data : Bytes) : Dev :=
  let d1 := d.complete p k .ok 0 data
  if !release then d1
  else
    { (d1.modPart p (fun x => { x with
        outbox := x.outbox.map (fun r => if r.tag = k.tag && r.opcode == 0x12 then { r with release := some key } else r) })) with
      objects := d1.objects.map (fun o => if o.1 = key then (o.1, { o.2 with releasing := true }) else o) }

/-- The bytes of an object at an offset, or the code its read ends with (R290, R273). -/
def Mem.objectBytes (m : Mem) (o : Object) (off n : Nat) : Except Code Bytes :=
  if o.lost then .error .dataLost
  else if o.poisoned then .error .linePoisoned
  else if o.stratus then
    if (List.range (ceilDiv (off % 4096 + n) 4096)).any (fun i => m.poisonUnits.contains (o.base + off / 4096 + i))
    then .error .linePoisoned
    else .ok (m.readBytes (Space.stratus.addr (o.base * 4096 + off)) n)
  else
    let a := (Space.stack o.stack).addr (o.base * 128 + off)
    if m.rangePoisoned a n then .error .linePoisoned else .ok (m.readBytes a n)

/-! ### Regulators (R310, R311) -/

/-- Stacks whose bucket a partition has (R311). -/
def Dev.bucketStacks (d : Dev) (p : Nat) : List Nat := (List.range 12).filter (fun k => d.regionUsable p (k / 2))

/-- A partition's bucket on a stack; one not listed is full. -/
def Dev.bucket (d : Dev) (p k : Nat) : Nat := tgetD (d.part p).buckets k (d.pforce p 0x12 2)

/-- Lines of best-effort traffic taken from a partition's bucket on a stack; what the bucket lacks is borrowed.
[notes/assumptions 99 DEDUCED, unsafe] -/
def Dev.takeTokens (d : Dev) (p k n : Nat) : Dev :=
  let left := d.bucket p k - n
  d.modPart p (fun x => { x with buckets := tset x.buckets k left, bucketLow := min x.bucketLow left })

/-- Slot of a member of a job: a future or a host stream. -/
def Dev.memberSlot (d : Dev) (j : Job) (id : Nat) : Option Nat :=
  match j.futures.find? (fun f => f.id == id) with
  | some f => some f.slot
  | none => (d.hostEntry j.id id).map (fun x => x.2.slot)

/-- Where committed bytes of a job tensor lie, `back` buffers ago, or the code of an illegal request.
[notes/assumptions 117 DEDUCED, unsafe] -/
def Dev.fetchAt (d : Dev) (j : Job) (k : Packet) (back : Nat) : Except Code (Nat × Nat) :=
  let w := leAt k.payload 0 64
  let n := field w 127 96
  let off := field w 191 128
  match j.prog.tensor? (field w 31 16), (j.homes[field w 31 16]?).join with
  | some t, some h =>
    if !(t.cls == 2 || t.cls == 4) || t.sliceStride < off + n then .error .rejectedFormat
    else if h.lost then .error .dataLost
    else
      let b := h.buffer ((h.current + back) % 2)
      if !t.perFuture then .ok (b + off, n)
      else match d.memberSlot j (field w 63 32) with
        | none => .error .rejectedFormat
        | some s => .ok (b + s * t.sliceStride + off, n)
  | _, _ => .error .rejectedFormat

/-- Is the request block of a FETCH legal? -/
def fetchLegal (k : Packet) : Bool :=
  let w := leAt k.payload 0 64
  let n := field w 127 96
  k.payload.length == 64 && k.arg0 == 0 && k.arg1 == 0 && field w 15 2 == 0 && field w 511 256 == 0 &&
    n % 32 == 0 && decide (32 ≤ n) && decide (n ≤ maxPayload) && (bit w 0 || !bit w 1)

/-- The lines of an address range that a FETCH copies taken from its partition's regulator (R310, R358). -/
def Dev.fetchTokens (d : Dev) (p a n : Nat) : Dev :=
  if a / 128 < 12 * stackLines then d.takeTokens p (a / 128 / stackLines) (ceilDiv (a % 128 + n) 128) else d

/-- FETCH completed from memory addresses. -/
def State.fetchFrom (s : State) (p : Nat) (k : Packet) (r : Except Code (Nat × Nat)) : Dev :=
  match r with
  | .error c => s.dev.complete p k c
  | .ok (a, n) =>
    let d := s.dev.fetchTokens p a n
    if s.mem.rangePoisoned a n then d.complete p k .linePoisoned
    else d.complete p k .ok 0 (s.mem.readBytes a n)

/-- FETCH of an object: at once from a stack, by a read from Stratus. -/
def State.fetchObject (s : State) (p : Nat) (k : Packet) : Dev :=
  let d := s.dev
  let w := leAt k.payload 0 64
  let h := field w 95 64
  let off := field w 191 128
  let n := field w 127 96
  match d.object? p h with
  | none => d.complete p k .rejectedFormat
  | some o =>
    if o.releasing || o.total < off + n then d.complete p k .rejectedFormat
    else if o.stratus && !o.lost && !o.poisoned then d.wait p k .fetchStratus
    else match s.mem.objectBytes o off n with
      | .error c => d.complete p k c
      | .ok bs => (d.fetchTokens p (stackAddr o.stack o.base + off) n).completeFetch p k (p * 2 ^ 32 + h) (bit w 1) bs

/-- FETCH of a job tensor: the latest committed value, or a wait for the named tick's commit.
[notes/assumptions 117 DEDUCED, unsafe] -/
def State.fetchTensor (s : State) (p : Nat) (k : Packet) : Dev :=
  let d := s.dev
  let at' := field (leAt k.payload 0 64) 255 192
  match d.jobFor p k with
  | .error c => d.complete p k c
  | .ok j =>
    let last := if d.tick.commitDone then d.tick.tick else d.tick.tick - 1
    match d.fetchAt j k 0 with
    | .error c => d.complete p k c
    | .ok _ =>
      if at' = 0 then s.fetchFrom p k (d.fetchAt j k 0)
      else if at' < last then d.complete p k .rejectedFormat j.lastTick
      else d.wait p k (.fetchTick at')

/-- FETCH. -/
def State.fetch (s : State) (p tag : Nat) : Eff :=
  s.dev.startWith p tag 0x12 (fun k =>
    if !fetchLegal k then s.dev.refuse p k .rejectedFormat
    else if !s.dev.outboxTakes p (field (leAt k.payload 0 64) 127 96) then s.dev.eff
    else (if bit (leAt k.payload 0 64) 0 then s.fetchObject p k else s.fetchTensor p k).eff)

/-- FETCH_COPY: from the cut after the named tick's commit window, the value that tick committed is copied; a
round committed since has left it in the other buffer (R257). -/
def State.fetchCopy (s : State) (p tag : Nat) : Dev :=
  let d := s.dev
  match d.wait? p tag with
  | some w =>
    match w.what with
    | .fetchTick t =>
      if d.tick.tick ≤ t || !d.outboxTakes p (field (leAt w.pkt.payload 0 64) 127 96) then d
      else match d.liveJob w.pkt.job with
        | none => d.complete p w.pkt .rejectedFormat
        | some j => s.fetchFrom p w.pkt (d.fetchAt j w.pkt (if j.lastTick ≤ t then 0 else 1))
    | _ => d
  | none => d

/-- Does a FETCH still copy, from the buffer that the job's next write goes to, the value of a tick before its last commit? That
write waits for it (R358). -/
def Dev.copyWaits (d : Dev) (j : Job) : Bool :=
  (d.part j.part).waits.any (fun w =>
    match w.what with
    | .fetchTick t => w.pkt.job == j.id && decide (t < j.lastTick) && decide (t < d.tick.tick)
    | _ => false)

/-! ### FENCE (R361, R366) -/

/-- FENCE, with END_JOB or without: it ends the job it names at once and waits for what precedes it.
[notes/assumptions 118 DEDUCED, unsafe] -/
def Dev.fence (d : Dev) (p tag : Nat) (endJob : Bool) : Eff :=
  d.startWith p tag 0x30 (fun k =>
    if bit k.arg0 0 != endJob then d.eff
    else if k.arg0 / 2 != 0 || k.arg1 != 0 || !k.payload.isEmpty then d.refuse p k .rejectedFormat
    else if !endJob then (d.wait p k .fence).eff
    else match d.jobFor p k with
      | .error c => d.refuse p k c
      | .ok j => (d.wait p k .fence).eff.abortJob j.id)

/-- Has every command of a partition that precedes a FENCE completed?
[notes/assumptions 118 DEDUCED, unsafe] -/
def Part.fenceDue (x : Part) (k : Packet) : Bool :=
  !(x.flights.any (fun f => decide (f.order < k.order) && !f.completed))

/-- FENCE_COMPLETE. -/
def Dev.fenceComplete (d : Dev) (p tag : Nat) : Dev :=
  match d.wait? p tag with
  | some w =>
    if w.what ≠ .fence || !(d.part p).fenceDue w.pkt then d
    else
      let fs := (d.part p).postFails.filter (fun f => decide (f.order < w.pkt.order))
      let d1 := d.modPart p (fun x =>
        { x with postFails := x.postFails.filter (fun f => !decide (f.order < w.pkt.order)), poisonedNames := [] })
      match fs with
      | [] => d1.complete p w.pkt .ok
      | f :: _ => d1.complete p w.pkt .postedWriteFailed 0
          (toLe 4 f.seq ++ toLe 4 (min fs.length (2 ^ 32 - 1)) ++
            toLe 8 (f.code + if f.urgent then 2 ^ 8 else 0))
  | none => d

/-! ### FIELD_TEST (R281, R362) -/

/-- May a host test a unit: cells of its own grants, and free cells (R263) within its quota? A fenced cell outside its
grants is not free (R281). -/
def Dev.hostMayTest (d : Dev) (p u : Nat) : Bool :=
  let own := d.grantedCells p
  let rest := (unitCells u).filter (fun n => !own.contains n)
  rest.all (fun n => d.regionUsable p (n / 64) && d.cellUp n && !(d.liveJobs.any (fun j => j.grant.cells.contains n))) &&
    decide (own.length + rest.length ≤ max (d.pforce p 0x01 1) own.length)

/-- FIELD_TEST from a host. -/
def Dev.fieldTest (d : Dev) (p tag : Nat) : Eff :=
  d.startWith p tag 0x31 (fun k =>
    let u := k.arg0 % 2 ^ 15
    if k.arg0 / 2 ^ 15 != 0 || field u 3 2 != 0 || bit u 7 || bit u 11 || k.arg1 != 0 || !k.payload.isEmpty || !unitLegal u
    then d.refuse p k .rejectedFormat
    else if !d.hostMayTest p u then d.refuse p k .notOwner
    else ((d.requestTest u 0).wait p k (.test u)).eff)

/-! ### OD_READ and OD_WRITE (R363, R402) -/

/-- OD_READ by a host. -/
def State.odRead (s : State) (p : Fin 16) (tag : Nat) : Eff :=
  s.dev.startWith p tag 0x32 (fun k =>
    if k.arg0 / 2 ^ 25 != 0 || k.arg1 != 0 || !k.payload.isEmpty then s.dev.refuse p k .rejectedFormat
    else
      let r := s.readObject (.host p) (field k.arg0 15 0) (field k.arg0 23 16) (bit k.arg0 24)
      (r.2.complete p k .ok 0 r.1).eff)

/-- OD_WRITE by a host: entry by entry, then the response with its reports. -/
def State.odWrite (s : State) (p : Fin 16) (tag : Nat) : State :=
  match s.dev.starting p tag 0x33 with
  | none => s.apply s.dev.eff
  | some k =>
    if k.arg0 != 0 || k.arg1 != 0 then s.apply (s.dev.refuse p k .rejectedFormat)
    else
      let es := entriesOf k.payload
      let r := s.writeEntries (.host p) es.1
      r.1.withDev (r.1.dev.complete p k (if es.2.isSome then .rejectedFormat else .ok) (es.2.getD 0)
        (reportBytes es.1 r.2))

/-! ### The meanings -/

/-- NOP: every earlier packet of its ring has passed the checks when it reaches the inbox (R364).
[notes/assumptions 46 DEDUCED, unsafe] -/
def execNop (p : Fin 16) (tag : Nat) (s : State) : Host.Outcome State Fault Refusal :=
  s.done (s.dev.startWith p tag 0 (fun k =>
    if k.arg0 != 0 || k.arg1 != 0 then s.dev.refuse p k .rejectedFormat else (s.dev.complete p k .ok).eff))

/-- BIND. -/
def execBind (p : Fin 16) (tag : Nat) (s : State) : Host.Outcome State Fault Refusal :=
  s.done (s.dev.bindCmd s.safety.safe p tag)

/-- SUBMIT. -/
def execSubmit (p : Fin 16) (tag : Nat) (s : State) : Host.Outcome State Fault Refusal :=
  s.done (s.dev.submit s.safety.safe p tag)

/-- INPUT. -/
def execInput (p : Fin 16) (tag : Nat) (s : State) : Host.Outcome State Fault Refusal :=
  s.done (s.dev.arrive p tag 0x10 (s.dev.inputCheck p))

/-- STORE_CREATE. -/
def execStoreCreate (p : Fin 16) (tag : Nat) (s : State) : Host.Outcome State Fault Refusal :=
  s.done (s.dev.storeCreate p tag)

/-- STORE_WRITE. -/
def execStoreWrite (p : Fin 16) (tag : Nat) (s : State) : Host.Outcome State Fault Refusal :=
  s.done (s.dev.storeWrite p tag)

/-- FETCH: the lines it reads are checked first (R289). -/
def execFetch (p : Fin 16) (tag : Nat) (s : State) (met : List LineError := []) : Host.Outcome State Fault Refusal :=
  (s.meet met).done ((s.meet met).fetch p tag)

/-- FETCH_COPY. -/
def execFetchCopy (p : Fin 16) (tag : Nat) (s : State) : Host.Outcome State Fault Refusal :=
  s.done (s.fetchCopy p tag).eff

/-- FORK. -/
def execFork (p : Fin 16) (tag : Nat) (s : State) : Host.Outcome State Fault Refusal :=
  s.done (s.dev.arrive p tag 0x20 (s.dev.forkCheck p))

/-- FENCE. -/
def execFence (p : Fin 16) (tag : Nat) (s : State) : Host.Outcome State Fault Refusal :=
  s.done (s.dev.fence p tag false)

/-- FENCE_END_JOB. -/
def execFenceEndJob (p : Fin 16) (tag : Nat) (s : State) : Host.Outcome State Fault Refusal :=
  s.done (s.dev.fence p tag true)

/-- FENCE_COMPLETE. -/
def execFenceComplete (p : Fin 16) (tag : Nat) (s : State) : Host.Outcome State Fault Refusal :=
  s.done (s.dev.fenceComplete p tag).eff

/-- FIELD_TEST. -/
def execFieldTest (p : Fin 16) (tag : Nat) (s : State) : Host.Outcome State Fault Refusal :=
  s.done (s.dev.fieldTest p tag)

/-- OD_READ. -/
def execOdRead (p : Fin 16) (tag : Nat) (s : State) : Host.Outcome State Fault Refusal := s.done (s.odRead p tag)

/-- OD_WRITE. -/
def execOdWrite (p : Fin 16) (tag : Nat) (s : State) : Host.Outcome State Fault Refusal := .next (s.odWrite p tag)

end Sys2Proof.Machine
end

