-- ==== Sys2Proof/Machine/Rings.lean ====
section
/-!
DEFINITION. Command rings, response rings, doorbells and BAR0 (R336 to R350): how a packet is fetched and
checked, how a response is written, and what a register write does.
-/

namespace Sys2Proof.Machine

/-- Can the host's accesses reach a function, and its own traffic the host (R332, R334)? -/
def Dev.reach (d : Dev) (p : Nat) : Bool := (d.port (p / 4)).linkUp && (d.part p).present

/-- May the function master the bus: fetch, write responses and notices (R334, R508)? -/
def Dev.masters (d : Dev) (p : Nat) : Bool :=
  d.reach p && (d.part p).busMaster && !(decide ((d.part p).tdi = .error))

/-- Capacity of a ring in units of `unit` bytes.
[notes/assumptions 38 DEDUCED, unsafe] -/
def Ring.capacity (r : Ring) (unit : Nat) : Nat := 2 ^ r.log2 / unit

/-! ### Packets (R345, R346) -/

/-- The header and payload of a packet, stamped (R345, R50). -/
def Packet.of (bs : Bytes) (urgent : Bool) (now order : Nat) : Packet :=
  let w := leAt bs 0 64
  { urgent := urgent, opcode := field w 7 0, posted := bit w 8, partialOk := bit w 9, urgentClass := bit w 10,
    part := field w 19 16, seq := field w 63 32, tag := field w 80 64, job := field w 119 96,
    tick := field w 191 128, len := field w 223 192, arg0 := field w 287 224, arg1 := field w 351 288,
    payload := bs.drop 64, arrival := now, order := order }

/-- Are the header's reserved fields 0 (R345, R10)? -/
def headerClean (bs : Bytes) : Bool :=
  let w := leAt bs 0 64
  field w 15 11 == 0 && field w 31 20 == 0 && field w 95 81 == 0 && field w 127 120 == 0 &&
    field w 479 352 == 0

/-- CRC-32C over the header with CRC 0, then the payload (R345).
[notes/assumptions 35 DEDUCED, unsafe] -/
def packetCrcOk (bs : Bytes) : Bool :=
  crc32c (bs.take 60 ++ [0, 0, 0, 0] ++ bs.drop 64) == leAt bs 60 4

/-- The opcodes of R351. -/
def knownOpcode (o : Nat) : Bool :=
  [0x00, 0x01, 0x02, 0x03, 0x10, 0x11, 0x12, 0x20, 0x21, 0x22, 0x23, 0x24, 0x25, 0x30, 0x31, 0x32,
    0x33].contains o

/-- Is a STREAM_CHUNK packet a control chunk: no tokens (R360)? -/
def Packet.isControl (k : Packet) : Bool := leAt k.payload 0 4 == 0

/-- May the opcode use the urgent ring (R351)? -/
def urgentLegal (k : Packet) : Bool :=
  [0x00, 0x23, 0x25, 0x30, 0x32, 0x33].contains k.opcode || (k.opcode == 0x22 && k.isControl)

/-- May the command be posted (R351, R365)? -/
def postedLegal (k : Packet) : Bool :=
  k.opcode == 0x10 || (k.opcode == 0x11 && k.handle != 0) || (k.opcode == 0x22 && !k.isControl)

/-- Flags legal for the opcode and ring, TICK 0 where required (R345, R346). -/
def flagsLegal (k : Packet) : Bool :=
  (!k.posted || postedLegal k) && (!k.partialOk || k.opcode == 0x03 || k.opcode == 0x20) &&
    (k.urgentClass == k.urgent) && (!k.urgent || urgentLegal k) &&
    (k.tick == 0 || [0x03, 0x10, 0x20, 0x22].contains k.opcode)

/-- Does the command name a job that must be live (R346)? -/
def namesJob (k : Packet) : Bool :=
  [0x03, 0x10, 0x20, 0x21, 0x22, 0x23, 0x24, 0x25].contains k.opcode ||
    (k.opcode == 0x12 && !bit (leAt k.payload 0 4) 0) || (k.opcode == 0x30 && bit k.arg0 0)

/-- Is a BIND of the job waiting in the same partition? The job's later commands wait for it (R248).
[notes/assumptions 36 DEDUCED, unsafe] -/
def Dev.bindPending (d : Dev) (p job : Nat) : Bool :=
  (d.part p).inbox.any (fun k => k.opcode == 2 && k.job == job) ||
    (d.part p).waits.any (fun w => w.pkt.opcode == 2 && w.pkt.job == job)

/-- The job check of R346.
[notes/assumptions 36 DEDUCED, unsafe] -/
def Dev.jobCheck (d : Dev) (p : Nat) (k : Packet) : Option Code :=
  match d.liveJob k.job with
  | some j => if j.part != p then some .notOwner else none
  | none => if namesJob k && !d.bindPending p k.job then some .rejectedFormat else none

/-- The checks of R346 after CRC and LEN, in order: the code and INFO of the first that fails. -/
def Dev.packetCheck (d : Dev) (p : Nat) (bs : Bytes) (k : Packet) : Option (Code × Nat) :=
  let expect := ((d.part p).expectSeq.getD (if k.urgent then 1 else 0) none)
  if !knownOpcode k.opcode || !headerClean bs || !flagsLegal k then some (.rejectedFormat, 0)
  else if k.part != p then some (.notOwner, 0)
  else if expect.any (fun e => e != k.seq) then some (.rejectedFormat, expect.getD 0)
  else if (d.part p).flights.any (fun f => f.tag == k.tag) then some (.rejectedFormat, 0)
  else (d.jobCheck p k).map (fun c => (c, 0))

/-- A command ring replaced. -/
def Part.setCmdRing (x : Part) (urgent : Bool) (r : Ring) : Part :=
  if urgent then { x with urgent := r } else { x with normal := r }

/-- Does a command ring hold a packet (R338)? -/
def Part.ringHolds (x : Part) (urgent : Bool) : Bool :=
  (x.cmdRing urgent).enable && !(x.cmdRing urgent).halted &&
    (x.cmdRing urgent).head != x.cmdDoorbell urgent

/-- Largest LEN of a ring (R345). -/
def ringLimit (urgent : Bool) : Nat := if urgent then 65536 else 2097152

/-- Is LEN legal for the ring (R343)?
[notes/assumptions 35 DEDUCED, unsafe] -/
def lenLegal (urgent : Bool) (len : Nat) : Bool := len % 64 == 0 && decide (len ≤ ringLimit urgent)

/-- Free bytes of an inbox (R341, R342). -/
def Dev.inboxFree (d : Dev) (p : Nat) (urgent : Bool) : Nat :=
  (if urgent then 262144 else d.pforce p 0x14 1 * 1048576) - (d.part p).inboxBytes urgent

/-- Is the outbox's reserve of 64 KiB for small responses full (R344)? -/
def Dev.outboxFull (d : Dev) (p : Nat) : Bool := decide (d.outboxCap p ≤ d.outboxBytes p + 2080)

/-- Has a function a packet that its port could fetch (R334, R342, R344, R370)? -/
def Dev.fetchable (d : Dev) (p : Nat) : Bool :=
  d.ready && d.masters p && (d.part p).created && !(d.part p).quiesced &&
    ((d.part p).ringHolds false || (d.part p).ringHolds true) &&
    decide ((d.part p).flights.length < d.pforce p 0x14 3) && !d.outboxFull p

/-- The functions of a port in the order of their turns: the one after the function served last comes first (R340).
[notes/assumptions 197 DESIGN CHOICE, unsafe] -/
def Dev.turns (d : Dev) (port : Nat) : List Nat :=
  (List.range 4).map (fun i => 4 * port + ((d.port port).served + 1 + i) % 4)

/-- May a packet be fetched from a ring at all: it is its function's turn, the urgent ring comes first (R334, R340, R342,
R344, R370)? -/
def Dev.mayFetch (d : Dev) (p : Nat) (urgent : Bool) : Bool :=
  d.fetchable p && (d.part p).ringHolds urgent && (urgent || !(d.part p).ringHolds true) &&
    (d.turns (p / 4)).find? d.fetchable == some p

/-- The turn of a function used (R340). -/
def Dev.serve (d : Dev) (p : Nat) : Dev := d.modPort (p / 4) (fun x => { x with served := p % 4 })

/-- The ring halted: one REJECTED_FORMAT response, vector 2 (R343). -/
def Dev.haltRing (d : Dev) (p : Nat) (urgent : Bool) (cause : Nat) (header : Bytes) : Dev :=
  let w := leAt header 0 64
  let d1 := d.modPart p (fun x =>
    x.setCmdRing urgent { x.cmdRing urgent with halted := true, cause := cause })
  let r : Response :=
    { code := Code.rejectedFormat.toNat, opcode := field w 7 0, part := p, seq := field w 63 32,
      tag := field w 80 64, tick := d.tick.tick, accepted := false }
  (d1.emit p r).vector p 2

/-- A fetched packet that failed a check: a response, or the steps of R365 for a posted one.
[notes/assumptions 37 DEDUCED, unsafe] -/
def Dev.refusePacket (d : Dev) (p : Nat) (k : Packet) (c : Code) (info : Nat) : Dev :=
  if k.posted && postedLegal k then d.failPosted p k c
  else d.emit p { code := c.toNat, opcode := k.opcode, part := p, seq := k.seq, tag := k.tag, info := info,
                  tick := d.tick.tick, accepted := false }

/-- A packet whose bytes came whole: the ring's HEAD moves past it, the next SEQ is expected, and it is
refused or accepted into the inbox (R338, R342, R346 to R348).
[notes/assumptions 37 DEDUCED, unsafe] -/
def Dev.takePacket (d : Dev) (p : Nat) (urgent : Bool) (bs : Bytes) : Dev :=
  let k := Packet.of bs urgent d.now d.arrivals
  let verdict := d.packetCheck p bs k
  let d1 := { d with arrivals := d.arrivals + 1 }
  let d2 := d1.modPart p (fun x =>
    let r := x.cmdRing urgent
    let y := x.setCmdRing urgent { r with head := (r.head + 1 + k.len / 64) % 2 ^ 32 }
    ({ y with expectSeq := y.expectSeq.set (if urgent then 1 else 0) (some ((k.seq + 1) % 2 ^ 32)) }).writeHead
      urgent)
  let d3 := d2.copyHeader p (bs.take 64)
  match verdict with
  | some (c, info) => d3.refusePacket p k c info
  | none =>
    d3.modPart p (fun x =>
      { x with
        inbox := x.inbox ++ [k]
        flights := x.flights ++
          [{ tag := k.tag, seq := k.seq, opcode := k.opcode, urgent := urgent, posted := k.posted,
             job := k.job, order := k.order }] })

/-- PACKET_FETCH (R340, R342, R343, R346): a LEN above the limit halts the ring; a packet for which the inbox has no room
stays in the ring, its turn passed; then the rest of LEN is judged, and the CRC, which needs it.
[notes/assumptions 35 DEDUCED, unsafe] -/
def Dev.packetFetch (d : Dev) (p : Nat) (urgent : Bool) (data : HostRead) : Dev :=
  if !d.mayFetch p urgent then d
  else match data with
    | .readError h => (d.serve p).haltRing p urgent 3 h
    | .packet bs =>
      let len := leAt bs 24 4
      if len ≤ ringLimit urgent && d.inboxFree p urgent < 64 + len then d.serve p
      else if !lenLegal urgent len || bs.length != 64 + len then (d.serve p).haltRing p urgent 2 bs
      else if !packetCrcOk bs then (d.serve p).haltRing p urgent 1 bs
      else (d.serve p).takePacket p urgent bs

/-! ### Responses (R344, R348, R339) -/

/-- Does a written response free its tag (R348)? Not that of a packet that was not accepted, not while more follow, and
a SUBMIT's tag stays until the job ends. -/
def Response.freesTag (r : Response) : Bool :=
  r.accepted && !r.more && (if r.opcode = 0x80 then r.jobEnd
    else if r.opcode = 0x03 then decide (0x10 ≤ r.code) else true)

/-- Vector 0 after the response tail advanced, subject to RSP_HOLDOFF (R339). -/
def Dev.raiseRsp (d : Dev) (p : Nat) : Dev :=
  let x := d.part p
  let due := match x.lastVector0 with
    | none => true
    | some t => decide (t + x.holdoff * 1000 ≤ d.now)
  if due then (d.vector p 0).modPart p (fun y => { y with lastVector0 := some d.now, heldVector0 := false })
  else d.modPart p (fun y => { y with heldVector0 := true })

/-- An object freed (R255, R358): its bytes read as zero and its space is free. -/
def Eff.freeObject (e : Eff) (key : Nat) : Eff :=
  match tget e.dev.objects key with
  | none => e
  | some o =>
    let e1 := if o.lost then e
      else if o.stratus then e.freeUnits o.base (ceilDiv o.total 4096)
      else e.freeLines o.stack o.base (ceilDiv o.total 128)
    e1.mod (fun d => { d with objects := terase d.objects key })

/-- RESPONSE_WRITE (R344): the first response of the outbox goes to the ring when it fits. -/
def Dev.responseWrite (d : Dev) (p : Nat) : Eff :=
  let x := d.part p
  match x.outbox with
  | [] => d.eff
  | r :: rest =>
    let used := ahead x.rsp.tail x.rspHead
    if !d.masters p || !x.rsp.enable || decide (x.rsp.capacity 32 < used + r.units) then d.eff
    else
      let d1 := d.modPart p (fun y =>
        { y with
          outbox := rest
          rsp := { y.rsp with tail := (y.rsp.tail + r.units) % 2 ^ 32 }
          rspWritten := y.rspWritten ++ [r]
          flights := if r.freesTag then y.flights.filter (fun f => f.tag != r.tag) else y.flights })
      let d2 := (d1.copyHeader p (r.bytes.take 32)).raiseRsp p
      match r.release with
      | some key => if r.more then d2.eff else d2.eff.freeObject key
      | none => d2.eff

/-! ### Doorbells (R338, R439) -/

/-- A doorbell that is ignored and counted (R338, R341).
[notes/assumptions 38 DEDUCED, unsafe] -/
def Dev.ignoreDoorbell (d : Dev) (p : Nat) : Dev :=
  d.modPart p (fun x => { x with doorbellsIgnored := (x.doorbellsIgnored + 1) % 2 ^ 32 })

/-- A command ring's tail doorbell (R338).
[notes/assumptions 38 DEDUCED, unsafe] -/
def Dev.cmdTail (d : Dev) (p : Nat) (urgent : Bool) (v : Nat) : Dev :=
  let r := (d.part p).cmdRing urgent
  if r.capacity 64 < ahead v r.head then d.ignoreDoorbell p
  else d.modPart p (fun x => if urgent then { x with urgTail := v } else { x with cmdTail := v })

/-- Responses wholly inside the first `n` units dropped. -/
def dropUnits : Nat → List Response → List Response
  | _, [] => []
  | n, r :: rs => if r.units ≤ n then dropUnits (n - r.units) rs else r :: rs

/-- The response ring's head doorbell (R338, R344). -/
def Dev.rspHeadDb (d : Dev) (p v : Nat) : Dev :=
  let x := d.part p
  let n := ahead v x.rspHead
  if x.rsp.capacity 32 < n then d.ignoreDoorbell p
  else d.modPart p (fun y => { y with rspHead := v, rspWritten := dropUnits n y.rspWritten })

/-- The notice ring's head doorbell: the entries behind it are acknowledged (R338, R439). -/
def Dev.ntcHeadDb (d : Dev) (p v : Nat) : Dev :=
  let x := d.part p
  let n := ahead v x.ntcHead
  if x.ntc.capacity 64 < n then d.ignoreDoorbell p
  else d.modPart p (fun y => { y with ntcHead := v, ntcEntries := y.ntcEntries.drop n })

/-! ### Ring blocks and the other registers (R336, R337) -/

/-- The sizes a ring may have (R336). -/
def ringSizes : RingSel → Nat × Nat
  | .normal => (22, 30)
  | .urgent => (18, 24)
  | .response => (22, 30)
  | .notice => (12, 22)

/-- A ring block. -/
def Part.ring (x : Part) : RingSel → Ring
  | .normal => x.normal
  | .urgent => x.urgent
  | .response => x.rsp
  | .notice => x.ntc

/-- A ring block replaced. -/
def Part.setRing (x : Part) (s : RingSel) (r : Ring) : Part :=
  match s with
  | .normal => { x with normal := r }
  | .urgent => { x with urgent := r }
  | .response => { x with rsp := r }
  | .notice => { x with ntc := r }

/-- ENABLE written 1: both pointers to 0, unless LOG2 is out of range (R337); the sequence starts at
SEQ0 (R347), the notice ring at SEQ 0 and PHASE 1 (R436).
[notes/assumptions 43 DEDUCED, unsafe] -/
def Part.enableRing (x : Part) (s : RingSel) : Part :=
  let r := x.ring s
  if r.log2 < (ringSizes s).1 || (ringSizes s).2 < r.log2 then x
  else
    let y := x.setRing s { r with enable := true, halted := false, cause := 0, head := 0, tail := 0 }
    match s with
    | .normal => { y with cmdTail := 0, expectSeq := y.expectSeq.set 0 (some r.seq0), headsWritten := y.headsWritten.set 0 0 }
    | .urgent => { y with urgTail := 0, expectSeq := y.expectSeq.set 1 (some r.seq0), headsWritten := y.headsWritten.set 1 0 }
    | .response => { y with rspHead := 0, rspWritten := [] }
    | .notice => { y with ntcHead := 0, ntcEntries := [], ntcSeq := 0, ntcPhase := true }

/-- ENABLE written 0: the ring stops (R337). -/
def Part.disableRing (x : Part) (s : RingSel) : Part := x.setRing s { x.ring s with enable := false }

/-- RELEASE: QUIESCE clears at the next tick boundary (R336). -/
def Dev.release (d : Dev) (p : Nat) : Dev := d.modPart p (fun x => { x with releasePending := true })

/-- Fields of a ring block that can be written only while ENABLE is 0 (R337); SEQ0 of the response and notice rings is
reserved and reads 0 (R10).
[notes/assumptions 39 DEDUCED, unsafe] -/
def Ring.setField (r : Ring) (s : RingSel) (off v : Nat) : Ring :=
  if r.enable then r
  else match off with
    | 0x00 => { r with base := v / 4096 * 4096 % 2 ^ 64 }
    | 0x08 => { r with log2 := v % 32 }
    | 0x0C => if s = .normal ∨ s = .urgent then { r with seq0 := v % 2 ^ 32 } else r
    | _ => r

/-- The ring block an offset of BAR0 lies in. -/
def ringAt (off : Nat) : Option RingSel :=
  if subIn off 0x100 0x40 then some .normal
  else if subIn off 0x140 0x40 then some .urgent
  else if subIn off 0x180 0x40 then some .response
  else if subIn off 0x1C0 0x40 then some .notice
  else none

/-- A double word of an MSI-X table entry written; unmasking a pending vector raises it (R336, R339).
[notes/assumptions 8 PRESUMED, unsafe] -/
def Dev.writeMsix (d : Dev) (p off v : Nat) : Dev :=
  let n := off / 16
  let e := tgetD (d.part p).msix n {}
  let e' := match off % 16 with
    | 0 => { e with addr := e.addr / 2 ^ 32 * 2 ^ 32 + v % 2 ^ 32 / 4 * 4 }
    | 4 => { e with addr := e.addr % 2 ^ 32 + v % 2 ^ 32 * 2 ^ 32 }
    | 8 => { e with data := v % 2 ^ 32 }
    | _ => { e with masked := bit v 0 }
  let d1 := d.modPart p (fun x => { x with msix := tset x.msix n e' })
  if !e'.masked && (d.part p).msixPending.contains n then
    (d1.modPart p (fun x => { x with msixPending := x.msixPending.filter (· != n) })).vector p n
  else d1

/-- Natural width of a register in bits.
[notes/assumptions 40 DEDUCED, unsafe] -/
def registerWidth (off : Nat) : Nat :=
  if off == 0x0020 || off == 0x1000 then 64
  else match ringAt off with
    | some _ => if off % 0x40 == 0 then 64 else 32
    | none => 32

/-- A write of a BAR0 register with no row of its own (R336). A 64-bit write of a register shorter
than its slot carries it in its low bits.
[notes/assumptions 39 DEDUCED, unsafe; 40 DEDUCED, unsafe] -/
def Dev.registerWrite (d : Dev) (p off width v : Nat) : Dev :=
  if !d.reach p || (width != registerWidth off && !(width == 64 && off < 0x100)) then d
  else if off = 0x0010 then (if bit v 0 then d.release p else d)
  else if off = 0x0018 then d.modPart p (fun x => { x with holdoff := min 1000 (v % 1024) })
  else if off = 0x0020 then d.modPart p (fun x => { x with headWb := v / 64 * 64 % 2 ^ 64 })
  else if off = 0x0200 then d.cmdTail p false (v % 2 ^ 32)
  else if off = 0x0208 then d.cmdTail p true (v % 2 ^ 32)
  else if off = 0x0210 then d.rspHeadDb p (v % 2 ^ 32)
  else if off = 0x0218 then d.ntcHeadDb p (v % 2 ^ 32)
  else if subIn off 0x2000 64 && off % 4 == 0 then d.writeMsix p (off - 0x2000) v
  else match ringAt off with
    | none => d
    | some s =>
      if off % 0x40 = 0x10 then
        d.modPart p (fun x => if bit v 0 then x.enableRing s else x.disableRing s)
      else d.modPart p (fun x => x.setRing s ((x.ring s).setField s (off % 0x40) v))

/-- The value BAR0 reads at an offset (R336, R337, R367). -/
def Dev.readBar (d : Dev) (p off : Nat) : Nat :=
  let x := d.part p
  let b (c : Bool) : Nat := if c then 1 else 0
  if off = 0x0000 then p + p / 4 * 16 + p % 4 * 64 + 0x10000
  else if off = 0x0008 then b x.quiesced + 2 * b x.normal.halted + 4 * b x.urgent.halted + 8 * b (d.outboxFull p)
  else if off = 0x0018 then x.holdoff
  else if off = 0x0020 then x.headWb
  else if off = 0x1008 then
    b x.quiesced + 2 * b x.flareOverflow + 16 * x.flareLast + 2 ^ 16 * x.flareTaken + 2 ^ 32 * x.flareIgnored
  else if off = 0x3000 then maskOf 4 (fun v => x.msixPending.contains v)
  else if subIn off 0x2000 64 then
    let e := tgetD x.msix ((off - 0x2000) / 16) {}
    match off % 16 with
    | 0 => e.addr % 2 ^ 32
    | 4 => e.addr / 2 ^ 32
    | 8 => e.data
    | 12 => b e.masked
    | _ => 0
  else match ringAt off with
    | none => 0
    | some s =>
      let r := x.ring s
      match off % 0x40 with
      | 0x00 => r.base
      | 0x08 => r.log2
      | 0x0C => r.seq0
      | 0x10 => b r.enable
      | 0x14 => b r.halted + 16 * r.cause
      | 0x18 => r.head
      | 0x1C => r.tail
      | _ => 0

/-- The RSP_HOLDOFF interval has run out with an advance waiting: vector 0 (R339). -/
def Dev.holdoffExpiry (d : Dev) (p : Nat) : Dev :=
  let x := d.part p
  if !x.heldVector0 then d
  else
    let d1 := d.advance ((x.lastVector0.getD 0) + x.holdoff * 1000)
    (d1.vector p 0).modPart p (fun y => { y with lastVector0 := some d1.now, heldVector0 := false })

/-! ### The meanings -/

/-- PACKET_FETCH.
[notes/assumptions 4 DESIGN CHOICE, safe] -/
def execPacketFetch (p : Fin 16) (urgent : Bool) (data : HostRead) (s : State) : Host.Outcome State Fault Refusal :=
  s.done (s.dev.packetFetch p urgent data).eff

/-- RESPONSE_WRITE.
[notes/assumptions 4 DESIGN CHOICE, safe] -/
def execResponseWrite (p : Fin 16) (s : State) : Host.Outcome State Fault Refusal :=
  s.done (s.dev.responseWrite p)

/-- CMD_TAIL_DB. -/
def execCmdTailDb (p : Fin 16) (value : BitVec 32) (s : State) : Host.Outcome State Fault Refusal :=
  s.done (if s.dev.reach p then s.dev.cmdTail p false value.toNat else s.dev).eff

/-- URG_TAIL_DB. -/
def execUrgTailDb (p : Fin 16) (value : BitVec 32) (s : State) : Host.Outcome State Fault Refusal :=
  s.done (if s.dev.reach p then s.dev.cmdTail p true value.toNat else s.dev).eff

/-- RSP_HEAD_DB. -/
def execRspHeadDb (p : Fin 16) (value : BitVec 32) (s : State) : Host.Outcome State Fault Refusal :=
  s.done (if s.dev.reach p then s.dev.rspHeadDb p value.toNat else s.dev).eff

/-- NTC_HEAD_DB. -/
def execNtcHeadDb (p : Fin 16) (value : BitVec 32) (s : State) : Host.Outcome State Fault Refusal :=
  s.done (if s.dev.reach p then s.dev.ntcHeadDb p value.toNat else s.dev).eff

/-- RING_ENABLE. -/
def execRingEnable (p : Fin 16) (ring : RingSel) (s : State) : Host.Outcome State Fault Refusal :=
  s.done (if s.dev.reach p then s.dev.modPart p (fun x => x.enableRing ring) else s.dev).eff

/-- RING_DISABLE. -/
def execRingDisable (p : Fin 16) (ring : RingSel) (s : State) : Host.Outcome State Fault Refusal :=
  s.done (if s.dev.reach p then s.dev.modPart p (fun x => x.disableRing ring) else s.dev).eff

/-- RELEASE. -/
def execRelease (p : Fin 16) (s : State) : Host.Outcome State Fault Refusal :=
  s.done (if s.dev.reach p then s.dev.release p else s.dev).eff

/-- RSP_HOLDOFF_EXPIRY. -/
def execRspHoldoffExpiry (p : Fin 16) (s : State) : Host.Outcome State Fault Refusal :=
  s.done (s.dev.holdoffExpiry p).eff

end Sys2Proof.Machine
end

