-- ==== Sys2Proof/Machine/Streams.lean ====
section
/-!
DEFINITION. Host commands on recurrent streams (R168 to R199, R360): STREAM_OPEN, STREAM_CHUNK, STREAM_SAVE,
STREAM_RESTORE and STREAM_END; saved-state objects (R188), room and eviction (R191 to R193), and what a tick
boundary and a commit window do for them.
-/

namespace Sys2Proof.Machine

/-! ### Room in stacked memory (R191, R192) -/

/-- Host streams open on a job. -/
def Dev.hostStreams (d : Dev) (j : Nat) : List (Nat × StreamEntry) :=
  d.streams.filter (fun s => s.2.host && s.2.job == j)

/-- Does a host stream's state take stacked memory, or will its next step: not while it is evicted or on its way
out? -/
def StreamEntry.takesRoom (s : StreamEntry) : Bool :=
  decide (s.loc ≠ .evicted) && decide (s.loc ≠ .evicting)

/-- Does a recall of an entry wait for room, without lines yet (R191)? -/
def Dev.recallWaits (d : Dev) (n : Nat) : Bool := d.transfers.any (fun t => decide (t = .recall n []))

/-- Host streams of a job that take stacked memory; a recall that waits for room takes none.
[notes/assumptions 123 DEDUCED, unsafe] -/
def Dev.roomyStreams (d : Dev) (j : Nat) : Nat :=
  ((d.hostStreams j).filter (fun s => s.2.takesRoom && !d.recallWaits s.1)).length

/-- State bytes of a partition: its jobs' demands, and 2 × S_st for each host stream beyond H_res. -/
def Dev.stateUse (d : Dev) (p : Nat) : Nat :=
  sumNat ((d.jobsOf p).map (fun j =>
    j.stateBytes + (d.roomyStreams j.id - j.prog.hdr.hRes) * (2 * streamStateBytes j.prog)))

/-- Is there room for one more host stream of a job (R191)?
[notes/assumptions 123 DEDUCED, unsafe] -/
def Dev.streamFits (d : Dev) (j : Job) : Bool :=
  decide (d.roomyStreams j.id < j.prog.hdr.hRes) ||
    decide (d.stateUse j.part + 2 * streamStateBytes j.prog ≤ d.pforce j.part 0x11 2 * 1048576)

/-- Bytes of a saved-state object of a program. -/
def savedBytes (p : Program) : Nat := 128 + p.hdr.recLayers * stateObjBytes p.hdr.c p.hdr.ns

/-- Stratus bytes that the pending saves of a partition are to take (R186). -/
def Dev.pendingSaves (d : Dev) (p : Nat) : Nat :=
  sumNat ((d.part p).waits.map (fun w =>
    match w.what with
    | .save _ _ => ((d.job? w.pkt.job).map (fun j => alignUp (savedBytes j.prog) 4096)).getD 0
    | _ => 0))

/-- Free Stratus bytes of a partition for evicted and saved state, 0x4P11.03, pending saves counted (R186, R193). -/
def Dev.savedRoom (d : Dev) (p : Nat) : Nat :=
  let moving := sumNat (d.stateObjs.map (fun o =>
    if o.2.part = p ∧ o.2.loc = .evicting then ceilDiv (o.2.lines * 128) 4096 * 4096 else 0))
  d.pforce p 0x11 3 * 1073741824 - (d.stratusBytes p (fun o => o.saved) + d.evictedBytes p + moving + d.pendingSaves p)

/-- Stratus bytes a stream's objects take. -/
def Dev.evictSize (d : Dev) (s : StreamEntry) : Nat :=
  sumNat ((d.directory s).map (fun n => ceilDiv ((d.obj n).lines * 128) 4096 * 4096))

/-- Does an undecided round of its job step the stream? -/
def Dev.stepping (d : Dev) (s : StreamEntry) : Bool :=
  ((d.job? s.job).bind Job.round).any (fun r => !r.decided && r.tokens.any (fun t => t.1 == s.id))

/-- May a host stream be evicted (R192)? -/
def Dev.evictable (d : Dev) (s : StreamEntry) : Bool :=
  s.host && decide (s.loc = .resident) && s.qLen == 0 && !s.ended && !s.savePend &&
    decide (s.lastTick + d.pforce s.part 0x11 5 < d.tick.tick) && !d.stepping s &&
    ((d.job? s.job).map (fun j => !j.batch.guaranteed || d.pforce s.part 0x11 4 == 1)).getD false &&
    d.stratus.state != 2 && decide (d.evictSize s ≤ d.savedRoom s.part)

/-- Candidates of a partition: oldest LAST_TICK, then lowest job, then lowest id (R192). -/
def Dev.evictOrder (d : Dev) (p : Nat) : List Nat :=
  (sortBy (fun (a b : Nat × StreamEntry) => lexLt [a.2.lastTick, a.2.job, a.2.id] [b.2.lastTick, b.2.job, b.2.id])
    (d.streams.filter (fun s => s.2.part == p && d.evictable s.2))).map Prod.fst

/-- A Stratus location for each object of a list. -/
def Eff.takeLocs (e : Eff) (part : Nat) : List Nat → Option (Eff × List (Nat × Nat))
  | [] => some (e, [])
  | n :: ns =>
    match e.dev.takeStratus (ceilDiv ((e.dev.obj n).lines * 128) 4096) part with
    | none => none
    | some (loc, d) => (Eff.takeLocs { e with dev := d } part ns).map (fun r => (r.1, (n, loc) :: r.2))

/-- An eviction starts (R193): LOC EVICTING, the stack staying the home. -/
def Eff.startEvict (e : Eff) (n : Nat) : Eff :=
  match e.dev.stream? n with
  | none => e
  | some s =>
    match e.takeLocs s.part (e.dev.directory s) with
    | none => e
    | some (e1, locs) =>
      e1.mod (fun d =>
        let d1 := locs.foldl (fun acc x => acc.setObj x.1 { acc.obj x.1 with loc := .evicting }) d
        { (d1.setStream n { s with loc := .evicting }) with
          transfers := d1.transfers ++ [.evict n locs d1.tick.tick] })

/-- Evictions of candidates in order until a test holds; none when they cannot free the room (R191, R192). -/
def Eff.evictUntil (e : Eff) (ok : Dev → Bool) : List Nat → Option Eff
  | [] => if ok e.dev then some e else none
  | n :: ns =>
    if ok e.dev then some e
    else if (e.dev.stream? n).any e.dev.evictable then Eff.evictUntil (e.startEvict n) ok ns
    else Eff.evictUntil e ok ns

/-- Room for one more host stream of a job, made by eviction if need be. -/
def Eff.makeRoom (e : Eff) (j : Job) : Option Eff :=
  e.evictUntil (fun d => d.streamFits j) (e.dev.evictOrder j.part)

/-! ### Recall (R193 to R196) -/

/-- Stack lines for each object of a list, in its home stack. -/
def Eff.takeAddrs (e : Eff) (part : Nat) : List Nat → Option (Eff × List (Nat × Nat × Nat))
  | [] => some (e, [])
  | n :: ns =>
    let o := e.dev.obj n
    match e.takeLines o.stack 1 o.lines part with
    | none => none
    | some (la, e1) => (Eff.takeAddrs e1 part ns).map (fun r => (r.1, (n, o.stack, la) :: r.2))

/-- Some state objects get a LOC. -/
def Dev.modStreamObjs (d : Dev) (l : List Nat) (loc : Loc) : Dev :=
  l.foldl (fun acc n => acc.setObj n { acc.obj n with loc := loc }) d

/-- The transfer of a recall of an entry. -/
def recallOf (n : Nat) (t : Transfer) : Bool :=
  match t with
  | .recall m _ => m == n
  | _ => false

/-- A recall starts: LOC RECALLING; it waits without lines while there is no room, which evictions make only at a tick
boundary (R191, R192, R194). -/
def Eff.startRecall (e : Eff) (atBoundary : Bool) (n : Nat) : Eff :=
  match e.dev.stream? n with
  | none => e
  | some s =>
    let mark (x : Eff) : Eff := x.mod (fun d =>
      (d.setStream n { s with loc := .recalling }).modStreamObjs (d.directory s) .recalling)
    let room := match e.dev.job? s.job with
      | some j => if atBoundary then e.makeRoom j else if e.dev.streamFits j then some e else none
      | none => none
    let add (x : Eff) (l : List (Nat × Nat × Nat)) : Eff :=
      x.mod (fun d => { d with transfers := d.transfers.filter (fun t => !recallOf n t) ++ [.recall n l] })
    match room.bind (fun r => r.takeAddrs s.part (r.dev.directory s)) with
    | some (e1, l) => add (mark e1) l
    | none => add (mark e) []

/-- Recalls that wait for room tried again at a boundary. -/
def Eff.retryRecalls (e : Eff) : Eff :=
  e.dev.transfers.foldl (fun acc t =>
    match t with
    | .recall n [] => acc.startRecall true n
    | _ => acc) e

/-! ### Saved-state objects (R188, R189) -/

/-- The 128 B before the layers. -/
def savedHeader (p : Program) (s : StreamEntry) : Bytes :=
  toLe 64 (1 + p.hdr.kind * 2 ^ 16 + p.hdr.recLayers * 2 ^ 32 + s.step * 2 ^ 64 + s.rnCnt * 2 ^ 128 +
    s.rnN * 2 ^ 141 + s.seed * 2 ^ 192 + p.hdr.c * 2 ^ 256 + p.hdr.ns * 2 ^ 272) ++ toLe 64 0

/-- What a saved header gives a stream: STEP, RN_CNT, RN_N and SEED. -/
structure SavedFields where
  step : Nat
  rnCnt : Nat
  rnN : Nat
  seed : Nat

/-- The fields of a saved state that fits a program; none when R189 refuses it. -/
def savedFields (p : Program) (bs : Bytes) : Option SavedFields :=
  let w := leAt bs 0 64
  let f : SavedFields := { step := field w 111 64, rnCnt := field w 140 128, rnN := field w 153 141, seed := field w 255 192 }
  if bs.length < savedBytes p || field w 15 0 != 1 || field w 17 16 != p.hdr.kind || field w 47 32 != p.hdr.recLayers ||
      field w 271 256 != p.hdr.c || field w 280 272 != p.hdr.ns || f.rnN ≤ f.rnCnt || field w 31 18 != 0 ||
      field w 63 48 != 0 || field w 127 112 != 0 || field w 191 154 != 0 || field w 511 281 != 0 ||
      leAt bs 64 64 != 0 then none
  else some f

/-- Lowest directory number no stream and no staged stream uses.
[notes/assumptions 16 DESIGN CHOICE, unsafe] -/
def Dev.freeDirNo (d : Dev) : Nat :=
  let used := d.dirs.map Prod.fst ++ d.dirHomes.map Prod.fst ++
    d.liveJobs.flatMap (fun j => (j.round.map (fun r => r.dirs.map Prod.fst)).getD [])
  ((List.range (used.length + 1)).find? (fun n => !used.contains n)).getD used.length

/-- Lowest free state-object number.
[notes/assumptions 16 DESIGN CHOICE, unsafe; 61 DEDUCED, unsafe] -/
def Dev.freeObjNo (d : Dev) : Nat :=
  ((List.range (d.stateObjs.length + 1)).find? (fun n => (tget d.stateObjs n).isNone)).getD d.stateObjs.length

/-- A state object allocated in a stack with no holder yet, holding some bytes (R178). -/
def Eff.newObj (e : Eff) (part stack : Nat) (bs : Bytes) : Option (Nat × Eff) :=
  let lines := ceilDiv bs.length 128
  match e.takeLines stack 1 lines part with
  | none => none
  | some (la, e1) =>
    let n := e1.dev.freeObjNo
    some (n, (e1.mod (fun d => d.setObj n { loc := .resident, stack := stack, part := part, lines := lines, addr := la })).ops
      [.write (stackAddr stack la) bs])

/-- State objects for each layer from the layers' bytes; none when a stack has no room. -/
def Eff.newObjs (e : Eff) (j : Job) : List (Nat × Bytes) → Option (List Nat × Eff)
  | [] => some ([], e)
  | x :: xs =>
    match e.newObj j.part (j.recHomes.getD x.1 0) x.2 with
    | none => none
    | some (n, e1) => (Eff.newObjs e1 j xs).map (fun r => (n :: r.1, r.2))

/-- The directory block of a stream: the one it has, or new lines in the home stack of recurrent layer 0; none without
room (R175). -/
def Eff.needDir (e : Eff) (j : Job) (dir : Option Nat) : Option (Nat × Eff) :=
  let n := dir.getD e.dev.freeDirNo
  if (tget e.dev.dirHomes n).isSome then some (n, e)
  else
    let k := j.recHomes.getD 0 0
    (e.takeLines k 1 (dirLines j.prog) j.part).map (fun x => (n, x.2.mod (fun d =>
      { d with dirHomes := tset d.dirHomes n { stack := k, la := x.1, lines := dirLines j.prog } })))

/-- Space for the state of a stream: objects that hold the layers' bytes, and its directory block. -/
def Eff.newState (e : Eff) (j : Job) (dir : Option Nat) (layers : List (Nat × Bytes)) : Option (Nat × List Nat × Eff) :=
  match e.newObjs j layers with
  | none => none
  | some (objs, e1) => (e1.needDir j dir).map (fun x => (x.1, objs, x.2))

/-- A stream's directory replaced by new objects, the old ones losing a holder (R189). -/
def Eff.replaceState (e : Eff) (n : Nat) (s : StreamEntry) (f : SavedFields) (dir : Nat) (objs : List Nat) : Eff :=
  let old := e.dev.directory s
  let e1 := objs.foldl (fun acc o => acc.mod (fun d => d.setObj o { d.obj o with ref := 1 })) e
  let e2 := (e1.mod (fun d =>
    { (d.setStream n { s with
        dir := some dir, loc := .resident, reset := false, step := f.step, rnCnt := f.rnCnt, rnN := f.rnN, seed := f.seed }) with
      dirs := tset d.dirs dir objs })).writeDir dir objs
  old.foldl Eff.dropObj e2

/-- The layers' bytes of a saved state. -/
def savedLayers (p : Program) (bs : Bytes) : List (Nat × Bytes) :=
  let sz := stateObjBytes p.hdr.c p.hdr.ns
  (List.range p.hdr.recLayers).map (fun l => (l, slice bs (128 + l * sz) sz))

/-- The bytes of a saved-state object named by a handle, or the code its use ends with. -/
def State.savedImage (s : State) (p h : Nat) (prog : Program) : Except Code Bytes :=
  match s.dev.object? p h with
  | none => .error .rejectedFormat
  | some o =>
    if o.releasing || o.total < savedBytes prog then .error .rejectedFormat
    else s.mem.objectBytes o 0 (savedBytes prog)

/-- Does the object of a handle lie in Stratus, so that it must be read first? -/
def Dev.needsRead (d : Dev) (p h : Nat) : Bool := (d.object? p h).any (fun o => o.stratus && !o.lost)

/-! ### STREAM_OPEN (R180) -/

/-- The handle, seed and N of a STREAM_OPEN payload; none for an illegal one.
[notes/assumptions 123 DEDUCED, unsafe] -/
def openFields (k : Packet) : Option (Nat × Nat × Nat) :=
  let w := leAt k.payload 0 64
  if k.payload.length != 64 || field w 95 77 != 0 || field w 511 128 != 0 || 4096 < field w 76 64 || k.arg1 != 0 ||
      2 ^ 32 ≤ k.arg0 then none
  else some (field w 127 96, field w 63 0, field w 76 64)

/-- Is an id live in a job as a future or a host stream (R179)? -/
def Dev.idLive (d : Dev) (j : Job) (id : Nat) : Bool :=
  j.futures.any (fun f => f.id == id) || (d.hostEntry j.id id).isSome

/-- STREAM_OPEN up to the boundary it waits for.
[notes/assumptions 122 DEDUCED, unsafe] -/
def Dev.streamOpen (d : Dev) (p tag : Nat) : Eff :=
  d.startWith p tag 0x21 (fun k =>
    match d.jobFor p k, openFields k with
    | .error c, _ => d.refuse p k c
    | .ok _, none => d.refuse p k .rejectedFormat
    | .ok j, some f =>
      if j.state ≠ .admitted then d.refuse p k .rejectedFormat
      else (d.wait p k (.opening (f.1 == 0 || !d.needsRead p f.1))).eff)

/-- Lowest tensor slot that no member of a job uses, nor a child staged by its round. -/
def Dev.freeSlot (d : Dev) (j : Job) : Nat :=
  let staged := (j.round.map (fun r => r.futures.map Future.slot)).getD []
  let used := j.futures.map Future.slot ++ staged ++ (d.hostStreams j.id).map (fun s => s.2.slot)
  ((List.range (used.length + 1)).find? (fun n => !used.contains n)).getD used.length

/-- The slices of a slot in the two-buffer tensors of a job: their place in the staged buffers, in the committed ones,
and their length.
[notes/assumptions 91 DEDUCED, unsafe] -/
def Job.slotSlices (j : Job) (slot : Nat) : List (Nat × Nat × Nat) :=
  (j.prog.tensors.zip j.homes).filterMap (fun x =>
    match x.2 with
    | some h => if x.1.perFuture && (x.1.cls == 2 || x.1.cls == 4) && !h.lost then
        some (h.staged true + slot * x.1.sliceStride, h.committed + slot * x.1.sliceStride, x.1.sliceStride)
      else none
    | none => none)

/-- The slices of a slot in the committed buffers zeroed, as a stream that begins anew finds them (R179).
[notes/assumptions 91 DEDUCED, unsafe] -/
def Job.clearSlot (j : Job) (slot : Nat) : List MemOp :=
  (j.slotSlices slot).flatMap (fun x => [.clear x.2.1 x.2.2, .clearPoison x.2.1 x.2.2])

/-- The entry of a new host stream (R180). -/
def newHostStream (p : Nat) (j : Job) (id seed n slot : Nat) : StreamEntry :=
  { host := true, part := p, job := j.id, id := id, rnN := if n = 0 then j.prog.hdr.rnN else n, seed := seed, slot := slot }

/-- A STREAM_OPEN takes effect at a boundary (R180, R191).
[notes/assumptions 122 DEDUCED, unsafe] -/
def State.openNow (s : State) (p : Nat) (w : Wait) : Eff :=
  let d := s.dev
  let k := w.pkt
  match d.liveJob k.job, openFields k with
  | some j, some (h, seed, n) =>
    if d.idLive j k.arg0 then d.refuse p k .rejectedFormat
    else if j.prog.hdr.recLayers = 0 || j.prog.hdr.hMax ≤ (d.hostStreams j.id).length then d.refuse p k .noRoom
    else
      match d.eff.makeRoom j with
      | none => d.refuse p k .noRoom
      | some e =>
        let no := e.dev.freeEntry
        let st := newHostStream p j k.arg0 seed n (e.dev.freeSlot j)
        let e1 := (e.mod (fun x => x.setStream no st)).ops (j.clearSlot st.slot)
        if h = 0 then e1.mod (fun x => x.complete p k .ok)
        else
          match s.savedImage p h j.prog with
          | .error c => d.refuse p k c
          | .ok bs =>
            match savedFields j.prog bs with
            | none => d.refuse p k .rejectedFormat
            | some f =>
              match e1.newState j none (savedLayers j.prog bs) with
              | none => d.refuse p k .noRoom
              | some (dir, objs, e2) => (e2.replaceState no st f dir objs).mod (fun x => x.complete p k .ok)
  | _, _ => d.refuse p k .rejectedFormat

/-! ### STREAM_CHUNK (R181 to R183) -/

/-- Bytes of the outputs of one step: the slices of the job's OUTPUT tensors as a frame (R360). -/
def outputFrameBytes (p : Program) : Nat :=
  p.tensors.foldl (fun acc t => if t.cls = 4 then alignUp acc 128 + t.sliceBytes else acc) 0

/-- Bytes of the outputs of the steps of a chunk, each step's frame on a line of its own (R181, R360). -/
def chunkOutputBytes (p : Program) (n : Nat) : Nat := (n - 1) * alignUp (outputFrameBytes p) 128 + outputFrameBytes p

/-- Is a stream id of a job open for chunks, or about to be by a STREAM_OPEN that waits? -/
def Dev.chunkStream (d : Dev) (p : Nat) (k : Packet) : Option Code :=
  match d.hostEntry k.job k.arg0 with
  | some (_, s) => if s.detach then some .streamDetached else if s.ended then some .rejectedFormat else none
  | none =>
    if (d.part p).waits.any (fun w => w.pkt.opcode == 0x21 && w.pkt.job == k.job && w.pkt.arg0 == k.arg0) then none
    else some .rejectedFormat

/-- The checks of a data chunk on arrival.
[notes/assumptions 122 DEDUCED, unsafe] -/
def Dev.dataChunkCheck (d : Dev) (p : Nat) (k : Packet) : Option (Code × Nat) :=
  match d.jobFor p k with
  | .error c => some (c, 0)
  | .ok j =>
    match d.poisonedBy p k.job k.arg0 with
    | some s => some (.postedWriteFailed, s)
    | none =>
      let n := leAt k.payload 0 4
      let size := 64 + n * j.prog.hdr.inputMax
      if k.arg1 / 16 != 0 || field k.arg1 2 1 != 0 || 2 ^ 32 ≤ k.arg0 || leAt k.payload 4 4 != 0 ||
          leAt k.payload 16 48 != 0 || k.payload.length != alignUp size 64 ||
          decide (2097152 < chunkOutputBytes j.prog n) then some (.rejectedFormat, 0)
      else (d.chunkStream p k).map (fun c => (c, 0))

/-- The checks of a control chunk on arrival.
[notes/assumptions 122 DEDUCED, unsafe] -/
def Dev.controlChunkCheck (d : Dev) (p : Nat) (k : Packet) : Option (Code × Nat) :=
  match d.jobFor p k with
  | .error c => some (c, 0)
  | .ok _ =>
    if k.arg1 / 16 != 0 || bit k.arg1 0 || bit k.arg1 3 || bit k.arg1 1 == bit k.arg1 2 || 2 ^ 32 ≤ k.arg0 ||
        k.payload.length != 64 || leNat k.payload != 0 then some (.rejectedFormat, 0)
    else (d.chunkStream p k).map (fun c => (c, 0))

/-- Does a packet stand for the PAUSE row, the RESUME row or the data row? A control chunk with neither flag
is a malformed PAUSE. -/
def chunkKind (k : Packet) : Nat := if !k.isControl then 0 else if bit k.arg1 2 && !bit k.arg1 1 then 2 else 1

/-- A chunk of one kind judged on arrival.
[notes/assumptions 122 DEDUCED, unsafe] -/
def Dev.chunk (d : Dev) (p tag kind : Nat) (check : Packet → Option (Code × Nat)) : Eff :=
  match d.packet? p tag with
  | some k => if chunkKind k = kind then d.arrive p tag 0x22 check else d.eff
  | none => d.eff

/-- The chunk a data packet stands for. -/
def chunkOf (inputMax : Nat) (k : Packet) : Chunk :=
  let n := leAt k.payload 0 4
  { job := k.job, stream := k.arg0, tag := k.tag, seq := k.seq, posted := k.posted
    tokens := (List.range n).map (fun i => slice k.payload (64 + i * inputMax) inputMax)
    reset := bit k.arg1 0, newSeed := if bit k.arg1 3 then some (leAt k.payload 8 8) else none }

/-! ### STREAM_SAVE (R186, R187) -/

/-- The entry a save names. -/
def Dev.saveEntry (d : Dev) (k : Packet) : Option (Nat × StreamEntry) :=
  if bit k.arg1 0 then d.futureEntry k.job k.arg0 else d.hostEntry k.job k.arg0

/-- STREAM_SAVE, with DETACH or without, up to the commit window it waits for. DETACH ends the queued chunks but those
whose steps the running round takes (R187). -/
def Dev.streamSave (d : Dev) (p tag : Nat) (detach : Bool) : Eff :=
  d.startWith p tag 0x23 (fun k =>
    if bit k.arg1 1 != detach then d.eff
    else match d.jobFor p k with
      | .error c => d.refuse p k c
      | .ok j =>
        if k.arg1 / 4 != 0 || 2 ^ 32 ≤ k.arg0 || !k.payload.isEmpty || (detach && bit k.arg1 0)
        then d.refuse p k .rejectedFormat
        else match d.saveEntry k with
          | none => d.refuse p k .rejectedFormat
          | some (n, s) =>
            if d.savedRoom p < alignUp (savedBytes j.prog) 4096 then d.refuse p k .noRoom
            else if d.stratus.state = 2 then d.refuse p k .tierFailed
            else
              let d1 := (d.setStream n { s with
                savePend := true, detach := s.detach || detach, ended := s.ended || detach }).wait p k (.save n none)
              if !detach then d1.eff
              else
                let mine (job stream : Nat) : Bool := job == k.job && stream == k.arg0
                let stepping (tag : Nat) : Bool := j.round.any (fun r => r.chunks.any (fun c => c.tag == tag && c.used != 0))
                let d2 := (d1.endChunks p (fun c => mine c.job c.stream && !stepping c.tag) .streamDetached).countQueue n
                let later := (d2.part p).inbox.filter (fun q => q.opcode == 0x22 && q.checked && mine q.job q.arg0)
                (later.foldl (fun acc q => acc.complete p q .streamDetached) d2).eff)

/-- The bytes of a saved state as the device holds it now, or the code its copy ends with. -/
def State.captureBytes (s : State) (j : Job) (e : StreamEntry) : Except Code Bytes :=
  let d := s.dev
  let sz := stateObjBytes j.prog.hdr.c j.prog.hdr.ns
  if e.loc = .lost then .error .dataLost
  else
    let objs := (d.directory e).map d.obj
    let away (o : StateObj) : Bool := decide (o.loc = .evicted) || decide (o.loc = .recalling)
    let base (o : StateObj) : Nat := if away o then Space.stratus.addr (o.addr * 4096) else stackAddr o.stack o.addr
    if objs.any (fun o => !away o && s.mem.rangePoisoned (base o) sz) then .error .linePoisoned
    else if objs.isEmpty then .ok (savedHeader j.prog e ++ List.replicate (j.prog.hdr.recLayers * sz) 0)
    else .ok (savedHeader j.prog e ++ objs.flatMap (fun o => s.mem.readBytes (base o) sz))

/-- One waiting save captured at the end of a commit window; what a detached stream has left in its queue then ends, and
an error leaves the stream ended, without DETACH (R186, R187).
[notes/assumptions 124 DEDUCED, unsafe] -/
def State.captureOne (s : State) (p : Nat) (w : Wait) : State :=
  match w.what with
  | .save n none =>
    match s.dev.stream? n with
    | none => s.withDev (s.dev.complete p w.pkt .rejectedFormat)
    | some e =>
      let d0 := s.dev.setStream n { e with savePend := false }
      let d1 := if e.detach && bit w.pkt.arg1 1 then
          (d0.endChunks p (fun c => c.job == e.job && c.stream == e.id) .streamDetached).countQueue n
        else d0
      let failed : Dev := match d1.stream? n with
        | some x => d1.setStream n { x with detach := x.detach && !bit w.pkt.arg1 1 }
        | none => d1
      match s.dev.job? e.job with
      | none => s.withDev (failed.complete p w.pkt .rejectedFormat)
      | some j =>
        match s.captureBytes j e with
        | .error c => s.withDev (failed.complete p w.pkt c)
        | .ok bs => s.withDev (d1.modPart p (fun x => { x with waits := x.waits.map (fun y =>
            if y.pkt.tag = w.pkt.tag then { y with what := .save n (some bs) } else y) }))
  | _ => s

/-- Every waiting save of every partition captured. -/
def State.captureSaves (s : State) : State :=
  s.dev.parts.foldl (fun acc x => x.2.waits.foldl (fun a w => a.captureOne x.1 w) acc) s

/-! ### STREAM_RESTORE (R189) -/

/-- STREAM_RESTORE up to the boundary it waits for. -/
def Dev.streamRestore (d : Dev) (p tag : Nat) : Eff :=
  d.startWith p tag 0x24 (fun k =>
    match d.jobFor p k with
    | .error c => d.refuse p k c
    | .ok _ =>
      if 2 ^ 32 ≤ k.arg1 || 2 ^ 32 ≤ k.arg0 || !k.payload.isEmpty || (d.hostEntry k.job k.arg0).isNone
      then d.refuse p k .rejectedFormat
      else (d.wait p k (.restoring (!d.needsRead p k.arg1))).eff)

/-- A STREAM_RESTORE takes effect at a boundary (R189, R191). -/
def State.restoreNow (s : State) (p : Nat) (w : Wait) : Eff :=
  let d := s.dev
  let k := w.pkt
  match d.liveJob k.job, d.hostEntry k.job k.arg0 with
  | some j, some (n, st) =>
    match s.savedImage p k.arg1 j.prog with
    | .error c => d.refuse p k c
    | .ok bs =>
      match savedFields j.prog bs with
      | none => d.refuse p k .rejectedFormat
      | some f =>
        match (if st.takesRoom && !d.recallWaits n then some d.eff else d.eff.makeRoom j) with
        | none => d.refuse p k .noRoom
        | some e =>
          match e.newState j st.dir (savedLayers j.prog bs) with
          | none => d.refuse p k .noRoom
          | some (dir, objs, e1) =>
            (((e1.stopRecall n).replaceState n st f dir objs).ops (j.clearSlot st.slot)).mod (fun x => x.complete p k .ok)
  | _, _ => d.refuse p k .rejectedFormat

/-! ### STREAM_END (R185) -/

/-- STREAM_END, with IMMEDIATE or without. Without, END is set at the cut of its tick; with it at once, and the
queued chunks end ABORTED. -/
def Dev.streamEnd (d : Dev) (p tag : Nat) (immediate : Bool) : Eff :=
  d.startWith p tag 0x25 (fun k =>
    if bit k.arg1 0 != immediate then d.eff
    else match d.jobFor p k with
      | .error c => d.refuse p k c
      | .ok _ =>
        match d.hostEntry k.job k.arg0 with
        | none => d.refuse p k .rejectedFormat
        | some (n, s) =>
          if k.arg1 / 2 != 0 || 2 ^ 32 ≤ k.arg0 || !k.payload.isEmpty then d.refuse p k .rejectedFormat
          else
            let d1 := d.wait p k (.entry n)
            if !immediate then d1.eff
            else
              let d2 := d1.endChunks p (fun c => c.job == k.job && c.stream == k.arg0) .aborted
              (d2.setStream n { s with ended := true, qLen := 0 }).eff)

/-- May an ended entry be freed: nothing queued, no save of it waiting (R185, R199)?
[notes/assumptions 125 DEDUCED, unsafe] -/
def Dev.freeable (d : Dev) (n : Nat) (s : StreamEntry) : Bool :=
  s.host && s.ended && !s.detach && s.qLen == 0 && !s.savePend &&
    !(d.part s.part).waits.any (fun w =>
      match w.what with
      | .save m _ => m == n
      | _ => false)

/-- A host stream out of the undecided round of its job: its tokens stay in the queue (R184, R196). -/
def Dev.leaveRound (d : Dev) (job id : Nat) : Dev :=
  d.modRound job (fun r =>
    if r.decided then r
    else { r with
      tokens := r.tokens.filter (fun t => t.1 != id), chunks := r.chunks.filter (fun c => c.stream != id)
      resets := r.resets.filter (fun x => x.1 != id) })

/-- One ended entry freed, its STREAM_END completed; a round that still steps the stream goes on without it. -/
def Eff.endEntry (e : Eff) (n : Nat) : Eff :=
  match e.dev.stream? n with
  | none => e
  | some s =>
    if !e.dev.freeable n s then e
    else
      let tags := ((e.dev.part s.part).waits.filter (fun w => decide (w.what = .entry n))).map (fun w => w.pkt.tag)
      (e.mod (fun d => ((tags.foldl (fun acc t => acc.completeTag s.part t .ok) d).leaveRound s.job s.id).modRound s.job (fun r =>
        { r with gone := r.gone ++ [s.slot] }))).freeStream n

/-- Every ended entry that a test selects freed if it can be.
[notes/assumptions 125 DEDUCED, unsafe] -/
def Eff.endEntries (e : Eff) (which : Nat → Bool) : Eff := ((e.dev.streams.map Prod.fst).filter which).foldl Eff.endEntry e

/-- END set for every STREAM_END that waits for its cut.
[notes/assumptions 125 DEDUCED, unsafe] -/
def Dev.setEnds (d : Dev) : Dev :=
  let ns := d.parts.flatMap (fun x => x.2.waits.filterMap (fun w =>
    match w.what with
    | .entry n => some n
    | _ => none))
  { d with streams := d.streams.map (fun s => (s.1, if ns.contains s.1 then { s.2 with ended := true } else s.2)) }

/-! ### At a boundary -/

/-- A waiting STREAM_OPEN or STREAM_RESTORE taken at a boundary. -/
def State.streamNow (s : State) (p : Nat) (w : Wait) : State :=
  match w.what with
  | .opening true => s.apply (s.openNow p w)
  | .restoring true => s.apply (s.restoreNow p w)
  | _ => s

/-- What a boundary does for streams before the round's steps: ended entries go, restores and openings take
effect in the order of arrival, ENDs are set, and recalls that wait for room are tried again (R180, R185, R189,
R191). -/
def State.streamsAtBoundary (s : State) : State :=
  let s1 := s.apply (s.dev.eff.endEntries (fun _ => true))
  let ws := sortBy (fun (a b : Nat × Wait) => decide (a.2.pkt.order < b.2.pkt.order))
    (s1.dev.parts.flatMap (fun x => x.2.waits.map (fun w => (x.1, w))))
  let s2 := ws.foldl (fun acc x => acc.streamNow x.1 x.2) s1
  s2.apply s2.dev.setEnds.eff.retryRecalls

/-! ### The meanings -/

/-- STREAM_OPEN. -/
def execStreamOpen (p : Fin 16) (tag : Nat) (s : State) : Host.Outcome State Fault Refusal :=
  s.done (s.dev.streamOpen p tag)

/-- STREAM_CHUNK with tokens. -/
def execStreamChunk (p : Fin 16) (tag : Nat) (s : State) : Host.Outcome State Fault Refusal :=
  s.done (s.dev.chunk p tag 0 (s.dev.dataChunkCheck p))

/-- STREAM_CHUNK_PAUSE. -/
def execStreamChunkPause (p : Fin 16) (tag : Nat) (s : State) : Host.Outcome State Fault Refusal :=
  s.done (s.dev.chunk p tag 1 (s.dev.controlChunkCheck p))

/-- STREAM_CHUNK_RESUME. -/
def execStreamChunkResume (p : Fin 16) (tag : Nat) (s : State) : Host.Outcome State Fault Refusal :=
  s.done (s.dev.chunk p tag 2 (s.dev.controlChunkCheck p))

/-- STREAM_SAVE. -/
def execStreamSave (p : Fin 16) (tag : Nat) (s : State) : Host.Outcome State Fault Refusal :=
  s.done (s.dev.streamSave p tag false)

/-- STREAM_SAVE_DETACH. -/
def execStreamSaveDetach (p : Fin 16) (tag : Nat) (s : State) : Host.Outcome State Fault Refusal :=
  s.done (s.dev.streamSave p tag true)

/-- STREAM_RESTORE. -/
def execStreamRestore (p : Fin 16) (tag : Nat) (s : State) : Host.Outcome State Fault Refusal :=
  s.done (s.dev.streamRestore p tag)

/-- STREAM_END. -/
def execStreamEnd (p : Fin 16) (tag : Nat) (s : State) : Host.Outcome State Fault Refusal :=
  s.done (s.dev.streamEnd p tag false)

/-- STREAM_END_IMMEDIATE. -/
def execStreamEndImmediate (p : Fin 16) (tag : Nat) (s : State) : Host.Outcome State Fault Refusal :=
  s.done (s.dev.streamEnd p tag true)

end Sys2Proof.Machine
end

