-- ==== Sys2Proof/Machine/StratusEvents.lean ====
section
/-!
DEFINITION. Events of the flash tier (R154, R155, R193 to R196, R258, R275, R318 to R330, R463, R523): placements,
reads and writes that complete, transfers between stacks and Stratus, and the tier's background work.
-/

namespace Sys2Proof.Machine

/-! ### Units read and written -/

/-- One of `n` things, drawn as a free value: the manual leaves it open which.
[notes/assumptions 127 DESIGN CHOICE, safe] -/
def Dev.pick (d : Dev) (n : Nat) : Nat × Dev :=
  let r := d.free
  (r.1 % max n 1, r.2)

/-- Free erased blocks of a die below which garbage collection runs, and those it reaches, in % (R323). -/
def collectMark : Nat := 10

/-- Reads of a block since its last erase at which it is refreshed (R323). -/
def refreshReads : Nat := 50000

/-- The dies of a stripe: parity is over 16 units, one a package, so that a die shares stripes with those of its own place in
the other 15 packages of 16 dies (R314).
[notes/assumptions 202 DEDUCED, unsafe] -/
def stripeMates (n : Nat) : List Nat := ((List.range 16).map (fun k => k * 16 + n % 16)).filter (· != n)

/-- User units of the tier (R314). -/
def userUnits : Nat := 2 ^ 33

/-- Some erase block changed (R323). -/
def Dev.modBlock (d : Dev) (die block : Nat) (f : Block → Block) : Dev :=
  let n := die * 2048 + block
  { d with stratus := { d.stratus with blocks := tset d.stratus.blocks n (f (tgetD d.stratus.blocks n {})) } }

/-- A die changed. -/
def Dev.modDie (d : Dev) (die : Nat) (f : Die → Die) : Dev :=
  { d with stratus := { d.stratus with dies := tset d.stratus.dies die (f (tgetD d.stratus.dies die {})) } }

/-- A die, at its reset value when nothing happened to it. -/
def Dev.die (d : Dev) (n : Nat) : Die := tgetD d.stratus.dies n {}

/-- The life marks of R325: 80 % and 100 % of life used crossed, told to management.
[notes/assumptions 129 DEDUCED, unsafe] -/
def Dev.lifeMarks (d : Dev) : Dev :=
  let life := d.stratus.life
  let mark := if 10000 ≤ life then 2 else if 8000 ≤ life then 1 else 0
  if d.stratus.lifeMark < mark then
    ({ d with stratus := { d.stratus with lifeMark := mark } } : Dev).notify none []
      (.watermark 0xFFFF 0x303002 true life life 0 true)
  else d

/-- Free erased blocks below which SPARE writes wait, and those that end the wait, in % (R324). -/
def spareLow : Nat := 2
def spareBack : Nat := 4

/-- The evictions that waited counted under TIER_LATE for their jobs and streams (R324). -/
def Dev.countSpare (d : Dev) : Dev :=
  d.stratus.spareWaits.foldl (fun acc w =>
    match acc.stream? w.1 with
    | some s => acc.modJob s.job (fun y => y.addStall .tierLate (if s.host then [s.id] else []) (acc.now - w.2))
    | none => acc) { d with stratus := { d.stratus with spareHeld := false, spareWaits := [] } }

/-- SPARE writes held once a die falls below 2 % of free erased blocks, and let go once every die holds 4 % (R324). -/
def Dev.spareMarks (d : Dev) : Dev :=
  if d.stratus.spareHeld then (if spareBack ≤ d.stratus.lowestFree then d.countSpare else d)
  else if d.stratus.lowestFree < spareLow then { d with stratus := { d.stratus with spareHeld := true } } else d

/-- Units programmed into some block of a die, which one and how many of its units are valid then being free values (R315,
R323).
[notes/assumptions 127 DESIGN CHOICE, safe] -/
def Dev.programBlock (d : Dev) (die : Nat) : Dev :=
  let b := d.pick 2048
  let v := b.2.pick 24577
  v.2.modBlock die b.1 (fun x => if x.retired then x else { x with programmed := true, valid := v.1 })

/-- User units written: the count of 0x3030.07; which die and block take them, and how far they use up its erased blocks, are
free values, for the mapping is not visible (R315, R330).
[notes/assumptions 127 DESIGN CHOICE, safe] -/
def Dev.wroteUnits (d : Dev) (n : Nat) : Dev :=
  let a := d.pick 256
  let b := a.2.pick ((a.2.die a.1).freeErased + 1)
  (({ b.2 with stratus := { b.2.stratus with written := min (2 ^ 64 - 1) (b.2.stratus.written + n) } } : Dev).modDie a.1
    (fun x => { x with freeErased := b.1 })).programBlock a.1 |>.lifeMarks.spareMarks

/-- Reads of units: a block counts those that fall on it, which block and how many being free values (R323).
[notes/assumptions 127 DESIGN CHOICE, safe] -/
def Dev.readUnits (d : Dev) : Dev :=
  let a := d.pick 256
  let b := a.2.pick 2048
  let c := b.2.free
  c.2.modBlock a.1 b.1 (fun x => { x with reads := x.reads + 1 + c.1 })

/-- Is some unit of a range known to be uncorrectable (R328)?
[notes/assumptions 127 DESIGN CHOICE, safe] -/
def Dev.badRange (d : Dev) (loc units : Nat) : Bool :=
  d.stratus.badUnits.any (fun u => decide (loc ≤ u) && decide (u < loc + units))

/-- An uncorrectable unit met in a range: which one it is, is a free value; every later read of it ends the same
way (R328). -/
def Dev.markBad (d : Dev) (loc units : Nat) : Dev :=
  if d.badRange loc units then d
  else
    let a := d.pick units
    { a.2 with stratus := { a.2.stratus with badUnits := (loc + a.1) :: a.2.stratus.badUnits } }

/-- A read of a range of units judged: the device after it and whether every unit was delivered.
[notes/assumptions 131 DEDUCED, unsafe] -/
def Dev.readRange (d : Dev) (loc units : Nat) (correctable : Bool) : Dev × Bool :=
  let d1 := d.readUnits
  if correctable && !d1.badRange loc units then (d1, true) else (d1.markBad loc units, false)

/-- 4 KiB units that hold some lines. -/
def lineUnits (lines : Nat) : Nat := ceilDiv (lines * 128) 4096

/-! ### Placement of images (R259, R275, R523) -/

/-- The jobs that bind an image end FENCED_CAPACITY, and the image stays only in Stratus (R275, R328). -/
def Eff.abandonImage (e : Eff) (im : Image) : Eff :=
  let js := (e.dev.liveJobs.filter (fun j => j.imageNo == im.number)).map Job.id
  let e1 := js.foldl (fun acc j => acc.endJob j .fencedCapacity .fencedCapacity) e
  let e2 := im.slices.foldl (fun acc l => l.foldl (fun a s =>
    if s.lost then a else a.freeLines s.stack s.la s.lines) acc) e1
  e2.mod (fun d => d.setImage { im with placed := false, restoring := false, slices := [] })

/-- The first placement of a LOAD_IMAGE END, or nothing; a unit that cannot be read, in its own read or known from an earlier
one, ends the load TIER_FAILED, and the image stays only in Stratus (R326, R328).
[notes/assumptions 203 DEDUCED, unsafe] -/
def Dev.placementDone (d : Dev) (image : Nat) (correctable : Bool) : Eff :=
  match tget d.images image with
  | none => d.eff
  | some im =>
    if !d.placing image then d.eff
    else
      let r := d.readRange im.loc im.units correctable
      let tags := ((d.part im.part).waits.filter (fun w => decide (w.what = .placed image))).map (fun w => w.pkt.tag)
      let e := if r.2 then
          (r.1.setImage { im with placed := true }).eff.ops
            ((im.entries.zip im.slices).flatMap (fun x => x.2.flatMap (im.copyOps x.1)))
        else r.1.eff.abandonImage im
      e.mod (fun x => tags.foldl (fun acc t => acc.completeTag im.part t (if r.2 then .ok else .tierFailed)) x)

/-- One tensor placed again over the stacks that survive, if a part of it is missing (R275). -/
def Eff.replaceWeight (e : Eff) (im : Image) (t : ImageEntry) (old : Option (List WeightSlice)) :
    Option (Eff × List WeightSlice × Bool) :=
  match old with
  | some l =>
    if l.all (fun s => !s.lost) then some (e, l, false)
    else
      let e1 := l.foldl (fun a s => if s.lost then a else a.freeLines s.stack s.la s.lines) e
      let up := e1.dev.usableStacks im.part
      let mask := sumNat ((up.filter (bit t.stackMask)).map (2 ^ ·))
      (e1.placeWeight im.part { t with stackMask := mask }).map (fun r => (r.1, r.2, true))
  | none => (e.placeWeight im.part t).map (fun r => (r.1, r.2, true))

/-- Every tensor of an image with a missing part placed again; the bytes to copy go with it.
[notes/assumptions 130 DEDUCED, unsafe] -/
def Eff.replaceWeights (e : Eff) (im : Image) : List (ImageEntry × Option (List WeightSlice)) →
    Option (Eff × List (List WeightSlice))
  | [] => some (e, [])
  | t :: ts =>
    match e.replaceWeight im t.1 t.2 with
    | none => none
    | some (e1, l, fresh) =>
      let e2 := if fresh then e1.ops (l.flatMap (im.copyOps t.1)) else e1
      (Eff.replaceWeights e2 im ts).map (fun r => (r.1, l :: r.2))

/-- The restore of a lost placement (R275, R523).
[notes/assumptions 130 DEDUCED, unsafe] -/
def Dev.restoreImage (d : Dev) (image : Nat) (correctable : Bool) : Eff :=
  match tget d.images image with
  | none => d.eff
  | some im =>
    if !im.restoring then d.eff
    else
      let r := d.readRange im.loc im.units correctable
      if !r.2 then r.1.eff.abandonImage im
      else match r.1.eff.replaceWeights im (im.entries.zipIdx.map (fun t => (t.1, im.slices[t.2]?))) with
        | none => r.1.eff.abandonImage im
        | some (e, sl) =>
          e.mod (fun x => (x.setImage { im with placed := true, restoring := false, slices := sl }).markReadmit
            (fun j => j.imageNo == image))

/-! ### Repair of a read-only line (R291) -/

/-- Where the bytes of a line of a placed slice come from in Stratus, and how many there are. -/
def Image.lineSource (im : Image) (t : ImageEntry) (s : WeightSlice) (la : Nat) : Nat × Nat :=
  let x := t.tensor
  let p := t.planes s.col0 s.cols
  let o := (la - s.la) * 128
  let src := Space.stratus.addr (im.loc * 4096 + t.offset)
  if o < p.1.2 then (src + p.1.1 + o, min 128 (p.1.2 - o))
  else
    let b := o - alignUp p.1.2 128
    (src + x.scaleBase + p.2.1 + b, min 128 (p.2.2 - b))

/-- The image, entry and slice that hold a stack line. -/
def Dev.sliceAt (d : Dev) (stack la : Nat) : Option (Image × ImageEntry × WeightSlice) :=
  (d.images.flatMap (fun i => (i.2.entries.zip i.2.slices).flatMap (fun x => x.2.filterMap (fun s =>
    if s.stack = stack && s.la ≤ la && la < s.la + s.lines && !s.lost then some (i.2, x.1, s) else none)))).head?

/-- The lines a region repairs now: the first 64 that wait for it.
[notes/assumptions 97 DEDUCED, unsafe] -/
def Dev.repairsOf (d : Dev) (r : Nat) : List (Nat × Nat) := (d.repairs.filter (fun x => x.1 / 2 == r)).take 64

/-- A repair done with the line's bytes as read: the line is written whole; unreadable, it stays poisoned.
[notes/assumptions 97 DEDUCED, unsafe] -/
def Dev.repaired (d : Dev) (stack la : Nat) (correctable : Bool) : Eff :=
  if !(d.repairsOf (stack / 2)).contains (stack, la) then d.eff
  else
    let d1 : Dev := { d with repairs := d.repairs.filter (fun r => decide (r ≠ (stack, la))) }
    match d1.sliceAt stack la with
    | none => d1.eff
    | some (im, t, s) =>
      let src := im.lineSource t s la
      let u := (src.1 - Space.stratus.addr 0) / 4096
      if correctable && !d1.badRange u 1 then
        d1.eff.ops [.clear (stackAddr stack la) 128, .copy src.1 (stackAddr stack la) src.2,
          .clearPoison (stackAddr stack la) 128]
      else (d1.markBad u 1).eff

/-! ### Reads for commands and rounds -/

/-- The read of a FETCH of an object (R321, R328, R358); after a STORE to it, of its old units (R331). -/
def State.objectRead (s : State) (p tag : Nat) (correctable : Bool) : Dev :=
  let d := s.dev
  match d.wait? p tag with
  | none => d
  | some w =>
    let old : Option Bytes := match w.what with
      | .fetchOld bs => some bs
      | _ => none
    if w.what ≠ .fetchStratus && old.isNone then d
    else
      let k := w.pkt
      let x := leAt k.payload 0 64
      let h := field x 95 64
      let off := field x 191 128
      let n := field x 127 96
      match d.object? p h with
      | none => d.complete p k .rejectedFormat
      | some o =>
        if !d.outboxTakes p n then d
        else
          let r := d.readRange (o.base + off / 4096) (ceilDiv (off % 4096 + n) 4096) correctable
          if !r.2 then r.1.complete p k .tierFailed
          else match (old.map Except.ok).getD (s.mem.objectBytes o off n) with
            | .error c => r.1.complete p k c
            | .ok bs => r.1.completeFetch p k (p * 2 ^ 32 + h) (bit x 1) bs

/-- The read of a saved state for an opening or a restore (R180, R189). -/
def Dev.savedRead (d : Dev) (p tag : Nat) (correctable : Bool) : Dev :=
  match d.wait? p tag with
  | none => d
  | some w =>
    let go (h : Nat) (next : WaitFor) : Dev :=
      match d.object? p h with
      | none => d.complete p w.pkt .rejectedFormat
      | some o =>
        let r := d.readRange o.base (ceilDiv o.total 4096) correctable
        if !r.2 then r.1.complete p w.pkt .tierFailed
        else r.1.modPart p (fun x => { x with waits := x.waits.map (fun y =>
          if y.pkt.tag = tag then { y with what := next } else y) })
    match w.what with
    | .opening false => go (field (leAt w.pkt.payload 0 64) 127 96) (.opening true)
    | .restoring false => go w.pkt.arg1 (.restoring true)
    | _ => d

/-- A range of units that some parts of a round read. -/
structure TierRead where
  loc : Nat
  units : Nat
  parts : List (Option PartId)

/-- Units a round reads for one purpose: one of several ranges, which one an uncorrectable error lies in being a free
value, fails the parts that read it, and so does every range with a unit that has failed before; the tier is the IO
die's (R155, R261, R277).
[notes/assumptions 127 DESIGN CHOICE, safe] -/
def Dev.roundRead (d : Dev) (job : Nat) (ranges : Job → Round → List TierRead) (correctable : Bool) : Dev :=
  match (d.liveJob job).bind (fun j => j.round.map (fun r => (j, r))) with
  | none => d
  | some (j, r) =>
    let l := ranges j r
    if r.decided || l.isEmpty then d
    else
      let d1 := d.readUnits
      let d2 := if correctable then d1
        else
          let a := d1.pick l.length
          match l[a.1]? with
          | some x => a.2.markBad x.loc x.units
          | none => a.2
      d2.modRound job (fun y => (l.filter (fun x => d2.badRange x.loc x.units)).foldl (fun acc x =>
        x.parts.foldl (fun b w => b.fail w .tierFailed d.now 6) acc) y)

/-- The spilled pages of an attention layer that a round reads, each with the parts that hold it. -/
def Dev.spilledReads (d : Dev) (layer : Nat) (j : Job) (r : Round) : List TierRead :=
  let of (w : PartId) : List Nat := r.spilledPages d j layer w
  ((r.takers.flatMap of).eraseDups).map (fun n =>
    let f := r.page d n
    { loc := f.loc, units := lineUnits f.lines, parts := (r.takers.filter (fun w => (of w).contains n)).map some })

/-- The units of the rows of an image entry: element plane and scale plane. -/
def Image.rowUnits (im : Image) (x : ImageEntry) (row0 rows : Nat) : List (Nat × Nat) :=
  let t := x.tensor
  let range (a n : Nat) : List (Nat × Nat) :=
    if n = 0 then [] else [(im.loc + (x.offset + a) / 4096, (x.offset + a + n - 1) / 4096 - (x.offset + a) / 4096 + 1)]
  range (row0 * t.rowPitch) (rows * t.rowPitch) ++
    (if fmtHasScale t.fmt then range (t.scaleBase + row0 * t.rowScales) (rows * t.rowScales) else [])

/-- The image entry of a STREAMED weight operand. -/
def streamedEntry (p : Program) (im : Image) (h : Nat) : Option ImageEntry :=
  ((p.tensor? h).filter (fun t => t.cls == 0)).bind (fun t => (im.entries[t.ref]?).filter ImageEntry.streamed)

/-- The weight rows a problem of an operator takes of its SRC_W: those of its columns for a MATMUL, else all (R261). -/
def OpDesc.weightRows (o : OpDesc) (p : Program) (q : IProb) : Nat × Nat :=
  let t := p.tensor? o.srcW
  if o.cls = 0 then (q.offW / max ((t.map Tensor.d0).getD 1) 1, q.n) else (0, (t.map Tensor.rows).getD 0)

/-- The image bytes a round streams now: those that the problems with rows of its running operators need. It is one part
then (R261). -/
def Dev.streamedReads (d : Dev) (j : Job) (r : Round) : List TierRead :=
  match tget d.images j.imageNo with
  | none => []
  | some im =>
    (r.insts.filter (fun x => decide (x.state = .running))).flatMap (fun x =>
      let o := j.prog.op x.op
      let probs := (x.probs j.prog r.phase r.members.length).filter (fun q => q.rows != 0)
      let weight := match streamedEntry j.prog im o.srcW with
        | some t => probs.flatMap (fun q => im.rowUnits t (o.weightRows j.prog q).1 (o.weightRows j.prog q).2)
        | none => []
      let others := if probs.isEmpty then [] else [o.srcA, o.src2, o.vec, o.count].flatMap (fun h =>
        match streamedEntry j.prog im h with
        | some t => im.rowUnits t 0 t.tensor.rows
        | none => [])
      ((weight ++ others).eraseDups).map (fun u => { loc := u.1, units := u.2, parts := [none] }))

/-- Is a BOUNDED read outstanding: a repair, a recall that reads, or a round that streams spilled pages or weights (R319)? -/
def Dev.boundedReads (d : Dev) : Bool :=
  !d.repairs.isEmpty ||
    d.transfers.any (fun t =>
      match t with
      | .recall _ l => !l.isEmpty
      | _ => false) ||
    d.liveJobs.any (fun j => j.round.any (fun r => !r.decided &&
      (!(d.streamedReads j r).isEmpty || (List.range j.prog.att.length).any (fun l => !(d.spilledReads l j r).isEmpty))))

/-- Is a read of another class outstanding: of an object or of a saved state (R319)? -/
def Dev.otherReads (d : Dev) : Bool :=
  d.parts.any (fun p => p.2.waits.any (fun w =>
    match w.what with
    | .fetchStratus | .fetchOld _ | .opening _ | .restoring _ => true
    | _ => false))

/-- Does the restore of a lost placement wait? It takes only what every partition leaves: while other reads are outstanding, what
they leave is a free value (R319).
[notes/assumptions 192 DESIGN CHOICE, safe] -/
def Dev.restoreWaits (d : Dev) : Bool × Dev :=
  if !d.boundedReads && !d.otherReads then (false, d)
  else
    let a := d.pick 2
    (a.1 == 1, a.2)

/-- The read of a restore: it waits for what the partitions take (R319), and its image is placed then (R275). -/
def Dev.restoreRead (d : Dev) (image : Nat) (correctable : Bool) : Eff :=
  let w := d.restoreWaits
  if !(tget d.images image).any Image.restoring then d.eff
  else if w.1 then w.2.eff else w.2.restoreImage image correctable

/-- The pattern set of a region's first queued test is loaded; unreadable, the test does not run (R461, R463). -/
def Dev.patternsRead (d : Dev) (r : Nat) (correctable : Bool) : Dev :=
  match (d.region r).tests with
  | [] => d
  | t :: rest =>
    if t.running || t.loaded then d
    else if correctable then d.readUnits.modRegion r (fun x => { x with tests := { t with loaded := true } :: rest })
    else
      let d1 := d.readUnits.modRegion r (fun x => { x with tests := rest })
      let ws := d1.parts.flatMap (fun x => x.2.waits.filterMap (fun w =>
        match w.what with
        | .test u => if unitInside u t.unit then some (x.1, w.pkt.tag) else none
        | _ => none))
      let d2 := ws.foldl (fun acc w => acc.completeTag w.1 w.2 .tierFailed) d1
      if d2.mgmtTest = 1 && unitInside d2.mgmtTestUnit t.unit then { d2 with mgmtTest := 0 } else d2

/-- STRATUS_READ_COMPLETE, by what was read; an uncorrectable read for an image whose first placement runs ends that.
[notes/assumptions 131 DEDUCED, unsafe] -/
def State.stratusRead (s : State) (x : StratusRead) (correctable : Bool) : Eff :=
  let d := s.dev
  if !d.stratus.mounted then d.eff
  else match x with
    | .fetchObject p tag => (s.objectRead p tag correctable).eff
    | .repair k la =>
      if !(d.repairsOf (k / 2)).contains (k, la) then d.eff
      else if correctable then d.readUnits.eff else d.readUnits.repaired k la false
    | .restore im => if d.placing im && !correctable then d.placementDone im false else d.restoreRead im correctable
    | .kvRecall job layer => (d.roundRead job (d.spilledReads layer) correctable).eff
    | .weightStream job => (d.roundRead job d.streamedReads correctable).eff
    | .restoreState p tag => (d.savedRead p tag correctable).eff
    | .patterns r => (d.patternsRead r correctable).eff

/-! ### The queues of the dies, and writes that wait (R319, R320, R324) -/

/-- The queue of a die as a command finds it. Which dies the outstanding reads lie on is not visible, so how many of each
class are queued there is a free value; 8 at most are issued, BOUNDED ones first, and one that is queued suspends a program
or erase (R320).
[notes/assumptions 192 DESIGN CHOICE, safe] -/
def Dev.settleDie (d : Dev) (n : Nat) : Dev :=
  let b := if d.boundedReads then d.pick 65536 else (0, d)
  let o := if d.otherReads then b.2.pick 65536 else (0, b.2)
  o.2.modDie n (fun x => { x with bounded := b.1, issued := min 8 (b.1 + o.1), suspended := b.1 != 0 })

/-- Does a user write wait for a die that is suspended? Which die it lies on is a free value.
[notes/assumptions 192 DESIGN CHOICE, safe] -/
def Dev.writeSuspended (d : Dev) : Bool × Dev :=
  if !d.boundedReads then (false, d)
  else
    let a := d.pick 256
    let d1 := a.2.settleDie a.1
    ((d1.die a.1).suspended, d1)

/-- Is a write of a partition beyond its grant, SPARE? Without a grant every one is; else the traffic of the other writes
decides it, a free value (R319).
[notes/assumptions 192 DESIGN CHOICE, safe] -/
def Dev.spareWrite (d : Dev) (p : Nat) : Bool × Dev :=
  if d.pforce p 0x13 2 = 0 then (true, d)
  else
    let a := d.pick 2
    (a.1 == 1, a.2)

/-- Does a write of a partition wait: for a suspended die, or, SPARE, for garbage collection (R320, R324)? -/
def Dev.writeWaits (d : Dev) (p : Nat) : Bool × Dev :=
  let a := d.writeSuspended
  if a.1 then a
  else if a.2.stratus.spareHeld then a.2.spareWrite p else (false, a.2)

/-! ### Writes that become durable (R327) -/

/-- An eviction or a save that waits for garbage collection noted, from its first wait on (R324). -/
def Dev.noteSpare (d : Dev) (n : Nat) : Dev :=
  if !d.stratus.spareHeld || d.stratus.spareWaits.any (fun w => w.1 == n) then d
  else { d with stratus := { d.stratus with spareWaits := d.stratus.spareWaits ++ [(n, d.now)] } }

/-- A LOAD_IMAGE DATA packet durable, or failed by a read-only tier.
[notes/assumptions 132 DEDUCED, unsafe] -/
def Dev.imageDurable (d : Dev) (p : Nat) (k : Packet) : Eff :=
  match d.imageOf k.arg1 with
  | none => d.refuse p k .rejectedFormat
  | some im =>
    let off := field k.arg0 63 8
    if d.stratus.state = 2 then ((d.setImage { im with received := min im.received off }).complete p k .tierFailed).eff
    else
      let bs := k.payload.take (im.dataBytes - off)
      ((d.wroteUnits (ceilDiv bs.length 4096)).complete p k .ok).eff.ops [.write (Space.stratus.addr (im.loc * 4096 + off)) bs]

/-- A STORE to Stratus durable: its bytes wait for the commit window that shows them. -/
def Dev.objectDurable (d : Dev) (p : Nat) (k : Packet) : Dev :=
  if d.stratus.state = 2 then
    (d.modPart p (fun x => { x with storeWrites := x.storeWrites.filter (fun w => w.tag != k.tag || w.atHome) })).complete p k
      .tierFailed
  else
    ((d.wroteUnits (ceilDiv k.payload.length 4096)).modPart p (fun x =>
      { x with storeWrites := x.storeWrites.map (fun w =>
          if w.tag = k.tag && !w.atHome then { w with atHome := true } else w) })).complete p k .ok k.handle

/-- A FETCH that reads an object which a STORE is about to change keeps reading the old units (R331). -/
def Dev.keepOld (d : Dev) (m : Mem) (p handle : Nat) (o : Object) : Dev :=
  d.modPart p (fun x => { x with waits := x.waits.map (fun w =>
    let b := leAt w.pkt.payload 0 64
    if decide (w.what = .fetchStratus) && field b 95 64 == handle then
      match m.objectBytes o (field b 191 128) (field b 127 96) with
      | .ok bs => { w with what := .fetchOld bs }
      | .error _ => w
    else w) })

/-- Stored bytes that have reached their home become visible (R357).
[notes/assumptions 79 DEDUCED, unsafe; 116 DEDUCED, unsafe] -/
def Eff.showStores (e : Eff) (m : Mem) : Eff :=
  e.dev.parts.foldl (fun acc x => x.2.storeWrites.foldl (fun a w =>
    if !w.atHome then a
    else match a.dev.object? x.1 w.handle with
      | none => a
      | some o =>
        if o.lost then a
        else if o.stratus then
          let u := ceilDiv w.offset 4096
          (a.mod (fun d => d.keepOld m x.1 w.handle o)).ops [.write (Space.stratus.addr (o.base * 4096 + w.offset)) w.data,
            .cleanUnits ((List.range ((w.offset + w.data.length) / 4096 - u)).map (fun i => o.base + u + i))]
        else a.ops [.write (stackAddr o.stack o.base + w.offset) w.data,
          .clearPoison (stackAddr o.stack o.base + w.offset) w.data.length]) acc) e
    |>.mod (fun d => { d with parts := d.parts.map (fun x =>
      (x.1, { x.2 with storeWrites := x.2.storeWrites.filter (fun w => !w.atHome) })) })

/-- STRATUS_WRITE_DURABLE. -/
def Dev.writeDurable (d : Dev) (p tag : Nat) : Eff :=
  match d.wait? p tag with
  | none => d.eff
  | some w =>
    if w.what ≠ .durable || !d.stratus.mounted then d.eff
    else
      let h := d.writeWaits p
      if h.1 then h.2.eff
      else if w.pkt.opcode = 1 then h.2.imageDurable p w.pkt
      else (h.2.objectDurable p w.pkt).eff

/-- STREAM_SAVE_COMPLETE: the copy's last byte is written; a save of an entry that is being moved waits for the
move, and the write of one for its die and, SPARE, for garbage collection, under TIER_LATE (R186, R187, R199, R319, R320, R324);
a read-only tier ends it TIER_FAILED (R328).
[notes/assumptions 124 DEDUCED, unsafe] -/
def Dev.saveComplete (d : Dev) (p tag : Nat) : Eff :=
  match d.wait? p tag with
  | none => d.eff
  | some w =>
    match w.what with
    | .save n (some bs) =>
      let detach := bit w.pkt.arg1 1
      let kept (x : Dev) : Dev := match x.stream? n with
        | some y => x.setStream n { y with detach := y.detach && !detach }
        | none => x
      let h := d.writeWaits p
      if (d.stream? n).any (fun e => decide (e.loc = .evicting) || decide (e.loc = .recalling)) then d.eff
      else if d.stratus.state = 2 then ((kept d).complete p w.pkt .tierFailed).eff
      else if h.1 then (h.2.noteSpare n).eff
      else match h.2.takeStratus (ceilDiv bs.length 4096) p with
        | none => ((kept h.2).complete p w.pkt .noRoom).eff
        | some (loc, d1) =>
          let r := (d1.wroteUnits (ceilDiv bs.length 4096)).eff.addObject p
            { part := p, stratus := true, stack := 0, base := loc, total := bs.length, saved := true }
          let e := (r.2.ops [.write (Space.stratus.addr (loc * 4096)) bs]).mod (fun x => x.complete p w.pkt .ok r.1)
          if detach then e.freeStream n else e
    | _ => d.eff

/-! ### Transfers between stacks and Stratus (R154, R193, R196, R326) -/

/-- A transfer over. -/
def Dev.dropTransfer (d : Dev) (t : Transfer) : Dev := { d with transfers := d.transfers.filter (fun x => decide (x ≠ t)) }

/-- The Stratus location a page is being spilled to. -/
def Dev.spillLoc (d : Dev) (page : Nat) : Option Nat :=
  d.transfers.findSome? (fun t =>
    match t with
    | .spill n loc => if n = page then some loc else none
    | _ => none)

/-- The stack of the recall buffer of the layer that a page belongs to (R143). -/
def Dev.bufferStack (d : Dev) (page : Nat) : Option Nat :=
  d.liveJobs.findSome? (fun j => (j.kvHomes.zipIdx.find? (fun h => (j.layerPages h.2).contains page)).map
    (fun h => h.1.homeStacks.headD 0))

/-- SPILL_COMPLETE: the page's home switches to Stratus, or stays in the stack when a line failed or the tier is
read-only; a page with no holder left is freed. -/
def Dev.spillDone (d : Dev) (page : Nat) (ok : Bool) : Eff :=
  match d.spillLoc page with
  | none => d.eff
  | some loc =>
    let f := d.frame page
    let n := lineUnits f.lines
    let h := d.writeSuspended
    let d1 := h.2.dropTransfer (.spill page loc)
    if ok && d.stratus.state != 2 && h.1 then h.2.eff else
    let e := if ok && d.stratus.state != 2 then
        (((d1.wroteUnits n).eff.ops
          [.copy (stackAddr f.stack f.loc) (Space.stratus.addr (loc * 4096)) (f.lines * 128)]).freeLines f.stack f.loc
            f.lines).mod (fun x => x.moveFrame page (fun g =>
              { g with state := .spilled, loc := loc, stack := (d.bufferStack page).getD g.stack }))
      else (d1.eff.freeUnits loc n).mod (fun x => x.moveFrame page (fun g => { g with state := .resident }))
    if f.ref = 0 then e.freePage page else e

/-- The eviction of an entry in progress. -/
def Dev.evictOf (d : Dev) (n : Nat) : Option (List (Nat × Nat) × Nat) :=
  d.transfers.findSome? (fun t =>
    match t with
    | .evict m locs k => if m = n then some (locs, k) else none
    | _ => none)

/-- Does the next step of a host stream start from zero state: RESET is set, or a chunk with the flag heads its queue
(R183)? -/
def Dev.resetNext (d : Dev) (s : StreamEntry) : Bool :=
  s.reset ||
    match (d.part s.part).chunks.find? (fun c => c.job == s.job && c.stream == s.id) with
    | some c => c.reset && c.used == 0
    | none => false

/-- RESET set for every host stream whose queue a chunk with the flag heads (R183). -/
def Dev.markResets (d : Dev) : Dev :=
  { d with streams := d.streams.map (fun s =>
      (s.1, if s.2.host && d.resetNext s.2 then { s.2 with reset := true } else s.2)) }

/-- One object at the end of its eviction: in Stratus, or, with no holder left, freed in both places (R193, R194). -/
def Eff.evictedObj (e : Eff) (x : Nat × Nat) : Eff :=
  let o := e.dev.obj x.1
  if o.loc ≠ .evicting then e
  else
    let e1 := ((e.mod (fun y => y.wroteUnits (lineUnits o.lines))).ops
      [.copy (stackAddr o.stack o.addr) (Space.stratus.addr (x.2 * 4096)) (o.lines * 128)]).freeLines o.stack o.addr o.lines
    if o.ref = 0 then (e1.freeUnits x.2 (lineUnits o.lines)).mod (fun y => y.setObj x.1 {})
    else e1.mod (fun y => y.setObj x.1 { o with loc := .evicted, addr := x.2 })

/-- One object whose eviction has stopped: in its stack as before, or, with no holder left, freed. -/
def Eff.keptObj (e : Eff) (x : Nat × Nat) : Eff :=
  let o := e.dev.obj x.1
  if o.loc ≠ .evicting then e
  else
    let e1 := e.freeUnits x.2 (lineUnits o.lines)
    if o.ref = 0 then (e1.freeLines o.stack o.addr o.lines).mod (fun y => y.setObj x.1 {})
    else e1.mod (fun y => y.setObj x.1 { o with loc := .resident })

/-- The LOC of an entry that is being evicted changed. -/
def Dev.endEvict (d : Dev) (n : Nat) (loc : Loc) : Dev :=
  match d.stream? n with
  | some s => if s.loc = .evicting then d.setStream n { s with loc := loc } else d
  | none => d

/-- An eviction that a failed line or a read-only tier stops: the state stays in its stack (R326, R328). -/
def Eff.stopEvict (e : Eff) (n : Nat) (locs : List (Nat × Nat)) (k : Nat) : Eff :=
  (locs.foldl Eff.keptObj (e.mod (fun d => d.dropTransfer (.evict n locs k)))).mod (fun d => d.endEvict n .resident)

/-- Does a data chunk wait for a stream, in its queue or, arrived since the cut, in the inbox (R194, R196)? -/
def Dev.chunkWaits (d : Dev) (s : StreamEntry) : Bool :=
  s.qLen != 0 || (d.part s.part).inbox.any (fun k => k.opcode == 0x22 && !k.isControl && !k.started && k.job == s.job &&
    k.arg0 == s.id && (k.checked || (d.dataChunkCheck s.part k).isNone))

/-- EVICTION_COMPLETE (R193, R194): LOC EVICTED, and recall at once when a chunk waits; an entry that has been freed, reset
or restored meanwhile has its old objects freed then. -/
def Dev.evictDone (d : Dev) (n : Nat) (ok : Bool) : Eff :=
  match d.evictOf n with
  | none => d.eff
  | some (locs, k) =>
    let h := d.writeWaits (((d.stream? n).map StreamEntry.part).getD 0)
    if !ok || d.stratus.state == 2 then d.eff.stopEvict n locs k
    else if h.1 then (h.2.noteSpare n).eff
    else
      let d := h.2
      let e := (locs.foldl Eff.evictedObj (d.dropTransfer (.evict n locs k)).eff).mod (fun y => y.endEvict n .evicted)
      if (e.dev.stream? n).any (fun s => decide (s.loc = .evicted) && d.chunkWaits s) then e.startRecall false n else e

/-- The stack lines a recall of an entry fills. -/
def Dev.recallTo (d : Dev) (n : Nat) : Option (List (Nat × Nat × Nat)) :=
  d.transfers.findSome? (fun t =>
    match t with
    | .recall m l => if m = n && !l.isEmpty then some l else none
    | _ => none)

/-- The oldest queued chunk of a stream ended with a code. -/
def Dev.endHeadChunk (d : Dev) (n : Nat) (c : Code) : Dev :=
  match d.stream? n with
  | none => d
  | some s =>
    match (d.part s.part).chunks.find? (fun k => k.job == s.job && k.stream == s.id) with
    | none => d
    | some k =>
      (d.endChunks s.part (fun x => x.tag == k.tag && x.job == k.job) c).setStream n { s with qLen := s.qLen - 1 }

/-- The lines of an object that a unit with POISON set gives back, poisoned (R318). -/
def Mem.poisonBack (m : Mem) (o : StateObj) (stack la : Nat) : List MemOp :=
  ((List.range o.lines).filter (fun i => m.poisonUnits.contains (o.addr + i / 32))).map (fun i => .poison (stackLine stack la + i))

/-- RECALL_COMPLETE (R193, R196): LOC RESIDENT and the Stratus location freed, or, for an uncorrectable unit, LOC
EVICTED and the waiting chunk ends TIER_FAILED, a round that waits for the stream going on without it; one that resets the stream
does not wait for it.
[notes/assumptions 84 DEDUCED, unsafe] -/
def Dev.recallDone (d : Dev) (m : Mem) (n : Nat) (correctable : Bool) : Eff :=
  match d.recallTo n, d.stream? n with
  | some l, some s =>
    let bad := l.any (fun x => d.badRange (d.obj x.1).addr (lineUnits (d.obj x.1).lines))
    if !correctable || bad then
      let d1 := match l.head? with
        | some x => if bad then d else d.markBad (d.obj x.1).addr (lineUnits (d.obj x.1).lines)
        | none => d
      (d1.eff.stopRecall n).mod (fun x =>
        let y := x.setStream n { s with loc := .evicted }
        if d.resetNext s then y else (y.endHeadChunk n .tierFailed).leaveRound s.job s.id)
    else
      let d1 := d.readUnits.dropTransfer (.recall n l)
      let e := l.foldl (fun acc x =>
        let o := acc.dev.obj x.1
        ((acc.ops (.copy (Space.stratus.addr (o.addr * 4096)) (stackAddr x.2.1 x.2.2) (o.lines * 128) ::
          m.poisonBack o x.2.1 x.2.2)).freeUnits o.addr
          (lineUnits o.lines)).mod
            (fun y => y.setObj x.1 { o with loc := .resident, stack := x.2.1, addr := x.2.2 })) d1.eff
      e.mod (fun y => y.setStream n { s with loc := .resident })
  | _, _ => d.eff

/-! ### Background work (R323, R324, R328, R329) -/

/-- Is a die at work? -/
def Dev.dieUp (d : Dev) (n : Nat) : Bool := !(d.die n).fenced

/-- A program or erase on a die: it makes no progress while a BOUNDED read is queued there (R320). -/
def Dev.unlessSuspended (d : Dev) (n : Nat) (f : Dev → Dev) : Dev :=
  let d1 := d.settleDie n
  if (d1.die n).suspended then d1 else f d1

/-- A block erased: its reads start again.
[notes/assumptions 133 DESIGN CHOICE, unsafe] -/
def Block.erased (b : Block) : Block := { b with erases := b.erases + 1, reads := 0, programmed := false, valid := 0 }

/-- The blocks of a die still in use. -/
def Dev.usedBlocks (d : Dev) (n : Nat) : List Nat :=
  (List.range 2048).filter (fun b => !(tgetD d.stratus.blocks (n * 2048 + b) {}).retired)

/-- An erase block, at its reset value when nothing happened to it. -/
def Dev.block (d : Dev) (n b : Nat) : Block := tgetD d.stratus.blocks (n * 2048 + b) {}

/-- The valid units of a block moved into another, which one being a free value; the block is erased (R323).
[notes/assumptions 127 DESIGN CHOICE, safe; 128 DEDUCED, unsafe] -/
def Dev.moveBlock (d : Dev) (n b : Nat) : Dev :=
  let v := (d.block n b).valid
  let d1 := d.modBlock n b Block.erased
  if v = 0 then d1
  else
    let a := d1.pick 2048
    a.2.modBlock n a.1 (fun x => if x.retired then x else { x with programmed := true, valid := x.valid + v })

/-- GARBAGE_COLLECTION on a die below its mark: the programmed block with the fewest valid units, one the model does not know of
being a free value, is emptied and erased; how many blocks are free then is a free value; the mark is reached.
[notes/assumptions 127 DESIGN CHOICE, safe; 128 DEDUCED, unsafe] -/
def Dev.collect (d : Dev) (n : Nat) : Dev :=
  if !d.dieUp n || collectMark ≤ (d.die n).freeErased then d
  else d.unlessSuspended n fun d =>
    let a := match argMin (fun b => (d.block n b).valid) ((d.usedBlocks n).filter (fun b => (d.block n b).programmed)) with
      | some b => (b, d)
      | none => d.pick 2048
    let b := (a.2.moveBlock n a.1).pick (101 - collectMark)
    (b.2.modDie n (fun x => { x with freeErased := collectMark + b.1 })).lifeMarks.spareMarks

/-- READ_DISTURB_REFRESH and RETENTION_REFRESH: a block's valid units move and it is erased.
[notes/assumptions 128 DEDUCED, unsafe; 133 DESIGN CHOICE, unsafe] -/
def Dev.refreshBlock (d : Dev) (n b : Nat) : Dev :=
  if !d.dieUp n || (d.block n b).retired then d
  else d.unlessSuspended n fun d => (d.moveBlock n b).lifeMarks

/-- READ_DISTURB_REFRESH: the block has reached 50,000 reads since its last erase. -/
def Dev.readDisturb (d : Dev) (n b : Nat) : Dev := if (d.block n b).reads < refreshReads then d else d.refreshBlock n b

/-- Erase count of a block. -/
def Dev.blockErases (d : Dev) (n b : Nat) : Nat := (tgetD d.stratus.blocks (n * 2048 + b) {}).erases

/-- STATIC_WEAR_LEVELLING: with counts more than 200 apart, the data of the least-worn block moves into the most-worn free one,
and it is erased.
[notes/assumptions 128 DEDUCED, unsafe] -/
def Dev.levelWear (d : Dev) (n : Nat) : Dev :=
  let mine := d.usedBlocks n
  match argMin (d.blockErases n) mine, argMax (d.blockErases n) mine with
  | some lo, some hi =>
    if d.dieUp n && d.blockErases n lo + 200 < d.blockErases n hi
    then d.unlessSuspended n fun d =>
      let v := (d.block n lo).valid
      let d1 := match argMax (d.blockErases n) (mine.filter (fun b => !(d.block n b).programmed && b != lo)) with
        | some w => d.modBlock n w (fun x => { x with programmed := true, valid := v })
        | none => d
      (d1.modBlock n lo Block.erased).lifeMarks
    else d
  | _, _ => d

/-- BAD_BLOCK_RETIREMENT, after a program or erase that failed or a rebuilt unit: the block's valid units move, what it failed to
program is programmed elsewhere from its source, and the block is used no more; no request ends for it (R323, R327).
[notes/assumptions 127 DESIGN CHOICE, safe] -/
def Dev.retireBlock (d : Dev) (n b : Nat) : Dev :=
  if !d.dieUp n || (d.block n b).retired then d
  else d.unlessSuspended n fun d =>
    let v := (d.block n b).valid
    let d0 := d.modBlock n b (fun x => { x with retired := true, programmed := false, valid := 0 })
    let a := d0.pick 2048
    let d1 := a.2.modBlock n a.1 (fun x => if x.retired || v = 0 then x else { x with programmed := true, valid := x.valid + v })
    { d1 with stratus := { d1.stratus with retired := d1.stratus.retired + 1 } }

/-- Spills and evictions stop when the tier becomes read-only: the data keep their homes in the stacks (R328,
R331). -/
def Eff.stopSpills (e : Eff) : Eff :=
  e.dev.transfers.foldl (fun acc t =>
    match t with
    | .spill page loc =>
      let f := acc.dev.frame page
      let a := ((acc.mod (fun d => d.dropTransfer t)).freeUnits loc (lineUnits f.lines)).mod
        (fun d => d.moveFrame page (fun g => { g with state := .resident }))
      if f.ref = 0 then a.freePage page else a
    | .evict n locs k => acc.stopEvict n locs k
    | .recall _ _ => acc) e

/-- Two units of one stripe that cannot be read before a rebuild has completed: both are uncorrectable; which user units they are
is a free value, for the mapping is not visible (R315, R328).
[notes/assumptions 127 DESIGN CHOICE, safe] -/
def Dev.loseStripe (d : Dev) : Dev :=
  let a := d.pick userUnits
  let b := a.2.pick userUnits
  { b.2 with stratus := { b.2.stratus with badUnits := a.1 :: b.1 :: b.2.stratus.badUnits } }

/-- DIE_FAILURE: the die is fenced and its contents are rebuilt; a second one of a stripe loses units; the ninth makes the tier
read-only (R328).
[notes/assumptions 129 DEDUCED, unsafe] -/
def Dev.dieFails (d : Dev) (n : Nat) : Eff :=
  if !d.dieUp n then d.eff
  else
    let d0 := if (stripeMates n).any (fun k => (d.die k).rebuilding) then d.loseStripe else d
    let d1 := (d0.modDie n (fun x => { x with fenced := true, rebuilding := true })).capacityEvent 6 7 n
    (if d1.stratus.state = 2 then d1.eff.stopSpills else d1.eff).mod Dev.spareMarks

/-- DIE_REBUILD_COMPLETE. -/
def Dev.dieRebuilt (d : Dev) (n : Nat) : Dev :=
  if (d.die n).rebuilding then d.modDie n (fun x => { x with rebuilding := false }) else d

/-- STRATUS_CHECKPOINT: every 10 s (R329). -/
def Dev.checkpoint (d : Dev) : Dev :=
  if !d.stratus.mounted then d
  else
    let d1 := d.advance ((d.stratus.checkpoint.map (· + 10000000000)).getD d.now)
    { d1 with stratus := { d1.stratus with checkpoint := some d1.now } }

/-! ### The meanings -/

/-- PLACEMENT_COMPLETE (R275, R328). -/
def execPlacementComplete (image : Nat) (s : State) : Host.Outcome State Fault Refusal :=
  s.done (s.dev.placementDone image true)

/-- STREAM_SAVE_COMPLETE. -/
def execStreamSaveComplete (p : Fin 16) (tag : Nat) (s : State) : Host.Outcome State Fault Refusal :=
  s.done (s.dev.saveComplete p tag)

/-- STRATUS_WRITE_DURABLE. -/
def execStratusWriteDurable (p : Fin 16) (tag : Nat) (s : State) : Host.Outcome State Fault Refusal :=
  s.done (s.dev.writeDurable p tag)

/-- SPILL_COMPLETE: a line that fails the checks of R289 stops the transfer (R326). -/
def execSpillComplete (page : Nat) (ok : Bool) (s : State) (met : List LineError := []) : Host.Outcome State Fault Refusal :=
  let s1 := s.meet met
  let f := s1.dev.frame page
  s1.done (s1.dev.spillDone page (ok && !s1.mem.rangePoisoned (stackAddr f.stack f.loc) (f.lines * 128)))

/-- EVICTION_COMPLETE: a line that fails the checks of R289 stops the transfer (R326). -/
def execEvictionComplete (entry : Nat) (ok : Bool) (s : State) (met : List LineError := []) : Host.Outcome State Fault Refusal :=
  let s1 := s.meet met
  let objs := (((s1.dev.evictOf entry).map (fun x => x.1.map Prod.fst)).getD []).map s1.dev.obj
  s1.done (s1.dev.evictDone entry (ok && !objs.any (fun o => s1.mem.rangePoisoned (stackAddr o.stack o.addr) (o.lines * 128))))

/-- RECALL_COMPLETE. -/
def execRecallComplete (entry : Nat) (correctable : Bool) (s : State) : Host.Outcome State Fault Refusal :=
  s.done (s.dev.recallDone s.mem entry correctable)

/-- GARBAGE_COLLECTION. -/
def execGarbageCollection (die : Fin 256) (s : State) : Host.Outcome State Fault Refusal := s.done (s.dev.collect die).eff

/-- READ_DISTURB_REFRESH. -/
def execReadDisturbRefresh (die : Fin 256) (block : Fin 2048) (s : State) : Host.Outcome State Fault Refusal :=
  s.done (s.dev.readDisturb die block).eff

/-- RETENTION_REFRESH: the trigger rests on the block's first-sense errors. -/
def execRetentionRefresh (die : Fin 256) (block : Fin 2048) (s : State) : Host.Outcome State Fault Refusal :=
  s.done (s.dev.refreshBlock die block).eff

/-- STATIC_WEAR_LEVELLING. -/
def execStaticWearLevelling (die : Fin 256) (s : State) : Host.Outcome State Fault Refusal :=
  s.done (s.dev.levelWear die).eff

/-- BAD_BLOCK_RETIREMENT. -/
def execBadBlockRetirement (die : Fin 256) (block : Fin 2048) (s : State) : Host.Outcome State Fault Refusal :=
  s.done (s.dev.retireBlock die block).eff

/-- DIE_FAILURE. -/
def execDieFailure (die : Fin 256) (s : State) : Host.Outcome State Fault Refusal := s.done (s.dev.dieFails die)

/-- DIE_REBUILD_COMPLETE. -/
def execDieRebuildComplete (die : Fin 256) (s : State) : Host.Outcome State Fault Refusal := s.done (s.dev.dieRebuilt die).eff

/-- STRATUS_CHECKPOINT. -/
def execStratusCheckpoint (s : State) : Host.Outcome State Fault Refusal := s.done s.dev.checkpoint.eff

end Sys2Proof.Machine
end

