-- ==== Sys2Proof/Machine/Access.lean ====
section
/-!
DEFINITION. How the work of a round reaches memory: what an operator sees, which poisoned lines it meets (R289 to
R291, R313), where its bytes go, and the write-combining buffers (R304 to R307).
-/

namespace Sys2Proof.Machine

/-! ### What a round sees -/

/-- Bytes of a job in write-combining entries. -/
def Dev.combined (d : Dev) (job : Nat) : List Host.Cell :=
  d.regions.flatMap (fun r => r.2.wcb.flatMap (fun w => if w.jobs.contains job then w.cells else []))

/-- Staged bytes of a round, those still in write-combining entries first. -/
def Dev.staged (d : Dev) (job : Nat) (r : Round) : List Host.Cell := d.combined job ++ r.stage

/-- Page entries with a round's changes over them. -/
def Dev.framesOf (d : Dev) (r : Round) : List (Nat × PageFrame) :=
  r.pageFrames.foldl (fun acc f => tset acc f.1 f.2) d.pageFrames

/-- State objects of a member by layer, as a round sees them. -/
def Dev.memberStates (d : Dev) (j : Job) (r : Round) (m : Member) : List (Option StateObj) :=
  match r.stream? d j.id m.who with
  | some s => (r.directory d s).map (fun n => some (d.obj n))
  | none => []

/-- An image that holds nothing. -/
def noImage : Image :=
  { number := 0, generation := 0, part := 0, nTens := 0, dataBytes := 0, entries := [], received := 0, loc := 0,
    units := 0, placed := false, slices := [] }

/-- What the operators of a round's present step see. -/
def State.view (s : State) (j : Job) (r : Round) : View :=
  { mem := s.mem, stage := s.dev.staged j.id r, prog := j.prog, homes := j.homes
    image := (tget s.dev.images j.imageNo).getD noImage
    members := r.members, phase := r.phase, kv := r.futures.map (fun f => (f.id, f.kv)), frames := s.dev.framesOf r
    bad := s.dev.stratus.badUnits, states := r.members.zipIdx.map (fun m => (m.2, s.dev.memberStates j r m.1)), resets := r.fresh }

/-! ### Reads through the region caches (R127, R300, R301, R305) -/

/-- An address range a unit reads with its tensor's hint. -/
structure Reach where
  addr : Nat
  bytes : Nat
  hint : Nat := 0
  act : Bool := false
  deriving DecidableEq, Repr

/-- Hint an access to a tensor follows: that of its descriptor, STREAM for one that a Cirrus operator touches (R127, R301). -/
def Tensor.accessHint (t : Tensor) : Nat := if t.cirrus then 1 else t.hint

/-- Is a tensor per future? -/
def View.isPerFuture (v : View) (h : Nat) : Bool := ((v.prog.tensor? h).map Tensor.perFuture).getD false

/-- The range of a buffer a member's read goes to: the one this round writes, where it has written, else the committed one. -/
def View.reachAt (v : View) (t : Tensor) (w c n : Nat) : Reach :=
  { addr := if t.cls = 1 || (List.range n).any (fun i => (stagedByte v.stage (w + i)).isSome) then w else c
    bytes := n, hint := t.accessHint, act := t.cls == 1 }

/-- Ranges of the rows of a tensor's slice for a member, element plane and scale plane. -/
def View.reachSlice (v : View) (h mem row0 rows : Nat) : List Reach :=
  match v.prog.tensor? h, (v.homes[h]?).join with
  | some t, some hm =>
    if t.cls = 0 || t.cls = 3 then []
    else
      let off := if t.perFuture then (v.member mem).slot * t.sliceStride else 0
      let w := hm.staged (hasTwoBuffers t.cls) + off
      let c := hm.committed + off
      let sc := t.scaleBase + row0 * t.rowScales
      v.reachAt t (w + row0 * t.rowPitch) (c + row0 * t.rowPitch) (rows * t.rowPitch) ::
        (if fmtHasScale t.fmt then [v.reachAt t (w + sc) (c + sc) (rows * t.rowScales)] else [])
  | _, _ => []

/-- Ranges of the rows `row0` on of a problem's operand. -/
def View.reachRows (v : View) (h : Nat) (q : IProb) (row0 rows : Nat) : List Reach :=
  if h = 0xFFFF then []
  else if v.isPerFuture h then
    (List.range rows).flatMap (fun i => v.reachSlice h (q.memberOf (row0 + i)) (q.rowOf true (row0 + i)) 1)
  else v.reachSlice h 0 (q.offA / max (((v.prog.tensor? h).map Tensor.d0).getD 1) 1 + row0) rows

/-- Ranges of a whole operand for the members of a problem. -/
def View.reachAll (v : View) (h : Nat) (q : IProb) : List Reach :=
  if h = 0xFFFF then []
  else
    let rows := ((v.prog.tensor? h).map Tensor.rows).getD 0
    if v.isPerFuture h then
      (if q.member.isSome then [q.member.getD 0] else List.range v.members.length).flatMap (fun m => v.reachSlice h m 0 rows)
    else v.reachSlice h 0 0 rows

/-- The part of a placed plane that an interval of the tensor's plane covers, as an address range. -/
def planeReach (base lo n at' len hint : Nat) : List Reach :=
  let a := max lo at'
  let b := min (lo + n) (at' + len)
  if b ≤ a then [] else [{ addr := base + (a - at'), bytes := b - a, hint := hint }]

/-- Ranges of the rows of a placed weight tensor; a streamed one has no stack lines of its own. -/
def View.reachWeight (v : View) (h row0 rows : Nat) : List Reach :=
  match v.prog.tensor? h with
  | none => []
  | some t =>
    if t.cls != 0 then v.reachSlice h 0 row0 rows
    else match v.image.entries[t.ref]? with
      | none => []
      | some x =>
        let y := x.tensor
        (v.image.slices.getD t.ref []).flatMap (fun s =>
          let p := x.planes s.col0 s.cols
          let base := stackAddr s.stack s.la
          planeReach base (row0 * y.rowPitch) (rows * y.rowPitch) p.1.1 p.1.2 t.accessHint ++
            planeReach (base + alignUp p.1.2 128) (row0 * y.rowScales) (if fmtHasScale y.fmt then rows * y.rowScales else 0)
              p.2.1 p.2.2 t.accessHint)

/-! ### Poisoned lines an item reads (R289 to R291) -/

/-- Poisoned lines of an address range. -/
def Mem.poisonedIn (m : Mem) (a n : Nat) : List Nat :=
  if n = 0 then []
  else m.poisoned.filter (fun l => decide (a / 128 ≤ l) && decide (l ≤ (a + n - 1) / 128))

/-- The addresses of a line that lie in a range. -/
def lineIn (line a n : Nat) : List Nat :=
  (List.range 128).filterMap (fun i => if a ≤ line * 128 + i && line * 128 + i < a + n then some (line * 128 + i) else none)

/-- Poisoned lines met by a read of `n` bytes of a tensor: those of the written buffer where the round wrote, and
of the committed one where it did not. -/
def View.poisonedBytes (v : View) (act : Bool) (w c n : Nat) : List Nat :=
  ((v.mem.poisonedIn w n).filter (fun l => (lineIn l w n).any (fun a => (stagedByte v.stage a).isSome))) ++
    (if act then [] else
      (v.mem.poisonedIn c n).filter (fun l => (lineIn l c n).any (fun a => (stagedByte v.stage (a - c + w)).isNone)))

/-- Poisoned lines met by a read of the rows of a tensor's slice for a member, `row0` on.
[notes/assumptions 96 DEDUCED, unsafe] -/
def View.poisonedRows (v : View) (h mem row0 rows : Nat) : List Nat :=
  match v.prog.tensor? h, (v.homes[h]?).join with
  | some t, some hm =>
    if t.cls = 0 || t.cls = 3 then []
    else
      let off := if t.perFuture then (v.member mem).slot * t.sliceStride else 0
      let w := hm.staged (hasTwoBuffers t.cls) + off
      let c := hm.committed + off
      let act := t.cls == 1
      v.poisonedBytes act (w + row0 * t.rowPitch) (c + row0 * t.rowPitch) (rows * t.rowPitch) ++
        (if fmtHasScale t.fmt then
          v.poisonedBytes act (w + t.scaleBase + row0 * t.rowScales) (c + t.scaleBase + row0 * t.rowScales) (rows * t.rowScales)
         else [])
  | _, _ => []

/-- Poisoned lines met by a read of a whole tensor for a member. -/
def View.poisonedAll (v : View) (h mem : Nat) : List Nat :=
  v.poisonedRows h mem 0 (((v.prog.tensor? h).map Tensor.rows).getD 0)

/-- First lines of the units of a streamed tensor's rows that could not be read (R261). -/
def View.streamedBad (v : View) (x : ImageEntry) (row0 rows : Nat) : List Nat :=
  let l := v.image.rowUnits x row0 rows
  (v.bad.filter (fun u => l.any (fun r => decide (r.1 ≤ u) && decide (u < r.1 + r.2)))).map (fun u =>
    Space.stratus.firstLine + u * 32)

/-- Poisoned lines among the rows of a weight tensor. -/
def View.poisonedWeight (v : View) (h row0 rows : Nat) : List Nat :=
  match v.prog.tensor? h with
  | some t => if t.cls != 0 then v.poisonedRows h 0 row0 rows
    else match streamedEntry v.prog v.image h with
      | some x => v.streamedBad x row0 rows
      | none => (v.reachWeight h row0 rows).flatMap (fun r => v.mem.poisonedIn r.addr r.bytes)
  | none => []

/-- Poisoned lines met by a read of the rows of an operand of any class for a member. -/
def View.poisonedOperand (v : View) (h mem row0 rows : Nat) : List Nat :=
  if (v.prog.tensor? h).any (fun t => t.cls == 0) then v.poisonedWeight h row0 rows else v.poisonedRows h mem row0 rows

/-- Poisoned lines met by a read of a whole operand for a member. -/
def View.poisonedWhole (v : View) (h mem : Nat) : List Nat :=
  v.poisonedOperand h mem 0 (((v.prog.tensor? h).map Tensor.rows).getD 0)

/-- A part that met poisoned lines, or data that is LOST (R167): the member that owns the data, or none for data of no single
member (R278). -/
structure Met where
  who : Option PartId
  lines : List Nat
  lost : Bool := false
  deriving DecidableEq, Repr

/-- Does an item meet anything bad there? -/
def Met.bad (x : Met) : Bool := !x.lines.isEmpty || x.lost

/-- Rows of an operand met by a problem's rows `row0` on.
[notes/assumptions 96 DEDUCED, unsafe] -/
def View.metRows (v : View) (h : Nat) (q : IProb) (row0 rows : Nat) : List Met :=
  if h = 0xFFFF then []
  else if v.isPerFuture h then
    ((List.range rows).map (fun i => row0 + i)).map (fun row =>
      let mem := q.memberOf row
      { who := some (v.member mem).who, lines := v.poisonedOperand h mem (q.rowOf true row) 1 })
  else [{ who := none, lines := v.poisonedOperand h 0 (q.offA / max (((v.prog.tensor? h).map Tensor.d0).getD 1) 1 + row0) rows }]

/-- A whole operand met for the member of a problem. -/
def View.metAll (v : View) (h : Nat) (q : IProb) : List Met :=
  if h = 0xFFFF then []
  else if v.isPerFuture h then
    (if q.member.isSome then [q.member.getD 0] else List.range v.members.length).map (fun m =>
      { who := some (v.member m).who, lines := v.poisonedWhole h m })
  else [{ who := none, lines := v.poisonedWhole h 0 }]

/-- First lines of the units of a Stratus range that could not be read (R155, R328). -/
def View.badLines (v : View) (loc units : Nat) : List Nat :=
  (v.bad.filter (fun u => decide (loc ≤ u) && decide (u < loc + units))).map (fun u => Space.stratus.firstLine + u * 32)

/-- KV pages of a member's list in a layer, one head of them. A page that others hold too is data of no single
member; a LOST one ends its reader DATA_LOST (R167). -/
def View.metPages (v : View) (layer mem head : Nat) : List Met :=
  let a := v.prog.att.getD layer (AttLayer.ofNat 0)
  (v.kvList mem layer).pages.map (fun n =>
    let f := tgetD v.frames n {}
    { who := if 1 < f.ref then none else some (v.member mem).who
      lost := decide (f.state = .lost)
      lines := if f.state = .lost then [] else if f.state = .spilled then v.badLines f.loc (lineUnits f.lines)
        else v.mem.poisonedIn (stackAddr f.stack f.loc + head * (32 * a.dh * a.b)) (32 * a.dh * a.b) })

/-- State objects of a member in a layer; one that others hold too is data of no single member. -/
def View.metState (v : View) (layer mem : Nat) : List Met :=
  match v.stateObj mem layer with
  | some o => [{ who := if 1 < o.ref then none else some (v.member mem).who
                 lines := v.mem.poisonedIn (stackAddr o.stack o.addr) (o.lines * 128) }]
  | none => []

/-- The second operand and the vectors of a gate. -/
def View.metGate (v : View) (o : OpDesc) (q : IProb) (row0 rows : Nat) : List Met :=
  (if o.gate.post = 0 || o.gate.draw != 0 then [] else v.metRows o.src2 q row0 rows) ++
    (if o.vec = 0xFFFF then [] else [{ who := none, lines := v.poisonedWhole o.vec 0 }])

/-- Everything an item of an operator, rows and columns of a problem, reads that holds a poisoned line or is LOST. A tile of an image operator is judged by the
whole images of its problem. -/
def View.met (v : View) (o : OpDesc) (q : IProb) (row0 rows col0 cols : Nat) : List Met :=
  let w := o.weightRows v.prog q
  let weight : List Met := if o.srcW = 0xFFFF then []
    else if o.cls = 0 then [{ who := none, lines := v.poisonedWeight o.srcW (w.1 + col0) cols }]
    else [{ who := none, lines := v.poisonedWeight o.srcW w.1 w.2 }]
  let l := match o.cls with
    | 0 => v.metRows o.srcA q row0 rows ++ weight ++ v.metGate o q row0 rows
    | 1 => v.metAll o.srcA q ++ v.metPages o.attLayer (q.memberOf 0) q.head
    | 3 => v.metRows o.srcA q row0 rows ++ weight ++
        ((List.range rows).flatMap (fun i => v.metState o.recLayer (q.memberOf (row0 + i))))
    | 4 => v.metAll o.srcA q ++ weight ++ v.metGate o q row0 rows
    | 5 => v.metAll o.srcA q
    | 6 => v.metAll o.srcA q
    | _ => v.metRows o.srcA q row0 rows ++ v.metGate o q row0 rows
  l.filter Met.bad

/-! ### What meeting a bad line does (R289 to R291, R254) -/

/-- A global line of a stack as (stack, LA). -/
def stackOfLine (line : Nat) : Option (Nat × Nat) :=
  if line < 12 * stackLines then some (line / stackLines, line % stackLines) else none

/-- The code a bad line ends its reader with: TIER_FAILED for one of a unit that Stratus could not read (R155, R328), and for
a read-only line whose repair failed; LINE_POISONED for the reader that has met a read-only line now under repair (R291).
[notes/assumptions 97 DEDUCED, unsafe] -/
def Mem.poisonCode (m : Mem) (repairs : List (Nat × Nat)) (line : Nat) : Code :=
  if Space.stratus.firstLine ≤ line then .tierFailed
  else if (m.sideOf line).ro && !repairs.any (fun x => stackLine x.1 x.2 == line) then .tierFailed else .linePoisoned

/-- The failures of the parts that met poisoned lines or LOST data, with the lines under repair.
[notes/assumptions 109 DEDUCED, unsafe] -/
def Round.failMet (r : Round) (m : Mem) (repairs : List (Nat × Nat)) (t : Tns) (region : Nat) (ms : List Met) : Round :=
  ms.foldl (fun acc x =>
    let y := x.lines.foldl (fun a l =>
      a.fail x.who (m.poisonCode repairs l) t (if Space.stratus.firstLine ≤ l then 6 else region)) acc
    if x.lost then y.fail x.who .dataLost t region else y) r

/-- The part a stack line of a job belongs to: the one member whose slice, page or state it lies in. -/
def Dev.lineOwner (d : Dev) (j : Job) (r : Round) (stack la : Nat) : Option PartId :=
  let inTensor := r.members.find? (fun m =>
    (j.prog.tensors.zip j.homes).any (fun x =>
      match x.2 with
      | some h => x.1.perFuture && decide (h.space = .stack stack) && (List.range h.bufs).any (fun b =>
          let lo := (h.base + b * h.bufBytes + m.slot * x.1.sliceStride) / 128
          decide (lo ≤ la) && decide (la < lo + x.1.sliceStride / 128))
      | none => false))
  match inTensor with
  | some m => some m.who
  | none =>
    r.takers.find? (fun w => r.partHas d j w (List.range j.prog.att.length) (List.range j.prog.hdr.recLayers)
      (fun f => decide (f.ref ≤ 1) && f.stack == stack && decide (f.loc ≤ la) && decide (la < f.loc + f.lines))
      (fun o => decide (o.ref ≤ 1) && o.stack == stack && decide (o.addr ≤ la) && decide (la < o.addr + o.lines)))

/-! ### The write-combining buffers (R304 to R307) -/

/-- Bytes of an entry with later bytes over earlier ones. -/
def addCells (old new : List Host.Cell) : List Host.Cell :=
  new.reverse ++ old.filter (fun c => !new.any (fun n => n.1 == c.1))

/-- Does a list of cells cover a whole line? -/
def wholeLine (cs : List Host.Cell) : Bool := decide (128 ≤ ((cs.map Prod.fst).eraseDups).length)

/-- Bytes staged in a round.
[notes/assumptions 15 DEDUCED, unsafe] -/
def Dev.stageCells (d : Dev) (job : Nat) (cs : List Host.Cell) : Dev :=
  d.modRound job (fun r => { r with stage := cs.reverse ++ r.stage })

/-- Does a stack line lie in a channel that retrains (R294)? -/
def Dev.retrains (d : Dev) (line : Nat) : Bool :=
  (stackOfLine line).any (fun x => (tget (d.stack x.1).retraining (laChannel x.2)).isSome)

/-- One entry flushed (R305, R306): merged into the line, or, when the line is poisoned and not covered, its requests
end LINE_POISONED; the flush of a line whose channel retrains waits. -/
def Eff.flushEntry (e : Eff) (m : Mem) (w : WcbEntry) : Eff :=
  if e.dev.retrains w.line then e else
  let e1 := e.mod (fun d => { d with regions := d.regions.map (fun r =>
    (r.1, { r.2 with wcb := r.2.wcb.filter (fun x => x.line != w.line) })) })
  if (m.sideOf w.line).poison && !wholeLine w.cells then
    e1.mod (fun d => w.jobs.foldl (fun acc job =>
      match acc.job? job with
      | some j => acc.modRound job (fun r => r.fail
          ((stackOfLine w.line).bind (fun x => acc.lineOwner j r x.1 x.2)) .linePoisoned acc.now
          (((stackOfLine w.line).map (fun x => x.1 / 2)).getD 6))
      | none => acc) d)
  else
    (e1.mod (fun d => w.jobs.foldl (fun acc job => acc.stageCells job w.cells.reverse) d)).ops
      (if wholeLine w.cells then [.clearPoison (w.line * 128) 128] else [])

/-- Entries that a test selects flushed. -/
def Eff.flushWhere (e : Eff) (m : Mem) (which : WcbEntry → Bool) : Eff :=
  (e.dev.regions.flatMap (fun r => r.2.wcb.filter which)).foldl (fun acc w => acc.flushEntry m w) e

/-- One partial line written: merged into its entry, or a new entry, for which the oldest of 256 flushes; a full mask
flushes at once. -/
def Eff.combine (e : Eff) (m : Mem) (job line : Nat) (cs : List Host.Cell) : Eff :=
  let r := line / (2 * stackLines)
  let old := ((e.dev.region r).wcb.find? (fun w => w.line == line))
  let e1 := match old with
    | some _ => e
    | none =>
      if (e.dev.region r).wcb.length < 256 then e
      else match argMin WcbEntry.born ((e.dev.region r).wcb.filter (fun w => !e.dev.retrains w.line)) with
        | some w => e.flushEntry m w
        | none => e
  let w : WcbEntry := match old with
    | some w => { w with cells := addCells w.cells cs, jobs := if w.jobs.contains job then w.jobs else w.jobs ++ [job] }
    | none => { line := line, cells := cs.reverse, jobs := [job], born := e.dev.now }
  let e2 := e1.mod (fun d => d.modRegion r (fun x => { x with wcb := x.wcb.filter (fun y => y.line != line) ++ [w] }))
  if wholeLine w.cells then e2.flushEntry m w else e2

/-- Does a line lie in the home of a tensor? -/
def homeHolds (h : Option TensorHome) (line : Nat) : Bool :=
  h.any (fun t =>
    let a := t.space.addr t.base
    decide (a / 128 ≤ line) && decide (line * 128 < a + t.bytes))

/-- The hint and the class ACT of a job's line, by the tensor in whose home it lies; pages and states have none. -/
def Dev.lineHint (d : Dev) (job line : Nat) : Nat × Bool :=
  match (d.job? job).bind (fun j => (j.prog.tensors.zip j.homes).find? (fun t => homeHolds t.2 line)) with
  | some t => (t.1.accessHint, t.1.cls == 1)
  | none => (0, false)

/-- Lines of the pinned area that hold the level-2 tiles of a guaranteed job in a region: a home beyond those of its tensors
(R299). -/
def Dev.levelTwoRoom (d : Dev) (job r : Nat) : Nat :=
  match d.job? job with
  | some j => if !j.batch.guaranteed then 0
    else sumNat ((j.homes.drop j.prog.tensors.length).filterMap (fun h => match h with
      | some t => if t.space = .cache r then some (t.bytes / 128) else none
      | none => none))
  | none => 0

/-- One access of a job to a stack line in its region's cache: a guaranteed job's goes to its pinned level-2 tiles (R299);
another's to the unpinned ways, where a dirty line that it replaces is written to the stack (R300). -/
def Eff.touch (e : Eff) (a : Access) (hint : Nat) (x : CacheLine) : Eff :=
  match cachedBy x.line with
  | none => e
  | some (r, la) =>
    let room := e.dev.levelTwoRoom x.job r
    if room != 0 then e.mod (fun d => d.pinLine r x.job x.line room)
    else
      let old := tgetD (e.dev.region r).cached (cacheSet la) []
      let out := evictedLines old (cacheAccess e.dev.unpinnedWays old a hint x) x.line
      (e.mod (fun d => d.cacheTouch a hint x)).ops (out.flatMap (fun v =>
        let staged := (((e.dev.job? v.job).bind Job.round).map Round.stage).getD []
        [.cells (staged.filter (fun c => c.1 / 128 == v.line)).reverse] ++
          (if v.poison then [.poison v.line] else [.clearPoison (v.line * 128) 128])))

/-- One write to a line of a job in its region's cache. -/
def Eff.cacheWrite (e : Eff) (job line : Nat) (a : Access) : Eff :=
  let h := e.dev.lineHint job line
  e.touch a h.1 { line := line, job := job, act := h.2 }

/-- Bytes an operator writes: whole lines and pinned lines go to the staging, and so does a partial stack line that its
region's cache holds; another goes to the write-combining buffer of the region (R300, R304).
[notes/assumptions 204 DEDUCED, unsafe] -/
def Eff.writeOut (e : Eff) (m : Mem) (job : Nat) (cs : List Host.Cell) : Eff :=
  ((cs.map (fun c => c.1 / 128)).eraseDups).foldl (fun acc line =>
    let mine := cs.filter (fun c => c.1 / 128 == line)
    if (stackOfLine line).isNone then acc.mod (fun d => d.stageCells job mine)
    else if wholeLine mine then
      (((acc.mod (fun d => { d with regions := d.regions.map (fun r =>
          (r.1, { r.2 with wcb := r.2.wcb.filter (fun x => x.line != line) })) })).cacheWrite job line .full).mod
            (fun d => d.stageCells job mine)).ops [.clearPoison (line * 128) 128]
    else if acc.dev.cached line then (acc.cacheWrite job line .part).mod (fun d => d.stageCells job mine)
    else acc.combine m job line mine) e

/-! ### What an item reads through the region caches -/

/-- Ranges of the pages of a member's list in a layer, one head of them; a spilled page's lines are not read here. -/
def View.reachPages (v : View) (layer mem head : Nat) : List Reach :=
  let a := v.prog.att.getD layer (AttLayer.ofNat 0)
  (v.kvList mem layer).pages.filterMap (fun n =>
    let f := tgetD v.frames n {}
    if f.state = .spilled then none
    else some { addr := stackAddr f.stack f.loc + head * (32 * a.dh * a.b), bytes := 32 * a.dh * a.b })

/-- The range of a member's state object in a layer. -/
def View.reachState (v : View) (layer mem : Nat) : List Reach :=
  match v.stateObj mem layer with
  | some o => [{ addr := stackAddr o.stack o.addr, bytes := o.lines * 128 }]
  | none => []

/-- Everything a tile reads through the region caches: rows of the operands, the weight rows of its columns, which an image
operator takes whole, pages of an attention tile, states of a recurrent one.
[notes/assumptions 191 DEDUCED, unsafe] -/
def View.tileReach (v : View) (o : OpDesc) (q : IProb) (t : Tile) : List Reach :=
  let gate := (if o.gate.post = 0 || o.gate.draw != 0 then [] else v.reachRows o.src2 q t.row0 t.rows) ++
    (if o.vec = 0xFFFF then [] else v.reachWeight o.vec 0 (((v.prog.tensor? o.vec).map Tensor.rows).getD 0))
  let whole := if o.srcW = 0xFFFF then [] else v.reachWeight o.srcW 0 (((v.prog.tensor? o.srcW).map Tensor.rows).getD 0)
  match o.cls with
  | 0 =>
    let d0 := max (((v.prog.tensor? o.srcW).map Tensor.d0).getD 1) 1
    v.reachRows o.srcA q t.row0 t.rows ++ v.reachWeight o.srcW (q.offW / d0 + t.col0) t.cols ++ gate
  | 1 => v.reachAll o.srcA q ++ v.reachPages o.attLayer (q.memberOf 0) q.head
  | 3 => v.reachRows o.srcA q t.row0 t.rows ++ whole ++
      (List.range t.rows).flatMap (fun i => v.reachState o.recLayer (q.memberOf (t.row0 + i)))
  | 4 => v.reachAll o.srcA q ++ whole ++ gate
  | 5 => v.reachAll o.srcA q
  | 6 => v.reachAll o.srcA q
  | _ => v.reachRows o.srcA q t.row0 t.rows ++ gate

/-- Bytes of some ranges as they lie in a unit's store from an address, each range from a line of its own; bytes that are 0
are not listed. -/
def View.stored (v : View) (base : Nat) : List Reach → List Host.Cell
  | [] => []
  | x :: xs =>
    (cellsAt base (v.bytes x.addr x.bytes)).filter (fun c => c.2 != 0) ++ v.stored (base + alignUp x.bytes 128) xs

/-- The ranges of the activations a tile or slice takes into its unit's store. -/
def View.operandReach (v : View) (o : OpDesc) (q : IProb) (row0 rows : Nat) : List Reach :=
  if o.cls = 0 || o.cls = 3 || o.cls = 7 then v.reachRows o.srcA q row0 rows else v.reachAll o.srcA q

/-- One stack line read: its write-combining entry is flushed first (R305), then the cache takes the access. -/
def Eff.readLine (e : Eff) (m : Mem) (job line hint : Nat) (act : Bool) : Eff :=
  if (stackOfLine line).isNone then e
  else (e.flushWhere m (fun w => w.line == line)).touch .read hint
    { line := line, job := job, act := act, poison := m.poisoned.contains line }

/-- Lines that bytes of a job merge into, read and then written (R290). -/
def Eff.mergeLines (e : Eff) (m : Mem) (job : Nat) (cs : List Host.Cell) : Eff :=
  ((cs.map (fun c => c.1 / 128)).eraseDups).foldl (fun acc line =>
    (acc.readLine m job line (acc.dev.lineHint job line).1 (acc.dev.lineHint job line).2).cacheWrite job line .part) e

/-- Every line of some ranges read, in order. -/
def Eff.readLines (e : Eff) (m : Mem) (job : Nat) (l : List Reach) : Eff :=
  l.foldl (fun acc x =>
    if x.bytes = 0 then acc
    else (List.range ((x.addr + x.bytes - 1) / 128 - x.addr / 128 + 1)).foldl (fun b i =>
      b.readLine m job (x.addr / 128 + i) x.hint x.act) acc) e

/-- WCB_AGE_FLUSH: the entry reaches an age of 2,048 ccyc. -/
def State.ageFlush (s : State) (r n : Nat) : Eff :=
  match (s.dev.region r).wcb[n]? with
  | none => s.dev.eff
  | some w => (s.dev.advance (w.born + ceilDiv (2048 * 1000) s.dev.ageing.clock)).eff.flushEntry s.mem w

/-- Lines of a best-effort job that no tile or slice moves, appends and page copies, taken from the regulators (R310). -/
def Dev.regulateLines (d : Dev) (j : Job) (lines : List Nat) : Dev :=
  if j.batch.guaranteed then d
  else (List.range 12).foldl (fun acc k =>
    let n := (lines.filter (fun l => (stackOfLine l).any (fun x => x.1 == k))).length
    if n = 0 then acc else acc.takeTokens j.part k n) d

/-- Does some stack line of an address range lie in a channel that retrains? Among 32 lines in a row every channel has one. -/
def Dev.reachRetrains (d : Dev) (x : Reach) : Bool :=
  x.bytes != 0 && (List.range (min 32 ((x.addr + x.bytes - 1) / 128 - x.addr / 128 + 1))).any (fun i => d.retrains (x.addr / 128 + i))

/-- Does an address range hold a line under repair that a unit has not itself just met? -/
def Dev.reachRepairs (d : Dev) (met : List LineError) (x : Reach) : Bool :=
  x.bytes != 0 && d.repairs.any (fun y =>
    let l := stackLine y.1 y.2
    decide (x.addr / 128 ≤ l) && decide (l ≤ (x.addr + x.bytes - 1) / 128) &&
      !met.any (fun e => badLine e && e.stack.val == y.1 && e.la == y.2))

/-- What an item that reads some ranges waits for at its end: a channel that retrains, under LANE_RETRAIN, or the repair of a
read-only line, under TIER_LATE (R291, R294).
[notes/assumptions 205 DEDUCED, unsafe] -/
def Dev.haltOf (d : Dev) (met : List LineError) (l : List Reach) : Option Stall :=
  if l.any d.reachRetrains then some .laneRetrain
  else if l.any (d.reachRepairs met) then some .tierLate else none

/-- What the cells see: the region cache's copy of a line is the datum, with the side band it has there (R298, R300). -/
def View.throughCache (v : View) (d : Dev) : View :=
  let shown := d.regions.flatMap (fun r => r.2.cached.flatMap (fun s => (s.2.filter CacheLine.poison).map CacheLine.line))
  { v with mem := { v.mem with poisoned := shown ++ v.mem.poisoned.filter (fun l => (d.cachedCopy l).isNone) } }

/-! ### Patrol and regulators (R292, R310, R311) -/

/-- PATROL_SCRUB: a correctable line is counted and written back; another is poisoned, or repaired. No request ends. -/
def State.scrub (s : State) (x : LineError) : Eff :=
  if (s.dev.stack x.stack).outOfService || s.dev.stackCap x.stack ≤ x.la then s.dev.eff else s.dev.lineError s.mem x

/-- Buckets refilled for 1 µs. -/
def Dev.refill (d : Dev) (p : Nat) : Dev :=
  d.modPart p (fun x => { x with buckets := (d.bucketStacks p).map (fun k =>
    (k, min (d.pforce p 0x12 2) (d.bucket p k + d.pforce p 0x12 1))) })

/-- REGULATOR_REFILL: the next 1 µs boundary of the tick timebase. -/
def Dev.regulatorRefill (d : Dev) : Dev :=
  let d1 := d.advance ((d.now / 1000 + 1) * 1000)
  let d2 : Dev := { d1 with stackTab := d1.stackTab.map (fun k => (k.1, { k.2 with lcCount := 0 })) }
  d2.createdParts.foldl Dev.refill d2

/-- Latency-critical lines of a stack: up to the cap of 0x3010.01 they pass outside the buckets, the rest as lines of
the partition (R126, R310).
[notes/assumptions 99 DEDUCED, unsafe] -/
def Dev.takeCritical (d : Dev) (p k n : Nat) : Dev :=
  let cap := d.forceAt 0x3010 1 * 2 * (32 - (d.stack k).fenced.length) * 1000 / 100
  let free := cap - (d.stack k).lcCount
  let d1 := d.modStack k (fun x => { x with lcCount := x.lcCount + min n free })
  if n ≤ free then d1 else d1.takeTokens p k (n - free)

/-! ### The meanings -/

/-- WCB_AGE_FLUSH: the merge reads its line and checks it first (R287, R289). -/
def execWcbAgeFlush (region : Fin 6) (entry : Nat) (s : State) (met : List LineError := []) : Host.Outcome State Fault Refusal :=
  (s.meet met).done ((s.meet met).ageFlush region entry)

/-- PATROL_SCRUB. -/
def execPatrolScrub (err : LineError) (s : State) : Host.Outcome State Fault Refusal := s.done (s.scrub err)

/-- REGULATOR_REFILL. -/
def execRegulatorRefill (s : State) : Host.Outcome State Fault Refusal := s.done s.dev.regulatorRefill.eff

end Sys2Proof.Machine
end

