-- ==== Sys2Proof/Machine/Flare.lean ====
section
/-!
DEFINITION. The flare door (R367 to R372): its writes, the four-entry buffers of the port, and the
three stop actions, which management requests take too (R429).
-/

namespace Sys2Proof.Machine

/-- May the action act? ABORT_JOB needs a live job of the partition (R371). -/
def Dev.flareValid (d : Dev) (p action job : Nat) : Bool :=
  action != 2 || (d.liveJob job).any (fun j => j.part == p)

/-- The effect of an action: 1 QUIESCE, 2 ABORT_JOB, 3 DROP_QUEUE (R370 to R372). -/
def Eff.stopAction (e : Eff) (p action job : Nat) : Eff :=
  match action with
  | 1 => e.quiesce p
  | 2 => e.abortJob job
  | _ => e.mod (fun d => d.dropQueue p)

/-- Writes ignored and counted (R367). -/
def Dev.flareIgnore (d : Dev) (p n : Nat) : Dev :=
  d.modPart p (fun x => { x with flareIgnored := (x.flareIgnored + n) % 65536 })

/-- An action takes effect: LAST, TAKEN and vector 3; `n` writes asked for it (R367, R339).
[notes/assumptions 42 DEDUCED, unsafe] -/
def Eff.flareTake (e : Eff) (p action job n : Nat) : Eff :=
  if e.dev.flareValid p action job then
    (e.stopAction p action job).mod (fun d =>
      (d.modPart p (fun x =>
        { x with flareLast := action, flareTaken := (x.flareTaken + n) % 65536 })).vector p 3)
  else e.mod (fun d => d.flareIgnore p n)

/-- The overflow mark of one function applied: QUIESCE in the place of the lost writes (R369). -/
def Eff.flareOverflow (e : Eff) (p : Nat) : Eff :=
  let x := e.dev.part p
  if !x.overflowMark then e
  else
    ((e.mod (fun d => d.modPart p (fun y => { y with overflowMark := false, overflowWrites := 0 }))).quiesce p).mod (fun d =>
      ((d.modPart p (fun y => { y with flareOverflow := true })).flareIgnore p x.overflowWrites).vector p 3)

/-- The buffered entries of every function, in the order of arrival (R368). -/
def Dev.flareEntries (d : Dev) : List (Nat × FlareEntry) :=
  sortBy (fun (a b : Nat × FlareEntry) => decide (a.2.order < b.2.order))
    ((List.range 16).flatMap (fun p => (d.part p).flareBuffer.map (fun b => (p, b))))

/-- One batch: every buffered entry of every port in the order of arrival, then the overflow marks (R368, R369). -/
def Eff.flareBatch (e : Eff) : Eff :=
  let l := e.dev.flareEntries
  let e1 := ((l.map Prod.fst).eraseDups).foldl (fun acc p =>
    acc.mod (fun d => d.modPart p (fun y => { y with flareBuffer := [] }))) e
  (List.range 16).foldl Eff.flareOverflow
    (l.foldl (fun acc x => acc.flareTake x.1 x.2.action x.2.job (1 + x.2.absorbed)) e1)

/-- Entries that still wait for the pair are taken: no event comes 2 us after a write but finds it in effect (R368). -/
def State.flare (s : State) : State := s.apply s.dev.eff.flareBatch

/-- A write absorbed into the first entry that a test selects. -/
def absorbInto (same : FlareEntry → Bool) : List FlareEntry → List FlareEntry
  | [] => []
  | b :: bs => if same b then { b with absorbed := b.absorbed + 1 } :: bs else b :: absorbInto same bs

/-- A write that finds the pair in an earlier batch: an entry of its own, absorbed into an equal one,
or the function's overflow (R369). -/
def Part.flareBuffered (x : Part) (action job order : Nat) : Part :=
  let same (b : FlareEntry) : Bool := b.action == action && (action != 2 || b.job == job)
  if x.flareBuffer.length < 4 then
    { x with flareBuffer := x.flareBuffer ++ [{ action := action, job := job, order := order }] }
  else if x.flareBuffer.any same then { x with flareBuffer := absorbInto same x.flareBuffer }
  else { x with overflowMark := true, overflowWrites := x.overflowWrites + 1 }

/-- A flare-door write (R367, R368): only one 64-bit write with the ARM word and a known action is
taken; any other is ignored and counted.
[notes/assumptions 41 DEDUCED, unsafe; 42 DEDUCED, unsafe] -/
def Dev.flareWrite (d : Dev) (p action job : Nat) (w : FlareWrite) : Eff :=
  if !d.reach p then d.eff
  else if w.width != 64 || w.arm != 0x464C4152 || action == 0 || 3 < action then (d.flareIgnore p 1).eff
  else
    let e := (({ d with arrivals := d.arrivals + 1 } : Dev).modPart p (fun x => x.flareBuffered action job d.arrivals)).eff
    if w.pairBusy then e else e.flareBatch

/-- A register write of BAR0 (R336); offset 0x1000 is the flare door's ACTION register (R367).
[notes/assumptions 41 DEDUCED, unsafe] -/
def Dev.barWrite (d : Dev) (p off width v : Nat) : Eff :=
  if off = 0x1000 then
    d.flareWrite p (field v 3 0) (field v 31 8)
      { width := width, arm := if width = 64 then field v 63 32 else 0, pairBusy := false }
  else (d.registerWrite p off width v).eff

/-- REGISTER_WRITE. -/
def execRegisterWrite (p : Fin 16) (offset width value : Nat) (s : State) : Host.Outcome State Fault Refusal :=
  s.done (s.dev.barWrite p offset width value)

/-- QUIESCE. -/
def execQuiesce (p : Fin 16) (write : FlareWrite) (s : State) : Host.Outcome State Fault Refusal :=
  s.done (s.dev.flareWrite p 1 0 write)

/-- ABORT_JOB. -/
def execAbortJob (p : Fin 16) (write : FlareWrite) (job : Nat) (s : State) : Host.Outcome State Fault Refusal :=
  s.done (s.dev.flareWrite p 2 job write)

/-- DROP_QUEUE. -/
def execDropQueue (p : Fin 16) (write : FlareWrite) (s : State) : Host.Outcome State Fault Refusal :=
  s.done (s.dev.flareWrite p 3 0 write)

end Sys2Proof.Machine
end

