-- ==== Sys2Proof/Machine/Rounds.lean ====
section
/-!
DEFINITION. What a round does step by step (R25, R226, R238): its members, the copies and fresh states a step
begins with, the operators it starts and what they write, the forks between the phases, and its end.
-/

namespace Sys2Proof.Machine

/-! ### Staged tables -/

/-- A staged stream entry. -/
def Round.putStream (r : Round) (s : StreamEntry) : Round :=
  { r with streams := s :: r.streams.filter (fun x => !(x.id == s.id && x.host == s.host)) }

/-- A staged future. -/
def Round.modFuture (r : Round) (id : Nat) (f : Future → Future) : Round :=
  { r with futures := r.futures.map (fun x => if x.id = id then f x else x) }

/-- A staged page entry. -/
def Round.putFrame (r : Round) (n : Nat) (f : PageFrame) : Round := { r with pageFrames := tset r.pageFrames n f }

/-- A page of a round with its count of holders changed. -/
def Round.countPage (r : Round) (d : Dev) (n : Nat) (f : Nat → Nat) : Round :=
  let p := r.page d n
  r.putFrame n { p with ref := f p.ref }

/-- The round of a job. -/
def Dev.round? (d : Dev) (job : Nat) : Option (Job × Round) :=
  match d.job? job with
  | some j => j.round.map (fun r => (j, r))
  | none => none

/-- Will a round commit nothing, whatever else it does: a failure of all parts, or of one without PARTIAL_OK (R277,
R278)?
[notes/assumptions 82 DEDUCED, unsafe] -/
def Round.doomed (r : Round) (b : Batch) : Bool := r.failures.any (fun f => f.who.isNone || !b.partialOk)

/-- Is a round still at work: not decided, not ready, not at its closing patterns, not doomed? -/
def Round.working (r : Round) (b : Batch) : Bool := !r.decided && !r.ready && r.closing.isEmpty && !r.doomed b

/-- Imagined futures of the staged set, in ascending id. -/
def Round.imagined (r : Round) : List Future :=
  sortBy (fun (a b : Future) => decide (a.id < b.id)) (r.futures.filter (fun f => !f.observed))

/-! ### Members of a step (R25, R181, R226, R33) -/

/-- The member a future is in a step. -/
def Future.member (f : Future) (frame : Option Bytes) : Member :=
  { who := ⟨false, f.id⟩, seed := f.seed, step := f.step + 1, slot := f.slot, frame := frame }

/-- The reset of a stream at a token of a round, if its chunk asks for one there (R183). -/
def Round.resetAt (r : Round) (stream n : Nat) : Option (Option Nat) :=
  (r.resets.find? (fun x => x.1 == stream && x.2.1 == n)).map (fun x => x.2.2)

/-- The member a host stream is at a token of a round. -/
def Round.streamMember (r : Round) (d : Dev) (job id n : Nat) (token : Bytes) : Option Member :=
  (r.stream? d job ⟨true, id⟩).map (fun s =>
    match r.resetAt id n with
    | some seed => { who := ⟨true, id⟩, seed := seed.getD s.seed, step := 1, slot := s.slot, frame := some token }
    | none => { who := ⟨true, id⟩, seed := s.seed, step := s.step + 1, slot := s.slot, frame := some token })

/-- Members of the present step, in ascending id, futures before host streams. -/
def Round.stepMembers (r : Round) (d : Dev) (job : Nat) : List Member :=
  match r.phase with
  | .imagined => r.imagined.map (fun f => f.member none)
  | .observed =>
    (sortBy (fun (a b : Nat × List Bytes) => decide (a.1 < b.1)) r.frames).filterMap (fun x =>
        match x.2[r.step]? with
        | some bs => (r.futures.find? (fun f => f.id == x.1)).map (fun f => f.member (some bs))
        | none => none) ++
      (sortBy (fun (a b : Nat × List Bytes) => decide (a.1 < b.1)) r.tokens).filterMap (fun x =>
        match x.2[r.step]? with
        | some bs => r.streamMember d job x.1 r.step bs
        | none => none)

/-- The host streams whose recall the next step waits for (R195, best-effort jobs): those whose state is away, unless
the step resets them (R183).
[notes/assumptions 84 DEDUCED, unsafe] -/
def Round.recallStreams (r : Round) (d : Dev) (job : Nat) : List Nat :=
  if r.phase ≠ .observed then []
  else (r.tokens.filter (fun t => decide (r.step < t.2.length) && !(r.resets.any (fun x => x.1 == t.1 && decide (x.2.1 ≤ r.step))) &&
    (d.hostEntry job t.1).any (fun s => decide (s.2.loc = .evicting) || decide (s.2.loc = .evicted) ||
      decide (s.2.loc = .recalling)))).map Prod.fst

/-- Does a step wait for a recall? -/
def Round.waitsRecall (r : Round) (d : Dev) (job : Nat) : Bool := !(r.recallStreams d job).isEmpty

/-! ### Pages (R148 to R153) -/

/-- Lowest free page number.
[notes/assumptions 16 DESIGN CHOICE, unsafe] -/
def Dev.freePageNo (d : Dev) : Nat :=
  ((List.range (d.pageFrames.length + 1)).find? (fun n => (tget d.pageFrames n).isNone)).getD d.pageFrames.length

/-- Home stack of page `i` of a sequence in a layer: the pages of one chunk lie in one stack (R132, R152). -/
def pageStack (h : KvHome) (a : AttLayer) (i : Nat) : Nat :=
  h.homeStacks.getD (i / max a.cP 1 % max h.homeStacks.length 1) 0

/-- A new page of a round in a stack, staged with one holder and some slots filled; none without room. -/
def Eff.newPage (e : Eff) (job part stack lines fill : Nat) : Option (Nat × Eff) :=
  match e.takeLines stack 16 lines part with
  | none => none
  | some (la, e1) =>
    let n := e1.dev.freePageNo
    let f : PageFrame := { ref := 0, fill := 0, state := .resident, stack := stack, part := part, lines := lines, loc := la }
    some (n, e1.mod (fun d => (d.setFrame n f).modRound job (fun r =>
      { (r.putFrame n { f with ref := 1, fill := fill }) with newPages := r.newPages ++ [n] })))

/-- Address of a page's bytes. -/
def PageFrame.address (f : PageFrame) : Nat :=
  if f.state = .spilled then Space.stratus.addr (f.loc * 4096) else stackAddr f.stack f.loc

/-- A copy of a page for one holder: none without room. -/
def Eff.copyPage (e : Eff) (job part stack : Nat) (src : PageFrame) : Option (Nat × Eff) :=
  match e.newPage job part stack src.lines src.fill with
  | none => none
  | some (n, e1) =>
    some (n, e1.ops [.copy src.address (e1.dev.frame n).address (src.lines * 128)])

/-- A future's list in a layer changed. -/
def Future.setKv (f : Future) (layer : Nat) (g : KvList → KvList) : Future :=
  { f with kv := modifyNth f.kv layer g }

/-- A failure of one part in an effect. -/
def Eff.failPart (e : Eff) (job : Nat) (who : Option PartId) (c : Code) (maskBit : Nat) : Eff :=
  e.mod (fun d => d.modRound job (fun r => r.fail who c d.now maskBit))

/-- The copy of a shared, partly filled tail page of one member in a layer, before its step writes it (R148). `refs`
gives the counts as the step found them. -/
def Eff.tailCopy (e : Eff) (m : Mem) (j : Job) (refs : Nat → Nat) (layer : Nat) (who : PartId) : Eff :=
  match e.dev.round? j.id, j.kvHomes[layer]?, j.prog.att[layer]? with
  | some (_, r), some h, some a =>
    match r.futures.find? (fun f => f.id == who.id) with
    | none => e
    | some f =>
      let l := f.kv.getD layer {}
      match l.pages.getLast? with
      | none => e
      | some n =>
        let src := r.page e.dev n
        if src.fill = 16 || refs n ≤ 1 then e
        else if m.rangePoisoned src.address (src.lines * 128) then e.failPart j.id (some who) .linePoisoned (src.stack / 2)
        else match e.copyPage j.id j.part (pageStack h a (l.pages.length - 1)) src with
          | none => e.failPart j.id (some who) .noRoom (src.stack / 2)
          | some (c, e1) => (e1.readLines m j.id [{ addr := src.address, bytes := src.lines * 128 }]).mod (fun d => d.modRound j.id (fun y =>
              (y.countPage d n (· - 1)).modFuture who.id (fun x =>
                x.setKv layer (fun z => { z with pages := z.pages.dropLast ++ [c] }))))
  | _, _, _ => e

/-- Layers that the operators of a phase append to. -/
def Program.appendLayers (p : Program) (ph : Phase) : List Nat :=
  (p.ops.filterMap (fun o => if o.cls = 2 && o.active ph && o.m != 0 then some o.attLayer else none)).eraseDups

/-- The copy batch before the first operator of a step (R148, R149). -/
def Eff.tailCopies (e : Eff) (m : Mem) (j : Job) (ph : Phase) (members : List Member) : Eff :=
  match e.dev.round? j.id with
  | none => e
  | some (_, r0) =>
    let refs (n : Nat) : Nat := (r0.page e.dev n).ref
    (members.filter (fun x => !x.who.host)).foldl (fun acc x =>
      (j.prog.appendLayers ph).foldl (fun a l => a.tailCopy m j refs l x.who) acc) e

/-- The time of the copy batch of a step whose pages from the `before`th new one on are its copies, with those its round's FORKs
have copied (R150): the longest of its stacks, and what a best-effort batch waits for slots, which only the order of single lines decides, a free value counted
under REGULATOR (R149, R310).
[notes/assumptions 182 DESIGN CHOICE, unsafe] -/
def Eff.copyTime (e : Eff) (j : Job) (before : Nat) : Eff :=
  match e.dev.round? j.id with
  | none => e
  | some (_, r) =>
    let fs := (r.forkCopies ++ r.newPages.drop before).map e.dev.frame
    if fs.isEmpty then e
    else
      let t := maxNat (((fs.map PageFrame.stack).eraseDups).map (fun k =>
        copyCycles (32 - (e.dev.stack k).fenced.length)
          (sumNat ((fs.filter (fun f => f.stack == k)).map PageFrame.lines)) 1))
      let lines := fs.flatMap (fun f => (List.range f.lines).map (stackLine f.stack f.loc + ·))
      let d0 := e.dev.regulateLines j (lines ++ lines)
      let w := if j.batch.guaranteed then (0, d0) else d0.free
      e.mod (fun _ => (w.2.modJob j.id (fun y => y.addStall .regulator [] w.1)).modRound j.id (fun y =>
        { y with copied := w.2.now + t + w.1, forkCopies := [] }))

/-! ### Recurrent state at the start of a step (R113, R174, R178, R183) -/

/-- Zero state objects for every layer of a stream that starts fresh, in its staged directory.
[notes/assumptions 91 DEDUCED, unsafe] -/
def Eff.freshState (e : Eff) (j : Job) (s : StreamEntry) (seed : Nat) : Eff :=
  let zero := List.replicate (stateObjBytes j.prog.hdr.c j.prog.hdr.ns) (0 : Byte)
  match e.newState j s.dir ((List.range j.prog.hdr.recLayers).map (fun l => (l, zero))) with
  | none => e.failPart j.id (some ⟨s.host, s.id⟩) .noRoom (j.recHomes.headD 0 / 2)
  | some (no, objs, e1) =>
    e1.mod (fun d => d.modRound j.id (fun r =>
      { (r.putStream { s with dir := some no, loc := .resident, reset := false, step := 0, rnCnt := 0, seed := seed }) with
        dirs := tset r.dirs no objs, newObjs := r.newObjs ++ objs }))

/-- One member's state prepared: fresh, or due for a renormalisation. A state read from a saved image keeps the image's
encoding and counter.
[notes/assumptions 187 DEDUCED, unsafe] -/
def Eff.beginState (e : Eff) (j : Job) (i : Nat) (m : Member) : Eff :=
  match e.dev.round? j.id with
  | none => e
  | some (_, r) =>
    match r.stream? e.dev j.id m.who with
    | none => e
    | some s =>
      let reset := if m.who.host then r.resetAt m.who.id r.step else none
      if reset.isSome then
        (e.freshState j s m.seed).mod (fun d => d.modRound j.id (fun y => { y with fresh := y.fresh ++ [i] }))
      else if s.dir.isNone then
        let e1 := e.freshState j s m.seed
        e1.mod (fun d => d.modRound j.id (fun y => { (match y.stream? d j.id m.who with
          | some x => y.putStream { x with step := s.step }
          | none => y) with fresh := y.fresh ++ [i] }))
      else if s.rnN ≤ s.rnCnt + 1 then e.mod (fun d => d.modRound j.id (fun y => { y with renorm := y.renorm ++ [i] }))
      else e

/-- The states of a step's members prepared. -/
def Eff.beginStates (e : Eff) (j : Job) (members : List Member) : Eff :=
  if j.prog.hdr.recLayers = 0 then e
  else members.zipIdx.foldl (fun acc m => acc.beginState j m.2 m.1) e

/-- The operator instances of a step, all waiting (R233). -/
def stepInsts (p : Program) (b : Batch) (ph : Phase) : List Inst :=
  (p.ops.zipIdx.filter (fun o => o.1.active ph)).map (fun o => { op := o.2, kind := unitOf p o.1 ph (phaseBatch p b ph) })

/-- A step begins. -/
def State.beginStep (s : State) (job : Nat) : State :=
  match s.dev.round? job with
  | none => s
  | some (j, r) =>
    let ms := r.stepMembers s.dev job
    let e := s.dev.eff.mod (fun d => d.modRound job (fun y =>
      { y with members := ms, inStep := true, fresh := [], renorm := [], insts := stepInsts j.prog j.batch r.phase }))
    let zero := (ms.filter (fun m => m.who.host && (r.resetAt m.who.id r.step).isSome)).flatMap (fun m =>
      (j.slotSlices m.slot).flatMap (fun x => cellsAt x.1 (List.replicate x.2.2 (0 : Byte))))
    s.apply ((((e.tailCopies s.mem j r.phase ms).copyTime j r.newPages.length).beginStates j ms).writeOut s.mem j.id zero)

/-! ### The end of a step (R22, R113, R145, R360) -/

/-- One retirement of whole pages from the front of a future's list in a layer (R145). -/
def Round.retire (r : Round) (d : Dev) (id layer n : Nat) : Round :=
  match r.futures.find? (fun f => f.id == id) with
  | none => r
  | some f =>
    let l := f.kv.getD layer {}
    let k := min n (l.pages.length - 1)
    let r1 := (l.pages.take k).foldl (fun acc p => acc.countPage d p (· - 1)) r
    r1.modFuture id (fun x => x.setKv layer (fun z => { pages := z.pages.drop k, win := z.win - 16 * k }))

/-- The outputs of a member's step: the slices of the OUTPUT tensors as a frame (R360). -/
def View.outputFrame (v : View) (mem : Nat) : Bytes :=
  (v.prog.tensors.zipIdx).foldl (fun acc x =>
    let t := x.1
    if t.cls != 4 then acc
    else
      let pad := padTo 128 acc
      match (v.homes[x.2]?).join with
      | some h =>
        let off := if t.perFuture then (v.member mem).slot * t.sliceStride else 0
        pad ++ v.tensorBytes false (h.staged true + off) (h.committed + off) t.sliceBytes
      | none => pad ++ List.replicate t.sliceBytes 0) []

/-- Index of the chunk of a round that holds token `n` of a stream. -/
def Round.chunkOfToken (r : Round) (stream n : Nat) : Option Nat :=
  let mine := r.chunks.filter (fun c => c.stream == stream)
  (mine.foldl (fun (acc : Option Nat × Nat) c =>
    match acc.1 with
    | some t => (some t, acc.2)
    | none => if n < acc.2 + c.used then (some c.tag, acc.2) else (none, acc.2 + c.used)) (none, 0)).1

/-- What one member's step leaves in the staged tables: its counters one on, and a host stream's outputs with its
chunk.
[notes/assumptions 207 DESIGN CHOICE, unsafe] -/
def Round.stepOf (r : Round) (d : Dev) (job : Nat) (v : View) (i : Nat) (m : Member) : Round :=
  let r1 := if m.who.host then r else r.modFuture m.who.id (fun f => { f with step := f.step + 1 })
  let r2 := match r1.stream? d job m.who with
    | some s => r1.putStream { s with
        step := m.step, rnCnt := if r.fresh.contains i || r.renorm.contains i then 0 else s.rnCnt + 1 }
    | none => r1
  if !m.who.host then r2
  else match r.chunkOfToken m.who.id r.step with
    | none => r2
    | some t => { r2 with chunks := r2.chunks.map (fun c =>
        if c.tag = t then { c with out := padTo 128 c.out ++ v.outputFrame i } else c) }

/-- A step ends: retirements, counters, outputs. -/
def State.endStep (s : State) (job : Nat) : State :=
  match s.dev.round? job with
  | none => s
  | some (j, r) =>
    let v := s.view j r
    let r1 := r.members.zipIdx.foldl (fun acc m => acc.stepOf s.dev job v m.2 m.1) r
    let r2 := (j.prog.ops.filter (fun o => o.cls == 2 && o.active r.phase && o.retire != 0)).foldl (fun acc o =>
      (r.members.filter (fun m => !m.who.host)).foldl (fun a m => a.retire s.dev m.who.id o.attLayer o.retire) acc) r1
    s.withDev (s.dev.modRound job (fun _ => { r2 with
      members := [], inStep := false, insts := [], fresh := [], renorm := [], step := r2.step + 1 }))

/-! ### Forks (R26, R29, R31, R147, R150) -/

/-- The code R31 refuses a FORK with; none when it applies.
[notes/assumptions 26 DEDUCED, unsafe] -/
def Round.forkRefusal (r : Round) (d : Dev) (j : Job) (f : ForkIn) : Option Code :=
  let live (id : Nat) : Bool := r.futures.any (fun x => x.id == id)
  let ids := f.children.map ChildEntry.child
  if f.children.any (fun c => !live c.parent) || f.prunes.any (fun p => !live p) ||
      ids.any (fun c => (live c && !f.prunes.contains c) || (d.hostEntry j.id c).isSome) ||
      ids.eraseDups.length != ids.length || f.prunes.eraseDups.length != f.prunes.length then some .rejectedFormat
  else if f.prunes.any (fun p => r.futures.any (fun x => x.id == p && x.observed)) then some .rejectedFormat
  else if j.batch.fMax < r.futures.length - f.prunes.length + ids.length then some .noRoom
  else if j.batch.forkBudget < r.childrenApplied + ids.length then some .notSchedulable
  else none

/-- Lowest tensor slot that no member of a round uses. -/
def Round.freeSlot (r : Round) (d : Dev) (j : Job) : Nat :=
  let used := r.gone ++ r.futures.map Future.slot ++ (d.hostStreams j.id).map (fun s => s.2.slot)
  ((List.range (used.length + 1)).find? (fun n => !used.contains n)).getD used.length

/-- The staged bytes a child's slices of CARRY and OUTPUT tensors start with: those of its parent (R26).
[notes/assumptions 90 DEDUCED, unsafe] -/
def View.childCells (v : View) (from' dest : Nat) : List Host.Cell :=
  (v.prog.tensors.zip v.homes).flatMap (fun x =>
    match x.2 with
    | some h =>
      if x.1.perFuture && hasTwoBuffers x.1.cls then
        let w := h.staged true
        cellsAt (w + dest * x.1.sliceStride)
          (v.tensorBytes false (w + from' * x.1.sliceStride) (h.committed + from' * x.1.sliceStride) x.1.sliceStride)
      else []
    | none => [])

/-- A page copied at a fork, for the batch before the next step; a poisoned one fails its child (R150, R167, R290). -/
def Eff.forkCopy (e : Eff) (m : Mem) (j : Job) (f : PageFrame) : Option (Nat × Eff) :=
  if m.rangePoisoned f.address (f.lines * 128) then none
  else (e.copyPage j.id j.part f.stack f).map (fun x =>
    (x.1, (x.2.readLines m j.id [{ addr := f.address, bytes := f.lines * 128 }]).mod (fun d => d.modRound j.id (fun y =>
      { y with forkCopies := y.forkCopies ++ [x.1] }))))

/-- The code a copy at a fork that cannot be made ends its child with. -/
def Mem.forkCode (m : Mem) (f : PageFrame) : Code :=
  if m.rangePoisoned f.address (f.lines * 128) then .linePoisoned else .noRoom

/-- The pages of one layer shared with a child, a page with a saturated count being copied (R147, R150). -/
def Eff.shareList (e : Eff) (m : Mem) (j : Job) (layer : Nat) (who : PartId) : List Nat → Eff × List Nat
  | [] => (e, [])
  | n :: ns =>
    match e.dev.round? j.id with
    | none => (e, [])
    | some (_, r) =>
      let f := r.page e.dev n
      if f.ref < 65535 then
        let rest := Eff.shareList (e.mod (fun d => d.modRound j.id (fun y => y.countPage d n (· + 1)))) m j layer who ns
        (rest.1, n :: rest.2)
      else
        match e.forkCopy m j f with
        | some (c, e1) =>
          let rest := Eff.shareList e1 m j layer who ns
          (rest.1, c :: rest.2)
        | none =>
          let rest := Eff.shareList (e.failPart j.id (some who) (m.forkCode f) (f.stack / 2)) m j layer who ns
          (rest.1, n :: rest.2)

/-- The page lists of a child. -/
def Eff.shareKv (e : Eff) (m : Mem) (j : Job) (who : PartId) (l : List KvList) : Eff × List KvList :=
  l.zipIdx.foldl (fun acc x =>
    let r := acc.1.shareList m j x.2 who x.1.pages
    (r.1, acc.2 ++ [{ x.1 with pages := r.2 }])) (e, [])

/-- One child made: its parent as it stood before the command, its slot, its pages and its stream.
[notes/assumptions 90 DEDUCED, unsafe] -/
def Eff.makeChild (e : Eff) (j : Job) (v : View) (parent : Future) (ps : Option (StreamEntry × List Nat))
    (c : ChildEntry) : Eff :=
  match e.dev.round? j.id with
  | none => e
  | some (_, r) =>
    let slot := r.freeSlot e.dev j
    let who : PartId := ⟨false, c.child⟩
    let kv := e.shareKv v.mem j who parent.kv
    let f : Future :=
      { id := c.child, seed := c.seed.getD parent.seed, step := parent.step, observed := false, slot := slot, kv := kv.2 }
    let e1 := kv.1.mod (fun d => d.modRound j.id (fun y =>
      { y with
        futures := y.futures ++ [f], forked := y.forked ++ [f], childrenApplied := y.childrenApplied + 1 }))
    let cells := v.childCells parent.slot slot
    let e2 := e1.mod (fun d => (d.stageCells j.id cells).modRound j.id (fun y =>
      { y with forkCells := tset y.forkCells c.child cells }))
    match ps with
    | none => e2
    | some (s, objs) =>
      let own := if s.dir.isSome then e2.needDir j none else none
      let no := own.map Prod.fst
      let e3 := if s.dir.isSome && own.isNone then e2.failPart j.id (some who) .noRoom (j.recHomes.headD 0 / 2)
        else (own.map Prod.snd).getD e2
      let st : StreamEntry :=
        { s with
          id := c.child, seed := f.seed, slot := slot, dir := no, pause := false, ended := false, savePend := false
          detach := false }
      e3.mod (fun d => d.modRound j.id (fun y =>
        let y1 := y.putStream st
        { y1 with
          dirs := match no with
            | some n => tset y1.dirs n objs
            | none => y1.dirs
          forkedStreams := y1.forkedStreams ++ [st]
          forkDirs := match no with
            | some n => tset y1.forkDirs n objs
            | none => y1.forkDirs }))

/-- The prunes of a command (R29, R147). -/
def Round.prune (r : Round) (d : Dev) (ids : List Nat) : Round :=
  ids.foldl (fun acc id =>
    match acc.futures.find? (fun f => f.id == id) with
    | none => acc
    | some f =>
      let a := (f.kv.flatMap KvList.pages).foldl (fun b n => b.countPage d n (· - 1)) acc
      { a with
        futures := a.futures.filter (fun x => x.id != id)
        streams := a.streams.filter (fun s => s.host || s.id != id)
        forked := a.forked.filter (fun x => x.id != id) }) r

/-- One FORK applied or refused at step 3 of a round. Under PARTIAL_OK a child of a parent whose own part failed in step 2
takes the staged state of that part.
[notes/assumptions 26 DEDUCED, unsafe; 172 DESIGN CHOICE, unsafe] -/
def State.applyFork (s : State) (job : Nat) (f : ForkIn) : State :=
  match s.dev.round? job with
  | none => s
  | some (j, r) =>
    match r.forkRefusal s.dev j f with
    | some c => s.withDev (s.dev.completeTag j.part f.tag c)
    | none =>
      let v := s.view j r
      let streamOf (id : Nat) : Option (StreamEntry × List Nat) :=
        (r.stream? s.dev job ⟨false, id⟩).map (fun x => (x, r.directory s.dev x))
      let e := s.dev.eff.mod (fun d => d.modRound job (fun y =>
        { (y.prune d f.prunes) with forks := y.forks ++
          [{ tag := f.tag, seq := f.seq, opcode := 0x20, posted := false, who := none }] }))
      s.apply (f.children.foldl (fun acc c =>
        match r.futures.find? (fun x => x.id == c.parent) with
        | some p => acc.makeChild j v p (streamOf c.parent) c
        | none => acc) e)

/-- Does one sequence number precede another of the same ring, as numbers modulo 2^32 (R347)? -/
def seqBefore (a b : Nat) : Bool := a != b && decide ((b + 2 ^ 32 - a) % 2 ^ 32 < 2 ^ 31)

/-- The first FORKs that wait for a job, in sequence order (R25). -/
def Job.forksInOrder (j : Job) (n : Nat) : List ForkIn :=
  sortBy (fun (a b : ForkIn) => seqBefore a.seq b.seq || (a.seq == b.seq && a.urgent && !b.urgent)) (j.forksIn.take n)

/-- The FORKs of a round applied in sequence order (R25 step 3); the imagined phase follows. -/
def State.applyForks (s : State) (job : Nat) : State :=
  match s.dev.round? job with
  | none => s
  | some (j, r) =>
    let fs := j.forksInOrder r.forkCount
    let s1 := s.withDev (s.dev.modJob job (fun y => { y with forksIn := y.forksIn.drop r.forkCount }))
    let s2 := fs.foldl (fun acc f => acc.applyFork job f) s1
    s2.withDev (s2.dev.modRound job (fun y => { y with phase := .imagined, step := 0 }))

/-! ### Starting operators (R235, R238) -/

/-- The job's grant and homes as a bound environment. -/
def Dev.envOf (d : Dev) (j : Job) : BoundEnv :=
  d.boundEnv j ((tget d.images j.imageNo).getD noImage) j.grant j.homes j.kvHomes j.recHomes

/-- The first waiting instance that may start (R238).
[notes/assumptions 101 DEDUCED, unsafe] -/
def Dev.startable (d : Dev) (j : Job) (r : Round) : Option Inst :=
  let p := j.prog
  let e := d.envOf j
  let nb := phaseBatch p j.batch r.phase
  r.insts.find? (fun x =>
    decide (x.state = .waiting) &&
      !(r.insts.any (fun y => decide (y.state ≠ .done) &&
        ((p.preds (p.op x.op)).contains y.op || (decide (y.op < x.op) && sharesUnit p e r.phase nb (p.op y.op) (p.op x.op))))))

/-- The cells an instance's counters are laid over (R242): those of the round in service; a best-effort round
without any keeps one counter in its home region.
[notes/assumptions 102 DEDUCED, unsafe] -/
def Round.counterCells (r : Round) (d : Dev) (j : Job) : List Nat :=
  let up := r.cells.filter d.cellUp
  if up.isEmpty && !j.batch.guaranteed then [j.grant.home % 6 * 64] else up

/-- The tiles of an instance at its present stage. -/
def Inst.tiles (x : Inst) (p : Program) (ph : Phase) (nb : Nat) : List Tile :=
  let o := p.op x.op
  stageTiles p o ph nb x.counts (o.stages.getD x.stage .finish)

/-- The slices of a MATMUL on engines (R121, R122, R135): by problem, range of K, stack and engine. -/
def matmulSlices (e : BoundEnv) (p : Program) (o : OpDesc) (enginesOf : Nat → List Nat) (probs : List IProb) : List Slice :=
  let ref := ((p.tensor? o.srcW).map Tensor.ref).getD 0
  let d0 := max (((p.tensor? o.srcW).map Tensor.d0).getD 1) 1
  let all := probs.zipIdx.flatMap (fun q =>
    if q.1.rows = 0 then []
    else (List.range 12).flatMap (fun k =>
      let sp := stackSpan (e.slices.getD ref []) k (q.1.offW / d0) q.1.n
      (engineShares sp.1 sp.2 (enginesOf k)).flatMap (fun g =>
        let cs := rangeCycles (e.channels.getD k 32) o q.1.rows q.1.k g.2.2
        cs.zipIdx.map (fun c =>
          ({ item := 0, stack := k, engine := g.1, prob := q.2, col0 := g.2.1 - q.1.offW / d0, cols := g.2.2
             range := c.2, writes := decide (c.2 + 1 = cs.length), cost := c.1 } : Slice)))))
  all.zipIdx.map (fun x => { x.1 with item := x.2 })

/-- The work items of decode attention on engines (R132): head by chunk for each member. -/
def attnSlices (v : View) (p : Program) (o : OpDesc) (h : KvHome) (enginesOf : Nat → List Nat) (probs : List IProb) :
    List Slice :=
  let a := p.att.getD o.attLayer (AttLayer.ofNat 0)
  let all := probs.zipIdx.flatMap (fun q =>
    let pages := (v.kvList (q.1.memberOf 0) o.attLayer).pages.length
    let nc := ceilDiv pages (max a.cP 1)
    (List.range nc).map (fun c =>
      let k := pageStack h a (c * a.cP)
      let es := enginesOf k
      ({ item := 0, stack := k, engine := es.getD ((q.1.head * nc + c) % max es.length 1) 0, prob := q.2, col0 := c
         cols := chunkPages pages a.cP c, range := q.1.head * nc + c, writes := false
         cost := itemCycles a.dh a.b q.1.rows a.fmt (chunkPages pages a.cP c)} : Slice)))
  all.zipIdx.map (fun x => { x.1 with item := x.2 })

/-- The slices of a recurrent step on engines (R197): the channels dealt over the engines of the layer's stack. -/
def recSlices (p : Program) (k : Nat) (engines : List Nat) (probs : List IProb) : List Slice :=
  let all := probs.zipIdx.flatMap (fun q =>
    if q.1.rows = 0 then []
    else (engineShares 0 p.hdr.c engines).map (fun g =>
      ({ item := 0, stack := k, engine := g.1, prob := q.2, col0 := g.2.1, cols := g.2.2, writes := false
         cost := recOpCycles p q.1.rows g.2.2} : Slice)))
  all.zipIdx.map (fun x => { x.1 with item := x.2 })

/-- The slices of an instance on engines. -/
def State.slicesOf (s : State) (j : Job) (r : Round) (x : Inst) : List Slice :=
  let p := j.prog
  let o := p.op x.op
  let probs := instProblems p o r.phase r.members.length x.counts
  match o.cls with
  | 1 => match j.kvHomes[o.attLayer]? with
    | some h => attnSlices (s.view j r) p o h s.dev.stackEngines probs
    | none => []
  | 3 => match j.recHomes[o.recLayer]? with
    | some k => recSlices p k (s.dev.stackEngines k) probs
    | none => []
  | _ => matmulSlices (s.dev.envOf j) p o s.dev.stackEngines probs

/-- Stacks on which an instance needs engines. -/
def State.slicesNeed (s : State) (j : Job) (x : Inst) : List Nat :=
  engineStacks (j.prog.op x.op) j.prog ((tget s.dev.images j.imageNo).getD noImage) j.kvHomes j.recHomes

/-- The parts of a top-k operator (R218, R219); a part with no keys needs no pass.
[notes/assumptions 147 DEDUCED, unsafe] -/
def State.sortParts (s : State) (j : Job) (r : Round) (x : Inst) : List SortPart :=
  let o := j.prog.op x.op
  let regions := if j.batch.guaranteed then (j.grant.sorters.filter (fun g =>
      !(s.dev.region g).outOfService && !(s.dev.region g).sorter.fenced)).take (max o.regions 1)
    else s.dev.sortRegions j.part r.cells (max o.regions 1)
  let n := (s.view j r).sortKeys o
  (sortBy (fun a b => decide (a < b)) regions).zipIdx.map (fun g =>
    let sl := sortSlice n regions.length g.2
    { region := g.1, first := sl.1, count := sl.2, done := sl.2 == 0 })

/-- An instance's tiles or slices at its present stage, all still to do. A fresh phase of the sampling is drawn
(R446). -/
def State.armInst (s : State) (j : Job) (r : Round) (x : Inst) : Inst × Dev :=
  let o := j.prog.op x.op
  let n := max (s.dev.forceAt 0x5000 1) 1
  match x.kind with
  | .cells =>
    let f := s.dev.free
    let c := (x.tiles j.prog r.phase r.members.length).length
    ({ x with left := c, total := c, ranges := tileRanges (r.counterCells s.dev j) c, phi := f.1 % n }, f.2)
  | .cirrus =>
    let f := s.dev.free
    let l := s.slicesOf j r x
    ({ x with left := l.length, total := l.length, slices := l, phi := f.1 % n }, f.2)
  | .sorter =>
    let l := s.sortParts j r x
    ({ x with left := (l.filter (fun p => !p.done)).length + (if 1 < l.length then mergePasses l.length o.kTop else 0),
              total := l.length, sorts := l }, s.dev)
  | _ => (x, s.dev)

/-- The run-time row counts of an operator (R235), with the poisoned lines among them. -/
def View.readCounts (v : View) (o : OpDesc) : Option (List Int) × List Met :=
  match v.prog.tensor? o.count with
  | none => (none, [])
  | some t =>
    (some ((List.range t.elements).map (fun i => extInt (v.elem o.count 0 i))),
     [({ who := none, lines := v.poisonedWhole o.count 0 } : Met)].filter Met.bad)

/-! ### Operators that need no tile or slice (R144, R146, R232, R308) -/

/-- The K and V bytes of one token: element i of the row of a member. -/
def View.kvRow (v : View) (o : OpDesc) (a : AttLayer) (mem tok : Nat) : Bytes :=
  let n := 2 * a.hKv * a.dh
  match v.prog.tensor? o.srcA with
  | none => List.replicate (n * a.b) 0
  | some t =>
    if t.cls != 3 then v.rawOperand o.srcA mem (tok * n * a.b) (n * a.b)
    else match (v.member mem).frame with
      | some bs => slice bs (frameOffset v.prog o.srcA + tok * t.rowPitch) (n * a.b)
      | none => (List.range n).flatMap (fun i =>
          toLe a.b (v.inputCode o.srcA t (v.member mem) (tok * t.d0 + i)).1)

/-- The cells of one token in slot `t` of a page: K of every head, then V (R139). -/
def tokenCells (a : AttLayer) (base t : Nat) (row : Bytes) : List Host.Cell :=
  (List.range a.hKv).flatMap (fun h => (List.range a.dh).flatMap (fun i =>
    let hb := base + h * (32 * a.dh * a.b)
    cellsAt (hb + t * a.dh * a.b + i * a.b) (slice row ((h * a.dh + i) * a.b) a.b) ++
      cellsAt (hb + 16 * a.dh * a.b + i * 16 * a.b + t * a.b) (slice row (((a.hKv + h) * a.dh + i) * a.b) a.b)))

/-- One token appended to a future's list in a layer (R141, R144, R153). -/
def Eff.appendToken (e : Eff) (m : Mem) (j : Job) (layer id : Nat) (row : Bytes) : Eff :=
  match e.dev.round? j.id, j.kvHomes[layer]?, j.prog.att[layer]? with
  | some (_, r), some h, some a =>
    match r.futures.find? (fun f => f.id == id) with
    | none => e
    | some f =>
      let l := f.kv.getD layer {}
      let who : PartId := ⟨false, id⟩
      let tail := l.pages.getLast?
      let full := tail.all (fun n => decide (16 ≤ (r.page e.dev n).fill))
      let page? : Option (Nat × Eff) :=
        if !full then tail.map (fun n => (n, e))
        else
          let k := pageStack h a l.pages.length
          (e.newPage j.id j.part k a.pageLines 0).map (fun x => (x.1, x.2.mod (fun d => d.modRound j.id (fun y =>
            y.modFuture id (fun z => z.setKv layer (fun w => { w with pages := w.pages ++ [x.1] }))))))
      match page? with
      | none => e.failPart j.id (some who) .noRoom (pageStack h a l.pages.length / 2)
      | some (n, e1) =>
        match e1.dev.round? j.id with
        | none => e1
        | some (_, r1) =>
          let p := r1.page e1.dev n
          if m.rangePoisoned p.address (p.lines * 128) && !full then e1.failPart j.id (some who) .linePoisoned (p.stack / 2)
          else ((e1.mergeLines m j.id (tokenCells a p.address p.fill row)).mod (fun d => (d.regulateLines j
              (((tokenCells a p.address p.fill row).map (fun c => c.1 / 128)).eraseDups)).modRound j.id (fun y =>
              (y.putFrame n { p with fill := p.fill + 1 }).modFuture id (fun z =>
                z.setKv layer (fun w => { w with win := w.win + 1 }))))).ops
            [.cells (tokenCells a p.address p.fill row)]
  | _, _, _ => e

/-- KV_APPEND for every future of the step (R144, R146).
[notes/assumptions 93 DEDUCED, unsafe] -/
def State.kvAppend (s : State) (j : Job) (r : Round) (o : OpDesc) : Eff :=
  let v := s.view j r
  let a := j.prog.att.getD o.attLayer (AttLayer.ofNat 0)
  r.members.zipIdx.foldl (fun acc m =>
    if m.1.who.host then acc
    else
      let q : IProb := { rows := o.m, k := 0, n := 0, offA := 0, offW := 0, offD := 0, member := some m.2, rpm := 0 }
      let met := v.metAll o.srcA q
      let acc1 := (acc.readLines s.mem j.id (v.reachAll o.srcA q)).mod (fun d => d.modRound j.id (fun y =>
        y.failMet s.mem d.repairs d.now (pageStack (j.kvHomes.getD o.attLayer { homeStacks := [0] }) a 0 / 2)
          (met.filter Met.bad)))
      if a.lMax < (v.kvList m.2 o.attLayer).win + o.m then acc1.failPart j.id (some m.1.who) .noRoom 6
      else (List.range o.m).foldl (fun b t => b.appendToken s.mem j o.attLayer m.1.who.id (v.kvRow o a m.2 t)) acc1)
    s.dev.eff

/-- ATOMIC over the members of the step (R308, R309). -/
def State.atomicOp (s : State) (j : Job) (r : Round) (o : OpDesc) (x : Inst) : Eff :=
  let v := s.view j r
  let q : IProb := { rows := o.m, k := 0, n := 0, offA := 0, offW := 0, offD := 0, member := none, rpm := 0 }
  let met := (v.metAll o.srcA q ++ v.metAll o.src2 q ++ v.metAll o.dst q).filter Met.bad
  let w := v.atomics o (x.probs j.prog r.phase r.members.length)
  let cells := (w.stage.take (w.stage.length - v.stage.length)).reverse
  (s.dev.modRound j.id (fun y => y.failMet s.mem s.dev.repairs s.dev.now (j.grant.home % 6) met)).eff.mergeLines s.mem j.id cells |>.mod (fun d => d.stageCells j.id cells)

/-! ### What an operator writes when it completes -/

/-- Bytes of a list of cells that some items got wrong. -/
def flipCells (cs : List Host.Cell) (wrong : List (Nat × Byte)) : List Host.Cell :=
  if wrong.isEmpty then cs
  else cs.zipIdx.map (fun c => (c.1.1, (wrong.filter (fun w => w.1 == c.2)).foldl (fun v w => v ^^^ w.2) c.1.2))

/-- What the standing execution of an item got wrong.
[notes/assumptions 95 DEDUCED, unsafe] -/
def Inst.wrongOf (x : Inst) (item : Nat) : List (Nat × Byte) := tgetD x.flips item []

/-- A member's new state object of a layer: over its private one, whose lines it has read and so does not clear of poison (R290), or in an object of its own (R28, R178). -/
def Eff.putState (e : Eff) (j : Job) (layer : Nat) (who : PartId) (bs : Bytes) : Eff :=
  match e.dev.round? j.id with
  | none => e
  | some (_, r) =>
    match r.stream? e.dev j.id who with
    | none => e
    | some s =>
      let dir := r.directory e.dev s
      let old := dir.getD layer 0
      let holders := (r.dirs.filter (fun x => x.2.contains old)).length + (r.forkDirs.filter (fun x => x.2.contains old)).length
      let o := e.dev.obj old
      if r.newObjs.contains old && decide (holders ≤ 1) then
        (e.ops [.write (stackAddr o.stack o.addr) bs])
      else
        let stack := if o.loc = .resident then o.stack else j.recHomes.getD layer 0
        match e.newObj j.part stack bs with
        | none => e.failPart j.id (some who) .noRoom (stack / 2)
        | some (n, e1) => e1.mod (fun d => d.modRound j.id (fun y =>
            { y with
              newObjs := y.newObjs ++ [n]
              dirs := match s.dir with
                | some k => tset y.dirs k (dir.set layer n)
                | none => y.dirs }))

/-- The rows and states a recurrent operator writes (R172, R178).
[notes/assumptions 94 DEDUCED, unsafe] -/
def State.recWrites (s : State) (j : Job) (r : Round) (x : Inst) : Eff :=
  let v := s.view j r
  let o := j.prog.op x.op
  let probs := instProblems j.prog o r.phase r.members.length x.counts
  let wrong := x.flips.flatMap Prod.snd
  probs.foldl (fun acc q =>
    (List.range q.rows).foldl (fun a row =>
      let mem := q.memberOf row
      let w := v.recStep o x.op q row (r.renorm.contains mem)
      (a.writeOut s.mem j.id (flipCells w.1 wrong)).putState j o.recLayer (v.member mem).who w.2) acc) s.dev.eff

/-- The rows of decode attention on engines (R132): each chunk's partial as its item left it.
[notes/assumptions 94 DEDUCED, unsafe] -/
def State.attnWrites (s : State) (j : Job) (r : Round) (x : Inst) : List Host.Cell :=
  let v := s.view j r
  let o := j.prog.op x.op
  let probs := instProblems j.prog o r.phase r.members.length x.counts
  probs.zipIdx.flatMap (fun q =>
    let flips (c : Nat) : List (Nat × Byte) :=
      match x.slices.find? (fun sl => sl.prob == q.2 && sl.col0 == c) with
      | some sl => x.wrongOf sl.item
      | none => []
    (List.range q.1.rows).flatMap (fun row => v.attRow o x.op false q.1 row (q.1.rows - 1) flips))

/-- The rows of a convolution in several stages (R211, R213).
[notes/assumptions 94 DEDUCED, unsafe] -/
def State.convWrites (s : State) (j : Job) (r : Round) (x : Inst) : List Host.Cell :=
  let v := s.view j r
  let o := j.prog.op x.op
  let probs := instProblems j.prog o r.phase r.members.length x.counts
  flipCells (probs.flatMap (fun q => (List.range q.rows).flatMap (fun row => v.convRow o x.op q row 0 q.n)))
    (x.flips.flatMap Prod.snd)

/-- The result of a top-k operator: its entries in rank order (R218 to R221). -/
def State.sortWrites (s : State) (j : Job) (r : Round) (x : Inst) : List Host.Cell :=
  let v := s.view j r
  let o := j.prog.op x.op
  match x.sorts with
  | [] => []
  | p :: _ => v.writeRaw o.dst (topkBytes o.kTop (v.sortKeys o) p.held)

/-- What an instance writes at its completion, over what its tiles and slices have written before.
[notes/assumptions 94 DEDUCED, unsafe] -/
def State.finalWrites (s : State) (j : Job) (r : Round) (x : Inst) : Eff :=
  let o := j.prog.op x.op
  match x.kind, o.cls with
  | .append, _ => s.kvAppend j r o
  | .atomic, _ => s.atomicOp j r o x
  | .sorter, _ => s.dev.eff.writeOut s.mem j.id (s.sortWrites j r x)
  | _, 3 => s.recWrites j r x
  | .cirrus, 1 => s.dev.eff.writeOut s.mem j.id (s.attnWrites j r x)
  | .cells, 4 => if 1 < o.stages.length then s.dev.eff.writeOut s.mem j.id (s.convWrites j r x) else s.dev.eff
  | _, _ => s.dev.eff

/-! ### Barriers (R238, R251, R305, R454) -/

/-- The time of a unit's last passed pattern, no earlier than the start's. -/
def Dev.lastPass (d : Dev) (c : Nat) : Tns :=
  max (if c < 384 then d.cell c else d.engine (c - 384)).lastPass d.start.patternsAt

/-- Has a unit gone 10 ms without a passed pattern? -/
def Dev.patternDue (d : Dev) (c : Nat) : Bool := decide (d.lastPass c + 10000000 ≤ d.now)

/-- Is a unit free for a pattern? -/
def Dev.patternFree (d : Dev) (c : Nat) : Bool :=
  d.codeUp c && (if c < 384 then d.cell c else d.engine (c - 384)).held.isNone

/-- The periodic patterns of a round's cells at an operator barrier: together, once one is due. -/
def Dev.periodicPatterns (d : Dev) (r : Round) : Dev :=
  let l := r.cells.filter (fun n => d.patternFree n)
  if l.any d.patternDue then l.foldl Dev.startPattern d else d

/-- The time an operator instance takes by its job's admitted schedule, in ns (R252, R269). -/
def Dev.scheduledNs (d : Dev) (j : Job) (r : Round) (x : Inst) : Nat :=
  let c := (opCost j.prog (d.envOf j) (j.prog.op x.op) r.phase (phaseBatch j.prog j.batch r.phase)).1
  ({ c with cc := 0 } : Counts).ps d.ageing.clock / 1000 + d.cyclesNs x.started c.cc

/-- What a fence has delayed an instance that completes now beyond its schedule, other stalls of the round taken off
(R269).
[notes/assumptions 145 DEDUCED, unsafe] -/
def Dev.fenceDelay (d : Dev) (j : Job) (r : Round) (x : Inst) : Dev :=
  if !r.fenced then d
  else d.stall j.id .fenceReissue (d.now - x.started - d.scheduledNs j r x - (sumNat r.stalls - x.stalled))

/-- An instance that has completed: its result, the barrier's flush of its destination, the patterns due. -/
def State.completeInst (s : State) (j : Job) (r : Round) (x : Inst) : State :=
  let s1 := s.apply (s.finalWrites j r x)
  let o := j.prog.op x.op
  let s2 := s1.apply (s1.dev.eff.flushWhere s1.mem (fun w =>
    w.jobs.contains j.id && homeHolds ((j.homes[o.dst]?).join) w.line))
  let d := (s2.dev.modRound j.id (fun y => y.modInst x.op (fun z => { z with state := .done }))).fenceDelay j r x
  s2.withDev (if x.kind = .cells then d.periodicPatterns r else d)

/-- An instance settled once nothing of its stage is left: the next stage armed, or the instance complete. -/
def State.settleInst : Nat → State → Nat → Nat → State
  | 0, s, _, _ => s
  | fuel + 1, s, job, op =>
    match s.dev.round? job with
    | none => s
    | some (j, r) =>
      match r.insts.find? (fun x => x.op == op) with
      | none => s
      | some x =>
        if x.state ≠ .running || x.left != 0 || !x.votes.isEmpty || r.doomed j.batch then s
        else if x.kind = .cells && x.stage + 1 < (j.prog.op op).stages.length then
          let a := s.armInst j r { x with stage := x.stage + 1, ranges := [] }
          State.settleInst fuel (s.withDev (a.2.modRound job (fun y => y.modInst op (fun _ => a.1)))) job op
        else s.completeInst j r x

/-- Fuel that covers every stage of an operator. -/
def OpDesc.fuel (o : OpDesc) : Nat := o.stages.length + 2

/-- An instance starts: its row counts are read, its tiles or slices dealt; without a unit of its kind it ends
FENCED_CAPACITY (R254, R136, R223). -/
def State.startInst (s : State) (job op : Nat) : State :=
  match s.dev.round? job with
  | none => s
  | some (j, r) =>
    match r.insts.find? (fun x => x.op == op) with
    | none => s
    | some x =>
      let o := j.prog.op op
      let c := if o.count = 0xFFFF then (none, []) else (s.view j r).readCounts o
      let a := s.armInst j r
        { x with state := .running, started := s.dev.now, stalled := sumNat r.stalls, counts := c.1 }
      let y := a.1
      let noUnit := match y.kind with
        | .cells => y.left != 0 && y.ranges.isEmpty
        | .cirrus => (y.probs j.prog r.phase r.members.length).any (fun q => q.rows != 0) && (s.slicesNeed j y).any (fun k => (s.dev.stackEngines k).isEmpty)
        | .sorter => y.sorts.isEmpty
        | _ => false
      let d := a.2.modRound job (fun z =>
        let z1 := (z.modInst op (fun _ => y)).failMet s.mem s.dev.repairs s.dev.now (j.grant.home % 6) c.2
        if noUnit then z1.fail none .fencedCapacity s.dev.now (j.grant.home % 6) else z1)
      State.settleInst o.fuel (s.withDev d) job op

/-! ### The end of a round's work (R305, R454) -/

/-- The units whose closing patterns a round waits for: cells that ran its tiles, engines of its windows. -/
def Dev.closers (d : Dev) (j : Job) (r : Round) : List Nat :=
  (r.ran.filter d.cellUp) ++
    (if j.batch.guaranteed then j.grant.windows.flatMap (fun w =>
      if r.obsSteps = 0 && !j.imagines then []
      else ((List.range 16).map (fun e => w.stack * 16 + e)).filter d.engineUp |>.map (· + 384)) else [])

/-- A closing pattern starts on a unit that holds no work; another unit starts it when its work ends. -/
def Dev.startClosing (d : Dev) (c : Nat) : Dev := if d.patternFree c then d.startPattern c else d

/-- Does a round keep bytes in a write-combining entry whose line's channel retrains? It is not ready before the flush (R305,
R306). -/
def Dev.flushWaits (d : Dev) (job : Nat) : Bool :=
  d.regions.any (fun r => r.2.wcb.any (fun w => w.jobs.contains job && d.retrains w.line))

/-- A round has done its work: its combined bytes are flushed and its closing patterns start; without any it is
ready. -/
def State.endRound (s : State) (job : Nat) : State :=
  let s1 := s.apply ((s.dev.eff.flushWhere s.mem (fun w => w.jobs.contains job)).mod (fun d => d.dropAct job))
  match s1.dev.round? job with
  | none => s1
  | some (j, r) =>
    let l := (s1.dev.closers j r).eraseDups
    let d := s1.dev.modRound job (fun y =>
      if l.isEmpty then { y with ready := true, readyAt := s1.dev.now } else { y with closing := l })
    s1.withDev (l.foldl Dev.startClosing d)

/-! ### A round goes on -/

/-- One action of a round: an operator starts, a step ends or begins, the forks apply, the work ends. Every step of S_o and of S
runs, members or not (R226). -/
def State.roundAction (s : State) (j : Job) (r : Round) : Option State :=
  if !r.working j.batch || s.dev.copyWaits j then none
  else if r.inStep then
    match s.dev.startable j r with
    | some x => some (s.startInst j.id x.op)
    | none => if r.insts.all (fun x => decide (x.state = .done)) then some (s.endStep j.id) else none
  else match r.phase with
    | .observed =>
      if r.step < r.obsSteps then (if r.waitsRecall s.dev j.id then none else some (s.beginStep j.id))
      else some (s.applyForks j.id)
    | .imagined =>
      if r.step < j.prog.hdr.s && j.imagines then some (s.beginStep j.id)
      else if s.dev.flushWaits j.id then none else some (s.endRound j.id)

/-- A round goes on as far as it can. -/
def State.advanceRound : Nat → State → Nat → State
  | 0, s, _ => s
  | fuel + 1, s, job =>
    match s.dev.round? job with
    | none => s
    | some (j, r) =>
      match s.roundAction j r with
      | some s1 => State.advanceRound fuel s1 job
      | none => s

/-- Actions a round can take in all. -/
def Round.fuel (r : Round) (p : Program) : Nat := (r.obsSteps + p.hdr.s + 3) * (p.ops.length + 3)

/-- A job's round goes on as far as it can. -/
def State.runJob (s : State) (job : Nat) : State :=
  match s.dev.round? job with
  | none => s
  | some (j, r) => State.advanceRound (r.fuel j.prog) s job

/-- Every round goes on as far as it can, in ascending job. -/
def State.runRounds (s : State) : State := (s.dev.liveJobs.map Job.id).foldl State.runJob s

end Sys2Proof.Machine
end

