-- ==== Sys2Proof/Machine/UnitParts.lean ====
section
/-!
DEFINITION. The program-visible parts of a cell and of an engine while they run an item (R69, R75, R77, R78, R81, R84, R93, R94,
R116, R122): the stationary images of a tile, the rows each of its stages writes, and what a unit holds once an item has started
and once it has ended.
-/

namespace Sys2Proof.Machine

/-! ### Stationary images (R75, R84) -/

/-- A stationary image from its codes and scale bytes, padded to the full size of its format (R75).
[notes/assumptions 177 DESIGN CHOICE, unsafe] -/
def packImage (fmt kp : Nat) (code scale : Nat → Nat → Nat) : Bytes :=
  let codes := (List.range 64).flatMap (fun n => (List.range kp).map (fun k => code k n))
  let scales := if fmtIsMx fmt then
      (List.range 64).flatMap (fun n => (List.range (kp / 32)).map (fun b => BitVec.ofNat 8 (scale b n)))
    else []
  let bs := packElements fmt codes ++ scales
  bs ++ List.replicate (imageBytes fmt - bs.length) 0

/-- The image of pass `pass` of the chunk of 64 columns from `col0` of a MATMUL problem. -/
def View.matmulImage (v : View) (o : OpDesc) (q : IProb) (col0 cols pass : Nat) : Bytes :=
  match v.prog.tensor? o.srcW with
  | none => []
  | some t =>
    let kp := (arrayDepth o.fmtA o.fmtW).getD 128
    let at' (k n : Nat) : Nat × Nat :=
      if n < cols ∧ pass * kp + k < q.k then v.weightCode t (q.offW + (col0 + n) * t.d0 + pass * kp + k) else (0, 0)
    packImage o.fmtW kp (fun k n => (at' k n).1) (fun b n => (at' (32 * b) n).2)

/-- Score passes of a key block and value operations, by head dimension (R158). -/
def scorePasses (o : OpDesc) (a : AttLayer) : Nat := ceilDiv a.dh ((arrayDepth o.fmtA a.fmt).getD 128)

/-- Image `n` of an attention tile: for each key block its K passes, then its V columns, 64 at a time (R157, R159). -/
def View.attImage (v : View) (o : OpDesc) (q : IProb) (n : Nat) : Bytes :=
  let a := v.prog.att.getD o.attLayer (AttLayer.ofNat 0)
  let ps := scorePasses o a
  let per := max (ps + a.dh / 64) 1
  let kp := (arrayDepth o.fmtA a.fmt).getD 128
  let l := v.kvList (q.memberOf 0) o.attLayer
  let code (isV : Bool) (pos i : Nat) : Nat :=
    match l.pages[pos / 16]? with
    | some page => v.kvCode a page q.head isV (pos % 16) i
    | none => 0
  let j := n / per
  let m := n % per
  if m < ps then packImage a.fmt kp (fun k c => if m * kp + k < a.dh then code false (64 * j + c) (m * kp + k) else 0) (fun _ _ => 0)
  else packImage a.fmt kp (fun k c => if k < 64 then code true (64 * j + k) (64 * (m - ps) + c) else 0) (fun _ _ => 0)

/-- Image `n` of a frequency stage other than P: twiddles in BF16, `n` the chunk of 64 columns (R211). -/
def freqImage (stage n : Nat) : Bytes :=
  packImage 1 64 (fun k c => fmtBF16.encode (freqTable stage k (64 * n + c))) (fun _ _ => 0)

/-- Key blocks of a tile of attention rows (R158). -/
def View.tileBlocks (v : View) (o : OpDesc) (q : IProb) (t : Tile) : Nat :=
  queryPos o (v.kvList (q.memberOf 0) o.attLayer) (t.row0 + t.rows - 1) / 64 + 1

/-- Stationary images a cell tile fills, one per operation (R84, R160, R206, R208, R212); none of an operator that does not run
on the array. -/
def View.imageCount (v : View) (o : OpDesc) (stage : Nat) (q : IProb) (t : Tile) : Nat :=
  match o.cls with
  | 0 => max (ceilDiv q.k ((arrayDepth o.fmtA o.fmtW).getD 128)) 1 * ceilDiv t.cols 64
  | 1 =>
    let a := v.prog.att.getD o.attLayer (AttLayer.ofNat 0)
    v.tileBlocks o q t * (scorePasses o a + a.dh / 64)
  | 4 =>
    match o.stages.getD stage .finish with
    | .finish => 0
    | .freq s _ _ => ceilDiv q.k 64 * (if s = 3 then ceilDiv t.cols 64 else freqColumns s / 64)
    | st => (stageColumns o q st stage t.prob t.col0 t.cols).2
  | _ => 0

/-- Image `n` of a cell tile, in the order it fills them. -/
def View.tileImage (v : View) (o : OpDesc) (stage : Nat) (q : IProb) (t : Tile) (n : Nat) : Bytes :=
  match o.cls with
  | 0 =>
    let pk := max (ceilDiv q.k ((arrayDepth o.fmtA o.fmtW).getD 128)) 1
    v.matmulImage o q (t.col0 + n / pk * 64) (min 64 (t.cols - n / pk * 64)) (n % pk)
  | 1 => v.attImage o q n
  | 4 =>
    let st := o.stages.getD stage .finish
    match st, v.prog.tensor? o.srcW with
    | .finish, _ | _, none => []
    | .freq s kh kw, some w =>
      if s = 3 then
        v.weightBytes w.ref (imageBase w q.offW + ((stageColumns o q (.freq s kh kw) stage t.prob t.col0 t.cols).1 + n) *
          imageBytes o.fmtW) (imageBytes o.fmtW)
      else freqImage s n
    | _, some w =>
      v.weightBytes w.ref (imageBase w q.offW + ((stageColumns o q st stage t.prob t.col0 t.cols).1 + n) * imageBytes o.fmtW)
        (imageBytes o.fmtW)
  | _ => []

/-- The set that holds image `n` of a tile with `count` images; empty for a number past the last. -/
def View.setOf (v : View) (j op : Nat) (o : OpDesc) (stage : Nat) (q : IProb) (t : Tile) (n : Nat) : Option StationaryImage :=
  if n < v.imageCount o stage q t then some ⟨j, op, n, v.tileImage o stage q t n⟩ else none

/-! ### What a tile's gate pipeline writes, stage by stage (R93, R211, R213) -/

/-- The bytes of some values in a format of the intermediate results: FP32 or BF16. -/
def wordBytes (bf : Bool) (xs : List Ext) : Bytes :=
  xs.flatMap (fun x => if bf then toLe 2 (fmtBF16.encode x) else toLe 4 (toF32 x).toNat)

/-- The piece a stage of a convolution belongs to, and its number within the piece; the number of pieces for the pass after
them. -/
def pieceAt : List (Nat × Nat × Nat × Nat × ConvPath) → Nat → Nat → Nat × Nat
  | [], i, _ => (i, 0)
  | p :: ps, i, s =>
    let n := if p.2.2.2.2 = .frequency then 7 else 1
    if s < n then (i, s) else pieceAt ps (i + 1) (s - n)

/-- The bytes that row `i` of a frequency stage leaves (R211). Rows of stages F1 to F2r and I2i to I1 run over the images, then
the spatial tiles, then the channels, then the rows of one block; those of P over the images, then the spatial tiles.
[notes/assumptions 198 DESIGN CHOICE, unsafe] -/
def View.freqRowBytes (v : View) (o : OpDesc) (opIdx : Nat) (probs : List IProb) (t : Tensor)
    (pc : Nat × Nat × Nat × Nat × ConvPath) (piece stage prob i : Nat) : Bytes :=
  let kh := pc.2.2.1
  let kw := pc.2.2.2.1
  let nt := max (freqTiles o kh kw) 1
  let per := match stage with
    | 0 | 6 => 64
    | 1 => 31
    | 3 => 1
    | _ => 33
  let chans := match stage with
    | 0 | 1 | 2 => max o.k 1
    | 3 => 1
    | _ => max o.n 1
  let y := i % per
  let ch := i / per % chans
  let ti := i / (per * chans) % nt
  match probs[i / (per * chans * nt)]? with
  | none => []
  | some q =>
    let img0 := (v.runningSum o q 0 0 0 piece).2
    let zs := v.freqSpectra o q kh kw pc.1 pc.2.1 ti
    let yr (u : Nat) : List Ext := v.freqYRow q t img0 zs u ch
    let yi (u : Nat) : List Ext := v.freqYRow q t img0 zs u (q.n + ch)
    let g := freqG (v.freqBlock o q kh kw pc.1 pc.2.1 ti ch)
    match stage with
    | 0 => wordBytes true (g.getD y [])
    | 1 => wordBytes false (freqDots 1 (column g (33 + y)))
    | 2 => wordBytes true (freqZ g y)
    | 3 => wordBytes true ((List.range (2 * q.n)).map (fun c => v.freqP q t img0 zs (prob / 64) (prob % 64) c))
    | 4 => wordBytes false (freqDots 4 (yi y))
    | 5 => wordBytes true (freqQ (yr y) (yi y))
    | _ =>
      -- the pixels of this block row that the operator writes
      let tb := max (ceilDiv o.wOut (65 - kw)) 1
      let py := ti / tb * (65 - kh) + (y - (kh - 1))
      if y < kh - 1 ∨ o.hOut ≤ py then []
      else (List.range (65 - kw)).flatMap (fun x =>
        let px := ti % tb * (65 - kw) + x
        if o.wOut ≤ px then []
        else
          let sum := (v.runningSum o q (py * o.wOut + px) ch 1 (piece + 1)).1
          if o.inPieces then wordBytes false sum
          else (v.inStore o.dst (v.outRow o opIdx q (py * o.wOut + px) ch sum)).map Prod.snd)

/-- Does a cell of a row belong to a range of columns: an element byte by the element it begins with, a scale byte
by its block's first column? -/
def View.inColumns (v : View) (h mem lin lo hi : Nat) (a : Nat) : Bool :=
  match v.prog.tensor? h, (v.homes[h]?).join with
  | some t, some hm =>
    let base := hm.staged (hasTwoBuffers t.cls) + (if t.perFuture then (v.member mem).slot * t.sliceStride else 0)
    let row := lin / max t.d0 1
    let col0 := lin % max t.d0 1
    let rowAt := base + row * t.rowPitch
    let scaleAt := base + t.scaleBase + row * t.rowScales
    let col := if fmtHasScale t.fmt && decide (scaleAt ≤ a) && decide (a < scaleAt + t.rowScales) then (a - scaleAt) * 32
      else (a - rowAt) * 8 / max (fmtBits t.fmt) 1
    decide (col0 + lo ≤ col) && (decide (col < col0 + hi))
  | _, _ => false

/-- The bytes of some channels of a recurrent step of one row: the new state's mantissas and exponents, then the outputs
(R172, R174).
[notes/assumptions 186 DEDUCED, unsafe] -/
def View.recBytes (v : View) (o : OpDesc) (opIdx : Nat) (q : IProb) (row col0 cols : Nat) (renorm : Bool) : Bytes :=
  let ns := v.prog.hdr.ns
  let total := v.prog.hdr.c * ns
  let w := v.recStep o opIdx q row renorm
  let lin := q.offD + q.rowOf (v.isPerFuture o.dst) row * ((v.prog.tensor? o.dst).map Tensor.d0).getD 1
  slice w.2 (2 * col0 * ns) (2 * cols * ns) ++ slice w.2 (alignUp (2 * total) 128 + col0 * ns / 32) (ceilDiv (cols * ns) 32) ++
    (v.inStore o.dst (w.1.filter (fun c => v.inColumns o.dst (q.memberOf row) lin col0 (col0 + cols) c.1))).map Prod.snd

/-- The bytes each row of a tile of a cell operator writes whose results go out with its operator: a recurrent tile, or a stage
of a convolution in several (R93, R172, R211, R213).
[notes/assumptions 186 DEDUCED, unsafe] -/
def View.stageRows (v : View) (o : OpDesc) (opIdx stage : Nat) (probs : List IProb) (q : IProb) (t : Tile) (renorm : List Nat) :
    List Bytes :=
  if o.cls = 3 then t.rowList.map (fun r => v.recBytes o opIdx q r t.col0 t.cols (renorm.contains (q.memberOf r)))
  else
    let ps := convPieces o
    let at' := pieceAt ps 0 stage
    match o.stages.getD stage .finish, ps[at'.1]?, v.prog.tensor? o.srcW with
    | .freq s _ _, some pc, some w => t.rowList.map (fun r => v.freqRowBytes o opIdx probs w pc at'.1 s t.prob r)
    | .finish, _, _ => t.rowList.map (fun r => (v.inStore o.dst (v.convRow o opIdx q r t.col0 t.cols)).map Prod.snd)
    | _, _, _ => t.rowList.map (fun r => wordBytes false (v.runningSum o q r t.col0 t.cols (at'.1 + 1)).1)

/-! ### A unit that starts and ends an item -/

/-- The cells of one half of a cell store. -/
def halfOf (upper : Bool) (l : List Host.Cell) : List Host.Cell := l.filter (fun c => decide (0x80000 ≤ c.1) == upper)

/-- Address of the half of the cell store that a tile lies in (R241). -/
def halfBase (upper : Bool) : Nat := if upper then 0x80000 else 0

/-- Bytes as they lie in a unit's store; those that are 0 are not listed. -/
def storedBytes (base : Nat) (bs : Bytes) : List Host.Cell := (cellsAt base bs).filter (fun c => c.2 != 0)

/-- Rows of bytes in a unit's store, at a pitch of whole 128 B (R78). -/
def storedRows (base : Nat) (rows : List Bytes) : List Host.Cell :=
  let pitch := alignUp (maxNat (rows.map List.length)) 128
  rows.zipIdx.flatMap (fun r => storedBytes (base + r.2 * pitch) r.1)

/-- The output rows of a tile at their place in the cell store: the rows of elements, then their scale plane (R103, R241). -/
def View.storedOutput (v : View) (o : OpDesc) (base : Nat) (rows : List (List Host.Cell)) : List Host.Cell :=
  let part (sc : Bool) (r : List Host.Cell) : Bytes := (r.filter (fun c => v.isScale o.dst c.1 == sc)).map Prod.snd
  let els := rows.map (part false)
  storedRows base els ++
    storedBytes (base + rows.length * alignUp (maxNat (els.map List.length)) 128) (rows.flatMap (part true))

/-- What a cell tile brings into the cell store before its first operation: the activation rows, the images of the four slots
of the ring and the PRE vectors (R241). -/
def View.tileStore (v : View) (o : OpDesc) (stage : Nat) (q : IProb) (t : Tile) (upper : Bool) : List Host.Cell :=
  let b := halfBase upper
  v.stored (b + o.csA) (v.operandReach o q t.row0 t.rows) ++
    (List.range (min 4 (v.imageCount o stage q t))).flatMap (fun i =>
      let im := v.tileImage o stage q t i
      storedBytes (b + o.csW + i * alignUp im.length 1024) im) ++
    (if o.vec = 0xFFFF ∨ !o.ownGate (o.stages.getD stage .finish) then []
     else
      let nv := (((v.prog.tensor? o.vec).map Tensor.d0).getD 0) / 2
      let part (from_ : Nat) : Bytes := wordBytes false ((List.range t.cols).map (fun n => v.elem o.vec 0 (from_ + t.col0 + n)))
      storedBytes (b + o.csV) (part 0 ++ part nv))

/-- The row feeder queues primed for a tile's first operation: the codes of up to 32 rows of its activations (R69, R79). -/
def View.primed (v : View) (o : OpDesc) (q : IProb) (t : Tile) : List (List Nat) :=
  if o.cls = 0 then
    let kp := min q.k ((arrayDepth o.fmtA o.fmtW).getD 128)
    (List.range kp).map (fun k => (t.rowList.take 32).map (fun r => (v.code o.srcA (q.memberOf r) (v.operandAt o.srcA q q.offA r k)).1))
  else []

/-- A cell that starts a tile: its operands in its store, the first image in the active set and the next in the idle one, the
queues primed, accumulators invalid, the checksum register at 0. The log says how a tile stands between its claim and its
completion.
[notes/assumptions 13 DESIGN CHOICE, unsafe] -/
def View.beginTile (v : View) (j op : Nat) (o : OpDesc) (stage : Nat) (q : IProb) (t : Tile) (p : UnitParts) : UnitParts :=
  { p with
    store := v.tileStore o stage q t p.upper, feeders := v.primed o q t
    active := v.setOf j op o stage q t 0, idle := v.setOf j op o stage q t 1
    acc := [], work := [], checksum := 0, checksumCopy := 0 }

/-- The accumulator words of the last chunk of a tile, rows of 64 columns or fewer: a matrix, a convolution in one stage, or
the rows of attention before their last line (R72, R84, R157, R159). -/
def View.tileAcc (v : View) (o : OpDesc) (q : IProb) (t : Tile) : List F32 :=
  let c := (t.cols - 1) / 64 * 64
  match o.cls with
  | 0 => t.rowList.flatMap (fun r =>
      accWords o (v.matmulAcc o ((arrayDepth o.fmtA o.fmtW).getD 128) q r (t.col0 + c) (t.cols - c)))
  | 1 =>
    let a := v.prog.att.getD o.attLayer (AttLayer.ofNat 0)
    t.rowList.flatMap (fun r => ((v.cellAttBlocks o a q r (t.row0 + t.rows - 1)).1.acc.drop (a.dh - 64)).map toF32)
  | 4 => t.rowList.flatMap (fun r => accWords o (v.runningSum o q r (t.col0 + c) (t.cols - c) (convPieces o).length).1)
  | _ => []

/-- A cell whose tile has ended: after the last swap the image before the last is in the idle set, the queues are empty, the
accumulators hold the last chunk, the checksum register its final value, and the outputs stand in the store until the cell
takes up other work there (R77, R81).
[notes/assumptions 13 DESIGN CHOICE, unsafe] -/
def View.endTile (v : View) (j op : Nat) (o : OpDesc) (stage : Nat) (q : IProb) (t : Tile) (outs : List Host.Cell) (sum : Nat)
    (p : UnitParts) : UnitParts :=
  let n := v.imageCount o stage q t
  { p with
    store := outs, feeders := []
    active := if n = 0 then p.active else v.setOf j op o stage q t (n - 1)
    idle := if n < 2 then p.idle else v.setOf j op o stage q t (n - 2)
    acc := v.tileAcc o q t, work := [], checksum := sum, checksumCopy := sum }

/-- The K range of a MATMUL slice: its start and depth (R122). -/
def sliceRange (o : OpDesc) (q : IProb) (sl : Slice) : Nat × Nat :=
  (kRanges ((engineDepth o.fmtW).getD 64) q.rows q.k (max (fmtBits o.fmtA / 8) 1)).getD sl.range (0, q.k)

/-- The activation bytes an engine operation holds: the K range of every row of a matrix, the operand rows of another class
(R122). -/
def View.sliceStore (v : View) (o : OpDesc) (q : IProb) (sl : Slice) : List Host.Cell :=
  if o.cls = 0 then
    let x := sliceRange o q sl
    storedBytes 0 ((List.range q.rows).flatMap (fun r =>
      packElements o.fmtA ((List.range x.2).map (fun k => (v.code o.srcA (q.memberOf r) (v.operandAt o.srcA q q.offA r (x.1 + k))).1))))
  else v.stored 0 (v.operandReach o q 0 q.rows)

/-- What an engine's working area takes up with a slice: the query rows of an attention item, the old state of the channels of
a recurrent one in FP32 (R116). -/
def View.sliceWork (v : View) (o : OpDesc) (q : IProb) (sl : Slice) : Bytes :=
  match o.cls with
  | 1 => (List.range q.rows).flatMap (fun r => wordBytes false (v.query o (v.prog.att.getD o.attLayer (AttLayer.ofNat 0)) q r))
  | 3 =>
    let hd := v.prog.hdr
    (List.range q.rows).flatMap (fun r =>
      let ob := v.stateObj (q.memberOf r) o.recLayer
      wordBytes false ((List.range (sl.cols * hd.ns)).map (fun i => (v.stateElem ob (hd.c * hd.ns) (sl.col0 * hd.ns + i)).1)))
  | _ => []

/-- An engine that starts a slice: its activations and working area; a later K range adds into the accumulators that the
ranges before it left (R122).
[notes/assumptions 13 DESIGN CHOICE, unsafe] -/
def View.beginSlice (v : View) (o : OpDesc) (q : IProb) (sl : Slice) (p : UnitParts) : UnitParts :=
  { p with
    store := v.sliceStore o q sl, work := v.sliceWork o q sl, acc := if sl.range = 0 ∨ o.cls ≠ 0 then [] else p.acc
    checksum := 0, checksumCopy := 0 }

/-- The accumulator words of a MATMUL slice, by row, once its K range and those before it have run (R122). -/
def View.sliceAcc (v : View) (o : OpDesc) (q : IProb) (sl : Slice) : List F32 :=
  if o.cls = 0 then
    let x := sliceRange o q sl
    (List.range q.rows).flatMap (fun row =>
      accWords o (v.matmulAcc o ((engineDepth o.fmtW).getD 64) { q with k := x.1 + x.2 } row sl.col0 (min sl.cols (q.n - sl.col0))))
  else []

/-- The partials of an attention item: m, l and o of each row (R130, R132). -/
def View.partials (v : View) (o : OpDesc) (q : IProb) (sl : Slice) : List AttRow :=
  let a := v.prog.att.getD o.attLayer (AttLayer.ofNat 0)
  let l := v.kvList (q.memberOf 0) o.attLayer
  let ps := (pieces a.cP (List.range l.pages.length)).getD sl.col0 []
  (List.range q.rows).map (fun r => v.chunkRow a l q.head (queryPos o l r) (v.query o a q r) ps)

/-- The bytes of a slice whose results go out with its operator: the partials of an attention item, the states and rows of a
recurrent one (R132, R135, R172).
[notes/assumptions 186 DEDUCED, unsafe] -/
def View.sliceBytes (v : View) (o : OpDesc) (opIdx : Nat) (q : IProb) (sl : Slice) (renorm : List Nat) : Bytes :=
  match o.cls with
  | 1 => (v.partials o q sl).flatMap AttRow.bytes
  | 3 => (List.range q.rows).flatMap (fun r => v.recBytes o opIdx q r sl.col0 sl.cols (renorm.contains (q.memberOf r)))
  | _ => []

/-- An engine whose slice has ended: its accumulators, its working area with the partials or the new state in transit, and its
checksum register at the final value (R116).
[notes/assumptions 13 DESIGN CHOICE, unsafe] -/
def View.endSlice (v : View) (o : OpDesc) (q : IProb) (sl : Slice) (bytes : Bytes) (sum : Nat) (p : UnitParts) : UnitParts :=
  { p with store := [], acc := v.sliceAcc o q sl, work := bytes, checksum := sum, checksumCopy := sum }

end Sys2Proof.Machine
end

