-- ==== Sys2Proof/Machine/Compute.lean ====
section
/-!
DEFINITION. Work on cells, engines and sorters: claims and offers (R125, R222, R243, R266, R378), completions with
the writes of an item (R93, R132), the Parallax votes (R446 to R452, R464), windows and passes.
-/

namespace Sys2Proof.Machine

/-! ### Order of offers (R378) -/

/-- Does an offer of a unit kind go to one job before another? Kinds: 0 cells, 1 engines, 2 sorters. -/
def Dev.offerBefore (d : Dev) (kind : Nat) (a b : Job) : Bool :=
  if a.part != b.part then
    let ua := (d.part a.part).shareUse.getD kind 0 * d.pforce b.part 0x15 1
    let ub := (d.part b.part).shareUse.getD kind 0 * d.pforce a.part 0x15 1
    decide (ua < ub) || (ua == ub && decide (a.part < b.part))
  else
    decide (a.shareUse.getD kind 0 < b.shareUse.getD kind 0) ||
      (a.shareUse.getD kind 0 == b.shareUse.getD kind 0 && decide (a.id < b.id))

/-- The job an offer goes to. -/
def Dev.offered (d : Dev) (kind : Nat) (l : List Job) : Option Job :=
  l.foldl (fun (acc : Option Job) j =>
    match acc with
    | none => some j
    | some b => some (if d.offerBefore kind j b then j else b)) none

/-- Is an instance of a kind running? -/
def Inst.runs (x : Inst) (k : UnitKind) : Bool := decide (x.state = .running) && decide (x.kind = k)

/-- The jobs with a round at work, by class, in the order given: guaranteed ones by admission. -/
def Dev.workingJobs (d : Dev) (guaranteed : Bool) : List (Job × Round) :=
  (sortBy (fun (a b : Job) => decide (a.admitOrder < b.admitOrder)) d.liveJobs).filterMap (fun j =>
    if j.batch.guaranteed != guaranteed then none
    else match j.round with
      | some r => if r.working j.batch then some (j, r) else none
      | none => none)

/-! ### Votes (R446 to R451) -/

/-- Is an item sampled (R446)?
[notes/assumptions 17 DESIGN CHOICE, safe] -/
def Dev.sampled (d : Dev) (x : Inst) (item : Nat) : Bool := (item + x.phi) % max (d.forceAt 0x5000 1) 1 == 0

/-- A vote entered for an item whose original starts on a unit; one held before keeps what it has. -/
def Inst.startVote (x : Inst) (item unit : Nat) : Inst :=
  if x.votes.any (fun v => v.item == item) then
    x.modVote item (fun v => { v with
      orig := unit, origSum := none, dup := if v.dup = some unit then none else v.dup
      dupSum := if v.dup = some unit then none else v.dupSum })
  else { x with votes := x.votes ++ [{ item := item, orig := unit }] }

/-- Does a vote wait for its duplicate, or for its third execution, to be taken? -/
def Vote.waits (v : Vote) : Option Role :=
  if v.needThird then (if v.third.isNone && v.thirdSum.isNone then some .third else none)
  else if v.dup.isNone && v.dupSum.isNone then some .duplicate else none

/-- The units an execution must not use. -/
def Vote.used (v : Vote) : List Nat := [v.orig] ++ (if v.needThird then v.dup.toList else [])

/-- May a cell take a duplicate or third execution of a job's tile (R448)? -/
def Dev.mayCheck (d : Dev) (j : Job) (r : Round) (v : Vote) (n : Nat) : Bool :=
  d.cellUp n && !v.used.contains n &&
    !(d.guaranteedJobs.any (fun g => g.id != j.id && g.grant.cells.contains n)) &&
    (n / 8 != v.orig / 8 || r.cells.all (fun c => c / 8 == v.orig / 8))

/-- May an engine take a duplicate of a slice: the other half of the stack, else the same half (R135)? -/
def Dev.mayCheckSlice (d : Dev) (v : Vote) (n : Nat) : Bool :=
  let k := v.orig / 16
  let other := (d.stackEngines k).filter (fun e => e / 8 != v.orig % 16 / 8)
  d.engineUp n && n / 16 == k && n != v.orig && (other.isEmpty || n % 16 / 8 != v.orig % 16 / 8)

/-- The engine of a third execution: the lowest in service that ran neither (R451). -/
def Dev.thirdEngine (d : Dev) (v : Vote) : Option Nat :=
  (((d.stackEngines (v.orig / 16)).map (fun e => v.orig / 16 * 16 + e)).find? (fun n => !v.used.contains n))

/-- Where a vote stands. -/
inductive Verdict where
  | open
  | agree
  | third
  | original
  | replace
  | unresolved
  deriving DecidableEq, Repr

/-- The comparator's verdict (R451).
[notes/assumptions 95 DEDUCED, unsafe] -/
def Vote.verdict (v : Vote) : Verdict :=
  if v.needThird then
    match v.thirdSum with
    | none => .open
    | some t => if some t = v.origSum then .original else if some t = v.dupSum then .replace else .unresolved
  else match v.origSum, v.dupSum with
    | some a, some b => if a = b then .agree else .third
    | _, _ => .open

/-! ### Holding work -/

/-- What a unit is to run. -/
structure Work where
  job : Nat
  round : Nat
  op : Nat
  item : Nat
  role : Role
  cost : Nat
  charged : Bool

/-- The work as a unit holds it from an instant. -/
def Work.held (w : Work) (t : Tns) : Held :=
  { job := w.job, round := w.round, op := w.op, item := w.item, role := w.role, cost := w.cost, start := t
    charged := w.charged, since := t }

/-- A duplicate or third execution taken by a unit.
[notes/assumptions 103 DEDUCED, unsafe] -/
def Inst.takeCheck (x : Inst) (item unit : Nat) (role : Role) : Inst :=
  x.modVote item (fun v => if role = .third then { v with third := some unit } else { v with dup := some unit })

/-! ### Claims of cells (R243, R244, R266, R448) -/

/-- The next tile of an instance's counter in a region: the re-issue list first. -/
def Inst.nextTile (x : Inst) (g : Nat) : Option Nat :=
  let mine := x.ranges.filter (fun t => t.region == g)
  match (sortBy (fun a b => decide (a < b)) (mine.flatMap (·.reissue))).head? with
  | some t => some t
  | none => (mine.find? (fun t => decide (t.next < t.last))).map (·.next)

/-- A tile taken from a region's counter or list. -/
def Inst.takeTile (x : Inst) (g item : Nat) : Inst :=
  { x with ranges := x.ranges.map (fun t =>
      if t.region != g then t
      else if t.reissue.contains item then { t with reissue := t.reissue.filter (· != item) }
      else if t.next = item && t.next < t.last then { t with next := t.next + 1 } else t) }

/-- The first running cell instance of a round with a tile for a region.
[notes/assumptions 102 DEDUCED, unsafe] -/
def Round.tileFor (r : Round) (g : Nat) : Option (Inst × Nat) :=
  r.insts.findSome? (fun x => if x.runs .cells then (x.nextTile g).map (fun t => (x, t)) else none)

/-- The problem and the tile of an item at the instance's present stage. -/
def Inst.tileAt (x : Inst) (j : Job) (r : Round) (item : Nat) : IProb × Tile :=
  let t := (x.tiles j.prog r.phase r.members.length).getD item ⟨0, 0, 0, 0, 0, 0⟩
  ((x.probs j.prog r.phase r.members.length).getD t.prob ⟨0, 0, 0, 0, 0, 0, none, 0, 0⟩, t)

/-- 12 + T_x of a tile (R232, R250). -/
def State.tileCost (s : State) (j : Job) (r : Round) (x : Inst) (item : Nat) : Nat :=
  let o := j.prog.op x.op
  let q := x.tileAt j r item
  let l := (s.view j r).kvList (q.1.memberOf 0) o.attLayer
  12 + tileTime j.prog o (o.stages.getD x.stage .finish) q.1 q.2 (queryPos o l (q.2.row0 + q.2.rows - 1) / 64 + 1)

/-- A pending duplicate or third execution that a cell may take, lowest job and operator first.
[notes/assumptions 103 DEDUCED, unsafe] -/
def Dev.checkFor (d : Dev) (n : Nat) : Option (Job × Round × Inst × Vote × Role) :=
  d.liveJobs.findSome? (fun j =>
    match j.round with
    | none => none
    | some r =>
      if !r.working j.batch then none
      else r.insts.findSome? (fun x =>
        if !x.runs .cells then none
        else x.votes.findSome? (fun v =>
          match v.waits with
          | some role => if d.mayCheck j r v n then some (j, r, x, v, role) else none
          | none => none)))

/-- The guaranteed job whose grant holds a cell, with its round at work. -/
def Dev.ownerOf (d : Dev) (n : Nat) : Option (Job × Round) :=
  (d.workingJobs true).find? (fun j => j.2.cells.contains n || j.1.grant.cells.contains n)

/-- Has the round of the guaranteed job that a cell is granted to completed in the tick, or failed, so that best-effort
work may run there (R59, R378)? -/
def Dev.grantReleased (d : Dev) (n : Nat) : Bool :=
  d.guaranteedJobs.all (fun j => !j.grant.cells.contains n || j.round.any (fun r => r.ready || r.decided || r.doomed j.batch))

/-- Is a cell of a guaranteed grant? -/
def Dev.isGranted (d : Dev) (n : Nat) : Bool := d.guaranteedJobs.any (fun j => j.grant.cells.contains n)

/-- Cells a partition's best-effort rounds hold, with the granted cells their tiles are on. -/
def Dev.bestEffortCells (d : Dev) (p : Nat) : Nat :=
  let js := (d.jobsOf p).filter (fun j => !j.batch.guaranteed)
  sumNat (js.map (fun j => (j.round.map (fun r => r.cells.length)).getD 0)) +
    (d.cells.filter (fun c => c.2.held.any (fun h => js.any (fun j => j.id == h.job) && d.isGranted c.1))).length

/-- Has a partition room for one more best-effort cell (R266)? -/
def Dev.cellRoom (d : Dev) (p : Nat) : Bool :=
  decide (d.bestEffortCells p < d.pforce p 0x01 1 - (d.grantedCells p).length)

/-- The best-effort jobs a cell can work for (R378, R379): the one that holds it, or any with a ready tile. Granted
cells are offered only once their round has completed in the tick and before the commit window (R59). -/
def State.cellJobs (s : State) (n : Nat) : List (Job × Round) :=
  let d := s.dev
  let g := n / 64
  let ready := (d.workingJobs false).filter (fun j => (j.2.tileFor g).isSome)
  match (d.workingJobs false).find? (fun j => j.2.cells.contains n) with
  | some h => ready.filter (fun j => j.1.id == h.1.id)
  | none =>
    let heldElse := d.liveJobs.any (fun j => !j.batch.guaranteed && j.round.any (fun r => !r.decided && r.cells.contains n))
    if s.safety.safe || heldElse || (d.region g).draining ||
        (d.isGranted n && (!d.grantReleased n || decide (d.tick.next ≤ d.now + 16000))) then []
    else ready.filter (fun j => d.regionUsable j.1.part g && d.cellRoom j.1.part)

/-- Lines a slice reads from its stack: weights and vectors, pages, or states and constants. -/
def sliceReads (j : Job) (o : OpDesc) (q : IProb) (sl : Slice) : Nat :=
  match o.cls with
  | 0 =>
    let r := (kRanges ((engineDepth o.fmtW).getD 64) q.rows q.k (max (fmtBits o.fmtA / 8) 1)).getD sl.range (0, 0)
    sliceRuns r.2 sl.cols * runLines o.fmtW + (if sl.writes then vecLines o sl.cols else 0)
  | 1 => let a := j.prog.att.getD o.attLayer (AttLayer.ofNat 0)
         sl.cols * (32 * a.dh * a.b) / 128
  | _ => q.rows * stateLines j.prog.hdr.ns sl.cols + constLines j.prog sl.cols

/-- Lines of states a slice writes to its stack. -/
def sliceStates (j : Job) (o : OpDesc) (q : IProb) (sl : Slice) : Nat :=
  if o.cls = 3 then q.rows * stateLines j.prog.hdr.ns sl.cols else 0

/-- Lines of the vector load that an engine operator's rows take from the stack that homes them, once for each stack
whose engines work on the problem (R128). -/
def loadTraffic (e : BoundEnv) (p : Program) (o : OpDesc) (q : IProb) : List Traffic :=
  match o.cls, e.spaceOf o.srcA with
  | 1, some s => [{ space := s, lines := ceilDiv (rowsBytes o.fmtA (q.k * q.rows) 1) 128 }]
  | 3, some s => [{ space := s, lines := ceilDiv (q.rows * recRow p.hdr * 4) 128 }]
  | _, some s => [{ space := s, lines := ceilDiv (rowsBytes o.fmtA q.k q.rows) 128 }]
  | _, none => []

/-- Lines of the result write of `cols` columns of a problem, in the stack that homes the destination (R128). -/
def resultTraffic (e : BoundEnv) (o : OpDesc) (q : IProb) (cols : Nat) : List Traffic :=
  match e.spaceOf o.dst with
  | some s => [{ space := s, lines := ceilDiv (rowsBytes o.gate.outFmt cols q.rows) 128 }]
  | none => []

/-- A cell that starts a tile. -/
def State.beginTile (s : State) (j : Job) (r : Round) (x : Inst) (item : Nat) (c : ComputeUnit) : ComputeUnit :=
  let q := x.tileAt j r item
  { c with parts := (s.view j r).beginTile j.id x.op (j.prog.op x.op) x.stage q.1 q.2 c.parts }

/-- An engine that starts a slice. -/
def State.beginSlice (s : State) (j : Job) (r : Round) (x : Inst) (sl : Slice) (c : ComputeUnit) : ComputeUnit :=
  let o := j.prog.op x.op
  let q := (instProblems j.prog o r.phase r.members.length x.counts).getD sl.prob ⟨0, 0, 0, 0, 0, 0, none, 0, 0⟩
  { c with parts := (s.view j r).beginSlice o q sl c.parts }

/-! ### Transaction entries (R285) -/

/-- Transaction entries of one stacked-memory controller. -/
def controllerEntries : Nat := 16384

/-- Entries of a controller reserved: 256 for each fixed line slot of a guaranteed grant on the stack, and 4,096 for each
guaranteed window there. -/
def Dev.entriesReserved (d : Dev) (k : Nat) : Nat :=
  sumNat (d.guaranteedJobs.map (fun j =>
    256 * tgetD j.grant.slots k 0 + 4096 * (j.grant.windows.filter (fun w => w.stack == k)).length))

/-- Entries of a controller that the lines of items and sorter passes in progress hold. -/
def Dev.entriesHeld (d : Dev) (k : Nat) : Nat :=
  sumNat (((d.cells ++ d.engines).flatMap (fun c => c.2.held.toList ++ c.2.ahead.toList)).map (fun h => tgetD h.entries k 0)) +
    sumNat (d.regions.map (fun r => if r.2.sorter.job.isSome then tgetD r.2.sorter.entries k 0 else 0))

/-- Entries of a controller free for best-effort and latency-critical lines. -/
def Dev.entriesFree (d : Dev) (k : Nat) : Nat := controllerEntries - d.entriesReserved k - d.entriesHeld k

/-- The lines of each stack in some traffic. -/
def linesByStack (ts : List Traffic) : List (Nat × Nat) :=
  (List.range 12).filterMap (fun k =>
    let n := sumNat ((ts.filter (fun t => decide (t.space = .stack k))).map Traffic.lines)
    if n = 0 then none else some (k, n))

/-- Entries taken for an item's lines, some of what is free on each stack; a stack with none free is waited for. How many of
the lines are outstanding at once is a free value.
[notes/assumptions 190 DESIGN CHOICE, safe] -/
def Dev.takeEntries (d : Dev) (h : Held) (needs : List (Nat × Nat)) : Held × Dev :=
  needs.foldl (fun acc t =>
    let free := acc.2.entriesFree t.1
    if free = 0 then ({ acc.1 with wants := acc.1.wants ++ [t] }, acc.2)
    else
      let a := acc.2.pick (min t.2 free)
      ({ acc.1 with entries := acc.1.entries ++ [(t.1, a.1 + 1)] }, a.2)) (h, d)

/-- An item as its unit is to hold it: one of a guaranteed job has the entries reserved for its grant. -/
def Dev.holdWith (d : Dev) (j : Job) (h : Held) (ts : List Traffic) : Held × Dev :=
  if j.batch.guaranteed then (h, d) else d.takeEntries h (linesByStack ts)

/-- An item that waits for entries gets them once every stack it wants has one: it starts now, and the wait counts under
REGULATOR. -/
def Dev.serveHeld (d : Dev) (h : Held) : Option (Held × Dev) :=
  if h.wants.isEmpty || h.wants.any (fun t => d.entriesFree t.1 == 0) then none
  else
    let r := d.takeEntries { h with wants := [], since := d.now } h.wants
    some (r.1, r.2.stall h.job .regulator (d.now - h.since))

/-- Every item that waits for entries served, cells before engines, each in ascending number.
[notes/assumptions 190 DESIGN CHOICE, safe] -/
def Dev.serveEntries (d : Dev) : Dev :=
  let cs := (d.cells.filter (fun c => c.2.held.any (fun h => !h.wants.isEmpty))).map Prod.fst
  let es := (d.engines.filter (fun c => c.2.held.any (fun h => !h.wants.isEmpty))).map Prod.fst
  let d1 := cs.foldl (fun acc n =>
    match (acc.cell n).held.bind acc.serveHeld with
    | some (h, x) => x.modCell n (fun c => { c with held := some h })
    | none => acc) d
  es.foldl (fun acc n =>
    match (acc.engine n).held.bind acc.serveHeld with
    | some (h, x) => x.modEngine n (fun c => { c with held := some h })
    | none => acc) d1

/-- The stream states a tile reads, which are latency-critical (R126). -/
def Dev.tileStates (_d : Dev) (j : Job) (r : Round) (x : Inst) (item : Nat) : List Traffic :=
  let o := j.prog.op x.op
  let t := (x.tileAt j r item).2
  if o.cls != 3 then []
  else ((j.recHomes[o.recLayer]?).map (fun k =>
    ({ space := .stack k, lines := t.rows * stateLines j.prog.hdr.ns t.cols } : Traffic))).toList

/-- What else a tile reads from stacks. -/
def Dev.tileOthers (d : Dev) (j : Job) (r : Round) (x : Inst) (item : Nat) : List Traffic :=
  fetchTraffic j.prog (d.envOf j) (j.prog.op x.op) x.stage (x.probs j.prog r.phase r.members.length)
    [(x.tileAt j r item).2] true (decide ((j.prog.op x.op).cls ≠ 3)) true true

/-- The lines a tile writes to stacks: the states of a recurrent tile, and its rows of a stack-homed destination. -/
def Dev.tileWrites (d : Dev) (j : Job) (r : Round) (x : Inst) (item : Nat) : List Traffic :=
  let o := j.prog.op x.op
  let q := x.tileAt j r item
  let st := o.stages.getD x.stage .finish
  let states := if o.cls != 3 then [] else ((j.recHomes[o.recLayer]?).map (fun k =>
    ({ space := .stack k, lines := q.2.rows * stateLines j.prog.hdr.ns q.2.cols } : Traffic))).toList
  let out := match (d.envOf j).spaceOf o.dst with
    | some s => if o.cls = 4 && x.stage + 1 < o.stages.length then []
      else [({ space := s, lines := ceilDiv (if o.cls = 3 then rowsBytes o.gate.outFmt q.2.cols q.2.rows
        else tileOutBytes j.prog o st q.1.n q.2) 128 } : Traffic)]
    | none => []
  states ++ out

/-- The traffic of a tile. -/
def Dev.tileTraffic (d : Dev) (j : Job) (r : Round) (x : Inst) (item : Nat) : List Traffic :=
  d.tileStates j r x item ++ d.tileOthers j r x item ++ d.tileWrites j r x item

/-- The latency-critical lines of a slice: what its engine reads, and its share of the vector load that the first slice to
end of a problem in a stack answers for (R126, R128). -/
def Dev.sliceCritical (d : Dev) (j : Job) (r : Round) (x : Inst) (sl : Slice) : List Traffic :=
  let o := j.prog.op x.op
  let q := (instProblems j.prog o r.phase r.members.length x.counts).getD sl.prob ⟨0, 0, 0, 0, 0, 0, none, 0, 0⟩
  let loaded := x.slices.any (fun y => y.prob == sl.prob && y.stack == sl.stack && y.done)
  ({ space := .stack sl.stack, lines := sliceReads j o q sl } : Traffic) ::
    (if loaded then [] else loadTraffic (d.envOf j) j.prog o q)

/-- The other lines of a slice: the states and the results it writes. -/
def Dev.sliceWrites (d : Dev) (j : Job) (r : Round) (x : Inst) (sl : Slice) : List Traffic :=
  let o := j.prog.op x.op
  let q := (instProblems j.prog o r.phase r.members.length x.counts).getD sl.prob ⟨0, 0, 0, 0, 0, 0, none, 0, 0⟩
  let e := d.envOf j
  let results := match o.cls with
    | 0 => if sl.writes then resultTraffic e o q sl.cols else []
    | 1 => if (x.slices.filter (fun y => y.prob == sl.prob && !y.done)).length = 1 && !sl.done then
        resultTraffic e o q (j.prog.att.getD o.attLayer (AttLayer.ofNat 0)).dh else []
    | _ => resultTraffic e o q sl.cols
  ({ space := .stack sl.stack, lines := sliceStates j o q sl } : Traffic) :: results

/-- The traffic of a slice. -/
def Dev.sliceTraffic (d : Dev) (j : Job) (r : Round) (x : Inst) (sl : Slice) : List Traffic :=
  d.sliceCritical j r x sl ++ d.sliceWrites j r x sl

/-- A tile handed to a cell as an original: its vote if it is sampled (R446, R448). -/
def State.giveTile (s : State) (n : Nat) (j : Job) (r : Round) (x : Inst) (item : Nat) : Dev :=
  let d := s.dev
  let cost := s.tileCost j r x item
  let one := r.cells.length == 1
  let check := d.sampled x item
  let d1 := d.modRound j.id (fun y =>
    let y1 := y.modInst x.op (fun z =>
      let z1 := z.takeTile (n / 64) item
      if check && !one then z1.startVote item n else z1)
    { y1 with
      ran := if y1.ran.contains n then y1.ran else y1.ran ++ [n]
      cells := if j.batch.guaranteed || y1.cells.contains n || d.isGranted n then y1.cells else y1.cells ++ [n] })
  let d2 := if check && one then d1.count 0x7040 2 1 else d1
  let w : Work := { job := j.id, round := r.number, op := x.op, item := item, role := .original, cost := cost
                    charged := !j.batch.guaranteed }
  let y := d2.holdWith j (w.held (max d.now r.copied)) (d2.tileTraffic j r x item)
  let d3 := y.2.modCell n (fun c => s.beginTile j r x item { c with held := some y.1 })
  if j.batch.guaranteed then d3 else d3.charge j 0 cost

/-- The cycles of a pattern counted (R454): a claim reaches a unit during an idle pattern, which it abandons. -/
def Dev.dropPattern (d : Dev) (c : Nat) : Dev :=
  if c < 384 then
    let x := d.cell c
    (if x.pattern then d.count 0x7000 3 ((x.patternMilli + (d.now - x.patternAt) * d.ageing.clock) / 1000) else d).modCell c
      (fun y => { y with pattern := false, idlePattern := false })
  else
    let x := d.engine (c - 384)
    (if x.pattern then d.count 0x7000 4 (d.now - x.patternAt) else d).modEngine (c - 384)
      (fun y => { y with pattern := false, idlePattern := false })

/-- With DOUBLE set a cell that runs a tile's operations claims its next tile of the same round (R243); a pending
duplicate comes before that claim (R97). -/
def State.claimAhead (s : State) (n : Nat) (h : Held) : Dev :=
  let d := s.dev
  match d.round? h.job with
  | none => d
  | some (j, r) =>
    let mine := if j.batch.guaranteed then (d.ownerOf n).any (fun x => x.1.id == j.id)
      else (s.cellJobs n).any (fun x => x.1.id == j.id)
    if !(j.prog.op h.op).double || h.role ≠ .original || r.number != h.round || !r.working j.batch || !mine ||
        (d.checkFor n).isSome then d
    else match r.tileFor (n / 64) with
      | none => d
      | some (x, item) =>
        let d1 := s.giveTile n j r x item
        let old := (d.cell n).parts
        d1.modCell n (fun c => { c with
          held := some h, ahead := c.held
          parts :=
            let q := x.tileAt j r item
            { old with store := halfOf old.upper old.store ++ (s.view j r).tileStore (j.prog.op x.op) x.stage q.1 q.2 !old.upper } })

/-- A cell goes over to the tile it has claimed ahead, if any, in the other half of its store. -/
def Dev.nextHeld (d : Dev) (n : Nat) : Dev :=
  d.modCell n (fun c => { c with
    held := c.ahead.map (fun a => { a with start := d.now, since := d.now }), ahead := none
    parts := { c.parts with upper := c.parts.upper != c.ahead.isSome } })

/-- The parts of a cell `n` whose tile has ended in the half `upper` of its store, `p` as that tile left them: a tile claimed
ahead keeps its operands in the other half, takes its first images and starts its checksum at 0. -/
def State.tileParts (s : State) (n : Nat) (upper : Bool) (p : UnitParts) : UnitParts :=
  let c := s.dev.cell n
  match c.held with
  | none => { p with upper := c.parts.upper }
  | some h =>
    match s.dev.round? h.job with
    | none => { p with upper := c.parts.upper }
    | some (j, r) =>
      match r.insts.find? (fun x => x.op == h.op) with
      | none => { p with upper := c.parts.upper }
      | some x => { (s.beginTile j r x h.item { c with parts := { p with upper := c.parts.upper } }).parts with
          store := halfOf (!upper) c.parts.store ++ halfOf upper p.store }

/-- TILE_CLAIM by a cell between tiles: a posted duplicate first (R97), then a tile of the guaranteed round that holds
the cell, then best-effort work. A claim that a guaranteed round answers DONE costs it 12 ccyc (R380). -/
def State.tileClaim (s : State) (n : Nat) : Dev :=
  let c := s.dev.cell n
  if !s.dev.cellUp n || (c.pattern && !c.idlePattern) then s.dev
  else if c.held.isSome then
    match c.held, c.ahead with
    | some h, none => s.claimAhead n h
    | _, _ => s.dev
  else
    let d := s.dev
    let give (j : Job) (r : Round) (x : Inst) (item : Nat) : Dev :=
      (s.giveTile n j r x item).dropPattern n
    match d.checkFor n with
    | some (j, r, x, v, role) =>
      let w : Work := { job := j.id, round := r.number, op := x.op, item := v.item, role := role
                        cost := s.tileCost j r x v.item, charged := false }
      let d1 := (d.modRound j.id (fun y =>
        let y1 := y.modInst x.op (fun z => z.takeCheck v.item n role)
        { y1 with ran := if y1.ran.contains n then y1.ran else y1.ran ++ [n] })).dropPattern n
      let y := d1.holdWith j (w.held d.now) (d1.tileTraffic j r x v.item)
      y.2.modCell n (fun c => s.beginTile j r x v.item { c with held := some y.1 })
    | none =>
      match d.ownerOf n with
      | some (j, r) =>
        match r.tileFor (n / 64) with
        | some (x, item) => give j r x item
        | none => if r.insts.any (fun x => x.runs .cells) then d.cellBusy j .original 12 else d
      | none =>
        let l := s.cellJobs n
        match d.offered 0 (l.map Prod.fst) with
        | none => d
        | some b =>
          match l.find? (fun j => j.1.id == b.id) with
          | some (j, r) =>
            match r.tileFor (n / 64) with
            | some (x, item) => give j r x item
            | none => d
          | none => d

/-! ### The end of an item -/

/-- An item at its end: who ran it, what it writes (`cells` correct), whether that goes out now or with the operator, the
bytes its checksum takes before those (`before`: of an item whose output goes out later, all it writes), and what the
unit got wrong of all of them. -/
structure ItemEnd where
  job : Nat
  op : Nat
  item : Nat
  role : Role
  unit : Nat
  onCells : Bool
  cells : List Host.Cell
  now : Bool
  wrong : List (Nat × Byte)
  parts : List (Option PartId)
  start : Tns
  before : Bytes := []

/-- Region of the unit of an item. -/
def ItemEnd.region (i : ItemEnd) : Nat := if i.onCells then i.unit / 64 else i.unit / 32

/-- The checksum of an execution: the CRC of every byte it writes (R93, R135, R161). -/
def ItemEnd.sum (i : ItemEnd) : Nat :=
  crc64 ((flipCells (i.before.map (fun b => (0, b)) ++ i.cells) i.wrong).map Prod.snd)

/-- What an execution got wrong of its output, by offset into it. -/
def ItemEnd.outWrong (i : ItemEnd) : List (Nat × Byte) :=
  i.wrong.filterMap (fun w => if i.before.length ≤ w.1 then some (w.1 - i.before.length, w.2) else none)

/-- The output of an item that stands: written, or noted for its operator. -/
def Eff.standItem (e : Eff) (m : Mem) (i : ItemEnd) : Eff :=
  if i.now then e.writeOut m i.job (flipCells i.cells i.outWrong)
  else e.mod (fun d => d.modRound i.job (fun r => r.modInst i.op (fun x =>
    { x with flips := if i.wrong.isEmpty then terase x.flips i.item else tset x.flips i.item i.wrong })))

/-- A unit that a vote finds wrong: fenced at once, and its pattern starts (R452). -/
def Dev.fenceMinority (d : Dev) (onCells : Bool) (n : Nat) : Dev :=
  if onCells then (d.emergencyFence (cellUnit n)).startPattern n
  else (d.emergencyFence (engineUnit n)).startPattern (384 + n)

/-- The unit whose field test checks a cell or an engine (R461, R462). -/
def testUnit (onCells : Bool) (n : Nat) : Nat := if onCells then cellUnit n else regionUnit (n / 32)

/-- A vote ends without a majority: tests for every unit, the parts end PARALLAX_UNRESOLVED, cause [0] (R451,
R468). -/
def Dev.unresolved (d : Dev) (i : ItemEnd) (v : Vote) : Dev :=
  let d1 := (([v.orig] ++ v.dup.toList ++ v.third.toList).map (testUnit i.onCells)).foldl (fun acc u => acc.requestTest u 2) d
  let d2 := d1.modRound i.job (fun r => i.parts.foldl (fun acc w => acc.fail w .parallaxUnresolved d.now i.region)
    (r.modInst i.op (fun x => { x with votes := x.votes.filter (fun y => y.item != i.item) })))
  (d2.count 0x7040 5 1).raise 0 0xFFFF

/-- Is there a unit for a third execution? -/
def Dev.thirdUnit (d : Dev) (i : ItemEnd) (v : Vote) : Bool :=
  if i.onCells then
    match d.round? i.job with
    | some (j, r) => (List.range 384).any (fun n => d.mayCheck j r { v with needThird := true } n)
    | none => false
  else (d.thirdEngine { v with needThird := true }).isSome

/-- The vote of an item after an execution has ended (R451). -/
def Eff.judge (e : Eff) (m : Mem) (i : ItemEnd) (v : Vote) : Eff :=
  let drop (x : Eff) : Eff := x.mod (fun d => d.modRound i.job (fun r => r.modInst i.op (fun y =>
    { y with votes := y.votes.filter (fun z => z.item != i.item) })))
  let rerun (x : Eff) : Eff := x.mod (fun d => (d.count 0x7040 4 1).stall i.job .parallaxRerun (d.now - i.start))
  match v.verdict with
  | .open => e
  | .agree =>
    (drop e).mod (fun d => if i.onCells && v.dup.any (fun n => n / 8 == v.orig / 8) then d.count 0x7040 3 1 else d)
  | .third =>
    if e.dev.thirdUnit i v then e.mod (fun d => d.modRound i.job (fun r => r.modInst i.op (fun y =>
      y.modVote i.item (fun z => { z with needThird := true }))))
    else e.mod (fun d => d.unresolved i v)
  | .original =>
    (drop (rerun e)).mod (fun d =>
      match v.dup with
      | some n => d.fenceMinority i.onCells n
      | none => d)
  | .replace => ((drop (rerun e)).standItem m i).mod (fun d => d.fenceMinority i.onCells v.orig)
  | .unresolved => e.mod (fun d => d.unresolved i v)

/-- An execution that met no bad line has ended: its output if it is the original, its checksum to the comparator. -/
def Eff.endItem (e : Eff) (m : Mem) (i : ItemEnd) : Eff :=
  let e1 := if i.role = .original then
      (e.standItem m i).mod (fun d => d.modRound i.job (fun r => r.modInst i.op (fun x => { x with left := x.left - 1 })))
    else e
  let e2 := e1.mod (fun d => d.modRound i.job (fun r => r.modInst i.op (fun x => x.modVote i.item (fun v =>
    match i.role with
    | .original => { v with origSum := some i.sum }
    | .duplicate => { v with dupSum := some i.sum }
    | .third => { v with thirdSum := some i.sum }))))
  match e2.dev.round? i.job with
  | none => e2
  | some (_, r) =>
    match (r.insts.find? (fun x => x.op == i.op)).bind (fun x => x.votes.find? (fun v => v.item == i.item)) with
    | some v => e2.judge m i v
    | none => e2

/-- An execution that met a bad line: no vote is held, and the item is not re-issued (R254, R464). -/
def Eff.spoilItem (e : Eff) (i : ItemEnd) : Eff :=
  e.mod (fun d => d.modRound i.job (fun r => r.modInst i.op (fun x =>
    { x with
      left := if i.role = .original then x.left - 1 else x.left
      votes := x.votes.filter (fun v => v.item != i.item) })))

/-! ### Engines -/

/-- Has a job an unfinished slice, or a vote, on a stack? -/
def Round.needsStack (r : Round) (k : Nat) : Bool :=
  r.insts.any (fun x => x.runs .cirrus &&
    (x.slices.any (fun sl => sl.stack == k && !sl.done) || x.votes.any (fun v => v.orig / 16 == k)))

/-- The window of a stack closed, if one is open; its length is charged (R380). -/
def Dev.endWindow (d : Dev) (k : Nat) : Dev :=
  match (d.stack k).window with
  | none => d
  | some job =>
    let d1 := d.modStack k (fun x => { x with window := none })
    match d1.job? job with
    | some j => d1.account j.part 7 ((d.now - (d.stack k).windowStart) * (d.stackEngines k).length)
    | none => d1

/-- The window of a stack ends when its job has nothing left to run there; its length is charged (R125, R380).
[notes/assumptions 98 DEDUCED, unsafe] -/
def Dev.closeWindow (d : Dev) (k : Nat) : Dev :=
  match (d.stack k).window with
  | none => d
  | some job =>
    let open' := match d.round? job with
      | some (j, r) => r.working j.batch && r.needsStack k
      | none => false
    if open' then d else d.endWindow k

/-- The next slice of a round for an engine: in order of operators, then items (R121, R132). -/
def Round.sliceFor (r : Round) (k e : Nat) : Option (Inst × Slice) :=
  r.insts.findSome? (fun x =>
    if !x.runs .cirrus then none
    else (argMin Slice.item (x.slices.filter (fun sl => sl.stack == k && sl.engine == e && !sl.done))).map (fun sl => (x, sl)))

/-- A pending duplicate or third execution of a round for an engine. -/
def Round.sliceCheck (r : Round) (d : Dev) (n : Nat) : Option (Inst × Vote × Role) :=
  r.insts.findSome? (fun x =>
    if !x.runs .cirrus then none
    else x.votes.findSome? (fun v =>
      match v.waits with
      | some .third => if d.thirdEngine v = some n then some (x, v, .third) else none
      | some role => if d.mayCheckSlice v n then some (x, v, role) else none
      | none => none))

/-- A slice given to an engine as an original, with its vote if it is sampled; a stack with one engine left leaves it
unchecked and counts it (R135). -/
def State.giveSlice (s : State) (n : Nat) (j : Job) (r : Round) (x : Inst) (sl : Slice) : Dev :=
  let d := s.dev
  let check := d.sampled x sl.item
  let alone := (d.stackEngines sl.stack).length == 1
  let d1 := d.modRound j.id (fun y => y.modInst x.op (fun z => if check && !alone then z.startVote sl.item n else z))
  let d2 := if check && alone then d1.count 0x7040 1 1 else d1
  let w : Work := { job := j.id, round := r.number, op := x.op, item := sl.item, role := .original, cost := sl.cost
                    charged := !j.batch.guaranteed }
  let y := d2.holdWith j (w.held (max d.now r.copied)) (d2.sliceTraffic j r x sl)
  let d3 := (y.2.dropPattern (384 + n)).modEngine n (fun c => s.beginSlice j r x sl { c with held := some y.1 })
  if j.batch.guaranteed then d3 else d3.charge j 1 sl.cost

/-- A duplicate or third execution of a slice given to an engine. -/
def State.giveSliceCheck (s : State) (n : Nat) (j : Job) (r : Round) (x : Inst) (v : Vote) (role : Role) : Dev :=
  let d := s.dev
  let cost := ((x.slices.find? (fun sl => sl.item == v.item)).map Slice.cost).getD 0
  let w : Work := { job := j.id, round := r.number, op := x.op, item := v.item, role := role, cost := cost, charged := false }
  let d1 := (d.modRound j.id (fun y => y.modInst x.op (fun z => z.takeCheck v.item n role))).dropPattern (384 + n)
  let y := d1.holdWith j (w.held d.now) (((x.slices.find? (fun sl => sl.item == v.item)).map (d1.sliceTraffic j r x)).getD [])
  y.2.modEngine n (fun c =>
    match x.slices.find? (fun sl => sl.item == v.item) with
    | some sl => s.beginSlice j r x sl { c with held := some y.1 }
    | none => { c with held := some y.1 })

/-- An idle engine takes its next work: in a window only its job's; outside windows a pattern that is due, then
best-effort work by R378. -/
def State.offerEngine (s : State) (n : Nat) : Dev :=
  let d := s.dev
  let c := d.engine n
  if !d.engineUp n || c.held.isSome || (c.pattern && !c.idlePattern) then d
  else
    let give (j : Job) (r : Round) : Option Dev :=
      match r.sliceCheck d n with
      | some (x, v, role) => some (s.giveSliceCheck n j r x v role)
      | none => (r.sliceFor (n / 16) (n % 16)).map (fun x => s.giveSlice n j r x.1 x.2)
    match (d.stack (n / 16)).window with
    | some job =>
      match d.round? job with
      | some (j, r) => if r.working j.batch then (give j r).getD d else d
      | none => d
    | none =>
      let ready := (d.workingJobs false).filter (fun j => (j.2.sliceFor (n / 16) (n % 16)).isSome || (j.2.sliceCheck d n).isSome)
      if s.safety.safe || ready.isEmpty then d
      else if d.patternDue (384 + n) then d.startPattern (384 + n)
      else match d.offered 1 (ready.map Prod.fst) with
        | none => d
        | some b =>
          match ready.find? (fun j => j.1.id == b.id) with
          | some (j, r) => (give j r).getD d
          | none => d

/-- Every idle engine offered work, in ascending number.
[notes/assumptions 111 DEDUCED, unsafe] -/
def State.offerEngines (s : State) : State :=
  (List.range 192).foldl (fun acc n =>
    if acc.dev.liveJobs.isEmpty then acc else acc.withDev (acc.offerEngine n)) s

/-- The job whose window on a stack is open past its length, if one is (R138). -/
def Dev.overrun (d : Dev) (k : Nat) : Option Nat :=
  ((d.stack k).window).filter (fun job => (d.job? job).any (fun j => (j.grant.windows.filter (fun w => w.stack == k)).all (fun w =>
    decide ((d.stack k).windowStart + w.length ≤ d.now))))

/-- GUARANTEED_WINDOW_START: the oldest guaranteed round with slices on the stack gets its window there; other
operations on the stack stop and their slices go back to their jobs (R125, R137). A window that runs past its end gives way to
that of another job, and takes the next interval free of other windows (R138).
[notes/assumptions 98 DEDUCED, unsafe] -/
def Dev.windowStart (d : Dev) (k : Nat) : Dev :=
  let spent := d.overrun k
  if ((d.stack k).window.isSome && spent.isNone) || (d.stack k).outOfService then d
  else match (d.workingJobs true).find? (fun j => decide (spent ≠ some j.1.id) && j.1.grant.windows.any (fun w => w.stack == k) &&
      j.2.needsStack k) with
    | none => d
    | some (j, _) =>
      let busy := ((List.range 16).map (fun e => k * 16 + e)).filter (fun n => (d.engine n).held.isSome)
      let d1 := busy.foldl (fun acc n =>
        match (acc.engine n).held with
        | none => acc
        | some h => (acc.giveBackSlice h).stopEngine n) (d.endWindow k)
      d1.modStack k (fun x => { x with window := some j.id, windowStart := d.now })

/-! ### Sorters (R219, R220, R222) -/

/-- Has an instance a pass to run on a region's sorter? -/
def Inst.passFor (x : Inst) (d : Dev) (k g : Nat) : Bool :=
  x.runs .sorter &&
    (if x.sorts.all SortPart.done then x.merging k && x.mergeRegion d == some g
     else x.sorts.any (fun p => p.region == g && !p.done))

/-- The first instance of a round with a pass for a sorter. -/
def Round.passFor (r : Round) (d : Dev) (p : Program) (g : Nat) : Option Inst :=
  r.insts.find? (fun x => x.passFor d (p.op x.op).kTop g)

/-- Cycles of a job's sorter work counted (R380). -/
def Dev.sorterBusy (d : Dev) (j : Job) (n : Nat) : Dev :=
  (d.account j.part 8 n).modJob j.id (fun y =>
    { y with counters := { y.counters with sorterBusy := accumAdd y.counters.sorterBusy n } })

/-- Held registers of other best-effort sorts on a sorter saved (R222). -/
def Dev.saveSorts (d : Dev) (g job op : Nat) : Dev :=
  d.liveJobs.foldl (fun acc j =>
    match j.round with
    | none => acc
    | some r =>
      let mine (x : Inst) (p : SortPart) : Bool :=
        !(j.id == job && x.op == op) && x.inRegister d (j.prog.op x.op).kTop g p && !p.saved
      let n := sumNat (r.insts.map (fun x => (x.sorts.filter (mine x)).length))
      if n = 0 then acc
      else (acc.modRound j.id (fun y => { y with insts := y.insts.map (fun x =>
        { x with sorts := x.sorts.map (fun p => if mine x p then { p with saved := true } else p) }) })).sorterBusy j (16 * n)) d

/-- Has a sorter room for a best-effort pass: its 72 ccyc end before the next window of a guaranteed sort there starts, and
the round of a window that has started is over (R222). -/
def Dev.sorterRoom (d : Dev) (g : Nat) : Bool :=
  let pass := ceilDiv (72 * 1000) d.ageing.clock
  d.guaranteedJobs.all (fun j => (j.grant.sortWindows.filter (fun w => w.region == g)).all (fun w =>
    let t := d.tick.start + w.offset
    let next := d.tick.next + w.offset
    let past := decide (t + ceilDiv (w.length * 1000) d.ageing.clock ≤ d.now) || !j.round.any (fun r => r.working j.batch)
    (decide (d.now + pass ≤ t) || (decide (t ≤ d.now) && past)) && decide (d.now + pass ≤ next)))

/-- Lines that a pass of a top-k operator reads of the stack that homes its keys: 1,024 of them (R219). -/
def Dev.passLines (d : Dev) (j : Job) (o : OpDesc) : List (Nat × Nat) :=
  match (d.envOf j).spaceOf o.srcA with
  | some (.stack k) => [(k, fmtBits o.fmtA)]
  | _ => []

/-- Does a best-effort pass find no free transaction entry (R285)? -/
def Dev.passStarved (d : Dev) (j : Job) (o : OpDesc) : Bool :=
  !j.batch.guaranteed && (d.passLines j o).any (fun t => d.entriesFree t.1 == 0)

/-- Transaction entries that a best-effort pass takes, some of what is free; how many is a free value.
[notes/assumptions 190 DESIGN CHOICE, safe] -/
def Dev.passEntries (d : Dev) (j : Job) (o : OpDesc) : List (Nat × Nat) × Dev :=
  if j.batch.guaranteed then ([], d)
  else (d.passLines j o).foldl (fun acc t =>
    let a := acc.2.pick (min t.2 (acc.2.entriesFree t.1))
    (acc.1 ++ [(t.1, a.1 + 1)], a.2)) ([], d)

/-- A sorter given its next pass: guaranteed sorts first, then best-effort by R378, in the room before the next window; a
saved register is reloaded. -/
def State.offerSorter (s : State) (g : Nat) : Dev :=
  let d := s.dev
  let x := d.region g
  if x.outOfService || x.sorter.fenced || x.sorter.job.isSome then d
  else
    let start (j : Job) (i : Inst) : Dev :=
      let k := (j.prog.op i.op).kTop
      let saved := i.sorts.any (fun p => i.inRegister d k g p && p.saved)
      let d1 := (d.saveSorts g j.id i.op).modRound j.id (fun y => y.modInst i.op (fun z =>
        { z with sorts := z.sorts.map (fun p => if i.inRegister d k g p then { p with saved := false } else p) }))
      let d2 := if saved then d1.sorterBusy j 16 else d1
      let t := d2.passEntries j (j.prog.op i.op)
      let d3 := t.2.modRegion g (fun y => { y with sorter :=
        { y.sorter with job := some (j.id, i.op), charged := !j.batch.guaranteed, entries := t.1,
                             start := max d.now ((j.round.map Round.copied).getD 0), milli := 0 } })
      if j.batch.guaranteed then d3 else d3.charge j 2 72
    match (d.workingJobs true).findSome? (fun j => (j.2.passFor d j.1.prog g).map (fun i => (j.1, i))) with
    | some (j, i) => start j i
    | none =>
      let ready := (d.workingJobs false).filter (fun j => (j.2.passFor d j.1.prog g).any (fun i => !d.passStarved j.1 (j.1.prog.op i.op)))
      match (if s.safety.safe || !d.sorterRoom g then none else d.offered 2 (ready.map Prod.fst)) with
      | none => d
      | some b =>
        match (ready.find? (fun j => j.1.id == b.id)).bind (fun j => (j.2.passFor d b.prog g).map (fun i => (j.1, i))) with
        | some (j, i) => start j i
        | none => d

/-- Every idle sorter offered a pass.
[notes/assumptions 111 DEDUCED, unsafe] -/
def State.offerSorters (s : State) : State :=
  (List.range 6).foldl (fun acc g => if acc.dev.liveJobs.isEmpty then acc else acc.withDev (acc.offerSorter g)) s

/-- What one pass does to a top-k instance (R219, R220). -/
def Inst.pass (x : Inst) (v : View) (o : OpDesc) (g : Nat) : Inst :=
  let k := o.kTop
  if x.sorts.all SortPart.done then
    match x.sorts with
    | [] => x
    | p :: ps =>
      let all := ps.flatMap SortPart.held
      let batch := (all.drop (p.merged * (1024 - k))).take (1024 - k)
      { x with left := x.left - 1, sorts := { p with merged := p.merged + 1, held := sortPass o.desc k p.held batch } :: ps }
  else
    match x.sorts.find? (fun p => p.region == g && !p.done) with
    | none => x
    | some p =>
      let n := min (if p.taken = 0 then 1024 else 1024 - k) (p.count - p.taken)
      let batch := (List.range n).map (fun i => v.sortEntry o (p.first + p.taken + i))
      let q := { p with taken := p.taken + n, held := sortPass o.desc k p.held batch, done := decide (p.count ≤ p.taken + n) }
      { x with
        left := if q.done then x.left - 1 else x.left
        sorts := x.sorts.map (fun y => if y.region = p.region && y.first = p.first then q else y) }

/-! ### After any work -/

/-- A unit that has come free starts the closing pattern a round waits for. -/
def Dev.lateClosings (d : Dev) : Dev :=
  (d.liveJobs.flatMap (fun j => (j.round.map Round.closing).getD [])).foldl
    (fun acc c => if (if c < 384 then acc.cell c else acc.engine (c - 384)).pattern then acc else acc.startClosing c) d

/-- Does a unit run a pattern? -/
def Dev.patternOn (d : Dev) (c : Nat) : Bool := (if c < 384 then d.cell c else d.engine (c - 384)).pattern

/-- Closing patterns a round need not wait for any more: those of units that have left service and run none.
[notes/assumptions 98 DEDUCED, unsafe] -/
def Dev.dropClosings (d : Dev) : Dev :=
  { d with jobs := d.jobs.map (fun j =>
      (j.1, { j.2 with round := j.2.round.map (fun r =>
        if r.closing.isEmpty then r
        else
          let l := r.closing.filter (fun c => d.codeUp c || d.patternOn c)
          if l.isEmpty then { r with closing := [], ready := true, readyAt := d.now } else { r with closing := l }) })) }

/-- What a round waits for: the end of a FETCH's copy and transaction entries for a sorter under REGULATOR (R358, R285), the
flush of a line whose channel retrains under LANE_RETRAIN (R306), and in a best-effort round the recall of streams that are
to step, under STATE_RECALL (R195). -/
def Dev.waitsOf (d : Dev) (j : Job) (r : Round) : List (Stall × List Nat) :=
  let away := if r.working j.batch && !r.inStep && decide (r.step < r.obsSteps) then r.recallStreams d j.id else []
  let last := !r.inStep && decide (r.phase = .imagined) && !(decide (r.step < j.prog.hdr.s) && j.imagines)
  let starved := r.insts.any (fun x => x.runs .sorter && d.passStarved j (j.prog.op x.op))
  (if r.working j.batch && (d.copyWaits j || starved) then [(.regulator, [])] else []) ++
    (if r.working j.batch && last && d.flushWaits j.id then [(.laneRetrain, [])] else []) ++
      (if away.isEmpty then [] else [(.stateRecall, away)])

/-- The waits of every round that begin and end now (R16). -/
def Dev.roundWaits (d : Dev) : Dev :=
  { d with jobs := d.jobs.map (fun j =>
      (j.1, match j.2.round with
        | none => j.2
        | some r => j.2.setWaits d.now (d.waitsOf j.2 r))) }

/-- The parts whose data an item covers (R278). -/
def View.partsOf (v : View) (o : OpDesc) (q : IProb) (row0 rows : Nat) : List (Option PartId) :=
  if v.isPerFuture o.dst || o.cls = 3 then
    ((List.range rows).map (fun i => some (v.member (q.memberOf (row0 + i))).who)).eraseDups
  else [none]

/-- The parts that a cell or engine item of a running instance covers. -/
def State.itemParts (s : State) (j : Job) (r : Round) (x : Inst) (item : Nat) : List (Option PartId) :=
  let o := j.prog.op x.op
  let v := s.view j r
  if x.kind = .cells then
    let q := x.tileAt j r item
    v.partsOf o q.1 q.2.row0 q.2.rows
  else match x.slices.find? (fun sl => sl.item == item) with
    | some sl => (((instProblems j.prog o r.phase r.members.length x.counts)[sl.prob]?).map (fun q =>
        v.partsOf o q 0 q.rows)).getD [none]
    | none => [none]

/-- Does a vote wait for an execution that no unit in service may run (R135, R448, R451)? -/
def Dev.orphan (d : Dev) (j : Job) (r : Round) (x : Inst) (v : Vote) : Bool :=
  match v.waits with
  | none => false
  | some role =>
    if x.kind = .cells then !(List.range 384).any (d.mayCheck j r v)
    else if role = .third then (d.thirdEngine v).isNone
    else !((List.range 16).any (fun e => d.mayCheckSlice v (v.orig / 16 * 16 + e)))

/-- A vote that no unit can serve any more: the item is left unchecked and counted, or, when its executions differ, ends
PARALLAX_UNRESOLVED (R135, R448, R451). -/
def State.releaseVote (s : State) (j : Job) (r : Round) (x : Inst) (v : Vote) : State :=
  let onCells := decide (x.kind = .cells)
  if v.needThird then
    s.withDev (s.dev.unresolved { job := j.id, op := x.op, item := v.item, role := .original, unit := v.orig
                                  onCells := onCells, cells := [], now := false, wrong := []
                                  parts := s.itemParts j r x v.item, start := s.dev.now } v)
  else s.withDev ((s.dev.modRound j.id (fun y => y.modInst x.op (fun z =>
    { z with votes := z.votes.filter (fun w => w.item != v.item) }))).count 0x7040 (if onCells then 2 else 1) 1)

/-- The votes of every round that no unit can serve any more, and the operators that waited for them alone. -/
def State.releaseVotes (s : State) : State :=
  s.dev.liveJobs.foldl (fun acc j =>
    match j.round with
    | none => acc
    | some r => if !r.working j.batch then acc
      else r.insts.foldl (fun b x =>
        let l := if decide (x.state = .running) then x.votes.filter (s.dev.orphan j r x) else []
        if l.isEmpty then b
        else State.settleInst (j.prog.op x.op).fuel (l.foldl (fun c v => c.releaseVote j r x v) b) j.id x.op) acc) s

/-- Flare entries that wait are taken, rounds go on, windows that are over close, idle engines and sorters take work.
[notes/assumptions 111 DEDUCED, unsafe] -/
def State.pump (s : State) : State :=
  let s1 := s.flare.releaseVotes.runRounds
  let s2 := s1.withDev ((List.range 12).foldl Dev.closeWindow s1.dev.serveEntries.roundWaits.dropClosings.lateClosings)
  s2.offerEngines.offerSorters

/-! ### The regulators (R310, R126) -/

/-- Lines of a best-effort item taken from the regulators, as latency-critical ones or as others (R126).
[notes/assumptions 99 DEDUCED, unsafe] -/
def Dev.regulate (d : Dev) (j : Job) (critical : Bool) (ts : List Traffic) : Dev :=
  ts.foldl (fun acc t =>
    match t.space with
    | .stack k =>
      if j.batch.guaranteed then acc
      else if critical then acc.takeCritical j.part k t.lines else acc.takeTokens j.part k t.lines
    | _ => acc) d

/-! ### TILE_COMPLETE -/

/-- Does an instance write its tiles as they complete? -/
def writesTiles (o : OpDesc) : Bool := o.cls != 3 && decide (o.stages.length ≤ 1)

/-- Poisoned lines a tile reads; a tile of a convolution in several stages is judged by its operator. -/
def View.tileMet (v : View) (o : OpDesc) (probs : List IProb) (q : IProb) (t : Tile) : List Met :=
  if 1 < o.stages.length then probs.flatMap (fun p => v.met o p 0 1 0 p.n)
  else v.met o q t.row0 t.rows t.col0 t.cols

/-- The suspect record of an execution (R455). -/
def Held.suspect (h : Held) (r : Round) (stage : Nat) : Suspect :=
  { job := h.job, round := h.round, phase := r.phase, step := r.step, op := h.op, stage := stage, item := h.item
    role := h.role }

/-- What an item's lines waited for slots counts under REGULATOR for its best-effort job (R126, R310); a guaranteed job
has its fixed slots and its windows.
[notes/assumptions 182 DESIGN CHOICE, unsafe] -/
def Dev.slotWait (d : Dev) (job waited : Nat) : Dev :=
  if waited = 0 then d else d.stall job .regulator waited

/-- The mcyc an item's lines waited, which a guaranteed job's never do.
[notes/assumptions 182 DESIGN CHOICE, unsafe] -/
def Dev.waitedOf (d : Dev) (job : Nat) (obs : UnitObs) : Nat :=
  if (d.liveJob job).any (fun j => j.batch.guaranteed) then 0 else obs.waited

/-- Does an operator read through Stratus: pages of a layer that spills, or a streamed weight (R155, R261)? -/
def Dev.readsTier (d : Dev) (j : Job) (o : OpDesc) : Bool :=
  (o.cls == 1 && (j.kvHomes[o.attLayer]?).any KvHome.spilled) ||
    (tget d.images j.imageNo).any (fun im => o.tensors.any (streamedRef j.prog im))

/-- The ns an item waited for late Stratus reads, if its operator reads through Stratus at all.
[notes/assumptions 189 DESIGN CHOICE, safe] -/
def Dev.lateOf (d : Dev) (h : Held) (obs : UnitObs) : Nat :=
  if (d.liveJob h.job).any (fun j => d.readsTier j (j.prog.op h.op)) then obs.late else 0

/-- An item at its end `t` as its unit was planned, or later when it has waited there for a line, moved on by what its late
Stratus reads and its lines' slots cost: the first counts under TIER_LATE for every job, the second under REGULATOR (R155,
R310).
[notes/assumptions 22 DEDUCED, unsafe] -/
def Dev.itemEnds (d : Dev) (h : Held) (t : Tns) (late waited : Nat) : Dev :=
  let d0 := match h.halted with
    | some x => (d.advance t).stall h.job x.1 ((d.advance t).now - x.2)
    | none => d
  let d1 := d0.advance (t + late)
  let d2 := if late = 0 then d1 else d1.stall h.job .tierLate late
  (d2.advance (t + late + waited)).slotWait h.job waited

/-- A check that has ended: its cycles count in the allowance of the job it checks, and those beyond it delay the job that holds
the cell, if another does, under PARALLAX_RERUN (R97, R457).
[notes/assumptions 183 DEDUCED, unsafe] -/
def Dev.chargeCheck (d : Dev) (j : Job) (r : Round) (n : Nat) (h : Held) : Dev :=
  if h.role = .original then d
  else
    let e := d.envOf j
    let limit := parallaxAllowance j.prog (if e.cells.isEmpty then { e with cells := r.cells } else e) j.batch
    let beyond := min h.cost (r.dupUsed + h.cost - limit)
    let d1 := d.modRound j.id (fun y => { y with dupUsed := y.dupUsed + h.cost })
    match d.liveJobs.find? (fun g => g.id != j.id && g.round.any (fun x => !x.decided && x.cells.contains n)) with
    | none => d1
    | some g =>
      if beyond = 0 then d1
      else d1.stall g.id .parallaxRerun (d.cyclesNs h.start h.cost - d.cyclesNs h.start (h.cost - beyond))

/-- A tile completes on its cell.
[notes/assumptions 13 DESIGN CHOICE, unsafe] -/
def State.tileEnd (s : State) (n : Nat) (h : Held) (obs : UnitObs) : State :=
  let upper := (s.dev.cell n).parts.upper
  let w := s.dev.waitedOf h.job obs
  let s := (s.withDev ((s.dev.itemEnds h (h.endAt s.dev.ageing.clock) (s.dev.lateOf h obs) w).nextHeld n)).meet obs.lines
  let d0 := s.dev
  match d0.round? h.job with
  | none => s.withDev d0
  | some (j, r) =>
    match r.insts.find? (fun x => x.op == h.op && x.runs .cells) with
    | none => s.withDev d0
    | some x =>
      if r.number != h.round then s.withDev d0
      else
        let o := j.prog.op h.op
        let v := (s.view j r).throughCache d0
        let q := x.tileAt j r h.item
        let probs := instProblems j.prog o r.phase r.members.length x.counts
        let d1 := ((d0.cellBusy j h.role h.cost).chargeCheck j r n h).modCell n
          (fun c => { c with suspects := c.suspects ++ [h.suspect r x.stage] })
        let e := ((((d1.regulate j true (d1.tileStates j r x h.item)).regulate j false (d1.tileOthers j r x h.item)).regulate j false
          (d1.tileWrites j r x h.item)).eff).readLines s.mem h.job (v.tileReach o q.1 q.2)
        let left (outs : List Host.Cell) (sum : Nat) : UnitParts :=
          v.endTile h.job h.op o x.stage q.1 q.2 outs sum { (d0.cell n).parts with upper := upper }
        let done (outs : List Host.Cell) (sum : Nat) (x' : Eff) : Eff := x'.mod (fun d =>
          d.modCell n (fun c => { c with parts := (s.withDev d).tileParts n upper (left outs sum) }))
        if r.doomed j.batch then s.apply (done [] 0 e)
        else
          let met := v.tileMet o probs q.1 q.2
          let now := writesTiles o
          let rows := if now then [] else v.stageRows o h.op x.stage probs q.1 q.2 r.renorm
          let i : ItemEnd :=
            { job := h.job, op := h.op, item := h.item, role := h.role, unit := n, onCells := true, now := now
              cells := if now then v.tileOutput o h.op q.1 q.2 else [], wrong := obs.wrong
              parts := v.partsOf o q.1 q.2.row0 q.2.rows, start := h.start
              before := if now then
                  (if o.cls = 1 then v.attChecked o q.1 q.2.rowList else [])
                else rows.flatten }
          let base := halfBase upper + o.csD
          let outs := if now then v.storedOutput o base (q.2.rowList.map (fun k => v.tileRow o h.op q.1 q.2 k q.2.col0 q.2.cols))
            else storedRows base rows
          let e := done outs i.sum e
          if met.isEmpty then s.apply (e.endItem s.mem i)
          else s.apply ((e.mod (fun d => d.modRound h.job (fun y => y.failMet s.mem d.repairs d.now (n / 64) met))).spoilItem i)

/-- What a tile waits for at its end, with the lines its cell has met. -/
def State.tileHalt (s : State) (h : Held) (obs : UnitObs) : Option Stall :=
  match s.dev.round? h.job with
  | none => none
  | some (j, r) =>
    match r.insts.find? (fun x => x.op == h.op && x.runs .cells), r.number == h.round with
    | some x, true =>
      let q := x.tileAt j r h.item
      s.dev.haltOf obs.lines ((s.view j r).tileReach (j.prog.op h.op) q.1 q.2)
    | _, _ => none

/-- An item that waits at its end, from the first time on.
[notes/assumptions 22 DEDUCED, unsafe] -/
def Held.halt (h : Held) (c : Stall) (now : Tns) : Held :=
  { h with halted := match h.halted with
      | some x => some x
      | none => some (c, now) }

/-- TILE_COMPLETE: a tile that waits for transaction entries has not run; one that waits for a line stays on its cell. -/
def State.tileComplete (s : State) (n : Nat) (obs : UnitObs) : State :=
  match (s.dev.cell n).held.filter (fun h => h.wants.isEmpty), ((s.dev.cell n).held.bind (fun h => s.tileHalt h obs)) with
  | none, _ => s.apply s.dev.eff
  | some h, some c =>
    let d := s.dev.advance (h.endAt s.dev.ageing.clock)
    s.withDev (d.modCell n (fun u => { u with held := some (h.halt c d.now) }))
  | some h, none =>
    let s1 := s.tileEnd n h obs
    let fuel := ((s1.dev.job? h.job).map (fun j => (j.prog.op h.op).fuel)).getD 0
    (State.settleInst fuel s1 h.job h.op).pump

/-! ### CIRRUS_OPERATION_COMPLETE -/

/-- The cells a MATMUL slice writes, in the order its checksum takes them: its columns of every row of its problem, row by row,
and in a row each block's codes before its scale.
[notes/assumptions 195 DESIGN CHOICE, unsafe] -/
def View.sliceCells (v : View) (o : OpDesc) (opIdx : Nat) (q : IProb) (sl : Slice) : List Host.Cell :=
  let kc := (engineDepth o.fmtW).getD 64
  let dst := v.prog.tensor? o.dst
  let pf := (dst.map Tensor.perFuture).getD false
  let hi := if q.n ≤ sl.col0 + sl.cols then 2 ^ 40 else sl.col0 + sl.cols
  (List.range q.rows).flatMap (fun row =>
    let lin := q.offD + q.rowOf pf row * (dst.map Tensor.d0).getD 1
    (v.matmulRow o opIdx kc q row 0 q.n).filter (fun c => v.inColumns o.dst (q.memberOf row) lin sl.col0 hi c.1))

/-- A slice completes on its engine.
[notes/assumptions 13 DESIGN CHOICE, unsafe] -/
def State.sliceEnd (s : State) (n : Nat) (h : Held) (obs : UnitObs) : State :=
  let w := s.dev.waitedOf h.job obs
  let late := s.dev.lateOf h obs
  let s := (s.withDev ((s.dev.itemEnds h (h.since + h.cost) late w).modEngine n (fun c => { c with held := none }))).meet obs.lines
  let d0 := s.dev
  match d0.round? h.job with
  | none => s.withDev d0
  | some (j, r) =>
    match r.insts.find? (fun x => x.op == h.op && x.runs .cirrus) with
    | none => s.withDev d0
    | some x =>
      match x.slices.find? (fun sl => sl.item == h.item), r.number == h.round with
      | some sl, true =>
        let o := j.prog.op h.op
        let v := s.view j r
        let q := (instProblems j.prog o r.phase r.members.length x.counts).getD sl.prob ⟨0, 0, 0, 0, 0, 0, none, 0, 0⟩
        let d1 := (d0.engineBusy j h.role (h.cost + late + w)).modEngine n (fun c => { c with suspects := c.suspects ++ [h.suspect r 0] })
        let d2 := d1.modRound h.job (fun y => y.modInst h.op (fun z =>
          if h.role = .original then { z with slices := z.slices.map (fun a => if a.item = h.item then { a with done := true } else a) }
          else z))
        let d3 := (d2.regulate j true (d0.sliceCritical j r x sl)).regulate j false (d0.sliceWrites j r x sl)
        let e := d3.eff
        let bytes := v.sliceBytes o h.op q sl r.renorm
        let done (sum : Nat) (x' : Eff) : Eff := x'.mod (fun d => d.modEngine n (fun c => { c with parts := v.endSlice o q sl bytes sum c.parts }))
        if r.doomed j.batch then s.apply (done 0 e)
        else
          let met := v.met o q 0 q.rows sl.col0 sl.cols
          let i : ItemEnd :=
            { job := h.job, op := h.op, item := h.item, role := h.role, unit := n, onCells := false, now := o.cls == 0
              cells := if o.cls = 0 && sl.writes then v.sliceCells o h.op q sl else [], wrong := obs.wrong
              parts := v.partsOf o q 0 q.rows, start := h.start, before := bytes }
          let e := done i.sum e
          if met.isEmpty then s.apply (e.endItem s.mem i)
          else s.apply ((e.mod (fun d => d.modRound h.job (fun y => y.failMet s.mem d.repairs d.now (n / 32) met))).spoilItem i)
      | _, _ => s.withDev d0

/-- Cycles of the steps of R128 that an operator on engines runs beside its operations: broadcast, gather, fold and
result writes. -/
def engineSteps (p : Program) (o : OpDesc) (probs : List IProb) (slices : List Slice) : Nat :=
  let out (rows cols : Nat) : Nat := ceilDiv (ceilDiv (rowsBytes o.gate.outFmt cols rows) 128) 4 + 42
  match o.cls with
  | 1 =>
    let a := p.att.getD o.attLayer (AttLayer.ofNat 0)
    sumNat (probs.zipIdx.map (fun q =>
      let mine := slices.filter (fun sl => sl.prob == q.2)
      let k := ((mine.find? (fun sl => sl.col0 == 0)).map Slice.stack).getD 0
      let near := (mine.filter (fun sl => sl.stack == k)).length
      if mine.isEmpty then 0
      else foldCycles a.dh q.1.rows near (mine.length - near) (rowsBytes o.gate.outFmt a.dh q.1.rows)))
  | 3 => sumNat (probs.map (fun q =>
      if q.rows = 0 then 0
      else 64 + 40 + ceilDiv (q.rows * (((p.tensor? o.srcA).map Tensor.d0).getD 0) * 4) 512 +
        out q.rows (maxNat (slices.map Slice.cols))))
  | _ => sumNat (probs.zipIdx.map (fun q =>
      sumNat (((slices.filter (fun sl => sl.prob == q.2)).map Slice.stack).eraseDups.map (fun k =>
        let cols := maxNat ((slices.filter (fun sl => sl.prob == q.2 && sl.stack == k && sl.writes)).map Slice.cols)
        64 + ceilDiv (rowsBytes o.fmtA q.1.k q.1.rows) 512 + out q.1.rows cols))))

/-- The steps of R128 counted as engine time once every slice of an operator is done. -/
def State.countSteps (s : State) (job op : Nat) : State :=
  match s.dev.round? job with
  | none => s
  | some (j, r) =>
    match r.insts.find? (fun x => x.op == op && x.runs .cirrus) with
    | none => s
    | some x =>
      if x.left != 0 || !x.votes.isEmpty then s
      else
        let o := j.prog.op op
        s.withDev (s.dev.engineBusy j .original
          (engineSteps j.prog o (instProblems j.prog o r.phase r.members.length x.counts) x.slices))

/-- Everything a slice reads: the rows of its vector load, and weight rows, pages or states. -/
def View.sliceReach (v : View) (o : OpDesc) (q : IProb) (sl : Slice) : List Reach :=
  match o.cls with
  | 1 => v.reachAll o.srcA q ++ v.reachPages o.attLayer (q.memberOf 0) q.head
  | 3 => v.reachRows o.srcA q 0 q.rows ++ (List.range q.rows).flatMap (fun i => v.reachState o.recLayer (q.memberOf i))
  | _ => v.reachRows o.srcA q 0 q.rows ++ v.reachWeight o.srcW ((o.weightRows v.prog q).1 + sl.col0) sl.cols

/-- What a slice waits for at its end, with the lines its engine has met. -/
def State.sliceHalt (s : State) (h : Held) (obs : UnitObs) : Option Stall :=
  match s.dev.round? h.job with
  | none => none
  | some (j, r) =>
    match r.insts.find? (fun x => x.op == h.op && x.runs .cirrus), r.number == h.round with
    | some x, true =>
      let o := j.prog.op h.op
      (x.slices.find? (fun sl => sl.item == h.item)).bind (fun sl =>
        ((instProblems j.prog o r.phase r.members.length x.counts)[sl.prob]?).bind (fun q =>
          s.dev.haltOf obs.lines ((s.view j r).sliceReach o q sl)))
    | _, _ => none

/-- CIRRUS_OPERATION_COMPLETE: a slice that waits for transaction entries has not run; one that waits for a line stays on its
engine. -/
def State.sliceComplete (s : State) (n : Nat) (obs : UnitObs) : State :=
  match (s.dev.engine n).held.filter (fun h => h.wants.isEmpty), ((s.dev.engine n).held.bind (fun h => s.sliceHalt h obs)) with
  | none, _ => s.apply s.dev.eff
  | some h, some c =>
    let d := s.dev.advance (h.since + h.cost)
    s.withDev (d.modEngine n (fun u => { u with held := some (h.halt c d.now) }))
  | some h, none => (State.settleInst 2 ((s.sliceEnd n h obs).countSteps h.job h.op) h.job h.op).pump

/-! ### ZENITH_PASS_COMPLETE -/

/-- A pass completes on a region's sorter (R219): 72 ccyc counted, its entries held. -/
def State.passEnd (s : State) (g : Nat) : State :=
  match (s.dev.region g).sorter.job with
  | none => s.apply s.dev.eff
  | some (job, op) =>
    let d0 := (s.dev.advance ((s.dev.region g).sorter.start + ceilDiv (72 * 1000 - (s.dev.region g).sorter.milli) s.dev.ageing.clock)).modRegion g
      (fun y => { y with sorter := { y.sorter with job := none } })
    match d0.round? job with
    | none => s.withDev d0
    | some (j, r) =>
      match r.insts.find? (fun x => x.op == op && x.runs .sorter) with
      | none => s.withDev d0
      | some _ =>
        let v := s.view j r
        let o := j.prog.op op
        let q : IProb := { rows := 0, k := 0, n := 0, offA := 0, offW := 0, offD := 0, member := none, rpm := 0 }
        let met := (v.metAll o.srcA q).filter Met.bad
        let lines := ((v.reachAll o.srcA q).flatMap (fun x => if x.bytes = 0 then []
          else (List.range ((x.addr + x.bytes - 1) / 128 - x.addr / 128 + 1)).map (x.addr / 128 + ·))).take (fmtBits o.fmtA)
        let d1 := ((d0.regulateLines j lines).sorterBusy j 72).modRound job (fun y =>
          (y.modInst op (fun x => x.pass v o g)).failMet s.mem d0.repairs d0.now g met)
        (State.settleInst 2 (s.apply (d1.eff.readLines s.mem job (v.reachAll o.srcA q))) job op).pump

/-! ### The meanings -/

/-- TILE_CLAIM. -/
def execTileClaim (cell : Fin 384) (s : State) : Host.Outcome State Fault Refusal := s.done (s.tileClaim cell).eff

/-- TILE_COMPLETE. -/
def execTileComplete (cell : Fin 384) (obs : UnitObs) (s : State) : Host.Outcome State Fault Refusal :=
  .next (s.tileComplete cell obs)

/-- CIRRUS_OPERATION_COMPLETE. -/
def execCirrusOperationComplete (stack : Fin 12) (engine : Fin 16) (obs : UnitObs) (s : State) :
    Host.Outcome State Fault Refusal :=
  .next (s.sliceComplete (stack.val * 16 + engine.val) obs)

/-- GUARANTEED_WINDOW_START. -/
def execGuaranteedWindowStart (stack : Fin 12) (s : State) : Host.Outcome State Fault Refusal :=
  .next (s.withDev (s.dev.windowStart stack)).offerEngines

/-- ZENITH_PASS_COMPLETE. -/
def execZenithPassComplete (region : Fin 6) (s : State) (met : List LineError := []) : Host.Outcome State Fault Refusal :=
  .next ((s.meet met).passEnd region)

/-- RO_LINE_REPAIR: the reads that waited for the line go on. -/
def execRoLineRepair (stack : Fin 12) (la : Nat) (correctable : Bool) (s : State) : Host.Outcome State Fault Refusal :=
  .next (s.apply (s.dev.repaired stack la correctable)).pump

/-- STRATUS_READ_COMPLETE: what waited for the read goes on. -/
def execStratusReadComplete (read : StratusRead) (correctable : Bool) (s : State) : Host.Outcome State Fault Refusal :=
  .next (s.apply (s.stratusRead read correctable)).pump

end Sys2Proof.Machine
end

