-- ==== Sys2Proof/Machine/Patterns.lean ====
section
/-!
DEFINITION. The built-in arithmetic pattern (R453 to R456, R452) and field tests (R460 to R463): idle patterns, what
follows a pass or a failure, and the start and the end of a test.
-/

namespace Sys2Proof.Machine

/-! ### Patterns -/

/-- A unit by the code of `patternCode`. -/
def Dev.unitOf (d : Dev) (c : Nat) : ComputeUnit := if c < 384 then d.cell c else d.engine (c - 384)

/-- A unit changed by its code. -/
def Dev.modUnit (d : Dev) (c : Nat) (f : ComputeUnit → ComputeUnit) : Dev :=
  if c < 384 then d.modCell c f else d.modEngine (c - 384) f

/-- Does a running round hold a unit: a cell of its set, an engine in its window? -/
def Dev.heldByRound (d : Dev) (c : Nat) : Bool :=
  if c < 384 then d.liveJobs.any (fun j => j.round.any (fun r => !r.decided && !r.ready && r.cells.contains c))
  else ((d.stack ((c - 384) / 16)).window).isSome

/-- IDLE_PATTERN: 10 ms after its last passed pattern a unit that no running round holds runs the pattern (R454). -/
def Dev.idleRun (d : Dev) (c : Nat) : Dev :=
  if !d.fullManagement || !d.patternFree c || d.patternOn c || d.heldByRound c then d
  else ((d.advance (d.lastPass c + 10000000)).startPattern c).modUnit c (fun x => { x with idlePattern := true })

/-- Length of a pattern in cycles (R453): cells in ccyc, engines in mcyc. -/
def patternCycles (c : Nat) : Nat := if c < 384 then 1280 else 600

/-- A pattern ends: its cycles are counted and the unit runs it no more. -/
def Dev.endPattern (d : Dev) (c : Nat) : Dev :=
  let x := d.unitOf c
  let ns := if c < 384 then ceilDiv (1280 * 1000 - x.patternMilli) d.ageing.clock else 600
  ((d.advance (x.patternAt + ns)).count 0x7000 (if c < 384 then 3 else 4) (patternCycles c)).modUnit c
    (fun y => { y with pattern := false, idlePattern := false })

/-- A unit no longer owes the pattern that cause [0] waits for; with none left the cause clears (R468). -/
def Eff.patternDone (e : Eff) (c : Nat) : Eff :=
  let was := e.dev.support.awaitPass
  let l := (was.filter (· != c)).filter e.dev.codeUp
  let e1 := e.mod (fun d => { d with support := { d.support with awaitPass := l } })
  if !was.isEmpty && l.isEmpty then { e1 with safety := e1.safety ++ [.clear 0] } else e1

/-- A unit no longer owes rounds its closing pattern (R454). -/
def Dev.closingDone (d : Dev) (c : Nat) : Dev :=
  { d with jobs := d.jobs.map (fun j =>
      (j.1, { j.2 with round := j.2.round.map (fun r =>
        if !r.closing.contains c then r
        else
          let l := r.closing.filter (· != c)
          if l.isEmpty then { r with closing := [], ready := true, readyAt := d.now } else { r with closing := l }) })) }

/-- A pattern passes (R454, R452): the unit's suspect work is clean; a unit fenced by a vote is queued for a field
test. -/
def Eff.patternPasses (e : Eff) (c : Nat) : Eff :=
  let d := e.dev
  let d1 := d.modUnit c (fun x => { x with lastPass := d.now, suspects := [] })
  let d2 := if (d.unitOf c).fenced && !(d.unitOf c).margin then
      d1.requestTest (testUnit (decide (c < 384)) (if c < 384 then c else c - 384)) 2
    else d1
  ({ e with dev := d2.closingDone c } : Eff).patternDone c

/-- The round and the instance that suspect work belongs to, while its round is undecided; no instance when that has
completed. -/
def Dev.suspectAt (d : Dev) (x : Suspect) : Option (Round × Option Inst) :=
  match d.round? x.job with
  | none => none
  | some (_, r) =>
    if r.number != x.round || r.decided then none
    else if decide (r.phase = x.phase) && r.step == x.step then
      some (r, r.insts.find? (fun i => i.op == x.op && decide (i.state = .running) && i.stage == x.stage))
    else some (r, none)

/-- One suspect execution is run again (R455): a tile goes back to its region's list, a slice to its stack, a check to
be posted.
[notes/assumptions 108 DESIGN CHOICE, safe; 109 DEDUCED, unsafe] -/
def Inst.runAgain (i : Inst) (c : Nat) (x : Suspect) : Inst :=
  match x.role with
  | .original =>
    let y := i.modVote x.item (fun v => { v with origSum := none })
    if c < 384 then { (y.giveBack (c / 64) x.item) with left := y.left + 1 }
    else y.restartGroup x.item
  | .duplicate => i.modVote x.item (fun v => { v with dup := none, dupSum := none })
  | .third => i.modVote x.item (fun v => { v with third := none, thirdSum := none })

/-- The block a unit lies in, for the count of R468: engines count by their stack.
[notes/assumptions 104 DEDUCED, unsafe] -/
def patternBlock (c : Nat) : Nat := if c < 384 then c / 8 else 48 + (c - 384) / 16

/-- The failure of a pattern noted; two blocks within 1 s raise cause [0] (R468), with the failed cell as its unit
(R437). -/
def Dev.notePatternFail (d : Dev) (c : Nat) : Dev :=
  let near := d.support.patternFails.filter (fun f => decide (d.now ≤ f.2 + 1000000000))
  let d1 : Dev := { d.count 0x7040 6 1 with support := { d.support with
    patternFails := near.filter (fun f => f.1 != patternBlock c) ++ [(patternBlock c, d.now)] } }
  if near.any (fun f => f.1 != patternBlock c) then d1.raise 0 (if c < 384 then cellUnit c else 0xFFFF) else d1

/-- What becomes of the suspect work of a unit whose pattern failed: run again when every part of it belongs to an
instance that has not completed, else the rounds that hold it end INTERNAL whole (R455). The wait it costs is a
duration the model does not have: a free value.
[notes/assumptions 108 DESIGN CHOICE, safe] -/
def Dev.suspectWork (d : Dev) (c : Nat) : Dev :=
  let l := (d.unitOf c).suspects.filterMap (fun x => (d.suspectAt x).map (fun y => (x, y.2)))
  if l.all (fun x => x.2.isSome) then
    l.foldl (fun acc x =>
      let f := acc.free
      (f.2.modRound x.1.job (fun r => r.modInst x.1.op (fun i => i.runAgain c x.1))).stall x.1.job .fenceReissue f.1) d
  else l.foldl (fun acc x => acc.modRound x.1.job (fun r =>
    r.fail none .internal d.now (if c < 384 then c / 64 else (c - 384) / 32))) d

/-- A pattern fails: the unit is fenced and its test queued (R455). -/
def Eff.patternFails (e : Eff) (c : Nat) : Eff :=
  let d := e.dev.suspectWork c
  let d1 := (d.modUnit c (fun x => { x with suspects := [] })).emergencyFence
    (if c < 384 then cellUnit c else engineUnit (c - 384))
  let d2 := d1.requestTest (testUnit (decide (c < 384)) (if c < 384 then c else c - 384)) 2
  ({ e with dev := (d2.notePatternFail c).closingDone c } : Eff).patternDone c

/-- PATTERN_COMPLETE. -/
def State.patternEnd (s : State) (c : Nat) (pass : Bool) : State :=
  if !s.dev.patternOn c then s.apply s.dev.eff
  else
    let e := (s.dev.endPattern c).eff
    (s.apply (if pass then e.patternPasses c else e.patternFails c)).pump

/-! ### Field tests -/

/-- Does a job's round use a unit: its cells, slices dealt to its engines, sorter parts of its region, and for a guaranteed
job every cell, window, slot and sorter of the grant (R262, R268)? -/
def Job.roundUses (j : Job) (r : Round) (u : Nat) : Bool :=
  let mine (b : Bool) : Bool := j.batch.guaranteed && b
  let n := unitRegion u
  (unitCells u).any (fun c => r.cells.contains c || mine (j.grant.cells.contains c)) ||
  (unitEngines u).any (fun e => mine (j.grant.windows.any (fun w => w.stack == e / 16)) ||
    r.insts.any (fun x => x.slices.any (fun y => y.stack * 16 + y.engine == e && !y.done))) ||
  (decide (u < 0x8000) && unitKind u == 2 &&
    (mine (j.grant.sorters.contains n || j.usesStack (2 * n) || j.usesStack (2 * n + 1)) ||
      r.insts.any (fun x => x.sorts.any (fun y => y.region == n && !y.done))))

/-- Is a unit free for a test or a removal: no undecided round uses it, and no cell or engine of it works or is in a window
(R268, R281)?
[notes/assumptions 110 DEDUCED, unsafe] -/
def Dev.unitFree (d : Dev) (u : Nat) : Bool :=
  (unitCells u).all (fun n => (d.cell n).held.isNone) &&
  (unitEngines u).all (fun n => (d.engine n).held.isNone && (d.stack (n / 16)).window.isNone) &&
  !(d.liveJobs.any (fun j => j.round.any (fun r => !r.decided && j.roundUses r u)))

/-- Time of a field test in tns (R460). -/
def testTime (u : Nat) : Nat :=
  match unitKind u with
  | 0 => 4200000
  | 1 => 34000000
  | _ => 180000000

/-- Cells and engines of a unit under test, or no longer. -/
def Dev.setTesting (d : Dev) (u : Nat) (on : Bool) : Dev :=
  let d1 := (unitCells u).foldl (fun acc n => acc.modCell n (fun x => { x with testing := on })) d
  (unitEngines u).foldl (fun acc n => acc.modEngine n (fun x => { x with testing := on })) d1

/-- FIELD_TEST_START: at a boundary, once the rounds of the tick have been decided, the first queued test of a region
starts if its patterns are loaded and its unit is free; a region has first to be out of service (R461, R462, R272).
[notes/assumptions 110 DEDUCED, unsafe] -/
def Dev.testStart (d : Dev) (r : Nat) : Dev :=
  match (d.region r).tests with
  | [] => d
  | t :: rest =>
    let u := t.unit
    if t.running || !t.loaded || !d.tick.commitDone || !d.unitFree u ||
        (unitKind u == 2 && !(d.region r).outOfService) then d
    else
      let news := (unitCells u).any d.cellUp
      let d1 := d.advance d.tick.next
      let d2 := (d1.setTesting u true).modRegion r (fun x =>
        { x with tests := { t with running := true, wasFenced := !news, started := d1.now } :: rest })
      let d3 := if news then (d2.capacityOf u 2).markReadmit (fun j => j.grant.cells.any (fun n => (unitCells u).contains n))
        else d2
      if d3.mgmtTest = 1 && unitInside d3.mgmtTestUnit u then { d3 with mgmtTest := 2 } else d3

/-- The hosts that wait for a test of a unit or of one inside it. -/
def Dev.testWaiters (d : Dev) (u : Nat) : List (Nat × Nat) :=
  d.parts.flatMap (fun x => x.2.waits.filterMap (fun w =>
    match w.what with
    | .test v => if unitInside v u then some (x.1, w.pkt.tag) else none
    | _ => none))

/-- Cells and engines of a unit fenced, as a failed test leaves them. -/
def Dev.fenceUnit (d : Dev) (u : Nat) : Dev :=
  let d1 := (unitCells u).foldl (fun acc n => acc.modCell n (fun x => { x with fenced := true, testing := false })) d
  let d2 := (unitEngines u).foldl (fun acc n => acc.modEngine n (fun x => { x with fenced := true, testing := false })) d1
  if unitKind u = 2 then d2.modRegion (unitRegion u) (fun x => { x with sorter := { fenced := true } }) else d2

/-- FIELD_TEST_COMPLETE: a pass returns the unit at the next boundary; a fail keeps all it covered fenced. The result
is told to who asked (R462, R463), and a pass of a unit with a margin mark asks for a re-plan (R491).
[notes/assumptions 104 DEDUCED, unsafe] -/
def Dev.testEnd (d : Dev) (r : Nat) (pass : Bool) : Dev :=
  match (d.region r).tests with
  | [] => d
  | t :: rest =>
    if !t.running then d
    else
      let u := t.unit
      let d1 := (d.advance (t.started + testTime u)).modRegion r (fun x =>
        { x with tests := rest, passed := if pass then x.passed ++ [u] else x.passed })
      let d2 := if pass then d1 else d1.fenceUnit u
      let d3 := (d2.testWaiters u).foldl (fun acc w => acc.completeTag w.1 w.2 .ok (if pass then 1 else 0)) d2
      let d4 := if d3.mgmtTest = 2 && unitInside d3.mgmtTestUnit u then { d3 with mgmtTest := if pass then 3 else 4 } else d3
      let marked := (unitCells u).any (fun n => (d4.cell n).margin) || (unitEngines u).any (fun n => (d4.engine n).margin)
      if pass && marked then d4.replanTrigger else d4

/-! ### The meanings -/

/-- IDLE_PATTERN. -/
def execIdlePattern (unit : PatternUnit) (s : State) : Host.Outcome State Fault Refusal :=
  s.done (s.dev.idleRun (patternCode unit)).eff

/-- PATTERN_COMPLETE. -/
def execPatternComplete (unit : PatternUnit) (pass : Bool) (s : State) : Host.Outcome State Fault Refusal :=
  .next (s.patternEnd (patternCode unit) pass)

/-- FIELD_TEST_START. -/
def execFieldTestStart (region : Fin 6) (s : State) : Host.Outcome State Fault Refusal :=
  s.done (s.dev.testStart region).eff

/-- FIELD_TEST_COMPLETE. -/
def execFieldTestComplete (region : Fin 6) (pass : Bool) (s : State) : Host.Outcome State Fault Refusal :=
  s.done (s.dev.testEnd region pass).eff

end Sys2Proof.Machine
end

