-- ==== Sys2Proof/Machine/Commit.lean ====
section
/-!
DEFINITION. The commit window (R49 to R60, R65 to R67, R151, R178, R181, R184, R257, R277 to R280, R355): which
rounds it decides, what of a round becomes current, and what it answers and counts.
-/

namespace Sys2Proof.Machine

/-! ### The decision of a round (R277 to R279) -/

/-- The failure that came first, by keys in turn. -/
def firstBy (key : Failure → List Nat) : List Failure → Option Failure
  | [] => none
  | f :: fs =>
    match firstBy key fs with
    | none => some f
    | some g => some (if lexLt (key g) (key f) then g else f)

/-- First failing unit of a request without PARTIAL_OK: earliest, then the lowest bit (R277). -/
def unitKey (f : Failure) : List Nat := [f.time, f.maskBit]

/-- First failing part under PARTIAL_OK: earliest, futures before streams, then the lowest id (R279). -/
def partKey (f : Failure) : List Nat :=
  match f.who with
  | none => [f.time, 0, 0]
  | some w => [f.time, if w.host then 1 else 0, w.id]

/-- The parts of a round under PARTIAL_OK in the order of R279. -/
def Round.parts (r : Round) : List PartId :=
  (sortBy (fun a b => decide (a < b)) (r.futures.map Future.id)).map (fun i => ⟨false, i⟩) ++
    (sortBy (fun a b => decide (a < b)) (r.tokens.map Prod.fst)).map (fun i => ⟨true, i⟩)

/-- Code of a part that has failed. -/
def Round.partCode (r : Round) (w : PartId) : Option Code :=
  (firstBy unitKey (r.failures.filter (fun f => f.who.isNone || decide (f.who = some w)))).map Failure.code

/-- The per-part status list: the failed parts with their codes.
[notes/assumptions 75 DEDUCED, unsafe] -/
def Round.status (r : Round) : List (PartId × Code) :=
  r.parts.filterMap (fun w => (r.partCode w).map (fun c => (w, c)))

/-- Part mask of a round's failures (R277). -/
def Round.mask (r : Round) : Nat := ((r.failures.map Failure.maskBit).eraseDups).foldl (fun acc b => acc + 2 ^ b) 0

/-- A round that ends with a failure code: the code, the part mask and the status list; none for one that commits,
whole or in part. -/
def Round.failing (r : Round) (b : Batch) : Option (Code × Nat × List (PartId × Code)) :=
  if r.failures.isEmpty then none
  else if !b.partialOk then (firstBy unitKey r.failures).map (fun f => (f.code, r.mask, []))
  else if r.failures.any (fun f => f.who.isNone) || r.parts.all (fun w => (r.partCode w).isSome) then
    (firstBy partKey r.failures).map (fun f => (f.code, 0, r.status))
  else none

/-- Does a part of a committing round commit? -/
def Round.good (r : Round) (w : PartId) : Bool := (r.partCode w).isNone

/-! ### What becomes current -/

/-- Byte ranges of a failed part's slices in the staged buffers. -/
def Job.sliceRanges (j : Job) (slot : Nat) : List (Nat × Nat) :=
  (j.prog.tensors.zip j.homes).filterMap (fun x =>
    match x.2 with
    | some h => if x.1.perFuture && hasTwoBuffers x.1.cls then some (h.staged true + slot * x.1.sliceStride, x.1.sliceStride)
      else none
    | none => none)

/-- Is an address in some ranges? -/
def inRanges (l : List (Nat × Nat)) (a : Nat) : Bool := l.any (fun x => decide (x.1 ≤ a) && decide (a < x.1 + x.2))

/-- The tensor slot of a part. -/
def Round.slotOf (r : Round) (d : Dev) (job : Nat) (w : PartId) : Option Nat :=
  if w.host then (r.stream? d job w).map StreamEntry.slot else (r.futures.find? (fun f => f.id == w.id)).map Future.slot

/-- The staged bytes that commit: without those of failed parts and of streams that are gone; a failed child keeps what it took
at the fork. -/
def Round.goodStage (r : Round) (d : Dev) (j : Job) : List Host.Cell :=
  (r.parts.filter (fun w => !r.good w)).foldl (fun acc w =>
    match r.slotOf d j.id w with
    | none => acc
    | some s =>
      let kept := acc.filter (fun c => !inRanges (j.sliceRanges s) c.1)
      if w.host then kept else kept ++ tgetD r.forkCells w.id [])
    (r.stage.filter (fun c => !(r.gone.any (fun s => inRanges (j.sliceRanges s) c.1))))

/-- The two-buffer homes of a job that still exist.
[notes/assumptions 15 DEDUCED, unsafe] -/
def Job.flipping (j : Job) : List TensorHome :=
  (j.prog.tensors.zip j.homes).filterMap (fun x =>
    match x.2 with
    | some h => if hasTwoBuffers x.1.cls && !h.lost then some h else none
    | none => none)

/-- The staged buffer of a home completed from the committed one: the bytes no one wrote, with the poison of lines
none of whose bytes were written.
[notes/assumptions 15 DEDUCED, unsafe; 77 DEDUCED, unsafe] -/
def TensorHome.carryOver (h : TensorHome) (m : Mem) (stage : List Host.Cell) : List MemOp :=
  let c := h.committed
  let w := h.staged true
  let touched (line : Nat) : Bool := stage.any (fun x => x.1 / 128 == line)
  let stale := (m.poisoned.filter (fun l => decide (w / 128 ≤ l) && decide (l * 128 < w + h.bufBytes) &&
    !touched l)).map (fun l => MemOp.clearPoison (l * 128) 128)
  let carried := (m.poisoned.filter (fun l => decide (c / 128 ≤ l) && decide (l * 128 < c + h.bufBytes) &&
    !touched (l - c / 128 + w / 128))).map (fun l => MemOp.poison (l - c / 128 + w / 128))
  [.copy c w h.bufBytes] ++ stale ++ carried

/-- Step 5 of R53 for the CARRY and OUTPUT tensors: the staged bytes become the committed buffer (R257).
[notes/assumptions 77 DEDUCED, unsafe] -/
def Job.commitBytes (j : Job) (m : Mem) (stage : List Host.Cell) : List MemOp :=
  let hs := j.flipping
  let ranges := hs.map (fun h => (h.staged true, h.bufBytes))
  hs.flatMap (fun h => h.carryOver m stage) ++ [.cells ((stage.filter (fun c => inRanges ranges c.1)).reverse)]

/-- The homes after the exchange of buffers. -/
def Job.flipped (j : Job) : List (Option TensorHome) :=
  ((j.prog.tensors.map some ++ List.replicate j.homes.length none).zip j.homes).map
    (fun (x : Option Tensor × Option TensorHome) =>
      match x.1, x.2 with
      | some t, some h => if hasTwoBuffers t.cls && !h.lost then some { h with current := 1 - h.current } else some h
      | _, h => h)

/-- The futures that are live after the round: a failed part keeps its state from before the round, a failed child the
one it took at the fork (R25, R29). -/
def Round.finalFutures (r : Round) (j : Job) : List Future :=
  r.futures.map (fun f =>
    if r.good ⟨false, f.id⟩ then f
    else match r.forked.find? (fun x => x.id == f.id) with
      | some c => c
      | none => (j.futures.find? (fun x => x.id == f.id)).getD f)

/-- Holders of a page among futures. -/
def pageHolders (fs : List Future) (n : Nat) : Nat :=
  sumNat (fs.map (fun f => sumNat (f.kv.map (fun l => l.pages.count n))))

/-- Pages a list of futures holds.
[notes/assumptions 81 DEDUCED, unsafe] -/
def heldPages (fs : List Future) : List Nat := fs.flatMap (fun f => f.kv.flatMap KvList.pages)

/-- Slots a list of futures has filled in a page: all of a page before the tail, and in the tail what the window holds beyond
the pages before it (R141, R145). -/
def pageFill (fs : List Future) (n : Nat) : Nat :=
  maxNat (fs.flatMap (fun f => f.kv.map (fun l =>
    if l.pages.getLast? = some n then l.win - 16 * (l.pages.length - 1) else if l.pages.contains n then 16 else 0)))

/-- The page entries after a round: holders and fills as the lists that stand say, a failed child's being that of its fork;
pages without a holder freed (R143, R151, R29).
[notes/assumptions 81 DEDUCED, unsafe] -/
def Eff.settlePages (e : Eff) (j : Job) (r : Round) (final : List Future) : Eff :=
  ((heldPages j.futures ++ heldPages final ++ r.newPages).eraseDups).foldl (fun acc n =>
    let f := acc.dev.frame n
    let k := pageHolders final n
    if k = 0 then acc.freePage n else acc.mod (fun d => d.setFrame n { f with ref := min k 65535, fill := pageFill final n })) e

/-- The stream entries that a committing round changes, with their directories: those of its good parts, and the
children whose part failed. -/
def Round.finalStreams (r : Round) : List (StreamEntry × List Nat) :=
  (r.streams.filter (fun s => r.good ⟨s.host, s.id⟩)).map (fun s => (s, ((s.dir.bind (tget r.dirs)).getD []))) ++
    (r.forkedStreams.filter (fun s => !r.good ⟨s.host, s.id⟩ && r.futures.any (fun f => f.id == s.id))).map
      (fun s => (s, ((s.dir.bind (tget r.forkDirs)).getD [])))

/-- One stream entry becomes current: what its steps changed over what commands have changed meanwhile (R175). A child whose
part failed has committed no step; a state lost after the decision stays LOST (R57); a host stream that has ended meanwhile has
no entry (R185). -/
def Dev.commitStream (d : Dev) (job : Nat) (r : Round) (x : StreamEntry × List Nat) : Dev :=
  let s := x.1
  let last := if r.good ⟨s.host, s.id⟩ then d.tick.tick else s.lastTick
  let loc := if x.2.any (fun n => decide ((d.obj n).loc = .lost)) then Loc.lost else s.loc
  let d1 : Dev := match s.dir with
    | some n => if x.2.isEmpty then d else { d with dirs := tset d.dirs n x.2 }
    | none => d
  match (if s.host then d.hostEntry job s.id else d.futureEntry job s.id) with
  | some (n, cur) => d1.setStream n { cur with
      loc := loc, reset := false, step := s.step, rnCnt := s.rnCnt, rnN := s.rnN, dir := s.dir, seed := s.seed
      slot := s.slot, lastTick := last }
  | none => if s.host then d else d1.addStream { s with loc := loc, lastTick := last }

/-- Objects named by the directories of a job's streams. -/
def Dev.jobObjs (d : Dev) (job : Nat) : List Nat := (d.streams.filter (fun s => s.2.job == job)).flatMap (fun s => d.directory s.2)

/-- The stream table after a round: entries of pruned futures go, staged entries become current, and objects without a
holder are freed (R178, R29). -/
def Eff.settleStreams (e0 : Eff) (j : Job) (r : Round) (final : List Future) : Eff :=
  let resetting := (e0.dev.hostStreams j.id).filter (fun s =>
    r.resets.any (fun x => x.1 == s.2.id) && r.good ⟨true, s.2.id⟩)
  let e := (resetting.map Prod.fst).foldl Eff.stopRecall e0
  let old := e.dev.jobObjs j.id
  let oldDirs := (e.dev.streams.filter (fun s => s.2.job == j.id)).filterMap (fun s => s.2.dir)
  let e1 := e.mod (fun d => { d with streams := d.streams.filter (fun s =>
    s.2.job != j.id || s.2.host || final.any (fun f => f.id == s.2.id)) })
  let pruned := (e.dev.streams.filter (fun s =>
    s.2.job == j.id && !s.2.host && !(final.any (fun f => f.id == s.2.id)))).map (fun s => s.2.id)
  let e2 := (e1.mod (fun d => pruned.foldl (fun acc id => acc.noteFreed j.id id) d)).mod (fun d => r.finalStreams.foldl (fun acc x => acc.commitStream j.id r x) d)
  let used := (e2.dev.streams.filter (fun s => s.2.job == j.id)).filterMap (fun s => s.2.dir)
  let e3 := r.finalStreams.foldl (fun acc x => match x.1.dir with
      | some n => if used.contains n then acc.writeDir n (tgetD acc.dev.dirs n []) else acc
      | none => acc)
    ((((oldDirs ++ r.dirs.map Prod.fst).eraseDups).filter (fun n => !used.contains n)).foldl Eff.freeDir e2)
  let now := e3.dev.jobObjs j.id
  ((old ++ now ++ r.newObjs).eraseDups).foldl (fun acc n =>
    let k := now.count n
    if k = 0 then acc.freeObj n else acc.mod (fun d => d.setObj n { d.obj n with ref := k })) e3

/-- Steps that each stream of a round has taken (R383). -/
def Round.stepCounts (r : Round) (j : Job) : List (Nat × Nat) :=
  (r.futures.filter (fun f => r.good ⟨false, f.id⟩)).map (fun f =>
    (f.id, f.step - (((r.forked.find? (fun x => x.id == f.id)) <|> (j.futures.find? (fun x => x.id == f.id))).map
      Future.step).getD 0)) ++
    (r.tokens.filter (fun t => r.good ⟨true, t.1⟩)).map (fun t => (t.1, t.2.length))

/-- Stream counters with the steps of a round added. -/
def Job.countStreams (j : Job) (l : List (Nat × Nat)) : List (Nat × StreamCounters) :=
  if j.prog.hdr.recLayers = 0 then j.streamCounters
  else l.foldl (fun acc x => if x.2 = 0 then acc
    else tmodify acc x.1 {} (fun c => { c with steps := eventAdd c.steps x.2 })) j.streamCounters

/-- Full pages of spilled layers start their way to Stratus once the round has committed (R154).
[notes/assumptions 209 DESIGN CHOICE, unsafe] -/
def Eff.startSpills (e : Eff) (job : Nat) : Eff :=
  match e.dev.job? job with
  | none => e
  | some j =>
    if e.dev.stratus.state = 2 then e
    else
      let pages := (j.futures.flatMap (fun f => (f.kv.zip j.kvHomes).flatMap (fun x =>
        if x.2.spilled then x.1.pages else []))).eraseDups
      pages.foldl (fun acc n =>
        let f := acc.dev.frame n
        if f.state ≠ .resident || f.fill < 16 then acc
        else match acc.dev.takeStratus (lineUnits f.lines) f.part with
          | none => acc
          | some (loc, d) => { acc with dev :=
              { (d.setFrame n { f with state := .spilling }) with transfers := d.transfers ++ [.spill n loc] } }) e

/-! ### Answers -/

/-- One chunk of a committed round: what it has had of tokens and outputs, its end once its last token has committed;
under PARTIAL_OK the chunk of a failed stream ends with the stream's code (R181, R184). -/
def Dev.commitChunk (d : Dev) (j : Job) (c : Code) (status : List (PartId × Code)) (k : Chunk) : Dev :=
  let failed := status.find? (fun s => decide (s.1 = (⟨true, k.stream⟩ : PartId)))
  match (d.part j.part).chunks.find? (fun x => x.tag == k.tag) with
  | none => d
  | some q =>
    let used := q.used + k.used
    let out := if k.out.isEmpty then q.out else padTo 128 q.out ++ k.out
    let past := failed.isSome || decide (q.tokens.length ≤ used)
    let d1 := d.modPart j.part (fun x =>
      { x with chunks := if past then x.chunks.filter (fun y => y.tag != k.tag)
          else x.chunks.map (fun y => if y.tag = k.tag then { y with used := used, out := out } else y) })
    if !past then d1
    else
      let d2 : Dev := { d1 with streams := d1.streams.map (fun s =>
        (s.1, if s.2.host && s.2.job == j.id && s.2.id == k.stream then { s.2 with qLen := s.2.qLen - 1 } else s.2)) }
      match failed with
      | some f => d2.completeTag j.part k.tag f.2 (min q.slipped 65535)
      | none => d2.completeTag j.part k.tag (if c = .okPartial then .ok else c) (min q.slipped 65535) out

/-- The commands of a committed round answered: INPUTs with the round's code or their part's, FORKs that stand with OK,
chunks by their tokens (R356, R359, R181).
[notes/assumptions 25 DESIGN CHOICE, unsafe; 76 DEDUCED, unsafe] -/
def Dev.commitCommands (d : Dev) (j : Job) (r : Round) (c : Code) (status : List (PartId × Code)) : Dev :=
  let d1 := r.cmds.foldl (fun acc k => acc.completeTag j.part k.tag (cmdCode c status k) k.slipped) d
  let d2 := r.forks.foldl (fun acc k => acc.completeTag j.part k.tag .ok) d1
  r.chunks.foldl (fun acc k => acc.commitChunk j c status k) d2

/-- A round as its commit will leave it: the parts that have failed back at what they keep (R29, R278). -/
def Round.settled (r : Round) (d : Dev) (j : Job) : Round :=
  { r with
    futures := r.finalFutures j, stage := r.goodStage d j, streams := r.finalStreams.map Prod.fst
    dirs := r.finalStreams.foldl (fun acc x =>
      match x.1.dir with
      | some n => tset acc n x.2
      | none => acc) r.dirs }

/-- FORKs that a LATE round has held back apply in the tick in which it commits, to the state it commits (R30); they stand
outside the children the round itself has made.
[notes/assumptions 76 DEDUCED, unsafe] -/
def State.lateForks (s : State) (job : Nat) : State :=
  match s.dev.round? job with
  | none => s
  | some (j, r) =>
    if !j.batch.guaranteed || s.dev.tick.tick ≤ r.due || !r.lost.isEmpty || j.forksIn.isEmpty then s
    else
      let s1 := s.withDev ((s.dev.modJob job (fun y => { y with forksIn := [] })).modRound job (fun y =>
        { y.settled s.dev j with childrenApplied := 0 }))
      (j.forksInOrder j.forksIn.length).foldl (fun acc f => acc.applyFork job f) s1

/-- A round commits (R53 steps 3 to 6): its code is DATA_LOST when something it touched was lost after its decision (R57),
LATE with the ticks it is late for a guaranteed job past its tick, OK_PARTIAL when some parts failed, else OK (R65, R279).
A job whose last round this was, or that lost its admission while
it was late, ends after it (R20, R65).
[notes/assumptions 75 DEDUCED, unsafe; 78 DEDUCED, unsafe] -/
def State.commitRound (s : State) (job : Nat) : State :=
  match s.dev.round? job with
  | none => s
  | some (j, r) =>
    let status := r.status
    let late := if j.batch.guaranteed then s.dev.tick.tick - r.due else 0
    let code : Code := if !r.lost.isEmpty then .dataLost else if 0 < late then .late else if status.isEmpty then .ok
      else .okPartial
    let info := if r.lost.isEmpty then min late 65535
      else if j.batch.partialOk then 0 else (r.lost.foldl (fun acc b => acc + 2 ^ b) 0) * 65536
    let final := r.finalFutures j
    let e0 := (s.dev.eff).ops (j.commitBytes s.mem (r.goodStage s.dev j))
    let e1 := (e0.settlePages j r final).settleStreams j r final
    let e2 := e1.mod (fun d => d.modJob job (fun y =>
      { y with
        futures := final, homes := y.flipped, round := none, lastTick := d.tick.tick, committed := y.committed + 1
        streamCounters := y.countStreams (r.stepCounts j)
        counters := if !r.lost.isEmpty then { y.counters with failed := eventAdd y.counters.failed 1 }
          else if 0 < late then { y.counters with late := eventAdd y.counters.late 1 }
          else { y.counters with ok := eventAdd y.counters.ok 1 } }))
    let e3 := e2.mod (fun d => (d.commitCommands j r code status).roundResponse j code info false r.number status)
    let e4 := e3.startSpills job
    let e5 := match j.endAfter with
      | some c => e4.endJob job c c
      | none => if j.batch.rounds != 0 && decide (j.batch.rounds ≤ j.committed + 1) then e4.endJob job .ok .ok else e4
    s.apply e5

/-- A round that ends with a failure code in its commit window; a job that lost its admission meanwhile ends after it.
[notes/assumptions 82 DEDUCED, unsafe] -/
def State.dropRound (s : State) (job : Nat) (f : Code × Nat × List (PartId × Code)) : State :=
  let e := s.dev.eff.failRound job f.1 f.2.1 f.2.2
  s.apply (match (s.dev.job? job).bind Job.endAfter with
    | some c => e.endJob job c c
    | none => e)

/-! ### The window -/

/-- Granted cells leave the best-effort rounds that hold them (R379). -/
def Dev.takeGranted (d : Dev) : Dev :=
  { d with jobs := d.jobs.map (fun j =>
      (j.1, if j.2.batch.guaranteed then j.2
        else { j.2 with round := j.2.round.map (fun r => { r with cells := r.cells.filter (fun n => !d.isGranted n) }) })) }

/-- Best-effort work on granted cells and sorters stops at the start of the window: its tiles go back, its sorts start
again, and its cycles are lost; a check goes back to be posted (R59, R223, R379, R464). -/
def Dev.bestEffortStop (d0 : Dev) : Dev :=
  let d := ((List.range 6).filter (fun g => d0.guaranteedJobs.any (fun j => j.grant.sorters.contains g))).foldl
    Dev.stopSort d0.takeGranted
  (List.range 384).foldl (fun acc n =>
    match (acc.cell n).held with
    | none => acc
    | some h =>
      match acc.job? h.job with
      | none => acc
      | some j =>
        if j.batch.guaranteed || !acc.isGranted n then acc
        else
          let ran := h.ran acc.now acc.ageing.clock
          let acc1 := match (acc.cell n).ahead with
            | some a => acc.giveBackTile n a
            | none => acc
          ((if h.role = .original then acc1.lostCycles j ran else acc1).giveBackTile n h).stopCell n) d

/-- Does a guaranteed job have a round due in this tick (R67)? -/
def Dev.dueNow (d : Dev) (j : Job) : Bool :=
  j.batch.guaranteed && decide (j.state = .admitted) && decide (j.firstTick ≤ d.tick.tick)

/-- TICK_LATE for each guaranteed round that is due and not complete, once a round, with the cause that cost it most, the
lowest number of several (R66); not in SAFE (R477).
[notes/assumptions 173 DESIGN CHOICE, unsafe] -/
def Dev.tickLate (d : Dev) (safe : Bool) : Dev :=
  if safe then d
  else d.liveJobs.foldl (fun acc j =>
    match j.round with
    | none => acc
    | some r =>
      if !j.batch.guaranteed || r.ready || r.decided || r.lateNoticed || (r.failing j.batch).isSome then acc
      else
        let worst := (List.range 6).foldl (fun (b : Nat) i => if r.stalls.getD b 0 < r.stalls.getD i 0 then i else b) 0
        (acc.notify (some j.part) [j.part] (.tickLate j.id worst r.due)).modRound j.id (fun y =>
          { y with lateNoticed := true })) d

/-- The rounds that commit in a window: decided ones, ready guaranteed ones, then ready best-effort ones in the order
they completed, at one instant by job number, 2,048 in all (R52, R54).
[notes/assumptions 174 DESIGN CHOICE, unsafe] -/
def Dev.committing (d : Dev) (safe : Bool) : List Nat :=
  let ok (j : Job) (r : Round) : Bool := (r.decided || (r.ready && !safe)) && (r.failing j.batch).isNone
  let all := d.liveJobs.filterMap (fun j =>
    match j.round with
    | some r => if ok j r then some (j, r) else none
    | none => none)
  let be := sortBy (fun (a b : Job × Round) => lexLt [a.2.readyAt, a.1.id] [b.2.readyAt, b.1.id])
    (all.filter (fun x => !x.1.batch.guaranteed))
  ((all.filter (fun x => x.1.batch.guaranteed) ++ be).map (fun x => x.1.id)).take 2048

/-- The rounds that end with a failure code in a window.
[notes/assumptions 82 DEDUCED, unsafe] -/
def Dev.dropping (d : Dev) : List (Nat × Code × Nat × List (PartId × Code)) :=
  d.liveJobs.filterMap (fun j => (j.round.bind (fun r => r.failing j.batch)).map (fun f => (j.id, f)))

/-- Ticks due and missed, of the device, of partitions and of jobs (R67, R480): a due job that is not among those that
commit has missed the tick. -/
def Dev.countTicks (d : Dev) (done : List Nat) : Dev :=
  let due := d.liveJobs.filter d.dueNow
  let missed := due.filter (fun j => !done.contains j.id)
  let d1 := if due.isEmpty then d else d.count 0x2002 1 1
  let d2 := if missed.isEmpty then d1 else d1.count 0x2002 2 1
  let d3 := ((due.map Job.part).eraseDups).foldl (fun acc p => acc.account p 1 1) d2
  let d4 := ((missed.map Job.part).eraseDups).foldl (fun acc p => acc.account p 2 1) d3
  missed.foldl (fun acc j => acc.modJob j.id (fun y =>
    { y with counters := { y.counters with missed := eventAdd y.counters.missed 1 } })) d4

/-- Control chunks that their tick's cut has applied complete OK (R182). -/
def Dev.controlsDone (d : Dev) : Dev :=
  d.parts.foldl (fun acc x => (x.2.waits.filter (fun w =>
    w.pkt.opcode == 0x22 && w.pkt.isControl && decide (w.what = .round))).foldl (fun a w => a.completeTag x.1 w.pkt.tag .ok) acc) d

/-- The window runs its six steps (R53), which clears cause [9] (R467).
[notes/assumptions 25 DESIGN CHOICE, unsafe; 73 DEDUCED, unsafe] -/
def State.commitAll (s : State) : State :=
  let done := s.dev.committing s.safety.safe
  let drop := s.dev.dropping
  let s1 := s.withDev (s.dev.countTicks done)
  let s2 := done.foldl (fun acc j => (acc.lateForks j).commitRound j) s1
  let s3 := drop.foldl (fun acc x => acc.dropRound x.1 x.2) s2
  let s4 := s3.apply (s3.dev.controlsDone.eff.showStores s3.mem)
  let s5 := s4.captureSaves
  let queued := (s.dev.streams.filter (fun x => x.2.host && x.2.qLen != 0)).map Prod.fst
  let e := (s5.dev.eff.endEntries (fun n => queued.contains n)).mod (fun d =>
    { d.markResets with tick := { d.tick with commitDone := true, roundsDone := true } })
  s5.apply { e with safety := e.safety ++ [.clear 9] }

/-- The window does not complete (R55): nothing commits; the rounds it had decided commit in the next one that
completes, and cause [9] arises at the boundary (R467).
[notes/assumptions 72 DEDUCED, unsafe; 74 DEDUCED, unsafe] -/
def State.commitFails (s : State) : State :=
  let l := s.dev.committing s.safety.safe
  let d := s.dev.countTicks []
  let d1 := l.foldl (fun acc j => acc.modRound j (fun r => { r with decided := true })) d
  s.withDev { d1 with tick := { d1.tick with commitDone := true, roundsDone := false } }

/-- COMMIT_WINDOW of the present tick, once.
[notes/assumptions 74 DEDUCED, unsafe] -/
def State.commitWindow (s : State) (completes : Bool) : State :=
  if !s.dev.tick.started || s.dev.tick.commitDone then s.apply s.dev.eff
  else
    let d := s.flare.dev.advance (s.dev.tick.next - 16000)
    let s1 := s.flare.withDev (d.bestEffortStop.tickLate s.safety.safe)
    (if completes then s1.commitAll else s1.commitFails).pump

/-- ROUND_COMPLETE: the job's round goes on as far as it can; with all its work done it is ready for the next commit
window (R52). -/
def State.roundComplete (s : State) (job : Nat) : State := (s.apply s.dev.eff).pump.runJob job

/-! ### The meanings -/

/-- COMMIT_WINDOW. -/
def execCommitWindow (completes : Bool) (s : State) : Host.Outcome State Fault Refusal := .next (s.commitWindow completes)

/-- ROUND_COMPLETE. -/
def execRoundComplete (job : Nat) (s : State) (met : List LineError := []) : Host.Outcome State Fault Refusal :=
  .next ((s.meet met).roundComplete job)

end Sys2Proof.Machine
end

