-- ==== Sys2Proof/Machine/Removal.lean ====
section
/-!
DEFINITION. The planned removal of a region (R256, R268, R272, R281): whether the surviving stacks can hold its data,
and the switch of every datum to its new home.
-/

namespace Sys2Proof.Machine

/-! ### Bytes moved -/

/-- Staged bytes whose buffer has moved. -/
def moveCells (src dst n : Nat) (cs : List Host.Cell) : List Host.Cell :=
  cs.map (fun c => if src ≤ c.1 && c.1 < src + n then (c.1 - src + dst, c.2) else c)

/-- A range copied to its new home with the poison of its lines; staged bytes of rounds follow. -/
def Eff.moveBytes (e : Eff) (m : Mem) (src dst n : Nat) : Eff :=
  (e.ops (.copy src dst n :: (m.poisonedIn src n).map (fun l => MemOp.poison (l - src / 128 + dst / 128)))).mod (fun d =>
    { d with jobs := d.jobs.map (fun j => (j.1, { j.2 with round := j.2.round.map (fun r =>
        { r with
          stage := moveCells src dst n r.stage
          forkCells := r.forkCells.map (fun x => (x.1, moveCells src dst n x.2)) }) })) })

/-- Lines of a stack moved to another stack of a partition with room for them. -/
def Eff.moveLines (e : Eff) (m : Mem) (part k la lines align dest : Nat) : Option (Nat × Eff) :=
  (e.takeLines dest align lines part).map (fun x =>
    (x.1, (x.2.moveBytes m (stackAddr k la) (stackAddr dest x.1) (lines * 128)).freeLines k la lines))

/-- Lines of other data moved to the surviving stack with the most free memory (R272). -/
def Eff.moveRoomy (e : Eff) (m : Mem) (part k la lines : Nat) : Option (Nat × Nat × Eff) :=
  match e.dev.roomiest (e.dev.usableStacks part) with
  | none => none
  | some dest => if e.dev.stackFree dest < lines then none
    else (e.moveLines m part k la lines 1 dest).map (fun x => (dest, x.1, x.2))

/-- A job whose homes have changed is re-admitted at the next boundary (R272). -/
def Dev.homesChanged (d : Dev) (job : Nat) : Dev :=
  d.modJob job (fun j => { j with readmit := decide (j.state = .admitted) && j.batch.guaranteed })

/-! ### One datum after another -/

/-- The home of one tensor of a job moved to a stack.
[notes/assumptions 138 DEDUCED, unsafe] -/
def Eff.moveHome (e : Eff) (m : Mem) (j : Job) (i : Nat) (h : TensorHome) : Eff :=
  let lines := ceilDiv h.bytes 128
  match e.dev.roomiest (e.dev.usableStacks j.part) with
  | none => e
  | some k =>
    match e.takeRoom k 1 lines j.part with
    | none => e
    | some (la, e1) =>
      ((e1.moveBytes m (h.space.addr h.base) (stackAddr k la) h.bytes).freeHome h).mod (fun d =>
        (d.modJob j.id (fun y => { y with
          homes := y.homes.set i (some { h with space := .stack k, base := la * 128 })
          grant := { y.grant with home := k / 2 } })).homesChanged j.id)

/-- The tensor homes and the weight stream buffer of a job that lie in a region. -/
def Eff.moveHomes (e : Eff) (m : Mem) (r : Nat) (j : Job) : Eff :=
  let e1 := j.homes.zipIdx.foldl (fun acc h =>
    match h.1 with
    | some t => if t.hit (inRegion r) then acc.moveHome m j h.2 t else acc
    | none => acc) e
  match j.streamBuf with
  | some (k, la) =>
    if k / 2 != r then e1
    else match e1.moveRoomy m j.part k la (256 * 8192) with
      | some (dest, b, e2) => e2.mod (fun d =>
          (d.modJob j.id (fun y => { y with streamBuf := some (dest, b) })).homesChanged j.id)
      | none => e1
  | none => e1

/-- One page moved to a stack: its entry, and the entry staged by a round, name the new frame. -/
def Eff.movePage (e : Eff) (m : Mem) (job n dest : Nat) : Eff :=
  let f := e.dev.frame n
  match e.moveLines m f.part f.stack f.loc f.lines 16 dest with
  | none => e
  | some (la, e1) => e1.mod (fun d =>
      (d.setFrame n { f with stack := dest, loc := la }).modRound job (fun r =>
        match tget r.pageFrames n with
        | some g => r.putFrame n { g with stack := dest, loc := la }
        | none => r))

/-- One attention layer whose home lies in a region gets a new home, and its pages move there; the two stacks of a
SPLIT layer keep their places (R152, R153, R272). -/
def Eff.moveLayer (e : Eff) (m : Mem) (r : Nat) (job l : Nat) : Eff :=
  match e.dev.liveJob job with
  | none => e
  | some j =>
    match j.kvHomes[l]?, j.prog.att[l]? with
    | some h, some a =>
      if !(h.homeStacks.any (fun k => k / 2 == r)) then e
      else
        let e1 := e.rehomeKv j l true
        match (e1.dev.liveJob job).bind (fun y => y.kvHomes[l]?) with
        | none => e1
        | some h1 =>
          if h1.homeStacks = h.homeStacks then e1
          else
            let dest (k : Nat) : Nat := h1.homeStacks.getD ((h.homeStacks.findIdx? (· == k)).getD 0) k
            let per := ceilDiv (kvLines j.batch a h.spilled) (max h.homeStacks.length 1)
            let e2 := e1.mod (fun d => (d.modJob job (fun y =>
              h.homeStacks.foldl (fun acc k => acc.moveDemand k (dest k) per) y)).homesChanged job)
            (j.layerPages l).foldl (fun acc n =>
              let f := acc.dev.frame n
              if (decide (f.state = .resident) || decide (f.state = .spilling)) && f.stack / 2 == r
              then acc.movePage m job n (dest f.stack) else acc) e2
    | _, _ => e

/-- One state object moved to the new home of its layer. -/
def Eff.moveObj (e : Eff) (m : Mem) (n dest : Nat) : Eff :=
  let o := e.dev.obj n
  match o.loc with
  | .resident => match e.moveLines m o.part o.stack o.addr o.lines 1 dest with
    | some (la, e1) => e1.mod (fun d => d.setObj n { o with stack := dest, addr := la })
    | none => e
  | .evicting => match e.moveLines m o.part o.stack o.addr o.lines 1 dest with
    | some (la, e1) => e1.mod (fun d => d.setObj n { o with stack := dest, addr := la })
    | none => e
  | _ => e

/-- The directory blocks of a job that lie in a region moved to the new home of recurrent layer 0 (R175, R272). -/
def Eff.moveDirs (e : Eff) (m : Mem) (r : Nat) (j : Job) (dest : Nat) : Eff :=
  let mine := (e.dev.streams.filter (fun s => s.2.job == j.id)).filterMap (fun s => s.2.dir)
  let staged := (j.round.map (fun x => x.dirs.map Prod.fst)).getD []
  ((mine ++ staged).eraseDups).foldl (fun acc n =>
    match tget acc.dev.dirHomes n with
    | none => acc
    | some h =>
      if h.stack / 2 != r then acc
      else match acc.moveLines m j.part h.stack h.la h.lines 1 dest with
        | some (la, e1) => e1.mod (fun d => { d with dirHomes := tset d.dirHomes n { h with stack := dest, la := la } })
        | none => acc) e

/-- One recurrent layer whose home lies in a region (R177, R272). -/
def Eff.moveRec (e : Eff) (m : Mem) (r : Nat) (job l : Nat) : Eff :=
  match e.dev.liveJob job with
  | none => e
  | some j =>
    let old := j.recHomes.getD l 0
    if j.recHomes.length ≤ l || old / 2 != r then e
    else match e.dev.roomiest (e.dev.usableStacks j.part) with
      | none => e
      | some dest =>
        let e1 := e.mod (fun d => (d.rehomeRec job l old dest).homesChanged job)
        let e2 := if l = 0 then e1.moveDirs m r j dest else e1
        (e2.dev.layerObjs j l).foldl (fun acc n =>
          if (acc.dev.obj n).stack / 2 == r then acc.moveObj m n dest else acc) e2

/-- Recalls into a region start again into the new homes (R199). -/
def Eff.moveRecalls (e : Eff) (r : Nat) : Eff :=
  e.dev.transfers.foldl (fun acc t =>
    match t with
    | .recall n addrs =>
      if addrs.any (fun x => x.2.1 / 2 == r) then
        (acc.freeRecall addrs).mod (fun d =>
          { d with transfers := d.transfers.map (fun x => if x = t then .recall n [] else x) })
      else acc
    | _ => acc) e

/-- Stored objects of a region's stacks. -/
def Eff.moveObjects (e : Eff) (m : Mem) (r : Nat) : Eff :=
  e.dev.objects.foldl (fun acc o =>
    if o.2.stratus || o.2.lost || o.2.stack / 2 != r then acc
    else match acc.moveRoomy m o.2.part o.2.stack o.2.base (ceilDiv o.2.total 128) with
      | some (dest, la, e1) => e1.mod (fun d => { d with objects := tset d.objects o.1 { o.2 with stack := dest, base := la } })
      | none => acc) e

/-- Inboxes and outboxes homed in a region (R341).
[notes/assumptions 88 DEDUCED, unsafe] -/
def Eff.moveBoxes (e : Eff) (m : Mem) (r : Nat) : Eff :=
  e.dev.parts.foldl (fun acc x =>
    match x.2.boxes with
    | some (k, la, n) =>
      if k / 2 != r then acc
      else match acc.moveRoomy m x.1 k la n with
        | some (dest, b, e1) => e1.mod (fun d => d.modPart x.1 (fun y => { y with boxes := some (dest, b, n) }))
        | none => acc
    | none => acc) e

/-- The copy of a range that two plane ranges share, each given by its first byte, its length and where it lies, with the
poison of the lines it comes from. -/
def shareOps (m : Mem) (o : Nat × Nat) (oAt : Nat) (n : Nat × Nat) (nAt : Nat) : List MemOp :=
  let lo := max o.1 n.1
  let hi := min (o.1 + o.2) (n.1 + n.2)
  if hi ≤ lo then []
  else
    let src := oAt + (lo - o.1)
    let dst := nAt + (lo - n.1)
    .copy src dst (hi - lo) :: (m.poisonedIn src (hi - lo)).map (fun l =>
      MemOp.poison ((max (l * 128) src - src + dst) / 128))

/-- The bytes of a new slice copied from the slices that held them (R272). -/
def ImageEntry.moveOps (t : ImageEntry) (m : Mem) (part : Nat) (old : List WeightSlice) (s : WeightSlice) : List MemOp :=
  let place (x : WeightSlice) : Nat := (Space.stack x.stack).addr (x.la * 128)
  let p := t.planes s.col0 s.cols
  .own ((Space.stack s.stack).firstLine + s.la) s.lines true part ::
    old.flatMap (fun o =>
      let q := t.planes o.col0 o.cols
      shareOps m q.1 (place o) p.1 (place s) ++
        shareOps m q.2 (place o + alignUp q.1.2 128) p.2 (place s + alignUp p.1.2 128))

/-- One tensor with a slice in a region placed again over the surviving stacks from its present copy, which is given up
then; a tensor that finds no room beside its present copy stays.
[notes/assumptions 138 DEDUCED, unsafe] -/
def Eff.moveWeight (e : Eff) (m : Mem) (r : Nat) (im : Image) (t : ImageEntry) (old : List WeightSlice) :
    Eff × List WeightSlice :=
  if !old.any (fun s => s.stack / 2 == r) then (e, old)
  else
    let up := (e.dev.usableStacks im.part).filter (fun k => k / 2 != r)
    let sp := ({ t with stackMask := sumNat ((up.filter (bit t.stackMask)).map (2 ^ ·)) } : ImageEntry).split
      (e.dev.roomiest up)
    match (if sp.isEmpty then none else e.placeSlices im.part t (sp.flatMap t.wishes)) with
    | none => (e, old)
    | some (e1, l) =>
      (old.foldl (fun a s => a.freeLines s.stack s.la s.lines) (e1.ops (l.flatMap (t.moveOps m im.part old))), l)

/-- Weight placements of a region placed again over the stacks that survive (R259, R272).
[notes/assumptions 138 DEDUCED, unsafe] -/
def Eff.moveWeights (e : Eff) (m : Mem) (r : Nat) : Eff :=
  e.dev.images.foldl (fun acc i =>
    let im := i.2
    if im.restoring || !im.slices.any (fun l => l.any (fun s => s.stack / 2 == r)) then acc
    else
      let x := (im.entries.zip im.slices).foldl (fun (a : Eff × List (List WeightSlice)) y =>
        let z := a.1.moveWeight m r im y.1 y.2
        (z.1, a.2 ++ [z.2])) (acc, [])
      x.1.mod (fun d =>
        (d.setImage { im with slices := x.2 }).markReadmit (fun j => j.imageNo == im.number))) e

/-- Everything homed in a region switched to its new home, as far as the surviving stacks have room.
[notes/assumptions 138 DEDUCED, unsafe] -/
def Eff.moveRegion (e : Eff) (m : Mem) (r : Nat) : Eff :=
  let jobs := e.dev.liveJobs.map Job.id
  let e1 := e.flushWhere m (fun w => (stackOfLine w.line).any (fun x => x.1 / 2 == r))
  let e2 := jobs.foldl (fun acc j =>
    match acc.dev.liveJob j with
    | none => acc
    | some x =>
      let a := (List.range x.kvHomes.length).foldl (fun b l => b.moveLayer m r j l) acc
      let c := (List.range x.recHomes.length).foldl (fun b l => b.moveRec m r j l) a
      match c.dev.liveJob j with
      | some y => c.moveHomes m r y
      | none => c) e1
  (((e2.moveRecalls r).moveObjects m r).moveBoxes m r).moveWeights m r

/-! ### Room for the data of a region (R272) -/

/-- Lines of a partition, or of all, in a region's cache and stacks. -/
def Dev.linesIn (d : Dev) (r : Nat) (mine : Extent → Bool) : Nat :=
  sumNat (((d.cacheUse r ++ d.stackUse (2 * r) ++ d.stackUse (2 * r + 1)).filter mine).map Extent.size)

/-- Does a region hold data?
[notes/assumptions 137 DEDUCED, unsafe] -/
def Dev.regionEmpty (d : Dev) (r : Nat) : Bool :=
  (d.cacheUse r).isEmpty && (d.stackUse (2 * r)).isEmpty && (d.stackUse (2 * r + 1)).isEmpty

/-- Does every datum that a trial of the moves leaves in a region fit a stack of its partition?
[notes/assumptions 139 DEDUCED, unsafe] -/
def Dev.trialHolds (d : Dev) (r : Nat) : Bool :=
  let d1 := (((d.modRegion r (fun x => { x with draining := true })).eff).moveRegion {} r).dev
  (d1.cacheUse r ++ d1.stackUse (2 * r) ++ d1.stackUse (2 * r + 1)).all (fun x =>
    ((d1.roomiest (d1.usableStacks x.part)).map (fun k => decide (x.size ≤ d1.stackFree k))).getD false)

/-- Can the surviving stacks hold the data of a region: each partition's within its mask, and each datum within one stack?
[notes/assumptions 139 DEDUCED, unsafe] -/
def Dev.survivorsHold (d : Dev) (r : Nat) : Bool :=
  let free (ks : List Nat) : Nat := sumNat ((ks.filter (fun k => k / 2 != r)).map d.stackFree)
  (List.range 16).all (fun p =>
    decide (d.linesIn r (fun x => x.part == p) ≤ free (d.usableStacks p))) &&
  decide (d.linesIn r (fun _ => true) ≤
    free ((List.range 12).filter (fun k => !(d.stack k).outOfService && !(d.region (k / 2)).draining))) && d.trialHolds r

/-! ### PLANNED_REMOVAL_SWITCH -/

/-- PLANNED_REMOVAL_SWITCH: in a commit window the homes of a draining region's data switch (R256, R272). -/
def State.removalSwitch (s : State) (r : Nat) : State :=
  if !(s.dev.region r).draining || !s.dev.tick.commitDone then s.apply s.dev.eff
  else s.apply (s.dev.eff.moveRegion s.mem r)

/-- PLANNED_REMOVAL_SWITCH. -/
def execPlannedRemovalSwitch (region : Fin 6) (s : State) : Host.Outcome State Fault Refusal :=
  .next (s.removalSwitch region)

end Sys2Proof.Machine
end

