-- ==== Sys2Proof/Machine/Cut.lean ====
section
/-!
DEFINITION. The intake cut of a tick (R50, R181, R182, R194, R477) and the start of its rounds (R20, R23, R25, R195,
R226, R266, R273, R344, R370).
-/

namespace Sys2Proof.Machine

/-! ### The commands of a tick -/

/-- Opcodes whose commands belong to a tick: INPUT, FORK, STREAM_CHUNK. -/
def tickOpcode (o : Nat) : Bool := o == 0x10 || o == 0x20 || o == 0x22

/-- A packet of a tick that has not been judged is judged as on its arrival.
[notes/assumptions 36 DEDUCED, unsafe] -/
def Dev.judge (d : Dev) (p : Nat) (k : Packet) : Dev :=
  if k.started || k.checked then d
  else match k.opcode with
    | 0x10 => (d.arrive p k.tag 0x10 (d.inputCheck p)).dev
    | 0x20 => (d.arrive p k.tag 0x20 (d.forkCheck p)).dev
    | 0x22 => (d.arrive p k.tag 0x22 (if k.isControl then d.controlChunkCheck p else d.dataChunkCheck p)).dev
    | _ => d

/-- Packets of all partitions that a test selects, in an order. -/
def Dev.packets (d : Dev) (which : Nat → Packet → Bool) (before : Packet → Packet → Bool) : List (Nat × Packet) :=
  sortBy (fun (a b : Nat × Packet) => before a.2 b.2)
    (d.parts.flatMap (fun x => (x.2.inbox.filter (which x.1)).map (fun k => (x.1, k))))

/-- Every packet that has arrived judged, in the order of arrival.
[notes/assumptions 45 DEDUCED, unsafe] -/
def Dev.judgeAll (d : Dev) : Dev :=
  (d.packets (fun _ _ => true) (fun a b => decide (a.order < b.order))).foldl (fun acc x => acc.judge x.1 x.2) d

/-- Does a packet belong to the tick that has begun (R50)? Those of a quiesced partition wait (R370).
[notes/assumptions 44 DEDUCED, unsafe] -/
def Dev.belongs (d : Dev) (p : Nat) (k : Packet) : Bool :=
  tickOpcode k.opcode && k.checked && !k.started && decide (k.tick ≤ d.tick.tick) && decide (k.arrival ≤ d.tick.start) &&
    !(d.part p).quiesced

/-- An INPUT frame joins the backlog of its future. -/
def Dev.takeInput (d : Dev) (p : Nat) (k : Packet) : Dev :=
  match d.liveJob k.job with
  | none => d.complete p k .rejectedFormat
  | some j =>
    (d.wait p k .round).modJob j.id (fun y => { y with backlog := y.backlog ++
      [{ future := k.arg0, tag := k.tag, seq := k.seq, urgent := k.urgent, posted := k.posted, bytes := k.payload }] })

/-- A FORK joins those its job applies at step 3 of its next round (R30).
[notes/assumptions 76 DEDUCED, unsafe] -/
def Dev.takeFork (d : Dev) (p : Nat) (k : Packet) : Dev :=
  match d.liveJob k.job, forkOf k with
  | some j, some f => (d.wait p k .round).modJob j.id (fun y => { y with forksIn := y.forksIn ++ [f] })
  | _, _ => d.complete p k .aborted

/-- A data chunk joins the partition's chunk queue, unless that is full (R181). -/
def Dev.takeChunk (d : Dev) (p : Nat) (k : Packet) : Dev :=
  match d.liveJob k.job, d.hostEntry k.job k.arg0 with
  | some j, some (n, s) =>
    if s.detach then d.complete p k .streamDetached
    else if d.pforce p 0x11 6 ≤ (d.part p).chunks.length then d.complete p k .quota
    else ((d.wait p k .round).modPart p (fun x => { x with chunks := x.chunks ++ [chunkOf j.prog.hdr.inputMax k] })).setStream n
      { s with qLen := s.qLen + 1 }
  | _, _ => d.complete p k .rejectedFormat

/-- A control chunk sets or clears PAUSE; it completes at the commit of its tick (R182). -/
def Dev.takeControl (d : Dev) (p : Nat) (k : Packet) : Dev :=
  match d.hostEntry k.job k.arg0 with
  | some (n, s) => (d.wait p k .round).setStream n { s with pause := bit k.arg1 1 }
  | none => d.complete p k .rejectedFormat

/-- A packet of the tick taken; in SAFE an INPUT, a FORK and a data chunk end INTERNAL (R477).
[notes/assumptions 44 DEDUCED, unsafe] -/
def Dev.takeAtCut (d : Dev) (safe : Bool) (p : Nat) (k : Packet) : Dev :=
  if k.opcode == 0x22 && k.isControl then d.takeControl p k
  else if safe then d.complete p k .internal
  else if k.opcode = 0x10 then d.takeInput p k
  else if k.opcode = 0x20 then d.takeFork p k
  else d.takeChunk p k

/-- The intake cut: control chunks in sequence-number order, then the others as they arrived.
[notes/assumptions 45 DEDUCED, unsafe] -/
def Dev.intake (d0 : Dev) (safe : Bool) : Dev :=
  let d := d0.judgeAll
  let control (k : Packet) : Bool := k.opcode == 0x22 && k.isControl
  let d1 := (d.packets (fun p k => d.belongs p k && control k) (fun a b => seqBefore a.seq b.seq)).foldl
    (fun acc x => acc.takeAtCut safe x.1 x.2) d
  ((d1.packets (fun p k => d1.belongs p k && !control k) (fun a b => decide (a.order < b.order))).foldl
    (fun acc x => acc.takeAtCut safe x.1 x.2) d1).markResets

/-- Recall of the evicted streams that have chunks waiting (R194).
[notes/assumptions 84 DEDUCED, unsafe] -/
def Eff.recallQueued (e : Eff) : Eff :=
  ((e.dev.streams.filter (fun s => s.2.host && decide (s.2.loc = .evicted) && s.2.qLen != 0)).map Prod.fst).foldl
    (fun acc n => acc.startRecall true n) e

/-! ### What a round takes -/

/-- Is a host stream's state out of the stacks, or on its way? -/
def StreamEntry.absent (s : StreamEntry) : Bool :=
  decide (s.loc = .evicting) || decide (s.loc = .evicted) || decide (s.loc = .recalling)

/-- The first `n` tokens of a queue, as what a round takes of each chunk. -/
def tokensFrom : Nat → List Chunk → List (Chunk × List Bytes)
  | _, [] => []
  | n, c :: cs =>
    let l := (c.tokens.drop c.used).take n
    if n = 0 then [] else ({ c with used := l.length, out := [], tokens := [] }, l) :: tokensFrom (n - l.length) cs

/-- Where the tokens of a stream in a round reset it (R183). -/
def resetsOf (queue : List Chunk) : Nat → List (Chunk × List Bytes) → List (Nat × Nat × Option Nat)
  | _, [] => []
  | n, c :: cs =>
    let fresh := queue.any (fun q => q.tag == c.1.tag && q.used == 0)
    (if c.1.reset && fresh then [(c.1.stream, n, c.1.newSeed)] else []) ++ resetsOf queue (n + c.2.length) cs

/-- Chunks queued for a stream. -/
def Dev.queueOf (d : Dev) (j : Job) (id : Nat) : List Chunk :=
  (d.part j.part).chunks.filter (fun c => c.job == j.id && c.stream == id)

/-- Does a stream step in the next round of its job (R182, R195)? A step from zero state needs no state in the stacks
(R183).
[notes/assumptions 84 DEDUCED, unsafe] -/
def StreamEntry.steps (s : StreamEntry) (guaranteed : Bool) : Bool := !s.pause && !(guaranteed && s.absent && !s.reset)

/-- The tokens a round takes, by stream. -/
def Dev.roundTokens (d : Dev) (j : Job) : List (Nat × List (Chunk × List Bytes)) :=
  ((d.hostStreams j.id).filter (fun s => s.2.steps j.batch.guaranteed)).filterMap (fun s =>
    let l := tokensFrom j.prog.hdr.sH (d.queueOf j s.2.id)
    if l.isEmpty then none else some (s.2.id, l))

/-- The frames a round takes: up to S_obs of each observed future, in arrival order. -/
def Job.roundFrames (j : Job) : List (Nat × List FrameIn) :=
  (j.futures.filter Future.observed).filterMap (fun f =>
    let l := (j.backlog.filter (fun x => x.future == f.id)).take j.prog.hdr.sObs
    if l.isEmpty then none else some (f.id, l))

/-- Cells no round holds that a best-effort round may take at its start (R266). -/
def Dev.takeCells (d : Dev) (j : Job) : List Nat :=
  match tget d.images j.imageNo with
  | none => []
  | some im =>
    let held (n : Nat) : Bool := d.liveJobs.any (fun x => x.round.any (fun r => r.cells.contains n))
    let room := d.pforce j.part 0x01 1 - (d.grantedCells j.part).length - d.bestEffortCells j.part
    (d.firstFree j.part im j.prog.weightRefs (fun n => d.freeCell n && !held n)).take room

/-- What a FORK of a round will make of its futures, for the check of R23: nothing when R31 refuses it.
[notes/assumptions 89 DEDUCED, unsafe] -/
def Round.forkAhead (r : Round) (d : Dev) (j : Job) (f : ForkIn) : Round :=
  if (r.forkRefusal d j f).isSome then r
  else
    let child (c : ChildEntry) : Option Future := (r.futures.find? (fun x => x.id == c.parent)).map (fun x =>
      { x with id := c.child, observed := false })
    { r with
      futures := r.futures.filter (fun x => !f.prunes.contains x.id) ++ f.children.filterMap child
      childrenApplied := r.childrenApplied + f.children.length }

/-- Would some future's step counter pass 2^48 - 1 (R23)? Observed futures take their frames, and the imagined ones that
are live after the round's FORKs, children among them, S steps.
[notes/assumptions 89 DEDUCED, unsafe] -/
def Round.stepsOver (r : Round) (d : Dev) (j : Job) : Bool :=
  let stepped (f : Future) : Future := { f with step := f.step + ((r.frames.find? (fun x => x.1 == f.id)).map (fun x => x.2.length)).getD 0 }
  let fs := (j.forksInOrder r.forkCount).foldl (fun acc f => acc.forkAhead d j f) { r with futures := r.futures.map stepped }
  fs.futures.any (fun f => decide (2 ^ 48 - 1 < f.step + if f.observed then 0 else j.prog.hdr.s))

/-- Would some stream's STEP pass 2^48 - 1 (R199)? A reset restarts it (R183). -/
def Dev.streamsOver (d : Dev) (j : Job) (resets : List (Nat × Nat × Option Nat)) (tokens : List (Nat × List (Chunk × List Bytes))) :
    Bool :=
  tokens.any (fun t => (d.hostEntry j.id t.1).any (fun s =>
    let n := (t.2.flatMap Prod.snd).length
    decide (2 ^ 48 - 1 < s.2.step + ((resets.filter (fun x => x.1 == t.1)).foldl (fun acc x => min acc x.2.1) n))))

/-- The tokens of a round that reset its streams: those of chunks with the flag, and the first one of an entry whose RESET
is still set from a chunk that came to nothing (R183). -/
def Dev.roundResets (d : Dev) (j : Job) (tokens : List (Nat × List (Chunk × List Bytes))) : List (Nat × Nat × Option Nat) :=
  tokens.flatMap (fun t =>
    let l := resetsOf (d.queueOf j t.1) 0 t.2
    if (d.hostEntry j.id t.1).any (fun s => s.2.reset) && !l.any (fun x => x.2.1 == 0) then (t.1, 0, none) :: l else l)

/-- A round as it starts at a cut.
[notes/assumptions 24 DEDUCED, unsafe] -/
def Dev.newRound (d : Dev) (j : Job) : Round :=
  let frames := j.roundFrames
  let tokens := d.roundTokens j
  let held : List RoundCmd := frames.flatMap (fun f => f.2.map (fun x =>
    ({ tag := x.tag, seq := x.seq, opcode := 0x10, posted := x.posted, who := some ⟨false, f.1⟩ } : RoundCmd)))
  let r : Round :=
    { number := j.nextRound, due := d.tick.tick, phase := .observed, step := 0
      obsSteps := obsStepsBound j.prog j.batch
      frames := frames.map (fun f => (f.1, f.2.map FrameIn.bytes))
      tokens := tokens.map (fun t => (t.1, t.2.flatMap Prod.snd))
      futures := j.futures, cmds := held, chunks := tokens.flatMap (fun t => t.2.map Prod.fst)
      resets := d.roundResets j tokens
      forkCount := j.forksIn.length, mark := d.now
      cells := if j.batch.guaranteed then j.grant.cells.filter d.cellUp else d.takeCells j }
  let r1 := if r.stepsOver d j || d.streamsOver j r.resets tokens then r.fail none .rejectedFormat d.now 6 else r
  let r2 := if j.homes.any (fun h => h.any TensorHome.lost) then r1.fail none .dataLost d.now (j.grant.home % 6) else r1
  (d.staleParts j r2).foldl (fun acc w => acc.fail (some w) .dataLost d.now (j.grant.home % 6)) r2

/-! ### The start -/

/-- Does a job wait for its next round? -/
def Dev.waitsRound (d : Dev) (j : Job) : Bool :=
  decide (j.state = .admitted) && decide (j.firstTick ≤ d.tick.tick) && j.round.isNone && j.endAfter.isNone

/-- May a job's round start: partition running, weights in place, room for its responses (R275, R344, R370)?
[notes/assumptions 78 DEDUCED, unsafe; 86 DEDUCED, unsafe] -/
def Dev.mayStart (d : Dev) (j : Job) : Bool :=
  !(d.part j.part).quiesced && !d.outboxFull j.part &&
    (tget d.images j.imageNo).any (fun im => im.placed && !im.restoring)

/-- Streams of a guaranteed job that miss the tick for want of their state (R195).
[notes/assumptions 106 DEDUCED, unsafe] -/
def Dev.slipStreams (d : Dev) (j : Job) (ns : Nat) : Dev :=
  if !j.batch.guaranteed then d
  else ((d.hostStreams j.id).filter (fun s => s.2.absent && s.2.qLen != 0 && !s.2.pause && !s.2.reset)).foldl (fun acc s =>
    (acc.modJob j.id (fun y =>
      let z := y.addStall .stateRecall [s.2.id] ns
      { z with streamCounters := tmodify z.streamCounters s.2.id {} (fun c => { c with slipped := eventAdd c.slipped 1 }) })).modPart j.part
      (fun x => { x with chunks := x.chunks.map (fun c =>
        if c.job = j.id && c.stream == s.2.id then { c with slipped := min (c.slipped + 1) 65535 } else c) })) d

/-- One job's round starts, if it may; a guaranteed round held back by a full outbox counts its tick under REGULATOR
(R344). -/
def Dev.startRound (d : Dev) (job : Nat) : Dev :=
  match d.liveJob job with
  | none => d
  | some j =>
    if !d.waitsRound j then d
    else if !d.mayStart j then
      (if j.batch.guaranteed && d.outboxFull j.part && !(d.part j.part).quiesced
       then d.stall job .regulator (d.tick.next - d.tick.start) else d)
    else
      let d1 := d.slipStreams j (d.tick.next - d.tick.start)
      let tags := (j.roundFrames.flatMap (fun f => f.2)).map FrameIn.tag
      d1.modJob job (fun y => { y with
        round := some (d1.newRound y), nextRound := y.nextRound + 1
        backlog := y.backlog.filter (fun f => !tags.contains f.tag) })

/-- The rounds of a tick: guaranteed jobs in the order of admission, then best-effort ones in ascending job.
[notes/assumptions 83 DEDUCED, unsafe] -/
def Dev.startRounds (d : Dev) (safe : Bool) : Dev :=
  if safe then d
  else ((d.inOrder (fun _ => true)) ++ ((d.liveJobs.filter (fun j => !j.batch.guaranteed)).map Job.id)).foldl Dev.startRound d

end Sys2Proof.Machine
end

