-- ==== Sys2Proof/Machine/Boundary.lean ====
section
/-!
DEFINITION. The tick boundary (R41 to R49, R64, R68, R267 to R272, R336, R380, R384, R407, R462, R479, R494, R556): what
takes effect there, in order, before the intake cut and the rounds of the tick; tick loss and the start of a share window.
-/

namespace Sys2Proof.Machine

/-! ### The tick that ends and the tick that begins -/

/-- The granted cells of a tick charged to their partitions: cells by the tick's length by its clock (R380).
[notes/assumptions 87 DEDUCED, unsafe] -/
def Dev.countGrants (d : Dev) : Dev :=
  if !d.tick.started then d
  else d.createdParts.foldl (fun acc p =>
    let n := (d.grantedCells p).length
    if n = 0 then acc else acc.account p 3 (n * ((d.now - d.tick.start) * d.ageing.clock / 1000))) d

/-- The tick number advanced by 1, tick 0 the first; its start time with it (R41, R525).
[notes/assumptions 20 DESIGN CHOICE, unsafe] -/
def Dev.numberTick (d : Dev) : Dev :=
  { d with
    tick := { d.tick with
      tick := d.nextTickNo, started := true, start := d.now, startTai := d.tai.getD 0
      commitDone := false, roundsDone := false, lossDeclared := false
      onSchedule := if d.tick.lossDeclared then 0 else d.tick.onSchedule + 1 }
    time := { d.time with tickPulses := d.time.tickPulses + 1 } }

/-! ### Values that take effect (R42, R68, R376, R400, R556) -/

/-- Is a written period due: at least one tick after its write (R42)?
[notes/assumptions 70 DEDUCED, unsafe] -/
def Dev.periodDue (d : Dev) : Bool := d.tick.periodWritten.any (fun t => decide (t + d.periodTns ≤ d.now))

/-- Is a written power cap due: at least 10 ms after its write (R556)? -/
def Dev.capDue (d : Dev) : Bool := d.tick.capWritten.any (fun t => decide (t + 10000000 ≤ d.now))

/-- Configured values taken into force; the power cap keeps its value until it is due.
[notes/assumptions 57 DEDUCED, unsafe; 70 DEDUCED, unsafe] -/
def Dev.takeForce (d : Dev) : Dev :=
  let cap := if d.capDue then d.confAt 0x6003 1 else d.forceAt 0x6003 1
  { d with force := tset d.conf (objKey 0x6003 1) cap }

/-- The phase error after a change of the phase offset, on a grid that has one (R68).
[notes/assumptions 66 DESIGN CHOICE, unsafe; 71 DEDUCED, unsafe] -/
def Dev.shiftPhase (d : Dev) (old : Nat) : Dev :=
  let delta : Int := (d.phaseTns : Int) - old
  if delta = 0 || d.gridPoint.isNone || (d.source != 1 && d.source != 2) then d
  else { d with time := { d.time with err := phaseError (d.time.err - delta) 0 d.periodTns } }

/-- Period, guard band and share window of the tick unit; the window's new length waits for the first window start
after this boundary (R376).
[notes/assumptions 73 DEDUCED, unsafe] -/
def Dev.takeTiming (d : Dev) : Dev :=
  let due := d.periodDue
  { d with tick := { d.tick with
      period := if due then d.confAt 0x2000 1 else d.tick.period
      periodWritten := if due then none else d.tick.periodWritten
      guard := d.confAt 0x2000 4
      capWritten := if d.capDue then none else d.tick.capWritten
      windowAfter := if d.confAt 0x2003 1 = d.tick.shareWindow then none else some (d.confAt 0x2003 1) } }

/-- Everything of R68 that needs no re-admission to be computed: the tick is numbered, values come into force, and the
end of the tick is fixed.
[notes/assumptions 20 DESIGN CHOICE, unsafe; 66 DESIGN CHOICE, unsafe] -/
def Dev.beginTick (d : Dev) : Dev :=
  let d1 := d.countGrants.numberTick
  let changed := d1.periodDue
  let phase := d1.phaseTns
  let d2 := ({ d1.takeTiming with force := d1.takeForce.force } : Dev)
  (d2.shiftPhase phase).alignTick changed

/-! ### RELEASE (R336, R429) -/

/-- QUIESCE cleared in a partition that was released; an ACTION that asked for it is answered and counts as the last
action taken. -/
def Dev.releasePart (d : Dev) (p : Nat) : Dev :=
  let x := d.part p
  if !x.releasePending || d.start.orderly.isSome then d
  else
    let d1 := d.modPart p (fun y => { y with
      quiesced := false, flareOverflow := false, releasePending := false, releaseReplies := [] })
    x.releaseReplies.foldl (fun acc r =>
      ((acc.sendTo r.1 (lopReply 3 r.2 false 0 [])).modPart p (fun y =>
        { y with flareLast := 4, flareTaken := (y.flareTaken + 1) % 65536 })).vector p 3) d1

/-- Every release that is pending. -/
def Dev.releaseAll (d : Dev) : Dev := (List.range 16).foldl Dev.releasePart d

/-! ### Partitions created and deleted (R341, R407, R391) -/

/-- Lines of a partition's inbox, outbox and urgent inbox. -/
def Dev.boxLines (d : Dev) (p : Nat) : Nat := (d.pforce p 0x14 1 + d.pforce p 0x14 2) * 8192 + 2048

/-- Inbox and outbox homed anew in the stack with the most free memory.
[notes/assumptions 88 DEDUCED, unsafe] -/
def Eff.placeBoxes (e : Eff) (p : Nat) : Eff :=
  let e1 := match (e.dev.part p).boxes with
    | some (k, la, n) => e.freeLines k la n
    | none => e
  let set (x : Eff) (b : Option (Nat × Nat × Nat)) : Eff := x.mod (fun d => d.modPart p (fun y => { y with boxes := b }))
  match e1.dev.roomiest (e1.dev.usableStacks p) with
  | none => set e1 none
  | some k => match e1.takeRoom k 1 (e1.dev.boxLines p) p with
    | some (la, e2) => set e2 (some (k, la, e1.dev.boxLines p))
    | none => set e1 none

/-- A partition's block and counters at their defaults, its function's state at reset. -/
def Dev.clearPart (d : Dev) (p : Nat) : Dev :=
  let d1 := d.clearBlock p
  { (d1.modPart p (fun x => { present := x.present, busMaster := x.busMaster, nextHandle := x.nextHandle })) with
    counters := d1.counters.filter (fun c => !(inPartArea (c.1 / 256) && partOfIndex (c.1 / 256) == p)) }

/-- Creation and deletion of a partition, and new sizes of its inbox and outbox. -/
def Eff.settlePart (e : Eff) (p : Nat) : Eff :=
  let x := e.dev.part p
  let on := e.dev.pforce p 0 1 == 1
  if on && !x.created then (e.mod (fun d => d.modPart p (fun y => { y with created := true }))).placeBoxes p
  else if !on && x.created then
    (match x.boxes with
      | some (k, la, n) => e.freeLines k la n
      | none => e).mod (fun d => d.clearPart p)
  else if on && (x.boxes.map (fun b => b.2.2) != some (e.dev.boxLines p)) then e.placeBoxes p
  else e

/-- Every partition. -/
def Eff.settleParts (e : Eff) : Eff := (List.range 16).foldl Eff.settlePart e

/-- The lowest bucket level of the tick that begins: the present one, full in a partition created now (R311). -/
def Dev.restartLow (d : Dev) : Dev :=
  d.createdParts.foldl (fun acc p => acc.modPart p (fun x =>
    { x with bucketLow := minNat (d.pforce p 0x12 2 :: (d.bucketStacks p).map (d.bucket p)) })) d

/-! ### Clocks (R472, R494, R554) -/

/-- The planned clock of a re-plan that is due. -/
def Dev.takePlan (d : Dev) : Dev :=
  match d.ageing.pendingClock with
  | some (c, due, _) =>
    if d.now < due then d
    else { d with ageing := { d.ageing with
        planned := c, pendingClock := none, state := if d.ageing.again then 1 else 0, again := false } }
  | none => d

/-- One throttle step down while a sensor is at its level; back to the full clock once released.
[notes/assumptions 153 DEDUCED, unsafe] -/
def Dev.takeThrottle (d : Dev) : Dev :=
  if !d.power.throttled.isEmpty then
    { d with ageing := { d.ageing with throttle := max 400 (d.ageing.throttle - 25) } }
  else if d.power.released then
    { d with ageing := { d.ageing with throttle := 1600 }, power := { d.power with released := false } }
  else d

/-- Work that goes on over a change of the compute clock keeps the cycles it has run at the old one: tiles, patterns of
cells and sorter passes (R12, R65, R98). -/
def Dev.reclock (d : Dev) (old : Nat) : Dev :=
  if d.ageing.clock = old then d
  else { d with
    cells := d.cells.map (fun c => (c.1, { c.2 with
      held := c.2.held.map (fun h => if h.wants.isEmpty then { h with milli := h.milli + (d.now - h.since) * old, since := max h.since d.now } else h)
      patternMilli := if c.2.pattern then c.2.patternMilli + (d.now - c.2.patternAt) * old else c.2.patternMilli
      patternAt := if c.2.pattern then d.now else c.2.patternAt }))
    regions := d.regions.map (fun r => (r.1, { r.2 with
      sorter := { r.2.sorter with
        milli := r.2.sorter.milli + (d.now - r.2.sorter.start) * old
        start := max r.2.sorter.start d.now } }))
    ageing := { d.ageing with
      clocks := if d.liveJobs.any (fun j => j.round.isSome) then (d.now, old) :: d.ageing.clocks else [] } }

/-- A power cap in use, with the work that goes on over the change of clock. -/
def Dev.useCap (d : Dev) : Dev := (d.takeCap (d.forceAt 0x6003 1)).reclock d.ageing.clock

/-- The clocks that change at a boundary; the compute clock in force is the lowest. -/
def Dev.takeClocks (d : Dev) : Dev := (d.takePlan.takeThrottle).useCap

/-! ### Quotas (R267) -/

/-- Cells taken out of a partition's grants until they are within the quota, the highest numbers first.
[notes/assumptions 140 DEDUCED, unsafe] -/
def Dev.cutQuota (d : Dev) (p : Nat) : Dev :=
  let held := sortBy (fun a b => decide (b < a)) (d.grantedCells p)
  let gone := held.take (held.length - d.pforce p 0x01 1)
  if gone.isEmpty then d
  else { d with jobs := d.jobs.map (fun j =>
      (j.1, if j.2.part == p && j.2.batch.guaranteed && j.2.grant.cells.any gone.contains then
          { j.2 with grant := { j.2.grant with cells := j.2.grant.cells.filter (fun n => !gone.contains n) }, readmit := true }
        else j.2)) }

/-- Partitions whose quota, region mask or slot default changes. -/
def changedParts (old new : Dev) : List Nat :=
  (List.range 16).filter (fun p => [1, 2, 3].any (fun i => old.pforce p 0x01 i != new.pforce p 0x01 i))

/-- Partitions whose Stratus grant is lowered (R317). -/
def loweredGrants (old new : Dev) : List Nat :=
  (List.range 16).filter (fun p => [1, 2].any (fun i => decide (new.pforce p 0x13 i < old.pforce p 0x13 i)))

/-! ### Units that leave and return (R268, R272, R462) -/

/-- A region leaves service once its data has moved (R272 step 4).
[notes/assumptions 137 DEDUCED, unsafe] -/
def Dev.regionLeaves (d : Dev) (r cause : Nat) : Dev :=
  let d1 := (((d.modRegion r (fun x => { x with
      outOfService := true, draining := false, takeover := false, wcb := [], cached := [], levelTwo := [],
      sorter := { x.sorter with job := none } })).modStack
    (2 * r) (fun x => { x with outOfService := true, window := none })).modStack
    (2 * r + 1) (fun x => { x with outOfService := true, window := none }))
  let d2 := (d1.markReadmit (fun j => j.grant.cells.any (fun n => n / 64 == r) || j.usesStack (2 * r) ||
    j.usesStack (2 * r + 1) || j.grant.sorters.contains r)).moveRanges
  d2.capacityOf (regionUnit r) cause

/-- A field test that no stack has the room for ends NO_ROOM (R461).
[notes/assumptions 141 DEDUCED, unsafe] -/
def Dev.testNoRoom (d : Dev) (r : Nat) : Dev :=
  let d1 := d.modRegion r (fun x => { x with tests := x.tests.filter (fun t => t.running || t.unit != regionUnit r) })
  let d2 := (d1.testWaiters (regionUnit r)).foldl (fun acc w => acc.completeTag w.1 w.2 .noRoom) d1
  if d2.mgmtTest = 1 && unitInside d2.mgmtTestUnit (regionUnit r) then { d2 with mgmtTest := 0 } else d2

/-- A planned removal of a region at a boundary: none before the rounds on its units have committed (R268); then refused
without room, DRAINING, or out of service once it is empty and no round holds a unit of it.
[notes/assumptions 137 DEDUCED, unsafe; 206 DEDUCED, unsafe] -/
def Dev.drainRegion (d : Dev) (x : Removal) : Dev :=
  let r := unitRegion x.unit
  let gone (y : Dev) : Dev := { y with removals := y.removals.filter (fun z => z.unit != x.unit) }
  if (d.region r).outOfService then gone d
  else if !x.started then
    if !d.unitFree x.unit then d
    else if !d.survivorsHold r then gone (if x.cause = 2 then d.testNoRoom r else d)
    else
      let d1 := (d.modRegion r (fun y => { y with draining := true })).markReadmit (fun j =>
        j.grant.cells.any (fun n => n / 64 == r) || j.grant.sorters.contains r)
      { d1 with removals := d1.removals.map (fun z => if z.unit = x.unit then { z with started := true } else z) }
  else if d.regionEmpty r && d.unitFree x.unit && (d.region r).sorter.job.isNone then gone (d.regionLeaves r x.cause)
  else d

/-- A planned removal acts at the boundary after the rounds on the unit have committed (R268). -/
def Dev.remove (d : Dev) (x : Removal) : Dev :=
  if decide (x.unit < 0x8000) && unitKind x.unit == 2 then d.drainRegion x
  else if !d.unitFree x.unit then d
  else
    let news := (unitCells x.unit).any (fun n => !(d.cell n).fenced) || (unitEngines x.unit).any (fun n => !(d.engine n).fenced)
    let d1 := (unitEngines x.unit).foldl Dev.fenceEngine ((unitCells x.unit).foldl Dev.fenceCell d)
    let d2 : Dev := { d1 with removals := d1.removals.filter (fun z => z.unit != x.unit) }
    if news then d2.capacityOf x.unit x.cause else d2

/-- A region whose own test comes first is removed as planned (R461). -/
def Dev.planRegionTest (d : Dev) (r : Nat) : Dev :=
  match (d.region r).tests with
  | t :: _ =>
    if unitKind t.unit == 2 && t.loaded && !t.running && !(d.region r).outOfService then d.planRemoval t.unit 2 else d
  | [] => d

/-- Every planned removal. -/
def Dev.removeAll (d : Dev) : Dev :=
  let d1 := (List.range 6).foldl Dev.planRegionTest d
  d1.removals.foldl Dev.remove d1

/-- A region back in service with its stacks, unless more than 8 of a stack's channels are fenced (R297).
[notes/assumptions 142 DEDUCED, unsafe] -/
def Dev.regionReturns (d : Dev) (r : Nat) : Dev :=
  let back (x : Stack) : Stack := { x with outOfService := decide (8 < x.fenced.length) }
  ((d.modRegion r (fun x => { x with
    outOfService := false, draining := false, linksFailed := [], pair0Fenced := false, pair1Fenced := false
    sorter := {} })).modStack (2 * r) back).modStack (2 * r + 1) back

/-- A unit that has passed its test returns with every unit inside it; one with a margin mark stays fenced (R462). -/
def Dev.unitReturns (d : Dev) (u : Nat) : Dev :=
  let back (x : ComputeUnit) : ComputeUnit := { x with fenced := x.margin, testing := false }
  let d1 := (unitCells u).foldl (fun acc n => acc.modCell n back) d
  let d2 := (unitEngines u).foldl (fun acc n => acc.modEngine n back) d1
  (if decide (u < 0x8000) && unitKind u == 2 then d2.regionReturns (unitRegion u) else d2).capacityOf u 3

/-- Every unit that has passed. -/
def Dev.returnAll (d : Dev) : Dev :=
  (List.range 6).foldl (fun acc r =>
    (((acc.region r).passed.foldl Dev.unitReturns acc).modRegion r (fun x => { x with passed := [] }))) d

/-! ### Re-admission (R64, R68, R261, R270, R556) -/

/-- The jobs a lower cap leaves no load for, in the order of admission (R556).
[notes/assumptions 143 DEDUCED, unsafe] -/
def Eff.dropForCap (e : Eff) : Eff :=
  let c := e.dev.forceAt 0x6003 1
  ((e.dev.inOrder (fun _ => true)).foldl (fun (acc : Eff × List Job) id =>
    match e.dev.liveJob id with
    | none => acc
    | some j =>
      if capTooLow c (guaranteedSlots (acc.2 ++ [j])) then (acc.1.dropAdmission id, acc.2)
      else (acc.1, acc.2 ++ [j])) (e, [])).1

/-- Homes of the tensors of a new program: a tensor the old program has alike keeps its home, others get one with zero
data.
[notes/assumptions 115 DEDUCED, unsafe] -/
def Eff.rebindHomes (e : Eff) (j : Job) (prog : Program) : Option (Eff × List (Option TensorHome)) :=
  let kept (i : Nat) : Bool := decide (i < j.prog.tensors.length) && decide (prog.tensors[i]? = j.prog.tensors[i]?)
  let e1 := j.homes.zipIdx.foldl (fun acc h =>
    match h.1 with
    | some t => if t.lost || kept h.2 then acc else acc.freeHome t
    | none => acc) e
  let region := j.grant.home % 6
  let placed := prog.tensors.zipIdx.foldl (fun (acc : Option (Eff × List (Option TensorHome))) t =>
    match acc with
    | none => none
    | some (x, l) =>
      if kept t.2 then some (x, l ++ [(j.homes[t.2]?).join])
      else (x.placeTensor j.part region prog j.batch t.1).map (fun y => (y.1, l ++ [y.2]))) (some (e1, []))
  match placed with
  | none => none
  | some (x, l) =>
    (x.placeLevelTwo j.part region (if j.batch.guaranteed then jobLevelTwo prog j.batch else 0)).map
      (fun y => (y.1, l ++ y.2))

/-- A rebinding at the first boundary at which no round of the job runs; a program that does not fit leaves the old one
and ends the BIND NOT_SCHEDULABLE (R64, R248).
[notes/assumptions 115 DEDUCED, unsafe] -/
def Eff.rebindNow (e : Eff) (job : Nat) : Eff :=
  match e.dev.liveJob job with
  | none => e
  | some j =>
    match j.pendingProg, tget e.dev.images j.imageNo with
    | some (prog, tag), some im =>
      if j.round.isSome || j.endAfter.isSome || im.restoring then e
      else
        let fail : Eff := e.mod (fun d =>
          (d.modJob job (fun y => { y with pendingProg := none })).completeTag j.part tag .notSchedulable)
        match e.rebindHomes j prog with
        | none => fail
        | some (e1, homes) =>
          let j1 : Job := { j with prog := prog, homes := homes, orderDep := prog.orderDependent, pendingProg := none }
          let take (y : Job) : Eff := e1.mod (fun d =>
            (d.setJob y).completeTag j.part tag .ok j.handle (bindPayload prog))
          if !j.batch.guaranteed then take j1
          else match e1.dev.readmitOn j1 im (e1.dev.readmitCells j1 im) with
            | some r => take { j1 with grant := r.1, counts := r.2.1, boundPs := r.2.2, readmit := false }
            | none => fail
    | _, _ => e

/-- A weight stream buffer that was lost, or that a new program needs, allocated in a surviving stack (R261). -/
def Eff.placeStream (e : Eff) (job : Nat) : Eff :=
  match e.dev.liveJob job with
  | none => e
  | some j =>
    if j.state ≠ .admitted || j.streamBuf.isSome || !((tget e.dev.images j.imageNo).any (readsStreamed j.prog)) then e
    else match e.dev.roomiest (e.dev.usableStacks j.part) with
      | none => e
      | some k => match e.takeRoom k 1 streamLines j.part with
        | none => e
        | some (la, e1) => e1.mod (fun d =>
            (d.modJob job (fun y => { y with streamBuf := some (k, la) })).homesChanged job)

/-- A LATE round keeps the cells it has but those that have left service or that a re-admission gave to another job, and
uses those its job has gained (R65).
[notes/assumptions 143 DEDUCED, unsafe] -/
def Dev.lateCells (d : Dev) : Dev :=
  let others (id n : Nat) : Bool := d.guaranteedJobs.any (fun g => g.id != id && g.grant.cells.contains n)
  ({ d with jobs := d.jobs.map (fun j =>
      (j.1, if !j.2.batch.guaranteed then j.2
        else { j.2 with round := j.2.round.map (fun r =>
          if r.decided then r
          else { r with cells := ((r.cells ++ j.2.grant.cells).eraseDups).filter (fun n => d.cellUp n && !others j.2.id n) }) })) } : Dev).moveRanges

/-- Guaranteed tiles on cells that another job holds since a re-admission go back to their list (R244). -/
def Dev.stopUngranted (d : Dev) : Dev :=
  (List.range 384).foldl (fun acc n =>
    match (acc.cell n).held with
    | none => acc
    | some h =>
      match acc.round? h.job with
      | some (j, r) => if j.batch.guaranteed && h.role == .original && !r.cells.contains n then acc.stopAndReissue n else acc
      | none => acc) d

/-- The changes a boundary makes to the guaranteed jobs: `all` when every one is re-admitted, else those that lost
something and those of changed partitions.
[notes/assumptions 143 DEDUCED, unsafe] -/
def Eff.readmitAt (e : Eff) (all cap : Bool) (parts : List Nat) : Eff :=
  let ids := e.dev.liveJobs.map Job.id
  let e1 := if cap then e.dropForCap else e
  let e2 := ids.foldl Eff.placeStream (ids.foldl Eff.rebindNow e1)
  let e3 := e2.readmitAll (fun j => j.endAfter.isNone && (all || j.readmit || parts.contains j.part))
  e3.mod (fun d => (d.lateCells.stopUngranted.bestEffortStop).useCap)

/-! ### Notices (R268) -/

/-- Partitions with a guaranteed grant that differs. -/
def grantsChanged (old new : Dev) : List Nat :=
  ((old.guaranteedJobs.filter (fun j => decide ((new.liveJob j.id).map Job.grant ≠ some j.grant))).map Job.part).eraseDups

/-- Does a grant hold the unit of a capacity change: cells of a cell, block or region, the stacks of a region, a
sorter, or a stack's window and slots?
[notes/assumptions 21 DEDUCED, unsafe] -/
def Job.holdsUnit (j : Job) (kind unit : Nat) : Bool :=
  match kind with
  | 3 => j.usesStack (unit / 16)
  | 4 => j.grant.sorters.contains unit
  | 5 => j.usesStack (unit / 32)
  | 6 => false
  | _ => (unitCells unit).any (fun n => j.grant.cells.contains n) ||
      (kind == 2 && (j.usesStack (2 * unitRegion unit) || j.usesStack (2 * unitRegion unit + 1)))

/-- CAPACITY_CHANGE notices of a boundary: each to the partitions whose grants changed and held its unit, one whose
grants held none of the units receiving them all; for the flash tier to every partition, and for a quota to its
partition.
[notes/assumptions 21 DEDUCED, unsafe; 140 DEDUCED, unsafe] -/
def Dev.tellCapacity (d : Dev) (old : Dev) (quotas : List Nat) : Dev :=
  let l := d.capacityEvents
  let holds (p : Nat) (x : Nat × Nat × Nat) : Bool :=
    old.guaranteedJobs.any (fun j => j.part == p && j.holdsUnit x.1 x.2.2)
  let rings (x : Nat × Nat × Nat) : List Nat :=
    if x.1 = 6 then d.createdParts
    else (grantsChanged old d).filter (fun p => holds p x || !l.any (holds p))
  let d1 := l.foldl (fun acc x => acc.noticeCapacity (rings x) x.1 x.2.1 x.2.2) { d with capacityEvents := [] }
  quotas.foldl Dev.noticeQuota d1

/-! ### What is over (R384) -/

/-- Jobs that ended at least 1 s ago, and counters of streams whose entry was freed as long ago, discarded; the demand of
a job that ended in the tick leaves the counters of pages (R166).
[notes/assumptions 126 DEDUCED, unsafe] -/
def Dev.discardOld (d : Dev) : Dev :=
  let old (t : Tns) : Bool := decide (t + 1000000000 ≤ d.now)
  let gone (j : Job) : Bool := decide (j.state = .ended) && decide (j.endedAt < d.now)
  { d with jobs := (d.jobs.filter (fun j => !(decide (j.2.state = .ended) && old j.2.endedAt))).map (fun j =>
      (j.1, { j.2 with
        kvBytes := if gone j.2 then 0 else j.2.kvBytes, pageDemand := if gone j.2 then 0 else j.2.pageDemand
        streamCounters := j.2.streamCounters.filter (fun c =>
        !(c.2.freedAt.any old) || j.2.hasStream d c.1) })) }

/-! ### The boundary -/

/-- The device after everything of R68 that takes effect at the boundary but re-admission. -/
def Eff.changes (e : Eff) (old : Dev) : Eff :=
  (e.mod Dev.releaseAll).settleParts.mod (fun d =>
    (((changedParts old d).foldl Dev.cutQuota d.restartLow.takeClocks.trimCaches).removeAll).returnAll)

/-- The boundary at its instant: the new tick, the changes, re-admission, the cut, the rounds. The second of two
boundaries on schedule clears cause [6] (R467). -/
def State.boundary (s : State) : State :=
  let d0 := s.dev.advance s.dev.tick.next
  let cap := d0.capDue
  let d1 := d0.beginTick
  let auto := d1.forceAt 0x5001 4 == 1
  let missed := d0.tick.started && !d0.tick.roundsDone
  let clears := if decide (2 ≤ d1.tick.onSchedule) then [SafetyOp.clear 6] else []
  let exit := (clears.foldl SafetyOp.run s.safety).mayLeave auto && !missed
  let s1 := s.apply (if missed then { dev := d1.raise 9 0xFFFF, safety := clears }
    else { dev := d1, safety := clears ++ [.boundary auto] })
  let e := s1.dev.eff.changes d0
  let parts := changedParts d0 e.dev
  let all := exit || decide (e.dev.ageing.clock ≠ d0.ageing.clock) || decide (e.dev.tick.period ≠ d0.tick.period) ||
    decide (e.dev.tick.guard ≠ d0.tick.guard)
  let e1 := e.readmitAt all cap (parts ++ loweredGrants d0 e.dev)
  let quotas := parts.filter (fun p => (d0.part p).created && (e1.dev.part p).created &&
    [1, 2].any (fun i => d0.pforce p 0x01 i != e1.dev.pforce p 0x01 i))
  let s2 := s1.apply (e1.mod (fun d => (d.tellCapacity d0 quotas).discardOld))
  let s3 := s2.streamsAtBoundary
  let s4 := s3.apply ((s3.dev.intake s3.safety.safe).eff.recallQueued)
  (s4.withDev (s4.dev.startRounds s4.safety.safe)).pump

/-- TICK_BOUNDARY: once the device is ready. A window that has not run by then has not completed (R55).
[notes/assumptions 72 DEDUCED, unsafe] -/
def State.tickBoundary (s : State) : State :=
  if !s.dev.ready then s.apply s.dev.eff
  else if s.dev.tick.started && !s.dev.tick.commitDone then (s.commitWindow false).boundary
  else s.flare.boundary

/-! ### Tick loss and share windows -/

/-- TICK_LOSS: half a period after its time the boundary has not occurred (R48).
[notes/assumptions 73 DEDUCED, unsafe] -/
def Dev.tickLoss (d : Dev) : Dev :=
  if !d.ready || !d.tick.started || d.tick.lossDeclared then d
  else
    let d1 := d.advance (d.tick.next + d.periodTns / 2)
    ({ d1 with tick := { d1.tick with lossDeclared := true, onSchedule := 0 } } : Dev).raise 6 0xFFFF

/-- SHARE_WINDOW_START: the next multiple of the window's length on the timebase; every share use is 0 (R376). -/
def Dev.shareStart (d : Dev) : Dev :=
  let w := d.tick.shareWindow * 1000
  let d1 := d.advance ((d.now / w + 1) * w)
  { d1 with
    tick := { d1.tick with shareWindow := d1.tick.windowAfter.getD d1.tick.shareWindow, windowAfter := none }
    parts := d1.parts.map (fun p => (p.1, { p.2 with shareUse := [0, 0, 0] }))
    jobs := d1.jobs.map (fun j => (j.1, { j.2 with shareUse := [0, 0, 0] })) }

/-! ### The meanings -/

/-- TICK_BOUNDARY. -/
def execTickBoundary (s : State) : Host.Outcome State Fault Refusal := .next s.tickBoundary

/-- TICK_LOSS. -/
def execTickLoss (s : State) : Host.Outcome State Fault Refusal := s.done s.dev.tickLoss.eff

/-- SHARE_WINDOW_START. -/
def execShareWindowStart (s : State) : Host.Outcome State Fault Refusal := s.done s.dev.shareStart.eff

end Sys2Proof.Machine
end

