-- ==== Sys2Proof/Machine/ObjectCommands.lean ====
section
/-!
DEFINITION. The rows that write or clear one object (R398 to R419): each is one entry of R398, whose report
the model keeps in `lastReport`.
-/

namespace Sys2Proof.Machine

/-- One entry written by a requester; the report is kept. -/
def State.writeRow (s : State) (who : Requester) (w : Entry) : State :=
  let r := s.writeEntry who w
  r.1.withDev { r.1.dev with lastReport := r.2 }

/-- The end of the 600 s of an open safety lock (R409). -/
def Dev.lockExpire (d : Dev) : Dev :=
  match d.lockOpened with
  | none => d
  | some t => { d.advance (t + 600000000000) with lockOpened := none }

/-- A read-and-clear alias read (R388); the entry is kept in `lastValue`. -/
def State.clearRow (s : State) (who : Requester) (idx sub : Nat) : Dev :=
  if isAlias idx sub then
    let r := s.readAlias who idx sub
    { r.2 with lastValue := some (objKey idx sub, r.1) }
  else s.dev

/-- OBJECT_WRITE. -/
def execObjectWrite (who : Requester) (index sub type : Nat) (value : Bytes) (s : State) : Host.Outcome State Fault Refusal :=
  .next (s.writeRow who { idx := index, sub := sub, type := type, status := 0, value := value })

/-- READ_AND_CLEAR. -/
def execReadAndClear (who : Requester) (index sub : Nat) (s : State) : Host.Outcome State Fault Refusal :=
  s.done (s.clearRow who index sub).eff

/-- WATERMARK_SLOT_WRITE. -/
def execWatermarkSlotWrite (who : Requester) (index sub type : Nat) (value : Bytes) (s : State) : Host.Outcome State Fault Refusal :=
  .next (s.writeRow who { idx := index, sub := sub, type := type, status := 0, value := value })

/-- PARTITION_CREATE: 0x4P00.01 = 1. -/
def execPartitionCreate (who : Requester) (p : Fin 16) (s : State) : Host.Outcome State Fault Refusal :=
  .next (s.writeRow who (entryFor (partIndex p 0) 1 1))

/-- PARTITION_DELETE: 0x4P00.01 = 0. -/
def execPartitionDelete (who : Requester) (p : Fin 16) (s : State) : Host.Outcome State Fault Refusal :=
  .next (s.writeRow who (entryFor (partIndex p 0) 1 0))

/-- CONFIG_STORE: 0x1100.01 = 1. -/
def execConfigStore (who : Requester) (s : State) : Host.Outcome State Fault Refusal :=
  .next (s.writeRow who (entryFor 0x1100 1 1))

/-- CONFIG_STORE_DURABLE. -/
def execConfigStoreDurable (readBackOk : Bool) (s : State) : Host.Outcome State Fault Refusal :=
  let h := s.dev.writeSuspended
  s.done (if h.1 then h.2.eff else (h.2.storeDurable readBackOk).eff)

/-- DEFAULTS: 0x1100.01 = 2. -/
def execDefaults (who : Requester) (s : State) : Host.Outcome State Fault Refusal :=
  .next (s.writeRow who (entryFor 0x1100 1 2))

/-- REBASE: 0x1100.01 = 3. -/
def execRebase (who : Requester) (s : State) : Host.Outcome State Fault Refusal :=
  .next (s.writeRow who (entryFor 0x1100 1 3))

/-- RESET_WARM: 0x1100.10 = 1. -/
def execResetWarm (who : Requester) (s : State) : Host.Outcome State Fault Refusal :=
  .next (s.writeRow who (entryFor 0x1100 0x10 1))

/-- RESET_COLD: 0x1100.10 = 2. -/
def execResetCold (who : Requester) (s : State) : Host.Outcome State Fault Refusal :=
  .next (s.writeRow who (entryFor 0x1100 0x10 2))

/-- FIRMWARE_CHUNK: 0x1100.15. -/
def execFirmwareChunk (who : Requester) (value : Bytes) (s : State) : Host.Outcome State Fault Refusal :=
  .next (s.writeRow who { idx := 0x1100, sub := 0x15, type := 9, status := 0, value := value })

/-- FIRMWARE_BEGIN: 0x1100.16 = 1. -/
def execFirmwareBegin (who : Requester) (s : State) : Host.Outcome State Fault Refusal :=
  .next (s.writeRow who (entryFor 0x1100 0x16 1))

/-- FIRMWARE_COMMIT: 0x1100.16 = 2. -/
def execFirmwareCommit (who : Requester) (s : State) : Host.Outcome State Fault Refusal :=
  .next (s.writeRow who (entryFor 0x1100 0x16 2))

/-- FIRMWARE_CANCEL: 0x1100.16 = 3. -/
def execFirmwareCancel (who : Requester) (s : State) : Host.Outcome State Fault Refusal :=
  .next (s.writeRow who (entryFor 0x1100 0x16 3))

/-- LEAVE_SAFE_STATE: 0x5001.03 = 1. -/
def execLeaveSafeState (who : Requester) (s : State) : Host.Outcome State Fault Refusal :=
  .next (s.writeRow who (entryFor 0x5001 3 1))

/-- SAFETY_LOCK_OPEN: 0x5002.01 = 1. -/
def execSafetyLockOpen (who : Requester) (s : State) : Host.Outcome State Fault Refusal :=
  .next (s.writeRow who (entryFor 0x5002 1 1))

/-- SAFETY_LOCK_EXPIRE. -/
def execSafetyLockExpire (s : State) : Host.Outcome State Fault Refusal := s.done s.dev.lockExpire.eff

/-- FIELD_TEST_MGMT: 0x5010.01. -/
def execFieldTestMgmt (who : Requester) (unit : BitVec 16) (s : State) : Host.Outcome State Fault Refusal :=
  .next (s.writeRow who (entryFor 0x5010 1 unit.toNat))

/-- PLANNED_FENCE: 0x5021.01. -/
def execPlannedFence (who : Requester) (unit : BitVec 16) (s : State) : Host.Outcome State Fault Refusal :=
  .next (s.writeRow who (entryFor 0x5021 1 unit.toNat))

/-- REPLAN_NOW: 0x6000.04 = 1. -/
def execReplanNow (who : Requester) (s : State) : Host.Outcome State Fault Refusal :=
  .next (s.writeRow who (entryFor 0x6000 4 1))

/-- The fixing switch and the cell as they read at an acknowledgement: a refitted screw and a replaced cell are
seen here; a broken mesh reads open for good (R515).
[notes/assumptions 157 DEDUCED, unsafe; 159 DEDUCED, unsafe] -/
def Dev.readTamper (d : Dev) (switchClosed cellGood : Bool) : Dev :=
  { d with backup := { d.backup with
      switchOpen := d.backup.switchOpen && !switchClosed, cellLow := d.backup.cellLow && !cellGood } }

/-- ALARM_ACKNOWLEDGE: 0x9001.03 = 1, with what the fixing switch and the cell read.
[notes/assumptions 159 DEDUCED, unsafe] -/
def execAlarmAcknowledge (who : Requester) (switchClosed cellGood : Bool) (s : State) :
    Host.Outcome State Fault Refusal :=
  .next ((s.withDev (s.dev.readTamper switchClosed cellGood)).writeRow who (entryFor 0x9001 3 1))

/-- POWER_CAP_WRITE: 0x6003.01. -/
def execPowerCapWrite (who : Requester) (watts : BitVec 16) (s : State) : Host.Outcome State Fault Refusal :=
  .next (s.writeRow who (entryFor 0x6003 1 watts.toNat))

/-- SKY_PIN_FUNCTION_WRITE: 0x8000.0(n + 1). -/
def execSkyPinFunctionWrite (who : Requester) (pin : Fin 8) (function : BitVec 8) (s : State) : Host.Outcome State Fault Refusal :=
  .next (s.writeRow who (entryFor 0x8000 (pin + 1) function.toNat))

/-- TAI_SECOND_WRITE: 0x2000.08. -/
def execTaiSecondWrite (who : Requester) (second : BitVec 64) (s : State) : Host.Outcome State Fault Refusal :=
  .next (s.writeRow who (entryFor 0x2000 8 second.toNat))

end Sys2Proof.Machine
end

