-- ==== Sys2Proof/Machine/Start.lean ====
section
/-!
DEFINITION. Starts and resets (R517 to R533): what each start keeps, its steps, how it ends or fails, the
reset sources, and the alarms of the backup domain (R514).
-/

namespace Sys2Proof.Machine

/-! ### What a start keeps (R524) -/

/-- Is a stored object one that survives a start: on Stratus, with no STORE of it unfinished (R331)? -/
def Dev.survives (d : Dev) (key : Nat) (o : Object) : Bool :=
  o.stratus && !o.releasing &&
    !(d.part (key / 2 ^ 32)).storeWrites.any (fun w => w.handle == key % 2 ^ 32 && !w.atHome)

/-- The stored objects that survive a start. -/
def Dev.keptObjects (d : Dev) : List (Nat × Object) := d.objects.filter (fun o => d.survives o.1 o.2)

/-- The images that survive a start: those whose load has ended, and its LOAD_IMAGE END with it (R331). -/
def Dev.keptImages (d : Dev) : List (Nat × Image) := d.images.filter (fun i => i.2.ended && !d.placing i.1)

/-- Stratus as a mount leaves it: spilled pages, evicted state and unfinished loads are freed (R316).
[notes/assumptions 158 DEDUCED, unsafe] -/
def Dev.keptStratus (d : Dev) : Stratus :=
  let bases := (d.keptObjects.map (fun o => o.2.base)) ++ (d.keptImages.map (fun i => i.2.loc))
  { d.stratus with
    mounted := false, checkpoint := none
    alloc := d.stratus.alloc.filter (fun e => bases.contains e.base) }

/-- The device at its reset values with what every start keeps, at the instant of the reset (R444, R524).
[notes/assumptions 20 DESIGN CHOICE, unsafe] -/
def Dev.fresh (d : Dev) : Dev :=
  { now := d.now, freeCount := d.freeCount, backup := d.backup
    images := d.keptImages.map (fun i =>
      (i.1, { i.2 with placed := false, restoring := true, slices := [] }))
    nextImage := d.nextImage, objects := d.keptObjects, stratus := d.keptStratus
    parts := (d.parts.filter (fun p => p.2.nextHandle != 1)).map (fun p => (p.1, { nextHandle := p.2.nextHandle }))
    ports := d.ports.map (fun p => (p.1, { perst := p.2.perst }))
    pins := (d.pins.filter (fun p => p.2.outside.isSome)).map (fun p => (p.1, { outside := p.2.outside }))
    power := { d.power with throttled := [], inletOut := none, released := false }
    mgmt := { creds := (d.mgmt.creds.filter (fun c => c.2.fingerprint.isSome)).map (fun c =>
      (c.1, { fingerprint := c.2.fingerprint })) }
    store := { copyA := d.store.copyA, copyB := d.store.copyB, storedTai := d.store.storedTai, bytes := d.store.bytes }
    ageing := { planA := d.ageing.planA, planB := d.ageing.planB, planGen := d.ageing.planGen }
    start := { bank := d.start.bank, bankA := d.start.bankA, bankB := d.start.bankB, staged := d.start.staged
               stagedVersion := d.start.stagedVersion, firstBoot := d.start.firstBoot, resetAt := d.now
               moduleId := d.start.moduleId, powered := d.start.powered } }

/-! ### Training (R293, R521, R295) -/

/-- One channel trained: failing active lanes (0 to 71) go to the spares (72, 73) that pass; with too few,
the channel is fenced. -/
def Stack.train (k : Stack) (c : Nat) (lanes : List Nat) : Stack :=
  let active := (lanes.filter (fun l => decide (l < 72))).length
  let bad := (lanes.filter (fun l => decide (72 ≤ l))).length
  if active ≤ 2 - bad then
    { k with spares := tset k.spares c active, badSpares := tset k.badSpares c bad, failedLanes := tset k.failedLanes c lanes }
  else
    { k with fenced := if k.fenced.contains c then k.fenced else insertBy (fun a b => decide (a < b)) c k.fenced
             spares := tset k.spares c (2 - bad), badSpares := tset k.badSpares c bad
             failedLanes := tset k.failedLanes c lanes }

/-- Channels fenced at a start.
[notes/assumptions 158 DEDUCED, unsafe] -/
def Stack.fenceAtStart (k : Stack) (c : Nat) : Stack :=
  if k.fenced.contains c then k else { k with fenced := insertBy (fun a b => decide (a < b)) c k.fenced }

/-- Channels fenced and stacks out of service once training and BIST are done, told at the first boundary
(R519, R297). -/
def Dev.tellChannels (d : Dev) : Dev :=
  let d1 : Dev := { d with stackTab := d.stackTab.map (fun k =>
    (k.1, if 8 < k.2.fenced.length then { k.2 with outOfService := true } else k.2)) }
  d1.stackTab.foldl (fun acc k => k.2.fenced.foldl (fun a c => a.capacityEvent 5 4 (k.1 * 32 + c)) acc) d1

/-- Training, or the lane map as it was, and the channels that BIST fences.
[notes/assumptions 158 DEDUCED, unsafe] -/
def Dev.startStacks (d : Dev) (old : Dev) (o : StartObs) (cold : Bool) : Dev :=
  let trained := cold || !o.laneMapVerifies
  let d1 := if trained then o.failingLanes.foldl (fun acc x =>
      acc.modStack x.1.val (fun k => k.train x.2.1.val x.2.2)) d
    else { d with stackTab := old.stackTab.map (fun k =>
      (k.1, { spares := k.2.spares, badSpares := k.2.badSpares, failedLanes := k.2.failedLanes })) }
  let d2 := if cold then o.bistChannels.foldl (fun acc x =>
      acc.modStack x.1.val (fun k => k.fenceAtStart x.2.val)) d1 else d1
  d2.tellChannels

/-! ### Weight placements over a warm start (R522) -/

/-- Is a placed slice kept: every line passed, its stack in service, its channels as they were? -/
def Dev.sliceKept (d : Dev) (old : Dev) (s : WeightSlice) : Bool :=
  !s.lost && !(d.stack s.stack).outOfService && decide ((d.stack s.stack).fenced = (old.stack s.stack).fenced)

/-- The placements a warm start keeps.
[notes/assumptions 150 DEDUCED, unsafe] -/
def Dev.keepPlacements (d : Dev) (old : Dev) (o : StartObs) : Dev :=
  let imgs := d.images.map (fun i =>
    match tget old.images i.1 with
    | none => i
    | some w =>
      if o.placementsKept.contains i.1 && !w.slices.isEmpty then
        let sl := w.slices.map (fun l => l.map (fun s => { s with lost := !d.sliceKept old s }))
        let all := sl.all (fun l => l.all (fun s => !s.lost))
        (i.1, { i.2 with slices := sl, placed := w.placed && all, restoring := !(w.placed && all) })
      else i)
  let kept := imgs.flatMap (fun i => i.2.slices.flatMap (fun l => l.filter (fun s => !s.lost)))
  { d with
    images := imgs
    stackAlloc := (old.stackAlloc.map (fun k =>
      (k.1, k.2.filter (fun e => kept.any (fun s => s.stack == k.1 && s.la == e.base))))).filter (fun k => !k.2.isEmpty) }

/-- The byte ranges a start keeps: kept placements, and what is in Stratus. -/
def Dev.keptRanges (d : Dev) : List (Nat × Nat) :=
  (d.images.flatMap (fun i => i.2.slices.flatMap (fun l =>
    (l.filter (fun s => !s.lost)).map (fun s => (stackAddr s.stack s.la, s.lines * 128))))) ++
  d.stratus.alloc.map (fun e => (Space.stratus.addr (e.base * 4096), e.size * 4096))

/-! ### Firmware (R518, R530, R531) -/

/-- The bank a start boots: the staged one first, then the one in force, then the other; none if none
verifies. -/
def Start.bootBank (x : Start) (verifies : List Bool) : Option Nat :=
  let want := x.staged.getD x.bank
  let l := [want, if x.bank < 2 then x.bank else 0, 0, 1].filter (fun b => verifies.getD b false)
  l.head?

/-- The bank in force after the boot ROM step; a staged bank boots for the first time. -/
def Start.boot (x : Start) (verifies : List Bool) : Start :=
  match x.bootBank verifies with
  | none => { x with bank := 2, staged := none, stagedVersion := 0, firstBoot := false }
  | some b => { x with bank := b, firstBoot := decide (x.staged = some b), staged := none, stagedVersion := 0 }

/-! ### Stratus mount (R329) -/

/-- The mount of the tier: 0.4 s with a checkpoint that verifies, 18 s without or at a cold start. -/
def Dev.mount (d : Dev) (full : Bool) : Dev :=
  { d with
    now := d.now + (if full then 18000000000 else 400000000)
    stratus := { d.stratus with mounted := true, checkpoint := some d.now } }

/-! ### Units (R518 step 8, R497) -/

/-- A unit fenced because its pattern failed at the start, told at the first boundary (R519).
[notes/assumptions 157 DEDUCED, unsafe] -/
def Dev.failAtStart (d : Dev) (u : PatternUnit) : Dev :=
  match u with
  | .cell n => (d.modCell n (fun c => { c with fenced := true })).capacityOf (cellUnit n) 0
  | .engine k e =>
    let n := k.val * 16 + e.val
    (d.modEngine n (fun c => { c with fenced := true })).capacityOf (engineUnit n) 0

/-- Regions without a cell in service leave service. -/
def Dev.regionsUp (d : Dev) : List Nat :=
  (List.range 6).filter (fun r => (List.range 64).any (fun c => d.cellUp (r * 64 + c)))

/-- The verified plan with the higher generation (R497).
[notes/assumptions 162 DEDUCED, unsafe] -/
def Ageing.verified (a : Ageing) (ok : List Bool) : Option Plan :=
  let a' := if ok.getD 0 false then a.planA else none
  let b' := if ok.getD 1 false then a.planB else none
  ({ a with planA := a', planB := b' } : Ageing).stored

/-- The margin plan applied: guard bands, refresh intervals, marks and the planned clock; without a plan the
limits, and a re-plan within 60 s of ready that may raise the clock (R497).
[notes/assumptions 162 DEDUCED, unsafe] -/
def Dev.applyPlan (d : Dev) (o : StartObs) (interrupted : Bool) : Dev :=
  match d.ageing.verified o.planVerifies with
  | some p =>
    let d1 := (List.range 6).foldl (fun acc r => acc.modRegion r (fun x => { x with guard := p.guardRegions.getD r 0 })) d
    let d2 := (List.range 12).foldl (fun acc k => acc.modStack k (fun x => { x with guard := p.guardStacks.getD k 0 })) d1
    let d3 := p.refresh.foldl (fun acc c => acc.modStack (c.1 / 32) (fun x => { x with refresh := tset x.refresh (c.1 % 32) c.2 })) d2
    let d4 := p.markCells.foldl (fun acc n => acc.modCell n (fun c => { c with fenced := true, margin := true })) d3
    let d5 := p.markEngines.foldl (fun acc n => acc.modEngine n (fun c => { c with fenced := true, margin := true })) d4
    { d5 with
      ageing := { d5.ageing with planned := p.clock, planGen := p.gen }
      start := { d5.start with replanDue := if interrupted then some d5.now else none } }
  | none =>
    let g := d.confAt 0x6002 1
    let d1 := (List.range 6).foldl (fun acc r => acc.modRegion r (fun x => { x with guard := g })) d
    let d2 := (List.range 12).foldl (fun acc k => acc.modStack k (fun x =>
      { x with guard := g, refresh := (List.range 32).map (fun c => (c, 8)) })) d1
    { d2 with
      ageing := { d2.ageing with planned := d2.confAt 0x6000 2, raiseOnce := true }
      start := { d2.start with replanDue := some d2.now } }

/-- The first readings of the monitors (R576).
[notes/assumptions 163 DEDUCED, unsafe] -/
def Dev.startReadings (d : Dev) (o : StartObs) (cold : Bool) : Dev :=
  let d1 := d.setLosses o.oscillators
  let d2 : Dev := { d1 with
    regions := d1.regions.map (fun r => (r.1, { r.2 with oscAtReplan := r.2.oscLoss }))
    stackTab := d1.stackTab.map (fun k => (k.1, { k.2 with oscAtReplan := k.2.oscLoss }))
    ageing := { d1.ageing with eraseMax := o.eraseMax } }
  let d3 := if cold then o.retention.foldl (fun acc x => acc.retentionRead x.1.val x.2.1.val x.2.2) d2 else d2
  d3.replicaRead o.delays

/-! ### Stored configuration (R418) -/

/-- The copy a start applies: 1 A, 2 B, by epoch and then generation. -/
def ConfigStore.chosen (c : ConfigStore) (ok : List Bool) : Option (Nat × StoredCopy) :=
  let a := if ok.getD 0 false then c.copyA else none
  let b := if ok.getD 1 false then c.copyB else none
  match a, b with
  | some x, some y =>
    if x.epoch < y.epoch ∨ (x.epoch = y.epoch ∧ x.generation < y.generation) then some (2, y) else some (1, x)
  | some x, none => some (1, x)
  | none, some y => some (2, y)
  | none, none => none

/-- Its values as entries in ascending index and subindex. -/
def StoredCopy.entries (c : StoredCopy) : List Entry :=
  sortBy (fun a b => decide (objKey a.idx a.sub < objKey b.idx b.sub))
    ((c.values.map (fun v => entryFor (v.1 / 256) (v.1 % 256) v.2)) ++
      (c.names.map (fun v =>
        { idx := v.1 / 256, sub := v.1 % 256, type := Ty.str.code, status := 0, value := v.2 : Entry })))

/-- The stored configuration applied as a management write holding every right; without a verified copy the
defaults stand and an ALARM says so. -/
def State.applyConfig (s : State) (ok : List Bool) : State :=
  match s.dev.store.chosen ok with
  | none => s.withDev (s.dev.alarm 2)
  | some (n, c) =>
    let ws := c.entries
    let r := s.writeAll (.cred 0) true ws
    let d := r.1.dev.setReport (ws.map (fun w => (w.idx, w.sub))) r.2
    r.1.withDev { d with store := { d.store with
      inForce := n, applied := n, generation := c.generation, epoch := c.epoch } }

/-! ### A start -/

/-- A start fails at a step (R519, R529, R530): a warm one waits for its retry; a cold one is held, or in
ALARM_HELD while ALARM_PENDING is set. A staged bank that fails its first start is given up (R531).
[notes/assumptions 157 DEDUCED, unsafe] -/
def Dev.startFails (d : Dev) (step : Nat) : Dev :=
  let x := d.start
  let x1 : Start := if x.firstBoot && x.bank < 2 then { x with bank := 1 - x.bank, firstBoot := false } else x
  { d with start :=
      if x.kind = 1 then { x1 with failed := true, stepsDone := false }
      else if d.backup.alarmPending then { x1 with failed := true, stepsDone := false, status := 3 }
      else { x1 with failed := true, stepsDone := false, status := 2, failedStep := step } }

/-- The step at which what a start finds makes it fail, as R518 numbers it; none if it succeeds (R519). -/
def startFailsAt (o : StartObs) : Option Nat :=
  if !o.systemAreaReadable then some 3
  else if !o.bankVerifies.any id then some 2
  else none

/-- Time of a start's steps up to ready, the mount and the orderly window apart, in tns (R518, R520, R521). -/
def startTime (cold trains : Bool) : Nat :=
  if cold then 17200000000 else 1300000000 + (if trains then 2100000000 else 0)

/-- The device of a start of a kind, after a reset at an instant, once its memories are trained (R518 steps 2 to 5). -/
def Dev.startTrained (old : Dev) (cold : Bool) (since : Tns) (o : StartObs) : Dev :=
  let d0 := old.fresh
  let d1 : Dev := { d0 with
    start := ({ d0.start with kind := if cold then 0 else 1, resetAt := since, moduleId := o.moduleId.toNat } : Start).boot o.bankVerifies
    backup := { d0.backup with failedWarm := if cold then d0.backup.failedWarm else d0.backup.failedWarm + 1 }
    time := { d0.time with invalidStart := d0.backup.clockStopped } }
  let d2 := d1.startStacks old o cold
  if cold then d2 else d2.keepPlacements old o

/-- Memory with the bytes that a STORE has made durable and no commit window has shown yet (R327). -/
def State.durableMem (s : State) : Mem := (s.dev.eff.showStores s.mem).mem.foldl MemOp.run s.mem

/-- The state of a start with the tier mounted: what no start keeps of the memories is gone. -/
def State.startMounted (s : State) (cold : Bool) (since : Tns) (o : StartObs) : State :=
  let d3 := s.dev.startTrained cold since o
  let d4 : Dev := { (d3.mount (cold || !o.checkpointVerifies)) with
    stratus := { d3.stratus with mounted := true, checkpoint := some d3.now, readOnly := o.stratusReadOnly } }
  let s1 := { s with safety := {}, dev := { d4 with now := d4.now + startTime cold (!cold && !o.laneMapVerifies) } }
  { s1 with mem := (MemOp.keepOnly s1.dev.keptRanges).run s.durableMem }

/-- The last steps of a start, with its configuration applied: the plan, the time source, the units' patterns and the
first readings; a start without a region fails. -/
def Dev.startEnds (d : Dev) (o : StartObs) (interrupted cold : Bool) : Dev :=
  let d5 := (d.applyPlan o interrupted).selectTime true
  let d6 := o.patternFails.foldl Dev.failAtStart d5
  let d7 := d6.startReadings o cold
  let d8 : Dev := { d7 with start := { d7.start with stepsDone := true, patternsAt := d7.now } }
  if d8.regionsUp.isEmpty then d8.startFails 8 else d8

/-- A start of a kind with what it finds, after a reset at an instant: every step up to the wait for time, or its failure. Ready is a step
of its own (R517). -/
def State.restart (s : State) (cold : Bool) (since : Tns) (o : StartObs) : State :=
  let s2 := s.startMounted cold since o
  match startFailsAt o with
  | some n => s2.withDev (s2.dev.startFails n)
  | none =>
    let s3 := s2.applyConfig o.configVerifies
    s3.withDev (s3.dev.startEnds o (s.dev.ageing.state == 1) cold)

/-! ### Power -/

/-- Main power is gone: an alarm bit of cell or temperature that is still set makes ALARM_PENDING set (R514);
everything volatile is lost. `hot`: the shutdown stage of R472.
[notes/assumptions 152 DEDUCED, unsafe; 160 DEDUCED, unsafe; 161 DEDUCED, unsafe] -/
def State.powerOff (s : State) (hot : Bool) : State :=
  let d := s.dev.fresh
  let pend := d.backup.alarmPending || bit d.backup.alarms 1 || bit d.backup.alarms 2
  { s with
    safety := {}
    mem := (MemOp.keepOnly d.keptRanges).run s.durableMem
    dev := { d with
      backup := { d.backup with alarmPending := pend }
      start := { d.start with powered := false, waitInput := !hot, thermalOff := hot } } }

/-! ### Temperatures (R472, R4, R5) -/

/-- Throttle, trip and shutdown levels of a sensor in 0.01 °C; none for a sensor without them. -/
def tempLevels (sub : Nat) : Option (Int × Int × Int) :=
  if 0x12 ≤ sub ∧ sub ≤ 0x18 then some (9500, 10500, 11500)
  else if 0x19 ≤ sub ∧ sub ≤ 0x24 then some (8500, 9500, 10500)
  else if sub = 0x25 then some (7000, 8500, 9500)
  else none

/-- Inlet range of the part in 0.01 °C (R4). -/
def inletRange : Int × Int := if Config.gradeE then (500, 4000) else (1500, 4000)

/-- Is a reading at or above a sensor's throttle level, less a margin? -/
def atThrottle (sub : Nat) (v margin : Int) : Bool :=
  if sub = 0x10 then decide (v < inletRange.1 ∨ inletRange.2 - margin < v)
  else (tempLevels sub).any (fun l => decide (l.1 - margin ≤ v))

/-- Does every sensor read below its throttle level by a margin? -/
def Dev.coolBy (d : Dev) (margin : Int) : Bool := d.power.sensors.all (fun x => !atThrottle x.1 x.2 margin)

/-! ### Reset sources (R527) -/

/-- The kind of start RESET_N gives: cold in the held state, over an interrupted cold start, and after a
thermal shutdown (R527, R529). -/
def Dev.resetNCold (d : Dev) : Bool :=
  d.start.status == 2 || (d.start.status == 0 && d.start.kind == 0) || d.start.thermalOff ||
    (d.start.status == 3 && d.start.failed)

/-- May a start begin while the module is off: after a shutdown only once every sensor is cool (R527). -/
def Dev.mayPower (d : Dev) : Bool := !d.start.thermalOff || d.coolBy 0

/-- POWER_ON: main power is applied and a cold start runs (R518, R527). -/
def execPowerOn (obs : StartObs) (s : State) : Host.Outcome State Fault Refusal :=
  if s.dev.mayPower then
    let s1 := s.powerOff false
    let d := s1.dev
    .next ((s1.withDev { d with start := { d.start with powered := true, waitInput := false } }).restart true d.now obs)
  else s.done s.dev.eff

/-- RESET_N (R544, R527). -/
def execResetN (obs : StartObs) (s : State) : Host.Outcome State Fault Refusal :=
  let d := s.dev
  if d.start.waitInput || !d.mayPower then s.done d.eff
  else
    let cold := d.resetNCold
    .next ((s.withDev { d with start := { d.start with powered := true, thermalOff := false } }).restart cold d.now obs)

/-- ORDERLY_WINDOW_END (R526): responses not written are discarded and the start of the kind asked for runs. -/
def execOrderlyWindowEnd (obs : StartObs) (s : State) : Host.Outcome State Fault Refusal :=
  match s.dev.start.orderly with
  | none => s.done s.dev.eff
  | some (k, t) => .next ((s.withDev (s.dev.advance (t + 50000000))).restart (k == 0) t obs)

/-- START_STEP_TIMEOUT (R519): a step of the start under way passes its limit. -/
def execStartStepTimeout (step : Nat) (s : State) : Host.Outcome State Fault Refusal :=
  s.done (if s.dev.start.status = 0 ∧ !s.dev.start.failed ∧ s.dev.start.powered then s.dev.startFails step else s.dev).eff

/-- WARM_START_RETRY (R529): 1 s after a warm start failed, warm while the count is below 3; at 3 cold, forced,
with the count at 0. -/
def execWarmStartRetry (obs : StartObs) (s : State) : Host.Outcome State Fault Refusal :=
  let d := s.dev
  if d.start.failed ∧ d.start.status = 0 ∧ d.start.kind = 1 then
    let d1 := { d with now := d.now + 1000000000 }
    if d.backup.failedWarm < 3 then .next ((s.withDev d1).restart false d1.now obs)
    else
      let s1 := s.withDev { d1 with backup := { d1.backup with failedWarm := 0 } }
      let s2 := s1.restart true d1.now obs
      .next (s2.withDev { s2.dev with start := { s2.dev.start with forced := true } })
  else s.done d.eff

/-- START_READY (R517, R515): ready, or ALARM_HELD with an ALARM while ALARM_PENDING is set. -/
def execStartReady (s : State) : Host.Outcome State Fault Refusal :=
  let d := s.dev
  if d.start.status = 0 ∧ d.start.stepsDone ∧ !d.start.failed ∧ d.start.orderly.isNone then
    if d.backup.alarmPending then s.done (({ d with start := { d.start with status := 3 } } : Dev).alarm 3).eff
    else s.done { dev := d.becomeReady, safety := [.ready] }
  else s.done d.eff

/-- FEED_CHANGE (R537): the readings of the feeds; no cause.
[notes/assumptions 165 DESIGN CHOICE, unsafe] -/
def execFeedChange (present : BitVec 2) (millivoltP millivoltQ : BitVec 16) (s : State) : Host.Outcome State Fault Refusal :=
  let d := s.dev
  s.done ({ d with power := { d.power with
    feeds := present.toNat, milliP := millivoltP.toNat, milliQ := millivoltQ.toNat } } : Dev).eff

/-- INPUT_RESET_RANGE (R527, R538): the module resets and waits for the input.
[notes/assumptions 161 DEDUCED, unsafe] -/
def execInputResetRange (s : State) : Host.Outcome State Fault Refusal :=
  if s.dev.start.powered then .next ((s.powerOff false).withDev (s.powerOff false).dev) else s.done s.dev.eff

/-! ### The backup domain (R514) -/

/-- A tamper sensor opens: the credential store is zeroed, every session closes, management copies are
discarded and ALARM_PENDING is set. -/
def Dev.tamper (d : Dev) (x : TamperSensor) : Dev :=
  if !d.start.powered && d.backup.clockStopped then d
  else
    let d1 := d.countMonotonic
    { d1 with
      backup := { d1.backup with
        alarmPending := true, alarms := d1.backup.alarms ||| 1, rights := (List.range 8).map (fun c => (c, 0))
        meshBroken := d1.backup.meshBroken || decide (x = .mesh)
        switchOpen := d1.backup.switchOpen || decide (x = .fixingSwitch) }
      mgmt := { d1.mgmt with sessions := [], creds := [] } }

/-- A lasting condition of the cell or of the die temperature: its bit, with an ALARM while main power is
present, with ALARM_PENDING while it is not.
[notes/assumptions 160 DEDUCED, unsafe] -/
def Dev.backupAlarm (d : Dev) (b : Nat) : Dev :=
  if !d.start.powered && d.backup.clockStopped then d
  else
    let d1 : Dev := { d with backup := { d.backup with alarms := d.backup.alarms ||| 2 ^ b } }
    if d.start.powered then (if bit d.backup.alarms b then d1 else d1.alarm 3)
    else { d1 with backup := { d1.backup with alarmPending := true } }

/-- TAMPER. -/
def execTamper (sensor : TamperSensor) (s : State) : Host.Outcome State Fault Refusal := s.done (s.dev.tamper sensor).eff

/-- LOW_CELL. -/
def execLowCell (s : State) : Host.Outcome State Fault Refusal :=
  s.done (({ s.dev with backup := { s.dev.backup with cellLow := true } } : Dev).backupAlarm 1).eff

/-- BACKUP_TEMPERATURE: the die outside -40 °C to 85 °C for 1 s. -/
def execBackupTemperature (centi : Int) (s : State) : Host.Outcome State Fault Refusal :=
  let d : Dev := { s.dev with power := { s.dev.power with sensors := tset s.dev.power.sensors (Sensor.sub .backup) centi } }
  s.done (if centi < -4000 ∨ 8500 < centi then d.backupAlarm 2 else d).eff

/-- CELL_FAILURE: the clock stops only while main power is absent. -/
def execCellFailure (s : State) : Host.Outcome State Fault Refusal :=
  s.done (if s.dev.start.powered then s.dev
    else { s.dev with backup := { s.dev.backup with clockStopped := true } }).eff

/-- STRATUS_MOUNT: the mount of a start that has not mounted the tier yet; a checkpoint that does not verify,
or a cold start, makes it a full mount (R329, R521). -/
def execStratusMount (verifies : Bool) (s : State) : Host.Outcome State Fault Refusal :=
  s.done (if s.dev.stratus.mounted || !s.dev.start.powered then s.dev
    else s.dev.mount (s.dev.start.kind == 0 || !verifies)).eff

end Sys2Proof.Machine
end

