-- ==== Sys2Proof/Machine/Faults.lean ====
section
/-!
DEFINITION. Fault events and device causes (R95, R136, R223, R273, R294, R295, R467 to R474, R485): units fenced,
regions quiesced, causes raised and cleared.
-/

namespace Sys2Proof.Machine

/-! ### Cells, engines and sorters -/

/-- A cell's report (R95, R465): a corrected error is counted, a fault of the cell fences it, a fault of the
block fences the block. -/
def Dev.cellReport (d : Dev) (n : Nat) (k : CellFaultKind) : Dev :=
  match k with
  | .corrected => d.count (0x7020 + n / 64) (n % 64 + 1) 1
  | .storeMultiBit | .feederParity | .checksumCopies => d.emergencyFence (cellUnit n)
  | .scratchMultiBit | .dmaParity | .comparatorFault => d.emergencyFence (blockUnit (n / 8))

/-- An engine's report (R136). -/
def Dev.engineReport (d : Dev) (n : Nat) (k : EngineFaultKind) : Dev :=
  match k with
  | .corrected => d.count (0x7030 + n / 16) (n % 16 + 1) 1
  | .bufferMultiBit | .checksumCopies => d.emergencyFence (engineUnit n)

/-- Cycles of the passes a slice has run and of the one discarded (R219).
[notes/assumptions 105 DEDUCED, unsafe] -/
def sortWait (s : SortPart) (k : Nat) : Nat := 24 + (sortPasses s.taken k + s.merged + 1) * 72

/-- The sorter of a region is fenced (R223): slices at work on it restart on the sorter of the lowest surviving region of
their grant, of their own set for a best-effort job; with none left the operator ends FENCED_CAPACITY. -/
def Dev.fenceSorter (d : Dev) (r : Nat) : Dev :=
  if (d.region r).sorter.fenced then d
  else
    let d1 := d.modRegion r (fun x => { x with sorter := { fenced := true } })
    let up (g : Nat) : Bool := !(d1.region g).outOfService && !(d1.region g).sorter.fenced
    let d2 := d1.liveJobs.foldl (fun acc j =>
      match j.round with
      | none => acc
      | some rd =>
        let kOf (x : Inst) : Nat := (j.prog.ops.getD x.op (OpDesc.ofNat 0)).kTop
        let hit (x : Inst) : SortPart → Bool := x.onSorter d (kOf x) r
        rd.insts.foldl (fun a x =>
          let mine := if decide (x.state = .running) then x.sorts.filter (hit x) else []
          if mine.isEmpty then a
          else
            let own := if j.batch.guaranteed then j.grant.sorters else x.sorts.map SortPart.region
            match (sortBy (fun a b => decide (a < b)) own).find? up with
            | some dest =>
              let wait := sumNat (mine.map (fun s => sortWait s (kOf x)))
              (a.modRound j.id (fun y => y.modInst x.op (fun z => z.restartSort (kOf x) (hit x) dest))).stall j.id
                .fenceReissue (ceilDiv (wait * 1000) d.ageing.clock)
            | none => a.modRound j.id (fun y => y.fail none .fencedCapacity d.now r)) acc) d1
    (d2.markReadmit (fun j => j.grant.sorters.contains r)).capacityEvent 4 0 r

/-- SORTER_DISAGREEMENT: the two networks of a sorter that runs a pass disagree. -/
def Dev.sorterDisagree (d : Dev) (r : Nat) : Dev :=
  if (d.region r).sorter.job.isSome then d.fenceSorter r else d

/-! ### Regions, links and control pairs (R470, R473, R474) -/

/-- A pair's restart or takeover no longer holds cause [2]. -/
def Dev.dropPair (d : Dev) (c : Nat) : Dev :=
  { d with support := { d.support with pairs := d.support.pairs.filter (· != c) } }

/-- Cause [2] clears once no pair holds it.
[notes/assumptions 151 DEDUCED, unsafe] -/
def Dev.pairEff (d : Dev) : Eff :=
  if d.support.pairs.isEmpty then { dev := d, safety := [.clear 2] } else d.eff

/-- A fabric link fails: cause [7] for the first of a port, a quiesce of the region for the second; jobs there are
re-admitted (R473).
[notes/assumptions 151 DEDUCED, unsafe] -/
def Dev.linkFails (d : Dev) (r l : Nat) : Eff :=
  let x := d.region r
  if x.outOfService || x.linksFailed.contains l then d.eff
  else
    let d1 := (d.modRegion r (fun y => { y with linksFailed := y.linksFailed ++ [l] })).markReadmit
      (fun j => j.grant.cells.any (fun n => n / 64 == r))
    if x.linksFailed.isEmpty then (d1.raise 7 (regionUnit r)).eff
    else d1.eff.loseRegion r

/-- A mismatch of a control pair, up to the raising of cause [2] (R470): a region switches to pair 1 or loses its
standby, a chip pair restarts.
[notes/assumptions 151 DEDUCED, unsafe] -/
def Dev.lockstep (d : Dev) (p : ControlPair) : Dev :=
  match p with
  | .region r pair =>
    let x := d.region r
    if pair.val = 0 then
      let d1 := d.modRegion r (fun y => { y with pair0Fenced := true, takeover := !y.pair1Fenced })
      let d2 : Dev := if x.pair1Fenced then d1
        else { d1 with support := { d1.support with pairs := r.val :: d1.support.pairs.filter (· != r.val) } }
      d2.raise 2 (regionUnit r)
    else (d.modRegion r (fun y => { y with pair1Fenced := true })).raise 2 (regionUnit r)
  | .scheduling => ({ d with support := { d.support with pairs := 100 :: d.support.pairs.filter (· != 100) } } : Dev).raise 2 0xFFFF
  | .management =>
    ({ d with
      support := { d.support with pairs := 101 :: d.support.pairs.filter (· != 101) }
      mgmt := { d.mgmt with down := true } } : Dev).raise 2 0xFFFF

/-- Can the pair mismatch: a running pair of a region in service, or a chip pair not restarting? -/
def Dev.pairRuns (d : Dev) (p : ControlPair) : Bool :=
  match p with
  | .region r pair =>
    let x := d.region r
    !x.outOfService && (if pair.val = 0 then !x.pair0Fenced else !x.pair1Fenced)
  | .scheduling => !d.support.pairs.contains 100
  | .management => !d.support.pairs.contains 101

/-- What follows a mismatch once the cause is set: the last pair of a region quiesces it, and cause [2] clears
unless a takeover or restart still holds it. -/
def Dev.afterLockstep (d : Dev) (p : ControlPair) : Eff :=
  match p with
  | .region r _ =>
    let x := d.region r
    if x.pair0Fenced && x.pair1Fenced then
      let e := d.eff.loseRegion r
      let d1 := e.dev.dropPair r
      { e with dev := d1, safety := e.safety ++ (if d1.support.pairs.isEmpty then [.clear 2] else []) }
    else d.pairEff
  | _ => d.pairEff

/-- PAIR_TAKEOVER_COMPLETE. -/
def Dev.takeoverDone (d : Dev) (r : Nat) : Eff :=
  if (d.region r).takeover then ((d.modRegion r (fun y => { y with takeover := false })).dropPair r).pairEff else d.eff

/-! ### Clocks, supplies and temperatures (R471, R472) -/

/-- Unit of a clock in a FAULT notice: its region, or none (R437). -/
def clockUnit : ClockSel → Nat
  | .region r => regionUnit r
  | _ => 0xFFFF

/-- A monitored clock is lost. -/
def Dev.clockLost (d : Dev) (c : ClockSel) : Dev :=
  ({ d with support := { d.support with
    clocks := if d.support.clocks.contains c then d.support.clocks else d.support.clocks ++ [c] } } : Dev).raise 3 (clockUnit c)

/-- A region clock has not relocked: the region quiesces, and cause [3] clears when no other clock is lost. -/
def Dev.relockTimeout (d : Dev) (r : Fin 6) : Eff :=
  if d.support.clocks.contains (.region r) then
    let e := d.eff.loseRegion r
    let l := d.support.clocks.filter (fun c => decide (c ≠ .region r))
    { e with
      dev := { e.dev with support := { e.dev.support with clocks := l } }
      safety := e.safety ++ (if l.isEmpty then [.clear 3] else []) }
  else d.eff

/-- A supply leaves its window. -/
def Dev.supplyOut (d : Dev) (r : RailSel) : Dev :=
  ({ d with support := { d.support with
    rails := if d.support.rails.contains r then d.support.rails else d.support.rails ++ [r] } } : Dev).raise 4 0xFFFF

/-- Does a reading trip a sensor (R472)? -/
def atTrip (sub : Nat) (v margin : Int) : Bool :=
  if sub = 0x10 then decide (inletRange.2 + 500 - margin ≤ v) else (tempLevels sub).any (fun l => decide (l.2.1 - margin ≤ v))

/-- Does a reading shut the module down?
[notes/assumptions 152 DEDUCED, unsafe] -/
def atShutdown (sub : Nat) (v : Int) : Bool := (tempLevels sub).any (fun l => decide (l.2.2 ≤ v))

/-- Unit of a sensor in a FAULT notice: the region of a region die or a base die. -/
def sensorUnit (sub : Nat) : Nat :=
  if 0x12 ≤ sub ∧ sub < 0x18 then regionUnit (sub - 0x12)
  else if 0x19 ≤ sub ∧ sub < 0x25 then regionUnit ((sub - 0x19) / 2) else 0xFFFF

/-- A temperature reading below the shutdown level: the throttle stage, which the inlet enters 10 s out of its
range, and the trip stage.
[notes/assumptions 152 DEDUCED, unsafe] -/
def Dev.temperature (d : Dev) (sub : Nat) (v : Int) : Dev :=
  let out := atThrottle sub v 0
  let d1 : Dev := { d with power := { d.power with
    sensors := tset d.power.sensors sub v
    inletOut := if sub != 0x10 then d.power.inletOut
      else if out then (match d.power.inletOut with
        | some t => some t
        | none => some d.now) else none } }
  let hot := out && (sub != 0x10 || d1.power.inletOut.any (fun t => decide (t + 10000000000 ≤ d.now)))
  let d2 : Dev := { d1 with power := { d1.power with
    throttled := if hot then (if d1.power.throttled.contains sub then d1.power.throttled else d1.power.throttled ++ [sub])
      else if out then d1.power.throttled else d1.power.throttled.filter (· != sub)
    released := if hot then false else d1.power.released } }
  if atTrip sub v 0 && !d.support.hot.contains sub then
    ({ d2 with support := { d2.support with hot := d2.support.hot ++ [sub] } } : Dev).raise 5 (sensorUnit sub)
  else d2

/-- THROTTLE_RELEASE: with every sensor 3 °C below its throttle level, the throttle clock rises at the next
boundary.
[notes/assumptions 153 DEDUCED, unsafe] -/
def Dev.throttleRelease (d : Dev) : Dev :=
  if d.ageing.throttle < 1600 && d.coolBy 300 then
    { d with power := { d.power with throttled := [], released := true } }
  else d

/-! ### Causes clear (R467) -/

/-- Does a cause's clearing condition hold, as far as the device keeps what it rests on? Causes [3], [4] and [7]
rest on what is outside. Causes [2] and [10] clear by their own events. -/
def Dev.mayClearCause (d : Dev) (c : Nat) : Bool :=
  match c with
  | 0 => (d.support.awaitPass.filter d.codeUp).isEmpty
  | 1 => d.support.awaitJobs.all (fun j => (d.liveJob j).isNone)
  | 2 => d.support.pairs.isEmpty
  | 3 => true
  | 4 => true
  | 5 => d.power.sensors.all (fun x => !atTrip x.1 x.2 500)
  | 6 => decide (2 ≤ d.tick.onSchedule)
  | 7 => true
  | 8 => d.support.pinsLow.isEmpty
  | 9 => d.tick.commitDone && d.tick.roundsDone
  | _ => false

/-- What no longer holds a cause that has cleared. -/
def Dev.forgetCause (d : Dev) (c : Nat) : Dev :=
  match c with
  | 0 => { d with support := { d.support with awaitPass := [] } }
  | 1 => { d with support := { d.support with awaitJobs := [] } }
  | 3 => { d with support := { d.support with clocks := [] } }
  | 4 => { d with support := { d.support with rails := [] } }
  | 5 => { d with support := { d.support with hot := [] } }
  | _ => d

/-- CAUSE_CLEAR. -/
def Dev.clearCause (d : Dev) (c : Nat) : Eff :=
  if d.mayClearCause c then { dev := d.forgetCause c, safety := [.clear c] } else d.eff

/-! ### FAULT_N and its lines (R485) -/

/-- The weekly test of the two drivers, while the state is NORMAL. -/
def State.driverTest (s : State) (ok : Bool) : Dev :=
  let d := s.dev
  if s.safety.safe || !d.ready then d
  else
    let d1 := d.advance (max d.driverTest d.start.patternsAt + 604800000000000)
    let d2 : Dev := { d1 with driverTest := d1.now }
    if ok then d2 else d2.raise 10 0xFFFF

/-! ### Lanes and channels (R294, R295) -/

/-- The length of a retraining in tns. -/
def retrainTns : Nat := 1200000

/-- RETRAINING_COMPLETE: failing lanes map to spares that pass, or the channel is fenced (R293, R295). The items, flushes and rounds
that wait for the channel go on after it, and count what they waited.
[notes/assumptions 155 DEDUCED, unsafe] -/
def Dev.retrained (d : Dev) (k c : Nat) (failing : List Nat) : Eff :=
  match tget (d.stack k).retraining c with
  | none => d.eff
  | some t =>
    let d1 := (d.advance (t + retrainTns)).modStack k (fun y => { y with retraining := terase y.retraining c })
    let trained := (d1.stack k).train c failing
    if trained.fenced.contains c then
      (d1.modStack k (fun y => { trained with fenced := y.fenced })).eff.fenceChannel k c
    else (d1.modStack k (fun _ => trained)).eff

/-! ### The meanings -/

/-- CELL_FAULT. -/
def execCellFault (cell : Fin 384) (kind : CellFaultKind) (s : State) : Host.Outcome State Fault Refusal :=
  s.done (if s.dev.cellUp cell then s.dev.cellReport cell kind else s.dev).eff

/-- ENGINE_FAULT. -/
def execEngineFault (stack : Fin 12) (engine : Fin 16) (kind : EngineFaultKind) (s : State) : Host.Outcome State Fault Refusal :=
  s.done (if s.dev.engineUp (stack.val * 16 + engine.val) then s.dev.engineReport (stack.val * 16 + engine.val) kind
    else s.dev).eff

/-- SORTER_DISAGREEMENT. -/
def execSorterDisagreement (region : Fin 6) (s : State) : Host.Outcome State Fault Refusal :=
  s.done (s.dev.sorterDisagree region).eff

/-- REGION_LOSS (R273). -/
def execRegionLoss (region : Fin 6) (s : State) : Host.Outcome State Fault Refusal :=
  s.done (s.dev.eff.loseRegion region)

/-- FABRIC_LINK_FAILURE. -/
def execFabricLinkFailure (region : Fin 6) (link : Fin 2) (s : State) : Host.Outcome State Fault Refusal :=
  s.done (s.dev.linkFails region link)

/-- LOCKSTEP_MISMATCH: cause [2] is raised always; then what the pair's place asks for. -/
def execLockstepMismatch (pair : ControlPair) (s : State) : Host.Outcome State Fault Refusal :=
  if s.dev.pairRuns pair then
    let s1 := s.withDev (s.dev.lockstep pair)
    .next (s1.apply (s1.dev.afterLockstep pair))
  else s.done s.dev.eff

/-- PAIR_TAKEOVER_COMPLETE. -/
def execPairTakeoverComplete (region : Fin 6) (s : State) : Host.Outcome State Fault Refusal :=
  s.done (s.dev.takeoverDone region)

/-- CHIP_PAIR_RESTART_COMPLETE: the cause clears; a failed restart is a warm start (R470, R527). -/
def execChipPairRestartComplete (management ok : Bool) (obs : StartObs) (s : State) : Host.Outcome State Fault Refusal :=
  let c := if management then 101 else 100
  if !s.dev.support.pairs.contains c then s.done s.dev.eff
  else if ok then
    let d := s.dev.dropPair c
    s.done ({ d with mgmt := { d.mgmt with down := d.mgmt.down && !management } } : Dev).pairEff
  else .next (s.restart (s.dev.start.status == 0 && s.dev.start.kind == 0) s.dev.now obs)

/-- CLOCK_LOSS. -/
def execClockLoss (clock : ClockSel) (s : State) : Host.Outcome State Fault Refusal :=
  s.done (s.dev.clockLost clock).eff

/-- CLOCK_RELOCK_TIMEOUT. -/
def execClockRelockTimeout (region : Fin 6) (s : State) : Host.Outcome State Fault Refusal :=
  s.done (s.dev.relockTimeout region)

/-- SUPPLY_OUT_OF_RANGE. -/
def execSupplyOutOfRange (rail : RailSel) (s : State) : Host.Outcome State Fault Refusal :=
  s.done (s.dev.supplyOut rail).eff

/-- TEMPERATURE_READING: the shutdown stage switches off every rail but the backup domain's. -/
def execTemperatureReading (sensor : Sensor) (centi : Int) (s : State) : Host.Outcome State Fault Refusal :=
  let s1 := s.withDev (if s.dev.start.powered then s.dev.temperature (Sensor.sub sensor) centi
    else { s.dev with power := { s.dev.power with sensors := tset s.dev.power.sensors (Sensor.sub sensor) centi } })
  if atShutdown (Sensor.sub sensor) centi && s.dev.start.powered then .next (s1.powerOff true) else .next s1

/-- THROTTLE_RELEASE. -/
def execThrottleRelease (s : State) : Host.Outcome State Fault Refusal := s.done s.dev.throttleRelease.eff

/-- CAUSE_CLEAR. -/
def execCauseClear (cause : Fin 11) (s : State) : Host.Outcome State Fault Refusal := s.done (s.dev.clearCause cause)

/-- FAULT_N_DRIVER_TEST. -/
def execFaultNDriverTest (released0 released1 : Bool) (s : State) : Host.Outcome State Fault Refusal :=
  s.done (s.driverTest (released0 && released1)).eff

/-- FAULT_LINE_MISMATCH. -/
def execFaultLineMismatch (region : Fin 6) (s : State) : Host.Outcome State Fault Refusal :=
  s.done (s.dev.raise 10 (regionUnit region)).eff

/-- LANE_FAILURE. -/
def execLaneFailure (stack : Fin 12) (channel : Fin 32) (lane : Nat) (lockLost : Bool) (s : State) : Host.Outcome State Fault Refusal :=
  let _ := lockLost
  s.done (s.dev.laneFails stack channel lane).eff

/-- RETRAINING_COMPLETE. -/
def execRetrainingComplete (stack : Fin 12) (channel : Fin 32) (failing : List Nat) (s : State) : Host.Outcome State Fault Refusal :=
  s.done (s.dev.retrained stack channel failing)

end Sys2Proof.Machine
end

