-- ==== Sys2Proof/Machine/Notices.lean ====
section
/-!
DEFINITION. Delivery of notices (R436 to R439, R443): entries of a partition's ring and NOTICE messages of
a credential's sessions.
-/

namespace Sys2Proof.Machine

/-- KIND at delivery (R434, R443): EXCURSION when a slot's state differs from the one the first crossing
entered. -/
def Notice.kind (n : Notice) : Nat :=
  match n.body with
  | .watermark _ _ up _ _ _ above => if above = up then (if up then 1 else 2) else 3
  | b => b.kindBit + 1

/-- STATE bit of the entry (R436). -/
def Notice.stateBit (n : Notice) : Nat :=
  match n.body with
  | .watermark _ _ _ _ _ _ above => if above then 1 else 0
  | _ => 0

/-- The 32 B payload as a number (R437). -/
def NoticeBody.payload : NoticeBody → Nat
  | .watermark slot target up level peak duration _ =>
    slot + target * 2 ^ 16 + (if up then 0 else 2 ^ 48) + level % 2 ^ 64 * 2 ^ 64 + peak % 2 ^ 64 * 2 ^ 128 +
      duration % 2 ^ 64 * 2 ^ 192
  | .postedFail seq opcode code urgent =>
    seq + opcode * 2 ^ 32 + code * 2 ^ 40 + (if urgent then 2 ^ 48 else 0)
  | .capacity kind cause unit cells engines =>
    kind + cause * 2 ^ 8 + unit * 2 ^ 16 + cells * 2 ^ 32 + engines * 2 ^ 48
  | .tickLate job cause due => job + cause * 2 ^ 32 + due % 2 ^ 64 * 2 ^ 64
  | .fault causes unit _ => causes + unit * 2 ^ 32
  | .replan clock prev boundary guard =>
    clock + prev * 2 ^ 16 + boundary % 2 ^ 64 * 2 ^ 64 + leNat (guard.map (fun g => BitVec.ofNat 8 g)) * 2 ^ 128
  | .alarm cause => cause

/-- The 64 B entry (R436). -/
def Notice.entry (n : Notice) (phase : Bool) (seq : Nat) : Bytes :=
  toLe 64 (n.kind + (if phase then 2 ^ 8 else 0) + (if n.timeValid then 2 ^ 9 else 0) + n.stateBit * 2 ^ 10 +
    n.count * 2 ^ 16 + seq * 2 ^ 32 + n.part * 2 ^ 64 + (if n.device then 2 ^ 68 else 0) +
    n.tick % 2 ^ 64 * 2 ^ 128 + n.time % 2 ^ 64 * 2 ^ 192 + n.body.payload * 2 ^ 256)

/-- The first pending copy of a partition written to the next free entry of its ring, with vector 1 (R438).
[notes/assumptions 43 DEDUCED, unsafe] -/
def Dev.deliverPart (d : Dev) (p : Nat) : Dev :=
  let x := d.part p
  match x.pending with
  | [] => d
  | n :: rest =>
    let cap := x.ntc.capacity 64
    if !d.masters p || !x.ntc.enable || decide (cap ≤ ahead x.ntc.tail x.ntcHead) then d
    else
      let tail := (x.ntc.tail + 1) % 2 ^ 32
      (d.modPart p (fun y =>
        { y with
          pending := rest
          ntcEntries := y.ntcEntries ++ [(y.ntcSeq, n)]
          ntcSeq := (y.ntcSeq + 1) % 2 ^ 32
          ntcPhase := if cap ≠ 0 ∧ tail % cap = 0 then !y.ntcPhase else y.ntcPhase
          ntc := { y.ntc with tail := tail } })).vector p 1

/-- Is the management network usable: a LAN is up and the management pair runs? -/
def Dev.netUp (d : Dev) : Bool := !d.mgmt.down && decide (d.mgmt.lost.length < 2)

/-- The open sessions of a credential. -/
def Dev.sessionsOf (d : Dev) (c : Nat) : List Nat :=
  (d.mgmt.sessions.filter (fun s => s.2.cred == c)).map Prod.fst

/-- NOTICE messages of at most 18 entries each, to every open session of a credential (R427, R438). -/
def Dev.sendNotices (d : Dev) (c : Nat) (l : List (Nat × Notice)) : Dev :=
  let msgs := (pieces 18 l).map (fun g => lopMessage 4 0 (g.flatMap (fun x => x.2.entry false x.1)))
  (d.sessionsOf c).foldl (fun acc s => msgs.foldl (fun a m => a.sendTo s m) acc) d

/-- A credential's pending copies sent in order (R438). -/
def Dev.deliverCred (d : Dev) (c : Nat) : Dev :=
  let x := d.cred c
  if x.pending.isEmpty || (d.sessionsOf c).isEmpty || !d.netUp then d
  else
    let l := (List.range x.pending.length).zip x.pending |>.map (fun q => ((x.nextSeq + q.1) % 2 ^ 32, q.2))
    (d.modCred c (fun y =>
      { y with pending := [], sent := y.sent ++ l, nextSeq := (y.nextSeq + l.length) % 2 ^ 32 })).sendNotices c l

/-- NOTICE_RESEND: copies sent and not acknowledged are sent again (R438). -/
def Dev.resend (d : Dev) (c : Nat) : Dev :=
  if (d.sessionsOf c).isEmpty || !d.netUp then d else d.sendNotices c (d.cred c).sent

/-- NOTICE_ACK (R439): every sent copy at or before a SEQ, modulo 2^32, is gone; a SEQ not yet sent covers
every copy sent (R445). -/
def Dev.noticeAck (d : Dev) (c seq : Nat) : Dev :=
  d.modCred c (fun x =>
    { x with sent := x.sent.filter (fun n => decide (2 ^ 31 ≤ (seq + 2 ^ 32 - n.1) % 2 ^ 32)) })

/-- NOTICE_DELIVERY. -/
def execNoticeDelivery (rcpt : Recipient) (s : State) : Host.Outcome State Fault Refusal :=
  s.done (match rcpt with
    | .part p => s.dev.deliverPart p
    | .cred c => s.dev.deliverCred c).eff

/-- NOTICE_RESEND. -/
def execNoticeResend (cred : Fin 8) (s : State) : Host.Outcome State Fault Refusal := s.done (s.dev.resend cred).eff

end Sys2Proof.Machine
end

