-- ==== Sys2Proof/Machine/Management.lean ====
section
/-!
DEFINITION. The management network (R420 to R430): sessions, the Lanifa Object Protocol's requests,
credentials, inspection (R504, R505), the two LANs, and the SMBus port (R545).
-/

namespace Sys2Proof.Machine

/-! ### Sessions (R423, R424) -/

/-- The credential slot a key matches. -/
def Dev.credOf (d : Dev) (hash : Bytes) : Option Nat :=
  (List.range 8).find? (fun c => decide ((d.cred c).fingerprint = some hash))

/-- A refused handshake: a DTLS alert and nothing kept. -/
def Dev.alert (d : Dev) : Dev := { d with mgmt := { d.mgmt with alerts := d.mgmt.alerts + 1 } }

/-- DTLS_HANDSHAKE (R423, R424). -/
def Dev.handshake (d : Dev) (h : DtlsHello) : Dev :=
  if !d.netUp then d
  else if !h.accepted || h.refusedFeature then d.alert
  else match d.credOf h.keyHash with
    | none => d.alert
    | some c =>
      if 16 ≤ d.mgmt.sessions.length || 4 ≤ (d.sessionsOf c).length then d.alert
      else { d with mgmt := { d.mgmt with
          sessions := tset d.mgmt.sessions d.mgmt.nextSession { cred := c, lastRecord := d.now }
          nextSession := d.mgmt.nextSession + 1 } }

/-- A session closed. -/
def Dev.closeSession (d : Dev) (s : Nat) : Dev :=
  { d with mgmt := { d.mgmt with sessions := terase d.mgmt.sessions s } }

/-- Every session of a credential closed. -/
def Dev.closeCred (d : Dev) (c : Nat) : Dev := (d.sessionsOf c).foldl Dev.closeSession d

/-- SESSION_IDLE_TIMEOUT: 60 s without a record (R424). -/
def Dev.sessionIdle (d : Dev) (s : Nat) : Dev :=
  match tget d.mgmt.sessions s with
  | none => d
  | some x => (d.advance (x.lastRecord + 60000000000)).closeSession s

/-! ### Requests and replies (R426 to R428) -/

/-- Requests of a client.
[notes/assumptions 59 DEDUCED, unsafe] -/
def knownRequest (t : Nat) : Bool := [1, 2, 3, 5, 6, 7, 8].contains t

/-- Is a message well formed (R426)?
[notes/assumptions 59 DEDUCED, unsafe] -/
def lopFormed (m : Bytes) : Bool :=
  let h := LopHeader.of m
  decide (16 ≤ m.length) && h.version == 1 && knownRequest h.type && !h.reserved && h.len + 16 == m.length &&
    decide (h.len ≤ 1184)

/-- Replies sent and kept for 10 s, at most 64 of a session (R428). -/
def Dev.reply (d : Dev) (s req : Nat) (ms : List Bytes) : Dev :=
  let d1 := ms.foldl (fun acc m => acc.sendTo s m) d
  match tget d1.mgmt.sessions s with
  | none => d1
  | some x =>
    let k := (x.kept ++ [(req, d.now, ms)])
    { d1 with mgmt := { d1.mgmt with
        sessions := tset d1.mgmt.sessions s { x with kept := k.drop (k.length - 64) } } }

/-- A payload cut into replies of at most 1,184 B, the last with the status. -/
def lopReplies (type req status : Nat) (payload : Bytes) : List Bytes :=
  if payload.length ≤ 1184 then [lopReply type req false status payload]
  else
    let ps := pieces 1184 payload
    (ps.zip (List.range ps.length)).map (fun x =>
      lopReply type req (decide (x.2 + 1 < ps.length)) (if x.2 + 1 < ps.length then 0 else status) x.1)

/-- A reply with a status and no payload. -/
def Dev.answerStatus (d : Dev) (s type req : Nat) (c : Code) : Dev :=
  d.reply s req [lopReply type req false c.toNat []]

/-- The kept reply a repeated REQ_ID gets (R428). -/
def Session.keptReply (x : Session) (req now : Nat) : Option (List Bytes) :=
  (x.kept.find? (fun k => k.1 == req && decide (now ≤ k.2.1 + 10000000000))).map (fun k => k.2.2)

/-- A request of one type in a session: an ill-formed one is answered REJECTED_FORMAT, a repeated one gets
its kept reply, and before ready only object requests are answered (R426, R428, R517).
[notes/assumptions 59 DEDUCED, unsafe] -/
def State.request (s : State) (type session : Nat) (m : Bytes)
    (f : State → Nat → LopHeader → Bytes → State) : State :=
  let h := LopHeader.of m
  match tget s.dev.mgmt.sessions session with
  | none => s.withDev s.dev
  | some x =>
    if !s.dev.netUp || (knownRequest h.type && h.type != type) then s.withDev s.dev
    else
      let d := { s.dev with mgmt := { s.dev.mgmt with
        sessions := tset s.dev.mgmt.sessions session { x with lastRecord := s.dev.now } } }
      match x.keptReply h.reqId d.now with
      | some ms => s.withDev (ms.foldl (fun acc y => acc.sendTo session y) d)
      | none =>
        if !lopFormed m then s.withDev (d.answerStatus session h.type h.reqId .rejectedFormat)
        else if !(type == 1 || type == 2) && !d.fullManagement then s.withDev d
        else f (s.withDev d) x.cred h (m.drop 16)

/-- A credential number as a slot. -/
def slotOf (c : Nat) : Fin 8 := ⟨c % 8, Nat.mod_lt _ (by decide)⟩

/-- MGMT_OD_READ (R427): entries from OFFSET on. -/
def State.mgmtRead (s : State) (session : Nat) (m : Bytes) : State :=
  s.request 1 session m (fun t c h pl =>
    let w := leAt pl 0 8
    if pl.length != 8 || field w 31 25 != 0 then t.withDev (t.dev.answerStatus session 1 h.reqId .rejectedFormat)
    else
      let r := t.readObject (.cred (slotOf c)) (field w 15 0) (field w 23 16) (bit w 24)
      t.withDev (r.2.reply session h.reqId (lopReplies 1 h.reqId 0 (r.1.drop (field w 63 32)))))

/-- MGMT_OD_WRITE (R427, R402). -/
def State.mgmtWrite (s : State) (session : Nat) (m : Bytes) : State :=
  s.request 2 session m (fun t c h pl =>
    let es := entriesOf pl
    let r := t.writeEntries (.cred (slotOf c)) es.1
    let st := if es.2.isSome then Code.rejectedFormat.toNat else 0
    r.1.withDev (r.1.dev.reply session h.reqId (lopReplies 2 h.reqId st (reportBytes es.1 r.2))))

/-- An ACTION (R429): refused without WRITE, for an ABSENT partition, an unknown action or a job that is not
live there; RELEASE takes effect, and is answered, at the next boundary. -/
def State.mgmtAction (s : State) (want session : Nat) (m : Bytes) : State :=
  s.request 3 session m (fun t c h pl =>
    let w := leAt pl 0 8
    let p := field w 3 0
    let action := field w 11 8
    let job := field w 39 16
    let ok := pl.length == 8 && field w 7 4 == 0 && field w 15 12 == 0 && field w 63 40 == 0 &&
      (t.dev.part p).created && decide (1 ≤ action) && decide (action ≤ 4) && t.dev.flareValid p action job
    if (1 ≤ action && action ≤ 4) && action != want then s.withDev s.dev
    else if !t.dev.hasRight c 1 then t.withDev (t.dev.answerStatus session 3 h.reqId .notOwner)
    else if !ok then t.withDev (t.dev.answerStatus session 3 h.reqId .rejectedFormat)
    else if action = 4 then
      t.withDev ((t.dev.release p).modPart p (fun x =>
        { x with releaseReplies := x.releaseReplies ++ [(session, h.reqId)] }))
    else t.apply ((t.dev.eff.flareTake p action job 1).mod (fun d => d.answerStatus session 3 h.reqId .ok)))

/-- NOTICE_ACK (R427, R439).
[notes/assumptions 60 DEDUCED, unsafe] -/
def State.mgmtAck (s : State) (session : Nat) (m : Bytes) : State :=
  s.request 5 session m (fun t c h pl =>
    if !t.dev.hasRight c 0 then t.withDev (t.dev.answerStatus session 5 h.reqId .notOwner)
    else if pl.length != 4 then t.withDev (t.dev.answerStatus session 5 h.reqId .rejectedFormat)
    else t.withDev ((t.dev.noticeAck c (leNat pl)).answerStatus session 5 h.reqId .ok))

/-- Would some enrolled slot other than one keep ADMIN (R425)? -/
def Dev.adminElse (d : Dev) (c : Nat) : Bool :=
  (List.range 8).any (fun k => k != c && (d.cred k).fingerprint.isSome && d.hasRight k 5)

/-- CREDENTIAL_SET (R425, R513): the sessions of the slot close after the reply. -/
def State.credentialSet (s : State) (session : Nat) (m : Bytes) : State :=
  s.request 6 session m (fun t c h pl =>
    let w := leAt pl 0 4
    let slot := field w 3 0
    let clear := bit w 4
    let d := t.dev
    if !d.hasRight c 5 || d.monotonicFull then t.withDev (d.answerStatus session 6 h.reqId .notOwner)
    else if pl.length != 36 || field w 31 5 != 0 || slot == 0 || 8 < slot || (clear && !d.adminElse (slot - 1)) then
      t.withDev (d.answerStatus session 6 h.reqId .rejectedFormat)
    else
      let d1 := (d.modCred (slot - 1) (fun x =>
        { x with fingerprint := if clear then none else some (pl.drop 4) })).countMonotonic
      t.withDev ((d1.answerStatus session 6 h.reqId .ok).closeCred (slot - 1)))

/-- KEEPALIVE.
[notes/assumptions 60 DEDUCED, unsafe] -/
def State.mgmtKeepalive (s : State) (session : Nat) (m : Bytes) : State :=
  s.request 8 session m (fun t _ h pl =>
    t.withDev (t.dev.answerStatus session 8 h.reqId (if pl.isEmpty then .ok else .rejectedFormat)))

/-! ### Inspection (R504, R505) -/

/-- LOC codes of R175. -/
def Loc.code : Loc → Nat
  | .none => 0
  | .resident => 1
  | .evicting => 2
  | .evicted => 3
  | .recalling => 4
  | .lost => 5

/-- STATE codes of R143. -/
def PageState.code : PageState → Nat
  | .free => 0
  | .resident => 1
  | .spilling => 2
  | .spilled => 3
  | .lost => 4

/-- A page-frame entry as stored (R143). -/
def PageFrame.bytes (f : PageFrame) : Bytes :=
  toLe 16 (f.ref + f.fill * 2 ^ 16 + f.state.code * 2 ^ 21 + f.stack * 2 ^ 24 + f.part * 2 ^ 28 + f.lines * 2 ^ 32 +
    f.loc * 2 ^ 48)

/-- A state-object descriptor as stored (R176). -/
def StateObj.bytes (o : StateObj) : Bytes :=
  toLe 16 (o.ref + o.loc.code * 2 ^ 17 + o.stack * 2 ^ 20 + o.part * 2 ^ 24 + o.lines * 2 ^ 32 + o.addr * 2 ^ 64)

/-- A stream-table entry as stored (R175); `head` is the place of its oldest chunk in the partition's chunk queue.
[notes/assumptions 169 DESIGN CHOICE, unsafe] -/
def StreamEntry.bytes (e : StreamEntry) (head : Nat) : Bytes :=
  let b (c : Bool) (n : Nat) : Nat := if c then 2 ^ n else 0
  toLe 64 (1 + b e.host 1 + e.loc.code * 2 ^ 3 + b e.reset 6 + b e.pause 7 + b e.ended 8 + b e.savePend 9 +
    b e.detach 10 + e.part * 2 ^ 12 + e.job * 2 ^ 16 + e.id * 2 ^ 64 + e.step % 2 ^ 48 * 2 ^ 96 + e.rnCnt * 2 ^ 144 +
    e.rnN * 2 ^ 157 + (e.dir.getD 0xFFFFFFFF) * 2 ^ 192 + head * 2 ^ 256 + e.qLen * 2 ^ 280 +
    e.lastTick % 2 ^ 64 * 2 ^ 320 + e.seed % 2 ^ 64 * 2 ^ 384)

/-- Place of an entry's oldest chunk in its partition's chunk queue, 0 with none (R175 QHEAD).
[notes/assumptions 169 DESIGN CHOICE, unsafe] -/
def Dev.chunkHead (d : Dev) (e : StreamEntry) : Nat :=
  if e.qLen = 0 then 0 else (d.part e.part).chunks.findIdx (fun k => k.job == e.job && k.stream == e.id)

/-- A free stream-table entry: all bits at their defaults. -/
def freeStreamBytes : Bytes := toLe 64 (64 * 2 ^ 157 + 0xFFFFFFFF * 2 ^ 192)

/-- A stack line with its side band (R286 to R288). -/
def State.lineRecord (s : State) (k la : Nat) : Bytes :=
  let data := s.mem.readBytes (stackAddr k la) 128
  let b := s.mem.sideOf (stackLine k la)
  let low := lineTag k la b data + (if b.poison then 2 ^ 32 else 0) + (if b.ro then 2 ^ 33 else 0) + b.part * 2 ^ 34
  data ++ toLe 8 low ++ toLe 8 (Config.checkSymbols (data ++ toLe 8 low)).toNat

/-- Byte `i` of an object's data. -/
def Object.addr (o : Object) (off : Nat) : Nat :=
  if o.stratus then Space.stratus.addr (o.base * 4096 + off) else stackAddr o.stack o.base + off

/-- A 4 KiB record of an object, zero past its end. -/
def State.objectRecord (s : State) (o : Object) (unit : Nat) : Bytes :=
  let n := min 4096 (o.total - unit * 4096)
  fitTo 4096 (s.mem.readBytes (o.addr (unit * 4096)) n)

/-- One inspected record: none ends the request (R505).
[notes/assumptions 61 DEDUCED, unsafe] -/
def State.inspectRecord (s : State) (op p arg0 arg1 i : Nat) : Option Bytes :=
  let d := s.dev
  match op with
  | 1 =>
    let f := d.frame (arg0 + i)
    if arg0 + i < 2 ^ 26 ∧ f.part = p then some f.bytes else none
  | 2 =>
    match d.liveJob (arg0 % 2 ^ 24) with
    | none => none
    | some j =>
      if j.part != p then none
      else match j.futures.find? (fun f => f.id == arg0 / 2 ^ 32) with
        | none => none
        | some f => (f.kv[arg1]?).bind (fun l => (l.pages[i]?).map (fun n => toLe 4 (n + 2 ^ 26)))
  | 3 =>
    match d.stream? (arg0 + i) with
    | some e => if e.part = p then some (e.bytes (d.chunkHead e)) else none
    | none => if arg0 + i < 262144 ∧ p = 0 then some freeStreamBytes else none
  | 4 =>
    let o := d.obj (arg0 + i)
    if arg0 + i < 2 ^ 32 ∧ o.part = p then some o.bytes else none
  | 5 =>
    let k := arg0 % 16
    let la := arg0 / 2 ^ 32 + i
    if k < 12 ∧ la < stackLines ∧ (s.mem.sideOf (stackLine k la)).part = p then some (s.lineRecord k la) else none
  | 6 =>
    match d.object? p (arg0 % 2 ^ 32) with
    | some o => if arg1 + i < ceilDiv o.total 4096 then some (s.objectRecord o (arg1 + i)) else none
    | none => none
  | _ => none

/-- The records up to the first that ends the request. -/
def State.inspectRecords (s : State) (op p arg0 arg1 : Nat) : Nat → Nat → List Bytes × Bool
  | 0, _ => ([], true)
  | n + 1, i =>
    match s.inspectRecord op p arg0 arg1 i with
    | none => ([], false)
    | some b =>
      let r := s.inspectRecords op p arg0 arg1 n (i + 1)
      (b :: r.1, r.2)

/-- A line under repair makes a LINES request wait (R505). -/
def Dev.linesWait (d : Dev) (op arg0 n : Nat) : Bool :=
  op == 5 && d.repairs.any (fun r => r.1 == arg0 % 16 && decide (arg0 / 2 ^ 32 ≤ r.2) && decide (r.2 < arg0 / 2 ^ 32 + n))

/-- An INSPECT request of one OP (R504). -/
def State.inspect (s : State) (op session : Nat) (m : Bytes) : State :=
  s.request 7 session m (fun t c h pl =>
    let w := leAt pl 0 16
    let o := field w 7 0
    let p := field w 11 8
    let n := field w 31 16
    let arg0 := field w 95 32
    let arg1 := field w 127 96
    if 1 ≤ o ∧ o ≤ 7 ∧ o ≠ op then s.withDev s.dev
    else if !t.dev.hasRight c 3 then t.withDev (t.dev.answerStatus session 7 h.reqId .notOwner)
    else if pl.length != 16 || field w 15 12 != 0 || o == 0 || 7 < o || (o != 7 && n == 0) ||
        (o == 7 && (arg1 == 0 || 10000 < arg1)) then
      t.withDev (t.dev.answerStatus session 7 h.reqId .rejectedFormat)
    else if o = 7 then
      t.withDev (match tget t.dev.mgmt.sessions session with
        | some x => { t.dev with mgmt := { t.dev.mgmt with
            sessions := tset t.dev.mgmt.sessions session
              { x with headersUntil := some (p, t.dev.now + arg1 * 1000000, h.reqId) } } }
        | none => t.dev)
    else if t.dev.linesWait o arg0 n then s.withDev s.dev
    else
      let r := t.inspectRecords o p arg0 arg1 n 0
      t.withDev (t.dev.reply session h.reqId
        (lopReplies 7 h.reqId (if r.2 then 0 else Code.rejectedFormat.toNat) r.1.flatten)))

/-! ### LANs (R420 to R422) -/

/-- A frame sent on both ports (R420).
[notes/assumptions 62 DESIGN CHOICE, unsafe] -/
def Dev.sendFrame (d : Dev) (b : Bytes) : Dev :=
  { d with mgmt := { d.mgmt with frames := d.mgmt.frames ++ [(.a, b), (.b, b)] } }

/-- The link-local address formed from the MAC address (R422). -/
def linkLocal : Bytes :=
  let mac := (toLe 6 Config.macAddress.toNat).reverse
  [0xFE, 0x80, 0, 0, 0, 0, 0, 0] ++
    (mac.take 3).zipIdx.map (fun x => if x.2 = 0 then x.1 ^^^ 2 else x.1) ++ [0xFF, 0xFE] ++ mac.drop 3

/-- The port is up while its LAN is not lost and the management pair runs.
[notes/assumptions 14 DESIGN CHOICE, unsafe] -/
def Dev.lanUp (d : Dev) (l : Lan) : Bool := !d.mgmt.down && !d.mgmt.lost.contains l

/-- Enrolment of slot 1 over SMBus (R425, R545): only while every slot is empty. -/
def Dev.smbusEnrol (d : Dev) (f : Bytes) : Dev :=
  if f.length != 32 then d
  else if (List.range 8).any (fun c => (d.cred c).fingerprint.isSome) || d.monotonicFull then
    { d with smbus := { d.smbus with enrolResult := 1 } }
  else
    let d1 := (d.modCred 0 (fun x => { x with fingerprint := some f })).countMonotonic
    { d1 with
      backup := { d1.backup with rights := tset d1.backup.rights 0 0x00FF }
      smbus := { d1.smbus with enrolResult := 0 } }

/-- The SMBus port answers with data while main power is present (R545). -/
def Dev.smbusAnswer (d : Dev) (b : Bytes) : Dev :=
  if d.start.powered then { d with smbus := { d.smbus with data := b } } else d

/-- Coolant inlet in 0.1 degrees from a reading in 0.01 degrees. -/
def Dev.inletTenths (d : Dev) : Int := (tgetD d.power.sensors (Sensor.sub .inlet) 0) / 10

/-! ### The meanings -/

/-- DTLS_HANDSHAKE. -/
def execDtlsHandshake (hello : DtlsHello) (s : State) : Host.Outcome State Fault Refusal :=
  s.done (s.dev.handshake hello).eff

/-- SESSION_IDLE_TIMEOUT. -/
def execSessionIdleTimeout (session : Nat) (s : State) : Host.Outcome State Fault Refusal :=
  s.done (s.dev.sessionIdle session).eff

/-- MGMT_OD_READ. -/
def execMgmtOdRead (session : Nat) (message : Bytes) (s : State) : Host.Outcome State Fault Refusal :=
  .next (s.mgmtRead session message)

/-- MGMT_OD_WRITE. -/
def execMgmtOdWrite (session : Nat) (message : Bytes) (s : State) : Host.Outcome State Fault Refusal :=
  .next (s.mgmtWrite session message)

/-- MGMT_QUIESCE. -/
def execMgmtQuiesce (session : Nat) (message : Bytes) (s : State) : Host.Outcome State Fault Refusal :=
  .next (s.mgmtAction 1 session message)

/-- MGMT_ABORT_JOB. -/
def execMgmtAbortJob (session : Nat) (message : Bytes) (s : State) : Host.Outcome State Fault Refusal :=
  .next (s.mgmtAction 2 session message)

/-- MGMT_DROP_QUEUE. -/
def execMgmtDropQueue (session : Nat) (message : Bytes) (s : State) : Host.Outcome State Fault Refusal :=
  .next (s.mgmtAction 3 session message)

/-- MGMT_RELEASE. -/
def execMgmtRelease (session : Nat) (message : Bytes) (s : State) : Host.Outcome State Fault Refusal :=
  .next (s.mgmtAction 4 session message)

/-- NOTICE_ACK. -/
def execNoticeAck (session : Nat) (message : Bytes) (s : State) : Host.Outcome State Fault Refusal :=
  .next (s.mgmtAck session message)

/-- CREDENTIAL_SET. -/
def execCredentialSet (session : Nat) (message : Bytes) (s : State) : Host.Outcome State Fault Refusal :=
  .next (s.credentialSet session message)

/-- INSPECT_PAGE_FRAME. -/
def execInspectPageFrame (session : Nat) (message : Bytes) (s : State) : Host.Outcome State Fault Refusal :=
  .next (s.inspect 1 session message)

/-- INSPECT_PAGE_LIST. -/
def execInspectPageList (session : Nat) (message : Bytes) (s : State) : Host.Outcome State Fault Refusal :=
  .next (s.inspect 2 session message)

/-- INSPECT_STREAM_ENTRY. -/
def execInspectStreamEntry (session : Nat) (message : Bytes) (s : State) : Host.Outcome State Fault Refusal :=
  .next (s.inspect 3 session message)

/-- INSPECT_STATE_DESC. -/
def execInspectStateDesc (session : Nat) (message : Bytes) (s : State) : Host.Outcome State Fault Refusal :=
  .next (s.inspect 4 session message)

/-- INSPECT_LINES. -/
def execInspectLines (session : Nat) (message : Bytes) (s : State) : Host.Outcome State Fault Refusal :=
  .next (s.inspect 5 session message)

/-- INSPECT_OBJECT. -/
def execInspectObject (session : Nat) (message : Bytes) (s : State) : Host.Outcome State Fault Refusal :=
  .next (s.inspect 6 session message)

/-- INSPECT_HEADERS. -/
def execInspectHeaders (session : Nat) (message : Bytes) (s : State) : Host.Outcome State Fault Refusal :=
  .next (s.inspect 7 session message)

/-- KEEPALIVE. -/
def execKeepalive (session : Nat) (message : Bytes) (s : State) : Host.Outcome State Fault Refusal :=
  .next (s.mgmtKeepalive session message)

/-- ICMPV6_ECHO: answered with its data.
[notes/assumptions 62 DESIGN CHOICE, unsafe] -/
def execIcmpv6Echo (lan : Lan) (data : Bytes) (s : State) : Host.Outcome State Fault Refusal :=
  s.done (if s.dev.lanUp lan then s.dev.sendFrame (129 :: data) else s.dev).eff

/-- NEIGHBOUR_DISCOVERY: answered for the module's own address.
[notes/assumptions 62 DESIGN CHOICE, unsafe] -/
def execNeighbourDiscovery (lan : Lan) (target : Bytes) (s : State) : Host.Outcome State Fault Refusal :=
  s.done (if s.dev.lanUp lan && decide (target = linkLocal) then
      s.dev.sendFrame (136 :: (target ++ (toLe 6 Config.macAddress.toNat).reverse))
    else s.dev).eff

/-- PRP_SUPERVISION: a supervision frame on both ports every 2 s (R420).
[notes/assumptions 62 DESIGN CHOICE, unsafe] -/
def execPrpSupervision (s : State) : Host.Outcome State Fault Refusal :=
  s.done ({ s.dev with mgmt := { s.dev.mgmt with supervision := s.dev.mgmt.supervision + 1 } } : Dev).eff

/-- LAN_LOST (R421). -/
def execLanLost (lan : Lan) (s : State) : Host.Outcome State Fault Refusal :=
  s.done (if s.dev.mgmt.lost.contains lan then s.dev
    else ({ s.dev with mgmt := { s.dev.mgmt with lost := s.dev.mgmt.lost ++ [lan] } } : Dev).alarm 5).eff

/-- LAN_RESTORED (R421). -/
def execLanRestored (lan : Lan) (s : State) : Host.Outcome State Fault Refusal :=
  s.done (if s.dev.mgmt.lost.contains lan then
      ({ s.dev with mgmt := { s.dev.mgmt with lost := s.dev.mgmt.lost.filter (fun l => decide (l ≠ lan)) } } : Dev).alarm 6
    else s.dev).eff

/-- SMBUS_PART_NUMBER. -/
def execSmbusPartNumber (s : State) : Host.Outcome State Fault Refusal :=
  s.done (s.dev.smbusAnswer (fitTo 16 (s.textOf 0x1000 2))).eff

/-- SMBUS_SERIAL_NUMBER. -/
def execSmbusSerialNumber (s : State) : Host.Outcome State Fault Refusal :=
  s.done (s.dev.smbusAnswer (s.textOf 0x1000 3)).eff

/-- SMBUS_START_STATE. -/
def execSmbusStartState (s : State) : Host.Outcome State Fault Refusal :=
  s.done (s.dev.smbusAnswer (toLe 1 s.dev.start.status)).eff

/-- SMBUS_FAILED_STEP. -/
def execSmbusFailedStep (s : State) : Host.Outcome State Fault Refusal :=
  s.done (s.dev.smbusAnswer (toLe 1 s.dev.start.failedStep)).eff

/-- SMBUS_INPUT_POWER. -/
def execSmbusInputPower (s : State) : Host.Outcome State Fault Refusal :=
  s.done (s.dev.smbusAnswer (toLe 2 (Config.inputPower s.dev.now).toNat)).eff

/-- SMBUS_COOLANT_INLET. -/
def execSmbusCoolantInlet (s : State) : Host.Outcome State Fault Refusal :=
  s.done (s.dev.smbusAnswer (toLe 2 (twos 16 s.dev.inletTenths))).eff

/-- SMBUS_ALARM_CAUSES. -/
def execSmbusAlarmCauses (s : State) : Host.Outcome State Fault Refusal :=
  s.done (s.dev.smbusAnswer (toLe 1 s.dev.backup.alarms)).eff

/-- SMBUS_ENROL. -/
def execSmbusEnrol (fingerprint : Bytes) (s : State) : Host.Outcome State Fault Refusal :=
  s.done (if s.dev.start.powered then s.dev.smbusEnrol fingerprint else s.dev).eff

/-- SMBUS_ENROL_RESULT. -/
def execSmbusEnrolResult (s : State) : Host.Outcome State Fault Refusal :=
  s.done (s.dev.smbusAnswer (toLe 1 s.dev.smbus.enrolResult)).eff

end Sys2Proof.Machine
end

