-- ==== Sys2Proof/Machine/Ports.lean ====
section
/-!
DEFINITION. Host ports and functions (R332 to R335, R528): links, function-level reset, virtual
functions and bus mastership, and the faults that move a TDI to ERROR (R507, R508).
-/

namespace Sys2Proof.Machine

/-- The functions of a port. -/
def portFunctions (n : Nat) : List Nat := [4 * n, 4 * n + 1, 4 * n + 2, 4 * n + 3]

/-- A TDI that is locked or runs moves to ERROR, with QUIESCE (R508).
[notes/assumptions 49 PRESUMED, unsafe] -/
def Eff.tdiError (e : Eff) (p : Nat) : Eff :=
  if (e.dev.part p).tdi = .locked ∨ (e.dev.part p).tdi = .run then
    (e.quiesce p).mod (fun d => d.modPart p (fun x => { x with tdi := .error }))
  else e

/-- A port that leaves the link-up state: every function reset at that moment (R335), absent until the
link trains again.
[notes/assumptions 48 PRESUMED, unsafe] -/
def Eff.linkDown (e : Eff) (n : Nat) : Eff :=
  let e1 := e.mod (fun d => d.modPort n (fun x =>
    { x with linkUp := false, speed := 0, width := 0, eye := 0, sessions := [], requesters := [] }))
  (portFunctions n).foldl (fun acc p =>
    (acc.functionReset p).mod (fun d => d.modPart p (fun x => { x with present := false, busMaster := false }))) e1

/-- The speeds of R332 in 0.1 GT/s and the widths.
[notes/assumptions 9 PRESUMED, unsafe] -/
def linkLegal (speed width : Nat) : Bool :=
  [640, 320, 160, 80, 50, 25].contains speed && [16, 8, 4, 2, 1].contains width

/-- A link trains (R332): the physical function answers; host-port retuning is done (R493).
[notes/assumptions 48 PRESUMED, unsafe] -/
def Dev.linkTrain (d : Dev) (n speed width : Nat) : Dev :=
  let x := d.port n
  if x.inReset || x.perst || !linkLegal speed width then d
  else (d.modPort n (fun y => { y with linkUp := true, speed := speed, width := width, retune := [] })).modPart (4 * n)
    (fun y => { y with present := true })

/-- HPn_PERST_N (R528): asserted, it resets the port's functions and the link leaves link-up; during a
start it has no effect.
[notes/assumptions 9 PRESUMED, unsafe] -/
def Dev.perstWrite (d : Dev) (n : Nat) (asserted : Bool) : Eff :=
  let x := d.port n
  let d1 := d.modPort n (fun y => { y with perst := asserted })
  if asserted && x.linkUp && !x.inReset then d1.eff.linkDown n else d1.eff

/-- A virtual function enabled or disabled by the host through SR-IOV (R334); the write moves a locked TDI
to ERROR (R508). The physical function is always enabled.
[notes/assumptions 49 PRESUMED, unsafe] -/
def Dev.vfEnable (d : Dev) (p : Nat) (on : Bool) : Eff :=
  if p % 4 = 0 || !(d.port (p / 4)).linkUp then d.eff
  else (d.eff.tdiError p).mod (fun d => d.modPart p (fun x =>
    { x with present := on, busMaster := on && x.busMaster }))

/-- Bus mastership of a function; clearing it moves a locked TDI to ERROR (R334, R508). -/
def Dev.busMasterWrite (d : Dev) (p : Nat) (on : Bool) : Eff :=
  if !d.reach p then d.eff
  else
    let e := d.eff.mod (fun d => d.modPart p (fun x => { x with busMaster := on }))
    if on then e else e.tdiError p

/-- A failed IDE check (R507): the stream is Insecure and the TDI moves to ERROR.
[notes/assumptions 14 DESIGN CHOICE, unsafe] -/
def Dev.ideFail (d : Dev) (p : Nat) : Eff :=
  if !d.reach p then d.eff
  else ((d.modPart p (fun x => { x with ide := { x.ide with established := false } })).eff).tdiError p

/-- FUNCTION_LEVEL_RESET. -/
def execFunctionLevelReset (p : Fin 16) (s : State) : Host.Outcome State Fault Refusal :=
  s.done (if s.dev.reach p then s.dev.eff.functionReset p else s.dev.eff)

/-- LINK_DOWN. -/
def execLinkDown (port : Fin 4) (s : State) : Host.Outcome State Fault Refusal :=
  s.done (if (s.dev.port port).linkUp then s.dev.eff.linkDown port else s.dev.eff)

/-- LINK_TRAINING. -/
def execLinkTraining (port : Fin 4) (speed width : Nat) (s : State) : Host.Outcome State Fault Refusal :=
  s.done (s.dev.linkTrain port speed width).eff

/-- PERST. -/
def execPerst (port : Fin 4) (asserted : Bool) (s : State) : Host.Outcome State Fault Refusal :=
  s.done (s.dev.perstWrite port asserted)

/-- VF_ENABLE. -/
def execVfEnable (p : Fin 16) (enable : Bool) (s : State) : Host.Outcome State Fault Refusal :=
  s.done (s.dev.vfEnable p enable)

/-- BUS_MASTER_ENABLE. -/
def execBusMasterEnable (p : Fin 16) (enable : Bool) (s : State) : Host.Outcome State Fault Refusal :=
  s.done (s.dev.busMasterWrite p enable)

/-- CONFIG_SPACE_WRITE: a BAR or SR-IOV configuration write to the function (R508). -/
def execConfigSpaceWrite (p : Fin 16) (s : State) : Host.Outcome State Fault Refusal :=
  s.done (if (s.dev.port (p.val / 4)).linkUp then s.dev.eff.tdiError p else s.dev.eff)

/-- IDE_CHECK_FAIL. -/
def execIdeCheckFail (p : Fin 16) (s : State) : Host.Outcome State Fault Refusal :=
  s.done (s.dev.ideFail p)

end Sys2Proof.Machine
end

