-- ==== Sys2Proof/Machine/Security.lean ====
section
/-!
DEFINITION. Host link protection and attestation (R506 to R511): IDE key management, the TDISP requests
and the SPDM requests, answered over a port's data object exchange.
-/

namespace Sys2Proof.Machine

/-- An answer of a port to a function's or requester's request. -/
def Dev.answer (d : Dev) (port who : Nat) (a : DoeAnswer) : Dev :=
  d.modPort port (fun x => { x with answers := x.answers ++ [(who, a)] })

/-- An answer to a request for a function. -/
def Dev.answerFn (d : Dev) (p : Nat) (a : DoeAnswer) : Dev := d.answer (p / 4) p a

/-! ### IDE (R506) -/

/-- A key slot replaced. -/
def putKey (l : List IdeKey) (k : IdeKey) : List IdeKey :=
  l.filter (fun x => !(decide (x.sub = k.sub) && x.transmit == k.transmit && x.keySet == k.keySet)) ++ [k]

/-- The six sub-stream and direction pairs. -/
def subStreams : List (SubStream × Bool) :=
  [(.posted, false), (.posted, true), (.nonPosted, false), (.nonPosted, true), (.completion, false),
    (.completion, true)]

/-- A stream with a key set put in use; it is established once every pair has one. -/
def IdeStream.go (x : IdeStream) (sub : SubStream) (transmit : Bool) (ks : Nat) : IdeStream :=
  let u := x.inUse.filter (fun t => !(decide (t.1 = sub) && t.2.1 == transmit)) ++ [(sub, transmit, ks)]
  { x with inUse := u
           established := subStreams.all (fun q => u.any (fun t => decide (t.1 = q.1) && t.2.1 == q.2)) }

/-- KEY_PROG (R506): a 256-bit key and at most four ranges, inside an SPDM secure session.
[notes/assumptions 50 DEDUCED, unsafe] -/
def Dev.keyProg (d : Dev) (p : Nat) (sub : SubStream) (transmit : Bool) (ks : Nat) (key : Bytes)
    (ranges : List (Nat × Nat)) : Dev :=
  if !d.reach p then d
  else if (d.port (p / 4)).sessions.isEmpty || key.length != 32 || 4 < ranges.length then d.answerFn p .keyError
  else (d.modPart p (fun x => { x with ide := { x.ide with
      keys := putKey x.ide.keys { sub := sub, transmit := transmit, keySet := ks, key := key }
      ranges := ranges } })).answerFn p .keyAck

/-- KEY_SET_GO (R506): traffic switches to a programmed key set.
[notes/assumptions 50 DEDUCED, unsafe] -/
def Dev.keySetGo (d : Dev) (p : Nat) (sub : SubStream) (transmit : Bool) (ks : Nat) : Dev :=
  if !d.reach p then d
  else if (d.port (p / 4)).sessions.isEmpty || !((d.part p).ide.keys.any (fun k =>
      decide (k.sub = sub) && k.transmit == transmit && k.keySet == ks)) then d.answerFn p .keyError
  else (d.modPart p (fun x => { x with ide := x.ide.go sub transmit ks })).answerFn p .keyAck

/-! ### TDISP (R508, R509) -/

/-- The BAR0 ranges of R509: start, size, and whether MSI-X is locked in them. -/
def barRanges : List (Nat × Nat × Bool) :=
  [(0x0000, 0x1000, false), (0x1000, 0x1000, false), (0x2000, 0x1000, true), (0x3000, 0x1000, false)]

/-- A TDISP request answered unless the TDI is in ERROR (R508).
[notes/assumptions 19 DESIGN CHOICE, safe] -/
def Dev.tdisp (d : Dev) (p : Nat) (f : Dev → Eff) : Eff :=
  if !d.reach p then d.eff
  else if (d.part p).tdi = .error then (d.answerFn p .tdispError).eff
  else f d

/-- LOCK_INTERFACE (R508): with a fresh nonce. -/
def Dev.lockInterface (d : Dev) (p : Nat) : Dev :=
  let x := d.part p
  if x.tdi = .unlocked ∧ x.created ∧ x.busMaster ∧ x.ide.established then
    let n := d.free
    ((n.2.modPart p (fun y => { y with tdi := .locked, lockNonce := some n.1 }))).answerFn p (.tdispLocked n.1)
  else d.answerFn p .tdispError

/-- START_INTERFACE (R508). -/
def Dev.startInterface (d : Dev) (p nonce : Nat) : Dev :=
  let x := d.part p
  if x.tdi = .locked ∧ x.lockNonce = some nonce then
    (d.modPart p (fun y => { y with tdi := .run })).answerFn p .tdispOk
  else d.answerFn p .tdispError

/-! ### SPDM (R510, R511) -/

/-- A requester is served: one already known, or one of at most four (R510). -/
def Dev.spdm (d : Dev) (n who : Nat) (f : Dev → Dev) : Dev :=
  let x := d.port n
  if !x.linkUp then d
  else if x.requesters.contains who then f d
  else if x.requesters.length < 4 then f (d.modPort n (fun y => { y with requesters := y.requesters ++ [who] }))
  else d.answer n who .spdmBusy

/-- A measurement block (R511). -/
def State.measurement (s : State) (port : Nat) : Nat → Bytes
  | 6 => s.textOf 0x1000 2 ++ s.textOf 0x1000 3 ++ toLe 2 (s.deviceNumber 0x1000 4) ++
      toLe 4 (s.deviceNumber 0x1000 5)
  | 7 => toLe 8 s.dev.backup.monotonic ++ toLe 4 s.dev.backup.floor
  | 8 => toLe 8 3
  | 9 =>
    toLe 1 (maskOf 8 (fun c => (s.dev.cred c).fingerprint.isSome)) ++
      (List.range 8).flatMap (fun c => toLe 2 (s.dev.rights c)) ++
      Config.sha384 ((List.range 8).flatMap (fun c => ((s.dev.cred c).fingerprint.getD [])))
  | 10 =>
    (portFunctions port).flatMap (fun p =>
      toLe 1 (if (s.dev.part p).created then 1 else 0) ++ toLe 2 (s.dev.pforce p 1 1) ++ toLe 1 (s.dev.pforce p 1 2) ++
        toLe 1 (s.dev.part p).tdi.code)
  | i => Config.firmwareDigest i (BitVec.ofNat 32 (s.deviceNumber 0x1000 5))

/-- The blocks a GET_MEASUREMENTS request names: one, or all for 0xFF; none exists outside 1 to 10.
[notes/assumptions 51 PRESUMED, unsafe] -/
def measurementIndexes (i : Nat) : List Nat :=
  if i = 0xFF then (List.range 10).map (· + 1) else if subIn i 1 10 then [i] else []

/-- GET_MEASUREMENTS (R511): the blocks, signed over nonce and blocks.
[notes/assumptions 51 PRESUMED, unsafe] -/
def State.measure (s : State) (port who index : Nat) (nonce : Bytes) (d : Dev) : Dev :=
  let bs := (measurementIndexes index).map (fun i => (i, s.measurement port i))
  if bs.isEmpty then d.answer port who .spdmError
  else d.answer port who (.measurements bs (Config.signature (nonce ++ bs.flatMap Prod.snd)))

/-- KEY_EXCHANGE (R510): a secure session. -/
def Dev.keyExchange (d : Dev) (port who slot : Nat) : Dev :=
  if 1 < slot then d.answer port who .spdmError
  else
    let id := (maxNat (d.port port).sessions) + 1
    (({ d with freeCount := d.freeCount + 1 } : Dev).modPort port (fun x => { x with sessions := x.sessions ++ [id] })).answer
      port who (.keyExchange id (Config.exchangeKey d.freeCount))

/-! ### The meanings -/

/-- KEY_PROG. -/
def execKeyProg (p : Fin 16) (sub : SubStream) (transmit : Bool) (keySet : Fin 2) (key : Bytes) (ranges : List (Nat × Nat)) (s : State) : Host.Outcome State Fault Refusal :=
  s.done (s.dev.keyProg p sub transmit keySet key ranges).eff

/-- KEY_SET_GO. -/
def execKeySetGo (p : Fin 16) (sub : SubStream) (transmit : Bool) (keySet : Fin 2) (s : State) : Host.Outcome State Fault Refusal :=
  s.done (s.dev.keySetGo p sub transmit keySet).eff

/-- GET_TDISP_VERSION: answered in every state. -/
def execGetTdispVersion (p : Fin 16) (s : State) : Host.Outcome State Fault Refusal :=
  s.done (if s.dev.reach p then s.dev.answerFn p (.tdispVersion Config.tdispVersion.toNat) else s.dev).eff

/-- GET_TDISP_CAPABILITIES. -/
def execGetTdispCapabilities (p : Fin 16) (s : State) : Host.Outcome State Fault Refusal :=
  s.done (s.dev.tdisp p (fun d => (d.answerFn p .tdispCapabilities).eff))

/-- LOCK_INTERFACE. -/
def execLockInterface (p : Fin 16) (s : State) : Host.Outcome State Fault Refusal :=
  s.done (s.dev.tdisp p (fun d => (d.lockInterface p).eff))

/-- GET_DEVICE_INTERFACE_REPORT. -/
def execGetDeviceInterfaceReport (p : Fin 16) (s : State) : Host.Outcome State Fault Refusal :=
  s.done (s.dev.tdisp p (fun d => (d.answerFn p (.tdispReport p (d.pforce p 1 2) 1 barRanges)).eff))

/-- GET_DEVICE_INTERFACE_STATE: answered in every state. -/
def execGetDeviceInterfaceState (p : Fin 16) (s : State) : Host.Outcome State Fault Refusal :=
  s.done (if s.dev.reach p then s.dev.answerFn p (.tdispState (s.dev.part p).tdi.code) else s.dev).eff

/-- START_INTERFACE. -/
def execStartInterface (p : Fin 16) (nonce : BitVec 64) (s : State) : Host.Outcome State Fault Refusal :=
  s.done (s.dev.tdisp p (fun d => (d.startInterface p nonce.toNat).eff))

/-- STOP_INTERFACE: from any state to CONFIG_UNLOCKED, by R335. -/
def execStopInterface (p : Fin 16) (s : State) : Host.Outcome State Fault Refusal :=
  s.done (if s.dev.reach p then (s.dev.eff.functionReset p).mod (fun d => d.answerFn p .tdispOk) else s.dev.eff)

/-- GET_CERTIFICATE (R510): slots 2 to 7 are empty. -/
def execGetCertificate (port : Fin 4) (requester slot : Nat) (s : State) : Host.Outcome State Fault Refusal :=
  s.done (s.dev.spdm port requester (fun d =>
    d.answer port requester (if 1 < slot then .spdmError else .certificate (Config.certificate slot)))).eff

/-- CHALLENGE (R510). -/
def execChallenge (port : Fin 4) (requester slot : Nat) (nonce : Bytes) (s : State) : Host.Outcome State Fault Refusal :=
  s.done (s.dev.spdm port requester (fun d =>
    d.answer port requester (if 1 < slot then .spdmError
      else .challengeAuth (Config.signature (nonce ++ Config.certificate slot))))).eff

/-- GET_MEASUREMENTS. -/
def execGetMeasurements (port : Fin 4) (requester index : Nat) (nonce : Bytes) (s : State) : Host.Outcome State Fault Refusal :=
  s.done (s.dev.spdm port requester (s.measure port requester index nonce)).eff

/-- KEY_EXCHANGE. -/
def execKeyExchange (port : Fin 4) (requester slot : Nat) (_data : Bytes) (s : State) : Host.Outcome State Fault Refusal :=
  s.done (s.dev.spdm port requester (fun d => d.keyExchange port requester slot)).eff

end Sys2Proof.Machine
end

