-- ==== Sys2Proof/Machine/Dispatch.lean ====
section
/-!
DEFINITION. The dispatcher: one arm per command, each a direct call of its meaning.
-/

namespace Sys2Proof.Machine

def exec (i : Instr) (s : State) : Host.Outcome State Fault Refusal :=
  match i with
  | .nop p tag => Sys2Proof.Machine.execNop p tag s
  | .loadImageBegin p tag => Sys2Proof.Machine.execLoadImageBegin p tag s
  | .loadImageTable p tag => Sys2Proof.Machine.execLoadImageTable p tag s
  | .loadImageData p tag => Sys2Proof.Machine.execLoadImageData p tag s
  | .loadImageEnd p tag => Sys2Proof.Machine.execLoadImageEnd p tag s
  | .unload p tag => Sys2Proof.Machine.execUnload p tag s
  | .bind p tag => Sys2Proof.Machine.execBind p tag s
  | .submit p tag => Sys2Proof.Machine.execSubmit p tag s
  | .input p tag => Sys2Proof.Machine.execInput p tag s
  | .storeCreate p tag => Sys2Proof.Machine.execStoreCreate p tag s
  | .storeWrite p tag => Sys2Proof.Machine.execStoreWrite p tag s
  | .fetch p tag met => Sys2Proof.Machine.execFetch p tag s met
  | .fetchCopy p tag => Sys2Proof.Machine.execFetchCopy p tag s
  | .fork p tag => Sys2Proof.Machine.execFork p tag s
  | .streamOpen p tag => Sys2Proof.Machine.execStreamOpen p tag s
  | .streamChunk p tag => Sys2Proof.Machine.execStreamChunk p tag s
  | .streamChunkPause p tag => Sys2Proof.Machine.execStreamChunkPause p tag s
  | .streamChunkResume p tag => Sys2Proof.Machine.execStreamChunkResume p tag s
  | .streamSave p tag => Sys2Proof.Machine.execStreamSave p tag s
  | .streamSaveDetach p tag => Sys2Proof.Machine.execStreamSaveDetach p tag s
  | .streamSaveComplete p tag => Sys2Proof.Machine.execStreamSaveComplete p tag s
  | .streamRestore p tag => Sys2Proof.Machine.execStreamRestore p tag s
  | .streamEnd p tag => Sys2Proof.Machine.execStreamEnd p tag s
  | .streamEndImmediate p tag => Sys2Proof.Machine.execStreamEndImmediate p tag s
  | .fence p tag => Sys2Proof.Machine.execFence p tag s
  | .fenceEndJob p tag => Sys2Proof.Machine.execFenceEndJob p tag s
  | .fenceComplete p tag => Sys2Proof.Machine.execFenceComplete p tag s
  | .fieldTest p tag => Sys2Proof.Machine.execFieldTest p tag s
  | .odRead p tag => Sys2Proof.Machine.execOdRead p tag s
  | .odWrite p tag => Sys2Proof.Machine.execOdWrite p tag s
  | .packetFetch p urgent data => Sys2Proof.Machine.execPacketFetch p urgent data s
  | .responseWrite p => Sys2Proof.Machine.execResponseWrite p s
  | .cmdTailDb p value => Sys2Proof.Machine.execCmdTailDb p value s
  | .urgTailDb p value => Sys2Proof.Machine.execUrgTailDb p value s
  | .rspHeadDb p value => Sys2Proof.Machine.execRspHeadDb p value s
  | .ntcHeadDb p value => Sys2Proof.Machine.execNtcHeadDb p value s
  | .ringEnable p ring => Sys2Proof.Machine.execRingEnable p ring s
  | .ringDisable p ring => Sys2Proof.Machine.execRingDisable p ring s
  | .release p => Sys2Proof.Machine.execRelease p s
  | .registerWrite p offset width value => Sys2Proof.Machine.execRegisterWrite p offset width value s
  | .quiesce p write => Sys2Proof.Machine.execQuiesce p write s
  | .abortJob p write job => Sys2Proof.Machine.execAbortJob p write job s
  | .dropQueue p write => Sys2Proof.Machine.execDropQueue p write s
  | .functionLevelReset p => Sys2Proof.Machine.execFunctionLevelReset p s
  | .linkDown port => Sys2Proof.Machine.execLinkDown port s
  | .linkTraining port speed width => Sys2Proof.Machine.execLinkTraining port speed width s
  | .perst port asserted => Sys2Proof.Machine.execPerst port asserted s
  | .vfEnable p enable => Sys2Proof.Machine.execVfEnable p enable s
  | .busMasterEnable p enable => Sys2Proof.Machine.execBusMasterEnable p enable s
  | .configSpaceWrite p => Sys2Proof.Machine.execConfigSpaceWrite p s
  | .ideCheckFail p => Sys2Proof.Machine.execIdeCheckFail p s
  | .keyProg p sub transmit keySet key ranges => Sys2Proof.Machine.execKeyProg p sub transmit keySet key ranges s
  | .keySetGo p sub transmit keySet => Sys2Proof.Machine.execKeySetGo p sub transmit keySet s
  | .getTdispVersion p => Sys2Proof.Machine.execGetTdispVersion p s
  | .getTdispCapabilities p => Sys2Proof.Machine.execGetTdispCapabilities p s
  | .lockInterface p => Sys2Proof.Machine.execLockInterface p s
  | .getDeviceInterfaceReport p => Sys2Proof.Machine.execGetDeviceInterfaceReport p s
  | .getDeviceInterfaceState p => Sys2Proof.Machine.execGetDeviceInterfaceState p s
  | .startInterface p nonce => Sys2Proof.Machine.execStartInterface p nonce s
  | .stopInterface p => Sys2Proof.Machine.execStopInterface p s
  | .getCertificate port requester slot => Sys2Proof.Machine.execGetCertificate port requester slot s
  | .challenge port requester slot nonce => Sys2Proof.Machine.execChallenge port requester slot nonce s
  | .getMeasurements port requester index nonce => Sys2Proof.Machine.execGetMeasurements port requester index nonce s
  | .keyExchange port requester slot data => Sys2Proof.Machine.execKeyExchange port requester slot data s
  | .tickBoundary => Sys2Proof.Machine.execTickBoundary s
  | .commitWindow completes => Sys2Proof.Machine.execCommitWindow completes s
  | .tickLoss => Sys2Proof.Machine.execTickLoss s
  | .roundComplete job met => Sys2Proof.Machine.execRoundComplete job s met
  | .tileClaim cell => Sys2Proof.Machine.execTileClaim cell s
  | .tileComplete cell obs => Sys2Proof.Machine.execTileComplete cell obs s
  | .cirrusOperationComplete stack engine obs => Sys2Proof.Machine.execCirrusOperationComplete stack engine obs s
  | .guaranteedWindowStart stack => Sys2Proof.Machine.execGuaranteedWindowStart stack s
  | .cellFault cell kind => Sys2Proof.Machine.execCellFault cell kind s
  | .engineFault stack engine kind => Sys2Proof.Machine.execEngineFault stack engine kind s
  | .sorterDisagreement region => Sys2Proof.Machine.execSorterDisagreement region s
  | .roLineRepair stack la correctable => Sys2Proof.Machine.execRoLineRepair stack la correctable s
  | .wcbAgeFlush region entry met => Sys2Proof.Machine.execWcbAgeFlush region entry s met
  | .patrolScrub err => Sys2Proof.Machine.execPatrolScrub err s
  | .regulatorRefill => Sys2Proof.Machine.execRegulatorRefill s
  | .shareWindowStart => Sys2Proof.Machine.execShareWindowStart s
  | .laneFailure stack channel lane lockLost => Sys2Proof.Machine.execLaneFailure stack channel lane lockLost s
  | .retrainingComplete stack channel failing => Sys2Proof.Machine.execRetrainingComplete stack channel failing s
  | .regionLoss region => Sys2Proof.Machine.execRegionLoss region s
  | .fabricLinkFailure region link => Sys2Proof.Machine.execFabricLinkFailure region link s
  | .lockstepMismatch pair => Sys2Proof.Machine.execLockstepMismatch pair s
  | .pairTakeoverComplete region => Sys2Proof.Machine.execPairTakeoverComplete region s
  | .chipPairRestartComplete management ok obs => Sys2Proof.Machine.execChipPairRestartComplete management ok obs s
  | .clockLoss clock => Sys2Proof.Machine.execClockLoss clock s
  | .clockRelockTimeout region => Sys2Proof.Machine.execClockRelockTimeout region s
  | .supplyOutOfRange rail => Sys2Proof.Machine.execSupplyOutOfRange rail s
  | .temperatureReading sensor centi => Sys2Proof.Machine.execTemperatureReading sensor centi s
  | .throttleRelease => Sys2Proof.Machine.execThrottleRelease s
  | .causeClear cause => Sys2Proof.Machine.execCauseClear cause s
  | .safeStateIn pin high => Sys2Proof.Machine.execSafeStateIn pin high s
  | .faultNDriverTest released0 released1 => Sys2Proof.Machine.execFaultNDriverTest released0 released1 s
  | .faultLineMismatch region => Sys2Proof.Machine.execFaultLineMismatch region s
  | .idlePattern unit => Sys2Proof.Machine.execIdlePattern unit s
  | .patternComplete unit pass => Sys2Proof.Machine.execPatternComplete unit pass s
  | .fieldTestStart region => Sys2Proof.Machine.execFieldTestStart region s
  | .fieldTestComplete region pass => Sys2Proof.Machine.execFieldTestComplete region pass s
  | .plannedRemovalSwitch region => Sys2Proof.Machine.execPlannedRemovalSwitch region s
  | .placementComplete image => Sys2Proof.Machine.execPlacementComplete image s
  | .stratusReadComplete read correctable => Sys2Proof.Machine.execStratusReadComplete read correctable s
  | .stratusWriteDurable p tag => Sys2Proof.Machine.execStratusWriteDurable p tag s
  | .spillComplete page ok met => Sys2Proof.Machine.execSpillComplete page ok s met
  | .evictionComplete entry ok met => Sys2Proof.Machine.execEvictionComplete entry ok s met
  | .recallComplete entry correctable => Sys2Proof.Machine.execRecallComplete entry correctable s
  | .garbageCollection die => Sys2Proof.Machine.execGarbageCollection die s
  | .readDisturbRefresh die block => Sys2Proof.Machine.execReadDisturbRefresh die block s
  | .retentionRefresh die block => Sys2Proof.Machine.execRetentionRefresh die block s
  | .staticWearLevelling die => Sys2Proof.Machine.execStaticWearLevelling die s
  | .badBlockRetirement die block => Sys2Proof.Machine.execBadBlockRetirement die block s
  | .dieFailure die => Sys2Proof.Machine.execDieFailure die s
  | .stratusCheckpoint => Sys2Proof.Machine.execStratusCheckpoint s
  | .stratusMount verifies => Sys2Proof.Machine.execStratusMount verifies s
  | .timingEdge pin instant highTns => Sys2Proof.Machine.execTimingEdge pin instant highTns s
  | .sourceLostTimeout => Sys2Proof.Machine.execSourceLostTimeout s
  | .announceReceiptTimeout lan => Sys2Proof.Machine.execAnnounceReceiptTimeout lan s
  | .ptpAnnounce lan domain master => Sys2Proof.Machine.execPtpAnnounce lan domain master s
  | .ptpSync lan offset taiNs => Sys2Proof.Machine.execPtpSync lan offset taiNs s
  | .pdelayReq lan sequence => Sys2Proof.Machine.execPdelayReq lan sequence s
  | .holdoverExpired => Sys2Proof.Machine.execHoldoverExpired s
  | .taiSecondWrite who second => Sys2Proof.Machine.execTaiSecondWrite who second s
  | .dtlsHandshake hello => Sys2Proof.Machine.execDtlsHandshake hello s
  | .sessionIdleTimeout session => Sys2Proof.Machine.execSessionIdleTimeout session s
  | .mgmtOdRead session message => Sys2Proof.Machine.execMgmtOdRead session message s
  | .mgmtOdWrite session message => Sys2Proof.Machine.execMgmtOdWrite session message s
  | .mgmtQuiesce session message => Sys2Proof.Machine.execMgmtQuiesce session message s
  | .mgmtAbortJob session message => Sys2Proof.Machine.execMgmtAbortJob session message s
  | .mgmtDropQueue session message => Sys2Proof.Machine.execMgmtDropQueue session message s
  | .mgmtRelease session message => Sys2Proof.Machine.execMgmtRelease session message s
  | .noticeAck session message => Sys2Proof.Machine.execNoticeAck session message s
  | .credentialSet session message => Sys2Proof.Machine.execCredentialSet session message s
  | .inspectPageFrame session message => Sys2Proof.Machine.execInspectPageFrame session message s
  | .inspectPageList session message => Sys2Proof.Machine.execInspectPageList session message s
  | .inspectStreamEntry session message => Sys2Proof.Machine.execInspectStreamEntry session message s
  | .inspectStateDesc session message => Sys2Proof.Machine.execInspectStateDesc session message s
  | .inspectLines session message => Sys2Proof.Machine.execInspectLines session message s
  | .inspectObject session message => Sys2Proof.Machine.execInspectObject session message s
  | .inspectHeaders session message => Sys2Proof.Machine.execInspectHeaders session message s
  | .keepalive session message => Sys2Proof.Machine.execKeepalive session message s
  | .icmpv6Echo lan data => Sys2Proof.Machine.execIcmpv6Echo lan data s
  | .neighbourDiscovery lan target => Sys2Proof.Machine.execNeighbourDiscovery lan target s
  | .prpSupervision => Sys2Proof.Machine.execPrpSupervision s
  | .lanLost lan => Sys2Proof.Machine.execLanLost lan s
  | .lanRestored lan => Sys2Proof.Machine.execLanRestored lan s
  | .noticeDelivery rcpt => Sys2Proof.Machine.execNoticeDelivery rcpt s
  | .noticeResend cred => Sys2Proof.Machine.execNoticeResend cred s
  | .objectWrite who index sub type value => Sys2Proof.Machine.execObjectWrite who index sub type value s
  | .readAndClear who index sub => Sys2Proof.Machine.execReadAndClear who index sub s
  | .watermarkSlotWrite who index sub type value => Sys2Proof.Machine.execWatermarkSlotWrite who index sub type value s
  | .partitionCreate who p => Sys2Proof.Machine.execPartitionCreate who p s
  | .partitionDelete who p => Sys2Proof.Machine.execPartitionDelete who p s
  | .configStore who => Sys2Proof.Machine.execConfigStore who s
  | .configStoreDurable readBackOk => Sys2Proof.Machine.execConfigStoreDurable readBackOk s
  | .defaults who => Sys2Proof.Machine.execDefaults who s
  | .rebase who => Sys2Proof.Machine.execRebase who s
  | .resetWarm who => Sys2Proof.Machine.execResetWarm who s
  | .resetCold who => Sys2Proof.Machine.execResetCold who s
  | .orderlyWindowEnd obs => Sys2Proof.Machine.execOrderlyWindowEnd obs s
  | .firmwareChunk who value => Sys2Proof.Machine.execFirmwareChunk who value s
  | .firmwareBegin who => Sys2Proof.Machine.execFirmwareBegin who s
  | .firmwareCommit who => Sys2Proof.Machine.execFirmwareCommit who s
  | .firmwareCancel who => Sys2Proof.Machine.execFirmwareCancel who s
  | .leaveSafeState who => Sys2Proof.Machine.execLeaveSafeState who s
  | .safetyLockOpen who => Sys2Proof.Machine.execSafetyLockOpen who s
  | .safetyLockExpire => Sys2Proof.Machine.execSafetyLockExpire s
  | .fieldTestMgmt who unit => Sys2Proof.Machine.execFieldTestMgmt who unit s
  | .plannedFence who unit => Sys2Proof.Machine.execPlannedFence who unit s
  | .replanNow who => Sys2Proof.Machine.execReplanNow who s
  | .alarmAcknowledge who switchClosed cellGood => Sys2Proof.Machine.execAlarmAcknowledge who switchClosed cellGood s
  | .powerCapWrite who watts => Sys2Proof.Machine.execPowerCapWrite who watts s
  | .skyPinFunctionWrite who pin function => Sys2Proof.Machine.execSkyPinFunctionWrite who pin function s
  | .skyPinTake pin => Sys2Proof.Machine.execSkyPinTake pin s
  | .replicaRead delays => Sys2Proof.Machine.execReplicaRead delays s
  | .ringOscillatorRead losses => Sys2Proof.Machine.execRingOscillatorRead losses s
  | .retentionRead stack channel ms => Sys2Proof.Machine.execRetentionRead stack channel ms s
  | .eyeRead port widths => Sys2Proof.Machine.execEyeRead port widths s
  | .replanInterval => Sys2Proof.Machine.execReplanInterval s
  | .replanDecision steps => Sys2Proof.Machine.execReplanDecision steps s
  | .feedChange present millivoltP millivoltQ => Sys2Proof.Machine.execFeedChange present millivoltP millivoltQ s
  | .inputResetRange => Sys2Proof.Machine.execInputResetRange s
  | .powerOn obs => Sys2Proof.Machine.execPowerOn obs s
  | .resetN obs => Sys2Proof.Machine.execResetN obs s
  | .startStepTimeout step => Sys2Proof.Machine.execStartStepTimeout step s
  | .warmStartRetry obs => Sys2Proof.Machine.execWarmStartRetry obs s
  | .startReady => Sys2Proof.Machine.execStartReady s
  | .tamper sensor => Sys2Proof.Machine.execTamper sensor s
  | .lowCell => Sys2Proof.Machine.execLowCell s
  | .backupTemperature centi => Sys2Proof.Machine.execBackupTemperature centi s
  | .cellFailure => Sys2Proof.Machine.execCellFailure s
  | .smbusPartNumber => Sys2Proof.Machine.execSmbusPartNumber s
  | .smbusSerialNumber => Sys2Proof.Machine.execSmbusSerialNumber s
  | .smbusStartState => Sys2Proof.Machine.execSmbusStartState s
  | .smbusFailedStep => Sys2Proof.Machine.execSmbusFailedStep s
  | .smbusInputPower => Sys2Proof.Machine.execSmbusInputPower s
  | .smbusCoolantInlet => Sys2Proof.Machine.execSmbusCoolantInlet s
  | .smbusAlarmCauses => Sys2Proof.Machine.execSmbusAlarmCauses s
  | .smbusEnrol fingerprint => Sys2Proof.Machine.execSmbusEnrol fingerprint s
  | .smbusEnrolResult => Sys2Proof.Machine.execSmbusEnrolResult s
  | .dieRebuildComplete die => Sys2Proof.Machine.execDieRebuildComplete die s
  | .rspHoldoffExpiry p => Sys2Proof.Machine.execRspHoldoffExpiry p s
  | .taiSecondPulse => Sys2Proof.Machine.execTaiSecondPulse s
  | .zenithPassComplete region met => Sys2Proof.Machine.execZenithPassComplete region s met
  | .replanAfterStart => Sys2Proof.Machine.execReplanAfterStart s

end Sys2Proof.Machine
end

