-- ==== Sys2Proof/Machine/Idle.lean ====
section
/-!
DEFINITION. What the block does while no command waits: one tns passes, the scheduling pair takes the
flare-door entries that waited for an earlier batch (R368), and inspections of headers whose duration has
ended are answered (R505).
-/

namespace Sys2Proof.Machine

/-- The idle step.
[notes/assumptions 1 DESIGN CHOICE, unsafe] -/
def State.idle (s : State) : State :=
  s.apply ((({ s.dev with now := s.dev.now + 1 } : Dev).eff.flareBatch).mod Dev.endHeaders)

end Sys2Proof.Machine
end

