-- ==== Sys2Proof/Machine/Step.lean ====
section
/-!
DEFINITION. One step of the block: the command at the front of its queue, or the idle step.
-/

namespace Sys2Proof.Machine

/-- A word's command put at the front of the queue; no row of the table has bits, so none is. -/
def State.withFetchWord (s : State) (nbits w : Nat) : State :=
  match Sys2Proof.decodeTableWord nbits w with
  | some c => { s with pending := c :: s.pending }
  | none => s

/-- One step: the front command is taken out of the queue and carried out; with an empty queue the
block lets time pass (`State.idle`).
[notes/assumptions 1 DESIGN CHOICE, unsafe] -/
def step (s : State) : Host.Outcome State Fault Refusal :=
  match s.pending with
  | [] => .next s.idle
  | c :: rest => exec c { s with pending := rest }

end Sys2Proof.Machine
end

