-- ==== Sys2Proof/Safety.lean ====
section
/-!
DEFINITION. What a sound state of the block is, and how two states compare, in the terms the statements use.
-/

namespace Sys2Proof.Machine

/-- The device without its partitions, credentials and device slots. -/
def Dev.shell (d : Dev) : Dev :=
  { d with parts := [], mgmt := { d.mgmt with creds := [] }, deviceSlots := [] }

/-- A partition without its pending notices and slot values. -/
def Part.shell (x : Part) : Part := { x with pending := [], slotValues := [] }

/-- A credential without its pending notices. -/
def Cred.shell (x : Cred) : Cred := { x with pending := [] }

/-- Nothing but pending notices and the state of watermark slots differs: every command may raise a WATERMARK
notice, since any change of a slot's target does (R442). -/
structure NoticesOnly (a b : Dev) : Prop where
  shell : b.shell = a.shell
  part : ∀ p, (b.part p).shell = (a.part p).shell
  cred : ∀ c, (b.cred c).shell = (a.cred c).shell

/-- A partition once a command of its inbox has completed: the packet and its wait are gone, its responses wait in
the outbox, and its tag is done, or free when the command is posted (R342, R344, R348, R350). -/
def Part.answer (x : Part) (k : Packet) (rs : List Response) : Part :=
  { x with
    inbox := x.inbox.filter (fun q => q.tag != k.tag)
    waits := x.waits.filter (fun w => w.pkt.tag != k.tag)
    outbox := x.outbox ++ rs
    flights := if k.posted then x.flights.filter (fun f => f.tag != k.tag)
      else x.flights.map (fun f => if f.tag = k.tag then { f with completed := true } else f) }

/-- The responses of a completed command: none for a posted one (R349, R350). -/
def Dev.answers (d : Dev) (p : Nat) (k : Packet) (c : Code) (info : Nat) (payload : Bytes) : List Response :=
  if k.posted then []
  else splitResponse
    { code := c.toNat, opcode := k.opcode, part := p, seq := k.seq, tag := k.tag, info := info, tick := d.tick.tick
      payload := payload, stream := d.streamMark k }

/-- The device with a command of a partition completed and nothing else changed. -/
def Dev.answered (d : Dev) (p : Nat) (k : Packet) (c : Code) (info : Nat) (payload : Bytes) : Dev :=
  d.setPart p ((d.part p).answer k (d.answers p k c info payload))

/-- The device with a command of a partition started and waiting. -/
def Dev.waiting (d : Dev) (p : Nat) (k : Packet) (w : WaitFor) : Dev :=
  d.setPart p { d.part p with
    inbox := (d.part p).inbox.map (fun q => if q.tag = k.tag then { q with started := true } else q)
    waits := (d.part p).waits ++ [{ pkt := k, what := w }] }

/-- The state in which a request of a session is carried out: the session's last record is this one (R424). -/
def State.stamped (s : State) (session : Nat) (x : Session) : State :=
  s.withDev { s.dev with mgmt := { s.dev.mgmt with
    sessions := tset s.dev.mgmt.sessions session { x with lastRecord := s.dev.now } } }

end Sys2Proof.Machine

namespace Sys2Proof.Safety

open Sys2Proof.Machine

/-- The safety controller's rule (R467, R475, R478): a cause present means the safe state, and in the
safe state FAULT_N is not driven high. -/
def controllerOk (s : Safety) : Bool :=
  (s.causes == 0 || s.safe) && (!s.safe || !s.faultHigh)

/-- The invariant that every step keeps: the memories stand in canonical form, the safety controller
follows its rule, and every cause raised has been taken by it. -/
def Sound (s : State) : Prop :=
  s.mem.wf = true ∧ controllerOk s.safety = true ∧ s.dev.raised = []

/-- A command's next state `t`: the device is `d` but for notices and watermark slots, and the memories, the safety
controller and the queue are those of `s`. -/
def Becomes (s : State) (d : Dev) (t : State) : Prop :=
  t.mem = s.mem ∧ t.safety = s.safety ∧ t.pending = s.pending ∧ NoticesOnly d t.dev

/-- The same with the memories changed by operations in order. -/
def BecomesWith (s : State) (d : Dev) (ops : List MemOp) (t : State) : Prop :=
  t.mem = ops.foldl MemOp.run s.mem ∧ t.safety = s.safety ∧ t.pending = s.pending ∧ NoticesOnly d t.dev

/-- The command `c` carried out in `s` answers a next state, whose device is `d` but for notices and watermark slots
and which has the memories, the safety controller and the queue of `s`. -/
def CompletesTo (c : Instr) (s : State) (d : Dev) : Prop := ∃ t, exec c s = .next t ∧ Becomes s d t

/-- A field test of a unit stands in its region's queue, alone or inside a test that waits. -/
def TestAsked (d : Dev) (u : Nat) : Prop :=
  ∃ y ∈ (d.region (unitRegion u)).tests, y.unit = u ∨ (y.running = false ∧ unitInside u y.unit = true)

/-- The same with the memories changed by operations in order. -/
def CompletesWith (c : Instr) (s : State) (d : Dev) (ops : List MemOp) : Prop :=
  ∃ t, exec c s = .next t ∧ BecomesWith s d ops t

/-- A packet `k` of an opcode stands at its turn in the inbox of a partition of a ready device, and the safety
controller has taken every cause. -/
def Arrived (s : State) (p : Fin 16) (tag opcode : Nat) (k : Packet) : Prop :=
  s.dev.raised = [] ∧ s.dev.starting p tag opcode = some k

/-- A well-formed request of a type arrives in an open session `x` of a device that answers it now, its REQ_ID is no
repeated one, and the safety controller has taken every cause (R426, R428, R517). -/
structure Asked (s : State) (session type : Nat) (m : Bytes) (x : Session) : Prop where
  calm : s.dev.raised = []
  up : s.dev.netUp = true
  known : tget s.dev.mgmt.sessions session = some x
  formed : lopFormed m = true
  kind : (LopHeader.of m).type = type
  fresh : x.keptReply (LopHeader.of m).reqId s.dev.now = none
  ready : type = 1 ∨ type = 2 ∨ s.dev.fullManagement = true

/-- The safety controller of `t` is that of `s` with a cause entered: SAFE, the cause's bit set, no release waiting and
FAULT_N not driven high; an entry to SAFE from NORMAL stops every cell, engine and window, and nothing of the memories or
the queue changes (R475). -/
def Entered (s : State) (cause : Nat) (t : State) : Prop :=
  t.safety = { safe := true, causes := s.safety.causes ||| 2 ^ cause, release := false, faultHigh := false } ∧
    t.mem = s.mem ∧ t.pending = s.pending ∧
    (s.safety.safe = false →
      (∀ x ∈ t.dev.cells, x.2.held = none) ∧ (∀ x ∈ t.dev.engines, x.2.held = none) ∧
        ∀ x ∈ t.dev.stackTab, x.2.window = none)

/-- A run of the block: the state after carrying out a list of commands, each from the queue's front. -/
def runs : List Instr → State → Option State
  | [], s => some s
  | c :: cs, s =>
    match step { s with pending := c :: s.pending } with
    | .next t => runs cs t
    | .fault _ => none
    | .refused _ => none

/-- A run is safe when no command of it stops and the state it ends in is sound. -/
def SafeRun (cs : List Instr) (s : State) : Prop := ∃ t, runs cs s = some t ∧ Sound t

end Sys2Proof.Safety
end

