-- ==== Sys2Proof/Certificates/Slice0/Obligations.lean ====
section
/-!
DEFINITION. The statements about the block for the provers.
-/

open Sys2Proof Sys2Proof.Machine Sys2Proof.Safety

/-! ### The machine as a whole -/

/-- A step with a command at the front of the queue is that command carried out with the queue's rest (the model's
own: assumption 1). -/
def Obligations.StepTakesTheFront : Prop :=
  ∀ (c : Instr) (s : State), step { s with pending := c :: s.pending } = exec c s

/-- A step with nothing waiting, no flare-door entry buffered and no inspection of headers running, lets one tns
pass and changes nothing else (the model's own: assumption 1). -/
def Obligations.IdleStepLetsTimePass : Prop :=
  ∀ s : State, s.pending = [] → s.dev.raised = [] →
    (∀ p, (s.dev.part p).flareBuffer = [] ∧ (s.dev.part p).overflowMark = false) →
    (∀ x ∈ s.dev.mgmt.sessions, x.2.headersUntil = none) →
    ∃ t, step s = .next t ∧ Becomes s { s.dev with now := s.dev.now + 1 } t

/-- No step stops: from every state a step answers a next state, which has lost the queue's front alone. -/
def Obligations.StepNeverStops : Prop :=
  ∀ s : State, ∃ t, step s = .next t ∧ t.pending = s.pending.tail

/-- Every step keeps the invariant: memory in canonical form, a cause present means SAFE, FAULT_N low in SAFE, and
every cause raised taken by the safety controller. -/
def Obligations.StepKeepsSound : Prop :=
  ∀ s t : State, Sound s → step s = .next t → Sound t

/-- The block after reset satisfies the invariant. -/
def Obligations.ResetIsSound : Prop := Sound State.reset

/-- Reset leaves nothing listed, nothing waiting, FAULT_N not driven high, no cause present and no tick started,
and the tick period at its default of 1 s. -/
def Obligations.ResetLeavesDefaults : Prop :=
  State.reset.mem.bytes = [] ∧ State.reset.pending = [] ∧ State.reset.safety = { } ∧
    State.reset.dev.tick.started = false ∧ State.reset.dev.tick.period = 1000000 ∧ State.reset.dev.tick.tick = 0 ∧
    State.reset.dev.time.mode = .acquiring ∧ State.reset.dev.jobs = [] ∧ State.reset.dev.start.status = 0 ∧
    State.reset.dev.forceAt 0x2000 1 = 1000000

/-- Memory reads back what a write put there and, everywhere else, what it read before. -/
def Obligations.MemoryReadsBack : Prop :=
  ∀ (m : Mem) (a x : Nat) (bs : Bytes), m.wf = true →
    (m.writeBytes a bs).wf = true ∧
    (m.writeBytes a bs).read x = if a ≤ x ∧ x < a + bs.length then bs.getD (x - a) 0 else m.read x

/-! ### Commands of the rings that need nothing but their packet -/

/-- A host command whose packet is not at its turn (none with the tag, started, a quiesced partition, a device that
is not ready) leaves the device as it is: it waits (the model's own: assumptions 2 and 3). -/
def Obligations.HostCommandAwaitsItsPacket : Prop :=
  ∀ (s : State) (p : Fin 16) (tag : Nat), s.dev.raised = [] → (∀ op, s.dev.starting p tag op = none) →
    ∀ c ∈ [Instr.nop p tag, .loadImageBegin p tag, .loadImageTable p tag, .loadImageData p tag, .loadImageEnd p tag,
      .unload p tag, .bind p tag, .submit p tag, .input p tag, .storeCreate p tag, .storeWrite p tag, .fetch p tag,
      .fork p tag, .streamOpen p tag, .streamChunk p tag, .streamChunkPause p tag, .streamChunkResume p tag,
      .streamSave p tag, .streamSaveDetach p tag, .streamRestore p tag, .streamEnd p tag, .streamEndImmediate p tag,
      .fence p tag, .fenceEndJob p tag, .fieldTest p tag, .odRead p tag, .odWrite p tag], CompletesTo c s s.dev

/-- NOP completes OK with no payload; one with an argument other than 0 completes REJECTED_FORMAT. -/
def Obligations.NopCompletes : Prop :=
  ∀ (s : State) (p : Fin 16) (tag : Nat) (k : Packet), Arrived s p tag 0x00 k →
    (k.arg0 = 0 ∧ k.arg1 = 0 → CompletesTo (.nop p tag) s (s.dev.answered p k .ok 0 [])) ∧
    (k.posted = false → k.arg0 ≠ 0 ∨ k.arg1 ≠ 0 →
      CompletesTo (.nop p tag) s (s.dev.answered p k .rejectedFormat 0 []))

/-! ### Images, programs and jobs -/

/-- LOAD_IMAGE BEGIN with a legal header and room enters a new image and answers its tag; TABLE appends its
entries; DATA at the next offset counts its bytes as received and waits until they are durable. -/
def Obligations.ImageUploadCompletes : Prop :=
  (∀ (s : State) (p : Fin 16) (tag : Nat) (k : Packet) (n bytes loc : Nat) (es : List ImageEntry) (d : Dev),
    Arrived s p tag 0x01 k → k.arg0 = 0 → k.arg1 = 0 → 64 ≤ k.payload.length →
    n = field (leAt k.payload 0 64) 31 0 → bytes = field (leAt k.payload 0 64) 127 64 →
    field (leAt k.payload 0 64) 63 32 = 0 → field (leAt k.payload 0 64) 511 128 = 0 →
    es = entriesIn (k.payload.drop 64) → 0 < n → n ≤ 2 ^ 24 → es.length ≤ n → (∀ e ∈ es, e.legal bytes = true) →
    ceilDiv bytes 4096 * 4096 ≤ s.dev.stratusRoom p → s.dev.takeStratus (ceilDiv bytes 4096) p = some (loc, d) →
    CompletesTo (.loadImageBegin p tag) s
      (({ d with nextImage := d.nextImage + 1 } : Dev).setImage
        { number := d.nextImage, generation := 1, part := p, nTens := n, dataBytes := bytes, entries := es, received := 0
          loc := loc, units := ceilDiv bytes 4096, placed := false, slices := [] }
      |>.answered p k .ok 0 (toLe 4 d.nextImage ++ toLe 4 1))) ∧
  (∀ (s : State) (p : Fin 16) (tag : Nat) (k : Packet) (im : Image) (es : List ImageEntry),
    Arrived s p tag 0x01 k → k.arg0 = 1 + im.entries.length * 256 → k.arg0 < 2 ^ 64 → s.dev.imageOf k.arg1 = some im →
    im.part = p → im.ended = false → es = entriesIn k.payload → im.entries.length + es.length ≤ im.nTens →
    (∀ e ∈ es, e.legal im.dataBytes = true) →
    CompletesTo (.loadImageTable p tag) s
      ((s.dev.setImage { im with entries := im.entries ++ es }).answered p k .ok 0 [])) ∧
  (∀ (s : State) (p : Fin 16) (tag : Nat) (k : Packet) (im : Image) (n : Nat),
    Arrived s p tag 0x01 k → k.arg0 = 2 + im.received * 256 → k.arg0 < 2 ^ 64 → s.dev.imageOf k.arg1 = some im →
    im.part = p → im.ended = false → n = min k.payload.length (im.dataBytes - im.received) → 0 < n →
    k.payload.length < n + 64 → s.dev.stratus.state ≠ 2 →
    CompletesTo (.loadImageData p tag) s
      ((s.dev.setImage { im with received := im.received + n }).waiting p k .durable))

/-- LOAD_IMAGE END of a whole image places every tensor, in the stacks its entries name, and waits for the
placement; UNLOAD of an image no job binds erases it, gives its room back and zeroes it. -/
def Obligations.ImageEndAndUnloadComplete : Prop :=
  (∀ (s : State) (p : Fin 16) (tag : Nat) (k : Packet) (im : Image) (e : Eff) (sl : List (List WeightSlice)),
    Arrived s p tag 0x01 k → k.arg0 = 3 → s.dev.imageOf k.arg1 = some im → im.part = p →
    s.dev.dataPending p im = false → k.payload = [] → im.ended = false → im.entries.length = im.nTens →
    im.received = im.dataBytes →
    (∀ t ∈ im.entries, ∀ r < 12, bit t.stackMask r = true → s.dev.regionUsable p (r / 2) = true) →
    s.dev.eff.placeWeights p im.entries = some (e, sl) →
    CompletesWith (.loadImageEnd p tag) s
      ((e.dev.setImage { im with slices := sl, ended := true }).waiting p k (.placed im.number)) e.mem) ∧
  (∀ (s : State) (p : Fin 16) (tag : Nat) (k : Packet) (im : Image) (e : Eff),
    Arrived s p tag 0x01 k → k.arg0 = 4 → s.dev.imageOf k.arg1 = some im → im.part = p →
    s.dev.dataPending p im = false → s.dev.placing im.number = false → im.restoring = false → k.payload = [] →
    (∀ j ∈ s.dev.liveJobs, j.imageNo ≠ im.number) →
    e = (im.slices.flatten.foldl (fun a x => if x.lost then a else a.freeLines x.stack x.la x.lines) s.dev.eff).freeUnits
      im.loc im.units →
    CompletesWith (.unload p tag) s
      (({ e.dev with images := terase e.dev.images im.number } : Dev).answered p k .ok 0 []) e.mem)

/-- Outside SAFE, BIND of a legal program to a placed image of the partition makes a job that is bound and answers its
handle, the mark and the operator count; a BIND of a bound job to the same image with a compatible program replaces
its program. -/
def Obligations.BindCompletes : Prop :=
  ∀ (s : State) (p : Fin 16) (tag : Nat) (k : Packet) (im : Image) (prog : Program),
    Arrived s p tag 0x02 k → s.safety.safe = false → s.dev.loadsFirst p (bindTag k.payload) k = false → k.arg0 = 0 →
    k.arg1 = 0 → k.job ≠ 0 → s.dev.imageOf (bindTag k.payload) = some im → im.part = p →
    im.ended = true → bindCheck k.payload (some im) = none → prog = Program.ofBytes (k.payload.drop 64) →
    im.restoring = false → s.dev.placing im.number = false → im.placed = true →
    (s.dev.liveJob k.job = none →
      CompletesTo (.bind p tag) s
        (((s.dev.setPart p { s.dev.part p with nextHandle := (s.dev.part p).nextHandle + 1 }).setJob
          { id := k.job, part := p, imageNo := im.number, prog := prog, handle := (s.dev.part p).nextHandle
            orderDep := prog.orderDependent }).answered p k .ok (s.dev.part p).nextHandle (bindPayload prog))) ∧
    (∀ j, s.dev.liveJob k.job = some j → j.part = p → j.state = .bound → j.imageNo = im.number →
      rebindCompatible prog j.prog = true →
      CompletesTo (.bind p tag) s
        ((s.dev.setJob { j with prog := prog, orderDep := prog.orderDependent }).answered p k .ok j.handle
          (bindPayload prog)))

/-- Outside SAFE, SUBMIT of a bound job with legal batch parameters that an admission fits takes the admission and
answers the first tick, the counts, the bound and the cells. -/
def Obligations.SubmitCompletes : Prop :=
  ∀ (s : State) (p : Fin 16) (tag : Nat) (k : Packet) (j : Job) (b : Batch) (im : Image) (a : Admission) (e : Eff),
    Arrived s p tag 0x03 k → s.safety.safe = false → s.dev.liveJob k.job = some j → j.part = p → j.state = .bound →
    submitBatch k = some b → k.arg0 = 0 → k.arg1 = 0 → tget s.dev.images j.imageNo = some im →
    s.dev.eff.admitJob { j with batch := b, submitTag := k.tag, submitSeq := k.seq } im = .ok a →
    e = a.take { j with batch := b, submitTag := k.tag, submitSeq := k.seq } (max k.tick s.dev.nextTickNo)
      (1 + maxNat (s.dev.jobs.map (fun x => x.2.admitOrder))) →
    CompletesWith (.submit p tag) s
      (e.dev.answered p k .ok 0 (submitPayload (max k.tick s.dev.nextTickNo) a b.guaranteed)) e.mem

/-- INPUT, FORK and the STREAM_CHUNKs whose checks pass are marked as checked and wait in the inbox for their tick; one
that fails a check and is not posted answers the check's code and INFO. -/
def Obligations.TickCommandsAreTaken : Prop :=
  ∀ (s : State) (p : Fin 16) (tag : Nat) (k : Packet),
    ∀ c ∈ [(Instr.input p tag, 0x10, s.dev.inputCheck p k, true), (.fork p tag, 0x20, s.dev.forkCheck p k, true),
      (.streamChunk p tag, 0x22, s.dev.dataChunkCheck p k, chunkKind k == 0),
      (.streamChunkPause p tag, 0x22, s.dev.controlChunkCheck p k, chunkKind k == 1),
      (.streamChunkResume p tag, 0x22, s.dev.controlChunkCheck p k, chunkKind k == 2)],
    Arrived s p tag c.2.1 k → c.2.2.2 = true →
      (c.2.2.1 = none →
        CompletesTo c.1 s (s.dev.setPart p { s.dev.part p with
          inbox := (s.dev.part p).inbox.map (fun q => if q.tag = tag then { q with checked := true } else q) })) ∧
      (∀ code info, c.2.2.1 = some (code, info) → k.posted = false →
        CompletesTo c.1 s (s.dev.answered p k code info []))

/-- STORE with HANDLE 0 creates an object in the roomiest usable stack, or in Stratus, and answers its handle; STORE
with a handle takes the bytes for the next commit window, at once for an object in a stack, after they are durable
for one in Stratus. -/
def Obligations.StoreCompletes : Prop :=
  (∀ (s : State) (p : Fin 16) (tag : Nat) (k : Packet) (w total : Nat),
    Arrived s p tag 0x11 k → k.handle = 0 → k.payload.length = 64 → w = leAt k.payload 0 64 → field w 63 33 = 0 →
    field w 511 192 = 0 → total = field w 191 128 → 64 ≤ total → total ≤ 2 ^ 45 → k.arg0 = 0 → k.arg1 = 0 →
    (∀ r la e, bit w 32 = false → s.dev.roomiest (s.dev.usableStacks p) = some r →
      s.dev.eff.takeRoom r 1 (ceilDiv total 128) p = some (la, e) →
      CompletesWith (.storeCreate p tag) s
        (({ e.dev.setPart p { e.dev.part p with nextHandle := (e.dev.part p).nextHandle + 1 } with
            objects := tset e.dev.objects (p * 2 ^ 32 + (e.dev.part p).nextHandle)
              { part := p, stratus := false, stack := r, base := la, total := total } } : Dev).answered p k .ok
          (e.dev.part p).nextHandle []) e.mem) ∧
    (∀ loc d, bit w 32 = true → s.dev.stratus.state ≠ 2 → ceilDiv total 4096 * 4096 ≤ s.dev.stratusRoom p →
      s.dev.takeStratus (ceilDiv total 4096) p = some (loc, d) →
      CompletesTo (.storeCreate p tag) s
        (({ d.setPart p { d.part p with nextHandle := (d.part p).nextHandle + 1 } with
            objects := tset d.objects (p * 2 ^ 32 + (d.part p).nextHandle)
              { part := p, stratus := true, stack := 0, base := loc, total := total } } : Dev).answered p k .ok
          (d.part p).nextHandle []))) ∧
  (∀ (s : State) (p : Fin 16) (tag : Nat) (k : Packet) (o : Object) (off : Nat) (d : Dev),
    Arrived s p tag 0x11 k → k.handle ≠ 0 → s.dev.object? p k.handle = some o → o.releasing = false → o.lost = false →
    off = field (leAt k.payload 0 64) 127 64 → off % 64 = 0 → off + (k.payload.drop 64).length ≤ o.total →
    field (leAt k.payload 0 64) 63 33 = 0 → field (leAt k.payload 0 64) 511 192 = 0 → 64 ≤ k.payload.length →
    k.arg0 = 0 → k.arg1 = 0 →
    d = s.dev.setPart p { s.dev.part p with storeWrites := (s.dev.part p).storeWrites ++
      [{ handle := k.handle, tag := k.tag, offset := off, data := k.payload.drop 64, atHome := !o.stratus }] } →
    (o.stratus = false → CompletesTo (.storeWrite p tag) s (d.answered p k .ok k.handle [])) ∧
    (o.stratus = true → s.dev.stratus.state ≠ 2 → CompletesTo (.storeWrite p tag) s (d.waiting p k .durable)))

/-- FETCH of bytes of an object in a stack answers them, unless a line is poisoned; FETCH of an object in Stratus waits
for its reads; FETCH of a job tensor answers its committed bytes, or waits for the tick it names; FETCH_COPY answers the
value the named tick committed. -/
def Obligations.FetchCompletes : Prop :=
  (∀ (s : State) (p : Fin 16) (tag : Nat) (k : Packet) (w h n off : Nat) (o : Object),
    Arrived s p tag 0x12 k → fetchLegal k = true → w = leAt k.payload 0 64 → h = field w 95 64 → n = field w 127 96 →
    off = field w 191 128 → s.dev.outboxTakes p n = true → bit w 0 = true → s.dev.object? p h = some o →
    o.releasing = false → off + n ≤ o.total → o.lost = false → o.poisoned = false →
    (o.stratus = true → CompletesTo (.fetch p tag) s (s.dev.waiting p k .fetchStratus)) ∧
    (o.stratus = false → bit w 1 = false →
      s.mem.rangePoisoned ((Space.stack o.stack).addr (o.base * 128 + off)) n = false →
      CompletesTo (.fetch p tag) s
        ((s.dev.fetchTokens p (stackAddr o.stack o.base + off) n).answered p k .ok 0
          (s.mem.readBytes ((Space.stack o.stack).addr (o.base * 128 + off)) n)))) ∧
  (∀ (s : State) (p : Fin 16) (tag : Nat) (k : Packet) (w n addr last : Nat) (j : Job),
    Arrived s p tag 0x12 k → fetchLegal k = true → w = leAt k.payload 0 64 → s.dev.outboxTakes p (field w 127 96) = true →
    bit w 0 = false → s.dev.liveJob k.job = some j → j.part = p → s.dev.fetchAt j k 0 = .ok (addr, n) →
    last = (if s.dev.tick.commitDone then s.dev.tick.tick else s.dev.tick.tick - 1) →
    (field w 255 192 = 0 → s.mem.rangePoisoned addr n = false →
      CompletesTo (.fetch p tag) s ((s.dev.fetchTokens p addr n).answered p k .ok 0 (s.mem.readBytes addr n))) ∧
    (field w 255 192 ≠ 0 → last ≤ field w 255 192 →
      CompletesTo (.fetch p tag) s (s.dev.waiting p k (.fetchTick (field w 255 192))))) ∧
  (∀ (s : State) (p : Fin 16) (tag n addr tick : Nat) (w : Wait) (j : Job),
    s.dev.raised = [] → s.dev.wait? p tag = some w → w.what = .fetchTick tick → tick < s.dev.tick.tick →
    s.dev.outboxTakes p (field (leAt w.pkt.payload 0 64) 127 96) = true → s.dev.liveJob w.pkt.job = some j →
    s.dev.fetchAt j w.pkt (if j.lastTick ≤ tick then 0 else 1) = .ok (addr, n) → s.mem.rangePoisoned addr n = false →
    CompletesTo (.fetchCopy p tag) s ((s.dev.fetchTokens p addr n).answered p w.pkt .ok 0 (s.mem.readBytes addr n)))

/-- FENCE waits; with END_JOB the job it names is live no longer, unless a decided round of it commits first;
FENCE_COMPLETE, once every earlier command has completed, answers OK or the first posted failure with their count, and
clears the records. -/
def Obligations.FenceCompletes : Prop :=
  (∀ (s : State) (p : Fin 16) (tag : Nat) (k : Packet), Arrived s p tag 0x30 k → k.arg1 = 0 → k.payload = [] →
    (k.arg0 = 0 → CompletesTo (.fence p tag) s (s.dev.waiting p k .fence)) ∧
    (∀ j, k.arg0 = 1 → s.dev.liveJob k.job = some j → j.part = p → j.id = k.job →
      (∀ r, j.round = some r → r.decided = false) →
      ∃ t, exec (.fenceEndJob p tag) s = .next t ∧ t.dev.liveJob j.id = none ∧ t.safety = s.safety ∧
        t.pending = s.pending)) ∧
  (∀ (s : State) (p : Fin 16) (tag : Nat) (w : Wait) (fs : List PostFail) (d : Dev),
    s.dev.raised = [] → s.dev.wait? p tag = some w → w.what = .fence →
    (∀ f ∈ (s.dev.part p).flights, f.order < w.pkt.order → f.completed = true) → w.pkt.posted = false →
    fs = (s.dev.part p).postFails.filter (fun f => decide (f.order < w.pkt.order)) →
    d = s.dev.setPart p { s.dev.part p with
      postFails := (s.dev.part p).postFails.filter (fun f => !decide (f.order < w.pkt.order)), poisonedNames := [] } →
    (fs = [] → CompletesTo (.fenceComplete p tag) s (d.answered p w.pkt .ok 0 [])) ∧
    (∀ f rest, fs = f :: rest →
      CompletesTo (.fenceComplete p tag) s (d.answered p w.pkt .postedWriteFailed 0
        (toLe 4 f.seq ++ toLe 4 (min fs.length (2 ^ 32 - 1)) ++ toLe 8 (f.code + if f.urgent then 2 ^ 8 else 0)))))

/-- OD_READ of an object that is no read-and-clear alias answers its entries and changes nothing else; OD_WRITE carries
out its entries one after another and answers their reports. -/
def Obligations.HostObjectCommandsComplete : Prop :=
  (∀ (s : State) (p : Fin 16) (tag : Nat) (k : Packet), Arrived s p tag 0x32 k → k.arg0 < 2 ^ 25 → k.arg1 = 0 →
    k.payload = [] → isAlias (field k.arg0 15 0) (field k.arg0 23 16) = false →
    CompletesTo (.odRead p tag) s (s.dev.answered p k .ok 0
      (if bit k.arg0 24 = true ∨ field k.arg0 23 16 = 0 then s.readWhole (.host p) (field k.arg0 15 0)
       else s.readEntry (.host p) (field k.arg0 15 0) (field k.arg0 23 16)))) ∧
  (∀ (s : State) (p : Fin 16) (tag : Nat) (k : Packet) (es : List Entry) (r : State × List Nat),
    Arrived s p tag 0x33 k → k.arg0 = 0 → k.arg1 = 0 → entriesOf k.payload = (es, none) →
    r = s.writeEntries (.host p) es →
    ∃ t, exec (.odWrite p tag) s = .next t ∧ Becomes r.1 (r.1.dev.answered p k .ok 0 (reportBytes es r.2)) t)

/-! ### Streams -/

/-- STREAM_OPEN of an admitted job with a legal payload waits for the next boundary, after the read of its saved state
if it names one in Stratus; so does STREAM_RESTORE of an open host stream. -/
def Obligations.StreamOpenAndRestoreWait : Prop :=
  ∀ (s : State) (p : Fin 16) (tag : Nat) (k : Packet) (j : Job), s.dev.liveJob k.job = some j → j.part = p →
    (∀ h seed n, Arrived s p tag 0x21 k → j.state = .admitted → openFields k = some (h, seed, n) →
      CompletesTo (.streamOpen p tag) s (s.dev.waiting p k (.opening (h == 0 || !s.dev.needsRead p h)))) ∧
    (Arrived s p tag 0x24 k → k.arg0 < 2 ^ 32 → k.arg1 < 2 ^ 32 → k.payload = [] →
      (s.dev.hostEntry k.job k.arg0).isSome = true →
      CompletesTo (.streamRestore p tag) s (s.dev.waiting p k (.restoring (!s.dev.needsRead p k.arg1))))

/-- STREAM_SAVE with room marks its entry SAVE_PEND and waits for a commit; with DETACH the entry is ended and detached as
well, and of its queue only the chunks stay whose steps the running round takes; the end of a captured save allocates the
object in Stratus, counts and writes it, answers its handle and only then frees a detached entry, or answers NO_ROOM, or on a
read-only tier TIER_FAILED, which keep the entry and clear DETACH. -/
def Obligations.StreamSaveCompletes : Prop :=
  (∀ (s : State) (p : Fin 16) (tag : Nat) (k : Packet) (j : Job) (n q : Nat) (x : StreamEntry),
    Arrived s p tag 0x23 k → s.dev.liveJob k.job = some j → j.part = p → k.arg0 < 2 ^ 32 → k.payload = [] →
    s.dev.saveEntry k = some (n, x) → alignUp (savedBytes j.prog) 4096 ≤ s.dev.savedRoom p → s.dev.stratus.state ≠ 2 →
    (k.arg1 < 2 →
      CompletesTo (.streamSave p tag) s
        ((s.dev.setStream n { x with savePend := true }).waiting p k (.save n none))) ∧
    (k.arg1 = 2 → x.part = p →
      q = ((s.dev.part p).chunks.filter (fun c => c.job == k.job && c.stream == k.arg0 &&
        j.round.any (fun r => r.chunks.any (fun y => y.tag == c.tag && y.used != 0)))).length →
      ∃ t, exec (.streamSaveDetach p tag) s = .next t ∧ t.mem = s.mem ∧ t.pending = s.pending ∧
        t.dev.stream? n = some { x with savePend := true, detach := true, ended := true, qLen := q })) ∧
  (∀ (s : State) (p : Fin 16) (tag n : Nat) (w : Wait) (bs : Bytes),
    s.dev.raised = [] → s.dev.wait? p tag = some w → w.what = .save n (some bs) → w.pkt.posted = false →
    (∀ x, s.dev.stream? n = some x → x.loc ≠ .evicting ∧ x.loc ≠ .recalling) →
    (s.dev.stratus.state = 2 →
      CompletesTo (.streamSaveComplete p tag) s
        ((match s.dev.stream? n with
          | some x => s.dev.setStream n { x with detach := x.detach && !bit w.pkt.arg1 1 }
          | none => s.dev).answered p w.pkt .tierFailed 0 [])) ∧
    (∀ loc u d d1 e, s.dev.stratus.state ≠ 2 → s.dev.boundedReads = false → s.dev.stratus.spareHeld = false →
      s.dev.takeStratus (ceilDiv bs.length 4096) p = some (loc, u) → d = u.wroteUnits (ceilDiv bs.length 4096) →
      d1 = ({ d.setPart p { d.part p with nextHandle := (d.part p).nextHandle + 1 } with
        objects := tset d.objects (p * 2 ^ 32 + (d.part p).nextHandle)
          { part := p, stratus := true, stack := 0, base := loc, total := bs.length, saved := true } } : Dev) →
      e = (d1.answered p w.pkt .ok (d.part p).nextHandle []).eff.ops [.write (Space.stratus.addr (loc * 4096)) bs] →
      CompletesWith (.streamSaveComplete p tag) s (if bit w.pkt.arg1 1 then e.freeStream n else e).dev
        (if bit w.pkt.arg1 1 then e.freeStream n else e).mem) ∧
    (s.dev.stratus.state ≠ 2 → s.dev.boundedReads = false → s.dev.stratus.spareHeld = false →
      s.dev.takeStratus (ceilDiv bs.length 4096) p = none →
      CompletesTo (.streamSaveComplete p tag) s
        ((match s.dev.stream? n with
          | some x => s.dev.setStream n { x with detach := x.detach && !bit w.pkt.arg1 1 }
          | none => s.dev).answered p w.pkt .noRoom 0 [])))

/-- STREAM_END of an open host stream waits until its entry is freed; with IMMEDIATE END is set at once and nothing of
the stream stays queued. -/
def Obligations.StreamEndCompletes : Prop :=
  ∀ (s : State) (p : Fin 16) (tag : Nat) (k : Packet) (j : Job) (n : Nat) (x : StreamEntry),
    Arrived s p tag 0x25 k → s.dev.liveJob k.job = some j → j.part = p → k.arg0 < 2 ^ 32 → k.payload = [] →
    s.dev.hostEntry k.job k.arg0 = some (n, x) →
    (k.arg1 = 0 → CompletesTo (.streamEnd p tag) s (s.dev.waiting p k (.entry n))) ∧
    (k.arg1 = 1 →
      ∃ t, exec (.streamEndImmediate p tag) s = .next t ∧ t.mem = s.mem ∧ t.pending = s.pending ∧
        t.dev.stream? n = some { x with ended := true, qLen := 0 })

/-! ### Rings, doorbells and BAR0 -/

/-- A packet that came whole at its function's turn with a legal LEN and a good CRC, for which the inbox has room, uses the
turn, moves HEAD past it and the expected SEQ on, and is accepted into the inbox with its tag in flight when it passes the checks, or answered with the
check's code when it is not posted; a failed read of host memory halts the ring with cause 3 and raises vector 2. -/
def Obligations.PacketFetchCompletes : Prop :=
  ∀ (s : State) (p : Fin 16) (urgent : Bool), s.dev.raised = [] → s.dev.mayFetch p urgent = true →
    (∀ (bs : Bytes) (len : Nat) (k : Packet) (d : Dev), len = leAt bs 24 4 → lenLegal urgent len = true →
      bs.length = 64 + len → packetCrcOk bs = true → 64 + len ≤ s.dev.inboxFree p urgent →
      k = Packet.of bs urgent s.dev.now s.dev.arrivals →
      d = (({ s.dev.serve p with arrivals := s.dev.arrivals + 1 } : Dev).setPart p
        (({ (s.dev.part p).setCmdRing urgent { (s.dev.part p).cmdRing urgent with
              head := (((s.dev.part p).cmdRing urgent).head + 1 + k.len / 64) % 2 ^ 32 } with
            expectSeq := (s.dev.part p).expectSeq.set (if urgent then 1 else 0) (some ((k.seq + 1) % 2 ^ 32)) } :
          Part).writeHead urgent)).copyHeader p (bs.take 64) →
      (s.dev.packetCheck p bs k = none →
        CompletesTo (.packetFetch p urgent (.packet bs)) s
          (d.setPart p { d.part p with
            inbox := (d.part p).inbox ++ [k]
            flights := (d.part p).flights ++
              [{ tag := k.tag, seq := k.seq, opcode := k.opcode, urgent := urgent, posted := k.posted, job := k.job
                 order := k.order }] })) ∧
      (∀ c info, s.dev.packetCheck p bs k = some (c, info) → k.posted = false →
        CompletesTo (.packetFetch p urgent (.packet bs)) s
          (d.setPart p { d.part p with
            outbox := (d.part p).outbox ++
              [{ code := c.toNat, opcode := k.opcode, part := p, seq := k.seq, tag := k.tag, info := info
                 tick := s.dev.tick.tick, accepted := false }] }))) ∧
    (∀ header : Bytes, ∃ t, exec (.packetFetch p urgent (.readError header)) s = .next t ∧ t.mem = s.mem ∧
      (t.dev.part p).cmdRing urgent = { (s.dev.part p).cmdRing urgent with halted := true, cause := 3 } ∧
      (t.dev.part p).inbox = (s.dev.part p).inbox ∧
      (t.dev.part p).outbox = (s.dev.part p).outbox ++
        [{ code := Code.rejectedFormat.toNat, opcode := field (leAt header 0 64) 7 0, part := p
           seq := field (leAt header 0 64) 63 32, tag := field (leAt header 0 64) 80 64, tick := s.dev.tick.tick
           accepted := false }])

/-- The first response of the outbox, when the ring has room for it, goes to the ring; the ring's TAIL moves by its
units, and its tag is in flight no longer when it is the last of its command. -/
def Obligations.ResponseWriteCompletes : Prop :=
  ∀ (s : State) (p : Fin 16) (r : Response) (rest : List Response),
    s.dev.raised = [] → s.dev.masters p = true → (s.dev.part p).outbox = r :: rest → (s.dev.part p).rsp.enable = true →
    ahead (s.dev.part p).rsp.tail (s.dev.part p).rspHead + r.units ≤ (s.dev.part p).rsp.capacity 32 →
    r.release = none →
    ∃ t, exec (.responseWrite p) s = .next t ∧ t.mem = s.mem ∧ (t.dev.part p).outbox = rest ∧
      (t.dev.part p).rsp = { (s.dev.part p).rsp with tail := ((s.dev.part p).rsp.tail + r.units) % 2 ^ 32 } ∧
      (t.dev.part p).rspWritten = (s.dev.part p).rspWritten ++ [r] ∧
      (t.dev.part p).flights =
        if r.freesTag then (s.dev.part p).flights.filter (fun f => f.tag != r.tag) else (s.dev.part p).flights

/-- A tail doorbell of a command ring at most the capacity ahead of HEAD becomes the tail; a response or notice head
doorbell at most the capacity ahead of its old value becomes the head and drops what lies behind it; every other value
is ignored and counted. -/
def Obligations.DoorbellsComplete : Prop :=
  ∀ (s : State) (p : Fin 16) (v : BitVec 32) (x ignored : Part), s.dev.raised = [] → s.dev.reach p = true →
    x = s.dev.part p → ignored = { x with doorbellsIgnored := (x.doorbellsIgnored + 1) % 2 ^ 32 } →
    CompletesTo (.cmdTailDb p v) s
      (s.dev.setPart p (if ahead v.toNat x.normal.head ≤ x.normal.capacity 64 then { x with cmdTail := v.toNat } else ignored)) ∧
    CompletesTo (.urgTailDb p v) s
      (s.dev.setPart p (if ahead v.toNat x.urgent.head ≤ x.urgent.capacity 64 then { x with urgTail := v.toNat } else ignored)) ∧
    CompletesTo (.rspHeadDb p v) s
      (s.dev.setPart p (if ahead v.toNat x.rspHead ≤ x.rsp.capacity 32 then
        { x with rspHead := v.toNat, rspWritten := dropUnits (ahead v.toNat x.rspHead) x.rspWritten } else ignored)) ∧
    CompletesTo (.ntcHeadDb p v) s
      (s.dev.setPart p (if ahead v.toNat x.ntcHead ≤ x.ntc.capacity 64 then
        { x with ntcHead := v.toNat, ntcEntries := x.ntcEntries.drop (ahead v.toNat x.ntcHead) } else ignored))

/-- ENABLE written 1 with LOG2 in range sets the ring's pointers to 0 and its HALTED to 0, outside the range it stays 0;
ENABLE written 0 stops the ring; BASE is written only while ENABLE is 0; RSP_HOLDOFF, HEAD_WB and RELEASE are written. -/
def Obligations.RingBlocksComplete : Prop :=
  ∀ (s : State) (p : Fin 16) (ring : RingSel) (x : Part), s.dev.raised = [] → s.dev.reach p = true → x = s.dev.part p →
    ((ringSizes ring).1 ≤ (x.ring ring).log2 → (x.ring ring).log2 ≤ (ringSizes ring).2 →
      ∃ t, exec (.ringEnable p ring) s = .next t ∧ t.mem = s.mem ∧
        (t.dev.part p).ring ring =
          { x.ring ring with enable := true, halted := false, cause := 0, head := 0, tail := 0 } ∧
        (ring = .normal → (t.dev.part p).cmdTail = 0 ∧ (t.dev.part p).expectSeq = x.expectSeq.set 0 (some x.normal.seq0)) ∧
        (ring = .urgent → (t.dev.part p).urgTail = 0 ∧ (t.dev.part p).expectSeq = x.expectSeq.set 1 (some x.urgent.seq0)) ∧
        (ring = .response → (t.dev.part p).rspHead = 0) ∧ (ring = .notice → (t.dev.part p).ntcHead = 0)) ∧
    ((x.ring ring).log2 < (ringSizes ring).1 ∨ (ringSizes ring).2 < (x.ring ring).log2 →
      CompletesTo (.ringEnable p ring) s (s.dev.setPart p x)) ∧
    CompletesTo (.ringDisable p ring) s (s.dev.setPart p (x.setRing ring { x.ring ring with enable := false })) ∧
    CompletesTo (.release p) s (s.dev.setPart p { x with releasePending := true }) ∧
    (∀ v, CompletesTo (.registerWrite p 0x0018 32 v) s (s.dev.setPart p { x with holdoff := min 1000 (v % 1024) })) ∧
    (∀ v, CompletesTo (.registerWrite p 0x0020 64 v) s (s.dev.setPart p { x with headWb := v / 64 * 64 % 2 ^ 64 })) ∧
    (∀ v, CompletesTo (.registerWrite p 0x0100 64 v) s (s.dev.setPart p
      (if x.normal.enable then x else { x with normal := { x.normal with base := v / 4096 * 4096 % 2 ^ 64 } })))

/-- A 64-bit flare-door write with the ARM word that meets an earlier batch waits in the function's buffer; one that
meets none takes effect: QUIESCE quiesces the partition, ABORT_JOB of a job without a decided round leaves it live no
longer, DROP_QUEUE moves each command ring's HEAD to its tail and takes any SEQ next; each sets LAST and adds 1 to TAKEN;
a write without the ARM word, or not of 64 bits, is ignored and counted. -/
def Obligations.FlareActionsTakeEffect : Prop :=
  ∀ (s : State) (p : Fin 16) (w : FlareWrite) (job : Nat) (x : Part), s.dev.raised = [] → s.dev.reach p = true →
    x = s.dev.part p →
    (∀ d : Dev, d = { s.dev with arrivals := s.dev.arrivals + 1 } →
      w.width = 64 → w.arm = 0x464C4152 → w.pairBusy = true → x.flareBuffer.length < 4 →
      CompletesTo (.quiesce p w) s
        (d.setPart p { x with flareBuffer := x.flareBuffer ++ [{ action := 1, job := 0, order := s.dev.arrivals }] }) ∧
      CompletesTo (.abortJob p w job) s
        (d.setPart p { x with flareBuffer := x.flareBuffer ++ [{ action := 2, job := job, order := s.dev.arrivals }] }) ∧
      CompletesTo (.dropQueue p w) s
        (d.setPart p { x with flareBuffer := x.flareBuffer ++ [{ action := 3, job := 0, order := s.dev.arrivals }] })) ∧
    (w.width = 64 → w.arm = 0x464C4152 → w.pairBusy = false →
      (∀ q, (s.dev.part q).flareBuffer = [] ∧ (s.dev.part q).overflowMark = false) →
      (∃ t, exec (.quiesce p w) s = .next t ∧ t.safety = s.safety ∧ (t.dev.part p).quiesced = true ∧
        (t.dev.part p).flareLast = 1 ∧ (t.dev.part p).flareTaken = (x.flareTaken + 1) % 65536) ∧
      (∀ j, s.dev.liveJob job = some j → j.part = p → (∀ r, j.round = some r → r.decided = false) →
        ∃ t, exec (.abortJob p w job) s = .next t ∧ t.safety = s.safety ∧ t.dev.liveJob job = none ∧
          (t.dev.part p).flareLast = 2 ∧ (t.dev.part p).flareTaken = (x.flareTaken + 1) % 65536) ∧
      (∃ t, exec (.dropQueue p w) s = .next t ∧ t.safety = s.safety ∧ (t.dev.part p).normal.head = x.cmdTail ∧
        (t.dev.part p).urgent.head = x.urgTail ∧ (t.dev.part p).expectSeq = [none, none] ∧
        (t.dev.part p).flareLast = 3 ∧ (t.dev.part p).flareTaken = (x.flareTaken + 1) % 65536)) ∧
    (w.width ≠ 64 ∨ w.arm ≠ 0x464C4152 →
      ∀ c ∈ [Instr.quiesce p w, .abortJob p w job, .dropQueue p w],
        CompletesTo c s (s.dev.setPart p { x with flareIgnored := (x.flareIgnored + 1) % 65536 }))

/-! ### Ports, functions and their protection -/

/-- A function-level reset of a function that the bus reaches, and STOP_INTERFACE, put every ring, doorbell and MSI-X
register of BAR0 at its reset value, release QUIESCE, erase the IDE stream and take the TDI to CONFIG_UNLOCKED, and
leave the region mask's copy, the objects and the slots of the partition; STOP_INTERFACE answers. -/
def Obligations.FunctionResetsComplete : Prop :=
  ∀ (s : State) (p : Fin 16), s.dev.raised = [] → s.dev.reach p = true →
    ∀ c ∈ [Instr.functionLevelReset p, .stopInterface p],
      ∃ t, exec c s = .next t ∧ t.safety = s.safety ∧ t.pending = s.pending ∧
        (∀ r, (t.dev.part p).ring r = {}) ∧
        (t.dev.part p).cmdTail = 0 ∧ (t.dev.part p).urgTail = 0 ∧ (t.dev.part p).rspHead = 0 ∧
        (t.dev.part p).ntcHead = 0 ∧ (t.dev.part p).holdoff = 0 ∧ (t.dev.part p).headWb = 0 ∧
        (t.dev.part p).msix = [] ∧ (t.dev.part p).msixPending = [] ∧ (t.dev.part p).expectSeq = [none, none] ∧
        (t.dev.part p).quiesced = false ∧ (t.dev.part p).flareTaken = 0 ∧ (t.dev.part p).flareIgnored = 0 ∧
        (t.dev.part p).tdi = .unlocked ∧ (t.dev.part p).lockNonce = none ∧ (t.dev.part p).ide = {} ∧
        (t.dev.part p).created = (s.dev.part p).created ∧ (t.dev.part p).present = (s.dev.part p).present ∧
        (t.dev.part p).nextHandle = (s.dev.part p).nextHandle ∧
        (c = .stopInterface p →
          ∃ l, (t.dev.port (p / 4)).answers = l ++ [((p : Nat), DoeAnswer.tdispOk)])

/-- LINK_TRAINING at a legal speed and width brings a port out of reset up with its physical function present; a link
that goes down, or that PERST takes down, resets each of the port's four functions, which the bus reaches no longer;
PERST on a port that is not up moves the pin's level alone. -/
def Obligations.LinksComplete : Prop :=
  ∀ (s : State) (n : Fin 4) (x : Port), s.dev.raised = [] → x = s.dev.port n →
    (∀ speed width, x.inReset = false → x.perst = false → linkLegal speed width = true →
      CompletesTo (.linkTraining n speed width) s
        ((s.dev.modPort n (fun y => { y with linkUp := true, speed := speed, width := width, retune := [] })).setPart
          (4 * n) { s.dev.part (4 * n) with present := true })) ∧
    (x.linkUp = true →
      ∀ c ∈ [Instr.linkDown n] ++ (if x.inReset then [] else [Instr.perst n true]),
        ∃ t, exec c s = .next t ∧ t.safety = s.safety ∧ t.pending = s.pending ∧
          (t.dev.port n).linkUp = false ∧ (t.dev.port n).speed = 0 ∧ (t.dev.port n).width = 0 ∧
          (t.dev.port n).perst = (if c = .linkDown n then x.perst else true) ∧
          ∀ p ∈ portFunctions n, (t.dev.part p).present = false ∧ (t.dev.part p).busMaster = false ∧
            (t.dev.part p).tdi = .unlocked ∧ (t.dev.part p).ide = {} ∧ (t.dev.part p).rsp = {} ∧
            (t.dev.part p).ntc = {} ∧ (t.dev.part p).msix = []) ∧
    (∀ level, level = false ∨ x.linkUp = false ∨ x.inReset = true →
      CompletesTo (.perst n level) s (s.dev.modPort n (fun y => { y with perst := level })))

/-- The host enables a virtual function, gives and takes bus mastership; in CONFIG_UNLOCKED a configuration write
changes nothing and a failed IDE check makes the stream Insecure; in CONFIG_LOCKED and RUN each of a cleared bus
mastership, a configuration write and a failed check takes the TDI to ERROR with the partition quiesced. -/
def Obligations.FunctionBitsComplete : Prop :=
  ∀ (s : State) (p : Fin 16) (x : Part), s.dev.raised = [] → x = s.dev.part p → s.dev.reach p = true →
    CompletesTo (.busMasterEnable p true) s (s.dev.setPart p { x with busMaster := true }) ∧
    (x.tdi = .unlocked ∨ x.tdi = .error →
      CompletesTo (.busMasterEnable p false) s (s.dev.setPart p { x with busMaster := false }) ∧
      CompletesTo (.configSpaceWrite p) s s.dev ∧
      CompletesTo (.ideCheckFail p) s (s.dev.setPart p { x with ide := { x.ide with established := false } }) ∧
      (∀ on, (p : Nat) % 4 ≠ 0 →
        CompletesTo (.vfEnable p on) s
          (s.dev.setPart p { x with present := on, busMaster := on && x.busMaster }))) ∧
    (x.tdi = .locked ∨ x.tdi = .run →
      ∀ c ∈ [Instr.busMasterEnable p false, .configSpaceWrite p, .ideCheckFail p],
        ∃ t, exec c s = .next t ∧ t.safety = s.safety ∧ t.pending = s.pending ∧ (t.dev.part p).tdi = .error ∧
          (t.dev.part p).quiesced = true ∧ (t.dev.part p).created = x.created ∧
          (t.dev.part p).busMaster = (if c = .busMasterEnable p false then false else x.busMaster))

/-- KEY_PROG in a secure session stores a 256-bit key and the stream's ranges, KEY_SET_GO puts a programmed key set in
use; LOCK_INTERFACE of a created partition with bus mastership and a secure stream locks the TDI under a fresh nonce,
START_INTERFACE with that nonce runs it; the version, the capabilities, the report and the state are answered. -/
def Obligations.ProtectionCompletes : Prop :=
  ∀ (s : State) (p : Fin 16) (x : Part), s.dev.raised = [] → x = s.dev.part p → s.dev.reach p = true →
    (∀ sub tx (ks : Fin 2) key ranges, (s.dev.port (p / 4)).sessions ≠ [] → key.length = 32 → ranges.length ≤ 4 →
      CompletesTo (.keyProg p sub tx ks key ranges) s
        ((s.dev.setPart p { x with ide := { x.ide with
          keys := putKey x.ide.keys { sub := sub, transmit := tx, keySet := ks, key := key }
          ranges := ranges } }).answerFn p .keyAck)) ∧
    (∀ sub tx (ks : Fin 2), (s.dev.port (p / 4)).sessions ≠ [] →
      (∃ k ∈ x.ide.keys, k.sub = sub ∧ k.transmit = tx ∧ k.keySet = (ks : Nat)) →
      CompletesTo (.keySetGo p sub tx ks) s
        ((s.dev.setPart p { x with ide := x.ide.go sub tx ks }).answerFn p .keyAck)) ∧
    (∃ v, CompletesTo (.getTdispVersion p) s (s.dev.answerFn p (.tdispVersion v))) ∧
    CompletesTo (.getDeviceInterfaceState p) s (s.dev.answerFn p (.tdispState x.tdi.code)) ∧
    (x.tdi ≠ .error →
      CompletesTo (.getTdispCapabilities p) s (s.dev.answerFn p .tdispCapabilities) ∧
      CompletesTo (.getDeviceInterfaceReport p) s
        (s.dev.answerFn p (.tdispReport p (s.dev.pforce p 1 2) 1 barRanges))) ∧
    (x.tdi = .unlocked → x.created = true → x.busMaster = true → x.ide.established = true →
      ∃ nonce, CompletesTo (.lockInterface p) s
        ((({ s.dev with freeCount := s.dev.freeCount + 1 } : Dev).setPart p
          { x with tdi := .locked, lockNonce := some nonce }).answerFn p (.tdispLocked nonce))) ∧
    (∀ nonce, x.tdi = .locked → x.lockNonce = some nonce.toNat →
      CompletesTo (.startInterface p nonce) s ((s.dev.setPart p { x with tdi := .run }).answerFn p .tdispOk))

/-- A requester that a port serves, or one of at most four, is answered: a slot 0 or 1 with a certificate and a signed
challenge, a measurement index 1 to 10 or 0xFF with the signed blocks, a key exchange with a new session; a fifth
requester is answered busy, and an empty slot or a block that does not exist with an error. -/
def Obligations.AttestationCompletes : Prop :=
  ∀ (s : State) (n : Fin 4) (who : Nat) (x : Port) (d : Dev), s.dev.raised = [] → x = s.dev.port n → x.linkUp = true →
    d = (if who ∈ x.requesters then s.dev else s.dev.modPort n (fun y => { y with requesters := y.requesters ++ [who] })) →
    (who ∈ x.requesters ∨ x.requesters.length < 4 →
      (∀ slot, slot < 2 →
        (∃ chain, CompletesTo (.getCertificate n who slot) s (d.answer n who (.certificate chain))) ∧
        (∀ nonce, ∃ sig, CompletesTo (.challenge n who slot nonce) s (d.answer n who (.challengeAuth sig))) ∧
        (∀ data, ∃ key, CompletesTo (.keyExchange n who slot data) s
          ((({ d with freeCount := d.freeCount + 1 } : Dev).modPort n (fun y =>
            { y with sessions := y.sessions ++ [maxNat x.sessions + 1] })).answer n who
              (.keyExchange (maxNat x.sessions + 1) key)))) ∧
      (∀ slot, 2 ≤ slot → ∀ c ∈ [Instr.getCertificate n who slot, .challenge n who slot [], .keyExchange n who slot []],
        CompletesTo c s (d.answer n who .spdmError)) ∧
      (∀ i nonce, (1 ≤ i ∧ i ≤ 10) → ∃ sig, CompletesTo (.getMeasurements n who i nonce) s
        (d.answer n who (.measurements [(i, s.measurement n i)] sig))) ∧
      (∀ nonce, ∃ sig, CompletesTo (.getMeasurements n who 0xFF nonce) s
        (d.answer n who (.measurements ((List.range 10).map (fun i => (i + 1, s.measurement n (i + 1)))) sig))) ∧
      (∀ i nonce, i = 0 ∨ (10 < i ∧ i ≠ 0xFF) →
        CompletesTo (.getMeasurements n who i nonce) s (d.answer n who .spdmError))) ∧
    (who ∉ x.requesters → 4 ≤ x.requesters.length →
      ∀ c ∈ [Instr.getCertificate n who 0, .challenge n who 0 [], .getMeasurements n who 1 [], .keyExchange n who 0 []],
        CompletesTo c s (s.dev.answer n who .spdmBusy))

/-! ### Vectors, notices and the management network -/

/-- Of a function that may write, with its vectors unmasked: a response that advances the response tail raises vector 0,
or, within RSP_HOLDOFF of the last vector 0, leaves it held until the holdoff runs out, which raises it; a notice that
advances the notice tail raises vector 1; a halted command ring raises vector 2; a flare-door action raises vector 3. -/
def Obligations.VectorsAreRaised : Prop :=
  ∀ (s : State) (p : Fin 16) (x : Part), s.dev.raised = [] → x = s.dev.part p → s.dev.reach p = true →
    x.busMaster = true → x.tdi ≠ .error → (∀ v, (tgetD x.msix v {}).masked = false) →
    (∀ r rest, x.outbox = r :: rest → x.rsp.enable = true → r.release = none →
      ahead x.rsp.tail x.rspHead + r.units ≤ x.rsp.capacity 32 →
      ∃ t, exec (.responseWrite p) s = .next t ∧ (t.dev.part p).rsp.tail = (x.rsp.tail + r.units) % 2 ^ 32 ∧
        ((∀ t0, x.lastVector0 = some t0 → t0 + x.holdoff * 1000 ≤ s.dev.now) →
          (t.dev.part p).vectors = modifyNth x.vectors 0 (· + 1) ∧ (t.dev.part p).heldVector0 = false ∧
            (t.dev.part p).lastVector0 = some s.dev.now) ∧
        (∀ t0, x.lastVector0 = some t0 → s.dev.now < t0 + x.holdoff * 1000 →
          (t.dev.part p).vectors = x.vectors ∧ (t.dev.part p).heldVector0 = true ∧
            (t.dev.part p).lastVector0 = x.lastVector0)) ∧
    (x.heldVector0 = true →
      ∃ t, exec (.rspHoldoffExpiry p) s = .next t ∧ (t.dev.part p).vectors = modifyNth x.vectors 0 (· + 1) ∧
        (t.dev.part p).heldVector0 = false) ∧
    (∀ n rest, x.pending = n :: rest → x.ntc.enable = true → ahead x.ntc.tail x.ntcHead < x.ntc.capacity 64 →
      ∃ t, exec (.noticeDelivery (.part p)) s = .next t ∧ (t.dev.part p).ntc.tail = (x.ntc.tail + 1) % 2 ^ 32 ∧
        (t.dev.part p).vectors = modifyNth x.vectors 1 (· + 1)) ∧
    (∀ urgent h, s.dev.mayFetch p urgent = true →
      ∃ t, exec (.packetFetch p urgent (.readError h)) s = .next t ∧
        ((t.dev.part p).cmdRing urgent).halted = true ∧ (t.dev.part p).vectors = modifyNth x.vectors 2 (· + 1)) ∧
    ((∀ q, (s.dev.part q).flareBuffer = [] ∧ (s.dev.part q).overflowMark = false) →
      ∃ t, exec (.quiesce p { width := 64, arm := 0x464C4152, pairBusy := false }) s = .next t ∧
        (t.dev.part p).quiesced = true ∧ (t.dev.part p).vectors = modifyNth x.vectors 3 (· + 1))

/-- The first pending notice of a partition goes to the next free entry of its ring under the next SEQ, with PHASE
turned at the ring's end; a credential's pending notices go to every session of it open on a usable network, 18 entries
to a message, and stay until they are acknowledged, when a resend sends them again. -/
def Obligations.NoticesAreDelivered : Prop :=
  (∀ (s : State) (p : Fin 16) (x : Part) (n : Notice) (rest : List Notice), s.dev.raised = [] → x = s.dev.part p →
    s.dev.masters p = true → x.pending = n :: rest → x.ntc.enable = true →
    ahead x.ntc.tail x.ntcHead < x.ntc.capacity 64 →
    ∃ t, exec (.noticeDelivery (.part p)) s = .next t ∧ t.mem = s.mem ∧ t.safety = s.safety ∧
      (t.dev.part p).ntcEntries = x.ntcEntries ++ [(x.ntcSeq, n)] ∧ (t.dev.part p).ntcSeq = (x.ntcSeq + 1) % 2 ^ 32 ∧
      (t.dev.part p).ntc = { x.ntc with tail := (x.ntc.tail + 1) % 2 ^ 32 } ∧
      (t.dev.part p).ntcPhase =
        if (x.ntc.tail + 1) % 2 ^ 32 % x.ntc.capacity 64 = 0 then !x.ntcPhase else x.ntcPhase) ∧
  (∀ (s : State) (c : Fin 8) (x : Cred) (l : List (Nat × Notice)), s.dev.raised = [] → x = s.dev.cred c →
    s.dev.netUp = true → s.dev.sessionsOf c ≠ [] →
    (x.pending ≠ [] → l = (List.range x.pending.length).zipWith (fun i n => ((x.nextSeq + i) % 2 ^ 32, n)) x.pending →
      ∃ t, exec (.noticeDelivery (.cred c)) s = .next t ∧ t.mem = s.mem ∧ t.safety = s.safety ∧
        (t.dev.cred c).sent = x.sent ++ l ∧ (t.dev.cred c).nextSeq = (x.nextSeq + l.length) % 2 ^ 32 ∧
        t.dev.mgmt.sentMessages = s.dev.mgmt.sentMessages ++ (s.dev.sessionsOf c).flatMap (fun y =>
          (pieces 18 l).map (fun g => (y, lopMessage 4 0 (g.flatMap (fun z => z.2.entry false z.1)))))) ∧
    (∃ t, exec (.noticeResend c) s = .next t ∧ t.mem = s.mem ∧ t.safety = s.safety ∧ (t.dev.cred c).sent = x.sent ∧
      t.dev.mgmt.sentMessages = s.dev.mgmt.sentMessages ++ (s.dev.sessionsOf c).flatMap (fun y =>
        (pieces 18 x.sent).map (fun g => (y, lopMessage 4 0 (g.flatMap (fun z => z.2.entry false z.1)))))))

/-- On a usable network an accepted handshake with an enrolled key opens a session while fewer than 16 are open and fewer
than 4 of the credential; a refused one, one with a key that no slot holds and one too many get an alert and open none;
the idle timeout closes its session once 60 s have passed. -/
def Obligations.SessionsComplete : Prop :=
  ∀ (s : State), s.dev.raised = [] → s.dev.netUp = true →
    (∀ (h : DtlsHello) (c : Nat), h.accepted = true → h.refusedFeature = false → s.dev.credOf h.keyHash = some c →
      s.dev.mgmt.sessions.length < 16 → (s.dev.sessionsOf c).length < 4 →
      CompletesTo (.dtlsHandshake h) s { s.dev with mgmt := { s.dev.mgmt with
        sessions := tset s.dev.mgmt.sessions s.dev.mgmt.nextSession { cred := c, lastRecord := s.dev.now }
        nextSession := s.dev.mgmt.nextSession + 1 } }) ∧
    (∀ (h : DtlsHello), h.accepted = false ∨ h.refusedFeature = true ∨ s.dev.credOf h.keyHash = none ∨
        (∃ c, s.dev.credOf h.keyHash = some c ∧
          (16 ≤ s.dev.mgmt.sessions.length ∨ 4 ≤ (s.dev.sessionsOf c).length)) →
      CompletesTo (.dtlsHandshake h) s
        { s.dev with mgmt := { s.dev.mgmt with alerts := s.dev.mgmt.alerts + 1 } }) ∧
    (∀ (n : Nat) (x : Session), tget s.dev.mgmt.sessions n = some x →
      CompletesTo (.sessionIdleTimeout n) s
        { s.dev with now := max s.dev.now (x.lastRecord + 60000000000)
                     mgmt := { s.dev.mgmt with sessions := terase s.dev.mgmt.sessions n } })

/-- ICMPv6 echo and neighbour discovery of the device's own address on a LAN that is up are answered on both ports, a PRP
supervision frame counts, PDELAY_REQ is answered on its LAN; a LAN lost or restored is noted once with an ALARM notice. -/
def Obligations.LansComplete : Prop :=
  ∀ (s : State) (l : Lan), s.dev.raised = [] →
    (s.dev.mgmt.down = false → l ∉ s.dev.mgmt.lost →
      (∀ data, CompletesTo (.icmpv6Echo l data) s { s.dev with mgmt := { s.dev.mgmt with
        frames := s.dev.mgmt.frames ++ [(.a, 129 :: data), (.b, 129 :: data)] } }) ∧
      (∃ frame, CompletesTo (.neighbourDiscovery l linkLocal) s { s.dev with mgmt := { s.dev.mgmt with
        frames := s.dev.mgmt.frames ++ [(.a, 136 :: linkLocal ++ frame), (.b, 136 :: linkLocal ++ frame)] } }) ∧
      (∀ target, target ≠ linkLocal → CompletesTo (.neighbourDiscovery l target) s s.dev)) ∧
    (∀ q, CompletesTo (.pdelayReq l q) s { s.dev with mgmt := { s.dev.mgmt with
      frames := s.dev.mgmt.frames ++ [(l, 3 :: toLe 2 q)] } }) ∧
    CompletesTo .prpSupervision s
      { s.dev with mgmt := { s.dev.mgmt with supervision := s.dev.mgmt.supervision + 1 } } ∧
    (l ∉ s.dev.mgmt.lost →
      (∃ t, exec (.lanLost l) s = .next t ∧ t.mem = s.mem ∧ t.safety = s.safety ∧
        t.dev.mgmt.lost = s.dev.mgmt.lost ++ [l] ∧ t.dev.mgmt.frames = s.dev.mgmt.frames) ∧
      CompletesTo (.lanRestored l) s s.dev) ∧
    (l ∈ s.dev.mgmt.lost →
      (∃ t, exec (.lanRestored l) s = .next t ∧ t.mem = s.mem ∧ t.safety = s.safety ∧
        t.dev.mgmt.lost = s.dev.mgmt.lost.filter (fun y => decide (y ≠ l)) ∧
        t.dev.mgmt.frames = s.dev.mgmt.frames) ∧
      CompletesTo (.lanLost l) s s.dev)

/-- While main power is present each read of the SMBus port puts its value in the port; an enrolment stores the
fingerprint in slot 1 with every right when no slot holds one and the monotonic counter can count, and reads 1 at
0x0C without storing it otherwise; without main power nothing changes. -/
def Obligations.SmbusCompletes : Prop :=
  ∀ (s : State) (put : Bytes → Dev), s.dev.raised = [] →
    put = (fun b => if s.dev.start.powered then { s.dev with smbus := { s.dev.smbus with data := b } } else s.dev) →
    CompletesTo .smbusPartNumber s (put (fitTo 16 (s.textOf 0x1000 2))) ∧
    CompletesTo .smbusSerialNumber s (put (s.textOf 0x1000 3)) ∧
    CompletesTo .smbusStartState s (put (toLe 1 s.dev.start.status)) ∧
    CompletesTo .smbusFailedStep s (put (toLe 1 s.dev.start.failedStep)) ∧
    CompletesTo .smbusInputPower s (put (toLe 2 (Config.inputPower s.dev.now).toNat)) ∧
    CompletesTo .smbusCoolantInlet s (put (toLe 2 (twos 16 (tgetD s.dev.power.sensors (Sensor.sub .inlet) 0 / 10)))) ∧
    CompletesTo .smbusAlarmCauses s (put (toLe 1 s.dev.backup.alarms)) ∧
    CompletesTo .smbusEnrolResult s (put (toLe 1 s.dev.smbus.enrolResult)) ∧
    (∀ f : Bytes, f.length = 32 → s.dev.start.powered = true →
      ((∀ c < 8, (s.dev.cred c).fingerprint = none) → s.dev.monotonicFull = false →
        ∃ t, exec (.smbusEnrol f) s = .next t ∧ t.mem = s.mem ∧ t.safety = s.safety ∧
          (t.dev.cred 0).fingerprint = some f ∧ t.dev.rights 0 = 0x00FF ∧ t.dev.smbus.enrolResult = 0) ∧
      ((∃ c < 8, (s.dev.cred c).fingerprint ≠ none) ∨ s.dev.monotonicFull = true →
        CompletesTo (.smbusEnrol f) s { s.dev with smbus := { s.dev.smbus with enrolResult := 1 } })) ∧
    (∀ f : Bytes, s.dev.start.powered = false → CompletesTo (.smbusEnrol f) s s.dev)

/-- MGMT_OD_READ of an object that is no read-and-clear alias answers its entries from OFFSET on; MGMT_OD_WRITE carries
out its entries in order and answers their reports; KEEPALIVE answers OK; NOTICE_ACK with READ drops every sent copy at or
before its SEQ; CREDENTIAL_SET with ADMIN stores or clears a slot's fingerprint, counts the monotonic counter, and closes
the slot's sessions. Each goes on from the state `u` in which the session's last record is this one. -/
def Obligations.ManagementRequestsComplete : Prop :=
  ∀ (s : State) (n : Nat) (m pl : Bytes) (x : Session) (u : State) (req : Nat),
    u = s.stamped n x → pl = m.drop 16 → req = (LopHeader.of m).reqId →
    (Asked s n 1 m x → pl.length = 8 → field (leAt pl 0 8) 31 25 = 0 →
      isAlias (field (leAt pl 0 8) 15 0) (field (leAt pl 0 8) 23 16) = false →
      ∃ t, exec (.mgmtOdRead n m) s = .next t ∧ Becomes u (u.dev.reply n req (lopReplies 1 req 0
        ((if bit (leAt pl 0 8) 24 = true ∨ field (leAt pl 0 8) 23 16 = 0
          then u.readWhole (.cred (slotOf x.cred)) (field (leAt pl 0 8) 15 0)
          else u.readEntry (.cred (slotOf x.cred)) (field (leAt pl 0 8) 15 0) (field (leAt pl 0 8) 23 16)).drop
            (field (leAt pl 0 8) 63 32)))) t) ∧
    (∀ es r, Asked s n 2 m x → entriesOf pl = (es, none) → r = u.writeEntries (.cred (slotOf x.cred)) es →
      ∃ t, exec (.mgmtOdWrite n m) s = .next t ∧
        Becomes r.1 (r.1.dev.reply n req (lopReplies 2 req 0 (reportBytes es r.2))) t) ∧
    (Asked s n 8 m x → pl = [] →
      ∃ t, exec (.keepalive n m) s = .next t ∧ Becomes u (u.dev.reply n req [lopReply 8 req false 0 []]) t) ∧
    (Asked s n 5 m x → u.dev.hasRight x.cred 0 = true → pl.length = 4 →
      ∃ t, exec (.noticeAck n m) s = .next t ∧
        Becomes u ((u.dev.modCred x.cred (fun y => { y with
          sent := y.sent.filter (fun q => decide (2 ^ 31 ≤ (leNat pl + 2 ^ 32 - q.1) % 2 ^ 32)) })).reply n req
            [lopReply 5 req false 0 []]) t) ∧
    (∀ slot clear d, Asked s n 6 m x → u.dev.hasRight x.cred 5 = true → u.dev.monotonicFull = false → pl.length = 36 →
      slot = field (leAt pl 0 4) 3 0 → clear = bit (leAt pl 0 4) 4 → field (leAt pl 0 4) 31 5 = 0 → 1 ≤ slot →
      slot ≤ 8 → (clear = true → u.dev.adminElse (slot - 1) = true) →
      d = (({ u.dev.modCred (slot - 1) (fun y => { y with
          fingerprint := if clear then none else some (pl.drop 4) }) with
        backup := { u.dev.backup with monotonic := min (u.dev.backup.monotonic + 1) (2 ^ 64 - 1) } } : Dev).reply n req
          [lopReply 6 req false 0 []]) →
      ∃ t, exec (.credentialSet n m) s = .next t ∧
        Becomes u { d with mgmt := { d.mgmt with
          sessions := (d.sessionsOf (slot - 1)).foldl terase d.mgmt.sessions } } t)

/-- An ACTION of a credential with WRITE for a created partition: QUIESCE quiesces it, ABORT_JOB of a live job of it
without a decided round leaves that job live no longer, DROP_QUEUE moves each command ring's HEAD to its tail, each sets
LAST, adds 1 to TAKEN and is answered OK; RELEASE waits for the next tick boundary, where it is answered. -/
def Obligations.ManagementActionsComplete : Prop :=
  ∀ (s : State) (n : Nat) (m : Bytes) (x : Session) (w p : Nat) (y : Part), Asked s n 3 m x →
    s.dev.hasRight x.cred 1 = true → m.length = 24 → w = leAt (m.drop 16) 0 8 → p = field w 3 0 → field w 7 4 = 0 →
    field w 15 12 = 0 → field w 63 40 = 0 → y = s.dev.part p → y.created = true →
    (field w 11 8 = 1 → ∃ t, exec (.mgmtQuiesce n m) s = .next t ∧ t.safety = s.safety ∧
      (t.dev.part p).quiesced = true ∧ (t.dev.part p).flareLast = 1 ∧
      (t.dev.part p).flareTaken = (y.flareTaken + 1) % 65536 ∧
      t.dev.mgmt.sentMessages = s.dev.mgmt.sentMessages ++ [(n, lopReply 3 (LopHeader.of m).reqId false 0 [])]) ∧
    (∀ j, field w 11 8 = 2 → s.dev.liveJob (field w 39 16) = some j → j.part = p →
      (∀ r, j.round = some r → r.decided = false) →
      ∃ t, exec (.mgmtAbortJob n m) s = .next t ∧ t.safety = s.safety ∧ t.dev.liveJob (field w 39 16) = none ∧
        (t.dev.part p).flareLast = 2 ∧ (t.dev.part p).flareTaken = (y.flareTaken + 1) % 65536 ∧
        t.dev.mgmt.sentMessages = s.dev.mgmt.sentMessages ++ [(n, lopReply 3 (LopHeader.of m).reqId false 0 [])]) ∧
    (field w 11 8 = 3 → ∃ t, exec (.mgmtDropQueue n m) s = .next t ∧ t.safety = s.safety ∧
      (t.dev.part p).normal.head = y.cmdTail ∧ (t.dev.part p).urgent.head = y.urgTail ∧
      (t.dev.part p).expectSeq = [none, none] ∧ (t.dev.part p).flareLast = 3 ∧
      (t.dev.part p).flareTaken = (y.flareTaken + 1) % 65536 ∧
      t.dev.mgmt.sentMessages = s.dev.mgmt.sentMessages ++ [(n, lopReply 3 (LopHeader.of m).reqId false 0 [])]) ∧
    (field w 11 8 = 4 → ∃ t, exec (.mgmtRelease n m) s = .next t ∧ t.mem = s.mem ∧ t.safety = s.safety ∧
      (t.dev.part p).releasePending = true ∧
      (t.dev.part p).releaseReplies = y.releaseReplies ++ [(n, (LopHeader.of m).reqId)] ∧
      (t.dev.part p).quiesced = y.quiesced ∧ t.dev.mgmt.sentMessages = s.dev.mgmt.sentMessages)

/-- An INSPECT request of a credential with INSPECT answers the records of its OP from the first, up to one that belongs
to another partition or lies beyond the end, which ends it REJECTED_FORMAT, and changes no state but the session's;
HEADERS starts the copying of the partition's headers for its duration. -/
def Obligations.InspectionsComplete : Prop :=
  ∀ (s : State) (n : Nat) (m : Bytes) (x : Session) (w req : Nat) (u : State), Asked s n 7 m x →
    u = s.stamped n x → req = (LopHeader.of m).reqId → u.dev.hasRight x.cred 3 = true → m.length = 32 →
    w = leAt (m.drop 16) 0 16 → field w 15 12 = 0 →
    (∀ (c : Instr) (op : Nat) (r : List Bytes × Bool), (c, op) ∈ [(Instr.inspectPageFrame n m, 1),
        (.inspectPageList n m, 2), (.inspectStreamEntry n m, 3), (.inspectStateDesc n m, 4), (.inspectLines n m, 5),
        (.inspectObject n m, 6)] → field w 7 0 = op → field w 31 16 ≠ 0 → u.dev.repairs = [] →
      r = u.inspectRecords op (field w 11 8) (field w 95 32) (field w 127 96) (field w 31 16) 0 →
      ∃ t, exec c s = .next t ∧ Becomes u (u.dev.reply n req (lopReplies 7 req
        (if r.2 then 0 else Code.rejectedFormat.toNat) r.1.flatten)) t) ∧
    (field w 7 0 = 7 → 1 ≤ field w 127 96 → field w 127 96 ≤ 10000 →
      ∃ t, exec (.inspectHeaders n m) s = .next t ∧
        Becomes u { u.dev with mgmt := { u.dev.mgmt with
          sessions := tset u.dev.mgmt.sessions n { x with
            lastRecord := s.dev.now
            headersUntil := some (field w 11 8, s.dev.now + field w 127 96 * 1000000, req) } } } t)

/-! ### Causes and the safe state -/

/-- A lost clock, a supply out of its window, a control pair that mismatches, a first fabric link that fails, a reading
at the trip level, a failed FAULT_N driver test and a mismatch of the fault line each enter SAFE with the cause's bit, stop
every unit that runs, and leave the memories; a driver test that passes and a reading below every level raise nothing. -/
def Obligations.CausesEnterSafe : Prop :=
  ∀ s : State, s.dev.raised = [] →
    (∀ k, ∃ t, exec (.clockLoss k) s = .next t ∧ Entered s 3 t) ∧
    (∀ r, ∃ t, exec (.supplyOutOfRange r) s = .next t ∧ Entered s 4 t) ∧
    (∀ r, ∃ t, exec (.faultLineMismatch r) s = .next t ∧ Entered s 10 t) ∧
    (∀ (r : Fin 6) l, (s.dev.region r).outOfService = false → (s.dev.region r).linksFailed = [] →
      ∃ t, exec (.fabricLinkFailure r l) s = .next t ∧ Entered s 7 t) ∧
    (∀ r : Fin 6, (s.dev.region r).outOfService = false → (s.dev.region r).pair0Fenced = false →
      (s.dev.region r).pair1Fenced = false →
      ∃ t, exec (.lockstepMismatch (.region r 0)) s = .next t ∧ Entered s 2 t) ∧
    (100 ∉ s.dev.support.pairs → ∃ t, exec (.lockstepMismatch .scheduling) s = .next t ∧ Entered s 2 t) ∧
    (101 ∉ s.dev.support.pairs → ∃ t, exec (.lockstepMismatch .management) s = .next t ∧ Entered s 2 t) ∧
    (∀ x v, s.dev.start.powered = true → atTrip (Sensor.sub x) v 0 = true → atShutdown (Sensor.sub x) v = false →
      Sensor.sub x ∉ s.dev.support.hot → ∃ t, exec (.temperatureReading x v) s = .next t ∧ Entered s 5 t) ∧
    (s.safety.safe = false → s.dev.ready = true →
      (∀ a b, (a && b) = false → ∃ t, exec (.faultNDriverTest a b) s = .next t ∧ Entered s 10 t) ∧
      ∀ n, n = max s.dev.now (max s.dev.driverTest s.dev.start.patternsAt + 604800000000000) →
        CompletesTo (.faultNDriverTest true true) s { s.dev with now := n, driverTest := n })

/-- CAUSE_CLEAR of a cause whose condition holds clears its bit and leaves the state SAFE until a release; a takeover or a
chip pair's restart that completes gives its pair up and clears cause 2 when it was the last; LEAVE_SAFE_STATE of a
credential with the right asks for the release when no cause is present. -/
def Obligations.CausesClear : Prop :=
  ∀ s : State, s.dev.raised = [] →
    (∀ c : Fin 11, s.dev.mayClearCause c = true →
      ∃ t, exec (.causeClear c) s = .next t ∧ t.mem = s.mem ∧ NoticesOnly (s.dev.forgetCause c) t.dev ∧
        t.safety = { s.safety with
          causes := if bit s.safety.causes c then s.safety.causes - 2 ^ (c : Nat) else s.safety.causes }) ∧
    (∀ r : Fin 6, (s.dev.region r).takeover = true → s.dev.support.pairs = [(r : Nat)] →
      ∃ t, exec (.pairTakeoverComplete r) s = .next t ∧ t.mem = s.mem ∧ (t.dev.region r).takeover = false ∧
        t.dev.support.pairs = [] ∧ t.safety = { s.safety with
          causes := if bit s.safety.causes 2 then s.safety.causes - 4 else s.safety.causes }) ∧
    (∀ (m : Bool) obs, s.dev.support.pairs = [if m then 101 else 100] →
      ∃ t, exec (.chipPairRestartComplete m true obs) s = .next t ∧ t.mem = s.mem ∧ t.dev.support.pairs = [] ∧
        t.dev.mgmt.down = (s.dev.mgmt.down && !m) ∧ t.safety = { s.safety with
          causes := if bit s.safety.causes 2 then s.safety.causes - 4 else s.safety.causes }) ∧
    (∀ c : Fin 8, s.dev.fullManagement = true → s.dev.hasRight c 4 = true → s.safety.causes = 0 →
      ∃ t, exec (.leaveSafeState (.cred c)) s = .next t ∧ t.mem = s.mem ∧
        NoticesOnly { s.dev with lastReport := 0 } t.dev ∧ t.safety = { s.safety with release := s.safety.safe })

/-- The loss of a region in service, a region clock that does not relock, and the second link of a region's fabric port
that fails take the region out of service with its two stacks, stop its sorter and drain nothing more; the clock's cause
clears when no other clock is lost. -/
def Obligations.RegionsAreLost : Prop :=
  ∀ (s : State) (r : Fin 6) (l0 l1 : Fin 2), s.dev.raised = [] → (s.dev.region r).outOfService = false → l0 ≠ l1 →
    ∀ (c : Instr) (clear : Bool), (c, clear) ∈ [(Instr.regionLoss r, false)] ++
        (if (s.dev.region r).linksFailed = [(l0 : Nat)] then [(.fabricLinkFailure r l1, false)] else []) ++
        (if s.dev.support.clocks = [.region r] then [(.clockRelockTimeout r, true)] else []) →
      ∃ t, exec c s = .next t ∧ (t.dev.region r).outOfService = true ∧ (t.dev.region r).draining = false ∧
        (t.dev.region r).takeover = false ∧ (t.dev.region r).sorter = {} ∧ (t.dev.region r).wcb = [] ∧
        (t.dev.stack (2 * r)).outOfService = true ∧ (t.dev.stack (2 * r + 1)).outOfService = true ∧
        t.safety = (if clear then { s.safety with
          causes := if bit s.safety.causes 3 then s.safety.causes - 8 else s.safety.causes } else s.safety)

/-- A corrected error of a cell or an engine in service adds 1 to its counter and changes nothing else; any other fault
of a cell, of its block or of an engine fences it; a sorter that runs a job and whose networks disagree is fenced. -/
def Obligations.UnitsReport : Prop :=
  ∀ s : State, s.dev.raised = [] →
    (∀ n : Fin 384, s.dev.cellUp n = true →
      CompletesTo (.cellFault n .corrected) s (s.dev.count (0x7020 + n / 64) (n % 64 + 1) 1) ∧
      (∀ k ∈ [CellFaultKind.storeMultiBit, .feederParity, .checksumCopies],
        ∃ t, exec (.cellFault n k) s = .next t ∧ (t.dev.cell n).fenced = true) ∧
      (∀ k ∈ [CellFaultKind.scratchMultiBit, .dmaParity, .comparatorFault],
        ∃ t, exec (.cellFault n k) s = .next t ∧ ∀ m : Fin 384, (m : Nat) / 8 = n / 8 → (t.dev.cell m).fenced = true)) ∧
    (∀ (k : Fin 12) (e : Fin 16), s.dev.engineUp (k * 16 + e) = true →
      CompletesTo (.engineFault k e .corrected) s
        (s.dev.count (0x7030 + (k * 16 + e) / 16) ((k * 16 + e) % 16 + 1) 1) ∧
      (∀ f ∈ [EngineFaultKind.bufferMultiBit, .checksumCopies],
        ∃ t, exec (.engineFault k e f) s = .next t ∧ (t.dev.engine (k * 16 + e)).fenced = true)) ∧
    (∀ r : Fin 6, (s.dev.region r).sorter.job.isSome = true → (s.dev.region r).sorter.fenced = false →
      ∃ t, exec (.sorterDisagreement r) s = .next t ∧ (t.dev.region r).sorter = { fenced := true })

/-! ### Forms of every family that complete -/

/-- A write of an object of the dictionary that a requester may write, of its type and within its encoding, stores the
value fitted to the object's range and reports it; a write of sub-index 0, of an alias or of a read-only object, or
without the right, is reported as refused; one of an absent object is reported as such; a watermark slot takes its
window and lowers its low value to it. An object whose write is a command of its own is not of this form. -/
def Obligations.ObjectWritesComplete : Prop :=
  ∀ (s : State) (who : Requester), s.dev.raised = [] →
    (∀ (idx sub : Nat) (v : Bytes) (i : ObjInfo) (f : Nat × Nat), indexExists idx = true → inPartArea idx = false →
      subIn idx 0x7100 32 = false → idx ≠ 0x8000 → idx ≠ 0x9010 →
      (idx, sub) ∉ [(0x1100, 0x01), (0x1100, 0x10), (0x1100, 0x15), (0x1100, 0x16), (0x2000, 1), (0x2000, 2), (0x2000, 6),
        (0x2000, 8), (0x5001, 3), (0x5002, 1), (0x5010, 1), (0x5021, 1), (0x6000, 4), (0x6003, 1), (0x9001, 3)] →
      sub ≠ 0 → isAlias idx sub = false → objInfo idx sub = some i → s.dev.mayWrite who false idx sub = true →
      i.acc ≠ .ro → i.ty ≠ .str → i.ty ≠ .blob → i.kind = .notCounter →
      i.wellTyped { idx := idx, sub := sub, type := i.ty.code, status := 0, value := v } = true →
      s.permits false idx sub (leNat v) v = true →
      f = fitValue (s.dev.rangeOf idx sub i).1 (s.dev.rangeOf idx sub i).2 i.step (leNat v) →
      CompletesTo (.objectWrite who idx sub i.ty.code v) s { s.dev.setConf idx sub f.1 with lastReport := f.2 }) ∧
    (∀ (idx sub type : Nat) (v : Bytes), indexExists idx = true → s.dev.absent idx sub = false →
      (sub = 0 ∨ isAlias idx sub = true ∨
        (∃ i, objInfo idx sub = some i ∧ (i.acc = .ro ∨ s.dev.mayWrite who false idx sub = false))) →
      CompletesTo (.objectWrite who idx sub type v) s { s.dev with lastReport := rAccess }) ∧
    (∀ (idx sub type : Nat) (v : Bytes), indexExists idx = false ∨ s.dev.absent idx sub = true →
      CompletesTo (.objectWrite who idx sub type v) s { s.dev with lastReport := rType }) ∧
    (∀ (n v : Nat), n < 32 → v < 2 ^ 64 → s.dev.mayWrite who false (0x7100 + n) 2 = true →
      CompletesTo (.watermarkSlotWrite who (0x7100 + n) 2 Ty.u64.code (toLe 8 v)) s
        { (s.dev.setConf (0x7100 + n) 2 v).setConf (0x7100 + n) 3
            (min v ((s.dev.setConf (0x7100 + n) 2 v).confAt (0x7100 + n) 3)) with lastReport := rAccepted })

/-- STORE and REBASE put the configuration in force on its way into a copy with the next generation or epoch, DEFAULTS
writes every default; a copy that is durable is in force and the other is kept, one that did not read back is
reported (assumption 64); FIRMWARE begins, takes a chunk at the offset received so far, cancels, and commits a good
image into the bank not in force under the next value of the monotonic counter, or reports a bad one. -/
def Obligations.StoreAndFirmwareComplete : Prop :=
  ∀ (s : State) (who : Requester), s.dev.raised = [] →
    (s.dev.mayWrite who false 0x1100 0x01 = true → s.dev.storeBusy = false →
      (s.dev.storeExhausted false = false → s.dev.stratus.state ≠ 2 →
        CompletesTo (.configStore who) s { s.dev with
          store := { s.dev.store with
            result := 1, writing := some (s.dev.snapshot (s.dev.store.generation + 1) s.dev.store.epoch) }
          lastReport := rAccepted }) ∧
      (s.dev.storeExhausted true = false → s.dev.stratus.state ≠ 2 →
        CompletesTo (.rebase who) s { s.dev with
          store := { s.dev.store with result := 1, writing := some (s.dev.snapshot 1 (s.dev.store.epoch + 1)) }
          lastReport := rAccepted }) ∧
      (∀ r, r = s.writeAll who false (defaultKeys.map (fun k =>
          entryFor k.1 k.2 (((objInfo k.1 k.2).map ObjInfo.dflt).getD 0))) →
        ∃ t, exec (.defaults who) s = .next t ∧
          Becomes r.1 { r.1.dev.setReport defaultKeys r.2 with
            store := { (r.1.dev.setReport defaultKeys r.2).store with result := 2 }, lastReport := rAccepted } t)) ∧
    (∀ c, s.dev.store.writing = some c → s.dev.boundedReads = false →
      CompletesTo (.configStoreDurable false) s
        { s.dev with store := { s.dev.store with result := 4, writing := none } } ∧
      ∃ t, exec (.configStoreDurable true) s = .next t ∧ t.mem = s.mem ∧ t.safety = s.safety ∧
        t.dev.store.generation = c.generation ∧ t.dev.store.epoch = c.epoch ∧ t.dev.store.result = 2 ∧
        t.dev.store.writing = none ∧
        (s.dev.store.inForce = 1 → t.dev.store.inForce = 2 ∧ t.dev.store.copyB = some c ∧
          t.dev.store.copyA = s.dev.store.copyA) ∧
        (s.dev.store.inForce ≠ 1 → t.dev.store.inForce = 1 ∧ t.dev.store.copyA = some c ∧
          t.dev.store.copyB = s.dev.store.copyB)) ∧
    (s.dev.mayWrite who false 0x1100 0x16 = true →
      (s.dev.backup.alarmPending = false →
        CompletesTo (.firmwareBegin who) s { s.dev with
          start := { s.dev.start with install := 1, received := [], staged := none, stagedVersion := 0 }
          lastReport := rAccepted }) ∧
      CompletesTo (.firmwareCancel who) s { s.dev with
        start := { s.dev.start with install := 0, received := [], staged := none, stagedVersion := 0 }
        lastReport := rAccepted } ∧
      (s.dev.backup.alarmPending = false → s.dev.start.install = 1 → s.dev.monotonicFull = false →
        (s.dev.imageOk = false →
          CompletesTo (.firmwareCommit who) s { s.dev with
            start := { s.dev.start with install := 4 }, lastReport := rAccepted }) ∧
        (s.dev.imageOk = true → ∃ t, exec (.firmwareCommit who) s = .next t ∧ t.mem = s.mem ∧ t.safety = s.safety ∧
          t.dev.start.install = 3 ∧ t.dev.start.staged = some (if s.dev.start.bank = 0 then 1 else 0) ∧
          t.dev.start.stagedVersion = (Config.imageVersion s.dev.start.received).toNat ∧
          t.dev.backup.monotonic = min (s.dev.backup.monotonic + 1) (2 ^ 64 - 1) ∧
          (s.dev.start.bank = 0 → t.dev.start.bankA = s.dev.start.bankA) ∧
          (s.dev.start.bank = 1 → t.dev.start.bankB = s.dev.start.bankB)))) ∧
    (∀ v : Bytes, s.dev.mayWrite who false 0x1100 0x15 = true → s.dev.backup.alarmPending = false → s.dev.start.install = 1 →
      8 ≤ v.length → v.length ≤ 1032 → leAt v 0 8 = s.dev.start.received.length →
      CompletesTo (.firmwareChunk who v) s { s.dev with
        start := { s.dev.start with received := s.dev.start.received ++ v.drop 8 }, lastReport := rAccepted })

/-- The TAI second under PPS, the power cap, the function of a SKY pin, the opening of the safety lock with its expiry
after 10 minutes, the acknowledgement of an alarm with its cause gone, and a read with clearing of a counter take
the effects the dictionary gives them. -/
def Obligations.CommandObjectsComplete : Prop :=
  ∀ (s : State) (who : Requester), s.dev.raised = [] →
    (∀ sec : BitVec 64, s.dev.mayWrite who false 0x2000 8 = true → s.dev.source = 2 →
      CompletesTo (.taiSecondWrite who sec) s { s.dev with
        time := { s.dev.time with pendingSecond := some (sec.toNat, s.dev.now) }, lastReport := rAccepted }) ∧
    (∀ w : BitVec 16, s.dev.mayWrite who false 0x6003 1 = true → 750 ≤ w.toNat → w.toNat ≤ 1500 → w.toNat % 25 = 0 →
      CompletesTo (.powerCapWrite who w) s { s.dev.setConf 0x6003 1 w.toNat with
        tick := if w.toNat = s.dev.confAt 0x6003 1 then s.dev.tick else { s.dev.tick with capWritten := some s.dev.now }
        lastReport := rAccepted }) ∧
    (∀ (n : Fin 8) (f : BitVec 8), s.dev.mayWrite who false 0x8000 (n + 1) = true → f.toNat ≤ 7 →
      f.toNat ≠ s.dev.confAt 0x8000 (n + 1) →
      s.dev.lockOpened.isSome = true ∨ (f.toNat ≠ 7 ∧ s.dev.confAt 0x8000 (n + 1) ≠ 7) →
      ((s.dev.pin n).changing = none → (s.dev.pin n).function ≠ 7 → (s.dev.setConf 0x8000 (n + 1) f.toNat).pinFeeds n = false →
        CompletesTo (.skyPinFunctionWrite who n f) s
          { (s.dev.setConf 0x8000 (n + 1) f.toNat).modPin n (fun x => { x with changing := some (f.toNat, s.dev.now) }) with
            lastReport := rAccepted }) ∧
      ((s.dev.pin n).changing.isSome = true →
        CompletesTo (.skyPinFunctionWrite who n f) s
          { (s.dev.setConf 0x8000 (n + 1) f.toNat).modPin n (fun x => { x with queued := x.queued ++ [f.toNat] }) with
            lastReport := rAccepted })) ∧
    (s.dev.mayWrite who false 0x5002 1 = true →
      CompletesTo (.safetyLockOpen who) s { s.dev with
        lockOpened := if s.dev.lockOpened.isSome then s.dev.lockOpened else some s.dev.now, lastReport := rAccepted }) ∧
    (∀ t, s.dev.lockOpened = some t →
      CompletesTo .safetyLockExpire s { s.dev with now := max s.dev.now (t + 600000000000), lockOpened := none }) ∧
    (∀ closed good : Bool, s.dev.mayWrite who false 0x9001 3 = true → s.dev.backup.meshBroken = false →
      (s.dev.backup.switchOpen && !closed) = false → (s.dev.backup.cellLow && !good) = false →
      (s.dev.start.status ≠ 3 →
        CompletesTo (.alarmAcknowledge who closed good) s { s.dev with
          backup := { s.dev.backup with switchOpen := false, cellLow := false, alarmPending := false, alarms := 0 }
          lastReport := rAccepted }) ∧
      (s.dev.start.status = 3 → s.dev.start.failed = false →
        ∃ t, exec (.alarmAcknowledge who closed good) s = .next t ∧ t.mem = s.mem ∧ t.dev.ready = true ∧
          t.dev.backup.alarmPending = false ∧ t.dev.backup.alarms = 0 ∧ t.dev.force = s.dev.conf)) ∧
    (∀ (idx sub : Nat) (i : ObjInfo), inPartArea idx = false → objInfo idx sub = some i → i.kind = .event ∨ i.kind = .accum →
      sub < 0x80 → s.dev.mayClear who idx = true → i.acc ≠ .wo → s.dev.mayRead who idx = true →
      i.ty ≠ .str → i.ty ≠ .blob →
      CompletesTo (.readAndClear who idx (sub + 0x80)) s { s.dev with
        counters := tset s.dev.counters (objKey idx sub) 0
        lastValue := some (objKey idx (sub + 0x80),
          readEntryBytes idx (sub + 0x80) i.ty.code 0 (toLe i.ty.width (s.number who idx sub))) })

/-- A partition is created with its block cleared (assumption 55) or deleted once it holds nothing, to take effect at a
boundary; a field test is queued in the region of its unit, from management or from a host whose grants allow it,
and refused NOT_OWNER else; a planned removal is queued once; a re-plan is triggered; a reset begins its orderly
window, with Stratus checkpointed. -/
def Obligations.UnitCommandsComplete : Prop :=
  ∀ (s : State) (who : Requester), s.dev.raised = [] →
    (∀ p : Fin 16, s.dev.mayWrite who false (partIndex p 0) 1 = true →
      (s.dev.pconf p 0 1 = 0 → (s.dev.part p).created = false →
        CompletesTo (.partitionCreate who p) s
          { ((s.dev.clearBlock p).modPart p (fun x => { x with name := [], slotValues := [] })).setConf (partIndex p 0) 1 1 with
            lastReport := rAccepted }) ∧
      (s.dev.partHolds p = false → (s.dev.part p).tdi = .unlocked →
        CompletesTo (.partitionDelete who p) s
          { s.dev.setConf (partIndex p 0) 1 0 with lastReport := rAccepted })) ∧
    (∀ (u : BitVec 16) (r : Nat), unitLegal u.toNat = true → u.toNat &&& 0x7773 = u.toNat → r = unitRegion u.toNat →
      (s.dev.mayWrite who false 0x5010 1 = true → s.dev.mgmtTest ≠ 1 → s.dev.mgmtTest ≠ 2 →
        CompletesTo (.fieldTestMgmt who u) s { s.dev.modRegion r (fun x =>
            if x.tests.any (fun t => (!t.running && unitInside u.toNat t.unit) || t.unit == u.toNat) then x
            else { x with
              tests := x.tests.filter (fun t => t.running || !unitInside t.unit u.toNat) ++
                [{ unit := u.toNat, origin := 1 }] }) with
          mgmtTest := 1, mgmtTestUnit := u.toNat, lastReport := rAccepted }) ∧
      (s.dev.mayWrite who false 0x5021 1 = true →
        CompletesTo (.plannedFence who u) s { s.dev with
          removals := if s.dev.removals.any (fun x => x.unit == u.toNat) then s.dev.removals
            else s.dev.removals ++ [{ unit := u.toNat, cause := 1 }]
          lastReport := rAccepted })) ∧
    (s.dev.mayWrite who false 0x6000 4 = true →
      CompletesTo (.replanNow who) s { s.dev with
        ageing := if s.dev.ageing.state = 0 then { s.dev.ageing with state := 1 }
          else if s.dev.ageing.state = 1 then s.dev.ageing else { s.dev.ageing with again := true }
        lastReport := rAccepted }) ∧
    (s.dev.mayWrite who false 0x1100 0x10 = true → s.dev.start.orderly = none →
      ∀ (c : Instr) (cold : Bool), (c, cold) ∈ [(.resetWarm who, false), (.resetCold who, true)] →
        ∃ t, exec c s = .next t ∧ t.safety = s.safety ∧ t.dev.stratus.checkpoint = some s.dev.now ∧
          t.dev.lastReport = rAccepted ∧ t.dev.start = { s.dev.start with
            orderly := some (if cold || s.dev.start.status == 2 || (s.dev.start.status == 0 && s.dev.start.kind == 0)
              then 0 else 1, s.dev.now) }) ∧
    (∀ (p : Fin 16) (tag : Nat) (k : Packet), Arrived s p tag 0x31 k → k.arg0 < 2 ^ 15 → k.arg1 = 0 →
      k.payload = [] →
      unitLegal k.arg0 = true → field k.arg0 3 2 = 0 → bit k.arg0 7 = false → bit k.arg0 11 = false →
      (s.dev.hostMayTest p k.arg0 = true →
        CompletesTo (.fieldTest p tag) s ((s.dev.requestTest k.arg0 0).waiting p k (.test k.arg0))) ∧
      (s.dev.hostMayTest p k.arg0 = false → k.posted = false →
        CompletesTo (.fieldTest p tag) s (s.dev.answered p k .notOwner 0 [])))

/-- The first test of a region, its patterns loaded and its unit free, starts at the boundary after the commit window
with its cells in test; it ends after its time, and a failing unit is fenced; the switch of a planned removal acts
on a draining region after the commit window and on no other: an object of the region goes to the roomiest surviving
stack of its partition with its bytes and their poison, and its old lines are freed. -/
def Obligations.TestsAndRemovalsComplete : Prop :=
  ∀ (s : State) (r : Fin 6) (t : TestReq) (rest : List TestReq), s.dev.raised = [] →
    ((s.dev.region r).tests = t :: rest → t.running = false → t.loaded = true → s.dev.tick.commitDone = true →
      s.dev.unitFree t.unit = true → unitKind t.unit ≠ 2 ∨ (s.dev.region r).outOfService = true →
      ∃ u, exec (.fieldTestStart r) s = .next u ∧ u.mem = s.mem ∧ u.safety = s.safety ∧
        u.dev.now = max s.dev.now s.dev.tick.next ∧
        (u.dev.region r).tests = { t with
          running := true, wasFenced := !(unitCells t.unit).any s.dev.cellUp, started := max s.dev.now s.dev.tick.next } :: rest ∧
        (∀ n ∈ unitCells t.unit, (u.dev.cell n).testing = true) ∧
        u.dev.mgmtTest = if s.dev.mgmtTest = 1 ∧ unitInside s.dev.mgmtTestUnit t.unit = true then 2 else s.dev.mgmtTest) ∧
    ((s.dev.region r).tests = t :: rest → t.running = false → s.dev.tick.commitDone = false →
      CompletesTo (.fieldTestStart r) s s.dev) ∧
    ((s.dev.region r).tests = t :: rest → t.running = true → unitRegion t.unit = r →
      ∀ pass, ∃ u, exec (.fieldTestComplete r pass) s = .next u ∧ u.mem = s.mem ∧ u.safety = s.safety ∧
        u.dev.now = max s.dev.now (t.started + testTime t.unit) ∧ (u.dev.region r).tests = rest ∧
        (u.dev.region r).passed = (if pass then (s.dev.region r).passed ++ [t.unit] else (s.dev.region r).passed) ∧
        (pass = false → ∀ n ∈ unitCells t.unit, (u.dev.cell n).fenced = true ∧ (u.dev.cell n).testing = false) ∧
        u.dev.mgmtTest = if s.dev.mgmtTest = 2 ∧ unitInside s.dev.mgmtTestUnit t.unit = true then (if pass then 3 else 4)
          else s.dev.mgmtTest) ∧
    ((s.dev.region r).draining = true → s.dev.tick.commitDone = true →
      exec (.plannedRemovalSwitch r) s = .next (s.apply (s.dev.eff.moveRegion s.mem r)) ∧
      (s.dev.jobs = [] → s.dev.images = [] → s.dev.transfers = [] → (∀ x ∈ s.dev.parts, x.2.boxes = none) →
        (∀ x ∈ s.dev.regions, x.2.wcb = []) → ∀ h o k la n d,
        s.dev.objects = [(h, o)] → o.stratus = false → o.lost = false → o.stack / 2 = r → n = ceilDiv o.total 128 →
        s.dev.roomiest (s.dev.usableStacks o.part) = some k → n ≤ s.dev.stackFree k →
        s.dev.takeStack k 1 n o.part 0 = some (la, d) →
        ∃ u, exec (.plannedRemovalSwitch r) s = .next u ∧ u.safety = s.safety ∧
          u.dev.objects = [(h, { o with stack := k, base := la })] ∧
          u.mem = ([MemOp.clear (stackAddr k la) (n * 128), MemOp.own (stackLine k la) n false o.part,
              MemOp.copy (stackAddr o.stack o.base) (stackAddr k la) (n * 128)] ++
            (s.mem.poisonedIn (stackAddr o.stack o.base) (n * 128)).map (fun l =>
              MemOp.poison (l - stackAddr o.stack o.base / 128 + stackAddr k la / 128)) ++
            [MemOp.clear (stackAddr o.stack o.base) (n * 128), MemOp.own (stackLine o.stack o.base) n false 0,
              MemOp.clearPoison (stackAddr o.stack o.base) (n * 128)]).foldl MemOp.run s.mem)) ∧
    ((s.dev.region r).draining = false ∨ s.dev.tick.commitDone = false → CompletesTo (.plannedRemovalSwitch r) s s.dev)

/-- An edge that is too short, on another pin or while no pin feeds the source only lets time pass; an edge of PPS is
accepted and takes a second written 100 ms before it, the first edge of TICK_IN sets the grid's origin; a source not
heard in its time (for PPS before its first edge: assumption 170) puts the time unit in holdover, which expires
after an hour; an announce of the domain sets the LAN's master, and a change of master begins an acquisition; a sync
of the slave port sets the offset and makes the time valid; the pulse comes at the next second not yet pulsed. -/
def Obligations.TimeSourcesComplete : Prop :=
  ∀ s : State, s.dev.raised = [] →
    (∀ (pin : Fin 9) (t high : Nat),
      (high < 100 ∨ (pin : Nat) ≠ s.dev.timingPin ∨ s.dev.feeds = false →
        CompletesTo (.timingEdge pin t high) s { s.dev with now := max s.dev.now t }) ∧
      (100 ≤ high → (pin : Nat) = s.dev.timingPin → s.dev.feeds = true →
        (s.dev.source = 2 → ∃ u, exec (.timingEdge pin t high) s = .next u ∧ u.mem = s.mem ∧ u.safety = s.safety ∧
          u.dev.now = max s.dev.now t ∧ u.dev.time.lastEdge = some t ∧ u.dev.time.present = true ∧
          u.dev.time.holdStart = none ∧
          (∀ sec w, s.dev.time.pendingSecond = some (sec, w) → w + 100000000 ≤ t → u.dev.time.taiValid = true ∧
            u.dev.time.taiOffset = (sec * 1000000000 : Int) - t ∧ u.dev.time.pendingSecond = none) ∧
          (s.dev.time.pendingSecond = none → s.dev.time.taiValid = false → u.dev.time.taiValid = false)) ∧
        (s.dev.source = 3 → s.dev.time.gridOrigin = none →
          ∃ u, exec (.timingEdge pin t high) s = .next u ∧ u.mem = s.mem ∧ u.safety = s.safety ∧
            u.dev.now = max s.dev.now t ∧ u.dev.time.gridOrigin = some t ∧ u.dev.time.gridEdges = 1 ∧
            u.dev.time.lastEdge = some t ∧ u.dev.time.present = true))) ∧
    (s.dev.source ≠ 2 → s.dev.source ≠ 3 → CompletesTo .sourceLostTimeout s s.dev) ∧
    (∀ n wait, (s.dev.source = 2 ∧ wait = 1500000000) ∨ (s.dev.source = 3 ∧ wait = 2 * s.dev.periodTns) →
      n = max s.dev.now (s.dev.time.lastEdge.getD s.dev.time.selectedAt + wait) → s.dev.time.mode ≠ .holdover →
      s.dev.time.mode ≠ .freeRun →
      CompletesTo .sourceLostTimeout s { s.dev with
        now := n
        time := { s.dev.time with
          mode := .holdover, holdStart := some n, present := false, err := 0, errNow := 0, measured := false } }) ∧
    (∀ (lan : Lan) (t : TimeSync), s.dev.source ≠ 1 →
      t = (match lan with
        | .a => { s.dev.time with masterA := none }
        | .b => { s.dev.time with masterB := none }) →
      CompletesTo (.announceReceiptTimeout lan) s { s.dev with time := t.ports }) ∧
    (∀ (lan : Lan) (t : TimeSync), s.dev.source = 1 → s.dev.time.mode ≠ .holdover → s.dev.time.mode ≠ .freeRun →
      t = { s.dev.time with masterA := none, masterB := none, portA := 1, portB := 1 } →
      (match lan with
        | .a => s.dev.time.masterB = none
        | .b => s.dev.time.masterA = none) →
      CompletesTo (.announceReceiptTimeout lan) s { s.dev with time := { t with
        mode := .holdover, holdStart := some s.dev.now, present := false, err := 0, errNow := 0, measured := false } }) ∧
    (∀ (lan : Lan) (domain : Nat) (m : PtpMaster) (t : TimeSync),
      t = (match lan with
        | .a => { s.dev.time with masterA := some m }
        | .b => { s.dev.time with masterB := some m }) →
      (domain ≠ s.dev.forceAt 0x2000 7 → CompletesTo (.ptpAnnounce lan domain m) s s.dev) ∧
      (domain = s.dev.forceAt 0x2000 7 →
        (s.dev.source ≠ 1 ∨ (t.slave = s.dev.time.slave ∧
            t.master.map (·.identity) = s.dev.time.master.map (·.identity)) →
          CompletesTo (.ptpAnnounce lan domain m) s { s.dev with time := t.ports }) ∧
        (s.dev.source = 1 → ¬(t.slave = s.dev.time.slave ∧
            t.master.map (·.identity) = s.dev.time.master.map (·.identity)) →
          CompletesTo (.ptpAnnounce lan domain m) s { s.dev with time := { t.ports with
            err := 0, errNow := 0, measured := false, present := true, holdStart := none, mode := .acquiring } }))) ∧
    (∀ (lan : Lan) (offset : Int) (ns : Nat),
      (s.dev.time.slave ≠ some lan → CompletesTo (.ptpSync lan offset ns) s s.dev) ∧
      (s.dev.time.slave = some lan → s.dev.source ≠ 1 → s.dev.source ≠ 2 →
        CompletesTo (.ptpSync lan offset ns) s { s.dev with time := { s.dev.time with offset := offset } }) ∧
      (s.dev.time.slave = some lan → s.dev.source = 1 → ∃ u, exec (.ptpSync lan offset ns) s = .next u ∧ u.mem = s.mem ∧
        u.safety = s.safety ∧ u.dev.now = s.dev.now ∧ u.dev.time.offset = offset ∧ u.dev.time.taiValid = true ∧
        u.dev.time.taiOffset = (ns : Int) - s.dev.now ∧ u.dev.time.present = true ∧ u.dev.time.holdStart = none)) ∧
    (s.dev.time.mode = .holdover → s.dev.source ≠ 0 →
      CompletesTo .holdoverExpired s { s.dev with
        now := max s.dev.now (s.dev.time.holdStart.getD s.dev.now + 3600000000000)
        time := { s.dev.time with mode := .freeRun } }) ∧
    (s.dev.tai = none → CompletesTo .taiSecondPulse s s.dev) ∧
    (∀ t n, s.dev.tai = some t → n = s.dev.now + (if t % 1000000000 = 0 ∧ s.dev.time.lastPulse ≠ some s.dev.now then 0
        else 1000000000 - t % 1000000000) →
      CompletesTo .taiSecondPulse s { s.dev with
        now := n, time := { s.dev.time with pulses := s.dev.time.pulses + 1, lastPulse := some n } })

/-- A boundary begins the next tick at its instant with its number and its marks clear; the commit window of a started
tick is held once, 16 microseconds before the boundary; a lost tick is declared half a period late with cause 6; a
share window begins with every use 0; a refill adds each bucket's rate up to its burst. -/
def Obligations.TicksComplete : Prop :=
  ∀ s : State, s.dev.raised = [] →
    (s.dev.ready = false → CompletesTo .tickBoundary s s.dev) ∧
    (s.dev.ready = true → ∃ t, exec .tickBoundary s = .next t ∧ t.dev.now = max s.dev.now s.dev.tick.next ∧
      t.dev.tick.tick = s.dev.nextTickNo ∧ t.dev.tick.started = true ∧
      t.dev.tick.start = max s.dev.now s.dev.tick.next ∧ t.dev.tick.commitDone = false ∧
      t.dev.tick.roundsDone = false ∧ t.dev.tick.lossDeclared = false ∧
      t.dev.tick.onSchedule = (if s.dev.tick.lossDeclared then 0 else s.dev.tick.onSchedule + 1) ∧
      (s.dev.tick.periodWritten = none → t.dev.tick.period = s.dev.tick.period)) ∧
    (∀ completes,
      (s.dev.tick.started = false ∨ s.dev.tick.commitDone = true → CompletesTo (.commitWindow completes) s s.dev) ∧
      (s.dev.tick.started = true → s.dev.tick.commitDone = false →
        ∃ t, exec (.commitWindow completes) s = .next t ∧ t.dev.now = max s.dev.now (s.dev.tick.next - 16000) ∧
          t.dev.tick = { s.dev.tick with commitDone := true, roundsDone := completes })) ∧
    (s.dev.ready = true → s.dev.tick.started = true → s.dev.tick.lossDeclared = false →
      ∃ t, exec .tickLoss s = .next t ∧ Entered s 6 t ∧ t.dev.now = max s.dev.now (s.dev.tick.next + s.dev.periodTns / 2) ∧
        t.dev.tick = { s.dev.tick with lossDeclared := true, onSchedule := 0 }) ∧
    (∀ w, w = s.dev.tick.shareWindow * 1000 →
      CompletesTo .shareWindowStart s { s.dev with
        now := max s.dev.now ((s.dev.now / w + 1) * w)
        tick := { s.dev.tick with
          shareWindow := s.dev.tick.windowAfter.getD s.dev.tick.shareWindow, windowAfter := none }
        parts := s.dev.parts.map (fun p => (p.1, { p.2 with shareUse := [0, 0, 0] }))
        jobs := s.dev.jobs.map (fun j => (j.1, { j.2 with shareUse := [0, 0, 0] })) }) ∧
    (∃ t, exec .regulatorRefill s = .next t ∧ t.mem = s.mem ∧ t.safety = s.safety ∧
      t.dev.now = (s.dev.now / 1000 + 1) * 1000 ∧ (∀ k, (t.dev.stack k).lcCount = 0) ∧
      (∀ p < 16, (s.dev.part p).created = true → (t.dev.part p).buckets = (s.dev.bucketStacks p).map (fun k =>
        (k, min (s.dev.pforce p 0x12 2) (s.dev.bucket p k + s.dev.pforce p 0x12 1)))) ∧
      (∀ p < 16, (s.dev.part p).created = false → (t.dev.part p).buckets = (s.dev.part p).buckets))

/-- A free cell in service takes a duplicate or third execution that awaits it, else the next tile of the guaranteed round that
owns it or of the best-effort job it is offered to, and abandons an idle pattern; one that runs a DOUBLE tile of a guaranteed
round claims ahead the next one of it; a tile and an engine's slice end when their cycles have run, later by what they waited
(operands of the completion: assumptions 12, 182 and 189), and leave their unit to what it claimed ahead or free and their
operator with one item fewer; one that meets a line it must wait for stays on its unit; a sorter's pass frees the sorter and
takes its instance one pass on; a guaranteed window opens on a stack for a round that needs it and stops what its engines
ran; a round whose work is done is ready at once, and any other goes on as far as it can at the same instant. -/
def Obligations.ComputeWorkCompletes : Prop :=
  ∀ s : State, s.dev.raised = [] →
    (∀ (n : Fin 384) (c : ComputeUnit), c = s.dev.cell n →
      (s.dev.cellUp n = false ∨ (c.pattern = true ∧ c.idlePattern = false) ∨ (c.held.isSome = true ∧ c.ahead.isSome = true) →
        CompletesTo (.tileClaim n) s s.dev) ∧
      (s.dev.cellUp n = true → (c.pattern && !c.idlePattern) = false → c.held = none →
        (∀ j r x v role, s.dev.checkFor n = some (j, r, x, v, role) →
          ∃ t h, exec (.tileClaim n) s = .next t ∧ t.mem = s.mem ∧ t.safety = s.safety ∧ t.dev.now = s.dev.now ∧
            (t.dev.cell n).held = some h ∧ h.job = j.id ∧ h.round = r.number ∧ h.op = x.op ∧ h.item = v.item ∧
            h.role = role ∧ h.start = s.dev.now ∧ h.cost = s.tileCost j r x v.item ∧ (t.dev.cell n).pattern = false) ∧
        (∀ j r x item, s.dev.checkFor n = none →
          s.dev.ownerOf n = some (j, r) ∨ (s.dev.ownerOf n = none ∧
            ∃ b, s.dev.offered 0 ((s.cellJobs n).map Prod.fst) = some b ∧
              (s.cellJobs n).find? (fun y => y.1.id == b.id) = some (j, r)) →
          r.tileFor ((n : Nat) / 64) = some (x, item) →
          ∃ t h, exec (.tileClaim n) s = .next t ∧ t.mem = s.mem ∧ t.safety = s.safety ∧ t.dev.now = s.dev.now ∧
            (t.dev.cell n).held = some h ∧ h.job = j.id ∧ h.round = r.number ∧ h.op = x.op ∧ h.item = item ∧
            h.role = .original ∧ h.start = max s.dev.now r.copied ∧ h.cost = s.tileCost j r x item ∧
            (t.dev.cell n).pattern = false) ∧
        (s.dev.checkFor n = none → s.dev.ownerOf n = none → s.cellJobs n = [] → CompletesTo (.tileClaim n) s s.dev)) ∧
      (∀ h j r x item, s.dev.cellUp n = true → (c.pattern && !c.idlePattern) = false → c.held = some h → c.ahead = none →
        s.dev.checkFor n = none → s.dev.round? h.job = some (j, r) → j.batch.guaranteed = true → s.dev.ownerOf n = some (j, r) →
        (j.prog.op h.op).double = true → h.role = .original → r.number = h.round → r.working j.batch = true →
        r.tileFor ((n : Nat) / 64) = some (x, item) →
        ∃ t a, exec (.tileClaim n) s = .next t ∧ t.mem = s.mem ∧ t.safety = s.safety ∧ t.dev.now = s.dev.now ∧
          (t.dev.cell n).held = some h ∧ (t.dev.cell n).ahead = some a ∧ a.job = j.id ∧ a.round = r.number ∧ a.op = x.op ∧
          a.item = item ∧ a.role = .original ∧ a.cost = s.tileCost j r x item) ∧
      (∀ obs, c.held = none ∨ (∃ h, c.held = some h ∧ h.wants ≠ []) → CompletesTo (.tileComplete n obs) s s.dev) ∧
      (∀ obs h w, c.held = some h → h.wants = [] → s.tileHalt h obs = some w →
        ∃ t, exec (.tileComplete n obs) s = .next t ∧ t.mem = s.mem ∧ t.safety = s.safety ∧ t.dev.tick = s.dev.tick ∧
          t.dev.now = max s.dev.now (h.endAt s.dev.ageing.clock) ∧
          t.dev.cell n = { c with held := some (h.halt w t.dev.now) }) ∧
      (∀ obs h, c.held = some h → h.wants = [] → s.tileHalt h obs = none →
        ∃ (t u : State) (fuel : Nat), exec (.tileComplete n obs) s = .next t ∧
          t = (State.settleInst fuel u h.job h.op).pump ∧ t.dev.tick = s.dev.tick ∧
          t.dev.now = max s.dev.now (h.endAt s.dev.ageing.clock + s.dev.lateOf h obs + s.dev.waitedOf h.job obs) ∧
          ∀ j r, s.dev.round? h.job = some (j, r) → r.number = h.round → r.doomed j.batch = false →
            (∃ x ∈ r.insts, x.op = h.op ∧ x.runs .cells = true) → h.role = .original → obs.lines = [] →
            (∀ y ∈ r.insts, y.op = h.op → ∀ v ∈ y.votes, v.item ≠ h.item) →
            (u.dev.cell n).held = c.ahead.map (fun a => { a with start := t.dev.now, since := t.dev.now }) ∧
            ∃ j' r', u.dev.round? h.job = some (j', r') ∧ r'.number = r.number ∧
              r'.insts.map (fun y => (y.op, y.left)) =
                r.insts.map (fun y => (y.op, if y.op = h.op then y.left - 1 else y.left)))) ∧
    (∀ (k : Fin 12) (e : Fin 16) (obs : UnitObs) (c : ComputeUnit), c = s.dev.engine (k * 16 + e) →
      (c.held = none ∨ (∃ h, c.held = some h ∧ h.wants ≠ []) → CompletesTo (.cirrusOperationComplete k e obs) s s.dev) ∧
      (∀ h w, c.held = some h → h.wants = [] → s.sliceHalt h obs = some w →
        ∃ t, exec (.cirrusOperationComplete k e obs) s = .next t ∧ t.mem = s.mem ∧ t.safety = s.safety ∧
          t.dev.tick = s.dev.tick ∧ t.dev.now = max s.dev.now (h.since + h.cost) ∧
          t.dev.engine (k * 16 + e) = { c with held := some (h.halt w t.dev.now) }) ∧
      (∀ h, c.held = some h → h.wants = [] → s.sliceHalt h obs = none →
        ∃ (t u : State), exec (.cirrusOperationComplete k e obs) s = .next t ∧
          t = (State.settleInst 2 u h.job h.op).pump ∧ t.dev.tick = s.dev.tick ∧
          t.dev.now = max s.dev.now (h.since + h.cost + s.dev.lateOf h obs + s.dev.waitedOf h.job obs) ∧
          ∀ j r x, s.dev.round? h.job = some (j, r) → r.number = h.round → r.doomed j.batch = false →
            r.insts.find? (fun y => y.op == h.op && y.runs .cirrus) = some x → (∃ sl ∈ x.slices, sl.item = h.item) →
            h.role = .original → obs.lines = [] → (∀ y ∈ r.insts, y.op = h.op → ∀ v ∈ y.votes, v.item ≠ h.item) →
            (u.dev.engine (k * 16 + e)).held = none ∧
            ∃ j' r', u.dev.round? h.job = some (j', r') ∧ r'.number = r.number ∧
              r'.insts.map (fun y => (y.op, y.left, y.slices)) = r.insts.map (fun y =>
                if y.op = h.op then (y.op, y.left - 1, y.slices.map (fun a =>
                  if a.item = h.item then { a with done := true } else a)) else (y.op, y.left, y.slices)))) ∧
    (∀ (g : Fin 6) (met : List LineError) (u : State), u = s.meet met →
      ((u.dev.region g).sorter.job = none → exec (.zenithPassComplete g met) s = .next (u.apply u.dev.eff)) ∧
      (∀ job op, (u.dev.region g).sorter.job = some (job, op) →
        ∃ t, exec (.zenithPassComplete g met) s = .next t ∧ t.dev.tick = s.dev.tick ∧
          t.dev.now = max s.dev.now ((u.dev.region g).sorter.start +
            ceilDiv (72 * 1000 - (u.dev.region g).sorter.milli) u.dev.ageing.clock) ∧
          ∀ j r, u.dev.round? job = some (j, r) → (∃ x ∈ r.insts, x.op = op ∧ x.runs .sorter = true) →
            ∃ v : State, t = (State.settleInst 2 v job op).pump ∧
              (v.dev.region g).sorter = { (u.dev.region g).sorter with job := none } ∧
              ∃ j' r', v.dev.round? job = some (j', r') ∧ r'.number = r.number ∧ r'.insts = r.insts.map (fun y =>
                if y.op = op then y.pass (u.view j r) (j.prog.op op) g else y))) ∧
    (∀ (k : Fin 12) (j : Job) (r : Round), (s.dev.stack k).outOfService = false →
      ((s.dev.stack k).window.isSome = true → s.dev.overrun k = none →
        exec (.guaranteedWindowStart k) s = .next (s.withDev s.dev).offerEngines) ∧
      ((s.dev.stack k).window = none ∨ (s.dev.overrun k).isSome = true →
        (s.dev.workingJobs true).find? (fun y => decide (s.dev.overrun k ≠ some y.1.id) &&
          y.1.grant.windows.any (fun w => w.stack == (k : Nat)) && y.2.needsStack k) = some (j, r) →
        ∃ u : Dev, exec (.guaranteedWindowStart k) s = .next (s.withDev u).offerEngines ∧ u.now = s.dev.now ∧
          u.tick = s.dev.tick ∧ (u.stack k).window = some j.id ∧ (u.stack k).windowStart = s.dev.now ∧
          ∀ e : Fin 16, (u.engine (k * 16 + e)).held = none)) ∧
    (∀ (job : Nat) (met : List LineError) (u : State), u = s.meet met →
      ∃ t, exec (.roundComplete job met) s = .next t ∧ t = (u.apply u.dev.eff).pump.runJob job ∧
        t.dev.now = s.dev.now ∧ t.dev.tick = s.dev.tick) ∧
    (∀ (j : Job) (r : Round), (∀ q, (s.dev.part q).flareBuffer = [] ∧ (s.dev.part q).overflowMark = false) →
      s.dev.jobs = [(j.id, j)] → j.state ≠ .ended → j.round = some r → r.working j.batch = true → s.dev.copyWaits j = false →
      r.inStep = false → r.phase = .imagined → j.prog.hdr.s ≤ r.step ∨ j.imagines = false → (∀ x ∈ r.insts, x.votes = []) →
      (∀ g ∈ s.dev.regions, g.2.wcb = []) → s.dev.closers j r = [] →
      ∃ t j' r', exec (.roundComplete j.id []) s = .next t ∧ t.dev.jobs = [(j.id, j')] ∧ j'.round = some r' ∧
        r'.ready = true ∧ r'.readyAt = s.dev.now)

/-- A lane that fails begins the channel's retraining, which ends 1.2 ms later with the spares it took while two lanes
or fewer fail; a scrub of a line outside the stack and a corrected error of a cache array do nothing, a corrected line is
counted and put to its lane, an uncorrectable one poisons the line and asks for the repair of a read-only one; a combined
line leaves its buffer when its age is reached, unless its channel retrains; a read-only line is repaired from its image and
its poison goes. -/
def Obligations.StackEventsComplete : Prop :=
  ∀ s : State, s.dev.raised = [] →
    (∀ (k : Fin 12) (c : Fin 32) (lane : Nat) (lost : Bool),
      ((s.dev.stack k).outOfService = false → (s.dev.stack k).fenced.contains (c : Nat) = false →
        tget (s.dev.stack k).retraining c = none →
        CompletesTo (.laneFailure k c lane lost) s (s.dev.modStack k (fun y => { y with
          retraining := tset y.retraining c s.dev.now
          failedLanes := tset y.failedLanes c (lane :: ((tgetD y.failedLanes c []).filter (· != lane))) }))) ∧
      ((s.dev.stack k).outOfService = true ∨ (s.dev.stack k).fenced.contains (c : Nat) = true ∨
        (tget (s.dev.stack k).retraining c).isSome = true → CompletesTo (.laneFailure k c lane lost) s s.dev)) ∧
    (∀ (k : Fin 12) (c : Fin 32) (failing : List Nat),
      (tget (s.dev.stack k).retraining c = none → CompletesTo (.retrainingComplete k c failing) s s.dev) ∧
      (∀ t active bad, tget (s.dev.stack k).retraining c = some t →
        active = (failing.filter (fun l => decide (l < 72))).length →
        bad = (failing.filter (fun l => decide (72 ≤ l))).length → active + bad ≤ 2 →
        (s.dev.stack k).fenced.contains (c : Nat) = false →
        ∃ u, exec (.retrainingComplete k c failing) s = .next u ∧ u.mem = s.mem ∧ u.safety = s.safety ∧
          u.dev.now = max s.dev.now (t + 1200000) ∧ u.dev.stack k = { s.dev.stack k with
            retraining := terase (s.dev.stack k).retraining c
            spares := tset (s.dev.stack k).spares c active, badSpares := tset (s.dev.stack k).badSpares c bad
            failedLanes := tset (s.dev.stack k).failedLanes c failing })) ∧
    (∀ x : LineError, (s.dev.stack x.stack).outOfService = true ∨ s.dev.stackCap x.stack ≤ x.la →
      CompletesTo (.patrolScrub x) s s.dev) ∧
    (∀ (x : LineError) (hits : List Nat), (s.dev.stack x.stack).outOfService = false → x.la < s.dev.stackCap x.stack →
      hits = s.dev.now :: (tgetD (s.dev.stack x.stack).laneHits (laChannel x.la * 128 + x.lane) []).filter
        (fun t => decide (s.dev.now < t + 1000000)) →
      (x.array = true → x.symbols < 2 → CompletesTo (.patrolScrub x) s s.dev) ∧
      (x.array = false → x.symbols = 1 → hits.length < 16 →
        CompletesTo (.patrolScrub x) s ((s.dev.count 0x7010 (x.stack + 1) 1).modStack x.stack (fun y => { y with
          laneHits := tset y.laneHits (laChannel x.la * 128 + x.lane) hits }))) ∧
      (x.array = false → 2 ≤ x.symbols ∨ (x.symbols = 0 ∧ x.tagFails = true) →
        ((s.mem.sideOf (stackLine x.stack x.la)).ro = true →
          CompletesWith (.patrolScrub x) s { s.dev with
            repairs := if s.dev.repairs.contains ((x.stack : Nat), x.la) then s.dev.repairs
              else s.dev.repairs ++ [((x.stack : Nat), x.la)] } [.poison (stackLine x.stack x.la)]) ∧
        ((s.mem.sideOf (stackLine x.stack x.la)).ro = false → s.dev.tableLine x.stack x.la = none →
          CompletesWith (.patrolScrub x) s s.dev [.poison (stackLine x.stack x.la)]))) ∧
    (∀ (r : Fin 6) (n : Nat) (met : List LineError) (u : State), u = s.meet met →
      ((u.dev.region r).wcb[n]? = none → exec (.wcbAgeFlush r n met) s = .next (u.apply u.dev.eff)) ∧
      (∀ w, (u.dev.region r).wcb[n]? = some w → u.dev.retrains w.line = true → exec (.wcbAgeFlush r n met) s =
        .next (u.apply (u.dev.advance (w.born + ceilDiv (2048 * 1000) u.dev.ageing.clock)).eff)) ∧
      (∀ w, (u.dev.region r).wcb[n]? = some w → u.dev.retrains w.line = false →
        ∃ t, exec (.wcbAgeFlush r n met) s = .next t ∧ t.safety = u.safety ∧ t.dev.tick = s.dev.tick ∧
          t.dev.now = max s.dev.now (w.born + ceilDiv (2048 * 1000) u.dev.ageing.clock) ∧
          (∀ g, ∀ x ∈ (t.dev.region g).wcb, x.line ≠ w.line) ∧
          t.mem = (if wholeLine w.cells then MemOp.run u.mem (.clearPoison (w.line * 128) 128) else u.mem))) ∧
    (∀ (k : Fin 12) (la : Nat) (im : Image) (t : ImageEntry) (sl : WeightSlice) (src : Nat × Nat) (d : Dev),
      (s.dev.repairsOf (k / 2)).contains ((k : Nat), la) = true →
      d = { s.dev with repairs := s.dev.repairs.filter (fun r => decide (r ≠ ((k : Nat), la))) } →
      d.sliceAt k la = some (im, t, sl) → src = im.lineSource t sl la →
      d.badRange ((src.1 - Space.stratus.addr 0) / 4096) 1 = false →
      ∃ u, exec (.roLineRepair k la true) s = .next u.pump ∧ BecomesWith s d
        [.clear (stackAddr k la) 128, .copy src.1 (stackAddr k la) src.2, .clearPoison (stackAddr k la) 128] u)

/-- A unit that is free for 10 ms after its last pass begins an idle pattern, and one that is not does nothing. A pattern ends
after the cycles it has left, and none ends where none runs: one that passes leaves its unit with no suspect work and its
last pass now, and a fenced unit that shows no margin is queued for a test; one that fails fences its unit and queues it for
a test, when no other block has failed one within 1 s. -/
def Obligations.PatternsComplete : Prop :=
  ∀ (s : State) (u : PatternUnit) (c : Nat) (tu : Nat), s.dev.raised = [] → c = patternCode u →
    tu = testUnit (decide (c < 384)) (if c < 384 then c else c - 384) →
    (s.dev.fullManagement = false ∨ s.dev.patternFree c = false ∨ s.dev.patternOn c = true ∨ s.dev.heldByRound c = true →
      CompletesTo (.idlePattern u) s s.dev) ∧
    (s.dev.fullManagement = true → s.dev.patternFree c = true → s.dev.patternOn c = false → s.dev.heldByRound c = false →
      ∃ t, exec (.idlePattern u) s = .next t ∧ t.mem = s.mem ∧ t.safety = s.safety ∧ t.pending = s.pending ∧
        t.dev.now = max s.dev.now (s.dev.lastPass c + 10000000) ∧
        t.dev.unitOf c = { s.dev.unitOf c with
          pattern := true, idlePattern := true, patternAt := t.dev.now, patternMilli := 0 }) ∧
    (∀ pass, s.dev.patternOn c = false → CompletesTo (.patternComplete u pass) s s.dev) ∧
    (∀ e, s.dev.patternOn c = true → e = max s.dev.now ((s.dev.unitOf c).patternAt + (if c < 384
        then ceilDiv (1280000 - (s.dev.unitOf c).patternMilli) s.dev.ageing.clock else 600)) →
      (∃ v : State, exec (.patternComplete u true) s = .next v.pump ∧ v.dev.now = e ∧ v.dev.tick = s.dev.tick ∧ v.mem = s.mem ∧
        v.dev.unitOf c = { s.dev.unitOf c with pattern := false, idlePattern := false, lastPass := e, suspects := [] } ∧
        ((s.dev.unitOf c).fenced = true → (s.dev.unitOf c).margin = false → TestAsked v.dev tu)) ∧
      ((∀ f ∈ s.dev.support.patternFails, f.1 ≠ patternBlock c → f.2 + 1000000000 < e) →
        ∃ v : State, exec (.patternComplete u false) s = .next v.pump ∧ v.dev.now = e ∧ v.dev.tick = s.dev.tick ∧ v.mem = s.mem ∧
          (v.dev.unitOf c).fenced = true ∧ (v.dev.unitOf c).pattern = false ∧ (v.dev.unitOf c).suspects = [] ∧ TestAsked v.dev tu))

/-- A placement copies every slice of an image and places it, and a unit that it cannot read or that is known to be
uncorrectable leaves the image in Stratus alone; a spill moves the lines of its page to Stratus and frees them, an eviction
leaves its stream evicted, and a write that fails leaves the page or the stream resident; a recall makes a stream resident,
and one that is not correctable leaves it evicted when a reset is its next chunk; a completion of work that nothing started
changes nothing (assumption 2). -/
def Obligations.TransfersComplete : Prop :=
  ∀ s : State, s.dev.raised = [] →
    (∀ image,
      (s.dev.placing image = false → CompletesTo (.placementComplete image) s s.dev) ∧
      (∀ im, tget s.dev.images image = some im → im.number = image → s.dev.placing image = true →
        s.dev.badRange im.loc im.units = false →
        ∃ t, exec (.placementComplete image) s = .next t ∧ t.safety = s.safety ∧ t.pending = s.pending ∧
          t.mem = ((im.entries.zip im.slices).flatMap (fun x => x.2.flatMap (im.copyOps x.1))).foldl MemOp.run s.mem ∧
          tget t.dev.images image = some { im with placed := true }) ∧
      (∀ im, tget s.dev.images image = some im → im.number = image → s.dev.placing image = true →
        (∀ j ∈ s.dev.liveJobs, j.imageNo ≠ image) →
        (s.dev.badRange im.loc im.units = true →
          ∃ t, exec (.placementComplete image) s = .next t ∧ t.safety = s.safety ∧ t.pending = s.pending ∧
            tget t.dev.images image = some { im with placed := false, restoring := false, slices := [] }) ∧
        (s.dev.stratus.mounted = true →
          ∃ u : State, exec (.stratusReadComplete (.restore image) false) s = .next u.pump ∧ u.safety = s.safety ∧
            u.pending = s.pending ∧
            tget u.dev.images image = some { im with placed := false, restoring := false, slices := [] }))) ∧
    (∀ (page : Nat) (ok : Bool) (met : List LineError) (u : State), u = s.meet met →
      (u.dev.spillLoc page = none → exec (.spillComplete page ok met) s = .next (u.apply u.dev.eff)) ∧
      (∀ (loc : Nat) (f : PageFrame), u.dev.spillLoc page = some loc → f = u.dev.frame page → f.ref ≠ 0 →
        (ok = false ∨ u.dev.stratus.state = 2 →
          ∃ t, exec (.spillComplete page ok met) s = .next t ∧ t.safety = u.safety ∧
            t.dev.frame page = { f with state := .resident }) ∧
        (ok = true → u.dev.stratus.state ≠ 2 → u.dev.boundedReads = false →
          u.mem.rangePoisoned (stackAddr f.stack f.loc) (f.lines * 128) = false →
          ∃ t, exec (.spillComplete page ok met) s = .next t ∧ t.safety = u.safety ∧
            t.mem = [MemOp.copy (stackAddr f.stack f.loc) (Space.stratus.addr (loc * 4096)) (f.lines * 128),
              .clear (stackAddr f.stack f.loc) (f.lines * 128), .own (stackLine f.stack f.loc) f.lines false 0,
              .clearPoison (stackAddr f.stack f.loc) (f.lines * 128)].foldl MemOp.run u.mem ∧
            t.dev.frame page = { f with
              state := .spilled, loc := loc, stack := (u.dev.bufferStack page).getD f.stack }))) ∧
    (∀ (n : Nat) (ok : Bool) (met : List LineError) (u : State), u = s.meet met →
      (u.dev.evictOf n = none → exec (.evictionComplete n ok met) s = .next (u.apply u.dev.eff)) ∧
      (∀ locs k (x : StreamEntry), u.dev.evictOf n = some (locs, k) → u.dev.stream? n = some x → x.loc = .evicting →
        (ok = false ∨ u.dev.stratus.state = 2 →
          ∃ t, exec (.evictionComplete n ok met) s = .next t ∧ t.safety = u.safety ∧
            t.dev.stream? n = some { x with loc := .resident }) ∧
        (ok = true → u.dev.stratus.state ≠ 2 → u.dev.boundedReads = false → u.dev.stratus.spareHeld = false →
          u.dev.chunkWaits x = false → (∀ l ∈ locs,
            u.mem.rangePoisoned (stackAddr (u.dev.obj l.1).stack (u.dev.obj l.1).addr) ((u.dev.obj l.1).lines * 128) = false) →
          ∃ t, exec (.evictionComplete n ok met) s = .next t ∧ t.safety = u.safety ∧
            t.dev.stream? n = some { x with loc := .evicted }))) ∧
    (∀ (n : Nat) (correctable : Bool),
      (s.dev.recallTo n = none ∨ s.dev.stream? n = none → CompletesTo (.recallComplete n correctable) s s.dev) ∧
      (∀ l (x : StreamEntry), s.dev.recallTo n = some l → s.dev.stream? n = some x → correctable = true →
        (∀ o ∈ l, s.dev.badRange (s.dev.obj o.1).addr (lineUnits (s.dev.obj o.1).lines) = false) →
        ∃ t, exec (.recallComplete n correctable) s = .next t ∧ t.safety = s.safety ∧
          t.dev.stream? n = some { x with loc := .resident }) ∧
      (∀ l (x : StreamEntry), s.dev.recallTo n = some l → s.dev.stream? n = some x → s.dev.resetNext x = true →
        (correctable = false ∨
          ∃ o ∈ l, s.dev.badRange (s.dev.obj o.1).addr (lineUnits (s.dev.obj o.1).lines) = true) →
        ∃ t, exec (.recallComplete n correctable) s = .next t ∧ t.safety = s.safety ∧
          t.dev.stream? n = some { x with loc := .evicted }))

/-- A die in service below 10 % of free erased blocks erases the programmed block with the fewest valid units and collects until
at least 10 % are free (assumption 128); a refreshed block (for reads, once they reach 50,000) and the one levelled (the
least worn, where the spread is above 200) is erased once more with its reads at 0; a bad block is retired, a die that fails is fenced until its rebuild; a checkpoint follows the last by
10 s; a mount takes 400 ms after a verified checkpoint and 18 s else. Where no block is known to be programmed, which one a
collection erases is a free value (assumption 127). -/
def Obligations.TierUpkeepCompletes : Prop :=
  ∀ (s : State) (n : Fin 256) (die : Die) (old : Nat → Block) (now : State → Nat → Block), s.dev.raised = [] →
    die = s.dev.die n → old = s.dev.block n → (∀ t, now t = t.dev.block n) →
    (die.fenced = true ∨ 10 ≤ die.freeErased → CompletesTo (.garbageCollection n) s s.dev) ∧
    (die.fenced = false → die.freeErased < 10 → s.dev.boundedReads = false →
      ∃ t, exec (.garbageCollection n) s = .next t ∧ t.mem = s.mem ∧ t.safety = s.safety ∧
        10 ≤ (t.dev.die n).freeErased ∧ (t.dev.die n).freeErased ≤ 100 ∧
        ∃ b < 2048, (now t b).erases = (old b).erases + 1 ∧ (now t b).reads = 0 ∧ (now t b).retired = (old b).retired ∧
          ∀ x < 2048, (old x).programmed = true → (old x).retired = false →
            (old b).programmed = true ∧ (old b).valid ≤ (old x).valid) ∧
    (∀ (b : Fin 2048), ∀ c ∈ [Instr.readDisturbRefresh n b, .retentionRefresh n b],
      (die.fenced = true ∨ (old b).retired = true → CompletesTo c s s.dev) ∧
      (die.fenced = false → (old b).retired = false → s.dev.boundedReads = false →
        c = .retentionRefresh n b ∨ 50000 ≤ (old b).reads →
        ∃ t, exec c s = .next t ∧ t.mem = s.mem ∧ t.safety = s.safety ∧ (now t b).erases = (old b).erases + 1 ∧
          (now t b).reads = 0 ∧ (now t b).retired = false)) ∧
    (∀ b : Fin 2048, (old b).reads < 50000 → CompletesTo (.readDisturbRefresh n b) s s.dev) ∧
    (die.fenced = true → CompletesTo (.staticWearLevelling n) s s.dev) ∧
    (∀ a c : Nat, a < 2048 → c < 2048 → (old a).retired = false → (old c).retired = false →
      (old a).erases + 200 < (old c).erases → die.fenced = false → s.dev.boundedReads = false →
      ∃ t b, exec (.staticWearLevelling n) s = .next t ∧ t.mem = s.mem ∧ t.safety = s.safety ∧ b < 2048 ∧
        (old b).retired = false ∧ (∀ x < 2048, (old x).retired = false → (old b).erases ≤ (old x).erases) ∧
        now t b = { old b with erases := (old b).erases + 1, reads := 0, programmed := false, valid := 0 }) ∧
    (∀ b : Fin 2048,
      (die.fenced = true ∨ (old b).retired = true → CompletesTo (.badBlockRetirement n b) s s.dev) ∧
      (die.fenced = false → (old b).retired = false → s.dev.boundedReads = false →
        ∃ t, exec (.badBlockRetirement n b) s = .next t ∧ t.mem = s.mem ∧ t.safety = s.safety ∧
          now t b = { old b with retired := true, programmed := false, valid := 0 } ∧
          t.dev.stratus.retired = s.dev.stratus.retired + 1)) ∧
    (die.fenced = true → CompletesTo (.dieFailure n) s s.dev) ∧
    (die.fenced = false →
      ∃ t, exec (.dieFailure n) s = .next t ∧ t.safety = s.safety ∧
        t.dev.die n = { die with fenced := true, rebuilding := true }) ∧
    (die.rebuilding = false → CompletesTo (.dieRebuildComplete n) s s.dev) ∧
    (die.rebuilding = true →
      CompletesTo (.dieRebuildComplete n) s { s.dev with stratus := { s.dev.stratus with
        dies := tset s.dev.stratus.dies n { die with rebuilding := false } } }) ∧
    (s.dev.stratus.mounted = false → CompletesTo .stratusCheckpoint s s.dev) ∧
    (∀ x, s.dev.stratus.mounted = true →
      x = max s.dev.now ((s.dev.stratus.checkpoint.map (· + 10000000000)).getD s.dev.now) →
      CompletesTo .stratusCheckpoint s { s.dev with
        now := x, stratus := { s.dev.stratus with checkpoint := some x } }) ∧
    (∀ verifies,
      (s.dev.stratus.mounted = true ∨ s.dev.start.powered = false → CompletesTo (.stratusMount verifies) s s.dev) ∧
      (s.dev.stratus.mounted = false → s.dev.start.powered = true →
        CompletesTo (.stratusMount verifies) s { s.dev with
          now := s.dev.now + (if s.dev.start.kind = 0 ∨ verifies = false then 18000000000 else 400000000)
          stratus := { s.dev.stratus with mounted := true, checkpoint := some s.dev.now } }))

/-- A read of test patterns loads the test, one of a saved state lets its RESTORE go on, one for a job that is live no
longer changes nothing; a durable write puts the bytes of an image at its place, makes the bytes of an object
readable at home, or fails TIER_FAILED on a read-only tier; nothing completes while the tier is not mounted. -/
def Obligations.FlashReadsAndWritesComplete : Prop :=
  ∀ s : State, s.dev.raised = [] →
    (∀ x b, s.dev.stratus.mounted = false →
      ∃ u : State, exec (.stratusReadComplete x b) s = .next u.pump ∧ Becomes s s.dev u) ∧
    (s.dev.stratus.mounted = true →
      (∀ (r : Fin 6) t rest, (s.dev.region r).tests = t :: rest → t.running = false → t.loaded = false →
        ∃ u : State, exec (.stratusReadComplete (.patterns r) true) s = .next u.pump ∧ u.mem = s.mem ∧ u.safety = s.safety ∧
          u.pending = s.pending ∧ (u.dev.region r).tests = { t with loaded := true } :: rest) ∧
      (∀ (p : Fin 16) tag (w : Wait) (o : Object), s.dev.wait? p tag = some w → w.what = .restoring false →
        s.dev.object? p w.pkt.arg1 = some o → s.dev.badRange o.base (ceilDiv o.total 4096) = false →
        ∃ u : State, exec (.stratusReadComplete (.restoreState p tag) true) s = .next u.pump ∧ u.mem = s.mem ∧
          u.safety = s.safety ∧ u.pending = s.pending ∧ (u.dev.part p).waits = (s.dev.part p).waits.map (fun y =>
            if y.pkt.tag = tag then { y with what := .restoring true } else y)) ∧
      (∀ job layer b, s.dev.liveJob job = none →
        (∃ u : State, exec (.stratusReadComplete (.kvRecall job layer) b) s = .next u.pump ∧ Becomes s s.dev u) ∧
        ∃ u : State, exec (.stratusReadComplete (.weightStream job) b) s = .next u.pump ∧ Becomes s s.dev u)) ∧
    (∀ (p : Fin 16) (tag : Nat),
      (s.dev.wait? p tag = none ∨ s.dev.stratus.mounted = false → CompletesTo (.stratusWriteDurable p tag) s s.dev) ∧
      (∀ w : Wait, s.dev.wait? p tag = some w → w.what = .durable → s.dev.stratus.mounted = true →
        s.dev.boundedReads = false → s.dev.stratus.spareHeld = false → w.pkt.posted = false →
        (w.pkt.opcode ≠ 1 → s.dev.stratus.state = 2 →
          CompletesTo (.stratusWriteDurable p tag) s ((s.dev.setPart p { s.dev.part p with
            storeWrites := (s.dev.part p).storeWrites.filter (fun x => x.tag != w.pkt.tag || x.atHome) }).answered p w.pkt
              .tierFailed 0 [])) ∧
        (w.pkt.opcode ≠ 1 → s.dev.stratus.state ≠ 2 →
          ∃ t, exec (.stratusWriteDurable p tag) s = .next t ∧ t.mem = s.mem ∧ t.safety = s.safety ∧
            (t.dev.part p).storeWrites = (s.dev.part p).storeWrites.map (fun x =>
              if x.tag = w.pkt.tag && !x.atHome then { x with atHome := true } else x) ∧
            (t.dev.part p).waits = (s.dev.part p).waits.filter (fun x => x.pkt.tag != w.pkt.tag)) ∧
        (∀ im off, w.pkt.opcode = 1 → s.dev.stratus.state ≠ 2 → s.dev.imageOf w.pkt.arg1 = some im →
          off = field w.pkt.arg0 63 8 →
          ∃ t, exec (.stratusWriteDurable p tag) s = .next t ∧ t.safety = s.safety ∧
            t.mem = s.mem.writeBytes (Space.stratus.addr (im.loc * 4096 + off)) (w.pkt.payload.take (im.dataBytes - off)) ∧
            (t.dev.part p).waits = (s.dev.part p).waits.filter (fun x => x.pkt.tag != w.pkt.tag))))

/-- A power-on, a reset, the end of an orderly window and a retry of a warm start run a start: one whose step fails
leaves a failed start with its kind, its count and its status, any other shows patterns at its end, and its steps are done
where some cell passes its pattern and is not marked by the plan, under a stored configuration that commands nothing; a step that times out fails the start, a start that is done makes the module ready under the
configuration in force or holds it for an alarm (assumption 157); an input out of range turns the module off; a
change of the feeds brings their readings (assumption 165). -/
def Obligations.StartsComplete : Prop :=
  ∀ s : State, s.dev.raised = [] →
    (∀ obs, s.dev.mayPower = false → CompletesTo (.powerOn obs) s s.dev) ∧
    (∀ obs, s.dev.start.waitInput = true ∨ s.dev.mayPower = false → CompletesTo (.resetN obs) s s.dev) ∧
    (∀ obs, s.dev.start.orderly = none → CompletesTo (.orderlyWindowEnd obs) s s.dev) ∧
    (∀ obs, s.dev.start.failed = false ∨ s.dev.start.status ≠ 0 ∨ s.dev.start.kind ≠ 1 →
      CompletesTo (.warmStartRetry obs) s s.dev) ∧
    (∀ obs (c : Instr) (cold pend : Bool) (warm : Nat), (c, cold, pend, warm) ∈
      (if s.dev.mayPower then [(Instr.powerOn obs, true,
          s.dev.backup.alarmPending || bit s.dev.backup.alarms 1 || bit s.dev.backup.alarms 2,
          s.dev.backup.failedWarm)] else []) ++
      (if s.dev.start.waitInput = false ∧ s.dev.mayPower = true then
        [(.resetN obs, s.dev.resetNCold, s.dev.backup.alarmPending, s.dev.backup.failedWarm)] else []) ++
      (match s.dev.start.orderly with
        | some (k, _) => [(.orderlyWindowEnd obs, k == 0, s.dev.backup.alarmPending, s.dev.backup.failedWarm)]
        | none => []) ++
      (if s.dev.start.failed = true ∧ s.dev.start.status = 0 ∧ s.dev.start.kind = 1 then
        [(.warmStartRetry obs, decide (3 ≤ s.dev.backup.failedWarm), s.dev.backup.alarmPending,
          if 3 ≤ s.dev.backup.failedWarm then 0 else s.dev.backup.failedWarm)] else []) →
      (∀ n, startFailsAt obs = some n →
        ∃ t, exec c s = .next t ∧ t.pending = s.pending ∧ t.safety = {} ∧ t.dev.start.failed = true ∧
          t.dev.start.stepsDone = false ∧ t.dev.start.kind = (if cold then 0 else 1) ∧
          t.dev.backup.failedWarm = (if cold then warm else warm + 1) ∧
          t.dev.start.status = (if cold then (if pend then 3 else 2) else 0) ∧
          (cold = true → pend = false → t.dev.start.failedStep = n) ∧ t.dev.jobs = [] ∧
          t.dev.tick.started = false) ∧
      (startFailsAt obs = none →
        ∃ t, exec c s = .next t ∧ t.pending = s.pending ∧ t.dev.start.patternsAt = t.dev.now ∧
          (t.dev.start.stepsDone = true ∨ t.dev.start.failed = true) ∧
          ∀ n : Fin 384, PatternUnit.cell n ∉ obs.patternFails →
            (∀ y, s.dev.ageing.verified obs.planVerifies = some y → (n : Nat) ∉ y.markCells) →
            (∀ y, s.dev.store.chosen obs.configVerifies = some y → ∀ w ∈ y.2.entries, w.idx ≠ 0x1100) →
            t.dev.start.stepsDone = true)) ∧
    (∀ step, s.dev.start.status ≠ 0 ∨ s.dev.start.failed = true ∨ s.dev.start.powered = false →
      CompletesTo (.startStepTimeout step) s s.dev) ∧
    (∀ step, s.dev.start.status = 0 → s.dev.start.failed = false → s.dev.start.powered = true →
      s.dev.start.firstBoot = false →
      CompletesTo (.startStepTimeout step) s { s.dev with start :=
        if s.dev.start.kind = 1 then { s.dev.start with failed := true, stepsDone := false }
        else if s.dev.backup.alarmPending then { s.dev.start with failed := true, stepsDone := false, status := 3 }
        else { s.dev.start with failed := true, stepsDone := false, status := 2, failedStep := step } }) ∧
    (s.dev.start.status ≠ 0 ∨ s.dev.start.stepsDone = false ∨ s.dev.start.failed = true ∨
      s.dev.start.orderly.isSome = true → CompletesTo .startReady s s.dev) ∧
    (s.dev.start.status = 0 → s.dev.start.stepsDone = true → s.dev.start.failed = false → s.dev.start.orderly = none →
      (s.dev.backup.alarmPending = true →
        ∃ t, exec .startReady s = .next t ∧ t.mem = s.mem ∧ t.safety = s.safety ∧
          t.dev.start = { s.dev.start with status := 3 }) ∧
      (s.dev.backup.alarmPending = false →
        ∃ t, exec .startReady s = .next t ∧ t.mem = s.mem ∧
          t.safety = { s.safety with faultHigh := !s.safety.safe && s.safety.causes == 0 } ∧
          t.dev.start = { s.dev.start with
            status := 1, failed := false, millis := (s.dev.now - s.dev.start.resetAt) / 1000000
            firstBoot := false, forced := false } ∧
          t.dev.backup.failedWarm = 0 ∧ t.dev.force = s.dev.conf)) ∧
    (s.dev.start.powered = false → CompletesTo .inputResetRange s s.dev) ∧
    (s.dev.start.powered = true →
      ∃ t, exec .inputResetRange s = .next t ∧ t.pending = s.pending ∧ t.safety = {} ∧ t.dev.start.powered = false ∧
        t.dev.start.waitInput = true ∧ t.dev.jobs = [] ∧ t.dev.backup = { s.dev.backup with
          alarmPending := s.dev.backup.alarmPending || bit s.dev.backup.alarms 1 || bit s.dev.backup.alarms 2 }) ∧
    (∀ f p q, CompletesTo (.feedChange f p q) s { s.dev with power := { s.dev.power with
      feeds := f.toNat, milliP := p.toNat, milliQ := q.toNat } })

/-- A tamper raises the monotonic counter, erases rights and credentials and records the alarm unless the clock stood
still without power; a low cell and a temperature outside -40 to 85 degrees are recorded; the throttle is released
when everything is cool by 3 degrees (assumption 153); a SAFE_STATE_IN pin that goes low is cause 8, which goes when
the last such pin is high; a new pin function takes the pin 2,560 tns after a reference edge 1 to 40 tns past its
write (a free value: assumption 67). -/
def Obligations.BackupAndPinsComplete : Prop :=
  ∀ s : State, s.dev.raised = [] →
    (s.dev.start.powered = false → s.dev.backup.clockStopped = true →
      (∀ x, CompletesTo (.tamper x) s s.dev) ∧
      CompletesTo .lowCell s { s.dev with backup := { s.dev.backup with cellLow := true } }) ∧
    (s.dev.start.powered = true ∨ s.dev.backup.clockStopped = false →
      (∀ x, CompletesTo (.tamper x) s { s.dev with
        backup := { s.dev.backup with
          monotonic := min (s.dev.backup.monotonic + 1) (2 ^ 64 - 1), alarmPending := true
          alarms := s.dev.backup.alarms ||| 1, rights := (List.range 8).map (fun c => (c, 0))
          meshBroken := s.dev.backup.meshBroken || decide (x = .mesh)
          switchOpen := s.dev.backup.switchOpen || decide (x = .fixingSwitch) }
        mgmt := { s.dev.mgmt with sessions := [], creds := [] } }) ∧
      CompletesTo .lowCell s { s.dev with backup := { s.dev.backup with
        cellLow := true, alarms := s.dev.backup.alarms ||| 2
        alarmPending := s.dev.backup.alarmPending || !s.dev.start.powered } } ∧
      (∀ v, v < -4000 ∨ 8500 < v → CompletesTo (.backupTemperature v) s { s.dev with
        power := { s.dev.power with sensors := tset s.dev.power.sensors (Sensor.sub .backup) v }
        backup := { s.dev.backup with
          alarms := s.dev.backup.alarms ||| 4
          alarmPending := s.dev.backup.alarmPending || !s.dev.start.powered } })) ∧
    (∀ v, -4000 ≤ v → v ≤ 8500 → CompletesTo (.backupTemperature v) s { s.dev with
      power := { s.dev.power with sensors := tset s.dev.power.sensors (Sensor.sub .backup) v } }) ∧
    CompletesTo .cellFailure s { s.dev with backup := { s.dev.backup with
      clockStopped := s.dev.backup.clockStopped || !s.dev.start.powered } } ∧
    (s.dev.ageing.throttle < 1600 → s.dev.coolBy 300 = true →
      CompletesTo .throttleRelease s { s.dev with power := { s.dev.power with throttled := [], released := true } }) ∧
    (1600 ≤ s.dev.ageing.throttle ∨ s.dev.coolBy 300 = false → CompletesTo .throttleRelease s s.dev) ∧
    (∀ (n : Fin 8) (d : Dev → Bool → Dev), (∀ x b, d x b = x.modPin n (fun y => { y with outside := some b, acceptedHigh := b })) →
      (∀ level, (s.dev.pin n).function ≠ 7 ∨ (s.dev.pin n).changing.isSome = true →
        CompletesTo (.safeStateIn n level) s (s.dev.modPin n (fun y => { y with outside := some level }))) ∧
      ((s.dev.pin n).function = 7 → (s.dev.pin n).changing = none →
        ((n : Nat) ∈ s.dev.support.pinsLow → CompletesTo (.safeStateIn n false) s (d s.dev false)) ∧
        ((n : Nat) ∉ s.dev.support.pinsLow → ∃ t, exec (.safeStateIn n false) s = .next t ∧ Entered s 8 t) ∧
        (∃ t, exec (.safeStateIn n true) s = .next t ∧ t.mem = s.mem ∧
          t.dev.support.pinsLow = s.dev.support.pinsLow.filter (· != (n : Nat)) ∧
          t.safety = (if s.dev.support.pinsLow.contains (n : Nat) && (s.dev.support.pinsLow.filter (· != (n : Nat))).isEmpty then
            { s.safety with causes := if bit s.safety.causes 8 then s.safety.causes - 256 else s.safety.causes }
            else s.safety))) ∧
      ((s.dev.pin n).changing = none → CompletesTo (.skyPinTake n) s s.dev) ∧
      (∀ f t0, (s.dev.pin n).changing = some (f, t0) → (s.dev.pin n).queued = [] →
        ∃ (t : State) (k : Nat), exec (.skyPinTake n) s = .next t ∧ t.mem = s.mem ∧ t.safety = s.safety ∧ 1 ≤ k ∧ k ≤ 40 ∧
          t.dev.now = max s.dev.now (t0 + 2560 + k) ∧ t.dev.pin n = { s.dev.pin n with
            function := f, since := t.dev.now, changing := none, acceptedHigh := true }))

/-- A port's eye is the smallest of its lanes, and lanes below 200 are to be re-tuned (assumption 164); a reading that
breaks its rule, an oscillator 50 above the last re-plan (assumption 163), the interval and a start without a plan
trigger a re-plan; a decision of a triggered re-plan ends with the clock as planned, or with a new clock pending for
the boundary 10 ms later. -/
def Obligations.AgeingComplete : Prop :=
  ∀ s : State, s.dev.raised = [] →
    (∀ (p : Fin 4) w, (s.dev.port p).linkUp = false ∨ w = [] → CompletesTo (.eyeRead p w) s s.dev) ∧
    (∀ (p : Fin 4) x w, (s.dev.port p).linkUp = true →
      CompletesTo (.eyeRead p (x :: w)) s (s.dev.modPort p (fun y => { y with
        eye := w.foldl min x
        retune := (List.range (w.length + 1)).filter (fun i => decide ((x :: w).getD i 0 < 200)) }))) ∧
    (s.dev.start.replanDue = none → CompletesTo .replanAfterStart s s.dev) ∧
    (∀ d n, n = max s.dev.now (s.dev.ageing.lastAt + s.dev.forceAt 0x6000 3 * 3600000000000) →
      (d = (fun (x : Dev) => if x.ageing.state = 0 then { x with ageing := { x.ageing with state := 1 } }
        else if x.ageing.state = 1 then x else { x with ageing := { x.ageing with again := true } })) →
      CompletesTo .replanInterval s (d { s.dev with now := n }) ∧
      (s.dev.start.replanDue.isSome = true →
        CompletesTo .replanAfterStart s (d { s.dev with start := { s.dev.start with replanDue := none } })) ∧
      (∀ (k : Fin 12) (c : Fin 32) ms x,
        x = s.dev.modStack k (fun y => { y with retention := tset y.retention c ms }) →
        (4 * (s.dev.stack k).refreshOf c ≤ ms → CompletesTo (.retentionRead k c ms) s x) ∧
        (ms < 4 * (s.dev.stack k).refreshOf c → CompletesTo (.retentionRead k c ms) s (d x)))) ∧
    (∀ u v, ∃ t, exec (.replicaRead [(u, v)]) s = .next t ∧ t.mem = s.mem ∧ t.safety = s.safety ∧
      t.dev.unitOf (patternCode u) = { s.dev.unitOf (patternCode u) with delay := v } ∧
      (∀ n, u = .cell n → s.dev.cellUp n = true → delayOk v s.dev.ageing.planned = false → t.dev.ageing.state ≠ 0)) ∧
    (∀ l : List Nat, l.length = 18 →
      ∃ t, exec (.ringOscillatorRead l) s = .next t ∧ t.mem = s.mem ∧ t.safety = s.safety ∧
        (∀ r < 6, (t.dev.region r).oscLoss = l.getD r 0) ∧ (∀ k < 12, (t.dev.stack k).oscLoss = l.getD (6 + k) 0) ∧
        ((∃ r < 6, (s.dev.region r).oscAtReplan + 50 ≤ l.getD r 0) → t.dev.ageing.state ≠ 0)) ∧
    (∀ obs, s.dev.ageing.state ≠ 1 → CompletesTo (.replanDecision obs) s s.dev) ∧
    (∀ obs, s.dev.ageing.state = 1 →
      ∃ t, exec (.replanDecision obs) s = .next t ∧ t.mem = s.mem ∧ t.dev.ageing.raiseOnce = false ∧
        t.dev.ageing.lastAt = t.dev.now ∧
        ((t.dev.ageing.state = 0 ∧ t.dev.ageing.pendingClock = none) ∨
          (t.dev.ageing.state = 2 ∧ ∃ clock k, clock ≠ t.dev.ageing.planned ∧
            t.dev.ageing.pendingClock = some (clock, t.dev.now + 10000000, k))))

/-- A fetch that is not its function's turn or that the ring does not allow changes nothing, a packet for which the inbox has
no room only uses its function's turn; a packet with an illegal LEN or a bad CRC halts its ring with the cause and one REJECTED_FORMAT; a reset of a reached function clears
its rings and its protection; SR-IOV in CONFIG_LOCKED or RUN takes the TDI to ERROR (assumption 49); a function not
reached, an illegal training and a port without link change nothing. -/
def Obligations.PortsTurnAway : Prop :=
  ∀ s : State, s.dev.raised = [] →
    (∀ (p : Fin 16) (urgent : Bool),
      (∀ data, s.dev.mayFetch p urgent = false → CompletesTo (.packetFetch p urgent data) s s.dev) ∧
      (∀ (bs : Bytes) (bad : Bool), s.dev.mayFetch p urgent = true →
        ringLimit urgent < leAt bs 24 4 ∨ 64 + leAt bs 24 4 ≤ s.dev.inboxFree p urgent →
        bad = (!lenLegal urgent (leAt bs 24 4) || bs.length != 64 + leAt bs 24 4) → bad = true ∨ packetCrcOk bs = false →
        ∃ t, exec (.packetFetch p urgent (.packet bs)) s = .next t ∧ t.mem = s.mem ∧ t.safety = s.safety ∧
          (t.dev.part p).cmdRing urgent =
            { (s.dev.part p).cmdRing urgent with halted := true, cause := if bad then 2 else 1 } ∧
          (t.dev.part p).inbox = (s.dev.part p).inbox ∧ (t.dev.part p).flights = (s.dev.part p).flights ∧
          ∃ r, (t.dev.part p).outbox = (s.dev.part p).outbox ++ [r] ∧ r.code = Code.rejectedFormat.toNat ∧
            r.accepted = false) ∧
      (∀ bs : Bytes, s.dev.mayFetch p urgent = true → leAt bs 24 4 ≤ ringLimit urgent →
        s.dev.inboxFree p urgent < 64 + leAt bs 24 4 →
        CompletesTo (.packetFetch p urgent (.packet bs)) s (s.dev.serve p))) ∧
    (∀ p : Fin 16,
      (s.dev.reach p = false → ∀ on, ∀ c ∈ [Instr.functionLevelReset p, .stopInterface p, .busMasterEnable p on,
          .ideCheckFail p, .getTdispVersion p, .lockInterface p], CompletesTo c s s.dev) ∧
      (s.dev.reach p = true → ∃ t, exec (.functionLevelReset p) s = .next t ∧ t.safety = s.safety ∧
        (t.dev.part p).normal = {} ∧ (t.dev.part p).urgent = {} ∧ (t.dev.part p).rsp = {} ∧ (t.dev.part p).ntc = {} ∧
        (t.dev.part p).quiesced = false ∧ (t.dev.part p).tdi = .unlocked ∧ (t.dev.part p).ide = {} ∧
        (t.dev.part p).created = (s.dev.part p).created ∧ (t.dev.part p).busMaster = (s.dev.part p).busMaster) ∧
      (∀ on, (p : Nat) % 4 = 0 ∨ (s.dev.port (p / 4)).linkUp = false → CompletesTo (.vfEnable p on) s s.dev) ∧
      (∀ on, (p : Nat) % 4 ≠ 0 → (s.dev.port (p / 4)).linkUp = true →
        ((s.dev.part p).tdi = .locked ∨ (s.dev.part p).tdi = .run) →
        ∃ t, exec (.vfEnable p on) s = .next t ∧ t.safety = s.safety ∧ (t.dev.part p).present = on ∧
          (t.dev.part p).busMaster = (on && (s.dev.part p).busMaster) ∧ (t.dev.part p).tdi = .error ∧
          (t.dev.part p).quiesced = true ∧ (t.dev.part p).created = (s.dev.part p).created) ∧
      ((s.dev.port (p / 4)).linkUp = false → CompletesTo (.configSpaceWrite p) s s.dev)) ∧
    (∀ n : Fin 4,
      (∀ speed width, (s.dev.port n).inReset = true ∨ (s.dev.port n).perst = true ∨ linkLegal speed width = false →
        CompletesTo (.linkTraining n speed width) s s.dev) ∧
      ((s.dev.port n).linkUp = false → CompletesTo (.linkDown n) s s.dev ∧
        ∀ who slot nonce, ∀ c ∈ [Instr.getCertificate n who slot, .challenge n who slot nonce,
          .getMeasurements n who slot nonce, .keyExchange n who slot nonce], CompletesTo c s s.dev))
end

