-- ==== Sys2Proof/Laws/Memory.lean ====
section
/-!
SUPPORT. Laws of the addressed memories: every operation keeps the canonical form, a read after a write gives
the bytes written, and a write leaves every other byte as it was.
-/

namespace Sys2Proof.Machine

/-! ### The canonical form -/

theorem cellsWfFrom_mono {lo lo' : Nat} (h : lo ≤ lo') :
    ∀ {l : List Host.Cell}, cellsWfFrom lo' l = true → cellsWfFrom lo l = true
  | [], _ => rfl
  | (k, v) :: t, hw => by
    simp only [cellsWfFrom, Bool.and_eq_true, decide_eq_true_eq] at hw ⊢
    exact ⟨⟨Nat.le_trans h hw.1.1, hw.1.2⟩, hw.2⟩

theorem cellsWfFrom_put {lo a : Nat} {v : Byte} (h : lo ≤ a) :
    ∀ {l : List Host.Cell}, cellsWfFrom lo l = true → cellsWfFrom lo (cellsPut l a v) = true
  | [], _ => by
    simp only [cellsPut]
    split
    · rfl
    · simp [cellsWfFrom, *]
  | (k, w) :: t, hw => by
    simp only [cellsWfFrom, Bool.and_eq_true, decide_eq_true_eq] at hw
    simp only [cellsPut]
    split
    · split
      · simp [cellsWfFrom, hw.1.1, hw.1.2, hw.2]
      · have : a + 1 ≤ k := by omega
        simp [cellsWfFrom, hw.1.2, hw.2, *]
    · split
      · split
        · exact cellsWfFrom_mono (by omega) hw.2
        · subst_vars
          simp [cellsWfFrom, hw.2, *]
      · have hk : k + 1 ≤ a := by omega
        simp [cellsWfFrom, hw.1.1, hw.1.2, cellsWfFrom_put hk hw.2]

theorem cellsWfFrom_filter (p : Host.Cell → Bool) :
    ∀ {lo : Nat} {l : List Host.Cell}, cellsWfFrom lo l = true → cellsWfFrom lo (l.filter p) = true
  | _, [], _ => rfl
  | lo, (k, v) :: t, hw => by
    simp only [cellsWfFrom, Bool.and_eq_true, decide_eq_true_eq] at hw
    have ih := cellsWfFrom_filter p hw.2
    simp only [List.filter]
    split
    · simp [cellsWfFrom, hw.1.1, hw.1.2, ih]
    · exact cellsWfFrom_mono (by omega) ih

theorem cellsWfFrom_append {mid : Nat} {m : List Host.Cell} (hm : cellsWfFrom mid m = true) :
    ∀ {lo : Nat} {l : List Host.Cell}, lo ≤ mid → cellsWfFrom lo l = true → (∀ c ∈ l, c.1 < mid) →
      cellsWfFrom lo (l ++ m) = true
  | _, [], h, _, _ => cellsWfFrom_mono h hm
  | lo, (k, v) :: t, _, hw, hb => by
    simp only [cellsWfFrom, Bool.and_eq_true, decide_eq_true_eq] at hw
    have hk : k + 1 ≤ mid := hb (k, v) (by simp)
    have ih := cellsWfFrom_append hm hk hw.2 (fun c hc => hb c (by simp [hc]))
    simp [cellsWfFrom, hw.1.1, hw.1.2, ih]

/-- Cells of a list with every address below a bound. -/
def cellsBelow (hi : Nat) (l : List Host.Cell) : Prop := ∀ c ∈ l, c.1 < hi

/-- A range replaced by cells of that range keeps the form. -/
theorem cellsWf_splice {l cs : List Host.Cell} {a n : Nat} (hl : cellsWf l = true)
    (hc : cellsWfFrom a (cs.filter (fun c => c.2 != unlistedByte)) = true) (hb : cellsBelow (a + n) cs) :
    cellsWf (cellsSplice l a n cs) = true := by
  have h3 : cellsWfFrom (a + n) (l.filter (fun c => decide (a + n ≤ c.1))) = true := by
    have aux : ∀ {lo : Nat} {l : List Host.Cell}, cellsWfFrom lo l = true →
        cellsWfFrom (a + n) (l.filter (fun c => decide (a + n ≤ c.1))) = true := by
      intro lo l
      induction l generalizing lo with
      | nil => intro _; rfl
      | cons c t ih =>
        intro hw
        obtain ⟨k, v⟩ := c
        simp only [cellsWfFrom, Bool.and_eq_true, decide_eq_true_eq] at hw
        simp only [List.filter]
        split
        · rename_i hd
          simp only [decide_eq_true_eq] at hd
          simp [cellsWfFrom, hd, hw.1.2, cellsWfFrom_filter _ hw.2]
        · exact ih hw.2
    exact aux hl
  have h2 : cellsWfFrom a (cs.filter (fun c => c.2 != unlistedByte) ++
      l.filter (fun c => decide (a + n ≤ c.1))) = true :=
    cellsWfFrom_append h3 (Nat.le_add_right a n) hc (fun c h => hb c ((List.mem_filter.mp h).1))
  have h1 := cellsWfFrom_append h2 (Nat.zero_le a) (cellsWfFrom_filter (fun c => decide (c.1 < a)) hl)
    (fun c h => by simpa using (List.mem_filter.mp h).2)
  simpa [cellsSplice, List.append_assoc, cellsWf] using h1

theorem cellsAt_below (bs : Bytes) : ∀ a, cellsBelow (a + bs.length) (cellsAt a bs) := by
  induction bs with
  | nil => intro a c h; simp [cellsAt] at h
  | cons b bs ih =>
    intro a c h
    simp only [cellsAt, List.mem_cons] at h
    rcases h with rfl | h
    · simp
    · have := ih (a + 1) c h
      simp only [List.length_cons]
      omega

theorem cellsAt_wf (bs : Bytes) :
    ∀ a, cellsWfFrom a ((cellsAt a bs).filter (fun c => c.2 != unlistedByte)) = true := by
  induction bs with
  | nil => intro a; rfl
  | cons b bs ih =>
    intro a
    simp only [cellsAt, List.filter]
    split
    · rename_i hb
      simp [cellsWfFrom, hb, ih (a + 1)]
    · exact cellsWfFrom_mono (Nat.le_succ a) (ih (a + 1))

theorem cellsMove_wf (src dst : Nat) : ∀ {lo : Nat} {l : List Host.Cell}, cellsWfFrom lo l = true →
    (∀ c ∈ l, src ≤ c.1) →
    cellsWfFrom (lo - src + dst) (l.map (fun c => (c.1 - src + dst, c.2))) = true
  | _, [], _, _ => rfl
  | lo, (k, v) :: t, hw, hs => by
    simp only [cellsWfFrom, Bool.and_eq_true, decide_eq_true_eq] at hw
    have hk : src ≤ k := hs (k, v) (by simp)
    have ih := cellsMove_wf src dst hw.2 (fun c hc => hs c (by simp [hc]))
    have e : k + 1 - src + dst = k - src + dst + 1 := by omega
    rw [e] at ih
    have hle : lo - src + dst ≤ k - src + dst := by omega
    simp [cellsWfFrom, hle, hw.1.2, ih]

theorem Mem.write_wf (m : Mem) (a : Nat) (v : Byte) (h : m.wf = true) : (m.write a v).wf = true :=
  cellsWfFrom_put (Nat.zero_le a) h

theorem Mem.apply_wf (cs : List Host.Cell) : ∀ (m : Mem), m.wf = true → (m.apply cs).wf = true := by
  induction cs with
  | nil => intro m h; exact h
  | cons c cs ih => intro m h; exact ih _ (m.write_wf c.1 c.2 h)

theorem Mem.writeBytes_wf (m : Mem) (a : Nat) (bs : Bytes) (h : m.wf = true) : (m.writeBytes a bs).wf = true :=
  cellsWf_splice h (cellsAt_wf bs a) (cellsAt_below bs a)

theorem Mem.clear_wf (m : Mem) (a n : Nat) (h : m.wf = true) : (m.clear a n).wf = true :=
  cellsWfFrom_filter _ h

theorem Mem.copy_wf (m : Mem) (src dst n : Nat) (h : m.wf = true) : (m.copy src dst n).wf = true := by
  have hs : ∀ c ∈ m.bytes.filter (fun c => decide (src ≤ c.1) && decide (c.1 < src + n)),
      src ≤ c.1 ∧ c.1 < src + n := by
    intro c hc
    simpa using (List.mem_filter.mp hc).2
  have hw := cellsMove_wf src dst (cellsWfFrom_filter (fun c => decide (src ≤ c.1) && decide (c.1 < src + n)) h)
    (fun c hc => (hs c hc).1)
  refine cellsWf_splice h (cellsWfFrom_filter _ ?_) ?_
  · have aux : ∀ {l : List Host.Cell}, (∀ c ∈ l, dst ≤ c.1) → cellsWfFrom (0 - src + dst) l = true →
        cellsWfFrom dst l = true := by
      intro l hl hw'
      cases l with
      | nil => rfl
      | cons c t =>
        obtain ⟨k, v⟩ := c
        simp only [cellsWfFrom, Bool.and_eq_true, decide_eq_true_eq] at hw' ⊢
        exact ⟨⟨hl (k, v) (by simp), hw'.1.2⟩, hw'.2⟩
    refine aux ?_ hw
    intro c hc
    obtain ⟨d, _, rfl⟩ := List.mem_map.mp hc
    exact Nat.le_add_left dst _
  · intro c hc
    obtain ⟨d, hd, rfl⟩ := List.mem_map.mp hc
    have := hs d hd
    show d.1 - src + dst < dst + n
    omega

@[simp] theorem Mem.poison_bytes (m : Mem) (l : Nat) : (m.poison l).bytes = m.bytes := by
  simp only [Mem.poison]
  split <;> rfl

@[simp] theorem Mem.clearPoison_bytes (m : Mem) (a n : Nat) : (m.clearPoison a n).bytes = m.bytes := rfl

@[simp] theorem Mem.own_bytes (m : Mem) (l n : Nat) (ro : Bool) (p : Nat) : (m.own l n ro p).bytes = m.bytes := rfl

/-- Every memory operation keeps the canonical form. -/
theorem MemOp.run_wf (m : Mem) (o : MemOp) (h : m.wf = true) : (MemOp.run m o).wf = true := by
  cases o with
  | write a bs => exact m.writeBytes_wf a bs h
  | cells cs => exact Mem.apply_wf cs m h
  | clear a n => exact m.clear_wf a n h
  | copy a b n => exact m.copy_wf a b n h
  | poison l => simpa [MemOp.run, Mem.wf] using h
  | clearPoison a n => simpa [MemOp.run, Mem.wf] using h
  | own l n ro p => simpa [MemOp.run, Mem.wf] using h
  | poisonUnits us => exact h
  | cleanUnits us => exact h
  | wipe => rfl
  | keepOnly rs => exact cellsWfFrom_filter _ h

theorem MemOp.fold_wf (l : List MemOp) : ∀ (m : Mem), m.wf = true → (l.foldl MemOp.run m).wf = true := by
  induction l with
  | nil => intro m h; exact h
  | cons o l ih => intro m h; exact ih _ (MemOp.run_wf m o h)

/-! ### Reads after writes -/

theorem cellsGet_below {a : Nat} : ∀ {lo : Nat} {l : List Host.Cell}, cellsWfFrom lo l = true → a < lo →
    cellsGet l a = unlistedByte
  | _, [], _, _ => rfl
  | lo, (k, v) :: t, hw, h => by
    simp only [cellsWfFrom, Bool.and_eq_true, decide_eq_true_eq] at hw
    have hk : k ≠ a := by omega
    simp [cellsGet, hk, cellsGet_below hw.2 (by omega : a < k + 1)]

theorem cellsGet_put (a x : Nat) (v : Byte) : ∀ {lo : Nat} {l : List Host.Cell}, cellsWfFrom lo l = true →
    cellsGet (cellsPut l a v) x = if x = a then v else cellsGet l x
  | _, [], _ => by
    simp only [cellsPut]
    split
    · split
      · simp [cellsGet, *]
      · rfl
    · split
      · subst_vars; simp [cellsGet]
      · simp [cellsGet, Ne.symm ‹x ≠ a›]
  | lo, (k, w) :: t, hw => by
    simp only [cellsWfFrom, Bool.and_eq_true, decide_eq_true_eq] at hw
    simp only [cellsPut]
    split
    · rename_i hak
      split
      · rename_i hv
        split
        · rename_i hx
          subst hx
          have hk : k ≠ x := by omega
          simp [cellsGet, hk, hv, cellsGet_below hw.2 (by omega : x < k + 1)]
        · rfl
      · split
        · subst_vars; simp [cellsGet]
        · simp [cellsGet, Ne.symm ‹x ≠ a›]
    · split
      · rename_i hak
        subst hak
        split
        · rename_i hv
          split
          · rename_i hx
            subst hx
            rw [hv]
            exact cellsGet_below hw.2 (by omega)
          · rename_i hx
            simp [cellsGet, Ne.symm hx]
        · split
          · subst_vars; simp [cellsGet]
          · simp [cellsGet, Ne.symm ‹x ≠ a›]
      · rename_i h1 h2
        simp only [cellsGet, cellsGet_put a x v hw.2]
        split
        · rename_i hk
          subst hk
          simp [Ne.symm h2]
        · rfl

theorem Mem.read_write (m : Mem) (a x : Nat) (v : Byte) (h : m.wf = true) :
    (m.write a v).read x = if x = a then v else m.read x := cellsGet_put a x v h

theorem cellsGet_filter (p : Nat → Bool) (x : Nat) : ∀ l : List Host.Cell,
    cellsGet (l.filter (fun c => p c.1)) x = if p x then cellsGet l x else unlistedByte
  | [] => by simp [cellsGet]
  | (k, v) :: t => by
    simp only [List.filter]
    have ih := cellsGet_filter p x t
    split
    · rename_i hk
      simp only [cellsGet, ih]
      split
      · subst_vars; simp [hk]
      · rfl
    · rename_i hk
      rw [ih]
      split
      · rename_i hx
        have : k ≠ x := fun e => by subst e; simp_all
        simp [cellsGet, this]
      · rfl

theorem cellsGet_append (x : Nat) (m : List Host.Cell) : ∀ l : List Host.Cell,
    cellsGet (l ++ m) x = if x ∈ l.map Prod.fst then cellsGet l x else cellsGet m x
  | [] => by simp
  | (k, v) :: t => by
    have ih := cellsGet_append x m t
    simp only [List.cons_append, cellsGet, ih, List.map, List.mem_cons]
    by_cases h : k = x
    · subst h; simp
    · simp [h, Ne.symm h]

theorem cellsGet_absent (x : Nat) : ∀ {l : List Host.Cell}, x ∉ l.map Prod.fst → cellsGet l x = unlistedByte
  | [], _ => rfl
  | (k, v) :: t, h => by
    simp only [List.map, List.mem_cons, not_or] at h
    simp [cellsGet, Ne.symm h.1, cellsGet_absent x h.2]

/-- What a spliced list reads, outside the range and inside it. -/
theorem cellsGet_splice_outside (l cs : List Host.Cell) (a n x : Nat) (hb : ∀ c ∈ cs, a ≤ c.1 ∧ c.1 < a + n)
    (hx : x < a ∨ a + n ≤ x) : cellsGet (cellsSplice l a n cs) x = cellsGet l x := by
  have hc : x ∉ (cs.filter (fun c => c.2 != unlistedByte)).map Prod.fst := by
    intro h
    obtain ⟨c, hc, rfl⟩ := List.mem_map.mp h
    have := hb c (List.mem_filter.mp hc).1
    omega
  have f1 := cellsGet_filter (fun k => decide (k < a)) x l
  have f3 := cellsGet_filter (fun k => decide (a + n ≤ k)) x l
  simp only [decide_eq_true_eq] at f1 f3
  simp only [cellsSplice, List.append_assoc, cellsGet_append, f1, f3, if_neg hc]
  rcases hx with hx | hx
  · split
    · simp
    · rename_i hn
      have : ¬ a + n ≤ x := by omega
      have g : cellsGet (l.filter (fun c => decide (c.1 < a))) x = unlistedByte := cellsGet_absent x hn
      rw [f1, if_pos hx] at g
      simp [this, g]
  · have h1 : ¬ x < a := by omega
    have hn : x ∉ (l.filter (fun c => decide (c.1 < a))).map Prod.fst := by
      intro h
      obtain ⟨c, hc', rfl⟩ := List.mem_map.mp h
      have := (List.mem_filter.mp hc').2
      simp only [decide_eq_true_eq] at this
      omega
    simp [hn, hx]

/-- A byte string written: outside its range every byte reads as before. -/
theorem Mem.read_writeBytes_outside (m : Mem) (a x : Nat) (bs : Bytes) (hx : x < a ∨ a + bs.length ≤ x) :
    (m.writeBytes a bs).read x = m.read x := by
  refine cellsGet_splice_outside m.bytes (cellsAt a bs) a bs.length x ?_ hx
  have : ∀ (bs : Bytes) (b : Nat), ∀ c ∈ cellsAt b bs, b ≤ c.1 ∧ c.1 < b + bs.length := by
    intro bs
    induction bs with
    | nil => intro b c h; simp [cellsAt] at h
    | cons v bs ih =>
      intro b c h
      simp only [cellsAt, List.mem_cons] at h
      simp only [List.length_cons]
      rcases h with rfl | h
      · constructor <;> simp
      · have := ih (b + 1) c h
        omega
  exact this bs a

theorem cellsGet_at (bs : Bytes) : ∀ (a i : Nat), i < bs.length →
    cellsGet ((cellsAt a bs).filter (fun c => c.2 != unlistedByte)) (a + i) = bs.getD i 0 := by
  induction bs with
  | nil => intro a i h; simp at h
  | cons b bs ih =>
    intro a i h
    have wf' := cellsAt_wf bs (a + 1)
    cases i with
    | zero =>
      have hz : cellsGet ((cellsAt (a + 1) bs).filter (fun c => c.2 != unlistedByte)) a = unlistedByte :=
        cellsGet_below wf' (Nat.lt_succ_self a)
      simp only [cellsAt, List.filter, Nat.add_zero]
      split
      · simp [cellsGet]
      · rename_i hb
        rw [hz]
        simp at hb
        simp [hb]
    | succ i =>
      have hi : i < bs.length := by simpa using h
      have e : a + (i + 1) = a + 1 + i := by omega
      have hne : a ≠ a + 1 + i := by omega
      simp only [cellsAt, List.filter, e]
      split
      · simp only [cellsGet, if_neg hne, ih (a + 1) i hi]
        simp
      · rw [ih (a + 1) i hi]
        simp

/-- A byte string written: each byte of it reads back. -/
theorem Mem.read_writeBytes_inside (m : Mem) (a i : Nat) (bs : Bytes) (hi : i < bs.length) :
    (m.writeBytes a bs).read (a + i) = bs.getD i 0 := by
  have hn : a + i ∉ (m.bytes.filter (fun c => decide (c.1 < a))).map Prod.fst := by
    intro h
    obtain ⟨c, hc', he⟩ := List.mem_map.mp h
    have := (List.mem_filter.mp hc').2
    simp only [decide_eq_true_eq] at this
    omega
  show cellsGet (cellsSplice m.bytes a bs.length (cellsAt a bs)) (a + i) = _
  have g := cellsGet_at bs a i hi
  simp only [cellsSplice, List.append_assoc, cellsGet_append, if_neg hn]
  split
  · exact g
  · rename_i hc
    have f3 := cellsGet_filter (fun k => decide (a + bs.length ≤ k)) (a + i) m.bytes
    have hlt : ¬ a + bs.length ≤ a + i := by omega
    simp only [decide_eq_true_eq, if_neg hlt] at f3
    rw [f3, ← cellsGet_absent (a + i) hc, g]

/-- Zeros over a range: nothing outside it changes, and inside it every byte reads as an unlisted one. -/
theorem Mem.read_clear (m : Mem) (a n x : Nat) :
    (m.clear a n).read x = if a ≤ x ∧ x < a + n then unlistedByte else m.read x := by
  have f := cellsGet_filter (fun k => !(decide (a ≤ k) && decide (k < a + n))) x m.bytes
  simp only [Mem.read, Mem.clear]
  rw [f]
  by_cases h : a ≤ x ∧ x < a + n
  · simp [h]
  · rw [if_neg h, if_pos]
    simp only [Bool.not_eq_true', Bool.and_eq_false_iff, decide_eq_false_iff_not]
    omega

end Sys2Proof.Machine
end

