-- ==== Sys2Proof/Laws/Tables.lean ====
section
/-!
SUPPORT. Laws of the tables keyed by numbers: what a table reads after a key is set.
-/

namespace Sys2Proof.Machine

@[simp] theorem tget_nil {α : Type} (x : Nat) : tget ([] : List (Nat × α)) x = none := rfl

@[simp] theorem tget_tset_same {α : Type} (t : List (Nat × α)) (x : Nat) (v : α) :
    tget (tset t x v) x = some v := by
  induction t with
  | nil => simp [tset, tget]
  | cons h t ih =>
    obtain ⟨k, w⟩ := h
    simp only [tset]
    split
    · simp [tget]
    · split
      · simp [tget]
      · rename_i h1 h2
        simp [tget, h2, ih]

theorem tget_tset_other {α : Type} (t : List (Nat × α)) (x y : Nat) (v : α) (h : y ≠ x) :
    tget (tset t x v) y = tget t y := by
  have hx : x ≠ y := Ne.symm h
  induction t with
  | nil => simp [tset, tget, hx]
  | cons c t ih =>
    obtain ⟨k, w⟩ := c
    simp only [tset]
    split
    · simp [tget, hx]
    · split
      · rename_i h1 h2
        subst h2
        simp [tget, hx]
      · simp only [tget, ih]

theorem tget_tset {α : Type} (t : List (Nat × α)) (x y : Nat) (v : α) :
    tget (tset t x v) y = if y = x then some v else tget t y := by
  split
  · rename_i h
    subst h
    exact tget_tset_same t y v
  · rename_i h
    exact tget_tset_other t x y v h

@[simp] theorem tgetD_nil {α : Type} (x : Nat) (d : α) : tgetD ([] : List (Nat × α)) x d = d := rfl

@[simp] theorem tgetD_tset_same {α : Type} (t : List (Nat × α)) (x : Nat) (v d : α) :
    tgetD (tset t x v) x d = v := by simp [tgetD]

theorem tgetD_tset_other {α : Type} (t : List (Nat × α)) (x y : Nat) (v d : α) (h : y ≠ x) :
    tgetD (tset t x v) y d = tgetD t y d := by simp [tgetD, tget_tset_other t x y v h]

theorem tgetD_tset {α : Type} (t : List (Nat × α)) (x y : Nat) (v d : α) :
    tgetD (tset t x v) y d = if y = x then v else tgetD t y d := by
  simp only [tgetD, tget_tset]
  split <;> rfl

/-- A table whose every value is changed reads the changed value. -/
theorem tget_map {α β : Type} (t : List (Nat × α)) (f : α → β) (x : Nat) :
    tget (t.map (fun c => (c.1, f c.2))) x = (tget t x).map f := by
  induction t with
  | nil => rfl
  | cons c t ih =>
    obtain ⟨k, w⟩ := c
    simp only [List.map, tget, ih]
    split <;> rfl

/-- The same for a table with a default, when the change leaves the default as it is. -/
theorem tgetD_map {α : Type} (t : List (Nat × α)) (f : α → α) (x : Nat) (d : α) (h : f d = d) :
    tgetD (t.map (fun c => (c.1, f c.2))) x d = f (tgetD t x d) := by
  simp only [tgetD, tget_map]
  cases tget t x with
  | none => simp [h]
  | some v => rfl

end Sys2Proof.Machine
end

