-- ==== Sys2Proof/Laws/Apply.lean ====
section
/-!
SUPPORT. What `State.apply` can do: the queue stays, the memory and the safety controller follow the command's
operations, every cause raised is taken, and of the device nothing changes beside what the effect says but pending
notices and watermark slots, unless a cause was raised.
-/

namespace Sys2Proof.Machine

theorem NoticesOnly.refl (d : Dev) : NoticesOnly d d := ⟨rfl, fun _ => rfl, fun _ => rfl⟩

theorem NoticesOnly.trans {a b c : Dev} (h : NoticesOnly a b) (g : NoticesOnly b c) : NoticesOnly a c :=
  ⟨g.shell.trans h.shell, fun p => (g.part p).trans (h.part p), fun n => (g.cred n).trans (h.cred n)⟩

theorem NoticesOnly.fold {α : Type} {f : Dev → α → Dev} (h : ∀ d x, NoticesOnly d (f d x)) :
    ∀ (l : List α) (d : Dev), NoticesOnly d (l.foldl f d)
  | [], d => NoticesOnly.refl d
  | x :: l, d => (h d x).trans (NoticesOnly.fold h l (f d x))

/-! ### Tables of the device -/

@[simp] theorem Dev.part_setPart_same (d : Dev) (p : Nat) (x : Part) : (d.setPart p x).part p = x :=
  tgetD_tset_same d.parts p x {}

theorem Dev.part_setPart (d : Dev) (p q : Nat) (x : Part) :
    (d.setPart p x).part q = if q = p then x else d.part q := tgetD_tset d.parts p q x {}

@[simp] theorem Dev.part_modPart_same (d : Dev) (p : Nat) (f : Part → Part) : (d.modPart p f).part p = f (d.part p) :=
  d.part_setPart_same p _

theorem Dev.part_modPart (d : Dev) (p q : Nat) (f : Part → Part) :
    (d.modPart p f).part q = if q = p then f (d.part q) else d.part q := by
  simp only [Dev.modPart, Dev.part_setPart]
  split
  · subst_vars; rfl
  · rfl

theorem Dev.cred_modCred (d : Dev) (c n : Nat) (f : Cred → Cred) :
    (d.modCred c f).cred n = if n = c then f (d.cred n) else d.cred n := by
  simp only [Dev.modCred, Dev.cred, tgetD_tset]
  split
  · subst_vars; rfl
  · rfl

/-! ### Notices -/

theorem Dev.noticePart_only (d : Dev) (p : Nat) (n : Notice) : NoticesOnly d (d.noticePart p n) := by
  refine ⟨rfl, fun q => ?_, fun _ => rfl⟩
  rw [Dev.noticePart, Dev.part_modPart]
  split <;> rfl

theorem Dev.noticeMgmt_only (d : Dev) (n : Notice) : NoticesOnly d (d.noticeMgmt n) := by
  unfold Dev.noticeMgmt
  apply NoticesOnly.fold
  intro a c
  refine ⟨rfl, fun _ => rfl, fun m => ?_⟩
  rw [Dev.cred_modCred]
  split <;> rfl

theorem Dev.notify_only (d : Dev) (part : Option Nat) (rings : List Nat) (b : NoticeBody) :
    NoticesOnly d (d.notify part rings b) :=
  (NoticesOnly.fold (fun a p => a.noticePart_only p _) rings d).trans (Dev.noticeMgmt_only _ _)

theorem Dev.setSlot_only (d : Dev) (v : SlotView) (above : Bool) : NoticesOnly d (d.setSlot v above) := by
  simp only [Dev.setSlot]
  split
  · refine ⟨rfl, fun q => ?_, fun _ => rfl⟩
    rw [Dev.part_modPart]
    split <;> rfl
  · exact ⟨rfl, fun _ => rfl, fun _ => rfl⟩

theorem Dev.trackPeak_only (d : Dev) (slot value : Nat) (above : Bool) : NoticesOnly d (d.trackPeak slot value above) := by
  refine ⟨rfl, fun q => ?_, fun c => ?_⟩
  · have h := tgetD_map d.parts (fun x => { x with pending := x.pending.map (peakNotice slot value above) }) q
      ({} : Part) rfl
    have g := congrArg Part.shell h
    exact g.trans rfl
  · have h := tgetD_map d.mgmt.creds (fun x => { x with pending := x.pending.map (peakNotice slot value above) }) c
      ({} : Cred) rfl
    have g := congrArg Cred.shell h
    exact g.trans rfl

theorem Dev.crossSlot_only (d : Dev) (v : SlotView) (value : Nat) : NoticesOnly d (d.crossSlot v value) := by
  simp only [Dev.crossSlot]
  refine NoticesOnly.trans ?_ (Dev.trackPeak_only _ _ _ _)
  split
  · exact (d.setSlot_only v _).trans (Dev.notify_only _ _ _ _)
  · exact NoticesOnly.refl d

theorem State.watch_only (s0 s1 : State) : NoticesOnly s1.dev (s0.watch s1) := by
  unfold State.watch
  apply NoticesOnly.fold
  intro d v
  show NoticesOnly d (if _ then d else _)
  split
  · exact NoticesOnly.refl d
  · exact Dev.crossSlot_only _ _ _

/-! ### A cause taken -/

/-- The device without what a stop, the patterns a stop starts and the notices change. -/
def Dev.frozen (d : Dev) : Dev :=
  { d.shell with cells := [], engines := [], regions := [], stackTab := [], jobs := [], support := {}, raised := [] }

/-- What a stop, the patterns a stop starts and the notices leave as it was. -/
structure SettledOnly (a b : Dev) : Prop where
  frozen : b.frozen = a.frozen
  part : ∀ p, (b.part p).shell = (a.part p).shell
  cred : ∀ c, (b.cred c).shell = (a.cred c).shell

/-- The device stripped of units, jobs and causes. -/
def Dev.freeze (d : Dev) : Dev :=
  { d with cells := [], engines := [], regions := [], stackTab := [], jobs := [], support := {}, raised := [] }

theorem Dev.frozen_eq (d : Dev) : d.frozen = d.shell.freeze := rfl

theorem NoticesOnly.settled {a b : Dev} (h : NoticesOnly a b) : SettledOnly a b := by
  refine ⟨?_, h.part, h.cred⟩
  rw [Dev.frozen_eq, Dev.frozen_eq, h.shell]

theorem SettledOnly.refl (d : Dev) : SettledOnly d d := ⟨rfl, fun _ => rfl, fun _ => rfl⟩

theorem SettledOnly.trans {a b c : Dev} (h : SettledOnly a b) (g : SettledOnly b c) : SettledOnly a c :=
  ⟨g.frozen.trans h.frozen, fun p => (g.part p).trans (h.part p), fun n => (g.cred n).trans (h.cred n)⟩

theorem SettledOnly.fold {α : Type} {f : Dev → α → Dev} (h : ∀ d x, SettledOnly d (f d x)) :
    ∀ (l : List α) (d : Dev), SettledOnly d (l.foldl f d)
  | [], d => SettledOnly.refl d
  | x :: l, d => (h d x).trans (SettledOnly.fold h l (f d x))

theorem Dev.startPattern_only (d : Dev) (c : Nat) : SettledOnly d (d.startPattern c) := by
  unfold Dev.startPattern
  split <;> exact ⟨rfl, fun _ => rfl, fun _ => rfl⟩

theorem Dev.startPattern_raised (d : Dev) (c : Nat) : (d.startPattern c).raised = d.raised := by
  unfold Dev.startPattern
  split <;> rfl

theorem Dev.startPatterns_raised : ∀ (l : List Nat) (d : Dev), (l.foldl Dev.startPattern d).raised = d.raised
  | [], _ => rfl
  | c :: l, d => by rw [List.foldl, Dev.startPatterns_raised l, Dev.startPattern_raised]

theorem Dev.patternAll_only (d : Dev) : SettledOnly d d.patternAll := by
  unfold Dev.patternAll
  generalize (List.range 576).filter d.codeUp = l
  exact (SettledOnly.fold Dev.startPattern_only l d).trans ⟨rfl, fun _ => rfl, fun _ => rfl⟩

theorem Dev.patternAll_raised (d : Dev) : d.patternAll.raised = d.raised := by
  unfold Dev.patternAll
  generalize (List.range 576).filter d.codeUp = l
  exact Dev.startPatterns_raised l d

/-- The device with the raised causes taken out. -/
def Dev.taken (d : Dev) : Dev := { d with raised := [] }

theorem Dev.settle_some (d : Dev) (x y : Safety) (h : d.raised ≠ []) :
    d.settle x y =
      (if d.raised.any (fun x => x.1 == 0) && !bit x.causes 0
        then (if x.safe then d.taken else d.taken.safeStop).patternAll
        else (if x.safe then d.taken else d.taken.safeStop)).faultNotice y.causes x.causes d.raised := by
  have h' : d.raised.isEmpty = false := by
    cases hr : d.raised with
    | nil => exact absurd hr h
    | cons a l => rfl
  unfold Dev.settle
  rw [h']
  rfl

theorem Dev.settle_none (d : Dev) (x y : Safety) (h : d.raised = []) : d.settle x y = d := by
  unfold Dev.settle
  rw [h]
  rfl

theorem Dev.settle_only (d : Dev) (x y : Safety) : SettledOnly d (d.settle x y) := by
  by_cases h : d.raised = []
  · rw [Dev.settle_none d x y h]
    exact SettledOnly.refl d
  · rw [Dev.settle_some d x y h]
    have h1 : SettledOnly d d.taken := ⟨rfl, fun _ => rfl, fun _ => rfl⟩
    have h2 : ∀ a : Dev, SettledOnly a a.safeStop := fun a => ⟨rfl, fun _ => rfl, fun _ => rfl⟩
    have h3 : SettledOnly d (if x.safe then d.taken else d.taken.safeStop) := by
      split
      · exact h1
      · exact h1.trans (h2 _)
    unfold Dev.faultNotice
    refine SettledOnly.trans ?_ (Dev.notify_only _ _ _ _).settled
    split
    · exact h3.trans (Dev.patternAll_only _)
    · exact h3

theorem NoticesOnly.raised {a b : Dev} (h : NoticesOnly a b) : b.raised = a.raised :=
  show b.shell.raised = a.shell.raised from congrArg Dev.raised h.shell

/-- Every cause raised has been taken. -/
theorem Dev.settle_raised (d : Dev) (x y : Safety) : (d.settle x y).raised = [] := by
  by_cases h : d.raised = []
  · rw [Dev.settle_none d x y h, h]
  · rw [Dev.settle_some d x y h]
    unfold Dev.faultNotice
    rw [(Dev.notify_only _ _ _ _).raised]
    have h3 : (if x.safe then d.taken else d.taken.safeStop).raised = [] := by split <;> rfl
    split
    · rw [Dev.patternAll_raised]
      exact h3
    · exact h3

/-! ### The next state of an effect -/

/-- The safety controller after a command. -/
def State.safetyAfter (s : State) (e : Eff) : Safety :=
  (e.safety.foldl SafetyOp.run s.safety).take e.dev.raised

/-- The state a command leads to before the slots are compared. -/
def State.unwatched (s : State) (e : Eff) : State :=
  { s with
    dev := e.dev.settle (e.safety.foldl SafetyOp.run s.safety) (s.safetyAfter e)
    mem := e.mem.foldl MemOp.run s.mem
    safety := s.safetyAfter e }

theorem State.apply_eq (s : State) (e : Eff) :
    s.apply e = { s.unwatched e with dev := s.watch (s.unwatched e) } := rfl

@[simp] theorem State.apply_pending (s : State) (e : Eff) : (s.apply e).pending = s.pending := rfl

@[simp] theorem State.apply_mem (s : State) (e : Eff) : (s.apply e).mem = e.mem.foldl MemOp.run s.mem := rfl

@[simp] theorem State.apply_safety (s : State) (e : Eff) :
    (s.apply e).safety = (e.safety.foldl SafetyOp.run s.safety).take e.dev.raised := rfl

theorem State.apply_settled (s : State) (e : Eff) : SettledOnly e.dev (s.apply e).dev := by
  rw [State.apply_eq]
  exact (Dev.settle_only e.dev _ _).trans (State.watch_only s (s.unwatched e)).settled

theorem State.apply_only (s : State) (e : Eff) (h : e.dev.raised = []) : NoticesOnly e.dev (s.apply e).dev := by
  have g := State.watch_only s (s.unwatched e)
  have hd : (s.unwatched e).dev = e.dev := Dev.settle_none _ _ _ h
  rw [hd] at g
  exact g

@[simp] theorem State.apply_raised (s : State) (e : Eff) : (s.apply e).dev.raised = [] := by
  rw [State.apply_eq]
  exact (State.watch_only s (s.unwatched e)).raised.trans (Dev.settle_raised _ _ _)

/-! ### Soundness of the next state -/

theorem SafetyOp.run_ok (f : Safety) (o : SafetyOp) (h : Sys2Proof.Safety.controllerOk f = true) :
    Sys2Proof.Safety.controllerOk (SafetyOp.run f o) = true := by
  simp only [Sys2Proof.Safety.controllerOk, Bool.and_eq_true, Bool.or_eq_true, beq_iff_eq, Bool.not_eq_true'] at h ⊢
  obtain ⟨h1, h2⟩ := h
  cases o with
  | clear b =>
    refine ⟨?_, h2⟩
    rcases h1 with h1 | h1
    · left
      simp only [SafetyOp.run, h1]
      split <;> simp
    · exact .inr h1
  | release => exact ⟨h1, h2⟩
  | boundary a =>
    simp only [SafetyOp.run]
    split
    · rename_i hm
      simp only [Safety.mayLeave, Bool.and_eq_true, beq_iff_eq] at hm
      exact ⟨.inl hm.1.2, .inl rfl⟩
    · exact ⟨h1, h2⟩
  | ready =>
    refine ⟨h1, ?_⟩
    simp only [SafetyOp.run]
    cases f.safe <;> simp
  | restart => exact ⟨.inl rfl, .inl rfl⟩

theorem SafetyOp.fold_ok : ∀ (l : List SafetyOp) (f : Safety), Sys2Proof.Safety.controllerOk f = true →
    Sys2Proof.Safety.controllerOk (l.foldl SafetyOp.run f) = true
  | [], _, h => h
  | o :: l, f, h => SafetyOp.fold_ok l _ (SafetyOp.run_ok f o h)

theorem Safety.take_ok (f : Safety) (l : List (Nat × Nat)) (h : Sys2Proof.Safety.controllerOk f = true) :
    Sys2Proof.Safety.controllerOk (f.take l) = true := by
  simp only [Safety.take]
  split
  · exact h
  · simp [Sys2Proof.Safety.controllerOk]

/-- Memory in canonical form and the safety controller's rule: what an effect needs for a sound next state. -/
def State.steady (s : State) : Prop := s.mem.wf = true ∧ Sys2Proof.Safety.controllerOk s.safety = true

theorem State.sound_steady {s : State} (h : Sys2Proof.Safety.Sound s) : s.steady := ⟨h.1, h.2.1⟩

/-- An effect leads from a steady state to a sound one. -/
theorem State.apply_sound (s : State) (e : Eff) (h : s.steady) : Sys2Proof.Safety.Sound (s.apply e) :=
  ⟨MemOp.fold_wf _ _ h.1, Safety.take_ok _ _ (SafetyOp.fold_ok _ _ h.2), State.apply_raised s e⟩

/-- What every command does to a state as a whole: the queue stays, and a sound state stays sound. -/
structure Follows (s t : State) : Prop where
  pending : t.pending = s.pending
  sound : Sys2Proof.Safety.Sound s → Sys2Proof.Safety.Sound t

theorem Follows.refl (s : State) : Follows s s := ⟨rfl, id⟩

theorem Follows.trans {a b c : State} (h : Follows a b) (g : Follows b c) : Follows a c :=
  ⟨g.pending.trans h.pending, fun x => g.sound (h.sound x)⟩

theorem Follows.apply (s : State) (e : Eff) : Follows s (s.apply e) :=
  ⟨rfl, fun h => State.apply_sound s e (State.sound_steady h)⟩

theorem Follows.withDev (s : State) (d : Dev) : Follows s (s.withDev d) := Follows.apply s _

theorem Follows.fold {α : Type} {f : State → α → State} (h : ∀ s x, Follows s (f s x)) :
    ∀ (l : List α) (s : State), Follows s (l.foldl f s)
  | [], s => Follows.refl s
  | x :: l, s => (h s x).trans (Follows.fold h l (f s x))

end Sys2Proof.Machine
end

