-- ==== Sys2Proof/Laws/Fields.lean ====
section
/-!
SUPPORT. The fields of the device after a command: each as the command's effect leaves it. Fields that a cause
stopping the device changes are read so when the effect raises no cause.
-/

namespace Sys2Proof.Machine

variable (s : State) (e : Eff) {a b : Dev}

theorem SettledOnly.now (h : SettledOnly a b) : b.now = a.now := (congrArg Dev.now h.frozen :)

@[simp] theorem State.apply_now : (s.apply e).dev.now = e.dev.now := (s.apply_settled e).now

theorem SettledOnly.freeCount (h : SettledOnly a b) : b.freeCount = a.freeCount := (congrArg Dev.freeCount h.frozen :)

@[simp] theorem State.apply_freeCount : (s.apply e).dev.freeCount = e.dev.freeCount := (s.apply_settled e).freeCount

theorem SettledOnly.tick (h : SettledOnly a b) : b.tick = a.tick := (congrArg Dev.tick h.frozen :)

@[simp] theorem State.apply_tick : (s.apply e).dev.tick = e.dev.tick := (s.apply_settled e).tick

theorem SettledOnly.time (h : SettledOnly a b) : b.time = a.time := (congrArg Dev.time h.frozen :)

@[simp] theorem State.apply_time : (s.apply e).dev.time = e.dev.time := (s.apply_settled e).time

theorem SettledOnly.conf (h : SettledOnly a b) : b.conf = a.conf := (congrArg Dev.conf h.frozen :)

@[simp] theorem State.apply_conf : (s.apply e).dev.conf = e.dev.conf := (s.apply_settled e).conf

theorem SettledOnly.force (h : SettledOnly a b) : b.force = a.force := (congrArg Dev.force h.frozen :)

@[simp] theorem State.apply_force : (s.apply e).dev.force = e.dev.force := (s.apply_settled e).force

theorem SettledOnly.counters (h : SettledOnly a b) : b.counters = a.counters := (congrArg Dev.counters h.frozen :)

@[simp] theorem State.apply_counters : (s.apply e).dev.counters = e.dev.counters := (s.apply_settled e).counters

theorem SettledOnly.ports (h : SettledOnly a b) : b.ports = a.ports := (congrArg Dev.ports h.frozen :)

@[simp] theorem State.apply_ports : (s.apply e).dev.ports = e.dev.ports := (s.apply_settled e).ports

theorem NoticesOnly.regions (h : NoticesOnly a b) : b.regions = a.regions := (congrArg Dev.regions h.shell :)

theorem State.apply_regions (h : e.dev.raised = []) : (s.apply e).dev.regions = e.dev.regions := (s.apply_only e h).regions

theorem NoticesOnly.stackTab (h : NoticesOnly a b) : b.stackTab = a.stackTab := (congrArg Dev.stackTab h.shell :)

theorem State.apply_stackTab (h : e.dev.raised = []) : (s.apply e).dev.stackTab = e.dev.stackTab := (s.apply_only e h).stackTab

theorem NoticesOnly.cells (h : NoticesOnly a b) : b.cells = a.cells := (congrArg Dev.cells h.shell :)

theorem State.apply_cells (h : e.dev.raised = []) : (s.apply e).dev.cells = e.dev.cells := (s.apply_only e h).cells

theorem NoticesOnly.engines (h : NoticesOnly a b) : b.engines = a.engines := (congrArg Dev.engines h.shell :)

theorem State.apply_engines (h : e.dev.raised = []) : (s.apply e).dev.engines = e.dev.engines := (s.apply_only e h).engines

theorem NoticesOnly.jobs (h : NoticesOnly a b) : b.jobs = a.jobs := (congrArg Dev.jobs h.shell :)

theorem State.apply_jobs (h : e.dev.raised = []) : (s.apply e).dev.jobs = e.dev.jobs := (s.apply_only e h).jobs

theorem SettledOnly.images (h : SettledOnly a b) : b.images = a.images := (congrArg Dev.images h.frozen :)

@[simp] theorem State.apply_images : (s.apply e).dev.images = e.dev.images := (s.apply_settled e).images

theorem SettledOnly.nextImage (h : SettledOnly a b) : b.nextImage = a.nextImage := (congrArg Dev.nextImage h.frozen :)

@[simp] theorem State.apply_nextImage : (s.apply e).dev.nextImage = e.dev.nextImage := (s.apply_settled e).nextImage

theorem SettledOnly.objects (h : SettledOnly a b) : b.objects = a.objects := (congrArg Dev.objects h.frozen :)

@[simp] theorem State.apply_objects : (s.apply e).dev.objects = e.dev.objects := (s.apply_settled e).objects

theorem SettledOnly.pageFrames (h : SettledOnly a b) : b.pageFrames = a.pageFrames := (congrArg Dev.pageFrames h.frozen :)

@[simp] theorem State.apply_pageFrames : (s.apply e).dev.pageFrames = e.dev.pageFrames := (s.apply_settled e).pageFrames

theorem SettledOnly.streams (h : SettledOnly a b) : b.streams = a.streams := (congrArg Dev.streams h.frozen :)

@[simp] theorem State.apply_streams : (s.apply e).dev.streams = e.dev.streams := (s.apply_settled e).streams

theorem SettledOnly.stateObjs (h : SettledOnly a b) : b.stateObjs = a.stateObjs := (congrArg Dev.stateObjs h.frozen :)

@[simp] theorem State.apply_stateObjs : (s.apply e).dev.stateObjs = e.dev.stateObjs := (s.apply_settled e).stateObjs

theorem SettledOnly.dirs (h : SettledOnly a b) : b.dirs = a.dirs := (congrArg Dev.dirs h.frozen :)

@[simp] theorem State.apply_dirs : (s.apply e).dev.dirs = e.dev.dirs := (s.apply_settled e).dirs

theorem SettledOnly.dirHomes (h : SettledOnly a b) : b.dirHomes = a.dirHomes := (congrArg Dev.dirHomes h.frozen :)

@[simp] theorem State.apply_dirHomes : (s.apply e).dev.dirHomes = e.dev.dirHomes := (s.apply_settled e).dirHomes

theorem SettledOnly.stackAlloc (h : SettledOnly a b) : b.stackAlloc = a.stackAlloc := (congrArg Dev.stackAlloc h.frozen :)

@[simp] theorem State.apply_stackAlloc : (s.apply e).dev.stackAlloc = e.dev.stackAlloc := (s.apply_settled e).stackAlloc

theorem SettledOnly.cacheAlloc (h : SettledOnly a b) : b.cacheAlloc = a.cacheAlloc := (congrArg Dev.cacheAlloc h.frozen :)

@[simp] theorem State.apply_cacheAlloc : (s.apply e).dev.cacheAlloc = e.dev.cacheAlloc := (s.apply_settled e).cacheAlloc

theorem SettledOnly.stratus (h : SettledOnly a b) : b.stratus = a.stratus := (congrArg Dev.stratus h.frozen :)

@[simp] theorem State.apply_stratus : (s.apply e).dev.stratus = e.dev.stratus := (s.apply_settled e).stratus

theorem SettledOnly.transfers (h : SettledOnly a b) : b.transfers = a.transfers := (congrArg Dev.transfers h.frozen :)

@[simp] theorem State.apply_transfers : (s.apply e).dev.transfers = e.dev.transfers := (s.apply_settled e).transfers

theorem SettledOnly.repairs (h : SettledOnly a b) : b.repairs = a.repairs := (congrArg Dev.repairs h.frozen :)

@[simp] theorem State.apply_repairs : (s.apply e).dev.repairs = e.dev.repairs := (s.apply_settled e).repairs

theorem SettledOnly.removals (h : SettledOnly a b) : b.removals = a.removals := (congrArg Dev.removals h.frozen :)

@[simp] theorem State.apply_removals : (s.apply e).dev.removals = e.dev.removals := (s.apply_settled e).removals

theorem SettledOnly.capacityEvents (h : SettledOnly a b) : b.capacityEvents = a.capacityEvents := (congrArg Dev.capacityEvents h.frozen :)

@[simp] theorem State.apply_capacityEvents : (s.apply e).dev.capacityEvents = e.dev.capacityEvents := (s.apply_settled e).capacityEvents

theorem SettledOnly.store (h : SettledOnly a b) : b.store = a.store := (congrArg Dev.store h.frozen :)

@[simp] theorem State.apply_store : (s.apply e).dev.store = e.dev.store := (s.apply_settled e).store

theorem SettledOnly.start (h : SettledOnly a b) : b.start = a.start := (congrArg Dev.start h.frozen :)

@[simp] theorem State.apply_start : (s.apply e).dev.start = e.dev.start := (s.apply_settled e).start

theorem SettledOnly.backup (h : SettledOnly a b) : b.backup = a.backup := (congrArg Dev.backup h.frozen :)

@[simp] theorem State.apply_backup : (s.apply e).dev.backup = e.dev.backup := (s.apply_settled e).backup

theorem SettledOnly.ageing (h : SettledOnly a b) : b.ageing = a.ageing := (congrArg Dev.ageing h.frozen :)

@[simp] theorem State.apply_ageing : (s.apply e).dev.ageing = e.dev.ageing := (s.apply_settled e).ageing

theorem SettledOnly.pins (h : SettledOnly a b) : b.pins = a.pins := (congrArg Dev.pins h.frozen :)

@[simp] theorem State.apply_pins : (s.apply e).dev.pins = e.dev.pins := (s.apply_settled e).pins

theorem SettledOnly.power (h : SettledOnly a b) : b.power = a.power := (congrArg Dev.power h.frozen :)

@[simp] theorem State.apply_power : (s.apply e).dev.power = e.dev.power := (s.apply_settled e).power

theorem SettledOnly.smbus (h : SettledOnly a b) : b.smbus = a.smbus := (congrArg Dev.smbus h.frozen :)

@[simp] theorem State.apply_smbus : (s.apply e).dev.smbus = e.dev.smbus := (s.apply_settled e).smbus

theorem NoticesOnly.support (h : NoticesOnly a b) : b.support = a.support := (congrArg Dev.support h.shell :)

theorem State.apply_support (h : e.dev.raised = []) : (s.apply e).dev.support = e.dev.support := (s.apply_only e h).support

theorem SettledOnly.lockOpened (h : SettledOnly a b) : b.lockOpened = a.lockOpened := (congrArg Dev.lockOpened h.frozen :)

@[simp] theorem State.apply_lockOpened : (s.apply e).dev.lockOpened = e.dev.lockOpened := (s.apply_settled e).lockOpened

theorem SettledOnly.mgmtTest (h : SettledOnly a b) : b.mgmtTest = a.mgmtTest := (congrArg Dev.mgmtTest h.frozen :)

@[simp] theorem State.apply_mgmtTest : (s.apply e).dev.mgmtTest = e.dev.mgmtTest := (s.apply_settled e).mgmtTest

theorem SettledOnly.mgmtTestUnit (h : SettledOnly a b) : b.mgmtTestUnit = a.mgmtTestUnit := (congrArg Dev.mgmtTestUnit h.frozen :)

@[simp] theorem State.apply_mgmtTestUnit : (s.apply e).dev.mgmtTestUnit = e.dev.mgmtTestUnit := (s.apply_settled e).mgmtTestUnit

theorem SettledOnly.lastReport (h : SettledOnly a b) : b.lastReport = a.lastReport := (congrArg Dev.lastReport h.frozen :)

@[simp] theorem State.apply_lastReport : (s.apply e).dev.lastReport = e.dev.lastReport := (s.apply_settled e).lastReport

theorem SettledOnly.lastValue (h : SettledOnly a b) : b.lastValue = a.lastValue := (congrArg Dev.lastValue h.frozen :)

@[simp] theorem State.apply_lastValue : (s.apply e).dev.lastValue = e.dev.lastValue := (s.apply_settled e).lastValue

theorem SettledOnly.driverTest (h : SettledOnly a b) : b.driverTest = a.driverTest := (congrArg Dev.driverTest h.frozen :)

@[simp] theorem State.apply_driverTest : (s.apply e).dev.driverTest = e.dev.driverTest := (s.apply_settled e).driverTest

theorem SettledOnly.arrivals (h : SettledOnly a b) : b.arrivals = a.arrivals := (congrArg Dev.arrivals h.frozen :)

@[simp] theorem State.apply_arrivals : (s.apply e).dev.arrivals = e.dev.arrivals := (s.apply_settled e).arrivals

theorem SettledOnly.mgmt_sessions (h : SettledOnly a b) : b.mgmt.sessions = a.mgmt.sessions :=
  (congrArg (fun d : Dev => d.mgmt.sessions) h.frozen :)

@[simp] theorem State.apply_mgmt_sessions : (s.apply e).dev.mgmt.sessions = e.dev.mgmt.sessions := (s.apply_settled e).mgmt_sessions

theorem SettledOnly.mgmt_nextSession (h : SettledOnly a b) : b.mgmt.nextSession = a.mgmt.nextSession :=
  (congrArg (fun d : Dev => d.mgmt.nextSession) h.frozen :)

@[simp] theorem State.apply_mgmt_nextSession : (s.apply e).dev.mgmt.nextSession = e.dev.mgmt.nextSession := (s.apply_settled e).mgmt_nextSession

theorem SettledOnly.mgmt_lost (h : SettledOnly a b) : b.mgmt.lost = a.mgmt.lost :=
  (congrArg (fun d : Dev => d.mgmt.lost) h.frozen :)

@[simp] theorem State.apply_mgmt_lost : (s.apply e).dev.mgmt.lost = e.dev.mgmt.lost := (s.apply_settled e).mgmt_lost

theorem SettledOnly.mgmt_supervision (h : SettledOnly a b) : b.mgmt.supervision = a.mgmt.supervision :=
  (congrArg (fun d : Dev => d.mgmt.supervision) h.frozen :)

@[simp] theorem State.apply_mgmt_supervision : (s.apply e).dev.mgmt.supervision = e.dev.mgmt.supervision := (s.apply_settled e).mgmt_supervision

theorem SettledOnly.mgmt_sentMessages (h : SettledOnly a b) : b.mgmt.sentMessages = a.mgmt.sentMessages :=
  (congrArg (fun d : Dev => d.mgmt.sentMessages) h.frozen :)

@[simp] theorem State.apply_mgmt_sentMessages : (s.apply e).dev.mgmt.sentMessages = e.dev.mgmt.sentMessages := (s.apply_settled e).mgmt_sentMessages

theorem SettledOnly.mgmt_frames (h : SettledOnly a b) : b.mgmt.frames = a.mgmt.frames :=
  (congrArg (fun d : Dev => d.mgmt.frames) h.frozen :)

@[simp] theorem State.apply_mgmt_frames : (s.apply e).dev.mgmt.frames = e.dev.mgmt.frames := (s.apply_settled e).mgmt_frames

theorem SettledOnly.mgmt_alerts (h : SettledOnly a b) : b.mgmt.alerts = a.mgmt.alerts :=
  (congrArg (fun d : Dev => d.mgmt.alerts) h.frozen :)

@[simp] theorem State.apply_mgmt_alerts : (s.apply e).dev.mgmt.alerts = e.dev.mgmt.alerts := (s.apply_settled e).mgmt_alerts

theorem SettledOnly.mgmt_down (h : SettledOnly a b) : b.mgmt.down = a.mgmt.down :=
  (congrArg (fun d : Dev => d.mgmt.down) h.frozen :)

@[simp] theorem State.apply_mgmt_down : (s.apply e).dev.mgmt.down = e.dev.mgmt.down := (s.apply_settled e).mgmt_down

theorem SettledOnly.part_created (h : SettledOnly a b) (p : Nat) : (b.part p).created = (a.part p).created :=
  (congrArg Part.created (h.part p) :)

@[simp] theorem State.apply_part_created (p : Nat) : ((s.apply e).dev.part p).created = (e.dev.part p).created :=
  (s.apply_settled e).part_created p

theorem SettledOnly.part_name (h : SettledOnly a b) (p : Nat) : (b.part p).name = (a.part p).name :=
  (congrArg Part.name (h.part p) :)

@[simp] theorem State.apply_part_name (p : Nat) : ((s.apply e).dev.part p).name = (e.dev.part p).name :=
  (s.apply_settled e).part_name p

theorem SettledOnly.part_present (h : SettledOnly a b) (p : Nat) : (b.part p).present = (a.part p).present :=
  (congrArg Part.present (h.part p) :)

@[simp] theorem State.apply_part_present (p : Nat) : ((s.apply e).dev.part p).present = (e.dev.part p).present :=
  (s.apply_settled e).part_present p

theorem SettledOnly.part_busMaster (h : SettledOnly a b) (p : Nat) : (b.part p).busMaster = (a.part p).busMaster :=
  (congrArg Part.busMaster (h.part p) :)

@[simp] theorem State.apply_part_busMaster (p : Nat) : ((s.apply e).dev.part p).busMaster = (e.dev.part p).busMaster :=
  (s.apply_settled e).part_busMaster p

theorem SettledOnly.part_quiesced (h : SettledOnly a b) (p : Nat) : (b.part p).quiesced = (a.part p).quiesced :=
  (congrArg Part.quiesced (h.part p) :)

@[simp] theorem State.apply_part_quiesced (p : Nat) : ((s.apply e).dev.part p).quiesced = (e.dev.part p).quiesced :=
  (s.apply_settled e).part_quiesced p

theorem SettledOnly.part_releasePending (h : SettledOnly a b) (p : Nat) : (b.part p).releasePending = (a.part p).releasePending :=
  (congrArg Part.releasePending (h.part p) :)

@[simp] theorem State.apply_part_releasePending (p : Nat) : ((s.apply e).dev.part p).releasePending = (e.dev.part p).releasePending :=
  (s.apply_settled e).part_releasePending p

theorem SettledOnly.part_releaseReplies (h : SettledOnly a b) (p : Nat) : (b.part p).releaseReplies = (a.part p).releaseReplies :=
  (congrArg Part.releaseReplies (h.part p) :)

@[simp] theorem State.apply_part_releaseReplies (p : Nat) : ((s.apply e).dev.part p).releaseReplies = (e.dev.part p).releaseReplies :=
  (s.apply_settled e).part_releaseReplies p

theorem SettledOnly.part_holdoff (h : SettledOnly a b) (p : Nat) : (b.part p).holdoff = (a.part p).holdoff :=
  (congrArg Part.holdoff (h.part p) :)

@[simp] theorem State.apply_part_holdoff (p : Nat) : ((s.apply e).dev.part p).holdoff = (e.dev.part p).holdoff :=
  (s.apply_settled e).part_holdoff p

theorem SettledOnly.part_headWb (h : SettledOnly a b) (p : Nat) : (b.part p).headWb = (a.part p).headWb :=
  (congrArg Part.headWb (h.part p) :)

@[simp] theorem State.apply_part_headWb (p : Nat) : ((s.apply e).dev.part p).headWb = (e.dev.part p).headWb :=
  (s.apply_settled e).part_headWb p

theorem SettledOnly.part_normal (h : SettledOnly a b) (p : Nat) : (b.part p).normal = (a.part p).normal :=
  (congrArg Part.normal (h.part p) :)

@[simp] theorem State.apply_part_normal (p : Nat) : ((s.apply e).dev.part p).normal = (e.dev.part p).normal :=
  (s.apply_settled e).part_normal p

theorem SettledOnly.part_urgent (h : SettledOnly a b) (p : Nat) : (b.part p).urgent = (a.part p).urgent :=
  (congrArg Part.urgent (h.part p) :)

@[simp] theorem State.apply_part_urgent (p : Nat) : ((s.apply e).dev.part p).urgent = (e.dev.part p).urgent :=
  (s.apply_settled e).part_urgent p

theorem SettledOnly.part_rsp (h : SettledOnly a b) (p : Nat) : (b.part p).rsp = (a.part p).rsp :=
  (congrArg Part.rsp (h.part p) :)

@[simp] theorem State.apply_part_rsp (p : Nat) : ((s.apply e).dev.part p).rsp = (e.dev.part p).rsp :=
  (s.apply_settled e).part_rsp p

theorem SettledOnly.part_ntc (h : SettledOnly a b) (p : Nat) : (b.part p).ntc = (a.part p).ntc :=
  (congrArg Part.ntc (h.part p) :)

@[simp] theorem State.apply_part_ntc (p : Nat) : ((s.apply e).dev.part p).ntc = (e.dev.part p).ntc :=
  (s.apply_settled e).part_ntc p

theorem SettledOnly.part_cmdTail (h : SettledOnly a b) (p : Nat) : (b.part p).cmdTail = (a.part p).cmdTail :=
  (congrArg Part.cmdTail (h.part p) :)

@[simp] theorem State.apply_part_cmdTail (p : Nat) : ((s.apply e).dev.part p).cmdTail = (e.dev.part p).cmdTail :=
  (s.apply_settled e).part_cmdTail p

theorem SettledOnly.part_urgTail (h : SettledOnly a b) (p : Nat) : (b.part p).urgTail = (a.part p).urgTail :=
  (congrArg Part.urgTail (h.part p) :)

@[simp] theorem State.apply_part_urgTail (p : Nat) : ((s.apply e).dev.part p).urgTail = (e.dev.part p).urgTail :=
  (s.apply_settled e).part_urgTail p

theorem SettledOnly.part_rspHead (h : SettledOnly a b) (p : Nat) : (b.part p).rspHead = (a.part p).rspHead :=
  (congrArg Part.rspHead (h.part p) :)

@[simp] theorem State.apply_part_rspHead (p : Nat) : ((s.apply e).dev.part p).rspHead = (e.dev.part p).rspHead :=
  (s.apply_settled e).part_rspHead p

theorem SettledOnly.part_ntcHead (h : SettledOnly a b) (p : Nat) : (b.part p).ntcHead = (a.part p).ntcHead :=
  (congrArg Part.ntcHead (h.part p) :)

@[simp] theorem State.apply_part_ntcHead (p : Nat) : ((s.apply e).dev.part p).ntcHead = (e.dev.part p).ntcHead :=
  (s.apply_settled e).part_ntcHead p

theorem SettledOnly.part_headsWritten (h : SettledOnly a b) (p : Nat) : (b.part p).headsWritten = (a.part p).headsWritten :=
  (congrArg Part.headsWritten (h.part p) :)

@[simp] theorem State.apply_part_headsWritten (p : Nat) : ((s.apply e).dev.part p).headsWritten = (e.dev.part p).headsWritten :=
  (s.apply_settled e).part_headsWritten p

theorem SettledOnly.part_msix (h : SettledOnly a b) (p : Nat) : (b.part p).msix = (a.part p).msix :=
  (congrArg Part.msix (h.part p) :)

@[simp] theorem State.apply_part_msix (p : Nat) : ((s.apply e).dev.part p).msix = (e.dev.part p).msix :=
  (s.apply_settled e).part_msix p

theorem SettledOnly.part_msixPending (h : SettledOnly a b) (p : Nat) : (b.part p).msixPending = (a.part p).msixPending :=
  (congrArg Part.msixPending (h.part p) :)

@[simp] theorem State.apply_part_msixPending (p : Nat) : ((s.apply e).dev.part p).msixPending = (e.dev.part p).msixPending :=
  (s.apply_settled e).part_msixPending p

theorem SettledOnly.part_vectors (h : SettledOnly a b) (p : Nat) : (b.part p).vectors = (a.part p).vectors :=
  (congrArg Part.vectors (h.part p) :)

@[simp] theorem State.apply_part_vectors (p : Nat) : ((s.apply e).dev.part p).vectors = (e.dev.part p).vectors :=
  (s.apply_settled e).part_vectors p

theorem SettledOnly.part_lastVector0 (h : SettledOnly a b) (p : Nat) : (b.part p).lastVector0 = (a.part p).lastVector0 :=
  (congrArg Part.lastVector0 (h.part p) :)

@[simp] theorem State.apply_part_lastVector0 (p : Nat) : ((s.apply e).dev.part p).lastVector0 = (e.dev.part p).lastVector0 :=
  (s.apply_settled e).part_lastVector0 p

theorem SettledOnly.part_heldVector0 (h : SettledOnly a b) (p : Nat) : (b.part p).heldVector0 = (a.part p).heldVector0 :=
  (congrArg Part.heldVector0 (h.part p) :)

@[simp] theorem State.apply_part_heldVector0 (p : Nat) : ((s.apply e).dev.part p).heldVector0 = (e.dev.part p).heldVector0 :=
  (s.apply_settled e).part_heldVector0 p

theorem SettledOnly.part_expectSeq (h : SettledOnly a b) (p : Nat) : (b.part p).expectSeq = (a.part p).expectSeq :=
  (congrArg Part.expectSeq (h.part p) :)

@[simp] theorem State.apply_part_expectSeq (p : Nat) : ((s.apply e).dev.part p).expectSeq = (e.dev.part p).expectSeq :=
  (s.apply_settled e).part_expectSeq p

theorem SettledOnly.part_flareLast (h : SettledOnly a b) (p : Nat) : (b.part p).flareLast = (a.part p).flareLast :=
  (congrArg Part.flareLast (h.part p) :)

@[simp] theorem State.apply_part_flareLast (p : Nat) : ((s.apply e).dev.part p).flareLast = (e.dev.part p).flareLast :=
  (s.apply_settled e).part_flareLast p

theorem SettledOnly.part_flareTaken (h : SettledOnly a b) (p : Nat) : (b.part p).flareTaken = (a.part p).flareTaken :=
  (congrArg Part.flareTaken (h.part p) :)

@[simp] theorem State.apply_part_flareTaken (p : Nat) : ((s.apply e).dev.part p).flareTaken = (e.dev.part p).flareTaken :=
  (s.apply_settled e).part_flareTaken p

theorem SettledOnly.part_flareIgnored (h : SettledOnly a b) (p : Nat) : (b.part p).flareIgnored = (a.part p).flareIgnored :=
  (congrArg Part.flareIgnored (h.part p) :)

@[simp] theorem State.apply_part_flareIgnored (p : Nat) : ((s.apply e).dev.part p).flareIgnored = (e.dev.part p).flareIgnored :=
  (s.apply_settled e).part_flareIgnored p

theorem SettledOnly.part_flareOverflow (h : SettledOnly a b) (p : Nat) : (b.part p).flareOverflow = (a.part p).flareOverflow :=
  (congrArg Part.flareOverflow (h.part p) :)

@[simp] theorem State.apply_part_flareOverflow (p : Nat) : ((s.apply e).dev.part p).flareOverflow = (e.dev.part p).flareOverflow :=
  (s.apply_settled e).part_flareOverflow p

theorem SettledOnly.part_flareBuffer (h : SettledOnly a b) (p : Nat) : (b.part p).flareBuffer = (a.part p).flareBuffer :=
  (congrArg Part.flareBuffer (h.part p) :)

@[simp] theorem State.apply_part_flareBuffer (p : Nat) : ((s.apply e).dev.part p).flareBuffer = (e.dev.part p).flareBuffer :=
  (s.apply_settled e).part_flareBuffer p

theorem SettledOnly.part_overflowMark (h : SettledOnly a b) (p : Nat) : (b.part p).overflowMark = (a.part p).overflowMark :=
  (congrArg Part.overflowMark (h.part p) :)

@[simp] theorem State.apply_part_overflowMark (p : Nat) : ((s.apply e).dev.part p).overflowMark = (e.dev.part p).overflowMark :=
  (s.apply_settled e).part_overflowMark p

theorem SettledOnly.part_overflowWrites (h : SettledOnly a b) (p : Nat) : (b.part p).overflowWrites = (a.part p).overflowWrites :=
  (congrArg Part.overflowWrites (h.part p) :)

@[simp] theorem State.apply_part_overflowWrites (p : Nat) : ((s.apply e).dev.part p).overflowWrites = (e.dev.part p).overflowWrites :=
  (s.apply_settled e).part_overflowWrites p

theorem SettledOnly.part_inbox (h : SettledOnly a b) (p : Nat) : (b.part p).inbox = (a.part p).inbox :=
  (congrArg Part.inbox (h.part p) :)

@[simp] theorem State.apply_part_inbox (p : Nat) : ((s.apply e).dev.part p).inbox = (e.dev.part p).inbox :=
  (s.apply_settled e).part_inbox p

theorem SettledOnly.part_flights (h : SettledOnly a b) (p : Nat) : (b.part p).flights = (a.part p).flights :=
  (congrArg Part.flights (h.part p) :)

@[simp] theorem State.apply_part_flights (p : Nat) : ((s.apply e).dev.part p).flights = (e.dev.part p).flights :=
  (s.apply_settled e).part_flights p

theorem SettledOnly.part_outbox (h : SettledOnly a b) (p : Nat) : (b.part p).outbox = (a.part p).outbox :=
  (congrArg Part.outbox (h.part p) :)

@[simp] theorem State.apply_part_outbox (p : Nat) : ((s.apply e).dev.part p).outbox = (e.dev.part p).outbox :=
  (s.apply_settled e).part_outbox p

theorem SettledOnly.part_rspWritten (h : SettledOnly a b) (p : Nat) : (b.part p).rspWritten = (a.part p).rspWritten :=
  (congrArg Part.rspWritten (h.part p) :)

@[simp] theorem State.apply_part_rspWritten (p : Nat) : ((s.apply e).dev.part p).rspWritten = (e.dev.part p).rspWritten :=
  (s.apply_settled e).part_rspWritten p

theorem SettledOnly.part_waits (h : SettledOnly a b) (p : Nat) : (b.part p).waits = (a.part p).waits :=
  (congrArg Part.waits (h.part p) :)

@[simp] theorem State.apply_part_waits (p : Nat) : ((s.apply e).dev.part p).waits = (e.dev.part p).waits :=
  (s.apply_settled e).part_waits p

theorem SettledOnly.part_postFails (h : SettledOnly a b) (p : Nat) : (b.part p).postFails = (a.part p).postFails :=
  (congrArg Part.postFails (h.part p) :)

@[simp] theorem State.apply_part_postFails (p : Nat) : ((s.apply e).dev.part p).postFails = (e.dev.part p).postFails :=
  (s.apply_settled e).part_postFails p

theorem SettledOnly.part_poisonedNames (h : SettledOnly a b) (p : Nat) : (b.part p).poisonedNames = (a.part p).poisonedNames :=
  (congrArg Part.poisonedNames (h.part p) :)

@[simp] theorem State.apply_part_poisonedNames (p : Nat) : ((s.apply e).dev.part p).poisonedNames = (e.dev.part p).poisonedNames :=
  (s.apply_settled e).part_poisonedNames p

theorem SettledOnly.part_doorbellsIgnored (h : SettledOnly a b) (p : Nat) : (b.part p).doorbellsIgnored = (a.part p).doorbellsIgnored :=
  (congrArg Part.doorbellsIgnored (h.part p) :)

@[simp] theorem State.apply_part_doorbellsIgnored (p : Nat) : ((s.apply e).dev.part p).doorbellsIgnored = (e.dev.part p).doorbellsIgnored :=
  (s.apply_settled e).part_doorbellsIgnored p

theorem SettledOnly.part_nextHandle (h : SettledOnly a b) (p : Nat) : (b.part p).nextHandle = (a.part p).nextHandle :=
  (congrArg Part.nextHandle (h.part p) :)

@[simp] theorem State.apply_part_nextHandle (p : Nat) : ((s.apply e).dev.part p).nextHandle = (e.dev.part p).nextHandle :=
  (s.apply_settled e).part_nextHandle p

theorem SettledOnly.part_storeWrites (h : SettledOnly a b) (p : Nat) : (b.part p).storeWrites = (a.part p).storeWrites :=
  (congrArg Part.storeWrites (h.part p) :)

@[simp] theorem State.apply_part_storeWrites (p : Nat) : ((s.apply e).dev.part p).storeWrites = (e.dev.part p).storeWrites :=
  (s.apply_settled e).part_storeWrites p

theorem SettledOnly.part_chunks (h : SettledOnly a b) (p : Nat) : (b.part p).chunks = (a.part p).chunks :=
  (congrArg Part.chunks (h.part p) :)

@[simp] theorem State.apply_part_chunks (p : Nat) : ((s.apply e).dev.part p).chunks = (e.dev.part p).chunks :=
  (s.apply_settled e).part_chunks p

theorem SettledOnly.part_boxes (h : SettledOnly a b) (p : Nat) : (b.part p).boxes = (a.part p).boxes :=
  (congrArg Part.boxes (h.part p) :)

@[simp] theorem State.apply_part_boxes (p : Nat) : ((s.apply e).dev.part p).boxes = (e.dev.part p).boxes :=
  (s.apply_settled e).part_boxes p

theorem SettledOnly.part_shareUse (h : SettledOnly a b) (p : Nat) : (b.part p).shareUse = (a.part p).shareUse :=
  (congrArg Part.shareUse (h.part p) :)

@[simp] theorem State.apply_part_shareUse (p : Nat) : ((s.apply e).dev.part p).shareUse = (e.dev.part p).shareUse :=
  (s.apply_settled e).part_shareUse p

theorem SettledOnly.part_buckets (h : SettledOnly a b) (p : Nat) : (b.part p).buckets = (a.part p).buckets :=
  (congrArg Part.buckets (h.part p) :)

@[simp] theorem State.apply_part_buckets (p : Nat) : ((s.apply e).dev.part p).buckets = (e.dev.part p).buckets :=
  (s.apply_settled e).part_buckets p

theorem SettledOnly.part_bucketLow (h : SettledOnly a b) (p : Nat) : (b.part p).bucketLow = (a.part p).bucketLow :=
  (congrArg Part.bucketLow (h.part p) :)

@[simp] theorem State.apply_part_bucketLow (p : Nat) : ((s.apply e).dev.part p).bucketLow = (e.dev.part p).bucketLow :=
  (s.apply_settled e).part_bucketLow p

theorem SettledOnly.part_selectJob (h : SettledOnly a b) (p : Nat) : (b.part p).selectJob = (a.part p).selectJob :=
  (congrArg Part.selectJob (h.part p) :)

@[simp] theorem State.apply_part_selectJob (p : Nat) : ((s.apply e).dev.part p).selectJob = (e.dev.part p).selectJob :=
  (s.apply_settled e).part_selectJob p

theorem SettledOnly.part_selectStream (h : SettledOnly a b) (p : Nat) : (b.part p).selectStream = (a.part p).selectStream :=
  (congrArg Part.selectStream (h.part p) :)

@[simp] theorem State.apply_part_selectStream (p : Nat) : ((s.apply e).dev.part p).selectStream = (e.dev.part p).selectStream :=
  (s.apply_settled e).part_selectStream p

theorem SettledOnly.part_ntcEntries (h : SettledOnly a b) (p : Nat) : (b.part p).ntcEntries = (a.part p).ntcEntries :=
  (congrArg Part.ntcEntries (h.part p) :)

@[simp] theorem State.apply_part_ntcEntries (p : Nat) : ((s.apply e).dev.part p).ntcEntries = (e.dev.part p).ntcEntries :=
  (s.apply_settled e).part_ntcEntries p

theorem SettledOnly.part_ntcSeq (h : SettledOnly a b) (p : Nat) : (b.part p).ntcSeq = (a.part p).ntcSeq :=
  (congrArg Part.ntcSeq (h.part p) :)

@[simp] theorem State.apply_part_ntcSeq (p : Nat) : ((s.apply e).dev.part p).ntcSeq = (e.dev.part p).ntcSeq :=
  (s.apply_settled e).part_ntcSeq p

theorem SettledOnly.part_ntcPhase (h : SettledOnly a b) (p : Nat) : (b.part p).ntcPhase = (a.part p).ntcPhase :=
  (congrArg Part.ntcPhase (h.part p) :)

@[simp] theorem State.apply_part_ntcPhase (p : Nat) : ((s.apply e).dev.part p).ntcPhase = (e.dev.part p).ntcPhase :=
  (s.apply_settled e).part_ntcPhase p

theorem SettledOnly.part_tdi (h : SettledOnly a b) (p : Nat) : (b.part p).tdi = (a.part p).tdi :=
  (congrArg Part.tdi (h.part p) :)

@[simp] theorem State.apply_part_tdi (p : Nat) : ((s.apply e).dev.part p).tdi = (e.dev.part p).tdi :=
  (s.apply_settled e).part_tdi p

theorem SettledOnly.part_lockNonce (h : SettledOnly a b) (p : Nat) : (b.part p).lockNonce = (a.part p).lockNonce :=
  (congrArg Part.lockNonce (h.part p) :)

@[simp] theorem State.apply_part_lockNonce (p : Nat) : ((s.apply e).dev.part p).lockNonce = (e.dev.part p).lockNonce :=
  (s.apply_settled e).part_lockNonce p

theorem SettledOnly.part_ide (h : SettledOnly a b) (p : Nat) : (b.part p).ide = (a.part p).ide :=
  (congrArg Part.ide (h.part p) :)

@[simp] theorem State.apply_part_ide (p : Nat) : ((s.apply e).dev.part p).ide = (e.dev.part p).ide :=
  (s.apply_settled e).part_ide p

theorem SettledOnly.cred_fingerprint (h : SettledOnly a b) (c : Nat) : (b.cred c).fingerprint = (a.cred c).fingerprint :=
  (congrArg Cred.fingerprint (h.cred c) :)

@[simp] theorem State.apply_cred_fingerprint (c : Nat) : ((s.apply e).dev.cred c).fingerprint = (e.dev.cred c).fingerprint :=
  (s.apply_settled e).cred_fingerprint c

theorem SettledOnly.cred_sent (h : SettledOnly a b) (c : Nat) : (b.cred c).sent = (a.cred c).sent :=
  (congrArg Cred.sent (h.cred c) :)

@[simp] theorem State.apply_cred_sent (c : Nat) : ((s.apply e).dev.cred c).sent = (e.dev.cred c).sent :=
  (s.apply_settled e).cred_sent c

theorem SettledOnly.cred_nextSeq (h : SettledOnly a b) (c : Nat) : (b.cred c).nextSeq = (a.cred c).nextSeq :=
  (congrArg Cred.nextSeq (h.cred c) :)

@[simp] theorem State.apply_cred_nextSeq (c : Nat) : ((s.apply e).dev.cred c).nextSeq = (e.dev.cred c).nextSeq :=
  (s.apply_settled e).cred_nextSeq c

theorem SettledOnly.cred_selectJob (h : SettledOnly a b) (c : Nat) : (b.cred c).selectJob = (a.cred c).selectJob :=
  (congrArg Cred.selectJob (h.cred c) :)

@[simp] theorem State.apply_cred_selectJob (c : Nat) : ((s.apply e).dev.cred c).selectJob = (e.dev.cred c).selectJob :=
  (s.apply_settled e).cred_selectJob c

theorem SettledOnly.cred_selectStream (h : SettledOnly a b) (c : Nat) : (b.cred c).selectStream = (a.cred c).selectStream :=
  (congrArg Cred.selectStream (h.cred c) :)

@[simp] theorem State.apply_cred_selectStream (c : Nat) : ((s.apply e).dev.cred c).selectStream = (e.dev.cred c).selectStream :=
  (s.apply_settled e).cred_selectStream c

@[simp] theorem State.apply_port (n : Nat) : (s.apply e).dev.port n = e.dev.port n := by
  simp [Dev.port]

theorem State.apply_region (h : e.dev.raised = []) (r : Nat) : (s.apply e).dev.region r = e.dev.region r := by
  simp [Dev.region, State.apply_regions s e h]

theorem State.apply_stack (h : e.dev.raised = []) (k : Nat) : (s.apply e).dev.stack k = e.dev.stack k := by
  simp [Dev.stack, State.apply_stackTab s e h]

theorem State.apply_cell (h : e.dev.raised = []) (n : Nat) : (s.apply e).dev.cell n = e.dev.cell n := by
  simp [Dev.cell, State.apply_cells s e h]

theorem State.apply_engine (h : e.dev.raised = []) (n : Nat) : (s.apply e).dev.engine n = e.dev.engine n := by
  simp [Dev.engine, State.apply_engines s e h]

theorem State.apply_job (h : e.dev.raised = []) (j : Nat) : (s.apply e).dev.job? j = e.dev.job? j := by
  simp [Dev.job?, State.apply_jobs s e h]

@[simp] theorem State.apply_pin (n : Nat) : (s.apply e).dev.pin n = e.dev.pin n := by
  simp [Dev.pin]

end Sys2Proof.Machine
end

