-- ==== Sys2Proof/Laws/Completion.lean ====
section
/-!
SUPPORT. How a command completes: what `Dev.complete` and `Dev.wait` leave, and when the next state of an effect is
the state with that device.
-/

namespace Sys2Proof.Machine

theorem tset_tset {α : Type} (t : List (Nat × α)) (x : Nat) (v w : α) : tset (tset t x v) x w = tset t x w := by
  induction t with
  | nil => simp [tset]
  | cons c t ih =>
    obtain ⟨k, u⟩ := c
    simp only [tset]
    by_cases h1 : x < k
    · simp [h1, tset]
    · by_cases h2 : k = x
      · subst h2
        simp [tset]
      · simp [h1, h2, tset, ih]

@[simp] theorem Dev.setPart_setPart (d : Dev) (p : Nat) (x y : Part) : (d.setPart p x).setPart p y = d.setPart p y := by
  simp [Dev.setPart, tset_tset]

theorem Dev.modPart_eq (d : Dev) (p : Nat) (f : Part → Part) : d.modPart p f = d.setPart p (f (d.part p)) := rfl

theorem Dev.emits_eq (p : Nat) : ∀ (l : List Response) (d : Dev) (x : Part),
    l.foldl (fun acc r => acc.emit p r) (d.setPart p x) = d.setPart p { x with outbox := x.outbox ++ l }
  | [], d, x => by simp
  | r :: l, d, x => by
    rw [List.foldl]
    have e : (d.setPart p x).emit p r = d.setPart p { x with outbox := x.outbox ++ [r] } := by
      simp [Dev.emit, Dev.modPart]
    rw [e, Dev.emits_eq p l]
    simp [List.append_assoc]

/-- A command that completes with a success changes its partition alone, as `Dev.answered` says. -/
theorem Dev.complete_eq (d : Dev) (p : Nat) (k : Packet) (c : Code) (info : Nat) (payload : Bytes)
    (h : k.posted = true → succeeded c = true) : d.complete p k c info payload = d.answered p k c info payload := by
  have e : (d.dropPacket p k.tag).dropWait p k.tag = d.setPart p { d.part p with
      inbox := (d.part p).inbox.filter (fun q => q.tag != k.tag)
      waits := (d.part p).waits.filter (fun w => w.pkt.tag != k.tag) } := by
    simp [Dev.dropPacket, Dev.dropWait, Dev.modPart]
  unfold Dev.complete Dev.answered Part.answer Dev.answers
  rw [e]
  cases hp : k.posted with
  | true => simp [h hp, Dev.dropFlight, Dev.modPart]
  | false => simp [Dev.emits_eq, Dev.markDone, Dev.modPart]

/-- A command that starts to wait changes its partition alone, as `Dev.waiting` says. -/
theorem Dev.wait_eq (d : Dev) (p : Nat) (k : Packet) (w : WaitFor) : d.wait p k w = d.waiting p k w := by
  simp [Dev.wait, Dev.startPacket, Dev.modPart, Dev.waiting]

@[simp] theorem Dev.answered_raised (d : Dev) (p : Nat) (k : Packet) (c : Code) (info : Nat) (payload : Bytes) :
    (d.answered p k c info payload).raised = d.raised := rfl

@[simp] theorem Dev.waiting_raised (d : Dev) (p : Nat) (k : Packet) (w : WaitFor) :
    (d.waiting p k w).raised = d.raised := rfl

/-- The effect of a device that raises no cause leads to that device. -/
theorem becomes_apply (s : State) (e : Eff) (h : e.dev.raised = []) (hm : e.mem = []) (hs : e.safety = []) :
    Sys2Proof.Safety.Becomes s e.dev (s.apply e) := by
  refine ⟨by simp [hm], ?_, rfl, s.apply_only e h⟩
  simp [hs, h, Safety.take]

theorem becomes_with (s : State) (e : Eff) (h : e.dev.raised = []) (hs : e.safety = []) :
    Sys2Proof.Safety.BecomesWith s e.dev e.mem (s.apply e) := by
  refine ⟨rfl, ?_, rfl, s.apply_only e h⟩
  simp [hs, h, Safety.take]

/-- A command whose meaning is the effect `e` completes to the device `d` when `e` is `d` alone. -/
theorem completes_done {c : Instr} {s : State} {e : Eff} {d : Dev} (hc : exec c s = s.done e) (he : e = d.eff)
    (h : d.raised = []) : Sys2Proof.Safety.CompletesTo c s d := by
  subst he
  exact ⟨_, hc, becomes_apply s d.eff h rfl rfl⟩

end Sys2Proof.Machine
end

