-- ==== Sys2Proof/Laws/State.lean ====
section
/-!
SUPPORT. What each named update of the device leaves as it was, field by field, and what the accessors read after it.
-/

namespace Sys2Proof.Machine

variable (d : Dev)

@[simp] theorem Dev.setPart_now (p : Nat) (x : Part) : (d.setPart p x).now = d.now := rfl
@[simp] theorem Dev.setPart_freeCount (p : Nat) (x : Part) : (d.setPart p x).freeCount = d.freeCount := rfl
@[simp] theorem Dev.setPart_tick (p : Nat) (x : Part) : (d.setPart p x).tick = d.tick := rfl
@[simp] theorem Dev.setPart_time (p : Nat) (x : Part) : (d.setPart p x).time = d.time := rfl
@[simp] theorem Dev.setPart_conf (p : Nat) (x : Part) : (d.setPart p x).conf = d.conf := rfl
@[simp] theorem Dev.setPart_force (p : Nat) (x : Part) : (d.setPart p x).force = d.force := rfl
@[simp] theorem Dev.setPart_counters (p : Nat) (x : Part) : (d.setPart p x).counters = d.counters := rfl
@[simp] theorem Dev.setPart_deviceSlots (p : Nat) (x : Part) : (d.setPart p x).deviceSlots = d.deviceSlots := rfl
@[simp] theorem Dev.setPart_ports (p : Nat) (x : Part) : (d.setPart p x).ports = d.ports := rfl
@[simp] theorem Dev.setPart_regions (p : Nat) (x : Part) : (d.setPart p x).regions = d.regions := rfl
@[simp] theorem Dev.setPart_stackTab (p : Nat) (x : Part) : (d.setPart p x).stackTab = d.stackTab := rfl
@[simp] theorem Dev.setPart_cells (p : Nat) (x : Part) : (d.setPart p x).cells = d.cells := rfl
@[simp] theorem Dev.setPart_engines (p : Nat) (x : Part) : (d.setPart p x).engines = d.engines := rfl
@[simp] theorem Dev.setPart_jobs (p : Nat) (x : Part) : (d.setPart p x).jobs = d.jobs := rfl
@[simp] theorem Dev.setPart_images (p : Nat) (x : Part) : (d.setPart p x).images = d.images := rfl
@[simp] theorem Dev.setPart_nextImage (p : Nat) (x : Part) : (d.setPart p x).nextImage = d.nextImage := rfl
@[simp] theorem Dev.setPart_objects (p : Nat) (x : Part) : (d.setPart p x).objects = d.objects := rfl
@[simp] theorem Dev.setPart_pageFrames (p : Nat) (x : Part) : (d.setPart p x).pageFrames = d.pageFrames := rfl
@[simp] theorem Dev.setPart_streams (p : Nat) (x : Part) : (d.setPart p x).streams = d.streams := rfl
@[simp] theorem Dev.setPart_stateObjs (p : Nat) (x : Part) : (d.setPart p x).stateObjs = d.stateObjs := rfl
@[simp] theorem Dev.setPart_dirs (p : Nat) (x : Part) : (d.setPart p x).dirs = d.dirs := rfl
@[simp] theorem Dev.setPart_dirHomes (p : Nat) (x : Part) : (d.setPart p x).dirHomes = d.dirHomes := rfl
@[simp] theorem Dev.setPart_stackAlloc (p : Nat) (x : Part) : (d.setPart p x).stackAlloc = d.stackAlloc := rfl
@[simp] theorem Dev.setPart_cacheAlloc (p : Nat) (x : Part) : (d.setPart p x).cacheAlloc = d.cacheAlloc := rfl
@[simp] theorem Dev.setPart_stratus (p : Nat) (x : Part) : (d.setPart p x).stratus = d.stratus := rfl
@[simp] theorem Dev.setPart_transfers (p : Nat) (x : Part) : (d.setPart p x).transfers = d.transfers := rfl
@[simp] theorem Dev.setPart_repairs (p : Nat) (x : Part) : (d.setPart p x).repairs = d.repairs := rfl
@[simp] theorem Dev.setPart_removals (p : Nat) (x : Part) : (d.setPart p x).removals = d.removals := rfl
@[simp] theorem Dev.setPart_capacityEvents (p : Nat) (x : Part) : (d.setPart p x).capacityEvents = d.capacityEvents := rfl
@[simp] theorem Dev.setPart_mgmt (p : Nat) (x : Part) : (d.setPart p x).mgmt = d.mgmt := rfl
@[simp] theorem Dev.setPart_store (p : Nat) (x : Part) : (d.setPart p x).store = d.store := rfl
@[simp] theorem Dev.setPart_start (p : Nat) (x : Part) : (d.setPart p x).start = d.start := rfl
@[simp] theorem Dev.setPart_backup (p : Nat) (x : Part) : (d.setPart p x).backup = d.backup := rfl
@[simp] theorem Dev.setPart_ageing (p : Nat) (x : Part) : (d.setPart p x).ageing = d.ageing := rfl
@[simp] theorem Dev.setPart_pins (p : Nat) (x : Part) : (d.setPart p x).pins = d.pins := rfl
@[simp] theorem Dev.setPart_power (p : Nat) (x : Part) : (d.setPart p x).power = d.power := rfl
@[simp] theorem Dev.setPart_smbus (p : Nat) (x : Part) : (d.setPart p x).smbus = d.smbus := rfl
@[simp] theorem Dev.setPart_support (p : Nat) (x : Part) : (d.setPart p x).support = d.support := rfl
@[simp] theorem Dev.setPart_lockOpened (p : Nat) (x : Part) : (d.setPart p x).lockOpened = d.lockOpened := rfl
@[simp] theorem Dev.setPart_mgmtTest (p : Nat) (x : Part) : (d.setPart p x).mgmtTest = d.mgmtTest := rfl
@[simp] theorem Dev.setPart_mgmtTestUnit (p : Nat) (x : Part) : (d.setPart p x).mgmtTestUnit = d.mgmtTestUnit := rfl
@[simp] theorem Dev.setPart_lastReport (p : Nat) (x : Part) : (d.setPart p x).lastReport = d.lastReport := rfl
@[simp] theorem Dev.setPart_lastValue (p : Nat) (x : Part) : (d.setPart p x).lastValue = d.lastValue := rfl
@[simp] theorem Dev.setPart_driverTest (p : Nat) (x : Part) : (d.setPart p x).driverTest = d.driverTest := rfl
@[simp] theorem Dev.setPart_arrivals (p : Nat) (x : Part) : (d.setPart p x).arrivals = d.arrivals := rfl
@[simp] theorem Dev.setPart_raised (p : Nat) (x : Part) : (d.setPart p x).raised = d.raised := rfl

@[simp] theorem Dev.modPart_now (p : Nat) (f : Part → Part) : (d.modPart p f).now = d.now := rfl
@[simp] theorem Dev.modPart_freeCount (p : Nat) (f : Part → Part) : (d.modPart p f).freeCount = d.freeCount := rfl
@[simp] theorem Dev.modPart_tick (p : Nat) (f : Part → Part) : (d.modPart p f).tick = d.tick := rfl
@[simp] theorem Dev.modPart_time (p : Nat) (f : Part → Part) : (d.modPart p f).time = d.time := rfl
@[simp] theorem Dev.modPart_conf (p : Nat) (f : Part → Part) : (d.modPart p f).conf = d.conf := rfl
@[simp] theorem Dev.modPart_force (p : Nat) (f : Part → Part) : (d.modPart p f).force = d.force := rfl
@[simp] theorem Dev.modPart_counters (p : Nat) (f : Part → Part) : (d.modPart p f).counters = d.counters := rfl
@[simp] theorem Dev.modPart_deviceSlots (p : Nat) (f : Part → Part) : (d.modPart p f).deviceSlots = d.deviceSlots := rfl
@[simp] theorem Dev.modPart_ports (p : Nat) (f : Part → Part) : (d.modPart p f).ports = d.ports := rfl
@[simp] theorem Dev.modPart_regions (p : Nat) (f : Part → Part) : (d.modPart p f).regions = d.regions := rfl
@[simp] theorem Dev.modPart_stackTab (p : Nat) (f : Part → Part) : (d.modPart p f).stackTab = d.stackTab := rfl
@[simp] theorem Dev.modPart_cells (p : Nat) (f : Part → Part) : (d.modPart p f).cells = d.cells := rfl
@[simp] theorem Dev.modPart_engines (p : Nat) (f : Part → Part) : (d.modPart p f).engines = d.engines := rfl
@[simp] theorem Dev.modPart_jobs (p : Nat) (f : Part → Part) : (d.modPart p f).jobs = d.jobs := rfl
@[simp] theorem Dev.modPart_images (p : Nat) (f : Part → Part) : (d.modPart p f).images = d.images := rfl
@[simp] theorem Dev.modPart_nextImage (p : Nat) (f : Part → Part) : (d.modPart p f).nextImage = d.nextImage := rfl
@[simp] theorem Dev.modPart_objects (p : Nat) (f : Part → Part) : (d.modPart p f).objects = d.objects := rfl
@[simp] theorem Dev.modPart_pageFrames (p : Nat) (f : Part → Part) : (d.modPart p f).pageFrames = d.pageFrames := rfl
@[simp] theorem Dev.modPart_streams (p : Nat) (f : Part → Part) : (d.modPart p f).streams = d.streams := rfl
@[simp] theorem Dev.modPart_stateObjs (p : Nat) (f : Part → Part) : (d.modPart p f).stateObjs = d.stateObjs := rfl
@[simp] theorem Dev.modPart_dirs (p : Nat) (f : Part → Part) : (d.modPart p f).dirs = d.dirs := rfl
@[simp] theorem Dev.modPart_dirHomes (p : Nat) (f : Part → Part) : (d.modPart p f).dirHomes = d.dirHomes := rfl
@[simp] theorem Dev.modPart_stackAlloc (p : Nat) (f : Part → Part) : (d.modPart p f).stackAlloc = d.stackAlloc := rfl
@[simp] theorem Dev.modPart_cacheAlloc (p : Nat) (f : Part → Part) : (d.modPart p f).cacheAlloc = d.cacheAlloc := rfl
@[simp] theorem Dev.modPart_stratus (p : Nat) (f : Part → Part) : (d.modPart p f).stratus = d.stratus := rfl
@[simp] theorem Dev.modPart_transfers (p : Nat) (f : Part → Part) : (d.modPart p f).transfers = d.transfers := rfl
@[simp] theorem Dev.modPart_repairs (p : Nat) (f : Part → Part) : (d.modPart p f).repairs = d.repairs := rfl
@[simp] theorem Dev.modPart_removals (p : Nat) (f : Part → Part) : (d.modPart p f).removals = d.removals := rfl
@[simp] theorem Dev.modPart_capacityEvents (p : Nat) (f : Part → Part) : (d.modPart p f).capacityEvents = d.capacityEvents := rfl
@[simp] theorem Dev.modPart_mgmt (p : Nat) (f : Part → Part) : (d.modPart p f).mgmt = d.mgmt := rfl
@[simp] theorem Dev.modPart_store (p : Nat) (f : Part → Part) : (d.modPart p f).store = d.store := rfl
@[simp] theorem Dev.modPart_start (p : Nat) (f : Part → Part) : (d.modPart p f).start = d.start := rfl
@[simp] theorem Dev.modPart_backup (p : Nat) (f : Part → Part) : (d.modPart p f).backup = d.backup := rfl
@[simp] theorem Dev.modPart_ageing (p : Nat) (f : Part → Part) : (d.modPart p f).ageing = d.ageing := rfl
@[simp] theorem Dev.modPart_pins (p : Nat) (f : Part → Part) : (d.modPart p f).pins = d.pins := rfl
@[simp] theorem Dev.modPart_power (p : Nat) (f : Part → Part) : (d.modPart p f).power = d.power := rfl
@[simp] theorem Dev.modPart_smbus (p : Nat) (f : Part → Part) : (d.modPart p f).smbus = d.smbus := rfl
@[simp] theorem Dev.modPart_support (p : Nat) (f : Part → Part) : (d.modPart p f).support = d.support := rfl
@[simp] theorem Dev.modPart_lockOpened (p : Nat) (f : Part → Part) : (d.modPart p f).lockOpened = d.lockOpened := rfl
@[simp] theorem Dev.modPart_mgmtTest (p : Nat) (f : Part → Part) : (d.modPart p f).mgmtTest = d.mgmtTest := rfl
@[simp] theorem Dev.modPart_mgmtTestUnit (p : Nat) (f : Part → Part) : (d.modPart p f).mgmtTestUnit = d.mgmtTestUnit := rfl
@[simp] theorem Dev.modPart_lastReport (p : Nat) (f : Part → Part) : (d.modPart p f).lastReport = d.lastReport := rfl
@[simp] theorem Dev.modPart_lastValue (p : Nat) (f : Part → Part) : (d.modPart p f).lastValue = d.lastValue := rfl
@[simp] theorem Dev.modPart_driverTest (p : Nat) (f : Part → Part) : (d.modPart p f).driverTest = d.driverTest := rfl
@[simp] theorem Dev.modPart_arrivals (p : Nat) (f : Part → Part) : (d.modPart p f).arrivals = d.arrivals := rfl
@[simp] theorem Dev.modPart_raised (p : Nat) (f : Part → Part) : (d.modPart p f).raised = d.raised := rfl

@[simp] theorem Dev.modPort_now (n : Nat) (f : Port → Port) : (d.modPort n f).now = d.now := rfl
@[simp] theorem Dev.modPort_freeCount (n : Nat) (f : Port → Port) : (d.modPort n f).freeCount = d.freeCount := rfl
@[simp] theorem Dev.modPort_tick (n : Nat) (f : Port → Port) : (d.modPort n f).tick = d.tick := rfl
@[simp] theorem Dev.modPort_time (n : Nat) (f : Port → Port) : (d.modPort n f).time = d.time := rfl
@[simp] theorem Dev.modPort_conf (n : Nat) (f : Port → Port) : (d.modPort n f).conf = d.conf := rfl
@[simp] theorem Dev.modPort_force (n : Nat) (f : Port → Port) : (d.modPort n f).force = d.force := rfl
@[simp] theorem Dev.modPort_counters (n : Nat) (f : Port → Port) : (d.modPort n f).counters = d.counters := rfl
@[simp] theorem Dev.modPort_deviceSlots (n : Nat) (f : Port → Port) : (d.modPort n f).deviceSlots = d.deviceSlots := rfl
@[simp] theorem Dev.modPort_parts (n : Nat) (f : Port → Port) : (d.modPort n f).parts = d.parts := rfl
@[simp] theorem Dev.modPort_regions (n : Nat) (f : Port → Port) : (d.modPort n f).regions = d.regions := rfl
@[simp] theorem Dev.modPort_stackTab (n : Nat) (f : Port → Port) : (d.modPort n f).stackTab = d.stackTab := rfl
@[simp] theorem Dev.modPort_cells (n : Nat) (f : Port → Port) : (d.modPort n f).cells = d.cells := rfl
@[simp] theorem Dev.modPort_engines (n : Nat) (f : Port → Port) : (d.modPort n f).engines = d.engines := rfl
@[simp] theorem Dev.modPort_jobs (n : Nat) (f : Port → Port) : (d.modPort n f).jobs = d.jobs := rfl
@[simp] theorem Dev.modPort_images (n : Nat) (f : Port → Port) : (d.modPort n f).images = d.images := rfl
@[simp] theorem Dev.modPort_nextImage (n : Nat) (f : Port → Port) : (d.modPort n f).nextImage = d.nextImage := rfl
@[simp] theorem Dev.modPort_objects (n : Nat) (f : Port → Port) : (d.modPort n f).objects = d.objects := rfl
@[simp] theorem Dev.modPort_pageFrames (n : Nat) (f : Port → Port) : (d.modPort n f).pageFrames = d.pageFrames := rfl
@[simp] theorem Dev.modPort_streams (n : Nat) (f : Port → Port) : (d.modPort n f).streams = d.streams := rfl
@[simp] theorem Dev.modPort_stateObjs (n : Nat) (f : Port → Port) : (d.modPort n f).stateObjs = d.stateObjs := rfl
@[simp] theorem Dev.modPort_dirs (n : Nat) (f : Port → Port) : (d.modPort n f).dirs = d.dirs := rfl
@[simp] theorem Dev.modPort_dirHomes (n : Nat) (f : Port → Port) : (d.modPort n f).dirHomes = d.dirHomes := rfl
@[simp] theorem Dev.modPort_stackAlloc (n : Nat) (f : Port → Port) : (d.modPort n f).stackAlloc = d.stackAlloc := rfl
@[simp] theorem Dev.modPort_cacheAlloc (n : Nat) (f : Port → Port) : (d.modPort n f).cacheAlloc = d.cacheAlloc := rfl
@[simp] theorem Dev.modPort_stratus (n : Nat) (f : Port → Port) : (d.modPort n f).stratus = d.stratus := rfl
@[simp] theorem Dev.modPort_transfers (n : Nat) (f : Port → Port) : (d.modPort n f).transfers = d.transfers := rfl
@[simp] theorem Dev.modPort_repairs (n : Nat) (f : Port → Port) : (d.modPort n f).repairs = d.repairs := rfl
@[simp] theorem Dev.modPort_removals (n : Nat) (f : Port → Port) : (d.modPort n f).removals = d.removals := rfl
@[simp] theorem Dev.modPort_capacityEvents (n : Nat) (f : Port → Port) : (d.modPort n f).capacityEvents = d.capacityEvents := rfl
@[simp] theorem Dev.modPort_mgmt (n : Nat) (f : Port → Port) : (d.modPort n f).mgmt = d.mgmt := rfl
@[simp] theorem Dev.modPort_store (n : Nat) (f : Port → Port) : (d.modPort n f).store = d.store := rfl
@[simp] theorem Dev.modPort_start (n : Nat) (f : Port → Port) : (d.modPort n f).start = d.start := rfl
@[simp] theorem Dev.modPort_backup (n : Nat) (f : Port → Port) : (d.modPort n f).backup = d.backup := rfl
@[simp] theorem Dev.modPort_ageing (n : Nat) (f : Port → Port) : (d.modPort n f).ageing = d.ageing := rfl
@[simp] theorem Dev.modPort_pins (n : Nat) (f : Port → Port) : (d.modPort n f).pins = d.pins := rfl
@[simp] theorem Dev.modPort_power (n : Nat) (f : Port → Port) : (d.modPort n f).power = d.power := rfl
@[simp] theorem Dev.modPort_smbus (n : Nat) (f : Port → Port) : (d.modPort n f).smbus = d.smbus := rfl
@[simp] theorem Dev.modPort_support (n : Nat) (f : Port → Port) : (d.modPort n f).support = d.support := rfl
@[simp] theorem Dev.modPort_lockOpened (n : Nat) (f : Port → Port) : (d.modPort n f).lockOpened = d.lockOpened := rfl
@[simp] theorem Dev.modPort_mgmtTest (n : Nat) (f : Port → Port) : (d.modPort n f).mgmtTest = d.mgmtTest := rfl
@[simp] theorem Dev.modPort_mgmtTestUnit (n : Nat) (f : Port → Port) : (d.modPort n f).mgmtTestUnit = d.mgmtTestUnit := rfl
@[simp] theorem Dev.modPort_lastReport (n : Nat) (f : Port → Port) : (d.modPort n f).lastReport = d.lastReport := rfl
@[simp] theorem Dev.modPort_lastValue (n : Nat) (f : Port → Port) : (d.modPort n f).lastValue = d.lastValue := rfl
@[simp] theorem Dev.modPort_driverTest (n : Nat) (f : Port → Port) : (d.modPort n f).driverTest = d.driverTest := rfl
@[simp] theorem Dev.modPort_arrivals (n : Nat) (f : Port → Port) : (d.modPort n f).arrivals = d.arrivals := rfl
@[simp] theorem Dev.modPort_raised (n : Nat) (f : Port → Port) : (d.modPort n f).raised = d.raised := rfl

@[simp] theorem Dev.modRegion_now (r : Nat) (f : Region → Region) : (d.modRegion r f).now = d.now := rfl
@[simp] theorem Dev.modRegion_freeCount (r : Nat) (f : Region → Region) : (d.modRegion r f).freeCount = d.freeCount := rfl
@[simp] theorem Dev.modRegion_tick (r : Nat) (f : Region → Region) : (d.modRegion r f).tick = d.tick := rfl
@[simp] theorem Dev.modRegion_time (r : Nat) (f : Region → Region) : (d.modRegion r f).time = d.time := rfl
@[simp] theorem Dev.modRegion_conf (r : Nat) (f : Region → Region) : (d.modRegion r f).conf = d.conf := rfl
@[simp] theorem Dev.modRegion_force (r : Nat) (f : Region → Region) : (d.modRegion r f).force = d.force := rfl
@[simp] theorem Dev.modRegion_counters (r : Nat) (f : Region → Region) : (d.modRegion r f).counters = d.counters := rfl
@[simp] theorem Dev.modRegion_deviceSlots (r : Nat) (f : Region → Region) : (d.modRegion r f).deviceSlots = d.deviceSlots := rfl
@[simp] theorem Dev.modRegion_parts (r : Nat) (f : Region → Region) : (d.modRegion r f).parts = d.parts := rfl
@[simp] theorem Dev.modRegion_ports (r : Nat) (f : Region → Region) : (d.modRegion r f).ports = d.ports := rfl
@[simp] theorem Dev.modRegion_stackTab (r : Nat) (f : Region → Region) : (d.modRegion r f).stackTab = d.stackTab := rfl
@[simp] theorem Dev.modRegion_cells (r : Nat) (f : Region → Region) : (d.modRegion r f).cells = d.cells := rfl
@[simp] theorem Dev.modRegion_engines (r : Nat) (f : Region → Region) : (d.modRegion r f).engines = d.engines := rfl
@[simp] theorem Dev.modRegion_jobs (r : Nat) (f : Region → Region) : (d.modRegion r f).jobs = d.jobs := rfl
@[simp] theorem Dev.modRegion_images (r : Nat) (f : Region → Region) : (d.modRegion r f).images = d.images := rfl
@[simp] theorem Dev.modRegion_nextImage (r : Nat) (f : Region → Region) : (d.modRegion r f).nextImage = d.nextImage := rfl
@[simp] theorem Dev.modRegion_objects (r : Nat) (f : Region → Region) : (d.modRegion r f).objects = d.objects := rfl
@[simp] theorem Dev.modRegion_pageFrames (r : Nat) (f : Region → Region) : (d.modRegion r f).pageFrames = d.pageFrames := rfl
@[simp] theorem Dev.modRegion_streams (r : Nat) (f : Region → Region) : (d.modRegion r f).streams = d.streams := rfl
@[simp] theorem Dev.modRegion_stateObjs (r : Nat) (f : Region → Region) : (d.modRegion r f).stateObjs = d.stateObjs := rfl
@[simp] theorem Dev.modRegion_dirs (r : Nat) (f : Region → Region) : (d.modRegion r f).dirs = d.dirs := rfl
@[simp] theorem Dev.modRegion_dirHomes (r : Nat) (f : Region → Region) : (d.modRegion r f).dirHomes = d.dirHomes := rfl
@[simp] theorem Dev.modRegion_stackAlloc (r : Nat) (f : Region → Region) : (d.modRegion r f).stackAlloc = d.stackAlloc := rfl
@[simp] theorem Dev.modRegion_cacheAlloc (r : Nat) (f : Region → Region) : (d.modRegion r f).cacheAlloc = d.cacheAlloc := rfl
@[simp] theorem Dev.modRegion_stratus (r : Nat) (f : Region → Region) : (d.modRegion r f).stratus = d.stratus := rfl
@[simp] theorem Dev.modRegion_transfers (r : Nat) (f : Region → Region) : (d.modRegion r f).transfers = d.transfers := rfl
@[simp] theorem Dev.modRegion_repairs (r : Nat) (f : Region → Region) : (d.modRegion r f).repairs = d.repairs := rfl
@[simp] theorem Dev.modRegion_removals (r : Nat) (f : Region → Region) : (d.modRegion r f).removals = d.removals := rfl
@[simp] theorem Dev.modRegion_capacityEvents (r : Nat) (f : Region → Region) : (d.modRegion r f).capacityEvents = d.capacityEvents := rfl
@[simp] theorem Dev.modRegion_mgmt (r : Nat) (f : Region → Region) : (d.modRegion r f).mgmt = d.mgmt := rfl
@[simp] theorem Dev.modRegion_store (r : Nat) (f : Region → Region) : (d.modRegion r f).store = d.store := rfl
@[simp] theorem Dev.modRegion_start (r : Nat) (f : Region → Region) : (d.modRegion r f).start = d.start := rfl
@[simp] theorem Dev.modRegion_backup (r : Nat) (f : Region → Region) : (d.modRegion r f).backup = d.backup := rfl
@[simp] theorem Dev.modRegion_ageing (r : Nat) (f : Region → Region) : (d.modRegion r f).ageing = d.ageing := rfl
@[simp] theorem Dev.modRegion_pins (r : Nat) (f : Region → Region) : (d.modRegion r f).pins = d.pins := rfl
@[simp] theorem Dev.modRegion_power (r : Nat) (f : Region → Region) : (d.modRegion r f).power = d.power := rfl
@[simp] theorem Dev.modRegion_smbus (r : Nat) (f : Region → Region) : (d.modRegion r f).smbus = d.smbus := rfl
@[simp] theorem Dev.modRegion_support (r : Nat) (f : Region → Region) : (d.modRegion r f).support = d.support := rfl
@[simp] theorem Dev.modRegion_lockOpened (r : Nat) (f : Region → Region) : (d.modRegion r f).lockOpened = d.lockOpened := rfl
@[simp] theorem Dev.modRegion_mgmtTest (r : Nat) (f : Region → Region) : (d.modRegion r f).mgmtTest = d.mgmtTest := rfl
@[simp] theorem Dev.modRegion_mgmtTestUnit (r : Nat) (f : Region → Region) : (d.modRegion r f).mgmtTestUnit = d.mgmtTestUnit := rfl
@[simp] theorem Dev.modRegion_lastReport (r : Nat) (f : Region → Region) : (d.modRegion r f).lastReport = d.lastReport := rfl
@[simp] theorem Dev.modRegion_lastValue (r : Nat) (f : Region → Region) : (d.modRegion r f).lastValue = d.lastValue := rfl
@[simp] theorem Dev.modRegion_driverTest (r : Nat) (f : Region → Region) : (d.modRegion r f).driverTest = d.driverTest := rfl
@[simp] theorem Dev.modRegion_arrivals (r : Nat) (f : Region → Region) : (d.modRegion r f).arrivals = d.arrivals := rfl
@[simp] theorem Dev.modRegion_raised (r : Nat) (f : Region → Region) : (d.modRegion r f).raised = d.raised := rfl

@[simp] theorem Dev.modStack_now (k : Nat) (f : Stack → Stack) : (d.modStack k f).now = d.now := rfl
@[simp] theorem Dev.modStack_freeCount (k : Nat) (f : Stack → Stack) : (d.modStack k f).freeCount = d.freeCount := rfl
@[simp] theorem Dev.modStack_tick (k : Nat) (f : Stack → Stack) : (d.modStack k f).tick = d.tick := rfl
@[simp] theorem Dev.modStack_time (k : Nat) (f : Stack → Stack) : (d.modStack k f).time = d.time := rfl
@[simp] theorem Dev.modStack_conf (k : Nat) (f : Stack → Stack) : (d.modStack k f).conf = d.conf := rfl
@[simp] theorem Dev.modStack_force (k : Nat) (f : Stack → Stack) : (d.modStack k f).force = d.force := rfl
@[simp] theorem Dev.modStack_counters (k : Nat) (f : Stack → Stack) : (d.modStack k f).counters = d.counters := rfl
@[simp] theorem Dev.modStack_deviceSlots (k : Nat) (f : Stack → Stack) : (d.modStack k f).deviceSlots = d.deviceSlots := rfl
@[simp] theorem Dev.modStack_parts (k : Nat) (f : Stack → Stack) : (d.modStack k f).parts = d.parts := rfl
@[simp] theorem Dev.modStack_ports (k : Nat) (f : Stack → Stack) : (d.modStack k f).ports = d.ports := rfl
@[simp] theorem Dev.modStack_regions (k : Nat) (f : Stack → Stack) : (d.modStack k f).regions = d.regions := rfl
@[simp] theorem Dev.modStack_cells (k : Nat) (f : Stack → Stack) : (d.modStack k f).cells = d.cells := rfl
@[simp] theorem Dev.modStack_engines (k : Nat) (f : Stack → Stack) : (d.modStack k f).engines = d.engines := rfl
@[simp] theorem Dev.modStack_jobs (k : Nat) (f : Stack → Stack) : (d.modStack k f).jobs = d.jobs := rfl
@[simp] theorem Dev.modStack_images (k : Nat) (f : Stack → Stack) : (d.modStack k f).images = d.images := rfl
@[simp] theorem Dev.modStack_nextImage (k : Nat) (f : Stack → Stack) : (d.modStack k f).nextImage = d.nextImage := rfl
@[simp] theorem Dev.modStack_objects (k : Nat) (f : Stack → Stack) : (d.modStack k f).objects = d.objects := rfl
@[simp] theorem Dev.modStack_pageFrames (k : Nat) (f : Stack → Stack) : (d.modStack k f).pageFrames = d.pageFrames := rfl
@[simp] theorem Dev.modStack_streams (k : Nat) (f : Stack → Stack) : (d.modStack k f).streams = d.streams := rfl
@[simp] theorem Dev.modStack_stateObjs (k : Nat) (f : Stack → Stack) : (d.modStack k f).stateObjs = d.stateObjs := rfl
@[simp] theorem Dev.modStack_dirs (k : Nat) (f : Stack → Stack) : (d.modStack k f).dirs = d.dirs := rfl
@[simp] theorem Dev.modStack_dirHomes (k : Nat) (f : Stack → Stack) : (d.modStack k f).dirHomes = d.dirHomes := rfl
@[simp] theorem Dev.modStack_stackAlloc (k : Nat) (f : Stack → Stack) : (d.modStack k f).stackAlloc = d.stackAlloc := rfl
@[simp] theorem Dev.modStack_cacheAlloc (k : Nat) (f : Stack → Stack) : (d.modStack k f).cacheAlloc = d.cacheAlloc := rfl
@[simp] theorem Dev.modStack_stratus (k : Nat) (f : Stack → Stack) : (d.modStack k f).stratus = d.stratus := rfl
@[simp] theorem Dev.modStack_transfers (k : Nat) (f : Stack → Stack) : (d.modStack k f).transfers = d.transfers := rfl
@[simp] theorem Dev.modStack_repairs (k : Nat) (f : Stack → Stack) : (d.modStack k f).repairs = d.repairs := rfl
@[simp] theorem Dev.modStack_removals (k : Nat) (f : Stack → Stack) : (d.modStack k f).removals = d.removals := rfl
@[simp] theorem Dev.modStack_capacityEvents (k : Nat) (f : Stack → Stack) : (d.modStack k f).capacityEvents = d.capacityEvents := rfl
@[simp] theorem Dev.modStack_mgmt (k : Nat) (f : Stack → Stack) : (d.modStack k f).mgmt = d.mgmt := rfl
@[simp] theorem Dev.modStack_store (k : Nat) (f : Stack → Stack) : (d.modStack k f).store = d.store := rfl
@[simp] theorem Dev.modStack_start (k : Nat) (f : Stack → Stack) : (d.modStack k f).start = d.start := rfl
@[simp] theorem Dev.modStack_backup (k : Nat) (f : Stack → Stack) : (d.modStack k f).backup = d.backup := rfl
@[simp] theorem Dev.modStack_ageing (k : Nat) (f : Stack → Stack) : (d.modStack k f).ageing = d.ageing := rfl
@[simp] theorem Dev.modStack_pins (k : Nat) (f : Stack → Stack) : (d.modStack k f).pins = d.pins := rfl
@[simp] theorem Dev.modStack_power (k : Nat) (f : Stack → Stack) : (d.modStack k f).power = d.power := rfl
@[simp] theorem Dev.modStack_smbus (k : Nat) (f : Stack → Stack) : (d.modStack k f).smbus = d.smbus := rfl
@[simp] theorem Dev.modStack_support (k : Nat) (f : Stack → Stack) : (d.modStack k f).support = d.support := rfl
@[simp] theorem Dev.modStack_lockOpened (k : Nat) (f : Stack → Stack) : (d.modStack k f).lockOpened = d.lockOpened := rfl
@[simp] theorem Dev.modStack_mgmtTest (k : Nat) (f : Stack → Stack) : (d.modStack k f).mgmtTest = d.mgmtTest := rfl
@[simp] theorem Dev.modStack_mgmtTestUnit (k : Nat) (f : Stack → Stack) : (d.modStack k f).mgmtTestUnit = d.mgmtTestUnit := rfl
@[simp] theorem Dev.modStack_lastReport (k : Nat) (f : Stack → Stack) : (d.modStack k f).lastReport = d.lastReport := rfl
@[simp] theorem Dev.modStack_lastValue (k : Nat) (f : Stack → Stack) : (d.modStack k f).lastValue = d.lastValue := rfl
@[simp] theorem Dev.modStack_driverTest (k : Nat) (f : Stack → Stack) : (d.modStack k f).driverTest = d.driverTest := rfl
@[simp] theorem Dev.modStack_arrivals (k : Nat) (f : Stack → Stack) : (d.modStack k f).arrivals = d.arrivals := rfl
@[simp] theorem Dev.modStack_raised (k : Nat) (f : Stack → Stack) : (d.modStack k f).raised = d.raised := rfl

@[simp] theorem Dev.modCell_now (n : Nat) (f : ComputeUnit → ComputeUnit) : (d.modCell n f).now = d.now := rfl
@[simp] theorem Dev.modCell_freeCount (n : Nat) (f : ComputeUnit → ComputeUnit) : (d.modCell n f).freeCount = d.freeCount := rfl
@[simp] theorem Dev.modCell_tick (n : Nat) (f : ComputeUnit → ComputeUnit) : (d.modCell n f).tick = d.tick := rfl
@[simp] theorem Dev.modCell_time (n : Nat) (f : ComputeUnit → ComputeUnit) : (d.modCell n f).time = d.time := rfl
@[simp] theorem Dev.modCell_conf (n : Nat) (f : ComputeUnit → ComputeUnit) : (d.modCell n f).conf = d.conf := rfl
@[simp] theorem Dev.modCell_force (n : Nat) (f : ComputeUnit → ComputeUnit) : (d.modCell n f).force = d.force := rfl
@[simp] theorem Dev.modCell_counters (n : Nat) (f : ComputeUnit → ComputeUnit) : (d.modCell n f).counters = d.counters := rfl
@[simp] theorem Dev.modCell_deviceSlots (n : Nat) (f : ComputeUnit → ComputeUnit) : (d.modCell n f).deviceSlots = d.deviceSlots := rfl
@[simp] theorem Dev.modCell_parts (n : Nat) (f : ComputeUnit → ComputeUnit) : (d.modCell n f).parts = d.parts := rfl
@[simp] theorem Dev.modCell_ports (n : Nat) (f : ComputeUnit → ComputeUnit) : (d.modCell n f).ports = d.ports := rfl
@[simp] theorem Dev.modCell_regions (n : Nat) (f : ComputeUnit → ComputeUnit) : (d.modCell n f).regions = d.regions := rfl
@[simp] theorem Dev.modCell_stackTab (n : Nat) (f : ComputeUnit → ComputeUnit) : (d.modCell n f).stackTab = d.stackTab := rfl
@[simp] theorem Dev.modCell_engines (n : Nat) (f : ComputeUnit → ComputeUnit) : (d.modCell n f).engines = d.engines := rfl
@[simp] theorem Dev.modCell_jobs (n : Nat) (f : ComputeUnit → ComputeUnit) : (d.modCell n f).jobs = d.jobs := rfl
@[simp] theorem Dev.modCell_images (n : Nat) (f : ComputeUnit → ComputeUnit) : (d.modCell n f).images = d.images := rfl
@[simp] theorem Dev.modCell_nextImage (n : Nat) (f : ComputeUnit → ComputeUnit) : (d.modCell n f).nextImage = d.nextImage := rfl
@[simp] theorem Dev.modCell_objects (n : Nat) (f : ComputeUnit → ComputeUnit) : (d.modCell n f).objects = d.objects := rfl
@[simp] theorem Dev.modCell_pageFrames (n : Nat) (f : ComputeUnit → ComputeUnit) : (d.modCell n f).pageFrames = d.pageFrames := rfl
@[simp] theorem Dev.modCell_streams (n : Nat) (f : ComputeUnit → ComputeUnit) : (d.modCell n f).streams = d.streams := rfl
@[simp] theorem Dev.modCell_stateObjs (n : Nat) (f : ComputeUnit → ComputeUnit) : (d.modCell n f).stateObjs = d.stateObjs := rfl
@[simp] theorem Dev.modCell_dirs (n : Nat) (f : ComputeUnit → ComputeUnit) : (d.modCell n f).dirs = d.dirs := rfl
@[simp] theorem Dev.modCell_dirHomes (n : Nat) (f : ComputeUnit → ComputeUnit) : (d.modCell n f).dirHomes = d.dirHomes := rfl
@[simp] theorem Dev.modCell_stackAlloc (n : Nat) (f : ComputeUnit → ComputeUnit) : (d.modCell n f).stackAlloc = d.stackAlloc := rfl
@[simp] theorem Dev.modCell_cacheAlloc (n : Nat) (f : ComputeUnit → ComputeUnit) : (d.modCell n f).cacheAlloc = d.cacheAlloc := rfl
@[simp] theorem Dev.modCell_stratus (n : Nat) (f : ComputeUnit → ComputeUnit) : (d.modCell n f).stratus = d.stratus := rfl
@[simp] theorem Dev.modCell_transfers (n : Nat) (f : ComputeUnit → ComputeUnit) : (d.modCell n f).transfers = d.transfers := rfl
@[simp] theorem Dev.modCell_repairs (n : Nat) (f : ComputeUnit → ComputeUnit) : (d.modCell n f).repairs = d.repairs := rfl
@[simp] theorem Dev.modCell_removals (n : Nat) (f : ComputeUnit → ComputeUnit) : (d.modCell n f).removals = d.removals := rfl
@[simp] theorem Dev.modCell_capacityEvents (n : Nat) (f : ComputeUnit → ComputeUnit) : (d.modCell n f).capacityEvents = d.capacityEvents := rfl
@[simp] theorem Dev.modCell_mgmt (n : Nat) (f : ComputeUnit → ComputeUnit) : (d.modCell n f).mgmt = d.mgmt := rfl
@[simp] theorem Dev.modCell_store (n : Nat) (f : ComputeUnit → ComputeUnit) : (d.modCell n f).store = d.store := rfl
@[simp] theorem Dev.modCell_start (n : Nat) (f : ComputeUnit → ComputeUnit) : (d.modCell n f).start = d.start := rfl
@[simp] theorem Dev.modCell_backup (n : Nat) (f : ComputeUnit → ComputeUnit) : (d.modCell n f).backup = d.backup := rfl
@[simp] theorem Dev.modCell_ageing (n : Nat) (f : ComputeUnit → ComputeUnit) : (d.modCell n f).ageing = d.ageing := rfl
@[simp] theorem Dev.modCell_pins (n : Nat) (f : ComputeUnit → ComputeUnit) : (d.modCell n f).pins = d.pins := rfl
@[simp] theorem Dev.modCell_power (n : Nat) (f : ComputeUnit → ComputeUnit) : (d.modCell n f).power = d.power := rfl
@[simp] theorem Dev.modCell_smbus (n : Nat) (f : ComputeUnit → ComputeUnit) : (d.modCell n f).smbus = d.smbus := rfl
@[simp] theorem Dev.modCell_support (n : Nat) (f : ComputeUnit → ComputeUnit) : (d.modCell n f).support = d.support := rfl
@[simp] theorem Dev.modCell_lockOpened (n : Nat) (f : ComputeUnit → ComputeUnit) : (d.modCell n f).lockOpened = d.lockOpened := rfl
@[simp] theorem Dev.modCell_mgmtTest (n : Nat) (f : ComputeUnit → ComputeUnit) : (d.modCell n f).mgmtTest = d.mgmtTest := rfl
@[simp] theorem Dev.modCell_mgmtTestUnit (n : Nat) (f : ComputeUnit → ComputeUnit) : (d.modCell n f).mgmtTestUnit = d.mgmtTestUnit := rfl
@[simp] theorem Dev.modCell_lastReport (n : Nat) (f : ComputeUnit → ComputeUnit) : (d.modCell n f).lastReport = d.lastReport := rfl
@[simp] theorem Dev.modCell_lastValue (n : Nat) (f : ComputeUnit → ComputeUnit) : (d.modCell n f).lastValue = d.lastValue := rfl
@[simp] theorem Dev.modCell_driverTest (n : Nat) (f : ComputeUnit → ComputeUnit) : (d.modCell n f).driverTest = d.driverTest := rfl
@[simp] theorem Dev.modCell_arrivals (n : Nat) (f : ComputeUnit → ComputeUnit) : (d.modCell n f).arrivals = d.arrivals := rfl
@[simp] theorem Dev.modCell_raised (n : Nat) (f : ComputeUnit → ComputeUnit) : (d.modCell n f).raised = d.raised := rfl

@[simp] theorem Dev.modEngine_now (n : Nat) (f : ComputeUnit → ComputeUnit) : (d.modEngine n f).now = d.now := rfl
@[simp] theorem Dev.modEngine_freeCount (n : Nat) (f : ComputeUnit → ComputeUnit) : (d.modEngine n f).freeCount = d.freeCount := rfl
@[simp] theorem Dev.modEngine_tick (n : Nat) (f : ComputeUnit → ComputeUnit) : (d.modEngine n f).tick = d.tick := rfl
@[simp] theorem Dev.modEngine_time (n : Nat) (f : ComputeUnit → ComputeUnit) : (d.modEngine n f).time = d.time := rfl
@[simp] theorem Dev.modEngine_conf (n : Nat) (f : ComputeUnit → ComputeUnit) : (d.modEngine n f).conf = d.conf := rfl
@[simp] theorem Dev.modEngine_force (n : Nat) (f : ComputeUnit → ComputeUnit) : (d.modEngine n f).force = d.force := rfl
@[simp] theorem Dev.modEngine_counters (n : Nat) (f : ComputeUnit → ComputeUnit) : (d.modEngine n f).counters = d.counters := rfl
@[simp] theorem Dev.modEngine_deviceSlots (n : Nat) (f : ComputeUnit → ComputeUnit) : (d.modEngine n f).deviceSlots = d.deviceSlots := rfl
@[simp] theorem Dev.modEngine_parts (n : Nat) (f : ComputeUnit → ComputeUnit) : (d.modEngine n f).parts = d.parts := rfl
@[simp] theorem Dev.modEngine_ports (n : Nat) (f : ComputeUnit → ComputeUnit) : (d.modEngine n f).ports = d.ports := rfl
@[simp] theorem Dev.modEngine_regions (n : Nat) (f : ComputeUnit → ComputeUnit) : (d.modEngine n f).regions = d.regions := rfl
@[simp] theorem Dev.modEngine_stackTab (n : Nat) (f : ComputeUnit → ComputeUnit) : (d.modEngine n f).stackTab = d.stackTab := rfl
@[simp] theorem Dev.modEngine_cells (n : Nat) (f : ComputeUnit → ComputeUnit) : (d.modEngine n f).cells = d.cells := rfl
@[simp] theorem Dev.modEngine_jobs (n : Nat) (f : ComputeUnit → ComputeUnit) : (d.modEngine n f).jobs = d.jobs := rfl
@[simp] theorem Dev.modEngine_images (n : Nat) (f : ComputeUnit → ComputeUnit) : (d.modEngine n f).images = d.images := rfl
@[simp] theorem Dev.modEngine_nextImage (n : Nat) (f : ComputeUnit → ComputeUnit) : (d.modEngine n f).nextImage = d.nextImage := rfl
@[simp] theorem Dev.modEngine_objects (n : Nat) (f : ComputeUnit → ComputeUnit) : (d.modEngine n f).objects = d.objects := rfl
@[simp] theorem Dev.modEngine_pageFrames (n : Nat) (f : ComputeUnit → ComputeUnit) : (d.modEngine n f).pageFrames = d.pageFrames := rfl
@[simp] theorem Dev.modEngine_streams (n : Nat) (f : ComputeUnit → ComputeUnit) : (d.modEngine n f).streams = d.streams := rfl
@[simp] theorem Dev.modEngine_stateObjs (n : Nat) (f : ComputeUnit → ComputeUnit) : (d.modEngine n f).stateObjs = d.stateObjs := rfl
@[simp] theorem Dev.modEngine_dirs (n : Nat) (f : ComputeUnit → ComputeUnit) : (d.modEngine n f).dirs = d.dirs := rfl
@[simp] theorem Dev.modEngine_dirHomes (n : Nat) (f : ComputeUnit → ComputeUnit) : (d.modEngine n f).dirHomes = d.dirHomes := rfl
@[simp] theorem Dev.modEngine_stackAlloc (n : Nat) (f : ComputeUnit → ComputeUnit) : (d.modEngine n f).stackAlloc = d.stackAlloc := rfl
@[simp] theorem Dev.modEngine_cacheAlloc (n : Nat) (f : ComputeUnit → ComputeUnit) : (d.modEngine n f).cacheAlloc = d.cacheAlloc := rfl
@[simp] theorem Dev.modEngine_stratus (n : Nat) (f : ComputeUnit → ComputeUnit) : (d.modEngine n f).stratus = d.stratus := rfl
@[simp] theorem Dev.modEngine_transfers (n : Nat) (f : ComputeUnit → ComputeUnit) : (d.modEngine n f).transfers = d.transfers := rfl
@[simp] theorem Dev.modEngine_repairs (n : Nat) (f : ComputeUnit → ComputeUnit) : (d.modEngine n f).repairs = d.repairs := rfl
@[simp] theorem Dev.modEngine_removals (n : Nat) (f : ComputeUnit → ComputeUnit) : (d.modEngine n f).removals = d.removals := rfl
@[simp] theorem Dev.modEngine_capacityEvents (n : Nat) (f : ComputeUnit → ComputeUnit) : (d.modEngine n f).capacityEvents = d.capacityEvents := rfl
@[simp] theorem Dev.modEngine_mgmt (n : Nat) (f : ComputeUnit → ComputeUnit) : (d.modEngine n f).mgmt = d.mgmt := rfl
@[simp] theorem Dev.modEngine_store (n : Nat) (f : ComputeUnit → ComputeUnit) : (d.modEngine n f).store = d.store := rfl
@[simp] theorem Dev.modEngine_start (n : Nat) (f : ComputeUnit → ComputeUnit) : (d.modEngine n f).start = d.start := rfl
@[simp] theorem Dev.modEngine_backup (n : Nat) (f : ComputeUnit → ComputeUnit) : (d.modEngine n f).backup = d.backup := rfl
@[simp] theorem Dev.modEngine_ageing (n : Nat) (f : ComputeUnit → ComputeUnit) : (d.modEngine n f).ageing = d.ageing := rfl
@[simp] theorem Dev.modEngine_pins (n : Nat) (f : ComputeUnit → ComputeUnit) : (d.modEngine n f).pins = d.pins := rfl
@[simp] theorem Dev.modEngine_power (n : Nat) (f : ComputeUnit → ComputeUnit) : (d.modEngine n f).power = d.power := rfl
@[simp] theorem Dev.modEngine_smbus (n : Nat) (f : ComputeUnit → ComputeUnit) : (d.modEngine n f).smbus = d.smbus := rfl
@[simp] theorem Dev.modEngine_support (n : Nat) (f : ComputeUnit → ComputeUnit) : (d.modEngine n f).support = d.support := rfl
@[simp] theorem Dev.modEngine_lockOpened (n : Nat) (f : ComputeUnit → ComputeUnit) : (d.modEngine n f).lockOpened = d.lockOpened := rfl
@[simp] theorem Dev.modEngine_mgmtTest (n : Nat) (f : ComputeUnit → ComputeUnit) : (d.modEngine n f).mgmtTest = d.mgmtTest := rfl
@[simp] theorem Dev.modEngine_mgmtTestUnit (n : Nat) (f : ComputeUnit → ComputeUnit) : (d.modEngine n f).mgmtTestUnit = d.mgmtTestUnit := rfl
@[simp] theorem Dev.modEngine_lastReport (n : Nat) (f : ComputeUnit → ComputeUnit) : (d.modEngine n f).lastReport = d.lastReport := rfl
@[simp] theorem Dev.modEngine_lastValue (n : Nat) (f : ComputeUnit → ComputeUnit) : (d.modEngine n f).lastValue = d.lastValue := rfl
@[simp] theorem Dev.modEngine_driverTest (n : Nat) (f : ComputeUnit → ComputeUnit) : (d.modEngine n f).driverTest = d.driverTest := rfl
@[simp] theorem Dev.modEngine_arrivals (n : Nat) (f : ComputeUnit → ComputeUnit) : (d.modEngine n f).arrivals = d.arrivals := rfl
@[simp] theorem Dev.modEngine_raised (n : Nat) (f : ComputeUnit → ComputeUnit) : (d.modEngine n f).raised = d.raised := rfl

@[simp] theorem Dev.setJob_now (x : Job) : (d.setJob x).now = d.now := rfl
@[simp] theorem Dev.setJob_freeCount (x : Job) : (d.setJob x).freeCount = d.freeCount := rfl
@[simp] theorem Dev.setJob_tick (x : Job) : (d.setJob x).tick = d.tick := rfl
@[simp] theorem Dev.setJob_time (x : Job) : (d.setJob x).time = d.time := rfl
@[simp] theorem Dev.setJob_conf (x : Job) : (d.setJob x).conf = d.conf := rfl
@[simp] theorem Dev.setJob_force (x : Job) : (d.setJob x).force = d.force := rfl
@[simp] theorem Dev.setJob_counters (x : Job) : (d.setJob x).counters = d.counters := rfl
@[simp] theorem Dev.setJob_deviceSlots (x : Job) : (d.setJob x).deviceSlots = d.deviceSlots := rfl
@[simp] theorem Dev.setJob_parts (x : Job) : (d.setJob x).parts = d.parts := rfl
@[simp] theorem Dev.setJob_ports (x : Job) : (d.setJob x).ports = d.ports := rfl
@[simp] theorem Dev.setJob_regions (x : Job) : (d.setJob x).regions = d.regions := rfl
@[simp] theorem Dev.setJob_stackTab (x : Job) : (d.setJob x).stackTab = d.stackTab := rfl
@[simp] theorem Dev.setJob_cells (x : Job) : (d.setJob x).cells = d.cells := rfl
@[simp] theorem Dev.setJob_engines (x : Job) : (d.setJob x).engines = d.engines := rfl
@[simp] theorem Dev.setJob_images (x : Job) : (d.setJob x).images = d.images := rfl
@[simp] theorem Dev.setJob_nextImage (x : Job) : (d.setJob x).nextImage = d.nextImage := rfl
@[simp] theorem Dev.setJob_objects (x : Job) : (d.setJob x).objects = d.objects := rfl
@[simp] theorem Dev.setJob_pageFrames (x : Job) : (d.setJob x).pageFrames = d.pageFrames := rfl
@[simp] theorem Dev.setJob_streams (x : Job) : (d.setJob x).streams = d.streams := rfl
@[simp] theorem Dev.setJob_stateObjs (x : Job) : (d.setJob x).stateObjs = d.stateObjs := rfl
@[simp] theorem Dev.setJob_dirs (x : Job) : (d.setJob x).dirs = d.dirs := rfl
@[simp] theorem Dev.setJob_dirHomes (x : Job) : (d.setJob x).dirHomes = d.dirHomes := rfl
@[simp] theorem Dev.setJob_stackAlloc (x : Job) : (d.setJob x).stackAlloc = d.stackAlloc := rfl
@[simp] theorem Dev.setJob_cacheAlloc (x : Job) : (d.setJob x).cacheAlloc = d.cacheAlloc := rfl
@[simp] theorem Dev.setJob_stratus (x : Job) : (d.setJob x).stratus = d.stratus := rfl
@[simp] theorem Dev.setJob_transfers (x : Job) : (d.setJob x).transfers = d.transfers := rfl
@[simp] theorem Dev.setJob_repairs (x : Job) : (d.setJob x).repairs = d.repairs := rfl
@[simp] theorem Dev.setJob_removals (x : Job) : (d.setJob x).removals = d.removals := rfl
@[simp] theorem Dev.setJob_capacityEvents (x : Job) : (d.setJob x).capacityEvents = d.capacityEvents := rfl
@[simp] theorem Dev.setJob_mgmt (x : Job) : (d.setJob x).mgmt = d.mgmt := rfl
@[simp] theorem Dev.setJob_store (x : Job) : (d.setJob x).store = d.store := rfl
@[simp] theorem Dev.setJob_start (x : Job) : (d.setJob x).start = d.start := rfl
@[simp] theorem Dev.setJob_backup (x : Job) : (d.setJob x).backup = d.backup := rfl
@[simp] theorem Dev.setJob_ageing (x : Job) : (d.setJob x).ageing = d.ageing := rfl
@[simp] theorem Dev.setJob_pins (x : Job) : (d.setJob x).pins = d.pins := rfl
@[simp] theorem Dev.setJob_power (x : Job) : (d.setJob x).power = d.power := rfl
@[simp] theorem Dev.setJob_smbus (x : Job) : (d.setJob x).smbus = d.smbus := rfl
@[simp] theorem Dev.setJob_support (x : Job) : (d.setJob x).support = d.support := rfl
@[simp] theorem Dev.setJob_lockOpened (x : Job) : (d.setJob x).lockOpened = d.lockOpened := rfl
@[simp] theorem Dev.setJob_mgmtTest (x : Job) : (d.setJob x).mgmtTest = d.mgmtTest := rfl
@[simp] theorem Dev.setJob_mgmtTestUnit (x : Job) : (d.setJob x).mgmtTestUnit = d.mgmtTestUnit := rfl
@[simp] theorem Dev.setJob_lastReport (x : Job) : (d.setJob x).lastReport = d.lastReport := rfl
@[simp] theorem Dev.setJob_lastValue (x : Job) : (d.setJob x).lastValue = d.lastValue := rfl
@[simp] theorem Dev.setJob_driverTest (x : Job) : (d.setJob x).driverTest = d.driverTest := rfl
@[simp] theorem Dev.setJob_arrivals (x : Job) : (d.setJob x).arrivals = d.arrivals := rfl
@[simp] theorem Dev.setJob_raised (x : Job) : (d.setJob x).raised = d.raised := rfl

@[simp] theorem Dev.modCred_now (c : Nat) (f : Cred → Cred) : (d.modCred c f).now = d.now := rfl
@[simp] theorem Dev.modCred_freeCount (c : Nat) (f : Cred → Cred) : (d.modCred c f).freeCount = d.freeCount := rfl
@[simp] theorem Dev.modCred_tick (c : Nat) (f : Cred → Cred) : (d.modCred c f).tick = d.tick := rfl
@[simp] theorem Dev.modCred_time (c : Nat) (f : Cred → Cred) : (d.modCred c f).time = d.time := rfl
@[simp] theorem Dev.modCred_conf (c : Nat) (f : Cred → Cred) : (d.modCred c f).conf = d.conf := rfl
@[simp] theorem Dev.modCred_force (c : Nat) (f : Cred → Cred) : (d.modCred c f).force = d.force := rfl
@[simp] theorem Dev.modCred_counters (c : Nat) (f : Cred → Cred) : (d.modCred c f).counters = d.counters := rfl
@[simp] theorem Dev.modCred_deviceSlots (c : Nat) (f : Cred → Cred) : (d.modCred c f).deviceSlots = d.deviceSlots := rfl
@[simp] theorem Dev.modCred_parts (c : Nat) (f : Cred → Cred) : (d.modCred c f).parts = d.parts := rfl
@[simp] theorem Dev.modCred_ports (c : Nat) (f : Cred → Cred) : (d.modCred c f).ports = d.ports := rfl
@[simp] theorem Dev.modCred_regions (c : Nat) (f : Cred → Cred) : (d.modCred c f).regions = d.regions := rfl
@[simp] theorem Dev.modCred_stackTab (c : Nat) (f : Cred → Cred) : (d.modCred c f).stackTab = d.stackTab := rfl
@[simp] theorem Dev.modCred_cells (c : Nat) (f : Cred → Cred) : (d.modCred c f).cells = d.cells := rfl
@[simp] theorem Dev.modCred_engines (c : Nat) (f : Cred → Cred) : (d.modCred c f).engines = d.engines := rfl
@[simp] theorem Dev.modCred_jobs (c : Nat) (f : Cred → Cred) : (d.modCred c f).jobs = d.jobs := rfl
@[simp] theorem Dev.modCred_images (c : Nat) (f : Cred → Cred) : (d.modCred c f).images = d.images := rfl
@[simp] theorem Dev.modCred_nextImage (c : Nat) (f : Cred → Cred) : (d.modCred c f).nextImage = d.nextImage := rfl
@[simp] theorem Dev.modCred_objects (c : Nat) (f : Cred → Cred) : (d.modCred c f).objects = d.objects := rfl
@[simp] theorem Dev.modCred_pageFrames (c : Nat) (f : Cred → Cred) : (d.modCred c f).pageFrames = d.pageFrames := rfl
@[simp] theorem Dev.modCred_streams (c : Nat) (f : Cred → Cred) : (d.modCred c f).streams = d.streams := rfl
@[simp] theorem Dev.modCred_stateObjs (c : Nat) (f : Cred → Cred) : (d.modCred c f).stateObjs = d.stateObjs := rfl
@[simp] theorem Dev.modCred_dirs (c : Nat) (f : Cred → Cred) : (d.modCred c f).dirs = d.dirs := rfl
@[simp] theorem Dev.modCred_dirHomes (c : Nat) (f : Cred → Cred) : (d.modCred c f).dirHomes = d.dirHomes := rfl
@[simp] theorem Dev.modCred_stackAlloc (c : Nat) (f : Cred → Cred) : (d.modCred c f).stackAlloc = d.stackAlloc := rfl
@[simp] theorem Dev.modCred_cacheAlloc (c : Nat) (f : Cred → Cred) : (d.modCred c f).cacheAlloc = d.cacheAlloc := rfl
@[simp] theorem Dev.modCred_stratus (c : Nat) (f : Cred → Cred) : (d.modCred c f).stratus = d.stratus := rfl
@[simp] theorem Dev.modCred_transfers (c : Nat) (f : Cred → Cred) : (d.modCred c f).transfers = d.transfers := rfl
@[simp] theorem Dev.modCred_repairs (c : Nat) (f : Cred → Cred) : (d.modCred c f).repairs = d.repairs := rfl
@[simp] theorem Dev.modCred_removals (c : Nat) (f : Cred → Cred) : (d.modCred c f).removals = d.removals := rfl
@[simp] theorem Dev.modCred_capacityEvents (c : Nat) (f : Cred → Cred) : (d.modCred c f).capacityEvents = d.capacityEvents := rfl
@[simp] theorem Dev.modCred_store (c : Nat) (f : Cred → Cred) : (d.modCred c f).store = d.store := rfl
@[simp] theorem Dev.modCred_start (c : Nat) (f : Cred → Cred) : (d.modCred c f).start = d.start := rfl
@[simp] theorem Dev.modCred_backup (c : Nat) (f : Cred → Cred) : (d.modCred c f).backup = d.backup := rfl
@[simp] theorem Dev.modCred_ageing (c : Nat) (f : Cred → Cred) : (d.modCred c f).ageing = d.ageing := rfl
@[simp] theorem Dev.modCred_pins (c : Nat) (f : Cred → Cred) : (d.modCred c f).pins = d.pins := rfl
@[simp] theorem Dev.modCred_power (c : Nat) (f : Cred → Cred) : (d.modCred c f).power = d.power := rfl
@[simp] theorem Dev.modCred_smbus (c : Nat) (f : Cred → Cred) : (d.modCred c f).smbus = d.smbus := rfl
@[simp] theorem Dev.modCred_support (c : Nat) (f : Cred → Cred) : (d.modCred c f).support = d.support := rfl
@[simp] theorem Dev.modCred_lockOpened (c : Nat) (f : Cred → Cred) : (d.modCred c f).lockOpened = d.lockOpened := rfl
@[simp] theorem Dev.modCred_mgmtTest (c : Nat) (f : Cred → Cred) : (d.modCred c f).mgmtTest = d.mgmtTest := rfl
@[simp] theorem Dev.modCred_mgmtTestUnit (c : Nat) (f : Cred → Cred) : (d.modCred c f).mgmtTestUnit = d.mgmtTestUnit := rfl
@[simp] theorem Dev.modCred_lastReport (c : Nat) (f : Cred → Cred) : (d.modCred c f).lastReport = d.lastReport := rfl
@[simp] theorem Dev.modCred_lastValue (c : Nat) (f : Cred → Cred) : (d.modCred c f).lastValue = d.lastValue := rfl
@[simp] theorem Dev.modCred_driverTest (c : Nat) (f : Cred → Cred) : (d.modCred c f).driverTest = d.driverTest := rfl
@[simp] theorem Dev.modCred_arrivals (c : Nat) (f : Cred → Cred) : (d.modCred c f).arrivals = d.arrivals := rfl
@[simp] theorem Dev.modCred_raised (c : Nat) (f : Cred → Cred) : (d.modCred c f).raised = d.raised := rfl

@[simp] theorem Dev.modPin_now (n : Nat) (f : SkyPin → SkyPin) : (d.modPin n f).now = d.now := rfl
@[simp] theorem Dev.modPin_freeCount (n : Nat) (f : SkyPin → SkyPin) : (d.modPin n f).freeCount = d.freeCount := rfl
@[simp] theorem Dev.modPin_tick (n : Nat) (f : SkyPin → SkyPin) : (d.modPin n f).tick = d.tick := rfl
@[simp] theorem Dev.modPin_time (n : Nat) (f : SkyPin → SkyPin) : (d.modPin n f).time = d.time := rfl
@[simp] theorem Dev.modPin_conf (n : Nat) (f : SkyPin → SkyPin) : (d.modPin n f).conf = d.conf := rfl
@[simp] theorem Dev.modPin_force (n : Nat) (f : SkyPin → SkyPin) : (d.modPin n f).force = d.force := rfl
@[simp] theorem Dev.modPin_counters (n : Nat) (f : SkyPin → SkyPin) : (d.modPin n f).counters = d.counters := rfl
@[simp] theorem Dev.modPin_deviceSlots (n : Nat) (f : SkyPin → SkyPin) : (d.modPin n f).deviceSlots = d.deviceSlots := rfl
@[simp] theorem Dev.modPin_parts (n : Nat) (f : SkyPin → SkyPin) : (d.modPin n f).parts = d.parts := rfl
@[simp] theorem Dev.modPin_ports (n : Nat) (f : SkyPin → SkyPin) : (d.modPin n f).ports = d.ports := rfl
@[simp] theorem Dev.modPin_regions (n : Nat) (f : SkyPin → SkyPin) : (d.modPin n f).regions = d.regions := rfl
@[simp] theorem Dev.modPin_stackTab (n : Nat) (f : SkyPin → SkyPin) : (d.modPin n f).stackTab = d.stackTab := rfl
@[simp] theorem Dev.modPin_cells (n : Nat) (f : SkyPin → SkyPin) : (d.modPin n f).cells = d.cells := rfl
@[simp] theorem Dev.modPin_engines (n : Nat) (f : SkyPin → SkyPin) : (d.modPin n f).engines = d.engines := rfl
@[simp] theorem Dev.modPin_jobs (n : Nat) (f : SkyPin → SkyPin) : (d.modPin n f).jobs = d.jobs := rfl
@[simp] theorem Dev.modPin_images (n : Nat) (f : SkyPin → SkyPin) : (d.modPin n f).images = d.images := rfl
@[simp] theorem Dev.modPin_nextImage (n : Nat) (f : SkyPin → SkyPin) : (d.modPin n f).nextImage = d.nextImage := rfl
@[simp] theorem Dev.modPin_objects (n : Nat) (f : SkyPin → SkyPin) : (d.modPin n f).objects = d.objects := rfl
@[simp] theorem Dev.modPin_pageFrames (n : Nat) (f : SkyPin → SkyPin) : (d.modPin n f).pageFrames = d.pageFrames := rfl
@[simp] theorem Dev.modPin_streams (n : Nat) (f : SkyPin → SkyPin) : (d.modPin n f).streams = d.streams := rfl
@[simp] theorem Dev.modPin_stateObjs (n : Nat) (f : SkyPin → SkyPin) : (d.modPin n f).stateObjs = d.stateObjs := rfl
@[simp] theorem Dev.modPin_dirs (n : Nat) (f : SkyPin → SkyPin) : (d.modPin n f).dirs = d.dirs := rfl
@[simp] theorem Dev.modPin_dirHomes (n : Nat) (f : SkyPin → SkyPin) : (d.modPin n f).dirHomes = d.dirHomes := rfl
@[simp] theorem Dev.modPin_stackAlloc (n : Nat) (f : SkyPin → SkyPin) : (d.modPin n f).stackAlloc = d.stackAlloc := rfl
@[simp] theorem Dev.modPin_cacheAlloc (n : Nat) (f : SkyPin → SkyPin) : (d.modPin n f).cacheAlloc = d.cacheAlloc := rfl
@[simp] theorem Dev.modPin_stratus (n : Nat) (f : SkyPin → SkyPin) : (d.modPin n f).stratus = d.stratus := rfl
@[simp] theorem Dev.modPin_transfers (n : Nat) (f : SkyPin → SkyPin) : (d.modPin n f).transfers = d.transfers := rfl
@[simp] theorem Dev.modPin_repairs (n : Nat) (f : SkyPin → SkyPin) : (d.modPin n f).repairs = d.repairs := rfl
@[simp] theorem Dev.modPin_removals (n : Nat) (f : SkyPin → SkyPin) : (d.modPin n f).removals = d.removals := rfl
@[simp] theorem Dev.modPin_capacityEvents (n : Nat) (f : SkyPin → SkyPin) : (d.modPin n f).capacityEvents = d.capacityEvents := rfl
@[simp] theorem Dev.modPin_mgmt (n : Nat) (f : SkyPin → SkyPin) : (d.modPin n f).mgmt = d.mgmt := rfl
@[simp] theorem Dev.modPin_store (n : Nat) (f : SkyPin → SkyPin) : (d.modPin n f).store = d.store := rfl
@[simp] theorem Dev.modPin_start (n : Nat) (f : SkyPin → SkyPin) : (d.modPin n f).start = d.start := rfl
@[simp] theorem Dev.modPin_backup (n : Nat) (f : SkyPin → SkyPin) : (d.modPin n f).backup = d.backup := rfl
@[simp] theorem Dev.modPin_ageing (n : Nat) (f : SkyPin → SkyPin) : (d.modPin n f).ageing = d.ageing := rfl
@[simp] theorem Dev.modPin_power (n : Nat) (f : SkyPin → SkyPin) : (d.modPin n f).power = d.power := rfl
@[simp] theorem Dev.modPin_smbus (n : Nat) (f : SkyPin → SkyPin) : (d.modPin n f).smbus = d.smbus := rfl
@[simp] theorem Dev.modPin_support (n : Nat) (f : SkyPin → SkyPin) : (d.modPin n f).support = d.support := rfl
@[simp] theorem Dev.modPin_lockOpened (n : Nat) (f : SkyPin → SkyPin) : (d.modPin n f).lockOpened = d.lockOpened := rfl
@[simp] theorem Dev.modPin_mgmtTest (n : Nat) (f : SkyPin → SkyPin) : (d.modPin n f).mgmtTest = d.mgmtTest := rfl
@[simp] theorem Dev.modPin_mgmtTestUnit (n : Nat) (f : SkyPin → SkyPin) : (d.modPin n f).mgmtTestUnit = d.mgmtTestUnit := rfl
@[simp] theorem Dev.modPin_lastReport (n : Nat) (f : SkyPin → SkyPin) : (d.modPin n f).lastReport = d.lastReport := rfl
@[simp] theorem Dev.modPin_lastValue (n : Nat) (f : SkyPin → SkyPin) : (d.modPin n f).lastValue = d.lastValue := rfl
@[simp] theorem Dev.modPin_driverTest (n : Nat) (f : SkyPin → SkyPin) : (d.modPin n f).driverTest = d.driverTest := rfl
@[simp] theorem Dev.modPin_arrivals (n : Nat) (f : SkyPin → SkyPin) : (d.modPin n f).arrivals = d.arrivals := rfl
@[simp] theorem Dev.modPin_raised (n : Nat) (f : SkyPin → SkyPin) : (d.modPin n f).raised = d.raised := rfl

@[simp] theorem Dev.setFrame_now (n : Nat) (f : PageFrame) : (d.setFrame n f).now = d.now := rfl
@[simp] theorem Dev.setFrame_freeCount (n : Nat) (f : PageFrame) : (d.setFrame n f).freeCount = d.freeCount := rfl
@[simp] theorem Dev.setFrame_tick (n : Nat) (f : PageFrame) : (d.setFrame n f).tick = d.tick := rfl
@[simp] theorem Dev.setFrame_time (n : Nat) (f : PageFrame) : (d.setFrame n f).time = d.time := rfl
@[simp] theorem Dev.setFrame_conf (n : Nat) (f : PageFrame) : (d.setFrame n f).conf = d.conf := rfl
@[simp] theorem Dev.setFrame_force (n : Nat) (f : PageFrame) : (d.setFrame n f).force = d.force := rfl
@[simp] theorem Dev.setFrame_counters (n : Nat) (f : PageFrame) : (d.setFrame n f).counters = d.counters := rfl
@[simp] theorem Dev.setFrame_deviceSlots (n : Nat) (f : PageFrame) : (d.setFrame n f).deviceSlots = d.deviceSlots := rfl
@[simp] theorem Dev.setFrame_parts (n : Nat) (f : PageFrame) : (d.setFrame n f).parts = d.parts := rfl
@[simp] theorem Dev.setFrame_ports (n : Nat) (f : PageFrame) : (d.setFrame n f).ports = d.ports := rfl
@[simp] theorem Dev.setFrame_regions (n : Nat) (f : PageFrame) : (d.setFrame n f).regions = d.regions := rfl
@[simp] theorem Dev.setFrame_stackTab (n : Nat) (f : PageFrame) : (d.setFrame n f).stackTab = d.stackTab := rfl
@[simp] theorem Dev.setFrame_cells (n : Nat) (f : PageFrame) : (d.setFrame n f).cells = d.cells := rfl
@[simp] theorem Dev.setFrame_engines (n : Nat) (f : PageFrame) : (d.setFrame n f).engines = d.engines := rfl
@[simp] theorem Dev.setFrame_jobs (n : Nat) (f : PageFrame) : (d.setFrame n f).jobs = d.jobs := rfl
@[simp] theorem Dev.setFrame_images (n : Nat) (f : PageFrame) : (d.setFrame n f).images = d.images := rfl
@[simp] theorem Dev.setFrame_nextImage (n : Nat) (f : PageFrame) : (d.setFrame n f).nextImage = d.nextImage := rfl
@[simp] theorem Dev.setFrame_objects (n : Nat) (f : PageFrame) : (d.setFrame n f).objects = d.objects := rfl
@[simp] theorem Dev.setFrame_streams (n : Nat) (f : PageFrame) : (d.setFrame n f).streams = d.streams := rfl
@[simp] theorem Dev.setFrame_stateObjs (n : Nat) (f : PageFrame) : (d.setFrame n f).stateObjs = d.stateObjs := rfl
@[simp] theorem Dev.setFrame_dirs (n : Nat) (f : PageFrame) : (d.setFrame n f).dirs = d.dirs := rfl
@[simp] theorem Dev.setFrame_dirHomes (n : Nat) (f : PageFrame) : (d.setFrame n f).dirHomes = d.dirHomes := rfl
@[simp] theorem Dev.setFrame_stackAlloc (n : Nat) (f : PageFrame) : (d.setFrame n f).stackAlloc = d.stackAlloc := rfl
@[simp] theorem Dev.setFrame_cacheAlloc (n : Nat) (f : PageFrame) : (d.setFrame n f).cacheAlloc = d.cacheAlloc := rfl
@[simp] theorem Dev.setFrame_stratus (n : Nat) (f : PageFrame) : (d.setFrame n f).stratus = d.stratus := rfl
@[simp] theorem Dev.setFrame_transfers (n : Nat) (f : PageFrame) : (d.setFrame n f).transfers = d.transfers := rfl
@[simp] theorem Dev.setFrame_repairs (n : Nat) (f : PageFrame) : (d.setFrame n f).repairs = d.repairs := rfl
@[simp] theorem Dev.setFrame_removals (n : Nat) (f : PageFrame) : (d.setFrame n f).removals = d.removals := rfl
@[simp] theorem Dev.setFrame_capacityEvents (n : Nat) (f : PageFrame) : (d.setFrame n f).capacityEvents = d.capacityEvents := rfl
@[simp] theorem Dev.setFrame_mgmt (n : Nat) (f : PageFrame) : (d.setFrame n f).mgmt = d.mgmt := rfl
@[simp] theorem Dev.setFrame_store (n : Nat) (f : PageFrame) : (d.setFrame n f).store = d.store := rfl
@[simp] theorem Dev.setFrame_start (n : Nat) (f : PageFrame) : (d.setFrame n f).start = d.start := rfl
@[simp] theorem Dev.setFrame_backup (n : Nat) (f : PageFrame) : (d.setFrame n f).backup = d.backup := rfl
@[simp] theorem Dev.setFrame_ageing (n : Nat) (f : PageFrame) : (d.setFrame n f).ageing = d.ageing := rfl
@[simp] theorem Dev.setFrame_pins (n : Nat) (f : PageFrame) : (d.setFrame n f).pins = d.pins := rfl
@[simp] theorem Dev.setFrame_power (n : Nat) (f : PageFrame) : (d.setFrame n f).power = d.power := rfl
@[simp] theorem Dev.setFrame_smbus (n : Nat) (f : PageFrame) : (d.setFrame n f).smbus = d.smbus := rfl
@[simp] theorem Dev.setFrame_support (n : Nat) (f : PageFrame) : (d.setFrame n f).support = d.support := rfl
@[simp] theorem Dev.setFrame_lockOpened (n : Nat) (f : PageFrame) : (d.setFrame n f).lockOpened = d.lockOpened := rfl
@[simp] theorem Dev.setFrame_mgmtTest (n : Nat) (f : PageFrame) : (d.setFrame n f).mgmtTest = d.mgmtTest := rfl
@[simp] theorem Dev.setFrame_mgmtTestUnit (n : Nat) (f : PageFrame) : (d.setFrame n f).mgmtTestUnit = d.mgmtTestUnit := rfl
@[simp] theorem Dev.setFrame_lastReport (n : Nat) (f : PageFrame) : (d.setFrame n f).lastReport = d.lastReport := rfl
@[simp] theorem Dev.setFrame_lastValue (n : Nat) (f : PageFrame) : (d.setFrame n f).lastValue = d.lastValue := rfl
@[simp] theorem Dev.setFrame_driverTest (n : Nat) (f : PageFrame) : (d.setFrame n f).driverTest = d.driverTest := rfl
@[simp] theorem Dev.setFrame_arrivals (n : Nat) (f : PageFrame) : (d.setFrame n f).arrivals = d.arrivals := rfl
@[simp] theorem Dev.setFrame_raised (n : Nat) (f : PageFrame) : (d.setFrame n f).raised = d.raised := rfl

@[simp] theorem Dev.setStream_now (n : Nat) (e : StreamEntry) : (d.setStream n e).now = d.now := rfl
@[simp] theorem Dev.setStream_freeCount (n : Nat) (e : StreamEntry) : (d.setStream n e).freeCount = d.freeCount := rfl
@[simp] theorem Dev.setStream_tick (n : Nat) (e : StreamEntry) : (d.setStream n e).tick = d.tick := rfl
@[simp] theorem Dev.setStream_time (n : Nat) (e : StreamEntry) : (d.setStream n e).time = d.time := rfl
@[simp] theorem Dev.setStream_conf (n : Nat) (e : StreamEntry) : (d.setStream n e).conf = d.conf := rfl
@[simp] theorem Dev.setStream_force (n : Nat) (e : StreamEntry) : (d.setStream n e).force = d.force := rfl
@[simp] theorem Dev.setStream_counters (n : Nat) (e : StreamEntry) : (d.setStream n e).counters = d.counters := rfl
@[simp] theorem Dev.setStream_deviceSlots (n : Nat) (e : StreamEntry) : (d.setStream n e).deviceSlots = d.deviceSlots := rfl
@[simp] theorem Dev.setStream_parts (n : Nat) (e : StreamEntry) : (d.setStream n e).parts = d.parts := rfl
@[simp] theorem Dev.setStream_ports (n : Nat) (e : StreamEntry) : (d.setStream n e).ports = d.ports := rfl
@[simp] theorem Dev.setStream_regions (n : Nat) (e : StreamEntry) : (d.setStream n e).regions = d.regions := rfl
@[simp] theorem Dev.setStream_stackTab (n : Nat) (e : StreamEntry) : (d.setStream n e).stackTab = d.stackTab := rfl
@[simp] theorem Dev.setStream_cells (n : Nat) (e : StreamEntry) : (d.setStream n e).cells = d.cells := rfl
@[simp] theorem Dev.setStream_engines (n : Nat) (e : StreamEntry) : (d.setStream n e).engines = d.engines := rfl
@[simp] theorem Dev.setStream_jobs (n : Nat) (e : StreamEntry) : (d.setStream n e).jobs = d.jobs := rfl
@[simp] theorem Dev.setStream_images (n : Nat) (e : StreamEntry) : (d.setStream n e).images = d.images := rfl
@[simp] theorem Dev.setStream_nextImage (n : Nat) (e : StreamEntry) : (d.setStream n e).nextImage = d.nextImage := rfl
@[simp] theorem Dev.setStream_objects (n : Nat) (e : StreamEntry) : (d.setStream n e).objects = d.objects := rfl
@[simp] theorem Dev.setStream_pageFrames (n : Nat) (e : StreamEntry) : (d.setStream n e).pageFrames = d.pageFrames := rfl
@[simp] theorem Dev.setStream_stateObjs (n : Nat) (e : StreamEntry) : (d.setStream n e).stateObjs = d.stateObjs := rfl
@[simp] theorem Dev.setStream_dirs (n : Nat) (e : StreamEntry) : (d.setStream n e).dirs = d.dirs := rfl
@[simp] theorem Dev.setStream_dirHomes (n : Nat) (e : StreamEntry) : (d.setStream n e).dirHomes = d.dirHomes := rfl
@[simp] theorem Dev.setStream_stackAlloc (n : Nat) (e : StreamEntry) : (d.setStream n e).stackAlloc = d.stackAlloc := rfl
@[simp] theorem Dev.setStream_cacheAlloc (n : Nat) (e : StreamEntry) : (d.setStream n e).cacheAlloc = d.cacheAlloc := rfl
@[simp] theorem Dev.setStream_stratus (n : Nat) (e : StreamEntry) : (d.setStream n e).stratus = d.stratus := rfl
@[simp] theorem Dev.setStream_transfers (n : Nat) (e : StreamEntry) : (d.setStream n e).transfers = d.transfers := rfl
@[simp] theorem Dev.setStream_repairs (n : Nat) (e : StreamEntry) : (d.setStream n e).repairs = d.repairs := rfl
@[simp] theorem Dev.setStream_removals (n : Nat) (e : StreamEntry) : (d.setStream n e).removals = d.removals := rfl
@[simp] theorem Dev.setStream_capacityEvents (n : Nat) (e : StreamEntry) : (d.setStream n e).capacityEvents = d.capacityEvents := rfl
@[simp] theorem Dev.setStream_mgmt (n : Nat) (e : StreamEntry) : (d.setStream n e).mgmt = d.mgmt := rfl
@[simp] theorem Dev.setStream_store (n : Nat) (e : StreamEntry) : (d.setStream n e).store = d.store := rfl
@[simp] theorem Dev.setStream_start (n : Nat) (e : StreamEntry) : (d.setStream n e).start = d.start := rfl
@[simp] theorem Dev.setStream_backup (n : Nat) (e : StreamEntry) : (d.setStream n e).backup = d.backup := rfl
@[simp] theorem Dev.setStream_ageing (n : Nat) (e : StreamEntry) : (d.setStream n e).ageing = d.ageing := rfl
@[simp] theorem Dev.setStream_pins (n : Nat) (e : StreamEntry) : (d.setStream n e).pins = d.pins := rfl
@[simp] theorem Dev.setStream_power (n : Nat) (e : StreamEntry) : (d.setStream n e).power = d.power := rfl
@[simp] theorem Dev.setStream_smbus (n : Nat) (e : StreamEntry) : (d.setStream n e).smbus = d.smbus := rfl
@[simp] theorem Dev.setStream_support (n : Nat) (e : StreamEntry) : (d.setStream n e).support = d.support := rfl
@[simp] theorem Dev.setStream_lockOpened (n : Nat) (e : StreamEntry) : (d.setStream n e).lockOpened = d.lockOpened := rfl
@[simp] theorem Dev.setStream_mgmtTest (n : Nat) (e : StreamEntry) : (d.setStream n e).mgmtTest = d.mgmtTest := rfl
@[simp] theorem Dev.setStream_mgmtTestUnit (n : Nat) (e : StreamEntry) : (d.setStream n e).mgmtTestUnit = d.mgmtTestUnit := rfl
@[simp] theorem Dev.setStream_lastReport (n : Nat) (e : StreamEntry) : (d.setStream n e).lastReport = d.lastReport := rfl
@[simp] theorem Dev.setStream_lastValue (n : Nat) (e : StreamEntry) : (d.setStream n e).lastValue = d.lastValue := rfl
@[simp] theorem Dev.setStream_driverTest (n : Nat) (e : StreamEntry) : (d.setStream n e).driverTest = d.driverTest := rfl
@[simp] theorem Dev.setStream_arrivals (n : Nat) (e : StreamEntry) : (d.setStream n e).arrivals = d.arrivals := rfl
@[simp] theorem Dev.setStream_raised (n : Nat) (e : StreamEntry) : (d.setStream n e).raised = d.raised := rfl

@[simp] theorem Dev.setObj_now (n : Nat) (o : StateObj) : (d.setObj n o).now = d.now := rfl
@[simp] theorem Dev.setObj_freeCount (n : Nat) (o : StateObj) : (d.setObj n o).freeCount = d.freeCount := rfl
@[simp] theorem Dev.setObj_tick (n : Nat) (o : StateObj) : (d.setObj n o).tick = d.tick := rfl
@[simp] theorem Dev.setObj_time (n : Nat) (o : StateObj) : (d.setObj n o).time = d.time := rfl
@[simp] theorem Dev.setObj_conf (n : Nat) (o : StateObj) : (d.setObj n o).conf = d.conf := rfl
@[simp] theorem Dev.setObj_force (n : Nat) (o : StateObj) : (d.setObj n o).force = d.force := rfl
@[simp] theorem Dev.setObj_counters (n : Nat) (o : StateObj) : (d.setObj n o).counters = d.counters := rfl
@[simp] theorem Dev.setObj_deviceSlots (n : Nat) (o : StateObj) : (d.setObj n o).deviceSlots = d.deviceSlots := rfl
@[simp] theorem Dev.setObj_parts (n : Nat) (o : StateObj) : (d.setObj n o).parts = d.parts := rfl
@[simp] theorem Dev.setObj_ports (n : Nat) (o : StateObj) : (d.setObj n o).ports = d.ports := rfl
@[simp] theorem Dev.setObj_regions (n : Nat) (o : StateObj) : (d.setObj n o).regions = d.regions := rfl
@[simp] theorem Dev.setObj_stackTab (n : Nat) (o : StateObj) : (d.setObj n o).stackTab = d.stackTab := rfl
@[simp] theorem Dev.setObj_cells (n : Nat) (o : StateObj) : (d.setObj n o).cells = d.cells := rfl
@[simp] theorem Dev.setObj_engines (n : Nat) (o : StateObj) : (d.setObj n o).engines = d.engines := rfl
@[simp] theorem Dev.setObj_jobs (n : Nat) (o : StateObj) : (d.setObj n o).jobs = d.jobs := rfl
@[simp] theorem Dev.setObj_images (n : Nat) (o : StateObj) : (d.setObj n o).images = d.images := rfl
@[simp] theorem Dev.setObj_nextImage (n : Nat) (o : StateObj) : (d.setObj n o).nextImage = d.nextImage := rfl
@[simp] theorem Dev.setObj_objects (n : Nat) (o : StateObj) : (d.setObj n o).objects = d.objects := rfl
@[simp] theorem Dev.setObj_pageFrames (n : Nat) (o : StateObj) : (d.setObj n o).pageFrames = d.pageFrames := rfl
@[simp] theorem Dev.setObj_streams (n : Nat) (o : StateObj) : (d.setObj n o).streams = d.streams := rfl
@[simp] theorem Dev.setObj_dirs (n : Nat) (o : StateObj) : (d.setObj n o).dirs = d.dirs := rfl
@[simp] theorem Dev.setObj_dirHomes (n : Nat) (o : StateObj) : (d.setObj n o).dirHomes = d.dirHomes := rfl
@[simp] theorem Dev.setObj_stackAlloc (n : Nat) (o : StateObj) : (d.setObj n o).stackAlloc = d.stackAlloc := rfl
@[simp] theorem Dev.setObj_cacheAlloc (n : Nat) (o : StateObj) : (d.setObj n o).cacheAlloc = d.cacheAlloc := rfl
@[simp] theorem Dev.setObj_stratus (n : Nat) (o : StateObj) : (d.setObj n o).stratus = d.stratus := rfl
@[simp] theorem Dev.setObj_transfers (n : Nat) (o : StateObj) : (d.setObj n o).transfers = d.transfers := rfl
@[simp] theorem Dev.setObj_repairs (n : Nat) (o : StateObj) : (d.setObj n o).repairs = d.repairs := rfl
@[simp] theorem Dev.setObj_removals (n : Nat) (o : StateObj) : (d.setObj n o).removals = d.removals := rfl
@[simp] theorem Dev.setObj_capacityEvents (n : Nat) (o : StateObj) : (d.setObj n o).capacityEvents = d.capacityEvents := rfl
@[simp] theorem Dev.setObj_mgmt (n : Nat) (o : StateObj) : (d.setObj n o).mgmt = d.mgmt := rfl
@[simp] theorem Dev.setObj_store (n : Nat) (o : StateObj) : (d.setObj n o).store = d.store := rfl
@[simp] theorem Dev.setObj_start (n : Nat) (o : StateObj) : (d.setObj n o).start = d.start := rfl
@[simp] theorem Dev.setObj_backup (n : Nat) (o : StateObj) : (d.setObj n o).backup = d.backup := rfl
@[simp] theorem Dev.setObj_ageing (n : Nat) (o : StateObj) : (d.setObj n o).ageing = d.ageing := rfl
@[simp] theorem Dev.setObj_pins (n : Nat) (o : StateObj) : (d.setObj n o).pins = d.pins := rfl
@[simp] theorem Dev.setObj_power (n : Nat) (o : StateObj) : (d.setObj n o).power = d.power := rfl
@[simp] theorem Dev.setObj_smbus (n : Nat) (o : StateObj) : (d.setObj n o).smbus = d.smbus := rfl
@[simp] theorem Dev.setObj_support (n : Nat) (o : StateObj) : (d.setObj n o).support = d.support := rfl
@[simp] theorem Dev.setObj_lockOpened (n : Nat) (o : StateObj) : (d.setObj n o).lockOpened = d.lockOpened := rfl
@[simp] theorem Dev.setObj_mgmtTest (n : Nat) (o : StateObj) : (d.setObj n o).mgmtTest = d.mgmtTest := rfl
@[simp] theorem Dev.setObj_mgmtTestUnit (n : Nat) (o : StateObj) : (d.setObj n o).mgmtTestUnit = d.mgmtTestUnit := rfl
@[simp] theorem Dev.setObj_lastReport (n : Nat) (o : StateObj) : (d.setObj n o).lastReport = d.lastReport := rfl
@[simp] theorem Dev.setObj_lastValue (n : Nat) (o : StateObj) : (d.setObj n o).lastValue = d.lastValue := rfl
@[simp] theorem Dev.setObj_driverTest (n : Nat) (o : StateObj) : (d.setObj n o).driverTest = d.driverTest := rfl
@[simp] theorem Dev.setObj_arrivals (n : Nat) (o : StateObj) : (d.setObj n o).arrivals = d.arrivals := rfl
@[simp] theorem Dev.setObj_raised (n : Nat) (o : StateObj) : (d.setObj n o).raised = d.raised := rfl

@[simp] theorem Dev.giveStack_now (k base : Nat) : (d.giveStack k base).now = d.now := rfl
@[simp] theorem Dev.giveStack_freeCount (k base : Nat) : (d.giveStack k base).freeCount = d.freeCount := rfl
@[simp] theorem Dev.giveStack_tick (k base : Nat) : (d.giveStack k base).tick = d.tick := rfl
@[simp] theorem Dev.giveStack_time (k base : Nat) : (d.giveStack k base).time = d.time := rfl
@[simp] theorem Dev.giveStack_conf (k base : Nat) : (d.giveStack k base).conf = d.conf := rfl
@[simp] theorem Dev.giveStack_force (k base : Nat) : (d.giveStack k base).force = d.force := rfl
@[simp] theorem Dev.giveStack_counters (k base : Nat) : (d.giveStack k base).counters = d.counters := rfl
@[simp] theorem Dev.giveStack_deviceSlots (k base : Nat) : (d.giveStack k base).deviceSlots = d.deviceSlots := rfl
@[simp] theorem Dev.giveStack_parts (k base : Nat) : (d.giveStack k base).parts = d.parts := rfl
@[simp] theorem Dev.giveStack_ports (k base : Nat) : (d.giveStack k base).ports = d.ports := rfl
@[simp] theorem Dev.giveStack_regions (k base : Nat) : (d.giveStack k base).regions = d.regions := rfl
@[simp] theorem Dev.giveStack_stackTab (k base : Nat) : (d.giveStack k base).stackTab = d.stackTab := rfl
@[simp] theorem Dev.giveStack_cells (k base : Nat) : (d.giveStack k base).cells = d.cells := rfl
@[simp] theorem Dev.giveStack_engines (k base : Nat) : (d.giveStack k base).engines = d.engines := rfl
@[simp] theorem Dev.giveStack_jobs (k base : Nat) : (d.giveStack k base).jobs = d.jobs := rfl
@[simp] theorem Dev.giveStack_images (k base : Nat) : (d.giveStack k base).images = d.images := rfl
@[simp] theorem Dev.giveStack_nextImage (k base : Nat) : (d.giveStack k base).nextImage = d.nextImage := rfl
@[simp] theorem Dev.giveStack_objects (k base : Nat) : (d.giveStack k base).objects = d.objects := rfl
@[simp] theorem Dev.giveStack_pageFrames (k base : Nat) : (d.giveStack k base).pageFrames = d.pageFrames := rfl
@[simp] theorem Dev.giveStack_streams (k base : Nat) : (d.giveStack k base).streams = d.streams := rfl
@[simp] theorem Dev.giveStack_stateObjs (k base : Nat) : (d.giveStack k base).stateObjs = d.stateObjs := rfl
@[simp] theorem Dev.giveStack_dirs (k base : Nat) : (d.giveStack k base).dirs = d.dirs := rfl
@[simp] theorem Dev.giveStack_dirHomes (k base : Nat) : (d.giveStack k base).dirHomes = d.dirHomes := rfl
@[simp] theorem Dev.giveStack_cacheAlloc (k base : Nat) : (d.giveStack k base).cacheAlloc = d.cacheAlloc := rfl
@[simp] theorem Dev.giveStack_stratus (k base : Nat) : (d.giveStack k base).stratus = d.stratus := rfl
@[simp] theorem Dev.giveStack_transfers (k base : Nat) : (d.giveStack k base).transfers = d.transfers := rfl
@[simp] theorem Dev.giveStack_repairs (k base : Nat) : (d.giveStack k base).repairs = d.repairs := rfl
@[simp] theorem Dev.giveStack_removals (k base : Nat) : (d.giveStack k base).removals = d.removals := rfl
@[simp] theorem Dev.giveStack_capacityEvents (k base : Nat) : (d.giveStack k base).capacityEvents = d.capacityEvents := rfl
@[simp] theorem Dev.giveStack_mgmt (k base : Nat) : (d.giveStack k base).mgmt = d.mgmt := rfl
@[simp] theorem Dev.giveStack_store (k base : Nat) : (d.giveStack k base).store = d.store := rfl
@[simp] theorem Dev.giveStack_start (k base : Nat) : (d.giveStack k base).start = d.start := rfl
@[simp] theorem Dev.giveStack_backup (k base : Nat) : (d.giveStack k base).backup = d.backup := rfl
@[simp] theorem Dev.giveStack_ageing (k base : Nat) : (d.giveStack k base).ageing = d.ageing := rfl
@[simp] theorem Dev.giveStack_pins (k base : Nat) : (d.giveStack k base).pins = d.pins := rfl
@[simp] theorem Dev.giveStack_power (k base : Nat) : (d.giveStack k base).power = d.power := rfl
@[simp] theorem Dev.giveStack_smbus (k base : Nat) : (d.giveStack k base).smbus = d.smbus := rfl
@[simp] theorem Dev.giveStack_support (k base : Nat) : (d.giveStack k base).support = d.support := rfl
@[simp] theorem Dev.giveStack_lockOpened (k base : Nat) : (d.giveStack k base).lockOpened = d.lockOpened := rfl
@[simp] theorem Dev.giveStack_mgmtTest (k base : Nat) : (d.giveStack k base).mgmtTest = d.mgmtTest := rfl
@[simp] theorem Dev.giveStack_mgmtTestUnit (k base : Nat) : (d.giveStack k base).mgmtTestUnit = d.mgmtTestUnit := rfl
@[simp] theorem Dev.giveStack_lastReport (k base : Nat) : (d.giveStack k base).lastReport = d.lastReport := rfl
@[simp] theorem Dev.giveStack_lastValue (k base : Nat) : (d.giveStack k base).lastValue = d.lastValue := rfl
@[simp] theorem Dev.giveStack_driverTest (k base : Nat) : (d.giveStack k base).driverTest = d.driverTest := rfl
@[simp] theorem Dev.giveStack_arrivals (k base : Nat) : (d.giveStack k base).arrivals = d.arrivals := rfl
@[simp] theorem Dev.giveStack_raised (k base : Nat) : (d.giveStack k base).raised = d.raised := rfl

@[simp] theorem Dev.giveStratus_now (base : Nat) : (d.giveStratus base).now = d.now := rfl
@[simp] theorem Dev.giveStratus_freeCount (base : Nat) : (d.giveStratus base).freeCount = d.freeCount := rfl
@[simp] theorem Dev.giveStratus_tick (base : Nat) : (d.giveStratus base).tick = d.tick := rfl
@[simp] theorem Dev.giveStratus_time (base : Nat) : (d.giveStratus base).time = d.time := rfl
@[simp] theorem Dev.giveStratus_conf (base : Nat) : (d.giveStratus base).conf = d.conf := rfl
@[simp] theorem Dev.giveStratus_force (base : Nat) : (d.giveStratus base).force = d.force := rfl
@[simp] theorem Dev.giveStratus_counters (base : Nat) : (d.giveStratus base).counters = d.counters := rfl
@[simp] theorem Dev.giveStratus_deviceSlots (base : Nat) : (d.giveStratus base).deviceSlots = d.deviceSlots := rfl
@[simp] theorem Dev.giveStratus_parts (base : Nat) : (d.giveStratus base).parts = d.parts := rfl
@[simp] theorem Dev.giveStratus_ports (base : Nat) : (d.giveStratus base).ports = d.ports := rfl
@[simp] theorem Dev.giveStratus_regions (base : Nat) : (d.giveStratus base).regions = d.regions := rfl
@[simp] theorem Dev.giveStratus_stackTab (base : Nat) : (d.giveStratus base).stackTab = d.stackTab := rfl
@[simp] theorem Dev.giveStratus_cells (base : Nat) : (d.giveStratus base).cells = d.cells := rfl
@[simp] theorem Dev.giveStratus_engines (base : Nat) : (d.giveStratus base).engines = d.engines := rfl
@[simp] theorem Dev.giveStratus_jobs (base : Nat) : (d.giveStratus base).jobs = d.jobs := rfl
@[simp] theorem Dev.giveStratus_images (base : Nat) : (d.giveStratus base).images = d.images := rfl
@[simp] theorem Dev.giveStratus_nextImage (base : Nat) : (d.giveStratus base).nextImage = d.nextImage := rfl
@[simp] theorem Dev.giveStratus_objects (base : Nat) : (d.giveStratus base).objects = d.objects := rfl
@[simp] theorem Dev.giveStratus_pageFrames (base : Nat) : (d.giveStratus base).pageFrames = d.pageFrames := rfl
@[simp] theorem Dev.giveStratus_streams (base : Nat) : (d.giveStratus base).streams = d.streams := rfl
@[simp] theorem Dev.giveStratus_stateObjs (base : Nat) : (d.giveStratus base).stateObjs = d.stateObjs := rfl
@[simp] theorem Dev.giveStratus_dirs (base : Nat) : (d.giveStratus base).dirs = d.dirs := rfl
@[simp] theorem Dev.giveStratus_dirHomes (base : Nat) : (d.giveStratus base).dirHomes = d.dirHomes := rfl
@[simp] theorem Dev.giveStratus_stackAlloc (base : Nat) : (d.giveStratus base).stackAlloc = d.stackAlloc := rfl
@[simp] theorem Dev.giveStratus_cacheAlloc (base : Nat) : (d.giveStratus base).cacheAlloc = d.cacheAlloc := rfl
@[simp] theorem Dev.giveStratus_transfers (base : Nat) : (d.giveStratus base).transfers = d.transfers := rfl
@[simp] theorem Dev.giveStratus_repairs (base : Nat) : (d.giveStratus base).repairs = d.repairs := rfl
@[simp] theorem Dev.giveStratus_removals (base : Nat) : (d.giveStratus base).removals = d.removals := rfl
@[simp] theorem Dev.giveStratus_capacityEvents (base : Nat) : (d.giveStratus base).capacityEvents = d.capacityEvents := rfl
@[simp] theorem Dev.giveStratus_mgmt (base : Nat) : (d.giveStratus base).mgmt = d.mgmt := rfl
@[simp] theorem Dev.giveStratus_store (base : Nat) : (d.giveStratus base).store = d.store := rfl
@[simp] theorem Dev.giveStratus_start (base : Nat) : (d.giveStratus base).start = d.start := rfl
@[simp] theorem Dev.giveStratus_backup (base : Nat) : (d.giveStratus base).backup = d.backup := rfl
@[simp] theorem Dev.giveStratus_ageing (base : Nat) : (d.giveStratus base).ageing = d.ageing := rfl
@[simp] theorem Dev.giveStratus_pins (base : Nat) : (d.giveStratus base).pins = d.pins := rfl
@[simp] theorem Dev.giveStratus_power (base : Nat) : (d.giveStratus base).power = d.power := rfl
@[simp] theorem Dev.giveStratus_smbus (base : Nat) : (d.giveStratus base).smbus = d.smbus := rfl
@[simp] theorem Dev.giveStratus_support (base : Nat) : (d.giveStratus base).support = d.support := rfl
@[simp] theorem Dev.giveStratus_lockOpened (base : Nat) : (d.giveStratus base).lockOpened = d.lockOpened := rfl
@[simp] theorem Dev.giveStratus_mgmtTest (base : Nat) : (d.giveStratus base).mgmtTest = d.mgmtTest := rfl
@[simp] theorem Dev.giveStratus_mgmtTestUnit (base : Nat) : (d.giveStratus base).mgmtTestUnit = d.mgmtTestUnit := rfl
@[simp] theorem Dev.giveStratus_lastReport (base : Nat) : (d.giveStratus base).lastReport = d.lastReport := rfl
@[simp] theorem Dev.giveStratus_lastValue (base : Nat) : (d.giveStratus base).lastValue = d.lastValue := rfl
@[simp] theorem Dev.giveStratus_driverTest (base : Nat) : (d.giveStratus base).driverTest = d.driverTest := rfl
@[simp] theorem Dev.giveStratus_arrivals (base : Nat) : (d.giveStratus base).arrivals = d.arrivals := rfl
@[simp] theorem Dev.giveStratus_raised (base : Nat) : (d.giveStratus base).raised = d.raised := rfl

@[simp] theorem Dev.raise_now (cause unit : Nat) : (d.raise cause unit).now = d.now := rfl
@[simp] theorem Dev.raise_freeCount (cause unit : Nat) : (d.raise cause unit).freeCount = d.freeCount := rfl
@[simp] theorem Dev.raise_tick (cause unit : Nat) : (d.raise cause unit).tick = d.tick := rfl
@[simp] theorem Dev.raise_time (cause unit : Nat) : (d.raise cause unit).time = d.time := rfl
@[simp] theorem Dev.raise_conf (cause unit : Nat) : (d.raise cause unit).conf = d.conf := rfl
@[simp] theorem Dev.raise_force (cause unit : Nat) : (d.raise cause unit).force = d.force := rfl
@[simp] theorem Dev.raise_counters (cause unit : Nat) : (d.raise cause unit).counters = d.counters := rfl
@[simp] theorem Dev.raise_deviceSlots (cause unit : Nat) : (d.raise cause unit).deviceSlots = d.deviceSlots := rfl
@[simp] theorem Dev.raise_parts (cause unit : Nat) : (d.raise cause unit).parts = d.parts := rfl
@[simp] theorem Dev.raise_ports (cause unit : Nat) : (d.raise cause unit).ports = d.ports := rfl
@[simp] theorem Dev.raise_regions (cause unit : Nat) : (d.raise cause unit).regions = d.regions := rfl
@[simp] theorem Dev.raise_stackTab (cause unit : Nat) : (d.raise cause unit).stackTab = d.stackTab := rfl
@[simp] theorem Dev.raise_cells (cause unit : Nat) : (d.raise cause unit).cells = d.cells := rfl
@[simp] theorem Dev.raise_engines (cause unit : Nat) : (d.raise cause unit).engines = d.engines := rfl
@[simp] theorem Dev.raise_jobs (cause unit : Nat) : (d.raise cause unit).jobs = d.jobs := rfl
@[simp] theorem Dev.raise_images (cause unit : Nat) : (d.raise cause unit).images = d.images := rfl
@[simp] theorem Dev.raise_nextImage (cause unit : Nat) : (d.raise cause unit).nextImage = d.nextImage := rfl
@[simp] theorem Dev.raise_objects (cause unit : Nat) : (d.raise cause unit).objects = d.objects := rfl
@[simp] theorem Dev.raise_pageFrames (cause unit : Nat) : (d.raise cause unit).pageFrames = d.pageFrames := rfl
@[simp] theorem Dev.raise_streams (cause unit : Nat) : (d.raise cause unit).streams = d.streams := rfl
@[simp] theorem Dev.raise_stateObjs (cause unit : Nat) : (d.raise cause unit).stateObjs = d.stateObjs := rfl
@[simp] theorem Dev.raise_dirs (cause unit : Nat) : (d.raise cause unit).dirs = d.dirs := rfl
@[simp] theorem Dev.raise_dirHomes (cause unit : Nat) : (d.raise cause unit).dirHomes = d.dirHomes := rfl
@[simp] theorem Dev.raise_stackAlloc (cause unit : Nat) : (d.raise cause unit).stackAlloc = d.stackAlloc := rfl
@[simp] theorem Dev.raise_cacheAlloc (cause unit : Nat) : (d.raise cause unit).cacheAlloc = d.cacheAlloc := rfl
@[simp] theorem Dev.raise_stratus (cause unit : Nat) : (d.raise cause unit).stratus = d.stratus := rfl
@[simp] theorem Dev.raise_transfers (cause unit : Nat) : (d.raise cause unit).transfers = d.transfers := rfl
@[simp] theorem Dev.raise_repairs (cause unit : Nat) : (d.raise cause unit).repairs = d.repairs := rfl
@[simp] theorem Dev.raise_removals (cause unit : Nat) : (d.raise cause unit).removals = d.removals := rfl
@[simp] theorem Dev.raise_capacityEvents (cause unit : Nat) : (d.raise cause unit).capacityEvents = d.capacityEvents := rfl
@[simp] theorem Dev.raise_mgmt (cause unit : Nat) : (d.raise cause unit).mgmt = d.mgmt := rfl
@[simp] theorem Dev.raise_store (cause unit : Nat) : (d.raise cause unit).store = d.store := rfl
@[simp] theorem Dev.raise_start (cause unit : Nat) : (d.raise cause unit).start = d.start := rfl
@[simp] theorem Dev.raise_backup (cause unit : Nat) : (d.raise cause unit).backup = d.backup := rfl
@[simp] theorem Dev.raise_ageing (cause unit : Nat) : (d.raise cause unit).ageing = d.ageing := rfl
@[simp] theorem Dev.raise_pins (cause unit : Nat) : (d.raise cause unit).pins = d.pins := rfl
@[simp] theorem Dev.raise_power (cause unit : Nat) : (d.raise cause unit).power = d.power := rfl
@[simp] theorem Dev.raise_smbus (cause unit : Nat) : (d.raise cause unit).smbus = d.smbus := rfl
@[simp] theorem Dev.raise_support (cause unit : Nat) : (d.raise cause unit).support = d.support := rfl
@[simp] theorem Dev.raise_lockOpened (cause unit : Nat) : (d.raise cause unit).lockOpened = d.lockOpened := rfl
@[simp] theorem Dev.raise_mgmtTest (cause unit : Nat) : (d.raise cause unit).mgmtTest = d.mgmtTest := rfl
@[simp] theorem Dev.raise_mgmtTestUnit (cause unit : Nat) : (d.raise cause unit).mgmtTestUnit = d.mgmtTestUnit := rfl
@[simp] theorem Dev.raise_lastReport (cause unit : Nat) : (d.raise cause unit).lastReport = d.lastReport := rfl
@[simp] theorem Dev.raise_lastValue (cause unit : Nat) : (d.raise cause unit).lastValue = d.lastValue := rfl
@[simp] theorem Dev.raise_driverTest (cause unit : Nat) : (d.raise cause unit).driverTest = d.driverTest := rfl
@[simp] theorem Dev.raise_arrivals (cause unit : Nat) : (d.raise cause unit).arrivals = d.arrivals := rfl

@[simp] theorem Dev.advance_freeCount (t : Nat) : (d.advance t).freeCount = d.freeCount := rfl
@[simp] theorem Dev.advance_tick (t : Nat) : (d.advance t).tick = d.tick := rfl
@[simp] theorem Dev.advance_time (t : Nat) : (d.advance t).time = d.time := rfl
@[simp] theorem Dev.advance_conf (t : Nat) : (d.advance t).conf = d.conf := rfl
@[simp] theorem Dev.advance_force (t : Nat) : (d.advance t).force = d.force := rfl
@[simp] theorem Dev.advance_counters (t : Nat) : (d.advance t).counters = d.counters := rfl
@[simp] theorem Dev.advance_deviceSlots (t : Nat) : (d.advance t).deviceSlots = d.deviceSlots := rfl
@[simp] theorem Dev.advance_parts (t : Nat) : (d.advance t).parts = d.parts := rfl
@[simp] theorem Dev.advance_ports (t : Nat) : (d.advance t).ports = d.ports := rfl
@[simp] theorem Dev.advance_regions (t : Nat) : (d.advance t).regions = d.regions := rfl
@[simp] theorem Dev.advance_stackTab (t : Nat) : (d.advance t).stackTab = d.stackTab := rfl
@[simp] theorem Dev.advance_cells (t : Nat) : (d.advance t).cells = d.cells := rfl
@[simp] theorem Dev.advance_engines (t : Nat) : (d.advance t).engines = d.engines := rfl
@[simp] theorem Dev.advance_jobs (t : Nat) : (d.advance t).jobs = d.jobs := rfl
@[simp] theorem Dev.advance_images (t : Nat) : (d.advance t).images = d.images := rfl
@[simp] theorem Dev.advance_nextImage (t : Nat) : (d.advance t).nextImage = d.nextImage := rfl
@[simp] theorem Dev.advance_objects (t : Nat) : (d.advance t).objects = d.objects := rfl
@[simp] theorem Dev.advance_pageFrames (t : Nat) : (d.advance t).pageFrames = d.pageFrames := rfl
@[simp] theorem Dev.advance_streams (t : Nat) : (d.advance t).streams = d.streams := rfl
@[simp] theorem Dev.advance_stateObjs (t : Nat) : (d.advance t).stateObjs = d.stateObjs := rfl
@[simp] theorem Dev.advance_dirs (t : Nat) : (d.advance t).dirs = d.dirs := rfl
@[simp] theorem Dev.advance_dirHomes (t : Nat) : (d.advance t).dirHomes = d.dirHomes := rfl
@[simp] theorem Dev.advance_stackAlloc (t : Nat) : (d.advance t).stackAlloc = d.stackAlloc := rfl
@[simp] theorem Dev.advance_cacheAlloc (t : Nat) : (d.advance t).cacheAlloc = d.cacheAlloc := rfl
@[simp] theorem Dev.advance_stratus (t : Nat) : (d.advance t).stratus = d.stratus := rfl
@[simp] theorem Dev.advance_transfers (t : Nat) : (d.advance t).transfers = d.transfers := rfl
@[simp] theorem Dev.advance_repairs (t : Nat) : (d.advance t).repairs = d.repairs := rfl
@[simp] theorem Dev.advance_removals (t : Nat) : (d.advance t).removals = d.removals := rfl
@[simp] theorem Dev.advance_capacityEvents (t : Nat) : (d.advance t).capacityEvents = d.capacityEvents := rfl
@[simp] theorem Dev.advance_mgmt (t : Nat) : (d.advance t).mgmt = d.mgmt := rfl
@[simp] theorem Dev.advance_store (t : Nat) : (d.advance t).store = d.store := rfl
@[simp] theorem Dev.advance_start (t : Nat) : (d.advance t).start = d.start := rfl
@[simp] theorem Dev.advance_backup (t : Nat) : (d.advance t).backup = d.backup := rfl
@[simp] theorem Dev.advance_ageing (t : Nat) : (d.advance t).ageing = d.ageing := rfl
@[simp] theorem Dev.advance_pins (t : Nat) : (d.advance t).pins = d.pins := rfl
@[simp] theorem Dev.advance_power (t : Nat) : (d.advance t).power = d.power := rfl
@[simp] theorem Dev.advance_smbus (t : Nat) : (d.advance t).smbus = d.smbus := rfl
@[simp] theorem Dev.advance_support (t : Nat) : (d.advance t).support = d.support := rfl
@[simp] theorem Dev.advance_lockOpened (t : Nat) : (d.advance t).lockOpened = d.lockOpened := rfl
@[simp] theorem Dev.advance_mgmtTest (t : Nat) : (d.advance t).mgmtTest = d.mgmtTest := rfl
@[simp] theorem Dev.advance_mgmtTestUnit (t : Nat) : (d.advance t).mgmtTestUnit = d.mgmtTestUnit := rfl
@[simp] theorem Dev.advance_lastReport (t : Nat) : (d.advance t).lastReport = d.lastReport := rfl
@[simp] theorem Dev.advance_lastValue (t : Nat) : (d.advance t).lastValue = d.lastValue := rfl
@[simp] theorem Dev.advance_driverTest (t : Nat) : (d.advance t).driverTest = d.driverTest := rfl
@[simp] theorem Dev.advance_arrivals (t : Nat) : (d.advance t).arrivals = d.arrivals := rfl
@[simp] theorem Dev.advance_raised (t : Nat) : (d.advance t).raised = d.raised := rfl

end Sys2Proof.Machine
end

