-- ==== Sys2Proof/Laws/Calm.lean ====
section
/-!
SUPPORT. What ending work leaves: what stops units, ends rounds and jobs, frees their data and answers their commands
raises no cause, changes no safety state, and leaves the ports, the clocks, the configuration and the rest of the
device that `Dev.still` keeps.
-/

namespace Sys2Proof.Machine

/-! ### Devices -/

/-- A device without what ending work changes: its partitions, jobs, units, streams, objects, stored
data and counters. -/
def Dev.still (d : Dev) : Dev :=
  { d with
    counters := [], deviceSlots := [], parts := [], regions := [], stackTab := [], cells := [], engines := [], jobs := []
    objects := [], pageFrames := [], streams := [], stateObjs := [], dirs := [], dirHomes := [], stackAlloc := [], cacheAlloc := [], stratus := {}
    transfers := [], mgmt := { d.mgmt with creds := [] } }

theorem Dev.still_raised {a b : Dev} (h : b.still = a.still) : b.raised = a.raised := (congrArg Dev.raised h :)

@[simp] theorem Dev.setPart_still (d : Dev) (p : Nat) (x : Part) : (d.setPart p x).still = d.still := rfl
@[simp] theorem Dev.modPart_still (d : Dev) (p : Nat) (f : Part → Part) : (d.modPart p f).still = d.still := rfl

@[simp] theorem Dev.modCell_still (d : Dev) (n : Nat) (f : ComputeUnit → ComputeUnit) : (d.modCell n f).still = d.still := rfl
@[simp] theorem Dev.modEngine_still (d : Dev) (n : Nat) (f : ComputeUnit → ComputeUnit) : (d.modEngine n f).still = d.still := rfl

theorem Dev.streams_still (d : Dev) (l : List (Nat × StreamEntry)) : ({ d with streams := l } : Dev).still = d.still := rfl

theorem NoticesOnly.still {a b : Dev} (h : NoticesOnly a b) : b.still = a.still := (congrArg Dev.still h.shell :)

theorem foldl_still {α : Type} {f : Dev → α → Dev} (h : ∀ d x, (f d x).still = d.still) :
    ∀ (l : List α) (d : Dev), (l.foldl f d).still = d.still
  | [], _ => rfl
  | x :: xs, d => (foldl_still h xs (f d x)).trans (h d x)

@[simp] theorem Dev.noticePart_still (d : Dev) (p : Nat) (n : Notice) : (d.noticePart p n).still = d.still := rfl

@[simp] theorem Dev.notify_still (d : Dev) (part : Option Nat) (rings : List Nat) (b : NoticeBody) :
    (d.notify part rings b).still = d.still := (d.notify_only part rings b).still

@[simp] theorem Dev.alarm_still (d : Dev) (c : Nat) : (d.alarm c).still = d.still := d.notify_still _ _ _

@[simp] theorem Dev.failPosted_still (d : Dev) (p : Nat) (k : Packet) (c : Code) : (d.failPosted p k c).still = d.still := by
  unfold Dev.failPosted
  split <;> exact Dev.notify_still d (some p) [p] (.postedFail k.seq k.opcode c.toNat k.urgent)

@[simp] theorem Dev.complete_still (d : Dev) (p : Nat) (k : Packet) (c : Code) (info : Nat) (bs : Bytes) :
    (d.complete p k c info bs).still = d.still := by
  unfold Dev.complete
  dsimp only
  split
  · split <;> simp [Dev.dropFlight, Dev.modPart, Dev.dropWait, Dev.dropPacket]
  · simp only [Dev.markDone, Dev.modPart, Dev.setPart_still]
    rw [foldl_still (fun d x => by simp [Dev.emit, Dev.modPart])]
    rfl

@[simp] theorem Dev.completeTag_still (d : Dev) (p tag : Nat) (c : Code) (info : Nat) (bs : Bytes) :
    (d.completeTag p tag c info bs).still = d.still := by
  unfold Dev.completeTag
  split
  · simp
  · split <;> simp

@[simp] theorem Dev.endChunks_still (d : Dev) (p : Nat) (w : Chunk → Bool) (c : Code) : (d.endChunks p w c).still = d.still := by
  unfold Dev.endChunks
  dsimp only
  rw [foldl_still (fun d x => by simp)]
  rfl

@[simp] theorem Dev.modJob_still' (d : Dev) (j : Nat) (f : Job → Job) : (d.modJob j f).still = d.still := by
  unfold Dev.modJob
  split <;> rfl

@[simp] theorem Dev.count_still' (d : Dev) (o s n : Nat) : (d.count o s n).still = d.still := rfl

@[simp] theorem Dev.charge_still (d : Dev) (j : Job) (k n : Nat) : (d.charge j k n).still = d.still := by
  simp [Dev.charge, Dev.modPart]

@[simp] theorem Dev.credit_still (d : Dev) (j : Job) (k n : Nat) : (d.credit j k n).still = d.still := by
  simp [Dev.credit, Dev.modPart]

@[simp] theorem Dev.account_still (d : Dev) (p s n : Nat) : (d.account p s n).still = d.still := rfl

@[simp] theorem Dev.cellBusy_still (d : Dev) (j : Job) (r : Role) (n : Nat) : (d.cellBusy j r n).still = d.still := by
  unfold Dev.cellBusy
  split <;> simp

@[simp] theorem Dev.engineBusy_still (d : Dev) (j : Job) (r : Role) (n : Nat) : (d.engineBusy j r n).still = d.still := by
  unfold Dev.engineBusy
  split <;> simp

@[simp] theorem Dev.stopCell_still (d : Dev) (n : Nat) : (d.stopCell n).still = d.still := by
  unfold Dev.stopCell
  split
  · rfl
  · dsimp only
    split
    · rfl
    · split <;> simp

@[simp] theorem Dev.stopEngine_still (d : Dev) (n : Nat) : (d.stopEngine n).still = d.still := by
  unfold Dev.stopEngine
  split
  · rfl
  · dsimp only
    split
    · rfl
    · split <;> simp

@[simp] theorem Dev.stopJob_still (d : Dev) (j : Nat) : (d.stopJob j).still = d.still := by
  unfold Dev.stopJob
  dsimp only
  exact (foldl_still Dev.stopEngine_still _ _).trans (foldl_still Dev.stopCell_still _ _)

@[simp] theorem Dev.emit_still' (d : Dev) (p : Nat) (r : Response) : (d.emit p r).still = d.still := rfl

@[simp] theorem Dev.roundResponse_still (d : Dev) (j : Job) (c : Code) (i : Nat) (e : Bool) (n : Nat)
    (st : List (PartId × Code)) : (d.roundResponse j c i e n st).still = d.still :=
  foldl_still (f := fun acc x => acc.emit j.part x) (fun _ _ => rfl) _ d

@[simp] theorem Dev.endCommands_still (d : Dev) (j : Job) (r : Round) (c : Code) (st : List (PartId × Code)) :
    (d.endCommands j r c st).still = d.still := by
  unfold Dev.endCommands
  dsimp only
  rw [foldl_still (fun d x => by simp), foldl_still (fun d x => by simp)]

@[simp] theorem Dev.endRoundChunks_still (d : Dev) (p : Nat) (r : Round) (c : Code) (st : List (PartId × Code)) :
    (d.endRoundChunks p r c st).still = d.still := by
  unfold Dev.endRoundChunks
  refine foldl_still (fun d x => ?_) _ d
  dsimp only
  split
  · split
    · exact d.endChunks_still _ _ _
    · exact d.completeTag_still _ _ _ _ _
  · split
    · exact (Dev.streams_still (d.endChunks p _ _) _).trans (d.endChunks_still _ _ _)
    · exact (Dev.streams_still (d.completeTag p _ _ _) _).trans (d.completeTag_still _ _ _ _ _)

@[simp] theorem Dev.setStream_still (d : Dev) (n : Nat) (s : StreamEntry) : (d.setStream n s).still = d.still := rfl

@[simp] theorem Dev.countQueue_still (d : Dev) (n : Nat) : (d.countQueue n).still = d.still := by
  unfold Dev.countQueue
  split <;> rfl

@[simp] theorem Dev.endHosts_still (d : Dev) (j : Nat) (b : Bool) : (d.endHosts j b).still = d.still := rfl

@[simp] theorem Dev.dropQueue_still (d : Dev) (p : Nat) : (d.dropQueue p).still = d.still :=
  by
    unfold Dev.dropQueue
    dsimp only
    rw [Dev.modPart_still, foldl_still Dev.countQueue_still, Dev.endChunks_still, foldl_still (fun d x => by simp)]

@[simp] theorem Dev.vector_still' (d : Dev) (p v : Nat) : (d.vector p v).still = d.still := rfl

theorem foldl_raised {α : Type} {f : Dev → α → Dev} (h : ∀ d x, (f d x).raised = d.raised) :
    ∀ (l : List α) (d : Dev), (l.foldl f d).raised = d.raised
  | [], _ => rfl
  | x :: xs, d => (foldl_raised h xs (f d x)).trans (h d x)

@[simp] theorem Dev.notify_raised (d : Dev) (part : Option Nat) (rings : List Nat) (b : NoticeBody) :
    (d.notify part rings b).raised = d.raised := (d.notify_only part rings b).raised

@[simp] theorem Dev.alarm_raised (d : Dev) (c : Nat) : (d.alarm c).raised = d.raised := d.notify_raised _ _ _

/-! ### Effects -/

/-- An effect that goes on from another with nothing changed that ending work leaves, and no safety change. -/
def Eff.Calm (e e' : Eff) : Prop := e'.dev.still = e.dev.still ∧ e'.safety = e.safety

theorem Eff.Calm.raised {e e' : Eff} (h : e.Calm e') : e'.dev.raised = e.dev.raised := (congrArg Dev.raised h.1 :)

theorem Eff.Calm.ports {e e' : Eff} (h : e.Calm e') : e'.dev.ports = e.dev.ports := (congrArg Dev.ports h.1 :)

theorem Eff.Calm.refl (e : Eff) : e.Calm e := ⟨rfl, rfl⟩

theorem Eff.Calm.trans {a b c : Eff} (h : a.Calm b) (g : b.Calm c) : a.Calm c := ⟨g.1.trans h.1, g.2.trans h.2⟩

theorem Eff.Calm.fold {α : Type} {f : Eff → α → Eff} (h : ∀ (e : Eff) x, e.Calm (f e x)) :
    ∀ (l : List α) (e : Eff), e.Calm (l.foldl f e)
  | [], e => Eff.Calm.refl e
  | x :: xs, e => (h e x).trans (Eff.Calm.fold h xs (f e x))

theorem Eff.Calm.mod {e : Eff} {f : Dev → Dev} (h : (f e.dev).still = e.dev.still) : e.Calm (e.mod f) := ⟨h, rfl⟩

theorem Eff.Calm.andMod {e a : Eff} (g : e.Calm a) {f : Dev → Dev} (h : (f a.dev).still = a.dev.still) :
    e.Calm (a.mod f) := g.trans (Eff.Calm.mod h)

theorem Eff.freeLines_calm (e : Eff) (k la n : Nat) : e.Calm (e.freeLines k la n) := ⟨rfl, rfl⟩

theorem Eff.freeUnits_calm (e : Eff) (l n : Nat) : e.Calm (e.freeUnits l n) := ⟨rfl, rfl⟩

@[simp] theorem Dev.setFrame_still' (d : Dev) (n : Nat) (f : PageFrame) : (d.setFrame n f).still = d.still := rfl

@[simp] theorem Dev.setObj_still' (d : Dev) (n : Nat) (o : StateObj) : (d.setObj n o).still = d.still := rfl

theorem Dev.transfers_still (d : Dev) (l : List Transfer) : ({ d with transfers := l } : Dev).still = d.still := rfl

theorem Eff.freePage_calm (e : Eff) (n : Nat) : e.Calm (e.freePage n) := by
  unfold Eff.freePage
  dsimp only
  split
  · exact Eff.Calm.andMod (e.freeLines_calm _ _ _) (by simp)
  · exact Eff.Calm.andMod (e.freeUnits_calm _ _) (by simp)
  · exact Eff.Calm.mod (by simp)
  · exact Eff.Calm.mod (by simp)
  · exact Eff.Calm.refl e

theorem Eff.dropPage_calm (e : Eff) (n : Nat) : e.Calm (e.dropPage n) := by
  unfold Eff.dropPage
  dsimp only
  split
  · exact e.freePage_calm n
  · exact Eff.Calm.mod (by simp)

theorem Eff.freeObj_calm (e : Eff) (n : Nat) : e.Calm (e.freeObj n) := by
  unfold Eff.freeObj
  dsimp only
  split
  · exact Eff.Calm.andMod (e.freeLines_calm _ _ _) (by simp)
  · exact Eff.Calm.andMod (e.freeUnits_calm _ _) (by simp)
  all_goals exact Eff.Calm.mod (by simp)

theorem Eff.dropObj_calm (e : Eff) (n : Nat) : e.Calm (e.dropObj n) := by
  unfold Eff.dropObj
  dsimp only
  split
  · exact e.freeObj_calm n
  · exact Eff.Calm.mod (by simp)

theorem Eff.freeDir_calm (e : Eff) (n : Nat) : e.Calm (e.freeDir n) := by
  unfold Eff.freeDir
  dsimp only
  refine Eff.Calm.andMod ?_ rfl
  split
  · exact e.freeLines_calm _ _ _
  · exact Eff.Calm.refl _

theorem Eff.stopRecall_calm (e : Eff) (n : Nat) : e.Calm (e.stopRecall n) := by
  unfold Eff.stopRecall
  refine Eff.Calm.fold (fun e t => ?_) _ e
  split
  · exact Eff.Calm.refl _
  · split
    · exact Eff.Calm.refl _
    · refine Eff.Calm.andMod (Eff.Calm.fold (fun e x => e.freeLines_calm _ _ _) _ e) ?_
      refine (Dev.transfers_still _ _).trans (foldl_still (fun d x => ?_) _ _)
      simp
  · exact Eff.Calm.refl _

@[simp] theorem Dev.noteFreed_still (d : Dev) (j id : Nat) : (d.noteFreed j id).still = d.still := by
  simp [Dev.noteFreed]

theorem Eff.freeStream_calm (e : Eff) (n : Nat) : e.Calm (e.freeStream n) := by
  unfold Eff.freeStream
  dsimp only
  refine (e.stopRecall_calm n).trans ?_
  split
  · exact Eff.Calm.refl _
  · refine Eff.Calm.andMod ?_ ((Dev.noteFreed_still _ _ _).trans (Dev.streams_still _ _))
    have h := Eff.Calm.fold Eff.dropObj_calm ((e.stopRecall n).dev.directory ‹_›) (e.stopRecall n)
    split
    · exact h.trans (Eff.freeDir_calm _ _)
    · exact h

theorem Eff.discard_calm (e : Eff) (r : Round) : e.Calm (e.discard r) :=
  ((Eff.Calm.fold Eff.freePage_calm _ e).trans (Eff.Calm.fold Eff.freeObj_calm _ _)).trans
    (Eff.Calm.fold Eff.freeDir_calm _ _)

theorem Eff.failRound_calm (e : Eff) (j : Nat) (c : Code) (m : Nat) (st : List (PartId × Code)) :
    e.Calm (e.failRound j c m st) := by
  unfold Eff.failRound
  split
  · exact Eff.Calm.refl _
  · split
    · exact Eff.Calm.refl _
    · dsimp only
      have h := (Eff.Calm.mod (e := e) (f := fun d => (d.modJob j (fun y => y.sweep d.now)).stopJob j) (by simp)).trans (Eff.discard_calm _ ‹Round›)
      exact ⟨by simpa using h.1, h.2⟩

theorem Eff.freeHomes_calm (e : Eff) (j : Job) : e.Calm (e.freeHomes j) := by
  unfold Eff.freeHomes
  dsimp only
  refine Eff.Calm.trans ?_ (Eff.Calm.fold (fun e x => ?_) _ _)
  · have h : e.Calm (j.homes.foldl (fun acc h => match h with
        | none => acc
        | some t =>
          if t.lost then acc
          else match t.space with
          | .stack k => acc.freeLines k (t.base / 128) (ceilDiv (t.bytes) 128)
          | .cache r =>
            (acc.mod (fun d =>
              { d with cacheAlloc := tset d.cacheAlloc r (freeExtent (d.cacheUse r) (t.base / 128)) })).ops
              [.clear (t.space.addr t.base) (t.bytes)]
          | .stratus => acc) e) := by
      refine Eff.Calm.fold (fun e x => ?_) _ e
      split
      · exact Eff.Calm.refl _
      · split
        · exact Eff.Calm.refl _
        · split <;> exact ⟨rfl, rfl⟩
    split
    · exact h.trans ⟨rfl, rfl⟩
    · exact h
  · split <;> exact ⟨rfl, rfl⟩

theorem Eff.freeFutures_calm (e : Eff) (j : Job) : e.Calm (e.freeFutures j) := by
  unfold Eff.freeFutures
  dsimp only
  refine Eff.Calm.trans (Eff.Calm.fold (fun e f => ?_) _ e) (Eff.Calm.fold Eff.freeStream_calm _ _)
  exact Eff.Calm.fold (fun e l => Eff.Calm.fold Eff.dropPage_calm _ e) _ e

theorem Eff.endJob_calm (e : Eff) (j : Nat) (c rc : Code) : e.Calm (e.endJob j c rc) := by
  unfold Eff.endJob
  split
  · exact Eff.Calm.refl _
  · split
    · exact Eff.Calm.refl _
    · dsimp only
      refine (e.failRound_calm j rc 0 []).trans ?_
      generalize e.failRound j rc 0 [] = e1
      split
      · exact Eff.Calm.refl _
      · rename_i x _
        generalize hd : List.foldl _ e1.dev x.backlog = d0
        have h0 : d0.still = e1.dev.still := by subst hd; exact foldl_still (fun d y => by simp) _ _
        generalize hd1 : (match x.pendingProg with
          | some y => d0.completeTag x.part y.2 (if c = Code.aborted then Code.aborted else .rejectedFormat)
          | none => d0) = d1
        have h1 : d1.still = d0.still := by
          subst hd1
          split <;> simp
        have key : ∀ d2 : Dev, d2.still = d1.still → e1.Calm ((({ e1 with dev := d2 } : Eff).freeFutures x).freeHomes x) := by
          intro d2 h2
          refine Eff.Calm.trans (b := ({ e1 with dev := d2 } : Eff)) ⟨h2.trans (h1.trans h0), rfl⟩ ?_
          exact (Eff.freeFutures_calm _ x).trans (Eff.freeHomes_calm _ x)
        split
        · refine Eff.Calm.andMod (Eff.Calm.andMod (Eff.Calm.andMod (key _ ?_) (by simp)) (by simp)) (by simp)
          rw [foldl_still (fun d y => by simp), Dev.endChunks_still, foldl_still (fun d y => by simp)]
          all_goals (rw [h1]; split <;> simp)
        · refine Eff.Calm.andMod (Eff.Calm.andMod (key _ ?_) (by simp)) (by simp)
          rw [foldl_still (fun d y => by simp), Dev.endChunks_still, foldl_still (fun d y => by simp)]
          all_goals (rw [h1]; split <;> simp)

theorem Eff.abortJob_calm (e : Eff) (j : Nat) : e.Calm (e.abortJob j) := by
  unfold Eff.abortJob
  split
  · exact Eff.Calm.mod (by simp)
  · exact e.endJob_calm _ _ _

theorem Eff.quiesce_calm (e : Eff) (p : Nat) : e.Calm (e.quiesce p) := by
  unfold Eff.quiesce
  exact Eff.Calm.andMod (Eff.Calm.fold (fun e j => e.failRound_calm _ _ _ _) _ e) (by simp)

theorem Eff.functionReset_calm (e : Eff) (p : Nat) : e.Calm (e.functionReset p) := by
  unfold Eff.functionReset
  dsimp only
  refine Eff.Calm.andMod (Eff.Calm.andMod ((e.quiesce_calm p).trans ?_) (by simp)) (by simp)
  exact Eff.Calm.fold (fun e j => e.abortJob_calm _) _ _

theorem Eff.endAll_calm (e : Eff) (p : Nat) : e.Calm (e.endAll p) := by
  unfold Eff.endAll
  dsimp only
  refine Eff.Calm.andMod ((e.quiesce_calm p).trans (Eff.Calm.fold (fun e j => e.abortJob_calm _) _ _)) ?_
  rw [foldl_still (fun d y => by simp)]
  simp

/-- A job ended is no longer live. -/
theorem Eff.endJob_live (e : Eff) (j : Nat) (c rc : Code) : (e.endJob j c rc).dev.liveJob j = none := by
  unfold Eff.endJob
  split
  · simp [Dev.liveJob, *]
  · split
    · simp [Dev.liveJob, *]
    · dsimp only
      generalize e.failRound j rc 0 [] = e1
      split
      · simp [Dev.liveJob, *]
      · generalize (Eff.mod (Eff.freeHomes _ _) _) = e2
        have key : ∀ d : Dev, ∀ f : Job → Job, (∀ y, (f y).state = .ended) → (d.modJob j f).liveJob j = none := by
          intro d f hf
          unfold Dev.modJob
          split
          · simp [Dev.liveJob, Dev.job?, hf]
          · simp [Dev.liveJob, *]
        have keep : ∀ (l : List Response) (d : Dev) (p : Nat),
            (l.foldl (fun acc x => acc.emit p x) d).liveJob j = d.liveJob j := by
          intro l
          induction l with
          | nil => intro d p; rfl
          | cons y l ih => intro d p; exact ih _ _
        split
        · simp only [Eff.mod, Dev.roundResponse, keep]
          exact key _ _ (fun _ => rfl)
        · exact key _ _ (fun _ => rfl)

end Sys2Proof.Machine
end

