-- ==== Sys2Proof/Laws/Commands.lean ====
section
/-!
SUPPORT. What every command does to a state as a whole, function by function: each leads to a next state, leaves the
queue, and keeps a sound state sound.
-/

namespace Sys2Proof.Machine

/-- Goes on from a state that another leads to. -/
theorem Follows.andApply {s t : State} (h : Follows s t) (e : Eff) : Follows s (t.apply e) := h.trans (Follows.apply t e)

theorem Follows.andDev {s t : State} (h : Follows s t) (d : Dev) : Follows s (t.withDev d) := h.andApply _

/-! ### Objects -/

theorem State.writeAll_follows (who : Requester) (sys : Bool) : ∀ (l : List Entry) (s : State),
    Follows s (s.writeAll who sys l).1
  | [], s => Follows.refl s
  | _ :: ws, s => (Follows.apply s _).trans (State.writeAll_follows who sys ws _)

theorem State.defaults_follows (s : State) (who : Requester) : Follows s (s.defaults who) :=
  (State.writeAll_follows who false _ s).andDev _

theorem State.writeEntry_follows (s : State) (who : Requester) (w : Entry) : Follows s (s.writeEntry who w).1 := by
  unfold State.writeEntry
  dsimp only
  split
  · exact s.defaults_follows who
  · exact Follows.apply s _

theorem State.writeEntries_follows (who : Requester) : ∀ (l : List Entry) (s : State),
    Follows s (s.writeEntries who l).1
  | [], s => Follows.refl s
  | w :: ws, s => (s.writeEntry_follows who w).trans (State.writeEntries_follows who ws _)

theorem State.writeRow_follows (s : State) (who : Requester) (w : Entry) : Follows s (s.writeRow who w) :=
  (s.writeEntry_follows who w).andDev _

/-! ### Rounds -/

theorem State.completeInst_follows (s : State) (j : Job) (r : Round) (x : Inst) : Follows s (s.completeInst j r x) :=
  ((Follows.apply s _).andApply _).andDev _

theorem State.settleInst_follows : ∀ (fuel : Nat) (s : State) (job op : Nat), Follows s (State.settleInst fuel s job op)
  | 0, s, _, _ => Follows.refl s
  | fuel + 1, s, job, op => by
    unfold State.settleInst
    split
    · exact Follows.refl s
    · split
      · exact Follows.refl s
      · split
        · exact Follows.refl s
        · split
          · exact (Follows.withDev s _).trans (State.settleInst_follows fuel _ job op)
          · exact s.completeInst_follows _ _ _

theorem State.startInst_follows (s : State) (job op : Nat) : Follows s (s.startInst job op) := by
  unfold State.startInst
  split
  · exact Follows.refl s
  · split
    · exact Follows.refl s
    · exact (Follows.withDev s _).trans (State.settleInst_follows _ _ _ _)

theorem State.beginStep_follows (s : State) (job : Nat) : Follows s (s.beginStep job) := by
  unfold State.beginStep
  split
  · exact Follows.refl s
  · exact Follows.apply s _

theorem State.endStep_follows (s : State) (job : Nat) : Follows s (s.endStep job) := by
  unfold State.endStep
  split
  · exact Follows.refl s
  · exact Follows.withDev s _

theorem State.applyFork_follows (s : State) (job : Nat) (f : ForkIn) : Follows s (s.applyFork job f) := by
  unfold State.applyFork
  split
  · exact Follows.refl s
  · split
    · exact Follows.withDev s _
    · exact Follows.apply s _

theorem State.applyForks_follows (s : State) (job : Nat) : Follows s (s.applyForks job) := by
  unfold State.applyForks
  split
  · exact Follows.refl s
  · exact ((Follows.withDev s _).trans (Follows.fold (fun a f => a.applyFork_follows job f) _ _)).andDev _

theorem State.endRound_follows (s : State) (job : Nat) : Follows s (s.endRound job) := by
  unfold State.endRound
  dsimp only
  split
  · exact Follows.apply s _
  · exact (Follows.apply s _).andDev _

theorem State.roundAction_follows (s : State) (j : Job) (r : Round) (t : State) (h : s.roundAction j r = some t) :
    Follows s t := by
  unfold State.roundAction at h
  split at h
  · cases h
  · split at h
    · split at h
      · cases h; exact s.startInst_follows _ _
      · split at h
        · cases h; exact s.endStep_follows _
        · cases h
    · split at h
      · split at h
        · split at h
          · cases h
          · cases h; exact s.beginStep_follows _
        · cases h; exact s.applyForks_follows _
      · split at h
        · cases h; exact s.beginStep_follows _
        · split at h
          · cases h
          · cases h; exact s.endRound_follows _

theorem State.advanceRound_follows : ∀ (fuel : Nat) (s : State) (job : Nat), Follows s (State.advanceRound fuel s job)
  | 0, s, _ => Follows.refl s
  | fuel + 1, s, job => by
    unfold State.advanceRound
    split
    · exact Follows.refl s
    · split
      · rename_i h
        exact (s.roundAction_follows _ _ _ h).trans (State.advanceRound_follows fuel _ job)
      · exact Follows.refl s

theorem State.runJob_follows (s : State) (job : Nat) : Follows s (s.runJob job) := by
  unfold State.runJob
  split
  · exact Follows.refl s
  · exact State.advanceRound_follows _ s job

theorem State.runRounds_follows (s : State) : Follows s s.runRounds :=
  Follows.fold (fun a j => a.runJob_follows j) _ s

theorem State.offerEngines_follows (s : State) : Follows s s.offerEngines := by
  unfold State.offerEngines
  apply Follows.fold
  intro a n
  split
  · exact Follows.refl a
  · exact Follows.withDev a _

theorem State.offerSorters_follows (s : State) : Follows s s.offerSorters := by
  unfold State.offerSorters
  apply Follows.fold
  intro a n
  split
  · exact Follows.refl a
  · exact Follows.withDev a _

theorem State.releaseVotes_follows (s : State) : Follows s s.releaseVotes := by
  unfold State.releaseVotes
  apply Follows.fold
  intro a j
  split
  · exact Follows.refl a
  · split
    · exact Follows.refl a
    · apply Follows.fold
      intro b x
      extract_lets l
      clear_value l
      split
      · exact Follows.refl b
      · refine Follows.trans ?_ (State.settleInst_follows _ _ _ _)
        apply Follows.fold
        intro c v
        unfold State.releaseVote
        split <;> exact Follows.apply c _

theorem State.flare_follows (s : State) : Follows s s.flare := Follows.apply s _

theorem State.pump_follows (s : State) : Follows s s.pump := by
  unfold State.pump
  extract_lets s1 s2
  have h1 : Follows s s1 := (s.flare_follows.trans s.flare.releaseVotes_follows).trans (State.runRounds_follows _)
  have h2 : Follows s1 s2 := Follows.withDev s1 _
  clear_value s2
  exact (h1.trans h2).trans ((State.offerEngines_follows s2).trans (State.offerSorters_follows _))

/-- Lines met are read one by one (R289). -/
theorem State.meet_follows (l : List LineError) (s : State) : Follows s (s.meet l) :=
  Follows.fold (fun a _ => Follows.apply a _) l s

theorem State.meet_nil (s : State) : s.meet [] = s := rfl

theorem State.roundComplete_follows (s : State) (job : Nat) : Follows s (s.roundComplete job) :=
  ((Follows.apply s _).trans (State.pump_follows _)).trans (State.runJob_follows _ _)

/-! ### Units -/

theorem State.tileEnd_follows (s : State) (n : Nat) (h : Held) (obs : UnitObs) : Follows s (s.tileEnd n h obs) := by
  unfold State.tileEnd
  extract_lets upper w s1 d0
  have h1 : Follows s s1 := (Follows.withDev s _).trans (State.meet_follows _ _)
  clear_value s1
  refine h1.trans ?_
  split
  · exact Follows.withDev s1 _
  · split
    · exact Follows.withDev s1 _
    · split
      · exact Follows.withDev s1 _
      · extract_lets o v q probs d1 e left done
        split
        · exact Follows.apply s1 _
        · split <;> exact Follows.apply s1 _

theorem State.tileComplete_follows (s : State) (n : Nat) (obs : UnitObs) : Follows s (s.tileComplete n obs) := by
  unfold State.tileComplete
  split
  · exact Follows.apply s _
  · exact Follows.withDev s _
  · exact ((s.tileEnd_follows _ _ _).trans (State.settleInst_follows _ _ _ _)).trans (State.pump_follows _)

theorem State.sliceEnd_follows (s : State) (n : Nat) (h : Held) (obs : UnitObs) : Follows s (s.sliceEnd n h obs) := by
  unfold State.sliceEnd
  extract_lets w late s1 d0
  have h1 : Follows s s1 := (Follows.withDev s _).trans (State.meet_follows _ _)
  clear_value s1
  refine h1.trans ?_
  split
  · exact Follows.withDev s1 _
  · split
    · exact Follows.withDev s1 _
    · split
      · extract_lets o v q d1 d2 d3 e bytes done
        split
        · exact Follows.apply s1 _
        · split <;> exact Follows.apply s1 _
      · exact Follows.withDev s1 _

theorem State.countSteps_follows (s : State) (job op : Nat) : Follows s (s.countSteps job op) := by
  unfold State.countSteps
  split
  · exact Follows.refl s
  · split
    · exact Follows.refl s
    · split
      · exact Follows.refl s
      · exact Follows.withDev s _

theorem State.sliceComplete_follows (s : State) (n : Nat) (obs : UnitObs) : Follows s (s.sliceComplete n obs) := by
  unfold State.sliceComplete
  split
  · exact Follows.apply s _
  · exact Follows.withDev s _
  · exact (((s.sliceEnd_follows _ _ _).trans (State.countSteps_follows _ _ _)).trans
      (State.settleInst_follows _ _ _ _)).trans (State.pump_follows _)

theorem State.passEnd_follows (s : State) (g : Nat) : Follows s (s.passEnd g) := by
  unfold State.passEnd
  split
  · exact Follows.apply s _
  · extract_lets d0
    clear_value d0
    split
    · exact Follows.withDev s _
    · split
      · exact Follows.withDev s _
      · exact ((Follows.apply s _).trans (State.settleInst_follows _ _ _ _)).trans (State.pump_follows _)

theorem State.patternEnd_follows (s : State) (c : Nat) (pass : Bool) : Follows s (s.patternEnd c pass) := by
  unfold State.patternEnd
  split
  · exact Follows.apply s _
  · exact (Follows.apply s _).trans (State.pump_follows _)

theorem State.removalSwitch_follows (s : State) (r : Nat) : Follows s (s.removalSwitch r) := by
  unfold State.removalSwitch
  split <;> exact Follows.apply s _

/-! ### Commits and boundaries -/

theorem State.commitRound_follows (s : State) (job : Nat) : Follows s (s.commitRound job) := by
  unfold State.commitRound
  split
  · exact Follows.refl s
  · exact Follows.apply s _

theorem State.lateForks_follows (s : State) (job : Nat) : Follows s (s.lateForks job) := by
  unfold State.lateForks
  split
  · exact Follows.refl s
  · split
    · exact Follows.refl s
    · exact (Follows.withDev s _).trans (Follows.fold (fun a f => a.applyFork_follows job f) _ _)

theorem State.dropRound_follows (s : State) (job : Nat) (f : Code × Nat × List (PartId × Code)) :
    Follows s (s.dropRound job f) := Follows.apply s _

theorem State.captureOne_follows (s : State) (p : Nat) (w : Wait) : Follows s (s.captureOne p w) := by
  unfold State.captureOne
  split
  · split
    · exact Follows.withDev s _
    · dsimp only
      split
      · exact Follows.withDev s _
      · split <;> exact Follows.withDev s _
  · exact Follows.refl s

theorem State.captureSaves_follows (s : State) : Follows s s.captureSaves := by
  unfold State.captureSaves
  apply Follows.fold
  intro a x
  exact Follows.fold (fun b w => b.captureOne_follows x.1 w) _ a

theorem State.dropRounds_follows (l : List (Nat × Code × Nat × List (PartId × Code))) (s : State) :
    Follows s (l.foldl (fun acc x => acc.dropRound x.1 x.2) s) := by
  apply Follows.fold
  intro a x
  exact a.dropRound_follows x.1 x.2

theorem State.commitAll_follows (s : State) : Follows s s.commitAll := by
  unfold State.commitAll
  extract_lets done drop s1 s2 s3 s4 s5 e
  have h1 : Follows s s1 := Follows.withDev s _
  have h2 : Follows s1 s2 := Follows.fold (fun a j => (a.lateForks_follows j).trans (State.commitRound_follows _ j)) done s1
  have h3 : Follows s2 s3 := State.dropRounds_follows drop s2
  have h4 : Follows s3 s4 := Follows.apply s3 _
  have h5 : Follows s4 s5 := State.captureSaves_follows s4
  clear_value s1 s2 s3 s4 s5
  exact (((h1.trans h2).trans h3).trans h4).trans (h5.andApply _)

theorem State.commitFails_follows (s : State) : Follows s s.commitFails := Follows.withDev s _

theorem State.commitWindow_follows (s : State) (completes : Bool) : Follows s (s.commitWindow completes) := by
  unfold State.commitWindow
  split
  · exact Follows.apply s _
  · refine s.flare_follows.trans (Follows.trans ?_ (State.pump_follows _))
    split
    · exact (Follows.withDev s.flare _).trans (State.commitAll_follows _)
    · exact (Follows.withDev s.flare _).trans (State.commitFails_follows _)

theorem State.streamNow_follows (s : State) (p : Nat) (w : Wait) : Follows s (s.streamNow p w) := by
  unfold State.streamNow
  split
  · exact Follows.apply s _
  · exact Follows.apply s _
  · exact Follows.refl s

theorem State.streamsNow_follows (l : List (Nat × Wait)) (s : State) :
    Follows s (l.foldl (fun acc x => acc.streamNow x.1 x.2) s) := by
  apply Follows.fold
  intro a x
  exact a.streamNow_follows x.1 x.2

theorem State.streamsAtBoundary_follows (s : State) : Follows s s.streamsAtBoundary := by
  unfold State.streamsAtBoundary
  extract_lets s1 ws s2
  have h1 : Follows s s1 := Follows.apply s _
  have h2 : Follows s1 s2 := State.streamsNow_follows ws s1
  clear_value s2
  exact (h1.trans h2).andApply _

theorem State.boundary_follows (s : State) : Follows s s.boundary := by
  unfold State.boundary
  extract_lets d0 cap d1 auto missed clears exit s1 e parts all e1 quotas s2 s3 s4
  have h1 : Follows s s1 := Follows.apply s _
  have h2 : Follows s1 s2 := Follows.apply s1 _
  have h3 : Follows s2 s3 := State.streamsAtBoundary_follows s2
  have h4 : Follows s3 s4 := Follows.apply s3 _
  clear_value s4
  exact ((((h1.trans h2).trans h3).trans h4).andDev _).trans (State.pump_follows _)

theorem State.tickBoundary_follows (s : State) : Follows s s.tickBoundary := by
  unfold State.tickBoundary
  split
  · exact Follows.apply s _
  · split
    · exact (s.commitWindow_follows false).trans (State.boundary_follows _)
    · exact s.flare_follows.trans s.flare.boundary_follows

/-! ### Management -/

theorem State.request_follows (s : State) (type session : Nat) (m : Bytes)
    (f : State → Nat → LopHeader → Bytes → State)
    (h : ∀ (d : Dev) (c : Nat) (x : LopHeader) (b : Bytes), Follows s (f (s.withDev d) c x b)) :
    Follows s (s.request type session m f) := by
  unfold State.request
  dsimp only
  split
  · exact Follows.withDev s _
  · split
    · exact Follows.withDev s _
    · split
      · exact Follows.withDev s _
      · split
        · exact Follows.withDev s _
        · split
          · exact Follows.withDev s _
          · exact h _ _ _ _

theorem State.mgmtRead_follows (s : State) (session : Nat) (m : Bytes) : Follows s (s.mgmtRead session m) := by
  refine s.request_follows _ _ _ _ (fun d c x b => ?_)
  dsimp only
  split <;> exact (Follows.withDev s d).andDev _

theorem State.mgmtWrite_follows (s : State) (session : Nat) (m : Bytes) : Follows s (s.mgmtWrite session m) :=
  s.request_follows _ _ _ _ (fun d _ _ _ => ((Follows.withDev s d).trans (State.writeEntries_follows _ _ _)).andDev _)

theorem State.mgmtAction_follows (s : State) (want session : Nat) (m : Bytes) :
    Follows s (s.mgmtAction want session m) := by
  refine s.request_follows _ _ _ _ (fun d c x b => ?_)
  dsimp only
  split
  · exact Follows.withDev s _
  · split
    · exact (Follows.withDev s d).andDev _
    · split
      · exact (Follows.withDev s d).andDev _
      · split
        · exact (Follows.withDev s d).andDev _
        · exact (Follows.withDev s d).andApply _

theorem State.mgmtAck_follows (s : State) (session : Nat) (m : Bytes) : Follows s (s.mgmtAck session m) := by
  refine s.request_follows _ _ _ _ (fun d c x b => ?_)
  split
  · exact (Follows.withDev s d).andDev _
  · split <;> exact (Follows.withDev s d).andDev _

theorem State.credentialSet_follows (s : State) (session : Nat) (m : Bytes) : Follows s (s.credentialSet session m) := by
  refine s.request_follows _ _ _ _ (fun d c x b => ?_)
  dsimp only
  split
  · exact (Follows.withDev s d).andDev _
  · split <;> exact (Follows.withDev s d).andDev _

theorem State.mgmtKeepalive_follows (s : State) (session : Nat) (m : Bytes) : Follows s (s.mgmtKeepalive session m) :=
  s.request_follows _ _ _ _ (fun d _ _ _ => (Follows.withDev s d).andDev _)

theorem State.inspect_follows (s : State) (op session : Nat) (m : Bytes) : Follows s (s.inspect op session m) := by
  refine s.request_follows _ _ _ _ (fun d c x b => ?_)
  dsimp only
  split
  · exact Follows.withDev s _
  · split
    · exact (Follows.withDev s d).andDev _
    · split
      · exact (Follows.withDev s d).andDev _
      · split
        · exact (Follows.withDev s d).andDev _
        · split
          · exact Follows.withDev s _
          · exact (Follows.withDev s d).andDev _

theorem State.odWrite_follows (s : State) (p : Fin 16) (tag : Nat) : Follows s (s.odWrite p tag) := by
  unfold State.odWrite
  split
  · exact Follows.apply s _
  · split
    · exact Follows.apply s _
    · exact (State.writeEntries_follows _ _ s).andDev _

/-! ### Starts -/

theorem State.steady_pending {s t : State} (h : Follows s t) (g : Sys2Proof.Safety.Sound s) : t.steady :=
  State.sound_steady (h.sound g)

/-- Starts in a steady state, whatever causes it carries. -/
structure Grows (s t : State) : Prop where
  pending : t.pending = s.pending
  steady : s.steady → t.steady

theorem Grows.apply (s : State) (e : Eff) : Grows s (s.apply e) :=
  ⟨rfl, fun h => State.sound_steady (State.apply_sound s e h)⟩

theorem Grows.trans {a b c : State} (h : Grows a b) (g : Grows b c) : Grows a c :=
  ⟨g.pending.trans h.pending, fun x => g.steady (h.steady x)⟩

theorem State.writeAll_grows (who : Requester) (sys : Bool) : ∀ (l : List Entry) (s : State),
    Grows s (s.writeAll who sys l).1
  | [], _ => ⟨rfl, id⟩
  | _ :: ws, s => (Grows.apply s _).trans (State.writeAll_grows who sys ws _)

theorem State.applyConfig_grows (s : State) (ok : List Bool) : Grows s (s.applyConfig ok) := by
  unfold State.applyConfig
  split
  · exact Grows.apply s _
  · exact (State.writeAll_grows _ _ _ s).trans (Grows.apply _ _)

/-- The bytes a start shows keep the canonical form of memory. -/
theorem State.durableMem_wf (s : State) (h : s.mem.wf = true) : s.durableMem.wf = true :=
  MemOp.fold_wf _ s.mem h

theorem State.startMounted_grows (s : State) (cold : Bool) (since : Nat) (o : StartObs) :
    Grows s (s.startMounted cold since o) :=
  ⟨rfl, fun h => ⟨MemOp.run_wf _ _ (s.durableMem_wf h.1), rfl⟩⟩

theorem Grows.follows {s t : State} (h : Grows s t) (d : Dev) : Follows s (t.withDev d) :=
  ⟨h.pending, fun g => State.apply_sound t _ (h.steady (State.sound_steady g))⟩

theorem State.restart_follows (s : State) (cold : Bool) (since : Nat) (o : StartObs) :
    Follows s (s.restart cold since o) := by
  unfold State.restart
  dsimp only
  split
  · exact (s.startMounted_grows cold since o).follows _
  · exact ((s.startMounted_grows cold since o).trans (State.applyConfig_grows _ _)).follows _

theorem State.powerOff_follows (s : State) (hot : Bool) : Follows s (s.powerOff hot) :=
  ⟨rfl, fun h => ⟨MemOp.run_wf _ _ (s.durableMem_wf h.1), rfl, rfl⟩⟩

end Sys2Proof.Machine
end

