-- ==== Sys2Proof/Laws/Exec.lean ====
section
/-!
SUPPORT. Every command leads to a next state, leaves the queue and keeps a sound state sound.
-/

namespace Sys2Proof.Machine

/-- The state a command leads to. -/
def leads (o : Host.Outcome State Fault Refusal) (s : State) : Prop := ∃ t, o = .next t ∧ Follows s t

theorem leads_apply (s : State) (e : Eff) : leads (s.done e) s := ⟨_, rfl, Follows.apply s e⟩

/-- A command that first meets line errors. -/
theorem leads_met (s : State) (l : List LineError) {t : State} (h : Follows (s.meet l) t) : leads (.next t) s :=
  ⟨_, rfl, (State.meet_follows l s).trans h⟩

theorem execLockstepMismatch_leads (pair : ControlPair) (s : State) : leads (execLockstepMismatch pair s) s := by
  unfold execLockstepMismatch
  split
  · exact ⟨_, rfl, (Follows.withDev s _).andApply _⟩
  · exact leads_apply s _

theorem execChipPairRestartComplete_leads (m ok : Bool) (obs : StartObs) (s : State) :
    leads (execChipPairRestartComplete m ok obs s) s := by
  unfold execChipPairRestartComplete
  extract_lets c
  split
  · exact leads_apply s _
  · split
    · exact leads_apply s _
    · exact ⟨_, rfl, s.restart_follows _ _ _⟩

theorem execTemperatureReading_leads (sensor : Sensor) (centi : Int) (s : State) :
    leads (execTemperatureReading sensor centi s) s := by
  unfold execTemperatureReading
  dsimp only
  split
  · exact ⟨_, rfl, (Follows.withDev s _).trans (State.powerOff_follows _ _)⟩
  · exact ⟨_, rfl, Follows.withDev s _⟩

theorem execPowerOn_leads (obs : StartObs) (s : State) : leads (execPowerOn obs s) s := by
  unfold execPowerOn
  extract_lets s1 d
  have h1 : Follows s s1 := s.powerOff_follows _
  split
  · exact ⟨_, rfl, (h1.andDev _).trans (State.restart_follows _ _ _ _)⟩
  · exact leads_apply s _

theorem execResetN_leads (obs : StartObs) (s : State) : leads (execResetN obs s) s := by
  unfold execResetN
  extract_lets d cold
  split
  · exact leads_apply s _
  · exact ⟨_, rfl, (Follows.withDev s _).trans (State.restart_follows _ _ _ _)⟩

theorem execOrderlyWindowEnd_leads (obs : StartObs) (s : State) : leads (execOrderlyWindowEnd obs s) s := by
  unfold execOrderlyWindowEnd
  split
  · exact leads_apply s _
  · exact ⟨_, rfl, (Follows.withDev s _).trans (State.restart_follows _ _ _ _)⟩

theorem execWarmStartRetry_leads (obs : StartObs) (s : State) : leads (execWarmStartRetry obs s) s := by
  unfold execWarmStartRetry
  dsimp only
  split
  · split
    · exact ⟨_, rfl, (Follows.withDev s _).trans (State.restart_follows _ _ _ _)⟩
    · exact ⟨_, rfl, ((Follows.withDev s _).trans (State.restart_follows _ _ _ _)).andDev _⟩
  · exact leads_apply s _

theorem execStartReady_leads (s : State) : leads (execStartReady s) s := by
  unfold execStartReady
  extract_lets d
  split
  · split
    · exact leads_apply s _
    · exact leads_apply s _
  · exact leads_apply s _

theorem execInputResetRange_leads (s : State) : leads (execInputResetRange s) s := by
  unfold execInputResetRange
  split
  · exact ⟨_, rfl, (s.powerOff_follows _).andDev _⟩
  · exact leads_apply s _

/-- Every command leads to a next state. -/
theorem exec_leads (c : Instr) (s : State) : leads (exec c s) s := by
  cases c with
  | nop => exact leads_apply s _
  | loadImageBegin => exact leads_apply s _
  | loadImageTable => exact leads_apply s _
  | loadImageData => exact leads_apply s _
  | loadImageEnd => exact leads_apply s _
  | unload => exact leads_apply s _
  | bind => exact leads_apply s _
  | submit => exact leads_apply s _
  | input => exact leads_apply s _
  | storeCreate => exact leads_apply s _
  | storeWrite => exact leads_apply s _
  | fetch => exact leads_met s _ (Follows.apply _ _)
  | fetchCopy => exact leads_apply s _
  | fork => exact leads_apply s _
  | streamOpen => exact leads_apply s _
  | streamChunk => exact leads_apply s _
  | streamChunkPause => exact leads_apply s _
  | streamChunkResume => exact leads_apply s _
  | streamSave => exact leads_apply s _
  | streamSaveDetach => exact leads_apply s _
  | streamSaveComplete => exact leads_apply s _
  | streamRestore => exact leads_apply s _
  | streamEnd => exact leads_apply s _
  | streamEndImmediate => exact leads_apply s _
  | fence => exact leads_apply s _
  | fenceEndJob => exact leads_apply s _
  | fenceComplete => exact leads_apply s _
  | fieldTest => exact leads_apply s _
  | odRead => exact leads_apply s _
  | odWrite => exact ⟨_, rfl, s.odWrite_follows _ _⟩
  | packetFetch => exact leads_apply s _
  | responseWrite => exact leads_apply s _
  | cmdTailDb => exact leads_apply s _
  | urgTailDb => exact leads_apply s _
  | rspHeadDb => exact leads_apply s _
  | ntcHeadDb => exact leads_apply s _
  | ringEnable => exact leads_apply s _
  | ringDisable => exact leads_apply s _
  | release => exact leads_apply s _
  | registerWrite => exact leads_apply s _
  | quiesce => exact leads_apply s _
  | abortJob => exact leads_apply s _
  | dropQueue => exact leads_apply s _
  | functionLevelReset => exact leads_apply s _
  | linkDown => exact leads_apply s _
  | linkTraining => exact leads_apply s _
  | perst => exact leads_apply s _
  | vfEnable => exact leads_apply s _
  | busMasterEnable => exact leads_apply s _
  | configSpaceWrite => exact leads_apply s _
  | ideCheckFail => exact leads_apply s _
  | keyProg => exact leads_apply s _
  | keySetGo => exact leads_apply s _
  | getTdispVersion => exact leads_apply s _
  | getTdispCapabilities => exact leads_apply s _
  | lockInterface => exact leads_apply s _
  | getDeviceInterfaceReport => exact leads_apply s _
  | getDeviceInterfaceState => exact leads_apply s _
  | startInterface => exact leads_apply s _
  | stopInterface => exact leads_apply s _
  | getCertificate => exact leads_apply s _
  | challenge => exact leads_apply s _
  | getMeasurements => exact leads_apply s _
  | keyExchange => exact leads_apply s _
  | tickBoundary => exact ⟨_, rfl, s.tickBoundary_follows⟩
  | commitWindow => exact ⟨_, rfl, s.commitWindow_follows _⟩
  | tickLoss => exact leads_apply s _
  | roundComplete => exact leads_met s _ (State.roundComplete_follows _ _)
  | tileClaim => exact leads_apply s _
  | tileComplete => exact ⟨_, rfl, s.tileComplete_follows _ _⟩
  | cirrusOperationComplete => exact ⟨_, rfl, s.sliceComplete_follows _ _⟩
  | guaranteedWindowStart => exact ⟨_, rfl, (Follows.withDev s _).trans (State.offerEngines_follows _)⟩
  | cellFault => exact leads_apply s _
  | engineFault => exact leads_apply s _
  | sorterDisagreement => exact leads_apply s _
  | roLineRepair => exact ⟨_, rfl, (Follows.apply s _).trans (State.pump_follows _)⟩
  | wcbAgeFlush => exact leads_met s _ (Follows.apply _ _)
  | patrolScrub => exact leads_apply s _
  | regulatorRefill => exact leads_apply s _
  | shareWindowStart => exact leads_apply s _
  | laneFailure => exact leads_apply s _
  | retrainingComplete => exact leads_apply s _
  | regionLoss => exact leads_apply s _
  | fabricLinkFailure => exact leads_apply s _
  | lockstepMismatch => exact execLockstepMismatch_leads _ s
  | pairTakeoverComplete => exact leads_apply s _
  | chipPairRestartComplete => exact execChipPairRestartComplete_leads _ _ _ s
  | clockLoss => exact leads_apply s _
  | clockRelockTimeout => exact leads_apply s _
  | supplyOutOfRange => exact leads_apply s _
  | temperatureReading => exact execTemperatureReading_leads _ _ s
  | throttleRelease => exact leads_apply s _
  | causeClear => exact leads_apply s _
  | safeStateIn => exact leads_apply s _
  | faultNDriverTest => exact leads_apply s _
  | faultLineMismatch => exact leads_apply s _
  | idlePattern => exact leads_apply s _
  | patternComplete => exact ⟨_, rfl, s.patternEnd_follows _ _⟩
  | fieldTestStart => exact leads_apply s _
  | fieldTestComplete => exact leads_apply s _
  | plannedRemovalSwitch => exact ⟨_, rfl, s.removalSwitch_follows _⟩
  | placementComplete => exact leads_apply s _
  | stratusReadComplete => exact ⟨_, rfl, (Follows.apply s _).trans (State.pump_follows _)⟩
  | stratusWriteDurable => exact leads_apply s _
  | spillComplete => exact leads_met s _ (Follows.apply _ _)
  | evictionComplete => exact leads_met s _ (Follows.apply _ _)
  | recallComplete => exact leads_apply s _
  | garbageCollection => exact leads_apply s _
  | readDisturbRefresh => exact leads_apply s _
  | retentionRefresh => exact leads_apply s _
  | staticWearLevelling => exact leads_apply s _
  | badBlockRetirement => exact leads_apply s _
  | dieFailure => exact leads_apply s _
  | stratusCheckpoint => exact leads_apply s _
  | stratusMount => exact leads_apply s _
  | timingEdge => exact leads_apply s _
  | sourceLostTimeout => exact leads_apply s _
  | announceReceiptTimeout => exact leads_apply s _
  | ptpAnnounce => exact leads_apply s _
  | ptpSync => exact leads_apply s _
  | pdelayReq => exact leads_apply s _
  | holdoverExpired => exact leads_apply s _
  | taiSecondWrite => exact ⟨_, rfl, s.writeRow_follows _ _⟩
  | dtlsHandshake => exact leads_apply s _
  | sessionIdleTimeout => exact leads_apply s _
  | mgmtOdRead => exact ⟨_, rfl, s.mgmtRead_follows _ _⟩
  | mgmtOdWrite => exact ⟨_, rfl, s.mgmtWrite_follows _ _⟩
  | mgmtQuiesce => exact ⟨_, rfl, s.mgmtAction_follows _ _ _⟩
  | mgmtAbortJob => exact ⟨_, rfl, s.mgmtAction_follows _ _ _⟩
  | mgmtDropQueue => exact ⟨_, rfl, s.mgmtAction_follows _ _ _⟩
  | mgmtRelease => exact ⟨_, rfl, s.mgmtAction_follows _ _ _⟩
  | noticeAck => exact ⟨_, rfl, s.mgmtAck_follows _ _⟩
  | credentialSet => exact ⟨_, rfl, s.credentialSet_follows _ _⟩
  | inspectPageFrame => exact ⟨_, rfl, s.inspect_follows _ _ _⟩
  | inspectPageList => exact ⟨_, rfl, s.inspect_follows _ _ _⟩
  | inspectStreamEntry => exact ⟨_, rfl, s.inspect_follows _ _ _⟩
  | inspectStateDesc => exact ⟨_, rfl, s.inspect_follows _ _ _⟩
  | inspectLines => exact ⟨_, rfl, s.inspect_follows _ _ _⟩
  | inspectObject => exact ⟨_, rfl, s.inspect_follows _ _ _⟩
  | inspectHeaders => exact ⟨_, rfl, s.inspect_follows _ _ _⟩
  | keepalive => exact ⟨_, rfl, s.mgmtKeepalive_follows _ _⟩
  | icmpv6Echo => exact leads_apply s _
  | neighbourDiscovery => exact leads_apply s _
  | prpSupervision => exact leads_apply s _
  | lanLost => exact leads_apply s _
  | lanRestored => exact leads_apply s _
  | noticeDelivery => exact leads_apply s _
  | noticeResend => exact leads_apply s _
  | objectWrite => exact ⟨_, rfl, s.writeRow_follows _ _⟩
  | readAndClear => exact leads_apply s _
  | watermarkSlotWrite => exact ⟨_, rfl, s.writeRow_follows _ _⟩
  | partitionCreate => exact ⟨_, rfl, s.writeRow_follows _ _⟩
  | partitionDelete => exact ⟨_, rfl, s.writeRow_follows _ _⟩
  | configStore => exact ⟨_, rfl, s.writeRow_follows _ _⟩
  | configStoreDurable => exact leads_apply s _
  | defaults => exact ⟨_, rfl, s.writeRow_follows _ _⟩
  | rebase => exact ⟨_, rfl, s.writeRow_follows _ _⟩
  | resetWarm => exact ⟨_, rfl, s.writeRow_follows _ _⟩
  | resetCold => exact ⟨_, rfl, s.writeRow_follows _ _⟩
  | orderlyWindowEnd => exact execOrderlyWindowEnd_leads _ s
  | firmwareChunk => exact ⟨_, rfl, s.writeRow_follows _ _⟩
  | firmwareBegin => exact ⟨_, rfl, s.writeRow_follows _ _⟩
  | firmwareCommit => exact ⟨_, rfl, s.writeRow_follows _ _⟩
  | firmwareCancel => exact ⟨_, rfl, s.writeRow_follows _ _⟩
  | leaveSafeState => exact ⟨_, rfl, s.writeRow_follows _ _⟩
  | safetyLockOpen => exact ⟨_, rfl, s.writeRow_follows _ _⟩
  | safetyLockExpire => exact leads_apply s _
  | fieldTestMgmt => exact ⟨_, rfl, s.writeRow_follows _ _⟩
  | plannedFence => exact ⟨_, rfl, s.writeRow_follows _ _⟩
  | replanNow => exact ⟨_, rfl, s.writeRow_follows _ _⟩
  | alarmAcknowledge => exact ⟨_, rfl, (Follows.withDev s _).trans (State.writeRow_follows _ _ _)⟩
  | powerCapWrite => exact ⟨_, rfl, s.writeRow_follows _ _⟩
  | skyPinFunctionWrite => exact ⟨_, rfl, s.writeRow_follows _ _⟩
  | skyPinTake => exact leads_apply s _
  | replicaRead => exact leads_apply s _
  | ringOscillatorRead => exact leads_apply s _
  | retentionRead => exact leads_apply s _
  | eyeRead => exact leads_apply s _
  | replanInterval => exact leads_apply s _
  | replanDecision => exact leads_apply s _
  | feedChange => exact leads_apply s _
  | inputResetRange => exact execInputResetRange_leads s
  | powerOn => exact execPowerOn_leads _ s
  | resetN => exact execResetN_leads _ s
  | startStepTimeout => exact leads_apply s _
  | warmStartRetry => exact execWarmStartRetry_leads _ s
  | startReady => exact execStartReady_leads s
  | tamper => exact leads_apply s _
  | lowCell => exact leads_apply s _
  | backupTemperature => exact leads_apply s _
  | cellFailure => exact leads_apply s _
  | smbusPartNumber => exact leads_apply s _
  | smbusSerialNumber => exact leads_apply s _
  | smbusStartState => exact leads_apply s _
  | smbusFailedStep => exact leads_apply s _
  | smbusInputPower => exact leads_apply s _
  | smbusCoolantInlet => exact leads_apply s _
  | smbusAlarmCauses => exact leads_apply s _
  | smbusEnrol => exact leads_apply s _
  | smbusEnrolResult => exact leads_apply s _
  | dieRebuildComplete => exact leads_apply s _
  | rspHoldoffExpiry => exact leads_apply s _
  | taiSecondPulse => exact leads_apply s _
  | zenithPassComplete => exact leads_met s _ (State.passEnd_follows _ _)
  | replanAfterStart => exact leads_apply s _

theorem State.idle_follows (s : State) : Follows s s.idle := Follows.apply s _

end Sys2Proof.Machine
end

