-- ==== Sys2Proof/Laws/Frame.lean ====
section
/-!
SUPPORT. What ending work leaves of every partition: all but its packets, waits, responses, chunks, records of posted
failures, notices, shares, QUIESCE, the heads of its command rings and those written back.
-/

namespace Sys2Proof.Machine

/-- A partition without what ending work changes. -/
def Part.core (x : Part) : Part :=
  { x with
    inbox := [], waits := [], outbox := [], flights := [], chunks := [], postFails := [], poisonedNames := []
    pending := [], shareUse := [], quiesced := false, normal := {}, urgent := {}, expectSeq := [], headsWritten := [] }

/-- Every partition keeps its core. -/
def Dev.CoreKept (d d' : Dev) : Prop := ∀ q, (d'.part q).core = (d.part q).core

theorem Dev.CoreKept.refl (d : Dev) : d.CoreKept d := fun _ => rfl

theorem Dev.CoreKept.trans {a b c : Dev} (h : a.CoreKept b) (g : b.CoreKept c) : a.CoreKept c :=
  fun q => (g q).trans (h q)

theorem Dev.CoreKept.parts {d d' : Dev} (h : d'.parts = d.parts) : d.CoreKept d' := fun q => by
  simp [Dev.part, h]

theorem Dev.CoreKept.setPart {d : Dev} {p : Nat} {x : Part} (h : x.core = (d.part p).core) : d.CoreKept (d.setPart p x) := by
  intro q
  rw [Dev.part_setPart]
  split
  · rename_i hq; rw [h, hq]
  · rfl

theorem Dev.CoreKept.fold {α : Type} {f : Dev → α → Dev} (h : ∀ (d : Dev) x, d.CoreKept (f d x)) :
    ∀ (l : List α) (d : Dev), d.CoreKept (l.foldl f d)
  | [], d => Dev.CoreKept.refl d
  | x :: xs, d => (h d x).trans (Dev.CoreKept.fold h xs (f d x))

theorem Dev.noticePart_core (d : Dev) (p : Nat) (n : Notice) : d.CoreKept (d.noticePart p n) :=
  Dev.CoreKept.setPart rfl

theorem Dev.noticeMgmt_core (d : Dev) (n : Notice) : d.CoreKept (d.noticeMgmt n) := by
  unfold Dev.noticeMgmt
  refine Dev.CoreKept.fold (fun d x => ?_) _ d
  exact Dev.CoreKept.parts rfl

theorem Dev.notify_core (d : Dev) (part : Option Nat) (rings : List Nat) (b : NoticeBody) :
    d.CoreKept (d.notify part rings b) := by
  unfold Dev.notify
  refine Dev.CoreKept.trans (Dev.CoreKept.fold (fun d x => ?_) _ d) (Dev.noticeMgmt_core _ _)
  exact d.noticePart_core x _

theorem Dev.failPosted_core (d : Dev) (p : Nat) (k : Packet) (c : Code) : d.CoreKept (d.failPosted p k c) := by
  unfold Dev.failPosted
  refine (d.notify_core (some p) [p] (.postedFail k.seq k.opcode c.toNat k.urgent)).trans ?_
  generalize d.notify (some p) [p] (.postedFail k.seq k.opcode c.toNat k.urgent) = d1
  dsimp only
  split
  · refine Dev.CoreKept.trans ?_ (Dev.CoreKept.parts rfl)
    exact Dev.CoreKept.setPart rfl
  · exact Dev.CoreKept.setPart rfl

theorem Dev.modPart_core (d : Dev) (p : Nat) (f : Part → Part) (h : ∀ x, (f x).core = x.core) : d.CoreKept (d.modPart p f) :=
  Dev.CoreKept.setPart (h _)

theorem Dev.complete_core (d : Dev) (p : Nat) (k : Packet) (c : Code) (info : Nat) (bs : Bytes) :
    d.CoreKept (d.complete p k c info bs) := by
  unfold Dev.complete
  have h1 : d.CoreKept ((d.dropPacket p k.tag).dropWait p k.tag) := by
    refine Dev.CoreKept.trans (b := d.dropPacket p k.tag) ?_ ?_
    · exact Dev.modPart_core _ _ _ (fun _ => rfl)
    · exact Dev.modPart_core _ _ _ (fun _ => rfl)
  refine h1.trans ?_
  generalize (d.dropPacket p k.tag).dropWait p k.tag = d1
  dsimp only
  split
  · refine Dev.CoreKept.trans ?_ (Dev.modPart_core _ _ _ (fun _ => rfl))
    split
    · exact Dev.CoreKept.refl _
    · exact d1.failPosted_core _ _ _
  · refine Dev.CoreKept.trans (Dev.CoreKept.fold (fun d x => ?_) _ d1) (Dev.modPart_core _ _ _ (fun _ => rfl))
    exact Dev.modPart_core _ _ _ (fun _ => rfl)

theorem Dev.completeTag_core (d : Dev) (p tag : Nat) (c : Code) (info : Nat) (bs : Bytes) :
    d.CoreKept (d.completeTag p tag c info bs) := by
  unfold Dev.completeTag
  split
  · exact d.complete_core _ _ _ _ _
  · split
    · exact d.complete_core _ _ _ _ _
    · exact Dev.CoreKept.refl _

theorem Dev.completeTags_core {α : Type} (f : α → Nat) (p : Nat) (c : α → Code) (i : α → Nat) (l : List α) (d : Dev) :
    d.CoreKept (l.foldl (fun acc k => acc.completeTag p (f k) (c k) (i k)) d) :=
  Dev.CoreKept.fold (fun d _ => d.completeTag_core _ _ _ _ _) l d

theorem Dev.endChunks_core (d : Dev) (p : Nat) (w : Chunk → Bool) (c : Code) : d.CoreKept (d.endChunks p w c) := by
  unfold Dev.endChunks
  refine Dev.CoreKept.trans ?_ (Dev.completeTags_core _ _ _ _ _ _)
  exact Dev.modPart_core _ _ _ (fun _ => rfl)

theorem Dev.modJob_core (d : Dev) (j : Nat) (f : Job → Job) : d.CoreKept (d.modJob j f) := by
  unfold Dev.modJob
  split <;> exact Dev.CoreKept.parts rfl

theorem Dev.credit_core (d : Dev) (j : Job) (k n : Nat) : d.CoreKept (d.credit j k n) := by
  refine Dev.CoreKept.trans ?_ (Dev.modJob_core _ _ _)
  exact Dev.modPart_core _ _ _ (fun _ => rfl)

theorem Dev.cellBusy_core (d : Dev) (j : Job) (r : Role) (n : Nat) : d.CoreKept (d.cellBusy j r n) := by
  unfold Dev.cellBusy
  split
  · refine Dev.CoreKept.trans ?_ (Dev.modJob_core _ _ _)
    exact Dev.CoreKept.parts rfl
  · refine Dev.CoreKept.trans ?_ (Dev.modJob_core _ _ _)
    exact Dev.CoreKept.parts rfl

theorem Dev.engineBusy_core (d : Dev) (j : Job) (r : Role) (n : Nat) : d.CoreKept (d.engineBusy j r n) := by
  unfold Dev.engineBusy
  split
  · refine Dev.CoreKept.trans ?_ (Dev.modJob_core _ _ _)
    exact Dev.CoreKept.parts rfl
  · refine Dev.CoreKept.trans ?_ (Dev.modJob_core _ _ _)
    exact Dev.CoreKept.parts rfl

theorem Dev.stopCell_core (d : Dev) (n : Nat) : d.CoreKept (d.stopCell n) := by
  unfold Dev.stopCell
  split
  · exact Dev.CoreKept.refl d
  · dsimp only
    have h1 : d.CoreKept (d.modCell n (fun c => { c with held := none, ahead := none, parts := {} })) := Dev.CoreKept.parts rfl
    refine h1.trans ?_
    split
    · exact Dev.CoreKept.refl _
    · split
      · exact (Dev.cellBusy_core _ _ _ _).trans (Dev.credit_core _ _ _ _)
      · exact Dev.cellBusy_core _ _ _ _

theorem Dev.stopEngine_core (d : Dev) (n : Nat) : d.CoreKept (d.stopEngine n) := by
  unfold Dev.stopEngine
  split
  · exact Dev.CoreKept.refl d
  · dsimp only
    have h1 : d.CoreKept (d.modEngine n (fun c => { c with held := none, parts := {} })) := Dev.CoreKept.parts rfl
    refine h1.trans ?_
    split
    · exact Dev.CoreKept.refl _
    · split
      · exact (Dev.engineBusy_core _ _ _ _).trans (Dev.credit_core _ _ _ _)
      · exact Dev.engineBusy_core _ _ _ _

theorem Dev.stopJob_core (d : Dev) (j : Nat) : d.CoreKept (d.stopJob j) := by
  unfold Dev.stopJob
  exact ((Dev.CoreKept.fold Dev.stopCell_core _ d).trans (Dev.CoreKept.fold Dev.stopEngine_core _ _)).trans
    (Dev.CoreKept.parts rfl)

theorem Dev.emit_core (d : Dev) (p : Nat) (r : Response) : d.CoreKept (d.emit p r) :=
  Dev.modPart_core _ _ _ (fun _ => rfl)

theorem Dev.emits_core (p : Nat) : ∀ (l : List Response) (d : Dev), d.CoreKept (l.foldl (fun acc x => acc.emit p x) d)
  | [], d => Dev.CoreKept.refl d
  | x :: xs, d => (d.emit_core p x).trans (Dev.emits_core p xs (d.emit p x))

theorem Dev.roundResponse_core (d : Dev) (j : Job) (c : Code) (i : Nat) (e : Bool) (n : Nat) (st : List (PartId × Code)) :
    d.CoreKept (d.roundResponse j c i e n st) := by
  unfold Dev.roundResponse
  exact Dev.emits_core _ _ _

theorem Dev.endCommands_core (d : Dev) (j : Job) (r : Round) (c : Code) (st : List (PartId × Code)) :
    d.CoreKept (d.endCommands j r c st) := by
  unfold Dev.endCommands
  exact (Dev.completeTags_core _ _ _ _ _ d).trans (Dev.completeTags_core _ _ _ _ _ _)

theorem Dev.endRoundChunks_core (d : Dev) (p : Nat) (r : Round) (c : Code) (st : List (PartId × Code)) :
    d.CoreKept (d.endRoundChunks p r c st) := by
  unfold Dev.endRoundChunks
  refine Dev.CoreKept.fold (fun d k => ?_) _ d
  dsimp only
  split
  · split
    · exact d.endChunks_core _ _ _
    · exact d.completeTag_core _ _ _ _ _
  · split
    · exact (d.endChunks_core _ _ _).trans (Dev.CoreKept.parts rfl)
    · exact (d.completeTag_core _ _ _ _ _).trans (Dev.CoreKept.parts rfl)

theorem Dev.countQueue_core (d : Dev) (n : Nat) : d.CoreKept (d.countQueue n) := by
  unfold Dev.countQueue
  split <;> exact Dev.CoreKept.parts rfl

theorem Part.writeHead_core (x : Part) (u : Bool) : (x.writeHead u).core = x.core := by
  unfold Part.writeHead
  extract_lets r
  split <;> split <;> rfl

theorem Part.skipRings_core (x : Part) : x.skipRings.core = x.core := by
  unfold Part.skipRings
  dsimp only
  split
  · exact Part.writeHead_core _ _
  · split
    · exact Part.writeHead_core _ _
    · rfl

theorem Dev.dropQueue_core (d : Dev) (p : Nat) : d.CoreKept (d.dropQueue p) := by
  unfold Dev.dropQueue
  extract_lets tags d1 d2 d3
  have h1 : d.CoreKept d1 := Dev.completeTags_core _ _ _ _ _ d
  have h2 : d1.CoreKept d2 := d1.endChunks_core _ _ _
  have h3 : d2.CoreKept d3 := Dev.CoreKept.fold (fun a n => a.countQueue_core n) _ d2
  clear_value d3
  exact ((h1.trans h2).trans h3).trans (Dev.modPart_core _ _ _ (fun x => x.skipRings_core))

/-! ### Effects -/

/-- An effect whose partitions keep their cores. -/
def Eff.CoreKept (e e' : Eff) : Prop := e.dev.CoreKept e'.dev

theorem Eff.CoreKept.refl (e : Eff) : e.CoreKept e := Dev.CoreKept.refl _

theorem Eff.CoreKept.trans {a b c : Eff} (h : a.CoreKept b) (g : b.CoreKept c) : a.CoreKept c := Dev.CoreKept.trans h g

theorem Eff.CoreKept.fold {α : Type} {f : Eff → α → Eff} (h : ∀ (e : Eff) x, e.CoreKept (f e x)) :
    ∀ (l : List α) (e : Eff), e.CoreKept (l.foldl f e)
  | [], e => Eff.CoreKept.refl e
  | x :: xs, e => (h e x).trans (Eff.CoreKept.fold h xs (f e x))

theorem Eff.CoreKept.parts {e e' : Eff} (h : e'.dev.parts = e.dev.parts) : e.CoreKept e' := Dev.CoreKept.parts h

theorem Eff.CoreKept.andMod {e a : Eff} (g : e.CoreKept a) {f : Dev → Dev} (h : a.dev.CoreKept (f a.dev)) :
    e.CoreKept (a.mod f) := Dev.CoreKept.trans g h

theorem Eff.freePage_core (e : Eff) (n : Nat) : e.CoreKept (e.freePage n) := by
  unfold Eff.freePage
  dsimp only
  split <;> exact Eff.CoreKept.parts rfl

theorem Eff.dropPage_core (e : Eff) (n : Nat) : e.CoreKept (e.dropPage n) := by
  unfold Eff.dropPage
  dsimp only
  split
  · exact e.freePage_core n
  · exact Eff.CoreKept.parts rfl

theorem Eff.freeObj_core (e : Eff) (n : Nat) : e.CoreKept (e.freeObj n) := by
  unfold Eff.freeObj
  dsimp only
  split <;> exact Eff.CoreKept.parts rfl

theorem Eff.dropObj_core (e : Eff) (n : Nat) : e.CoreKept (e.dropObj n) := by
  unfold Eff.dropObj
  dsimp only
  split
  · exact e.freeObj_core n
  · exact Eff.CoreKept.parts rfl

theorem Eff.freeDir_core (e : Eff) (n : Nat) : e.CoreKept (e.freeDir n) := by
  unfold Eff.freeDir
  dsimp only
  split <;> exact Eff.CoreKept.parts rfl

theorem Eff.stopRecall_core (e : Eff) (n : Nat) : e.CoreKept (e.stopRecall n) := by
  unfold Eff.stopRecall
  refine Eff.CoreKept.fold (fun e t => ?_) _ e
  split
  · exact Eff.CoreKept.refl _
  · split
    · exact Eff.CoreKept.refl _
    · refine Eff.CoreKept.andMod (Eff.CoreKept.fold (fun e x => ?_) _ e) ?_
      · exact Eff.CoreKept.parts rfl
      · refine Dev.CoreKept.trans (Dev.CoreKept.fold (fun d x => ?_) _ _) (Dev.CoreKept.parts rfl)
        exact Dev.CoreKept.parts rfl
  · exact Eff.CoreKept.refl _

theorem Eff.freeStream_core (e : Eff) (n : Nat) : e.CoreKept (e.freeStream n) := by
  unfold Eff.freeStream
  dsimp only
  refine (e.stopRecall_core n).trans ?_
  split
  · exact Eff.CoreKept.refl _
  · refine Eff.CoreKept.trans ?_ ((Dev.CoreKept.parts rfl).trans (Dev.modJob_core _ _ _))
    have h := Eff.CoreKept.fold Eff.dropObj_core ((e.stopRecall n).dev.directory ‹_›) (e.stopRecall n)
    split
    · exact h.trans (Eff.freeDir_core _ _)
    · exact h

theorem Eff.discard_core (e : Eff) (r : Round) : e.CoreKept (e.discard r) :=
  ((Eff.CoreKept.fold Eff.freePage_core _ e).trans (Eff.CoreKept.fold Eff.freeObj_core _ _)).trans
    (Eff.CoreKept.fold Eff.freeDir_core _ _)

theorem Eff.failRound_core (e : Eff) (j : Nat) (c : Code) (m : Nat) (st : List (PartId × Code)) :
    e.CoreKept (e.failRound j c m st) := by
  unfold Eff.failRound
  split
  · exact Eff.CoreKept.refl _
  · split
    · exact Eff.CoreKept.refl _
    · dsimp only
      refine Eff.CoreKept.trans (b := (e.mod (fun d => (d.modJob j (fun y => y.sweep d.now)).stopJob j)).discard ‹Round›)
        (Eff.CoreKept.trans (b := e.mod (fun d => (d.modJob j (fun y => y.sweep d.now)).stopJob j))
          ((Dev.modJob_core _ _ _).trans (Dev.stopJob_core _ _)) (Eff.discard_core _ _)) ?_
      exact (((Dev.modJob_core _ _ _).trans (Dev.endCommands_core _ _ _ _ _)).trans
        (Dev.endRoundChunks_core _ _ _ _ _)).trans (Dev.roundResponse_core _ _ _ _ _ _ _)

theorem Eff.freeHomes_core (e : Eff) (j : Job) : e.CoreKept (e.freeHomes j) := by
  unfold Eff.freeHomes
  dsimp only
  refine Eff.CoreKept.trans ?_ (Eff.CoreKept.fold (fun e x => ?_) _ _)
  · have h : ∀ f : Eff → Option TensorHome → Eff, (∀ (e : Eff) x, e.CoreKept (f e x)) → e.CoreKept (j.homes.foldl f e) :=
      fun f hf => Eff.CoreKept.fold hf _ e
    split
    · refine Eff.CoreKept.trans (h _ (fun e x => ?_)) (Eff.CoreKept.parts rfl)
      split
      · exact Eff.CoreKept.refl _
      · split
        · exact Eff.CoreKept.refl _
        · split <;> exact Eff.CoreKept.parts rfl
    · refine h _ (fun e x => ?_)
      split
      · exact Eff.CoreKept.refl _
      · split
        · exact Eff.CoreKept.refl _
        · split <;> exact Eff.CoreKept.parts rfl
  · split <;> exact Eff.CoreKept.parts rfl

theorem Eff.freeFutures_core (e : Eff) (j : Job) : e.CoreKept (e.freeFutures j) := by
  unfold Eff.freeFutures
  dsimp only
  refine Eff.CoreKept.trans (Eff.CoreKept.fold (fun e f => ?_) _ e) (Eff.CoreKept.fold Eff.freeStream_core _ _)
  exact Eff.CoreKept.fold (fun e l => Eff.CoreKept.fold Eff.dropPage_core _ e) _ e

theorem Eff.endJob_core (e : Eff) (j : Nat) (c rc : Code) : e.CoreKept (e.endJob j c rc) := by
  unfold Eff.endJob
  split
  · exact Eff.CoreKept.refl _
  · split
    · exact Eff.CoreKept.refl _
    · dsimp only
      refine (e.failRound_core j rc 0 []).trans ?_
      generalize e.failRound j rc 0 [] = e1
      split
      · exact Eff.CoreKept.refl _
      · rename_i x _
        have hd0 : e1.dev.CoreKept (x.backlog.foldl (fun acc f => acc.completeTag x.part f.tag
            (if c = Code.aborted then Code.aborted else .rejectedFormat)) e1.dev) := Dev.completeTags_core _ _ _ _ _ _
        generalize (x.backlog.foldl (fun acc f => acc.completeTag x.part f.tag
            (if c = Code.aborted then Code.aborted else .rejectedFormat)) e1.dev) = d0 at *
        have hd1 : e1.dev.CoreKept (match x.pendingProg with
            | some y => d0.completeTag x.part y.2 (if c = Code.aborted then Code.aborted else .rejectedFormat)
            | none => d0) := by
          refine hd0.trans ?_
          split
          · exact Dev.completeTag_core _ _ _ _ _ _
          · exact Dev.CoreKept.refl _
        have key : ∀ d2 d4 : Dev, e1.dev.CoreKept d2 → d2.CoreKept d4 → e1.CoreKept ((({ e1 with dev := d4 } : Eff).freeFutures x).freeHomes x) := by
          intro d2 d4 h2 h4
          refine Eff.CoreKept.trans (b := ({ e1 with dev := d4 } : Eff)) (h2.trans h4) ?_
          exact (Eff.freeFutures_core _ x).trans (Eff.freeHomes_core _ x)
        split
        · refine Eff.CoreKept.andMod (Eff.CoreKept.andMod (Eff.CoreKept.andMod (key _ _ hd1 ?_) (Dev.stopJob_core _ _))
            (Dev.modJob_core _ _ _)) (Dev.roundResponse_core _ _ _ _ _ _ _)
          refine Dev.CoreKept.trans ?_ (Dev.completeTags_core (fun t => t) _ (fun _ => .aborted) (fun _ => 0) _ _)
          refine Dev.CoreKept.trans ?_ (Dev.endChunks_core _ _ _ _)
          exact Dev.completeTags_core _ _ _ _ _ _
        · refine Eff.CoreKept.andMod (Eff.CoreKept.andMod (key _ _ hd1 ?_) (Dev.stopJob_core _ _))
            (Dev.modJob_core _ _ _)
          refine Dev.CoreKept.trans ?_ (Dev.completeTags_core (fun t => t) _ (fun _ => .aborted) (fun _ => 0) _ _)
          refine Dev.CoreKept.trans ?_ (Dev.endChunks_core _ _ _ _)
          exact Dev.completeTags_core _ _ _ _ _ _

theorem Eff.abortJob_core (e : Eff) (j : Nat) : e.CoreKept (e.abortJob j) := by
  unfold Eff.abortJob
  split
  · exact Dev.modJob_core _ _ _
  · exact e.endJob_core _ _ _

theorem Eff.quiesce_core (e : Eff) (p : Nat) : e.CoreKept (e.quiesce p) := by
  unfold Eff.quiesce
  refine Eff.CoreKept.andMod (Eff.CoreKept.fold (fun e j => e.failRound_core _ _ _ _) _ e) ?_
  exact Dev.modPart_core _ _ _ (fun _ => rfl)

/-- A stop action leaves the core of every partition (R370 to R372). -/
theorem Eff.stopAction_core (e : Eff) (p a j : Nat) : e.CoreKept (e.stopAction p a j) := by
  unfold Eff.stopAction
  split
  · exact e.quiesce_core p
  · exact e.abortJob_core j
  · exact Dev.dropQueue_core _ _

theorem Eff.stopAction_calm (e : Eff) (p a j : Nat) : e.Calm (e.stopAction p a j) := by
  unfold Eff.stopAction
  split
  · exact e.quiesce_calm p
  · exact e.abortJob_calm j
  · exact Eff.Calm.mod (by simp)

end Sys2Proof.Machine
end

