-- ==== Sys2Proof/Laws/Placement.lean ====
section
/-!
SUPPORT. What finding homes changes: the allocation tables of stacks and caches, and nothing else of the device.
-/

namespace Sys2Proof.Machine

/-- An effect that took ranges of memory beyond another: only the allocation tables differ. -/
structure Eff.Takes (e e' : Eff) : Prop where
  dev : e'.dev = { e.dev with stackAlloc := e'.dev.stackAlloc, cacheAlloc := e'.dev.cacheAlloc }
  safety : e'.safety = e.safety

theorem Eff.Takes.refl (e : Eff) : e.Takes e := ⟨rfl, rfl⟩

theorem Eff.Takes.trans {a b c : Eff} (h : a.Takes b) (g : b.Takes c) : a.Takes c := by
  refine ⟨?_, g.safety.trans h.safety⟩
  rw [g.dev, h.dev]

theorem Eff.Takes.raised {a b : Eff} (h : a.Takes b) : b.dev.raised = a.dev.raised := (congrArg Dev.raised h.dev :)

theorem Eff.takeLines_takes {e e' : Eff} {k align lines part ph b : Nat} (h : e.takeLines k align lines part ph = some (b, e')) :
    e.Takes e' := by
  simp only [Eff.takeLines, Dev.takeStack] at h
  split at h
  · rename_i heq
    split at heq
    · cases heq; cases h; exact ⟨rfl, rfl⟩
    · cases heq
  · cases h

theorem Eff.takeRoom_takes {e e' : Eff} {k align lines part ph b : Nat} (h : e.takeRoom k align lines part ph = some (b, e')) :
    e.Takes e' := by
  unfold Eff.takeRoom at h
  split at h
  · cases h
  · exact Eff.takeLines_takes h

theorem Eff.takeCache_takes {e e' : Eff} {r lines part b : Nat} (h : e.takeCache r lines part = some (b, e')) :
    e.Takes e' := by
  unfold Eff.takeCache at h
  split at h
  · cases h; exact ⟨rfl, rfl⟩
  · cases h

theorem Eff.placeTensor_takes {e e' : Eff} {part region : Nat} {p : Program} {b : Batch} {t : Tensor}
    {h : Option TensorHome} (hp : e.placeTensor part region p b t = some (e', h)) : e.Takes e' := by
  unfold Eff.placeTensor at hp
  dsimp only at hp
  split at hp
  · cases hp; exact Eff.Takes.refl _
  · split at hp
    · obtain ⟨x, hx, hy⟩ := Option.map_eq_some_iff.mp hp
      cases hy; exact Eff.takeCache_takes (b := x.1) hx
    · split at hp
      · cases hp
      · obtain ⟨x, hx, hy⟩ := Option.map_eq_some_iff.mp hp
        cases hy; exact Eff.takeRoom_takes (b := x.1) hx

theorem Eff.placeTensors_takes {part region : Nat} {p : Program} {b : Batch} :
    ∀ (l : List Tensor) {e e' : Eff} {hs : List (Option TensorHome)},
      e.placeTensors part region p b l = some (e', hs) → e.Takes e'
  | [], e, e', hs, h => by simp only [Eff.placeTensors] at h; cases h; exact Eff.Takes.refl _
  | t :: ts, e, e', hs, h => by
    simp only [Eff.placeTensors] at h
    split at h
    · cases h
    · rename_i hq
      obtain ⟨x, hx, hy⟩ := Option.map_eq_some_iff.mp h
      cases hy
      exact (Eff.placeTensor_takes hq).trans (Eff.placeTensors_takes ts hx)

theorem Eff.placeLevelTwo_takes {e e' : Eff} {part region bytes : Nat} {hs : List (Option TensorHome)}
    (h : e.placeLevelTwo part region bytes = some (e', hs)) : e.Takes e' := by
  unfold Eff.placeLevelTwo at h
  split at h
  · cases h; exact Eff.Takes.refl _
  · obtain ⟨x, hx, hy⟩ := Option.map_eq_some_iff.mp h
    cases hy; exact Eff.takeCache_takes (b := x.1) hx

theorem Eff.placeKv_takes {e e' : Eff} {part : Nat} {b : Batch} {need need' : List (Nat × Nat)} {a : AttLayer} {sp : Bool}
    {k : KvHome} (h : e.placeKv part b need a sp = some (e', k, need')) : e.Takes e' := by
  unfold Eff.placeKv at h
  dsimp only at h
  split at h
  · cases h
  · split at h
    · split at h
      · cases h
      · obtain ⟨x, hx, hy⟩ := Option.map_eq_some_iff.mp h
        cases hy; exact Eff.takeRoom_takes (b := x.1) hx
    · split at h
      · cases h
      · cases h; exact Eff.Takes.refl _

theorem Eff.placeKvs_takes {part : Nat} {b : Batch} : ∀ (l : List (AttLayer × Bool)) {e e' : Eff}
    {need need' : List (Nat × Nat)} {hs : List KvHome}, e.placeKvs part b need l = some (e', hs, need') → e.Takes e'
  | [], e, e', need, need', hs, h => by simp only [Eff.placeKvs] at h; cases h; exact Eff.Takes.refl _
  | a :: as, e, e', need, need', hs, h => by
    simp only [Eff.placeKvs] at h
    split at h
    · cases h
    · rename_i hq
      obtain ⟨x, hx, hy⟩ := Option.map_eq_some_iff.mp h
      cases hy
      exact (Eff.placeKv_takes hq).trans (Eff.placeKvs_takes as hx)

theorem Eff.placeJob_takes {e : Eff} {part region : Nat} {p : Program} {b : Batch} {im : Image} {sp : List Bool}
    {pl : Placed} (h : e.placeJob part region p b im sp = some pl) : e.Takes pl.eff := by
  unfold Eff.placeJob at h
  split at h
  · cases h
  · rename_i h1
    split at h
    · cases h
    · rename_i h2
      dsimp only at h
      split at h
      · cases h
      · rename_i h3
        split at h
        · cases h
        · rename_i h4
          obtain ⟨x, _, hy⟩ := Option.map_eq_some_iff.mp h
          cases hy
          refine (((Eff.placeTensors_takes _ h1).trans (Eff.placeLevelTwo_takes h2)).trans ?_).trans
            (Eff.placeKvs_takes _ h4)
          split at h3
          · cases h3; exact Eff.Takes.refl _
          · split at h3
            · cases h3
            · obtain ⟨x, hx, hy⟩ := Option.map_eq_some_iff.mp h3
              cases hy; exact Eff.takeRoom_takes (b := x.1) hx

theorem Eff.firstFit_takes {e : Eff} {j : Job} {im : Image} {sp : List Bool} : ∀ (l : List (List Nat)) {room : Bool}
    {a : Admission}, e.firstFit j im sp room l = .ok a → e.Takes a.placed.eff
  | [], room, a, h => by simp [Eff.firstFit] at h
  | cs :: rest, room, a, h => by
    simp only [Eff.firstFit] at h
    split at h
    · exact Eff.firstFit_takes rest h
    · rename_i hp
      split at h
      · cases h; exact Eff.placeJob_takes hp
      · exact Eff.firstFit_takes rest h

/-- An admission takes ranges of memory and changes nothing else (R164). -/
theorem Eff.admitJob_takes {e : Eff} {j : Job} {im : Image} {a : Admission} (h : e.admitJob j im = .ok a) :
    e.Takes a.placed.eff := by
  unfold Eff.admitJob at h
  split at h
  · cases h
  · split at h
    · cases h
    · split at h
      · cases h
      · split at h
        · cases h
        · split at h
          · exact Eff.firstFit_takes _ h
          · unfold Eff.nominal at h
            dsimp only at h
            split at h
            · cases h
            · rename_i hp
              cases h; exact Eff.placeJob_takes hp

theorem Eff.placeSlices_takes {part : Nat} {t : ImageEntry} : ∀ (l : List SliceWish) {e e' : Eff}
    {ws : List WeightSlice}, e.placeSlices part t l = some (e', ws) → e.Takes e'
  | [], e, e', ws, h => by simp only [Eff.placeSlices] at h; cases h; exact Eff.Takes.refl _
  | x :: xs, e, e', ws, h => by
    simp only [Eff.placeSlices] at h
    split at h
    · cases h
    · split at h
      · cases h
      · rename_i hq
        obtain ⟨y, hy, hz⟩ := Option.map_eq_some_iff.mp h
        cases hz
        exact (Eff.takeRoom_takes hq).trans (Eff.placeSlices_takes xs hy)

/-- Placing an image's tensors takes ranges of memory and changes nothing else (R259). -/
theorem Eff.placeWeights_takes {part : Nat} : ∀ (l : List ImageEntry) {e e' : Eff} {ws : List (List WeightSlice)},
    e.placeWeights part l = some (e', ws) → e.Takes e'
  | [], e, e', ws, h => by simp only [Eff.placeWeights] at h; cases h; exact Eff.Takes.refl _
  | t :: ts, e, e', ws, h => by
    simp only [Eff.placeWeights] at h
    split at h
    · cases h
    · rename_i hq
      obtain ⟨y, hy, hz⟩ := Option.map_eq_some_iff.mp h
      cases hz
      refine Eff.Takes.trans ?_ (Eff.placeWeights_takes ts hy)
      unfold Eff.placeWeight at hq
      split at hq
      · cases hq; exact Eff.Takes.refl _
      · dsimp only at hq
        split at hq
        · cases hq
        · exact Eff.placeSlices_takes _ hq

end Sys2Proof.Machine
end

