-- ==== Sys2Proof/Laws/Leaves.lean ====
section
/-!
SUPPORT. What shared operations leave: starting a command, a vector, a header copy, the responses' vector, one
batch of the flare door, and the stream table under completions.
-/

namespace Sys2Proof.Machine

open Sys2Proof.Safety

theorem startWith_some {s : State} {p : Fin 16} {tag op : Nat} {k : Packet} (h : Arrived s p tag op k) (f : Packet → Eff) :
    s.dev.startWith p tag op f = f k := by
  simp [Dev.startWith, h.2]
theorem completes_ops {c : Instr} {s : State} {d : Dev} (e : Eff) (hc : exec c s = s.done { e with dev := d })
    (hs : e.safety = []) (h : d.raised = []) : CompletesWith c s d e.mem :=
  ⟨_, hc, becomes_with s { e with dev := d } h hs⟩
theorem takeStratus_raised {d d' : Dev} {u p loc : Nat} (h : d.takeStratus u p = some (loc, d')) : d'.raised = d.raised := by
  unfold Dev.takeStratus at h
  split at h
  · cases h; rfl
  · cases h


theorem copyHeader_raised (d : Dev) (p : Nat) (h : Bytes) : (d.copyHeader p h).raised = d.raised := by
  unfold Dev.copyHeader
  refine foldl_raised (fun d x => ?_) _ d
  split
  · split <;> rfl
  · rfl

theorem copyHeader_tick (d : Dev) (p : Nat) (h : Bytes) : (d.copyHeader p h).tick = d.tick := by
  unfold Dev.copyHeader
  generalize d.mgmt.sessions = l
  have : ∀ (l : List (Nat × Session)) (acc : Dev), (l.foldl (fun (acc : Dev) s =>
    match s.2.headersUntil with
    | some (q, t, req) =>
      if q = p && decide (d.now ≤ t) then acc.sendTo s.1 (lopReply 7 req true 0 h) else acc
    | none => acc) acc).tick = acc.tick := by
    intro l
    induction l with
    | nil => intro acc; rfl
    | cons x l ih =>
      intro acc
      rw [List.foldl, ih]
      split
      · split <;> rfl
      · rfl
  exact this l d


theorem vector_part (d : Dev) (p v : Nat) : ∃ f : Part → Part, (∀ x, ∃ a b, f x = { x with msixPending := a, vectors := b }) ∧ d.vector p v = d.modPart p f := by
  refine ⟨_, ?_, rfl⟩
  intro x
  split
  · exact ⟨_, _, rfl⟩
  · split
    · exact ⟨_, _, rfl⟩
    · exact ⟨_, _, rfl⟩

theorem vector_same (d : Dev) (p v : Nat) : ∃ a b, (d.vector p v).part p = { d.part p with msixPending := a, vectors := b } := by
  obtain ⟨f, hf, he⟩ := vector_part d p v
  obtain ⟨a, b, h⟩ := hf (d.part p)
  exact ⟨a, b, by rw [he, Dev.part_modPart_same, h]⟩


theorem raiseRsp_part (d : Dev) (p : Nat) : ∃ a b c e, (d.raiseRsp p).part p = { d.part p with msixPending := a, vectors := b, lastVector0 := c, heldVector0 := e } := by
  unfold Dev.raiseRsp
  dsimp only
  obtain ⟨a, b, h⟩ := vector_same d p 0
  cases hl : (d.part p).lastVector0 with
  | none => exact ⟨a, b, _, _, by simp only [if_true]; rw [Dev.part_modPart_same, h]⟩
  | some t =>
    dsimp only
    split
    · exact ⟨a, b, _, _, by rw [Dev.part_modPart_same, h]⟩
    · exact ⟨_, _, _, _, by rw [Dev.part_modPart_same]⟩

theorem raiseRsp_raised (d : Dev) (p : Nat) : (d.raiseRsp p).raised = d.raised := by
  unfold Dev.raiseRsp
  dsimp only
  cases hl : (d.part p).lastVector0 with
  | none => rfl
  | some t =>
    dsimp only
    split <;> rfl

theorem copyHeader_part (d : Dev) (p q : Nat) (h : Bytes) : (d.copyHeader p h).part q = d.part q := by
  unfold Dev.copyHeader
  generalize d.mgmt.sessions = l
  have : ∀ (l : List (Nat × Session)) (acc : Dev), (l.foldl (fun (acc : Dev) s =>
    match s.2.headersUntil with
    | some (q, t, req) =>
      if q = p && decide (d.now ≤ t) then acc.sendTo s.1 (lopReply 7 req true 0 h) else acc
    | none => acc) acc).part q = acc.part q := by
    intro l
    induction l with
    | nil => intro acc; rfl
    | cons x l ih =>
      intro acc
      rw [List.foldl, ih]
      split
      · split <;> rfl
      · rfl
  exact this l d


/-- No flare of the partition is buffered. -/
def Quiet (x : Part) : Prop := x.flareBuffer = [] ∧ x.overflowMark = false

theorem flareOverflow_none (e : Eff) (p : Nat) (h : (e.dev.part p).overflowMark = false) : e.flareOverflow p = e := by
  unfold Eff.flareOverflow
  simp [h]

theorem flareOverflows_none : ∀ (l : List Nat) (e : Eff), (∀ q, (e.dev.part q).overflowMark = false) →
    l.foldl Eff.flareOverflow e = e
  | [], _, _ => rfl
  | q :: l, e, h => by
    rw [List.foldl, flareOverflow_none e q (h q)]
    exact flareOverflows_none l e h

theorem vector_core (d : Dev) (p v q : Nat) (h : q ≠ p) : (d.vector p v).part q = d.part q := by
  unfold Dev.vector
  rw [Dev.part_modPart]
  simp [h]

theorem vector_mark (d : Dev) (p v q : Nat) : ((d.vector p v).part q).overflowMark = (d.part q).overflowMark := by
  by_cases hq : q = p
  · subst hq
    obtain ⟨a, b, h⟩ := vector_same d q v
    rw [h]
  · rw [vector_core d p v q hq]

/-- An action that is taken leaves every overflow mark. -/
theorem flareTake_mark (e : Eff) (p a j n q : Nat) :
    ((e.flareTake p a j n).dev.part q).overflowMark = (e.dev.part q).overflowMark := by
  unfold Eff.flareTake
  split
  · simp only [Eff.mod]
    rw [vector_mark, Dev.part_modPart]
    have h : ((e.stopAction p a j).dev.part q).overflowMark = (e.dev.part q).overflowMark :=
      (congrArg Part.overflowMark (e.stopAction_core p a j q) :)
    split <;> exact h
  · simp only [Eff.mod, Dev.flareIgnore]
    rw [Dev.part_modPart]
    split <;> rfl

/-- The entries of all functions when one alone has any, and that one an only one. -/
theorem entries_one (f : Nat → List FlareEntry) (p : Nat) (b : FlareEntry) (hp : f p = [b]) (hq : ∀ q, q ≠ p → f q = []) :
    ∀ l : List Nat, l.Nodup → l.flatMap (fun q => (f q).map (fun x => (q, x))) = if p ∈ l then [(p, b)] else []
  | [], _ => rfl
  | q :: l, h => by
    rw [List.flatMap_cons, entries_one f p b hp hq l (List.nodup_cons.mp h).2]
    by_cases hqp : q = p
    · subst hqp
      simp [hp, (List.nodup_cons.mp h).1]
    · simp [hq q hqp, Ne.symm hqp]

theorem flareBatch_one (e : Eff) (p : Fin 16) (b : FlareEntry) (h : (e.dev.part p).flareBuffer = [b])
    (ho : ∀ q, (e.dev.part q).overflowMark = false) (hq : ∀ q, q ≠ (p : Nat) → (e.dev.part q).flareBuffer = []) :
    e.flareBatch = (e.mod (fun d => d.modPart p (fun y => { y with flareBuffer := [] }))).flareTake p b.action b.job
      (1 + b.absorbed) := by
  have hl : e.dev.flareEntries = [((p : Nat), b)] := by
    unfold Dev.flareEntries
    rw [entries_one (fun q => (e.dev.part q).flareBuffer) p b h hq _ List.nodup_range]
    simp [sortBy, insertBy]
  unfold Eff.flareBatch
  have hd : (List.map Prod.fst [((p : Nat), b)]).eraseDups = [(p : Nat)] := by simp [List.eraseDups_cons]
  rw [hl]
  dsimp only
  rw [hd]
  dsimp only [List.foldl_cons, List.foldl_nil]
  refine flareOverflows_none _ _ (fun q => ?_)
  rw [flareTake_mark]
  simp only [Eff.mod]
  rw [Dev.part_modPart]
  split
  · rename_i hqp; rw [hqp]; exact ho p
  · exact ho q

theorem flareWrite_now (d : Dev) (p : Fin 16) (w : FlareWrite) (a j : Nat) (hre : d.reach p = true) (h1 : w.width = 64)
    (h2 : w.arm = 0x464C4152) (h3 : w.pairBusy = false) (hq : ∀ q, Quiet (d.part q)) (h0 : 0 < a) (h4 : a < 4)
    (hv : a = 2 → ∃ x, d.liveJob j = some x ∧ x.part = p) :
    ∃ e1 : Eff, e1.dev.part p = d.part p ∧
      ({ d with arrivals := d.arrivals + 1 } : Dev).eff.Calm e1 ∧ e1.dev.jobs = d.jobs ∧
      d.flareWrite p a j w = (e1.stopAction p a j).mod (fun d =>
        (d.modPart p (fun x => { x with flareLast := a, flareTaken := (x.flareTaken + 1) % 65536 })).vector p 3) := by
  let b : FlareEntry := { action := a, job := j, order := d.arrivals }
  let d1 : Dev := ({ d with arrivals := d.arrivals + 1 } : Dev).modPart p (fun x => x.flareBuffered a j d.arrivals)
  have hb : d1.part p = { d.part p with flareBuffer := [b] } := by
    show (Dev.modPart _ _ _).part p = _
    rw [Dev.part_modPart_same]
    show Part.flareBuffered (d.part p) a j d.arrivals = _
    simp [Part.flareBuffered, (hq p).1, b]
  have hne : ∀ q, q ≠ (p : Nat) → d1.part q = d.part q := fun q hq => by
    show (Dev.modPart _ _ _).part q = _
    rw [Dev.part_modPart]
    simp only [hq, if_false]
    rfl
  refine ⟨d1.eff.mod (fun d => d.modPart p (fun y => { y with flareBuffer := [] })), ?_, ⟨rfl, rfl⟩, rfl, ?_⟩
  · show (Dev.modPart d1 p _).part p = _
    rw [Dev.part_modPart_same, hb, ← (hq p).1]
  · have hx : d1.eff.flareBatch = _ := flareBatch_one d1.eff p b (by show (d1.part p).flareBuffer = _; rw [hb])
      (fun q => by
        show (d1.part q).overflowMark = false
        by_cases h : q = p
        · rw [h, hb]; exact (hq p).2
        · rw [hne q h]; exact (hq q).2)
      (fun q h => by show (d1.part q).flareBuffer = _; rw [hne q h]; exact (hq q).1)
    have hnot : (w.width != 64 || w.arm != 0x464C4152 || a == 0 || decide (3 < a)) = false := by
      simp [h1, h2]; omega
    unfold Dev.flareWrite
    rw [hre, hnot, h3]
    simp only [Bool.not_true, Bool.false_eq_true, if_false]
    show d1.eff.flareBatch = _
    rw [hx]
    unfold Eff.flareTake
    rw [if_pos]
    · rfl
    show Dev.flareValid _ _ _ _ = true
    unfold Dev.flareValid
    by_cases ha : a = 2
    · obtain ⟨x, hx, hp⟩ := hv ha
      show (a != 2 || (Dev.liveJob _ j).any _) = true
      have h2 : ((d1.eff.mod (fun d => d.modPart p (fun y => { y with flareBuffer := [] }))).dev).liveJob j = some x := hx
      rw [h2]
      simp [hp]
    · show (a != 2 || _) = true
      simp [ha]

/-- What the batch of one action leaves, after the command's end. -/
theorem flare_after {s : State} {p : Fin 16} {c : Instr} {e e1 : Eff} {a : Nat} (hr : s.dev.raised = []) (hc : exec c s = s.done e)
    (h1 : ({ s.dev with arrivals := s.dev.arrivals + 1 } : Dev).eff.Calm e1)
    (he : e = e1.mod (fun d => (d.modPart p (fun x => { x with flareLast := a, flareTaken := (x.flareTaken + 1) % 65536 })).vector p 3)) :
    ∃ t, exec c s = .next t ∧ t.safety = s.safety ∧ t.dev.jobs = e1.dev.jobs ∧ (t.dev.part p).flareLast = a ∧
      (t.dev.part p).flareTaken = ((e1.dev.part p).flareTaken + 1) % 65536 ∧ (t.dev.part p).quiesced = (e1.dev.part p).quiesced ∧
      (t.dev.part p).normal = (e1.dev.part p).normal ∧ (t.dev.part p).urgent = (e1.dev.part p).urgent ∧
      (t.dev.part p).expectSeq = (e1.dev.part p).expectSeq := by
  subst he
  have hrr : (e1.mod (fun d => (d.modPart p (fun x => { x with flareLast := a, flareTaken := (x.flareTaken + 1) % 65536 })).vector p 3)).dev.raised = [] :=
    h1.raised.trans hr
  have hn := s.apply_only _ hrr
  obtain ⟨x, y, hv⟩ := vector_same (e1.dev.modPart p (fun x => { x with flareLast := a, flareTaken := (x.flareTaken + 1) % 65536 })) p 3
  rw [Dev.part_modPart_same] at hv
  have hp := hn.part p
  have hp2 := hp.trans (congrArg Part.shell hv)
  refine ⟨_, hc, ?_, ?_, (congrArg Part.flareLast hp2 :), (congrArg Part.flareTaken hp2 :), (congrArg Part.quiesced hp2 :), (congrArg Part.normal hp2 :), (congrArg Part.urgent hp2 :), (congrArg Part.expectSeq hp2 :)⟩
  · have : (e1.mod (fun d => (d.modPart p (fun x => { x with flareLast := a, flareTaken := (x.flareTaken + 1) % 65536 })).vector p 3)).safety = [] := h1.2
    simp [this, hrr, Safety.take]
  · exact (congrArg Dev.jobs hn.shell :)


/-! streams kept -/
theorem foldl_streams {α : Type} {f : Dev → α → Dev} (h : ∀ d x, (f d x).streams = d.streams) :
    ∀ (l : List α) (d : Dev), (l.foldl f d).streams = d.streams
  | [], _ => rfl
  | x :: xs, d => (foldl_streams h xs (f d x)).trans (h d x)
theorem complete_streams (d : Dev) (p : Nat) (k : Packet) (c : Code) (i : Nat) (b : Bytes) : (d.complete p k c i b).streams = d.streams := by
  unfold Dev.complete
  dsimp only
  split
  · split
    · rfl
    · show (Dev.failPosted _ p k c).streams = _
      unfold Dev.failPosted
      dsimp only
      split <;> exact (Dev.notify_only _ _ _ _).settled.streams
  · exact foldl_streams (f := fun acc x => acc.emit p x) (fun d x => rfl) _ _
theorem completeTag_streams (d : Dev) (p tag : Nat) (c : Code) (i : Nat) (b : Bytes) : (d.completeTag p tag c i b).streams = d.streams := by
  unfold Dev.completeTag
  split
  · exact complete_streams _ _ _ _ _ _
  · split
    · exact complete_streams _ _ _ _ _ _
    · rfl
theorem endChunks_streams (d : Dev) (p : Nat) (w : Chunk → Bool) (c : Code) : (d.endChunks p w c).streams = d.streams := by
  unfold Dev.endChunks
  dsimp only
  rw [foldl_streams (fun d x => completeTag_streams _ _ _ _ _ _)]
  rfl


theorem bit_false_of {n i : Nat} (h : n < 2 ^ i) : bit n i = false := by
  simp [bit, Nat.shiftRight_eq_div_pow, Nat.div_eq_of_lt h]

theorem stream_apply (s : State) (e : Eff) (n : Nat) : (s.apply e).dev.stream? n = e.dev.stream? n := by
  simp [Dev.stream?]


end Sys2Proof.Machine
end

