-- ==== Sys2Proof/Laws/Clock.lean ====
section
/-!
SUPPORT. The clock of the device, its instant and its tick unit: what each operation of rounds, units, commits, intake and
re-admission leaves of it. An operation listed here changes neither.
-/

namespace Sys2Proof.Machine

/-- The instant and the tick unit of the device. -/
abbrev Dev.clock (d : Dev) : Tns × TickUnit := (d.now, d.tick)

/-- A fold of steps that keep a part of a state keeps it. -/
theorem foldl_keep {α β γ : Type} (g : β → γ) {f : β → α → β} (h : ∀ b x, g (f b x) = g b) :
    ∀ (l : List α) (b : β), g (l.foldl f b) = g b
  | [], _ => rfl
  | x :: xs, b => (foldl_keep g h xs (f b x)).trans (h b x)

theorem Eff.mod_dev' (e : Eff) (f : Dev → Dev) : (e.mod f).dev = f e.dev := rfl

theorem Dev.free_clock (x0 : Dev) : (Dev.free x0).2.clock = x0.clock := rfl

theorem State.armInst_clock (x0 : State) (x1 : Job) (x2 : Round) (x3 : Inst) : (State.armInst x0 x1 x2 x3).2.clock =
    x0.dev.clock := by
  unfold State.armInst
  repeat' (first | with_reducible rfl | with_reducible refine (Dev.free_clock ..).trans ?_ | split)

theorem Dev.modJob_clock (x0 : Dev) (x1 : Nat) (x2 : Job → Job) : (Dev.modJob x0 x1 x2).clock = x0.clock := by
  unfold Dev.modJob
  repeat' (first | with_reducible rfl | split)

theorem Dev.modRound_clock (x0 : Dev) (x1 : Nat) (x2 : Round → Round) : (Dev.modRound x0 x1 x2).clock = x0.clock := by
  unfold Dev.modRound
  repeat' (first | with_reducible rfl | with_reducible refine (Dev.modJob_clock ..).trans ?_)

theorem Dev.safeStop_clock (x0 : Dev) : (Dev.safeStop x0).clock = x0.clock := rfl

theorem Dev.modCell_clock (x0 : Dev) (x1 : Nat) (x2 : ComputeUnit → ComputeUnit) : (Dev.modCell x0 x1 x2).clock =
    x0.clock := rfl

theorem Dev.modEngine_clock (x0 : Dev) (x1 : Nat) (x2 : ComputeUnit → ComputeUnit) : (Dev.modEngine x0 x1 x2).clock =
    x0.clock := rfl

theorem Dev.startPattern_clock (x0 : Dev) (x1 : Nat) : (Dev.startPattern x0 x1).clock = x0.clock := by
  unfold Dev.startPattern
  repeat' (first | with_reducible rfl | with_reducible refine (Dev.modCell_clock ..).trans ?_
                 | with_reducible refine (Dev.modEngine_clock ..).trans ?_ | split)

theorem Dev.patternAll_clock (x0 : Dev) : (Dev.patternAll x0).clock = x0.clock := by
  unfold Dev.patternAll
  repeat' (first | with_reducible rfl | with_reducible refine (Dev.startPattern_clock ..).trans ?_
                 | with_reducible refine (foldl_keep Dev.clock (fun _ _ => ?_) _ _).trans ?_)

theorem Dev.modCred_clock (x0 : Dev) (x1 : Nat) (x2 : Cred → Cred) : (Dev.modCred x0 x1 x2).clock = x0.clock := rfl

theorem Dev.noticeMgmt_clock (x0 : Dev) (x1 : Notice) : (Dev.noticeMgmt x0 x1).clock = x0.clock := by
  unfold Dev.noticeMgmt
  repeat' (first | with_reducible rfl | with_reducible refine (Dev.modCred_clock ..).trans ?_
                 | with_reducible refine (foldl_keep Dev.clock (fun _ _ => ?_) _ _).trans ?_)

theorem Dev.setPart_clock (x0 : Dev) (x1 : Nat) (x2 : Part) : (Dev.setPart x0 x1 x2).clock = x0.clock := rfl

theorem Dev.modPart_clock (x0 : Dev) (x1 : Nat) (x2 : Part → Part) : (Dev.modPart x0 x1 x2).clock = x0.clock := by
  unfold Dev.modPart
  repeat' (first | with_reducible rfl | with_reducible refine (Dev.setPart_clock ..).trans ?_)

theorem Dev.noticePart_clock (x0 : Dev) (x1 : Nat) (x2 : Notice) : (Dev.noticePart x0 x1 x2).clock = x0.clock := by
  unfold Dev.noticePart
  repeat' (first | with_reducible rfl | with_reducible refine (Dev.modPart_clock ..).trans ?_)

theorem Dev.notify_clock (x0 : Dev) (x1 : Option Nat) (x2 : List Nat) (x3 : NoticeBody) : (Dev.notify x0 x1 x2
    x3).clock = x0.clock := by
  unfold Dev.notify
  repeat' (first | with_reducible rfl | with_reducible refine (Dev.noticeMgmt_clock ..).trans ?_
                 | with_reducible refine (Dev.noticePart_clock ..).trans ?_
                 | with_reducible refine (foldl_keep Dev.clock (fun _ _ => ?_) _ _).trans ?_)

theorem Dev.faultNotice_clock (x0 : Dev) (x1 : Nat) (x2 : Nat) (x3 : List (Nat × Nat)) : (Dev.faultNotice x0 x1 x2
    x3).clock = x0.clock := by
  unfold Dev.faultNotice
  repeat' (first | with_reducible rfl | with_reducible refine (Dev.notify_clock ..).trans ?_)

theorem Dev.settle_clock (x0 : Dev) (x1 : Safety) (x2 : Safety) : (Dev.settle x0 x1 x2).clock = x0.clock := by
  unfold Dev.settle
  repeat' (first | with_reducible rfl | with_reducible refine (Dev.safeStop_clock ..).trans ?_
                 | with_reducible refine (Dev.patternAll_clock ..).trans ?_
                 | with_reducible refine (Dev.faultNotice_clock ..).trans ?_ | split)

theorem Dev.setSlot_clock (x0 : Dev) (x1 : SlotView) (x2 : Bool) : (Dev.setSlot x0 x1 x2).clock = x0.clock := by
  unfold Dev.setSlot
  repeat' (first | with_reducible rfl | with_reducible refine (Dev.modPart_clock ..).trans ?_ | split)

theorem Dev.trackPeak_clock (x0 : Dev) (x1 : Nat) (x2 : Nat) (x3 : Bool) : (Dev.trackPeak x0 x1 x2 x3).clock =
    x0.clock := rfl

theorem Dev.crossSlot_clock (x0 : Dev) (x1 : SlotView) (x2 : Nat) : (Dev.crossSlot x0 x1 x2).clock = x0.clock := by
  unfold Dev.crossSlot
  repeat' (first | with_reducible rfl | with_reducible refine (Dev.notify_clock ..).trans ?_
                 | with_reducible refine (Dev.setSlot_clock ..).trans ?_
                 | with_reducible refine (Dev.trackPeak_clock ..).trans ?_ | split)

theorem State.watch_clock (x0 : State) (x1 : State) : (State.watch x0 x1).clock = x1.dev.clock := by
  unfold State.watch
  repeat' (first | with_reducible rfl | with_reducible refine (Dev.crossSlot_clock ..).trans ?_
                 | with_reducible refine (foldl_keep Dev.clock (fun _ _ => ?_) _ _).trans ?_ | split
                 | dsimp only [Dev.clock, Eff.mod, Eff.ops, Dev.eff])

theorem State.apply_clock (x0 : State) (x1 : Eff) : (State.apply x0 x1).dev.clock = x1.dev.clock := by
  unfold State.apply
  repeat' (first | with_reducible rfl | with_reducible refine (Dev.settle_clock ..).trans ?_
                 | with_reducible refine (State.watch_clock ..).trans ?_)

theorem State.withDev_clock (x0 : State) (x1 : Dev) : (State.withDev x0 x1).dev.clock = x1.clock := by
  unfold State.withDev
  repeat' (first | with_reducible rfl | with_reducible refine (State.apply_clock ..).trans ?_)

theorem Dev.modRegion_clock (x0 : Dev) (x1 : Nat) (x2 : Region → Region) : (Dev.modRegion x0 x1 x2).clock = x0.clock
    := rfl

theorem Dev.pinLine_clock (x0 : Dev) (x1 : Nat) (x2 : Nat) (x3 : Nat) (x4 : Nat) : (Dev.pinLine x0 x1 x2 x3 x4).clock
    = x0.clock := by
  unfold Dev.pinLine
  repeat' (first | with_reducible rfl | with_reducible refine (Dev.modRegion_clock ..).trans ?_)

theorem Eff.ops_clock (x0 : Eff) (x1 : List MemOp) : (Eff.ops x0 x1).dev.clock = x0.dev.clock := rfl

theorem Dev.cacheTouch_clock (x0 : Dev) (x1 : Access) (x2 : Nat) (x3 : CacheLine) : (Dev.cacheTouch x0 x1 x2
    x3).clock = x0.clock := by
  unfold Dev.cacheTouch
  repeat' (first | with_reducible rfl | with_reducible refine (Dev.modRegion_clock ..).trans ?_ | split)

theorem Eff.touch_clock (x0 : Eff) (x1 : Access) (x2 : Nat) (x3 : CacheLine) : (Eff.touch x0 x1 x2 x3).dev.clock =
    x0.dev.clock := by
  unfold Eff.touch
  repeat' (first | with_reducible rfl | with_reducible refine (Dev.pinLine_clock ..).trans ?_
                 | with_reducible refine (Dev.cacheTouch_clock ..).trans ?_ | split
                 | dsimp only [Dev.clock, Eff.mod, Eff.ops, Dev.eff])

theorem Dev.stageCells_clock (x0 : Dev) (x1 : Nat) (x2 : List Host.Cell) : (Dev.stageCells x0 x1 x2).clock = x0.clock
    := by
  unfold Dev.stageCells
  repeat' (first | with_reducible rfl | with_reducible refine (Dev.modRound_clock ..).trans ?_)

theorem Eff.flushEntry_clock (x0 : Eff) (x1 : Mem) (x2 : WcbEntry) : (Eff.flushEntry x0 x1 x2).dev.clock =
    x0.dev.clock := by
  unfold Eff.flushEntry
  repeat' (first | with_reducible rfl | with_reducible refine (Dev.modRound_clock ..).trans ?_
                 | with_reducible refine (Eff.ops_clock ..).trans ?_
                 | with_reducible refine (Dev.stageCells_clock ..).trans ?_
                 | with_reducible refine (foldl_keep Dev.clock (fun _ _ => ?_) _ _).trans ?_ | split
                 | dsimp only [Dev.clock, Eff.mod, Eff.ops, Dev.eff])

theorem Eff.flushWhere_clock (x0 : Eff) (x1 : Mem) (x2 : WcbEntry → Bool) : (Eff.flushWhere x0 x1 x2).dev.clock =
    x0.dev.clock := by
  unfold Eff.flushWhere
  repeat' (first | with_reducible rfl | with_reducible refine (Eff.flushEntry_clock ..).trans ?_
                 | with_reducible refine (foldl_keep (fun e : Eff => e.dev.clock) (fun _ _ => ?_) _ _).trans ?_)

theorem Eff.readLine_clock (x0 : Eff) (x1 : Mem) (x2 : Nat) (x3 : Nat) (x4 : Nat) (x5 : Bool) : (Eff.readLine x0 x1
    x2 x3 x4 x5).dev.clock = x0.dev.clock := by
  unfold Eff.readLine
  repeat' (first | with_reducible rfl | with_reducible refine (Eff.touch_clock ..).trans ?_
                 | with_reducible refine (Eff.flushWhere_clock ..).trans ?_ | split)

theorem Eff.readLines_clock (x0 : Eff) (x1 : Mem) (x2 : Nat) (x3 : List Reach) : (Eff.readLines x0 x1 x2
    x3).dev.clock = x0.dev.clock := by
  unfold Eff.readLines
  repeat' (first | with_reducible rfl | with_reducible refine (Eff.readLine_clock ..).trans ?_
                 | with_reducible refine (foldl_keep (fun e : Eff => e.dev.clock) (fun _ _ => ?_) _ _).trans ?_
                 | split)

theorem Eff.failPart_clock (x0 : Eff) (x1 : Nat) (x2 : Option PartId) (x3 : Code) (x4 : Nat) : (Eff.failPart x0 x1 x2
    x3 x4).dev.clock = x0.dev.clock := by
  unfold Eff.failPart
  repeat' (first | with_reducible rfl | with_reducible refine (Dev.modRound_clock ..).trans ?_
                 | dsimp only [Dev.clock, Eff.mod, Eff.ops, Dev.eff])

theorem Dev.takeStack_clock {x0 : Dev} {x1 : Nat} {x2 : Nat} {x3 : Nat} {x4 : Nat} {x5 : Nat} {a : _} {y : Dev} (h :
    (Dev.takeStack x0 x1 x2 x3 x4 x5) = some (a, y)) : y.clock = x0.clock := by
  unfold Dev.takeStack at h
  repeat' (first | contradiction | (split at h) | (dsimp only at h; split at h) | (cases h))
  all_goals
   (repeat' (first | with_reducible rfl))

theorem Eff.takeLines_clock {x0 : Eff} {x1 : Nat} {x2 : Nat} {x3 : Nat} {x4 : Nat} {x5 : Nat} {a : _} {y : Eff} (h :
    (Eff.takeLines x0 x1 x2 x3 x4 x5) = some (a, y)) : y.dev.clock = x0.dev.clock := by
  unfold Eff.takeLines at h
  repeat' (first | contradiction | (split at h) | (dsimp only at h; split at h) | (cases h))
  all_goals
   (repeat' (first | with_reducible rfl | with_reducible refine (Dev.takeStack_clock (by assumption)).trans ?_))

theorem Dev.setFrame_clock (x0 : Dev) (x1 : Nat) (x2 : PageFrame) : (Dev.setFrame x0 x1 x2).clock = x0.clock := rfl

theorem Eff.newPage_clock {x0 : Eff} {x1 : Nat} {x2 : Nat} {x3 : Nat} {x4 : Nat} {x5 : Nat} {a : _} {y : Eff} (h :
    (Eff.newPage x0 x1 x2 x3 x4 x5) = some (a, y)) : y.dev.clock = x0.dev.clock := by
  unfold Eff.newPage at h
  repeat' (first | contradiction | (split at h) | (dsimp only at h; split at h) | (cases h))
  all_goals
   (repeat' (first | with_reducible rfl | with_reducible refine (Eff.takeLines_clock (by assumption)).trans ?_
                     | with_reducible refine (Dev.modRound_clock ..).trans ?_
                     | with_reducible refine (Dev.setFrame_clock ..).trans ?_
                     | dsimp only [Dev.clock, Eff.mod, Eff.ops, Dev.eff]))

theorem Eff.cacheWrite_clock (x0 : Eff) (x1 : Nat) (x2 : Nat) (x3 : Access) : (Eff.cacheWrite x0 x1 x2 x3).dev.clock
    = x0.dev.clock := by
  unfold Eff.cacheWrite
  repeat' (first | with_reducible rfl | with_reducible refine (Eff.touch_clock ..).trans ?_)

theorem Eff.mergeLines_clock (x0 : Eff) (x1 : Mem) (x2 : Nat) (x3 : List Host.Cell) : (Eff.mergeLines x0 x1 x2
    x3).dev.clock = x0.dev.clock := by
  unfold Eff.mergeLines
  repeat' (first | with_reducible rfl | with_reducible refine (Eff.cacheWrite_clock ..).trans ?_
                 | with_reducible refine (Eff.readLine_clock ..).trans ?_
                 | with_reducible refine (foldl_keep (fun e : Eff => e.dev.clock) (fun _ _ => ?_) _ _).trans ?_)

theorem Dev.takeTokens_clock (x0 : Dev) (x1 : Nat) (x2 : Nat) (x3 : Nat) : (Dev.takeTokens x0 x1 x2 x3).clock =
    x0.clock := by
  unfold Dev.takeTokens
  repeat' (first | with_reducible rfl | with_reducible refine (Dev.modPart_clock ..).trans ?_)

theorem Dev.regulateLines_clock (x0 : Dev) (x1 : Job) (x2 : List Nat) : (Dev.regulateLines x0 x1 x2).clock = x0.clock
    := by
  unfold Dev.regulateLines
  repeat' (first | with_reducible rfl | with_reducible refine (Dev.takeTokens_clock ..).trans ?_
                 | with_reducible refine (foldl_keep Dev.clock (fun _ _ => ?_) _ _).trans ?_ | split
                 | dsimp only [Dev.clock, Eff.mod, Eff.ops, Dev.eff])

theorem Eff.appendToken_clock (x0 : Eff) (x1 : Mem) (x2 : Job) (x3 : Nat) (x4 : Nat) (x5 : Sys2Proof.Bytes) :
    (Eff.appendToken x0 x1 x2 x3 x4 x5).dev.clock = x0.dev.clock := by
  have k : ∀ (b : Prop) [Decidable b] (l : Option Nat) (g : Nat × Eff → Dev → Dev)
      (hg : ∀ x d, (g x d).clock = d.clock) (i p k ln z : Nat) (y : Nat × Eff),
      (if b then l.map (fun n => (n, x0)) else (x0.newPage i p k ln z).map (fun x => (x.1, x.2.mod (g x)))) = some y →
      y.2.dev.clock = x0.dev.clock := by
    intro b _ l g hg i p k ln z y h
    split at h
    · rw [Option.map_eq_some_iff] at h
      obtain ⟨v, hx, hy⟩ := h
      cases hy; exact rfl
    · rw [Option.map_eq_some_iff] at h
      obtain ⟨⟨u, v⟩, hx, hy⟩ := h
      cases hy
      have t := Eff.newPage_clock hx
      exact (hg _ _).trans t
  unfold Eff.appendToken
  split
  · split
    · exact rfl
    · dsimp only
      split
      · exact Eff.failPart_clock ..
      · rename_i e1 hp
        have t := k _ _ _ (fun _ _ => Dev.modRound_clock ..) _ _ _ _ _ _ hp
        split
        · exact t
        · split
          · exact (Eff.failPart_clock ..).trans t
          · exact (Dev.modRound_clock ..).trans ((Dev.regulateLines_clock ..).trans ((Eff.mergeLines_clock ..).trans t))
  · exact rfl

theorem Dev.eff_clock (x0 : Dev) : (Dev.eff x0).dev.clock = x0.clock := rfl

theorem State.kvAppend_clock (x0 : State) (x1 : Job) (x2 : Round) (x3 : OpDesc) : (State.kvAppend x0 x1 x2
    x3).dev.clock = x0.dev.clock := by
  unfold State.kvAppend
  repeat' (first | with_reducible rfl | with_reducible refine (Eff.readLines_clock ..).trans ?_
                 | with_reducible refine (Dev.modRound_clock ..).trans ?_
                 | with_reducible refine (Eff.failPart_clock ..).trans ?_
                 | with_reducible refine (Eff.appendToken_clock ..).trans ?_
                 | with_reducible refine (Dev.eff_clock ..).trans ?_
                 | with_reducible refine (foldl_keep (fun e : Eff => e.dev.clock) (fun _ _ => ?_) _ _).trans ?_
                 | split | dsimp only [Dev.clock, Eff.mod, Eff.ops, Dev.eff])

theorem State.atomicOp_clock (x0 : State) (x1 : Job) (x2 : Round) (x3 : OpDesc) (x4 : Inst) : (State.atomicOp x0 x1
    x2 x3 x4).dev.clock = x0.dev.clock := by
  unfold State.atomicOp
  repeat' (first | with_reducible rfl | with_reducible refine (Eff.mergeLines_clock ..).trans ?_
                 | with_reducible refine (Dev.modRound_clock ..).trans ?_
                 | with_reducible refine (Dev.stageCells_clock ..).trans ?_
                 | dsimp only [Dev.clock, Eff.mod, Eff.ops, Dev.eff])

theorem Eff.combine_clock (x0 : Eff) (x1 : Mem) (x2 : Nat) (x3 : Nat) (x4 : List Host.Cell) : (Eff.combine x0 x1 x2
    x3 x4).dev.clock = x0.dev.clock := by
  unfold Eff.combine
  repeat' (first | with_reducible rfl | with_reducible refine (Eff.flushEntry_clock ..).trans ?_
                 | with_reducible refine (Dev.modRegion_clock ..).trans ?_ | split
                 | dsimp only [Dev.clock, Eff.mod, Eff.ops, Dev.eff])

theorem Eff.writeOut_clock (x0 : Eff) (x1 : Mem) (x2 : Nat) (x3 : List Host.Cell) : (Eff.writeOut x0 x1 x2
    x3).dev.clock = x0.dev.clock := by
  unfold Eff.writeOut
  repeat' (first | with_reducible rfl | with_reducible refine (Dev.stageCells_clock ..).trans ?_
                 | with_reducible refine (Eff.cacheWrite_clock ..).trans ?_
                 | with_reducible refine (Eff.combine_clock ..).trans ?_
                 | with_reducible refine (foldl_keep (fun e : Eff => e.dev.clock) (fun _ _ => ?_) _ _).trans ?_
                 | split | dsimp only [Dev.clock, Eff.mod, Eff.ops, Dev.eff])

theorem Dev.setObj_clock (x0 : Dev) (x1 : Nat) (x2 : StateObj) : (Dev.setObj x0 x1 x2).clock = x0.clock := rfl

theorem Eff.newObj_clock {x0 : Eff} {x1 : Nat} {x2 : Nat} {x3 : Sys2Proof.Bytes} {a : _} {y : Eff} (h : (Eff.newObj
    x0 x1 x2 x3) = some (a, y)) : y.dev.clock = x0.dev.clock := by
  unfold Eff.newObj at h
  repeat' (first | contradiction | (split at h) | (dsimp only at h; split at h) | (cases h))
  all_goals
   (repeat' (first | with_reducible rfl | with_reducible refine (Eff.takeLines_clock (by assumption)).trans ?_
                     | with_reducible refine (Eff.ops_clock ..).trans ?_
                     | with_reducible refine (Dev.setObj_clock ..).trans ?_
                     | dsimp only [Dev.clock, Eff.mod, Eff.ops, Dev.eff]))

theorem Eff.putState_clock (x0 : Eff) (x1 : Job) (x2 : Nat) (x3 : PartId) (x4 : Sys2Proof.Bytes) : (Eff.putState x0
    x1 x2 x3 x4).dev.clock = x0.dev.clock := by
  unfold Eff.putState
  repeat' (first | with_reducible rfl | with_reducible refine (Eff.newObj_clock (by assumption)).trans ?_
                 | with_reducible refine (Eff.failPart_clock ..).trans ?_
                 | with_reducible refine (Dev.modRound_clock ..).trans ?_ | split
                 | dsimp only [Dev.clock, Eff.mod, Eff.ops, Dev.eff])

theorem State.recWrites_clock (x0 : State) (x1 : Job) (x2 : Round) (x3 : Inst) : (State.recWrites x0 x1 x2
    x3).dev.clock = x0.dev.clock := by
  unfold State.recWrites
  repeat' (first | with_reducible rfl | with_reducible refine (Eff.putState_clock ..).trans ?_
                 | with_reducible refine (Eff.writeOut_clock ..).trans ?_
                 | with_reducible refine (Dev.eff_clock ..).trans ?_
                 | with_reducible refine (foldl_keep (fun e : Eff => e.dev.clock) (fun _ _ => ?_) _ _).trans ?_)

theorem State.finalWrites_clock (x0 : State) (x1 : Job) (x2 : Round) (x3 : Inst) : (State.finalWrites x0 x1 x2
    x3).dev.clock = x0.dev.clock := by
  unfold State.finalWrites
  repeat' (first | with_reducible rfl | with_reducible refine (State.kvAppend_clock ..).trans ?_
                 | with_reducible refine (State.atomicOp_clock ..).trans ?_
                 | with_reducible refine (Eff.writeOut_clock ..).trans ?_
                 | with_reducible refine (State.recWrites_clock ..).trans ?_ | split
                 | dsimp only [Dev.clock, Eff.mod, Eff.ops, Dev.eff])

theorem Dev.stall_clock (x0 : Dev) (x1 : Nat) (x2 : Stall) (x3 : Nat) : (Dev.stall x0 x1 x2 x3).clock = x0.clock := by
  unfold Dev.stall
  repeat' (first | with_reducible rfl | with_reducible refine (Dev.modJob_clock ..).trans ?_)

theorem Dev.fenceDelay_clock (x0 : Dev) (x1 : Job) (x2 : Round) (x3 : Inst) : (Dev.fenceDelay x0 x1 x2 x3).clock =
    x0.clock := by
  unfold Dev.fenceDelay
  repeat' (first | with_reducible rfl | with_reducible refine (Dev.stall_clock ..).trans ?_ | split)

theorem Dev.periodicPatterns_clock (x0 : Dev) (x1 : Round) : (Dev.periodicPatterns x0 x1).clock = x0.clock := by
  unfold Dev.periodicPatterns
  repeat' (first | with_reducible rfl | with_reducible refine (Dev.startPattern_clock ..).trans ?_
                 | with_reducible refine (foldl_keep Dev.clock (fun _ _ => ?_) _ _).trans ?_ | split
                 | dsimp only [Dev.clock, Eff.mod, Eff.ops, Dev.eff])

theorem State.completeInst_clock (x0 : State) (x1 : Job) (x2 : Round) (x3 : Inst) : (State.completeInst x0 x1 x2
    x3).dev.clock = x0.dev.clock := by
  unfold State.completeInst
  repeat' (first | with_reducible rfl | with_reducible refine (State.apply_clock ..).trans ?_
                 | with_reducible refine (State.finalWrites_clock ..).trans ?_
                 | with_reducible refine (Eff.flushWhere_clock ..).trans ?_
                 | with_reducible refine (Dev.eff_clock ..).trans ?_
                 | with_reducible refine (Dev.fenceDelay_clock ..).trans ?_
                 | with_reducible refine (Dev.modRound_clock ..).trans ?_
                 | with_reducible refine (State.withDev_clock ..).trans ?_
                 | with_reducible refine (Dev.periodicPatterns_clock ..).trans ?_ | split)

theorem State.settleInst_clock (x0 : Nat) (x1 : State) (x2 : Nat) (x3 : Nat) : (State.settleInst x0 x1 x2
    x3).dev.clock = x1.dev.clock := by
  induction x0 generalizing x1 with
  | zero => exact rfl
  | succ n ih =>
    simp only [State.settleInst]
    split
    · exact rfl
    · split
      · exact rfl
      · split
        · exact rfl
        · split
          · have t := (State.armInst_clock x1)
            refine (ih _).trans ((State.withDev_clock ..).trans ((Dev.modRound_clock ..).trans (t ..)))
          · exact State.completeInst_clock ..

theorem State.startInst_clock (x0 : State) (x1 : Nat) (x2 : Nat) : (State.startInst x0 x1 x2).dev.clock =
    x0.dev.clock := by
  unfold State.startInst
  repeat' (first | with_reducible rfl | with_reducible refine (State.armInst_clock ..).trans ?_
                 | with_reducible refine (Dev.modRound_clock ..).trans ?_
                 | with_reducible refine (State.settleInst_clock ..).trans ?_
                 | with_reducible refine (State.withDev_clock ..).trans ?_ | split)

theorem State.endStep_clock (x0 : State) (x1 : Nat) : (State.endStep x0 x1).dev.clock = x0.dev.clock := by
  unfold State.endStep
  repeat' (first | with_reducible rfl | with_reducible refine (State.withDev_clock ..).trans ?_
                 | with_reducible refine (Dev.modRound_clock ..).trans ?_ | split)

theorem Eff.newObjs_clock {x0 : Eff} {x1 : Job} {x2 : List (Nat × Sys2Proof.Bytes)} {a : _} {y : Eff} (h :
    (Eff.newObjs x0 x1 x2) = some (a, y)) : y.dev.clock = x0.dev.clock := by
  induction x2 generalizing x0 y a with
  | nil => cases h; exact rfl
  | cons n ns ih =>
    simp only [Eff.newObjs] at h
    split at h
    · cases h
    · rw [Option.map_eq_some_iff] at h
      obtain ⟨⟨u, v⟩, hx, hy⟩ := h
      cases hy
      have g := ih hx
      have t := Eff.newObj_clock (by assumption)
      exact g.trans t

theorem Eff.needDir_clock {x0 : Eff} {x1 : Job} {x2 : Option Nat} {a : _} {y : Eff} (h : (Eff.needDir x0 x1 x2) =
    some (a, y)) : y.dev.clock = x0.dev.clock := by
    simp only [Eff.needDir] at h
    split at h
    · cases h; exact rfl
    · skip
      rw [Option.map_eq_some_iff] at h
      obtain ⟨⟨u, v⟩, hx, hy⟩ := h
      cases hy
      have t := Eff.takeLines_clock hx
      exact t

theorem Eff.newState_clock {x0 : Eff} {x1 : Job} {x2 : Option Nat} {x3 : List (Nat × Sys2Proof.Bytes)} {a b : _} {y :
    Eff} (h : (Eff.newState x0 x1 x2 x3) = some (a, b, y)) : y.dev.clock = x0.dev.clock := by
    simp only [Eff.newState] at h
    split at h
    · cases h
    · rw [Option.map_eq_some_iff] at h
      obtain ⟨⟨u, v⟩, hx, hy⟩ := h
      cases hy
      have t := Eff.needDir_clock hx
      have g := Eff.newObjs_clock (by assumption)
      exact t.trans g

theorem Eff.freshState_clock (x0 : Eff) (x1 : Job) (x2 : StreamEntry) (x3 : Nat) : (Eff.freshState x0 x1 x2
    x3).dev.clock = x0.dev.clock := by
  unfold Eff.freshState
  repeat' (first | with_reducible rfl | with_reducible refine (Eff.newState_clock (by assumption)).trans ?_
                 | with_reducible refine (Eff.failPart_clock ..).trans ?_
                 | with_reducible refine (Dev.modRound_clock ..).trans ?_ | split
                 | dsimp only [Dev.clock, Eff.mod, Eff.ops, Dev.eff])

theorem Eff.beginState_clock (x0 : Eff) (x1 : Job) (x2 : Nat) (x3 : Member) : (Eff.beginState x0 x1 x2 x3).dev.clock
    = x0.dev.clock := by
  unfold Eff.beginState
  repeat' (first | with_reducible rfl | with_reducible refine (Eff.freshState_clock ..).trans ?_
                 | with_reducible refine (Dev.modRound_clock ..).trans ?_ | split
                 | dsimp only [Dev.clock, Eff.mod, Eff.ops, Dev.eff])

theorem Eff.beginStates_clock (x0 : Eff) (x1 : Job) (x2 : List Member) : (Eff.beginStates x0 x1 x2).dev.clock =
    x0.dev.clock := by
  unfold Eff.beginStates
  repeat' (first | with_reducible rfl | with_reducible refine (Eff.beginState_clock ..).trans ?_
                 | with_reducible refine (foldl_keep (fun e : Eff => e.dev.clock) (fun _ _ => ?_) _ _).trans ?_
                 | split)

theorem Eff.copyTime_clock (x0 : Eff) (x1 : Job) (x2 : Nat) : (Eff.copyTime x0 x1 x2).dev.clock = x0.dev.clock := by
  unfold Eff.copyTime
  repeat' (first | with_reducible rfl | with_reducible refine (Dev.regulateLines_clock ..).trans ?_
                 | with_reducible refine (Dev.free_clock ..).trans ?_
                 | with_reducible refine (Dev.modRound_clock ..).trans ?_
                 | with_reducible refine (Dev.modJob_clock ..).trans ?_ | split
                 | dsimp only [Dev.clock, Eff.mod, Eff.ops, Dev.eff])

theorem Eff.copyPage_clock {x0 : Eff} {x1 : Nat} {x2 : Nat} {x3 : Nat} {x4 : PageFrame} {a : _} {y : Eff} (h :
    (Eff.copyPage x0 x1 x2 x3 x4) = some (a, y)) : y.dev.clock = x0.dev.clock := by
  unfold Eff.copyPage at h
  repeat' (first | contradiction | (split at h) | (dsimp only at h; split at h) | (cases h))
  all_goals
   (repeat' (first | with_reducible rfl | with_reducible refine (Eff.newPage_clock (by assumption)).trans ?_
                     | with_reducible refine (Eff.ops_clock ..).trans ?_))

theorem Eff.tailCopy_clock (x0 : Eff) (x1 : Mem) (x2 : Job) (x3 : Nat → Nat) (x4 : Nat) (x5 : PartId) : (Eff.tailCopy
    x0 x1 x2 x3 x4 x5).dev.clock = x0.dev.clock := by
  unfold Eff.tailCopy
  repeat' (first | with_reducible rfl | with_reducible refine (Eff.failPart_clock ..).trans ?_
                 | with_reducible refine (Eff.copyPage_clock (by assumption)).trans ?_
                 | with_reducible refine (Eff.readLines_clock ..).trans ?_
                 | with_reducible refine (Dev.modRound_clock ..).trans ?_ | split
                 | dsimp only [Dev.clock, Eff.mod, Eff.ops, Dev.eff])

theorem Eff.tailCopies_clock (x0 : Eff) (x1 : Mem) (x2 : Job) (x3 : Phase) (x4 : List Member) : (Eff.tailCopies x0 x1
    x2 x3 x4).dev.clock = x0.dev.clock := by
  unfold Eff.tailCopies
  repeat' (first | with_reducible rfl | with_reducible refine (Eff.tailCopy_clock ..).trans ?_
                 | with_reducible refine (foldl_keep (fun e : Eff => e.dev.clock) (fun _ _ => ?_) _ _).trans ?_
                 | split)

theorem State.beginStep_clock (x0 : State) (x1 : Nat) : (State.beginStep x0 x1).dev.clock = x0.dev.clock := by
  unfold State.beginStep
  repeat' (first | with_reducible rfl | with_reducible refine (Dev.modRound_clock ..).trans ?_
                 | with_reducible refine (State.apply_clock ..).trans ?_
                 | with_reducible refine (Eff.writeOut_clock ..).trans ?_
                 | with_reducible refine (Eff.beginStates_clock ..).trans ?_
                 | with_reducible refine (Eff.copyTime_clock ..).trans ?_
                 | with_reducible refine (Eff.tailCopies_clock ..).trans ?_ | split
                 | dsimp only [Dev.clock, Eff.mod, Eff.ops, Dev.eff])

theorem Dev.dropWait_clock (x0 : Dev) (x1 : Nat) (x2 : Nat) : (Dev.dropWait x0 x1 x2).clock = x0.clock := by
  unfold Dev.dropWait
  repeat' (first | with_reducible rfl | with_reducible refine (Dev.modPart_clock ..).trans ?_)

theorem Dev.dropPacket_clock (x0 : Dev) (x1 : Nat) (x2 : Nat) : (Dev.dropPacket x0 x1 x2).clock = x0.clock := by
  unfold Dev.dropPacket
  repeat' (first | with_reducible rfl | with_reducible refine (Dev.modPart_clock ..).trans ?_)

theorem Dev.poisonObject_clock (x0 : Dev) (x1 : Nat) : (Dev.poisonObject x0 x1).clock = x0.clock := rfl

theorem Dev.failPosted_clock (x0 : Dev) (x1 : Nat) (x2 : Packet) (x3 : Code) : (Dev.failPosted x0 x1 x2 x3).clock =
    x0.clock := by
  unfold Dev.failPosted
  repeat' (first | with_reducible rfl | with_reducible refine (Dev.notify_clock ..).trans ?_
                 | with_reducible refine (Dev.modPart_clock ..).trans ?_
                 | with_reducible refine (Dev.poisonObject_clock ..).trans ?_ | split)

theorem Dev.dropFlight_clock (x0 : Dev) (x1 : Nat) (x2 : Nat) : (Dev.dropFlight x0 x1 x2).clock = x0.clock := by
  unfold Dev.dropFlight
  repeat' (first | with_reducible rfl | with_reducible refine (Dev.modPart_clock ..).trans ?_)

theorem Dev.markDone_clock (x0 : Dev) (x1 : Nat) (x2 : Nat) : (Dev.markDone x0 x1 x2).clock = x0.clock := by
  unfold Dev.markDone
  repeat' (first | with_reducible rfl | with_reducible refine (Dev.modPart_clock ..).trans ?_)

theorem Dev.emit_clock (x0 : Dev) (x1 : Nat) (x2 : Response) : (Dev.emit x0 x1 x2).clock = x0.clock := by
  unfold Dev.emit
  repeat' (first | with_reducible rfl | with_reducible refine (Dev.modPart_clock ..).trans ?_)

theorem Dev.complete_clock (x0 : Dev) (x1 : Nat) (x2 : Packet) (x3 : Code) (x4 : Nat) (x5 : Sys2Proof.Bytes) :
    (Dev.complete x0 x1 x2 x3 x4 x5).clock = x0.clock := by
  unfold Dev.complete
  repeat' (first | with_reducible rfl | with_reducible refine (Dev.dropWait_clock ..).trans ?_
                 | with_reducible refine (Dev.dropPacket_clock ..).trans ?_
                 | with_reducible refine (Dev.failPosted_clock ..).trans ?_
                 | with_reducible refine (Dev.dropFlight_clock ..).trans ?_
                 | with_reducible refine (Dev.markDone_clock ..).trans ?_
                 | with_reducible refine (Dev.emit_clock ..).trans ?_
                 | with_reducible refine (foldl_keep Dev.clock (fun _ _ => ?_) _ _).trans ?_ | split)

theorem Dev.completeTag_clock (x0 : Dev) (x1 : Nat) (x2 : Nat) (x3 : Code) (x4 : Nat) (x5 : Sys2Proof.Bytes) :
    (Dev.completeTag x0 x1 x2 x3 x4 x5).clock = x0.clock := by
  unfold Dev.completeTag
  repeat' (first | with_reducible rfl | with_reducible refine (Dev.complete_clock ..).trans ?_ | split)

theorem Eff.forkCopy_clock {x0 : Eff} {x1 : Mem} {x2 : Job} {x3 : PageFrame} {a : _} {y : Eff} (h : (Eff.forkCopy x0
    x1 x2 x3) = some (a, y)) : y.dev.clock = x0.dev.clock := by
  unfold Eff.forkCopy at h
  split at h
  · cases h
  · rw [Option.map_eq_some_iff] at h
    obtain ⟨⟨u, v⟩, hx, hy⟩ := h
    cases hy
    have t := Eff.copyPage_clock hx
    exact (Dev.modRound_clock ..).trans ((Eff.readLines_clock ..).trans t)

theorem Eff.shareList_clock (x0 : Eff) (x1 : Mem) (x2 : Job) (x3 : Nat) (x4 : PartId) (x5 : List Nat) :
    (Eff.shareList x0 x1 x2 x3 x4 x5).1.dev.clock = x0.dev.clock := by
  induction x5 generalizing x0 with
  | nil => exact rfl
  | cons n ns ih =>
    simp only [Eff.shareList]
    split
    · exact rfl
    · split
      · exact (ih _).trans (Dev.modRound_clock ..)
      · split
        · have t := Eff.forkCopy_clock (by assumption)
          exact (ih _).trans t
        · have t := x0.failPart_clock
          exact (ih _).trans (t ..)

theorem Eff.shareKv_clock (x0 : Eff) (x1 : Mem) (x2 : Job) (x3 : PartId) (x4 : List KvList) : (Eff.shareKv x0 x1 x2
    x3 x4).1.dev.clock = x0.dev.clock := by
  unfold Eff.shareKv
  repeat' (first | with_reducible rfl | with_reducible refine (Eff.shareList_clock ..).trans ?_
                 | with_reducible refine (foldl_keep (fun e : Eff × _ => e.1.dev.clock) (fun _ _ => ?_) _ _).trans ?_)

theorem Eff.makeChild_clock (x0 : Eff) (x1 : Job) (x2 : View) (x3 : Future) (x4 : Option (StreamEntry × List Nat))
    (x5 : ChildEntry) : (Eff.makeChild x0 x1 x2 x3 x4 x5).dev.clock = x0.dev.clock := by
  unfold Eff.makeChild
  split
  · exact rfl
  · have k : ∀ (e : Eff) (b : Bool) (f : Eff), f.dev.clock = e.dev.clock →
        (((if b then e.needDir x1 none else none).map Prod.snd).getD f).dev.clock = e.dev.clock := by
      intro e b f hf
      cases b with
      | false => exact hf
      | true =>
        cases h : e.needDir x1 none with
        | none => simpa [h] using hf
        | some y => simpa [h] using Eff.needDir_clock h
    have k0 : ∀ (f : Dev → Dev) (g : Dev → Dev), (∀ d, (f d).clock = d.clock) →
        (∀ d, (g d).clock = d.clock) → ∀ mm w kv,
        (((x0.shareKv mm x1 w kv).1.mod f).mod g).dev.clock = x0.dev.clock := by
      intro f g hf hg mm w kv
      have t := x0.shareKv_clock mm x1 w kv
      exact (hg _).trans ((hf _).trans t)
    dsimp only
    split
    · refine k0 _ _ (fun _ => Dev.modRound_clock ..) (fun d => ?_) _ _ _
      exact (Dev.modRound_clock ..).trans (Dev.stageCells_clock ..)
    · rename_i s objs
      generalize hq : Eff.mod (Eff.mod _ _) _ = q
      have hk : q.dev.clock = x0.dev.clock := by
        rw [← hq]
        refine k0 _ _ (fun _ => Dev.modRound_clock ..) (fun d => ?_) _ _ _
        exact (Dev.modRound_clock ..).trans (Dev.stageCells_clock ..)
      have m : ∀ (e : Eff) (j : Nat) (f : Eff → Round → Round), (e.mod (fun d => d.modRound j (f e))).dev.clock = e.dev.clock :=
        fun e j f => Dev.modRound_clock ..
      have kk : ∀ (b b' : Bool) (o : Option (Nat × Eff)), o = (if b then q.needDir x1 none else none) → ∀ f : Eff, f.dev.clock = q.dev.clock →
          (if b' then f else (o.map Prod.snd).getD q).dev.clock = x0.dev.clock := by
        intro b b' o ho f hf
        subst ho
        split
        · exact hf.trans hk
        · have t := k q b q rfl
          exact t.trans hk
      have t := kk s.dir.isSome (s.dir.isSome && (Option.isNone (if s.dir.isSome then q.needDir x1 none else none))) _ rfl
        (q.failPart x1.id (some ⟨false, x5.child⟩) .noRoom (x1.recHomes.headD 0 / 2)) (Eff.failPart_clock ..)
      exact (Dev.modRound_clock ..).trans t

theorem State.applyFork_clock (x0 : State) (x1 : Nat) (x2 : ForkIn) : (State.applyFork x0 x1 x2).dev.clock =
    x0.dev.clock := by
  unfold State.applyFork
  repeat' (first | with_reducible rfl | with_reducible refine (State.withDev_clock ..).trans ?_
                 | with_reducible refine (Dev.completeTag_clock ..).trans ?_
                 | with_reducible refine (Dev.modRound_clock ..).trans ?_
                 | with_reducible refine (State.apply_clock ..).trans ?_
                 | with_reducible refine (Eff.makeChild_clock ..).trans ?_
                 | with_reducible refine (foldl_keep (fun e : Eff => e.dev.clock) (fun _ _ => ?_) _ _).trans ?_
                 | split | dsimp only [Dev.clock, Eff.mod, Eff.ops, Dev.eff])

theorem State.applyForks_clock (x0 : State) (x1 : Nat) : (State.applyForks x0 x1).dev.clock = x0.dev.clock := by
  unfold State.applyForks
  repeat' (first | with_reducible rfl | with_reducible refine (State.withDev_clock ..).trans ?_
                 | with_reducible refine (Dev.modJob_clock ..).trans ?_
                 | with_reducible refine (State.applyFork_clock ..).trans ?_
                 | with_reducible refine (Dev.modRound_clock ..).trans ?_
                 | with_reducible refine (foldl_keep (fun e : State => e.dev.clock) (fun _ _ => ?_) _ _).trans ?_
                 | split)

theorem Dev.dropAct_clock (x0 : Dev) (x1 : Nat) : (Dev.dropAct x0 x1).clock = x0.clock := rfl

theorem Dev.startClosing_clock (x0 : Dev) (x1 : Nat) : (Dev.startClosing x0 x1).clock = x0.clock := by
  unfold Dev.startClosing
  repeat' (first | with_reducible rfl | with_reducible refine (Dev.startPattern_clock ..).trans ?_ | split)

theorem State.endRound_clock (x0 : State) (x1 : Nat) : (State.endRound x0 x1).dev.clock = x0.dev.clock := by
  unfold State.endRound
  repeat' (first | with_reducible rfl | with_reducible refine (State.apply_clock ..).trans ?_
                 | with_reducible refine (Eff.flushWhere_clock ..).trans ?_
                 | with_reducible refine (Dev.dropAct_clock ..).trans ?_
                 | with_reducible refine (Dev.modRound_clock ..).trans ?_
                 | with_reducible refine (State.withDev_clock ..).trans ?_
                 | with_reducible refine (Dev.startClosing_clock ..).trans ?_
                 | with_reducible refine (foldl_keep Dev.clock (fun _ _ => ?_) _ _).trans ?_ | split
                 | dsimp only [Dev.clock, Eff.mod, Eff.ops, Dev.eff])

theorem State.roundAction_clock {x0 : State} {x1 : Job} {x2 : Round} {y : State} (h : (State.roundAction x0 x1 x2) =
    some y) : y.dev.clock = x0.dev.clock := by
  unfold State.roundAction at h
  repeat' (first | contradiction | (split at h) | (dsimp only at h; split at h) | (cases h))
  all_goals
   (repeat' (first | with_reducible rfl | with_reducible refine (State.startInst_clock ..).trans ?_
                     | with_reducible refine (State.endStep_clock ..).trans ?_
                     | with_reducible refine (State.beginStep_clock ..).trans ?_
                     | with_reducible refine (State.applyForks_clock ..).trans ?_
                     | with_reducible refine (State.endRound_clock ..).trans ?_))

theorem State.advanceRound_clock (x0 : Nat) (x1 : State) (x2 : Nat) : (State.advanceRound x0 x1 x2).dev.clock =
    x1.dev.clock := by
  induction x0 generalizing x1 with
  | zero => exact rfl
  | succ n ih =>
    simp only [State.advanceRound]
    split
    · exact rfl
    · split
      · have t := State.roundAction_clock (by assumption)
        exact (ih _).trans t
      · exact rfl

theorem State.runJob_clock (x0 : State) (x1 : Nat) : (State.runJob x0 x1).dev.clock = x0.dev.clock := by
  unfold State.runJob
  repeat' (first | with_reducible rfl | with_reducible refine (State.advanceRound_clock ..).trans ?_ | split)

theorem State.runRounds_clock (x0 : State) : (State.runRounds x0).dev.clock = x0.dev.clock := by
  unfold State.runRounds
  repeat' (first | with_reducible rfl | with_reducible refine (State.runJob_clock ..).trans ?_
                 | with_reducible refine (foldl_keep (fun e : State => e.dev.clock) (fun _ _ => ?_) _ _).trans ?_)

theorem Dev.requestTest_clock (x0 : Dev) (x1 : Nat) (x2 : Nat) : (Dev.requestTest x0 x1 x2).clock = x0.clock := by
  unfold Dev.requestTest
  repeat' (first | with_reducible rfl | with_reducible refine (Dev.modRegion_clock ..).trans ?_)

theorem Dev.raise_clock (x0 : Dev) (x1 : Nat) (x2 : Nat) : (Dev.raise x0 x1 x2).clock = x0.clock := rfl

theorem Dev.count_clock (x0 : Dev) (x1 : Nat) (x2 : Nat) (x3 : Nat) : (Dev.count x0 x1 x2 x3).clock = x0.clock := rfl

theorem Dev.unresolved_clock (x0 : Dev) (x1 : ItemEnd) (x2 : Vote) : (Dev.unresolved x0 x1 x2).clock = x0.clock := by
  unfold Dev.unresolved
  repeat' (first | with_reducible rfl | with_reducible refine (Dev.requestTest_clock ..).trans ?_
                 | with_reducible refine (Dev.modRound_clock ..).trans ?_
                 | with_reducible refine (Dev.raise_clock ..).trans ?_
                 | with_reducible refine (Dev.count_clock ..).trans ?_
                 | with_reducible refine (foldl_keep Dev.clock (fun _ _ => ?_) _ _).trans ?_)

theorem State.releaseVote_clock (x0 : State) (x1 : Job) (x2 : Round) (x3 : Inst) (x4 : Vote) : (State.releaseVote x0
    x1 x2 x3 x4).dev.clock = x0.dev.clock := by
  unfold State.releaseVote
  repeat' (first | with_reducible rfl | with_reducible refine (State.withDev_clock ..).trans ?_
                 | with_reducible refine (Dev.unresolved_clock ..).trans ?_
                 | with_reducible refine (Dev.count_clock ..).trans ?_
                 | with_reducible refine (Dev.modRound_clock ..).trans ?_ | split)

theorem State.releaseVotes_clock (x0 : State) : (State.releaseVotes x0).dev.clock = x0.dev.clock := by
  unfold State.releaseVotes
  repeat' (first | with_reducible rfl | with_reducible refine (State.settleInst_clock ..).trans ?_
                 | with_reducible refine (State.releaseVote_clock ..).trans ?_
                 | with_reducible refine (foldl_keep (fun e : State => e.dev.clock) (fun _ _ => ?_) _ _).trans ?_
                 | split | dsimp only [Dev.clock, Eff.mod, Eff.ops, Dev.eff])

theorem Dev.giveStack_clock (x0 : Dev) (x1 : Nat) (x2 : Nat) : (Dev.giveStack x0 x1 x2).clock = x0.clock := rfl

theorem Eff.freeLines_clock (x0 : Eff) (x1 : Nat) (x2 : Nat) (x3 : Nat) : (Eff.freeLines x0 x1 x2 x3).dev.clock =
    x0.dev.clock := by
  unfold Eff.freeLines
  repeat' (first | with_reducible rfl | with_reducible refine (Eff.ops_clock ..).trans ?_
                 | with_reducible refine (Dev.giveStack_clock ..).trans ?_
                 | dsimp only [Dev.clock, Eff.mod, Eff.ops, Dev.eff])

theorem Dev.giveStratus_clock (x0 : Dev) (x1 : Nat) : (Dev.giveStratus x0 x1).clock = x0.clock := rfl

theorem Eff.freeUnits_clock (x0 : Eff) (x1 : Nat) (x2 : Nat) : (Eff.freeUnits x0 x1 x2).dev.clock = x0.dev.clock := by
  unfold Eff.freeUnits
  repeat' (first | with_reducible rfl | with_reducible refine (Eff.ops_clock ..).trans ?_
                 | with_reducible refine (Dev.giveStratus_clock ..).trans ?_
                 | dsimp only [Dev.clock, Eff.mod, Eff.ops, Dev.eff])

theorem Eff.freeObj_clock (x0 : Eff) (x1 : Nat) : (Eff.freeObj x0 x1).dev.clock = x0.dev.clock := by
  unfold Eff.freeObj
  repeat' (first | with_reducible rfl | with_reducible refine (Eff.freeLines_clock ..).trans ?_
                 | with_reducible refine (Dev.setObj_clock ..).trans ?_
                 | with_reducible refine (Eff.freeUnits_clock ..).trans ?_ | split
                 | dsimp only [Dev.clock, Eff.mod, Eff.ops, Dev.eff])

theorem Eff.freePage_clock (x0 : Eff) (x1 : Nat) : (Eff.freePage x0 x1).dev.clock = x0.dev.clock := by
  unfold Eff.freePage
  repeat' (first | with_reducible rfl | with_reducible refine (Eff.freeLines_clock ..).trans ?_
                 | with_reducible refine (Dev.setFrame_clock ..).trans ?_
                 | with_reducible refine (Eff.freeUnits_clock ..).trans ?_ | split
                 | dsimp only [Dev.clock, Eff.mod, Eff.ops, Dev.eff])

theorem Eff.freeDir_clock (x0 : Eff) (x1 : Nat) : (Eff.freeDir x0 x1).dev.clock = x0.dev.clock := by
  unfold Eff.freeDir
  repeat' (first | with_reducible rfl | with_reducible refine (Eff.freeLines_clock ..).trans ?_ | split
                 | dsimp only [Dev.clock, Eff.mod, Eff.ops, Dev.eff])

theorem Eff.discard_clock (x0 : Eff) (x1 : Round) : (Eff.discard x0 x1).dev.clock = x0.dev.clock := by
  unfold Eff.discard
  repeat' (first | with_reducible rfl | with_reducible refine (Eff.freeObj_clock ..).trans ?_
                 | with_reducible refine (Eff.freePage_clock ..).trans ?_
                 | with_reducible refine (Eff.freeDir_clock ..).trans ?_
                 | with_reducible refine (foldl_keep (fun e : Eff => e.dev.clock) (fun _ _ => ?_) _ _).trans ?_)

theorem Dev.account_clock (x0 : Dev) (x1 : Nat) (x2 : Nat) (x3 : Nat) : (Dev.account x0 x1 x2 x3).clock = x0.clock :=
    by
  unfold Dev.account
  repeat' (first | with_reducible rfl | with_reducible refine (Dev.count_clock ..).trans ?_)

theorem Dev.cellBusy_clock (x0 : Dev) (x1 : Job) (x2 : Role) (x3 : Nat) : (Dev.cellBusy x0 x1 x2 x3).clock = x0.clock
    := by
  unfold Dev.cellBusy
  repeat' (first | with_reducible rfl | with_reducible refine (Dev.modJob_clock ..).trans ?_
                 | with_reducible refine (Dev.count_clock ..).trans ?_
                 | with_reducible refine (Dev.account_clock ..).trans ?_ | split)

theorem Dev.credit_clock (x0 : Dev) (x1 : Job) (x2 : Nat) (x3 : Nat) : (Dev.credit x0 x1 x2 x3).clock = x0.clock := by
  unfold Dev.credit
  repeat' (first | with_reducible rfl | with_reducible refine (Dev.modJob_clock ..).trans ?_
                 | with_reducible refine (Dev.modPart_clock ..).trans ?_)

theorem Dev.stopCell_clock (x0 : Dev) (x1 : Nat) : (Dev.stopCell x0 x1).clock = x0.clock := by
  unfold Dev.stopCell
  repeat' (first | with_reducible rfl | with_reducible refine (Dev.modCell_clock ..).trans ?_
                 | with_reducible refine (Dev.cellBusy_clock ..).trans ?_
                 | with_reducible refine (Dev.credit_clock ..).trans ?_ | split
                 | dsimp only [Dev.clock, Eff.mod, Eff.ops, Dev.eff])

theorem Dev.engineBusy_clock (x0 : Dev) (x1 : Job) (x2 : Role) (x3 : Nat) : (Dev.engineBusy x0 x1 x2 x3).clock =
    x0.clock := by
  unfold Dev.engineBusy
  repeat' (first | with_reducible rfl | with_reducible refine (Dev.modJob_clock ..).trans ?_
                 | with_reducible refine (Dev.count_clock ..).trans ?_
                 | with_reducible refine (Dev.account_clock ..).trans ?_ | split)

theorem Dev.stopEngine_clock (x0 : Dev) (x1 : Nat) : (Dev.stopEngine x0 x1).clock = x0.clock := by
  unfold Dev.stopEngine
  repeat' (first | with_reducible rfl | with_reducible refine (Dev.modEngine_clock ..).trans ?_
                 | with_reducible refine (Dev.engineBusy_clock ..).trans ?_
                 | with_reducible refine (Dev.credit_clock ..).trans ?_ | split
                 | dsimp only [Dev.clock, Eff.mod, Eff.ops, Dev.eff])

theorem Dev.stopJob_clock (x0 : Dev) (x1 : Nat) : (Dev.stopJob x0 x1).clock = x0.clock := by
  unfold Dev.stopJob
  repeat' (first | with_reducible rfl | with_reducible refine (Dev.stopCell_clock ..).trans ?_
                 | with_reducible refine (Dev.stopEngine_clock ..).trans ?_
                 | with_reducible refine (foldl_keep Dev.clock (fun _ _ => ?_) _ _).trans ?_)

theorem Dev.endChunks_clock (x0 : Dev) (x1 : Nat) (x2 : Chunk → Bool) (x3 : Code) : (Dev.endChunks x0 x1 x2 x3).clock
    = x0.clock := by
  unfold Dev.endChunks
  repeat' (first | with_reducible rfl | with_reducible refine (Dev.modPart_clock ..).trans ?_
                 | with_reducible refine (Dev.completeTag_clock ..).trans ?_
                 | with_reducible refine (foldl_keep Dev.clock (fun _ _ => ?_) _ _).trans ?_)

theorem Dev.endRoundChunks_clock (x0 : Dev) (x1 : Nat) (x2 : Round) (x3 : Code) (x4 : List (PartId × Code)) :
    (Dev.endRoundChunks x0 x1 x2 x3 x4).clock = x0.clock := by
  unfold Dev.endRoundChunks
  repeat' (first | with_reducible rfl | with_reducible refine (Dev.endChunks_clock ..).trans ?_
                 | with_reducible refine (Dev.completeTag_clock ..).trans ?_
                 | with_reducible refine (foldl_keep Dev.clock (fun _ _ => ?_) _ _).trans ?_ | split
                 | dsimp only [Dev.clock, Eff.mod, Eff.ops, Dev.eff])

theorem Dev.endCommands_clock (x0 : Dev) (x1 : Job) (x2 : Round) (x3 : Code) (x4 : List (PartId × Code)) :
    (Dev.endCommands x0 x1 x2 x3 x4).clock = x0.clock := by
  unfold Dev.endCommands
  repeat' (first | with_reducible rfl | with_reducible refine (Dev.completeTag_clock ..).trans ?_
                 | with_reducible refine (foldl_keep Dev.clock (fun _ _ => ?_) _ _).trans ?_)

theorem Dev.roundResponse_clock (x0 : Dev) (x1 : Job) (x2 : Code) (x3 : Nat) (x4 : Bool) (x5 : Nat) (x6 : List
    (PartId × Code)) : (Dev.roundResponse x0 x1 x2 x3 x4 x5 x6).clock = x0.clock := by
  unfold Dev.roundResponse
  repeat' (first | with_reducible rfl | with_reducible refine (Dev.emit_clock ..).trans ?_
                 | with_reducible refine (foldl_keep Dev.clock (fun _ _ => ?_) _ _).trans ?_)

theorem Eff.failRound_clock (x0 : Eff) (x1 : Nat) (x2 : Code) (x3 : Nat) (x4 : List (PartId × Code)) : (Eff.failRound
    x0 x1 x2 x3 x4).dev.clock = x0.dev.clock := by
  have h := (x0.failRound_calm x1 x2 x3 x4).1
  exact (congrArg Dev.clock h :)

theorem Eff.quiesce_clock (x0 : Eff) (x1 : Nat) : (Eff.quiesce x0 x1).dev.clock = x0.dev.clock := by
  unfold Eff.quiesce
  repeat' (first | with_reducible rfl | with_reducible refine (Eff.failRound_clock ..).trans ?_
                 | with_reducible refine (Dev.modPart_clock ..).trans ?_
                 | with_reducible refine (foldl_keep (fun e : Eff => e.dev.clock) (fun _ _ => ?_) _ _).trans ?_
                 | dsimp only [Dev.clock, Eff.mod, Eff.ops, Dev.eff])

theorem Dev.vector_clock (x0 : Dev) (x1 : Nat) (x2 : Nat) : (Dev.vector x0 x1 x2).clock = x0.clock := by
  unfold Dev.vector
  repeat' (first | with_reducible rfl | with_reducible refine (Dev.modPart_clock ..).trans ?_)

theorem Dev.flareIgnore_clock (x0 : Dev) (x1 : Nat) (x2 : Nat) : (Dev.flareIgnore x0 x1 x2).clock = x0.clock := by
  unfold Dev.flareIgnore
  repeat' (first | with_reducible rfl | with_reducible refine (Dev.modPart_clock ..).trans ?_)

theorem Eff.flareOverflow_clock (x0 : Eff) (x1 : Nat) : (Eff.flareOverflow x0 x1).dev.clock = x0.dev.clock := by
  unfold Eff.flareOverflow
  repeat' (first | with_reducible rfl | with_reducible refine (Eff.quiesce_clock ..).trans ?_
                 | with_reducible refine (Dev.modPart_clock ..).trans ?_
                 | with_reducible refine (Dev.vector_clock ..).trans ?_
                 | with_reducible refine (Dev.flareIgnore_clock ..).trans ?_ | split
                 | dsimp only [Dev.clock, Eff.mod, Eff.ops, Dev.eff])

theorem Eff.freeHomes_clock (x0 : Eff) (x1 : Job) : (Eff.freeHomes x0 x1).dev.clock = x0.dev.clock := by
  unfold Eff.freeHomes
  repeat' (first | with_reducible rfl | with_reducible refine (Eff.freeLines_clock ..).trans ?_
                 | with_reducible refine (Eff.ops_clock ..).trans ?_
                 | with_reducible refine (foldl_keep (fun e : Eff => e.dev.clock) (fun _ _ => ?_) _ _).trans ?_
                 | split | dsimp only [Dev.clock, Eff.mod, Eff.ops, Dev.eff])

theorem Eff.dropPage_clock (x0 : Eff) (x1 : Nat) : (Eff.dropPage x0 x1).dev.clock = x0.dev.clock := by
  unfold Eff.dropPage
  repeat' (first | with_reducible rfl | with_reducible refine (Eff.freePage_clock ..).trans ?_
                 | with_reducible refine (Dev.setFrame_clock ..).trans ?_ | split
                 | dsimp only [Dev.clock, Eff.mod, Eff.ops, Dev.eff])

theorem Eff.stopRecall_clock (x0 : Eff) (x1 : Nat) : (Eff.stopRecall x0 x1).dev.clock = x0.dev.clock := by
  unfold Eff.stopRecall
  repeat' (first | with_reducible rfl | with_reducible refine (Eff.freeLines_clock ..).trans ?_
                 | with_reducible refine (Dev.setObj_clock ..).trans ?_
                 | with_reducible refine (foldl_keep Dev.clock (fun _ _ => ?_) _ _).trans ?_
                 | with_reducible refine (foldl_keep (fun e : Eff => e.dev.clock) (fun _ _ => ?_) _ _).trans ?_
                 | split | dsimp only [Dev.clock, Eff.mod, Eff.ops, Dev.eff])

theorem Eff.dropObj_clock (x0 : Eff) (x1 : Nat) : (Eff.dropObj x0 x1).dev.clock = x0.dev.clock := by
  unfold Eff.dropObj
  repeat' (first | with_reducible rfl | with_reducible refine (Eff.freeObj_clock ..).trans ?_
                 | with_reducible refine (Dev.setObj_clock ..).trans ?_ | split
                 | dsimp only [Dev.clock, Eff.mod, Eff.ops, Dev.eff])

theorem Dev.noteFreed_clock (x0 : Dev) (x1 : Nat) (x2 : Nat) : (Dev.noteFreed x0 x1 x2).clock = x0.clock := by
  unfold Dev.noteFreed
  repeat' (first | with_reducible rfl | with_reducible refine (Dev.modJob_clock ..).trans ?_)

theorem Eff.freeStream_clock (x0 : Eff) (x1 : Nat) : (Eff.freeStream x0 x1).dev.clock = x0.dev.clock := by
  unfold Eff.freeStream
  repeat' (first | with_reducible rfl | with_reducible refine (Eff.stopRecall_clock ..).trans ?_
                 | with_reducible refine (Eff.dropObj_clock ..).trans ?_
                 | with_reducible refine (Eff.freeDir_clock ..).trans ?_
                 | with_reducible refine (Dev.noteFreed_clock ..).trans ?_
                 | with_reducible refine (foldl_keep (fun e : Eff => e.dev.clock) (fun _ _ => ?_) _ _).trans ?_
                 | split | dsimp only [Dev.clock, Eff.mod, Eff.ops, Dev.eff])

theorem Eff.freeFutures_clock (x0 : Eff) (x1 : Job) : (Eff.freeFutures x0 x1).dev.clock = x0.dev.clock := by
  unfold Eff.freeFutures
  repeat' (first | with_reducible rfl | with_reducible refine (Eff.dropPage_clock ..).trans ?_
                 | with_reducible refine (Eff.freeStream_clock ..).trans ?_
                 | with_reducible refine (foldl_keep (fun e : Eff => e.dev.clock) (fun _ _ => ?_) _ _).trans ?_)

theorem Dev.endHosts_clock (x0 : Dev) (x1 : Nat) (x2 : Bool) : (Dev.endHosts x0 x1 x2).clock = x0.clock := rfl

theorem Eff.endJob_clock (x0 : Eff) (x1 : Nat) (x2 : Code) (x3 : Code) : (Eff.endJob x0 x1 x2 x3).dev.clock =
    x0.dev.clock := by
  have h := (x0.endJob_calm x1 x2 x3).1
  exact (congrArg Dev.clock h :)

theorem Eff.abortJob_clock (x0 : Eff) (x1 : Nat) : (Eff.abortJob x0 x1).dev.clock = x0.dev.clock := by
  unfold Eff.abortJob
  repeat' (first | with_reducible rfl | with_reducible refine (Dev.modJob_clock ..).trans ?_
                 | with_reducible refine (Eff.endJob_clock ..).trans ?_ | split
                 | dsimp only [Dev.clock, Eff.mod, Eff.ops, Dev.eff])

theorem Dev.setStream_clock (x0 : Dev) (x1 : Nat) (x2 : StreamEntry) : (Dev.setStream x0 x1 x2).clock = x0.clock :=
    rfl

theorem Dev.countQueue_clock (x0 : Dev) (x1 : Nat) : (Dev.countQueue x0 x1).clock = x0.clock := by
  unfold Dev.countQueue
  repeat' (first | with_reducible rfl | with_reducible refine (Dev.setStream_clock ..).trans ?_ | split)

theorem Dev.dropQueue_clock (x0 : Dev) (x1 : Nat) : (Dev.dropQueue x0 x1).clock = x0.clock := by
  unfold Dev.dropQueue
  repeat' (first | with_reducible rfl | with_reducible refine (Dev.completeTag_clock ..).trans ?_
                 | with_reducible refine (Dev.endChunks_clock ..).trans ?_
                 | with_reducible refine (Dev.countQueue_clock ..).trans ?_
                 | with_reducible refine (Dev.modPart_clock ..).trans ?_
                 | with_reducible refine (foldl_keep Dev.clock (fun _ _ => ?_) _ _).trans ?_)

theorem Eff.stopAction_clock (x0 : Eff) (x1 : Nat) (x2 : Nat) (x3 : Nat) : (Eff.stopAction x0 x1 x2 x3).dev.clock =
    x0.dev.clock := by
  unfold Eff.stopAction
  repeat' (first | with_reducible rfl | with_reducible refine (Eff.quiesce_clock ..).trans ?_
                 | with_reducible refine (Eff.abortJob_clock ..).trans ?_
                 | with_reducible refine (Dev.dropQueue_clock ..).trans ?_ | split
                 | dsimp only [Dev.clock, Eff.mod, Eff.ops, Dev.eff])

theorem Eff.flareTake_clock (x0 : Eff) (x1 : Nat) (x2 : Nat) (x3 : Nat) (x4 : Nat) : (Eff.flareTake x0 x1 x2 x3
    x4).dev.clock = x0.dev.clock := by
  unfold Eff.flareTake
  repeat' (first | with_reducible rfl | with_reducible refine (Eff.stopAction_clock ..).trans ?_
                 | with_reducible refine (Dev.vector_clock ..).trans ?_
                 | with_reducible refine (Dev.modPart_clock ..).trans ?_
                 | with_reducible refine (Dev.flareIgnore_clock ..).trans ?_ | split
                 | dsimp only [Dev.clock, Eff.mod, Eff.ops, Dev.eff])

theorem Eff.flareBatch_clock (x0 : Eff) : (Eff.flareBatch x0).dev.clock = x0.dev.clock := by
  unfold Eff.flareBatch
  repeat' (first | with_reducible rfl | with_reducible refine (Dev.modPart_clock ..).trans ?_
                 | with_reducible refine (Eff.flareOverflow_clock ..).trans ?_
                 | with_reducible refine (Eff.flareTake_clock ..).trans ?_
                 | with_reducible refine (foldl_keep (fun e : Eff => e.dev.clock) (fun _ _ => ?_) _ _).trans ?_
                 | dsimp only [Dev.clock, Eff.mod, Eff.ops, Dev.eff])

theorem State.flare_clock (x0 : State) : (State.flare x0).dev.clock = x0.dev.clock := by
  unfold State.flare
  repeat' (first | with_reducible rfl | with_reducible refine (State.apply_clock ..).trans ?_
                 | with_reducible refine (Eff.flareBatch_clock ..).trans ?_
                 | with_reducible refine (Dev.eff_clock ..).trans ?_)

theorem Dev.modStack_clock (x0 : Dev) (x1 : Nat) (x2 : Stack → Stack) : (Dev.modStack x0 x1 x2).clock = x0.clock :=
    rfl

theorem Dev.endWindow_clock (x0 : Dev) (x1 : Nat) : (Dev.endWindow x0 x1).clock = x0.clock := by
  unfold Dev.endWindow
  repeat' (first | with_reducible rfl | with_reducible refine (Dev.modStack_clock ..).trans ?_
                 | with_reducible refine (Dev.account_clock ..).trans ?_ | split
                 | dsimp only [Dev.clock, Eff.mod, Eff.ops, Dev.eff])

theorem Dev.closeWindow_clock (x0 : Dev) (x1 : Nat) : (Dev.closeWindow x0 x1).clock = x0.clock := by
  unfold Dev.closeWindow
  repeat' (first | with_reducible rfl | with_reducible refine (Dev.endWindow_clock ..).trans ?_ | split
                 | dsimp only [Dev.clock, Eff.mod, Eff.ops, Dev.eff])

theorem Dev.lateClosings_clock (x0 : Dev) : (Dev.lateClosings x0).clock = x0.clock := by
  unfold Dev.lateClosings
  repeat' (first | with_reducible rfl | with_reducible refine (Dev.startClosing_clock ..).trans ?_
                 | with_reducible refine (foldl_keep Dev.clock (fun _ _ => ?_) _ _).trans ?_ | split)

theorem Dev.dropClosings_clock (x0 : Dev) : (Dev.dropClosings x0).clock = x0.clock := rfl

theorem Dev.roundWaits_clock (x0 : Dev) : (Dev.roundWaits x0).clock = x0.clock := rfl

theorem Dev.pick_clock (x0 : Dev) (x1 : Nat) : (Dev.pick x0 x1).2.clock = x0.clock := by
  unfold Dev.pick
  repeat' (first | with_reducible rfl | with_reducible refine (Dev.free_clock ..).trans ?_)

theorem Dev.takeEntries_clock (x0 : Dev) (x1 : Held) (x2 : List (Nat × Nat)) : (Dev.takeEntries x0 x1 x2).2.clock =
    x0.clock := by
  unfold Dev.takeEntries
  repeat' (first | with_reducible rfl | with_reducible refine (Dev.pick_clock ..).trans ?_
                 | with_reducible refine (foldl_keep (fun e : _ × Dev => e.2.clock) (fun _ _ => ?_) _ _).trans ?_
                 | split | dsimp only [Dev.clock, Eff.mod, Eff.ops, Dev.eff])

theorem Dev.serveHeld_clock {x0 : Dev} {x1 : Held} {a : _} {y : Dev} (h : (Dev.serveHeld x0 x1) = some (a, y)) :
    y.clock = x0.clock := by
  unfold Dev.serveHeld at h
  repeat' (first | contradiction | (split at h) | (dsimp only at h; split at h) | (cases h))
  all_goals
   (repeat' (first | with_reducible rfl | with_reducible refine (Dev.takeEntries_clock ..).trans ?_
                     | with_reducible refine (Dev.stall_clock ..).trans ?_))

theorem Dev.serveEntries_clock (x0 : Dev) : (Dev.serveEntries x0).clock = x0.clock := by
  unfold Dev.serveEntries
  have k : ∀ (o : Option Held) (d : Dev) y, o.bind d.serveHeld = some y → y.2.clock = d.clock := by
    intro o d y h
    cases o with
    | none => cases h
    | some o => exact Dev.serveHeld_clock h
  refine (foldl_keep Dev.clock (fun d n => ?_) _ _).trans (foldl_keep Dev.clock (fun d n => ?_) _ _)
  · split
    · exact k _ _ _ (by assumption)
    · rfl
  · split
    · exact k _ _ _ (by assumption)
    · rfl

theorem Dev.sorterBusy_clock (x0 : Dev) (x1 : Job) (x2 : Nat) : (Dev.sorterBusy x0 x1 x2).clock = x0.clock := by
  unfold Dev.sorterBusy
  repeat' (first | with_reducible rfl | with_reducible refine (Dev.modJob_clock ..).trans ?_
                 | with_reducible refine (Dev.account_clock ..).trans ?_)

theorem Dev.saveSorts_clock (x0 : Dev) (x1 : Nat) (x2 : Nat) (x3 : Nat) : (Dev.saveSorts x0 x1 x2 x3).clock =
    x0.clock := by
  unfold Dev.saveSorts
  repeat' (first | with_reducible rfl | with_reducible refine (Dev.sorterBusy_clock ..).trans ?_
                 | with_reducible refine (Dev.modRound_clock ..).trans ?_
                 | with_reducible refine (foldl_keep Dev.clock (fun _ _ => ?_) _ _).trans ?_ | split
                 | dsimp only [Dev.clock, Eff.mod, Eff.ops, Dev.eff])

theorem Dev.passEntries_clock (x0 : Dev) (x1 : Job) (x2 : OpDesc) : (Dev.passEntries x0 x1 x2).2.clock = x0.clock :=
    by
  unfold Dev.passEntries
  repeat' (first | with_reducible rfl | with_reducible refine (Dev.pick_clock ..).trans ?_
                 | with_reducible refine (foldl_keep (fun e : _ × Dev => e.2.clock) (fun _ _ => ?_) _ _).trans ?_
                 | split)

theorem Dev.charge_clock (x0 : Dev) (x1 : Job) (x2 : Nat) (x3 : Nat) : (Dev.charge x0 x1 x2 x3).clock = x0.clock := by
  unfold Dev.charge
  repeat' (first | with_reducible rfl | with_reducible refine (Dev.modJob_clock ..).trans ?_
                 | with_reducible refine (Dev.modPart_clock ..).trans ?_)

theorem State.offerSorter_clock (x0 : State) (x1 : Nat) : (State.offerSorter x0 x1).clock = x0.dev.clock := by
  unfold State.offerSorter
  repeat' (first | with_reducible rfl | with_reducible refine (Dev.modRound_clock ..).trans ?_
                 | with_reducible refine (Dev.saveSorts_clock ..).trans ?_
                 | with_reducible refine (Dev.sorterBusy_clock ..).trans ?_
                 | with_reducible refine (Dev.passEntries_clock ..).trans ?_
                 | with_reducible refine (Dev.modRegion_clock ..).trans ?_
                 | with_reducible refine (Dev.charge_clock ..).trans ?_ | split
                 | dsimp only [Dev.clock, Eff.mod, Eff.ops, Dev.eff])

theorem State.offerSorters_clock (x0 : State) : (State.offerSorters x0).dev.clock = x0.dev.clock := by
  unfold State.offerSorters
  repeat' (first | with_reducible rfl | with_reducible refine (State.withDev_clock ..).trans ?_
                 | with_reducible refine (State.offerSorter_clock ..).trans ?_
                 | with_reducible refine (foldl_keep (fun e : State => e.dev.clock) (fun _ _ => ?_) _ _).trans ?_
                 | split)

theorem Dev.dropPattern_clock (x0 : Dev) (x1 : Nat) : (Dev.dropPattern x0 x1).clock = x0.clock := by
  unfold Dev.dropPattern
  repeat' (first | with_reducible rfl | with_reducible refine (Dev.modCell_clock ..).trans ?_
                 | with_reducible refine (Dev.count_clock ..).trans ?_
                 | with_reducible refine (Dev.modEngine_clock ..).trans ?_ | split)

theorem Dev.holdWith_clock (x0 : Dev) (x1 : Job) (x2 : Held) (x3 : List Traffic) : (Dev.holdWith x0 x1 x2 x3).2.clock
    = x0.clock := by
  unfold Dev.holdWith
  repeat' (first | with_reducible rfl | with_reducible refine (Dev.takeEntries_clock ..).trans ?_ | split)

theorem State.giveSliceCheck_clock (x0 : State) (x1 : Nat) (x2 : Job) (x3 : Round) (x4 : Inst) (x5 : Vote) (x6 :
    Role) : (State.giveSliceCheck x0 x1 x2 x3 x4 x5 x6).clock = x0.dev.clock := by
  unfold State.giveSliceCheck
  repeat' (first | with_reducible rfl | with_reducible refine (Dev.dropPattern_clock ..).trans ?_
                 | with_reducible refine (Dev.modRound_clock ..).trans ?_
                 | with_reducible refine (Dev.holdWith_clock ..).trans ?_
                 | with_reducible refine (Dev.modEngine_clock ..).trans ?_)

theorem State.giveSlice_clock (x0 : State) (x1 : Nat) (x2 : Job) (x3 : Round) (x4 : Inst) (x5 : Slice) :
    (State.giveSlice x0 x1 x2 x3 x4 x5).clock = x0.dev.clock := by
  unfold State.giveSlice
  repeat' (first | with_reducible rfl | with_reducible refine (Dev.modRound_clock ..).trans ?_
                 | with_reducible refine (Dev.count_clock ..).trans ?_
                 | with_reducible refine (Dev.holdWith_clock ..).trans ?_
                 | with_reducible refine (Dev.modEngine_clock ..).trans ?_
                 | with_reducible refine (Dev.dropPattern_clock ..).trans ?_
                 | with_reducible refine (Dev.charge_clock ..).trans ?_ | split)

theorem State.offerEngine_clock (x0 : State) (x1 : Nat) : (State.offerEngine x0 x1).clock = x0.dev.clock := by
  unfold State.offerEngine
  have k : ∀ (j : Job) (r : Round) (q : Round) (c : Option (Inst × Vote × Role)) (f : Option (Inst × Slice)),
      ((match c with
        | some (x, v, role) => some (x0.giveSliceCheck x1 j r x v role)
        | none => f.map (fun (x : Inst × Slice) => x0.giveSlice x1 j r x.1 x.2)).getD x0.dev).clock = x0.dev.clock := by
    intro j r q c f
    cases c with
    | some c => exact State.giveSliceCheck_clock ..
    | none => cases f with
      | none => exact rfl
      | some f => exact State.giveSlice_clock ..
  dsimp only
  split
  · exact rfl
  · split
    · split
      · split
        · exact k _ _ ‹_› _ _
        · exact rfl
      · exact rfl
    · split
      · exact rfl
      · split
        · exact Dev.startPattern_clock ..
        · split
          · exact rfl
          · split
            · exact k _ _ ‹_› _ _
            · exact rfl

theorem State.offerEngines_clock (x0 : State) : (State.offerEngines x0).dev.clock = x0.dev.clock := by
  unfold State.offerEngines
  repeat' (first | with_reducible rfl | with_reducible refine (State.withDev_clock ..).trans ?_
                 | with_reducible refine (State.offerEngine_clock ..).trans ?_
                 | with_reducible refine (foldl_keep (fun e : State => e.dev.clock) (fun _ _ => ?_) _ _).trans ?_
                 | split)

theorem State.pump_clock (x0 : State) : (State.pump x0).dev.clock = x0.dev.clock := by
  unfold State.pump
  repeat' (first | with_reducible rfl | with_reducible refine (State.runRounds_clock ..).trans ?_
                 | with_reducible refine (State.releaseVotes_clock ..).trans ?_
                 | with_reducible refine (State.flare_clock ..).trans ?_
                 | with_reducible refine (State.withDev_clock ..).trans ?_
                 | with_reducible refine (Dev.closeWindow_clock ..).trans ?_
                 | with_reducible refine (Dev.lateClosings_clock ..).trans ?_
                 | with_reducible refine (Dev.dropClosings_clock ..).trans ?_
                 | with_reducible refine (Dev.roundWaits_clock ..).trans ?_
                 | with_reducible refine (Dev.serveEntries_clock ..).trans ?_
                 | with_reducible refine (State.offerSorters_clock ..).trans ?_
                 | with_reducible refine (State.offerEngines_clock ..).trans ?_
                 | with_reducible refine (foldl_keep Dev.clock (fun _ _ => ?_) _ _).trans ?_)

theorem Dev.arrayError_clock (x0 : Dev) (x1 : Sys2Proof.LineError) : (Dev.arrayError x0 x1).dev.clock = x0.clock := by
  unfold Dev.arrayError
  extract_lets line r
  clear_value line r
  split
  · exact rfl
  · split
    · exact rfl
    · split
      · exact rfl
      · generalize decide (x1.la < cacheLines) = q
        split <;> exact rfl

theorem Dev.laneFails_clock (x0 : Dev) (x1 : Nat) (x2 : Nat) (x3 : Nat) : (Dev.laneFails x0 x1 x2 x3).clock =
    x0.clock := by
  unfold Dev.laneFails
  repeat' (first | with_reducible rfl | with_reducible refine (Dev.modStack_clock ..).trans ?_ | split
                 | dsimp only [Dev.clock, Eff.mod, Eff.ops, Dev.eff])

theorem Dev.laneHit_clock (x0 : Dev) (x1 : Nat) (x2 : Nat) (x3 : Nat) : (Dev.laneHit x0 x1 x2 x3).clock = x0.clock :=
    by
  unfold Dev.laneHit
  repeat' (first | with_reducible rfl | with_reducible refine (Dev.modStack_clock ..).trans ?_
                 | with_reducible refine (Dev.count_clock ..).trans ?_
                 | with_reducible refine (Dev.laneFails_clock ..).trans ?_ | split
                 | dsimp only [Dev.clock, Eff.mod, Eff.ops, Dev.eff])

theorem Eff.endInternal_clock (x0 : Eff) (x1 : Nat) : (Eff.endInternal x0 x1).dev.clock = x0.dev.clock := by
  unfold Eff.endInternal
  repeat' (first | with_reducible rfl | with_reducible refine (Dev.modJob_clock ..).trans ?_
                 | with_reducible refine (Eff.endJob_clock ..).trans ?_ | split
                 | dsimp only [Dev.clock, Eff.mod, Eff.ops, Dev.eff])

theorem Eff.tableFails_clock (x0 : Eff) (x1 : Nat) (x2 : TableLine) : (Eff.tableFails x0 x1 x2).dev.clock =
    x0.dev.clock := by
  unfold Eff.tableFails
  repeat' (first | with_reducible rfl | with_reducible refine (Eff.endInternal_clock ..).trans ?_
                 | with_reducible refine (Dev.raise_clock ..).trans ?_
                 | with_reducible refine (foldl_keep (fun e : Eff => e.dev.clock) (fun _ _ => ?_) _ _).trans ?_
                 | dsimp only [Dev.clock, Eff.mod, Eff.ops, Dev.eff])

theorem Dev.lineError_clock (x0 : Dev) (x1 : Mem) (x2 : Sys2Proof.LineError) : (Dev.lineError x0 x1 x2).dev.clock =
    x0.clock := by
  unfold Dev.lineError
  repeat' (first | with_reducible rfl | with_reducible refine (Dev.arrayError_clock ..).trans ?_
                 | with_reducible refine (Dev.eff_clock ..).trans ?_
                 | with_reducible refine (Dev.laneHit_clock ..).trans ?_
                 | with_reducible refine (Eff.tableFails_clock ..).trans ?_ | split
                 | dsimp only [Dev.clock, Eff.mod, Eff.ops, Dev.eff])

theorem State.meet_clock (x0 : State) (x1 : List Sys2Proof.LineError) : (State.meet x0 x1).dev.clock = x0.dev.clock
    := by
  unfold State.meet
  repeat' (first | with_reducible rfl | with_reducible refine (State.apply_clock ..).trans ?_
                 | with_reducible refine (Dev.lineError_clock ..).trans ?_
                 | with_reducible refine (foldl_keep (fun e : State => e.dev.clock) (fun _ _ => ?_) _ _).trans ?_)

theorem Dev.nextHeld_clock (x0 : Dev) (x1 : Nat) : (Dev.nextHeld x0 x1).clock = x0.clock := by
  unfold Dev.nextHeld
  repeat' (first | with_reducible rfl | with_reducible refine (Dev.modCell_clock ..).trans ?_)

theorem Dev.slotWait_clock (x0 : Dev) (x1 : Nat) (x2 : Nat) : (Dev.slotWait x0 x1 x2).clock = x0.clock := by
  unfold Dev.slotWait
  repeat' (first | with_reducible rfl | with_reducible refine (Dev.stall_clock ..).trans ?_ | split)

theorem Dev.chargeCheck_clock (x0 : Dev) (x1 : Job) (x2 : Round) (x3 : Nat) (x4 : Held) : (Dev.chargeCheck x0 x1 x2
    x3 x4).clock = x0.clock := by
  unfold Dev.chargeCheck
  repeat' (first | with_reducible rfl | with_reducible refine (Dev.modRound_clock ..).trans ?_
                 | with_reducible refine (Dev.stall_clock ..).trans ?_ | split
                 | dsimp only [Dev.clock, Eff.mod, Eff.ops, Dev.eff])

theorem Dev.takeCritical_clock (x0 : Dev) (x1 : Nat) (x2 : Nat) (x3 : Nat) : (Dev.takeCritical x0 x1 x2 x3).clock =
    x0.clock := by
  unfold Dev.takeCritical
  repeat' (first | with_reducible rfl | with_reducible refine (Dev.modStack_clock ..).trans ?_
                 | with_reducible refine (Dev.takeTokens_clock ..).trans ?_ | split
                 | dsimp only [Dev.clock, Eff.mod, Eff.ops, Dev.eff])

theorem Dev.regulate_clock (x0 : Dev) (x1 : Job) (x2 : Bool) (x3 : List Traffic) : (Dev.regulate x0 x1 x2 x3).clock =
    x0.clock := by
  unfold Dev.regulate
  repeat' (first | with_reducible rfl | with_reducible refine (Dev.takeCritical_clock ..).trans ?_
                 | with_reducible refine (Dev.takeTokens_clock ..).trans ?_
                 | with_reducible refine (foldl_keep Dev.clock (fun _ _ => ?_) _ _).trans ?_ | split)

theorem Eff.standItem_clock (x0 : Eff) (x1 : Mem) (x2 : ItemEnd) : (Eff.standItem x0 x1 x2).dev.clock = x0.dev.clock
    := by
  unfold Eff.standItem
  repeat' (first | with_reducible rfl | with_reducible refine (Eff.writeOut_clock ..).trans ?_
                 | with_reducible refine (Dev.modRound_clock ..).trans ?_ | split
                 | dsimp only [Dev.clock, Eff.mod, Eff.ops, Dev.eff])

theorem Dev.markFenced_clock (x0 : Dev) (x1 : Job → Round → Bool) : (Dev.markFenced x0 x1).clock = x0.clock := rfl

theorem Dev.giveBackTile_clock (x0 : Dev) (x1 : Nat) (x2 : Held) : (Dev.giveBackTile x0 x1 x2).clock = x0.clock := by
  unfold Dev.giveBackTile
  repeat' (first | with_reducible rfl | with_reducible refine (Dev.modRound_clock ..).trans ?_)

theorem Dev.reissueStall_clock (x0 : Dev) (x1 : Held) : (Dev.reissueStall x0 x1).clock = x0.clock := by
  unfold Dev.reissueStall
  repeat' (first | with_reducible rfl | with_reducible refine (Dev.stall_clock ..).trans ?_ | split)

theorem Dev.stopAndReissue_clock (x0 : Dev) (x1 : Nat) : (Dev.stopAndReissue x0 x1).clock = x0.clock := by
  unfold Dev.stopAndReissue
  repeat' (first | with_reducible rfl | with_reducible refine (Dev.giveBackTile_clock ..).trans ?_
                 | with_reducible refine (Dev.stopCell_clock ..).trans ?_
                 | with_reducible refine (Dev.reissueStall_clock ..).trans ?_ | split)

theorem Dev.moveRanges_clock (x0 : Dev) : (Dev.moveRanges x0).clock = x0.clock := rfl

theorem Dev.markReadmit_clock (x0 : Dev) (x1 : Job → Bool) : (Dev.markReadmit x0 x1).clock = x0.clock := rfl

theorem Dev.fenceCell_clock (x0 : Dev) (x1 : Nat) : (Dev.fenceCell x0 x1).clock = x0.clock := by
  unfold Dev.fenceCell
  repeat' (first | with_reducible rfl | with_reducible refine (Dev.markFenced_clock ..).trans ?_
                 | with_reducible refine (Dev.modCell_clock ..).trans ?_
                 | with_reducible refine (Dev.stopAndReissue_clock ..).trans ?_
                 | with_reducible refine (Dev.moveRanges_clock ..).trans ?_
                 | with_reducible refine (Dev.markReadmit_clock ..).trans ?_ | split)

theorem Dev.giveBackSlice_clock (x0 : Dev) (x1 : Held) : (Dev.giveBackSlice x0 x1).clock = x0.clock := by
  unfold Dev.giveBackSlice
  repeat' (first | with_reducible rfl | with_reducible refine (Dev.modRound_clock ..).trans ?_)

theorem Dev.stopSlice_clock (x0 : Dev) (x1 : Nat) : (Dev.stopSlice x0 x1).clock = x0.clock := by
  unfold Dev.stopSlice
  repeat' (first | with_reducible rfl | with_reducible refine (Dev.stopEngine_clock ..).trans ?_
                 | with_reducible refine (Dev.reissueStall_clock ..).trans ?_
                 | with_reducible refine (Dev.giveBackSlice_clock ..).trans ?_ | split)

theorem Dev.fenceEngine_clock (x0 : Dev) (x1 : Nat) : (Dev.fenceEngine x0 x1).clock = x0.clock := by
  unfold Dev.fenceEngine
  repeat' (first | with_reducible rfl | with_reducible refine (Dev.markFenced_clock ..).trans ?_
                 | with_reducible refine (Dev.modEngine_clock ..).trans ?_
                 | with_reducible refine (Dev.stopSlice_clock ..).trans ?_
                 | with_reducible refine (Dev.markReadmit_clock ..).trans ?_ | split)

theorem Dev.capacityEvent_clock (x0 : Dev) (x1 : Nat) (x2 : Nat) (x3 : Nat) : (Dev.capacityEvent x0 x1 x2 x3).clock =
    x0.clock := rfl

theorem Dev.capacityOf_clock (x0 : Dev) (x1 : Nat) (x2 : Nat) : (Dev.capacityOf x0 x1 x2).clock = x0.clock := by
  unfold Dev.capacityOf
  repeat' (first | with_reducible rfl | with_reducible refine (Dev.capacityEvent_clock ..).trans ?_)

theorem Dev.emergencyFence_clock (x0 : Dev) (x1 : Nat) : (Dev.emergencyFence x0 x1).clock = x0.clock := by
  unfold Dev.emergencyFence
  repeat' (first | with_reducible rfl | with_reducible refine (Dev.fenceCell_clock ..).trans ?_
                 | with_reducible refine (Dev.fenceEngine_clock ..).trans ?_
                 | with_reducible refine (Dev.capacityOf_clock ..).trans ?_
                 | with_reducible refine (foldl_keep Dev.clock (fun _ _ => ?_) _ _).trans ?_ | split
                 | dsimp only [Dev.clock, Eff.mod, Eff.ops, Dev.eff])

theorem Dev.fenceMinority_clock (x0 : Dev) (x1 : Bool) (x2 : Nat) : (Dev.fenceMinority x0 x1 x2).clock = x0.clock :=
    by
  unfold Dev.fenceMinority
  repeat' (first | with_reducible rfl | with_reducible refine (Dev.startPattern_clock ..).trans ?_
                 | with_reducible refine (Dev.emergencyFence_clock ..).trans ?_ | split)

theorem Eff.judge_clock (x0 : Eff) (x1 : Mem) (x2 : ItemEnd) (x3 : Vote) : (Eff.judge x0 x1 x2 x3).dev.clock =
    x0.dev.clock := by
  unfold Eff.judge
  repeat' (first | with_reducible rfl | with_reducible refine (Dev.modRound_clock ..).trans ?_
                 | with_reducible refine (Dev.stall_clock ..).trans ?_
                 | with_reducible refine (Dev.count_clock ..).trans ?_
                 | with_reducible refine (Dev.unresolved_clock ..).trans ?_
                 | with_reducible refine (Dev.fenceMinority_clock ..).trans ?_
                 | with_reducible refine (Eff.standItem_clock ..).trans ?_ | split
                 | dsimp only [Dev.clock, Eff.mod, Eff.ops, Dev.eff])

theorem Eff.endItem_clock (x0 : Eff) (x1 : Mem) (x2 : ItemEnd) : (Eff.endItem x0 x1 x2).dev.clock = x0.dev.clock := by
  unfold Eff.endItem
  repeat' (first | with_reducible rfl | with_reducible refine (Eff.standItem_clock ..).trans ?_
                 | with_reducible refine (Dev.modRound_clock ..).trans ?_
                 | with_reducible refine (Eff.judge_clock ..).trans ?_ | split
                 | dsimp only [Dev.clock, Eff.mod, Eff.ops, Dev.eff])

theorem Eff.spoilItem_clock (x0 : Eff) (x1 : ItemEnd) : (Eff.spoilItem x0 x1).dev.clock = x0.dev.clock := by
  unfold Eff.spoilItem
  repeat' (first | with_reducible rfl | with_reducible refine (Dev.modRound_clock ..).trans ?_ | split
                 | dsimp only [Dev.clock, Eff.mod, Eff.ops, Dev.eff])

theorem State.countSteps_clock (x0 : State) (x1 : Nat) (x2 : Nat) : (State.countSteps x0 x1 x2).dev.clock =
    x0.dev.clock := by
  unfold State.countSteps
  repeat' (first | with_reducible rfl | with_reducible refine (State.withDev_clock ..).trans ?_
                 | with_reducible refine (Dev.engineBusy_clock ..).trans ?_ | split)

theorem State.roundComplete_clock (x0 : State) (x1 : Nat) : (State.roundComplete x0 x1).dev.clock = x0.dev.clock := by
  unfold State.roundComplete
  repeat' (first | with_reducible rfl | with_reducible refine (State.runJob_clock ..).trans ?_
                 | with_reducible refine (State.pump_clock ..).trans ?_
                 | with_reducible refine (State.apply_clock ..).trans ?_
                 | with_reducible refine (Dev.eff_clock ..).trans ?_)

theorem Dev.modUnit_clock (x0 : Dev) (x1 : Nat) (x2 : ComputeUnit → ComputeUnit) : (Dev.modUnit x0 x1 x2).clock =
    x0.clock := by
  unfold Dev.modUnit
  repeat' (first | with_reducible rfl | with_reducible refine (Dev.modCell_clock ..).trans ?_
                 | with_reducible refine (Dev.modEngine_clock ..).trans ?_ | split)

theorem Eff.patternDone_clock (x0 : Eff) (x1 : Nat) : (Eff.patternDone x0 x1).dev.clock = x0.dev.clock := by
  unfold Eff.patternDone
  repeat' (first | with_reducible rfl | split | dsimp only [Dev.clock, Eff.mod, Eff.ops, Dev.eff])

theorem Dev.closingDone_clock (x0 : Dev) (x1 : Nat) : (Dev.closingDone x0 x1).clock = x0.clock := rfl

theorem Eff.patternPasses_clock (x0 : Eff) (x1 : Nat) : (Eff.patternPasses x0 x1).dev.clock = x0.dev.clock := by
  unfold Eff.patternPasses
  repeat' (first | with_reducible rfl | with_reducible refine (Dev.modUnit_clock ..).trans ?_
                 | with_reducible refine (Dev.requestTest_clock ..).trans ?_
                 | with_reducible refine (Eff.patternDone_clock ..).trans ?_
                 | with_reducible refine (Dev.closingDone_clock ..).trans ?_ | split)

theorem Dev.suspectWork_clock (x0 : Dev) (x1 : Nat) : (Dev.suspectWork x0 x1).clock = x0.clock := by
  unfold Dev.suspectWork
  repeat' (first | with_reducible rfl | with_reducible refine (Dev.free_clock ..).trans ?_
                 | with_reducible refine (Dev.stall_clock ..).trans ?_
                 | with_reducible refine (Dev.modRound_clock ..).trans ?_
                 | with_reducible refine (foldl_keep Dev.clock (fun _ _ => ?_) _ _).trans ?_ | split
                 | dsimp only [Dev.clock, Eff.mod, Eff.ops, Dev.eff])

theorem Dev.notePatternFail_clock (x0 : Dev) (x1 : Nat) : (Dev.notePatternFail x0 x1).clock = x0.clock := by
  unfold Dev.notePatternFail
  repeat' (first | with_reducible rfl | with_reducible refine (Dev.count_clock ..).trans ?_
                 | with_reducible refine (Dev.raise_clock ..).trans ?_ | split
                 | dsimp only [Dev.clock, Eff.mod, Eff.ops, Dev.eff])

theorem Eff.patternFails_clock (x0 : Eff) (x1 : Nat) : (Eff.patternFails x0 x1).dev.clock = x0.dev.clock := by
  unfold Eff.patternFails
  repeat' (first | with_reducible rfl | with_reducible refine (Dev.suspectWork_clock ..).trans ?_
                 | with_reducible refine (Dev.emergencyFence_clock ..).trans ?_
                 | with_reducible refine (Dev.modUnit_clock ..).trans ?_
                 | with_reducible refine (Dev.requestTest_clock ..).trans ?_
                 | with_reducible refine (Eff.patternDone_clock ..).trans ?_
                 | with_reducible refine (Dev.closingDone_clock ..).trans ?_
                 | with_reducible refine (Dev.notePatternFail_clock ..).trans ?_)

theorem Dev.markBad_clock (x0 : Dev) (x1 : Nat) (x2 : Nat) : (Dev.markBad x0 x1 x2).clock = x0.clock := by
  unfold Dev.markBad
  repeat' (first | with_reducible rfl | with_reducible refine (Dev.pick_clock ..).trans ?_ | split)

theorem Dev.repaired_clock (x0 : Dev) (x1 : Nat) (x2 : Nat) (x3 : Bool) : (Dev.repaired x0 x1 x2 x3).dev.clock =
    x0.clock := by
  unfold Dev.repaired
  repeat' (first | with_reducible rfl | with_reducible refine (Dev.eff_clock ..).trans ?_
                 | with_reducible refine (Dev.markBad_clock ..).trans ?_ | split
                 | dsimp only [Dev.clock, Eff.mod, Eff.ops, Dev.eff])

theorem Dev.modBlock_clock (x0 : Dev) (x1 : Nat) (x2 : Nat) (x3 : Block → Block) : (Dev.modBlock x0 x1 x2 x3).clock =
    x0.clock := rfl

theorem Dev.readUnits_clock (x0 : Dev) : (Dev.readUnits x0).clock = x0.clock := by
  unfold Dev.readUnits
  repeat' (first | with_reducible rfl | with_reducible refine (Dev.pick_clock ..).trans ?_
                 | with_reducible refine (Dev.free_clock ..).trans ?_
                 | with_reducible refine (Dev.modBlock_clock ..).trans ?_)

theorem Dev.readRange_clock (x0 : Dev) (x1 : Nat) (x2 : Nat) (x3 : Bool) : (Dev.readRange x0 x1 x2 x3).1.clock =
    x0.clock := by
  unfold Dev.readRange
  repeat' (first | with_reducible rfl | with_reducible refine (Dev.readUnits_clock ..).trans ?_
                 | with_reducible refine (Dev.markBad_clock ..).trans ?_ | split
                 | dsimp only [Dev.clock, Eff.mod, Eff.ops, Dev.eff])

theorem Dev.completeFetch_clock (x0 : Dev) (x1 : Nat) (x2 : Packet) (x3 : Nat) (x4 : Bool) (x5 : Sys2Proof.Bytes) :
    (Dev.completeFetch x0 x1 x2 x3 x4 x5).clock = x0.clock := by
  unfold Dev.completeFetch
  repeat' (first | with_reducible rfl | with_reducible refine (Dev.complete_clock ..).trans ?_
                 | with_reducible refine (Dev.modPart_clock ..).trans ?_ | split)

theorem State.objectRead_clock (x0 : State) (x1 : Nat) (x2 : Nat) (x3 : Bool) : (State.objectRead x0 x1 x2 x3).clock
    = x0.dev.clock := by
  unfold State.objectRead
  repeat' (first | with_reducible rfl | with_reducible refine (Dev.complete_clock ..).trans ?_
                 | with_reducible refine (Dev.readRange_clock ..).trans ?_
                 | with_reducible refine (Dev.completeFetch_clock ..).trans ?_ | split
                 | dsimp only [Dev.clock, Eff.mod, Eff.ops, Dev.eff])

theorem Dev.restoreWaits_clock (x0 : Dev) : (Dev.restoreWaits x0).2.clock = x0.clock := by
  unfold Dev.restoreWaits
  repeat' (first | with_reducible rfl | with_reducible refine (Dev.pick_clock ..).trans ?_ | split)

theorem Dev.setImage_clock (x0 : Dev) (x1 : Image) : (Dev.setImage x0 x1).clock = x0.clock := rfl

theorem Eff.abandonImage_clock (x0 : Eff) (x1 : Image) : (Eff.abandonImage x0 x1).dev.clock = x0.dev.clock := by
  unfold Eff.abandonImage
  repeat' (first | with_reducible rfl | with_reducible refine (Eff.endJob_clock ..).trans ?_
                 | with_reducible refine (Eff.freeLines_clock ..).trans ?_
                 | with_reducible refine (Dev.setImage_clock ..).trans ?_
                 | with_reducible refine (foldl_keep (fun e : Eff => e.dev.clock) (fun _ _ => ?_) _ _).trans ?_
                 | split | dsimp only [Dev.clock, Eff.mod, Eff.ops, Dev.eff])

theorem Eff.takeRoom_clock {x0 : Eff} {x1 : Nat} {x2 : Nat} {x3 : Nat} {x4 : Nat} {x5 : Nat} {a : _} {y : Eff} (h :
    (Eff.takeRoom x0 x1 x2 x3 x4 x5) = some (a, y)) : y.dev.clock = x0.dev.clock := by
  unfold Eff.takeRoom at h
  repeat' (first | contradiction | (split at h) | (dsimp only at h; split at h) | (cases h))
  all_goals
   (repeat' (first | with_reducible rfl | with_reducible refine (Eff.takeLines_clock (by assumption)).trans ?_))

theorem Eff.placeSlices_clock {x0 : Eff} {x1 : Nat} {x2 : ImageEntry} {x3 : List SliceWish} {a : _} {y : Eff} (h :
    (Eff.placeSlices x0 x1 x2 x3) = some (y, a)) : y.dev.clock = x0.dev.clock := by
  induction x3 generalizing x0 y a with
  | nil => cases h; exact rfl
  | cons n ns ih =>
    simp only [Eff.placeSlices] at h
    split at h
    · cases h
    split at h
    · cases h
    · rw [Option.map_eq_some_iff] at h
      obtain ⟨⟨u, v⟩, hx, hy⟩ := h
      cases hy
      have g := ih hx
      have t := Eff.takeRoom_clock (by assumption)
      exact g.trans t

theorem Eff.placeWeight_clock {x0 : Eff} {x1 : Nat} {x2 : ImageEntry} {a : _} {y : Eff} (h : (Eff.placeWeight x0 x1
    x2) = some (y, a)) : y.dev.clock = x0.dev.clock := by
  unfold Eff.placeWeight at h
  repeat' (first | contradiction | (split at h) | (dsimp only at h; split at h) | (cases h))
  all_goals
   (repeat' (first | with_reducible rfl | with_reducible refine (Eff.placeSlices_clock (by assumption)).trans ?_))

theorem Eff.replaceWeight_clock {x0 : Eff} {x1 : Image} {x2 : ImageEntry} {x3 : Option (List WeightSlice)} {a : _} {y
    : Eff} (h : (Eff.replaceWeight x0 x1 x2 x3) = some (y, a)) : y.dev.clock = x0.dev.clock := by
    simp only [Eff.replaceWeight] at h
    split at h
    · split at h
      · cases h; exact rfl
      · rw [Option.map_eq_some_iff] at h
        obtain ⟨⟨u, v⟩, hx, hy⟩ := h
        cases hy
        have t := Eff.placeWeight_clock hx
        have g : ∀ (l : List WeightSlice) (e : Eff), (l.foldl (fun a s => if s.lost then a else a.freeLines s.stack s.la s.lines) e).dev.clock = e.dev.clock := by
          intro l e
          exact foldl_keep (fun e : Eff => e.dev.clock) (fun _ _ => by split <;> rfl) _ _
        exact t.trans (g _ _)
    · skip
      rw [Option.map_eq_some_iff] at h
      obtain ⟨⟨u, v⟩, hx, hy⟩ := h
      cases hy
      have t := Eff.placeWeight_clock hx
      exact t

theorem Eff.replaceWeights_clock {x0 : Eff} {x1 : Image} {x2 : List (ImageEntry × Option (List WeightSlice))} {a : _}
    {y : Eff} (h : (Eff.replaceWeights x0 x1 x2) = some (y, a)) : y.dev.clock = x0.dev.clock := by
  induction x2 generalizing x0 y a with
  | nil => cases h; exact rfl
  | cons n ns ih =>
    simp only [Eff.replaceWeights] at h
    split at h
    · cases h
    · rw [Option.map_eq_some_iff] at h
      obtain ⟨⟨u, v⟩, hx, hy⟩ := h
      cases hy
      have g := ih hx
      have t := Eff.replaceWeight_clock (by assumption)
      have k : ∀ (b : Bool) (e : Eff) (l : List MemOp), (if b = true then e.ops l else e).dev = e.dev := by intro b e l; split <;> rfl
      rw [k] at g
      exact g.trans t

theorem Dev.restoreImage_clock (x0 : Dev) (x1 : Nat) (x2 : Bool) : (Dev.restoreImage x0 x1 x2).dev.clock = x0.clock
    := by
  unfold Dev.restoreImage
  repeat' (first | with_reducible rfl | with_reducible refine (Dev.eff_clock ..).trans ?_
                 | with_reducible refine (Dev.readRange_clock ..).trans ?_
                 | with_reducible refine (Eff.abandonImage_clock ..).trans ?_
                 | with_reducible refine (Eff.replaceWeights_clock (by assumption)).trans ?_
                 | with_reducible refine (Dev.markReadmit_clock ..).trans ?_
                 | with_reducible refine (Dev.setImage_clock ..).trans ?_ | split
                 | dsimp only [Dev.clock, Eff.mod, Eff.ops, Dev.eff])

theorem Dev.restoreRead_clock (x0 : Dev) (x1 : Nat) (x2 : Bool) : (Dev.restoreRead x0 x1 x2).dev.clock = x0.clock :=
    by
  unfold Dev.restoreRead
  repeat' (first | with_reducible rfl | with_reducible refine (Dev.restoreWaits_clock ..).trans ?_
                 | with_reducible refine (Dev.eff_clock ..).trans ?_
                 | with_reducible refine (Dev.restoreImage_clock ..).trans ?_ | split
                 | dsimp only [Dev.clock, Eff.mod, Eff.ops, Dev.eff])

theorem Dev.roundRead_clock (x0 : Dev) (x1 : Nat) (x2 : Job → Round → List TierRead) (x3 : Bool) : (Dev.roundRead x0
    x1 x2 x3).clock = x0.clock := by
  unfold Dev.roundRead
  repeat' (first | with_reducible rfl | with_reducible refine (Dev.readUnits_clock ..).trans ?_
                 | with_reducible refine (Dev.pick_clock ..).trans ?_
                 | with_reducible refine (Dev.markBad_clock ..).trans ?_
                 | with_reducible refine (Dev.modRound_clock ..).trans ?_ | split
                 | dsimp only [Dev.clock, Eff.mod, Eff.ops, Dev.eff])

theorem Dev.savedRead_clock (x0 : Dev) (x1 : Nat) (x2 : Nat) (x3 : Bool) : (Dev.savedRead x0 x1 x2 x3).clock =
    x0.clock := by
  unfold Dev.savedRead
  repeat' (first | with_reducible rfl | with_reducible refine (Dev.complete_clock ..).trans ?_
                 | with_reducible refine (Dev.readRange_clock ..).trans ?_
                 | with_reducible refine (Dev.modPart_clock ..).trans ?_ | split
                 | dsimp only [Dev.clock, Eff.mod, Eff.ops, Dev.eff])

theorem Dev.patternsRead_clock (x0 : Dev) (x1 : Nat) (x2 : Bool) : (Dev.patternsRead x0 x1 x2).clock = x0.clock := by
  unfold Dev.patternsRead
  repeat' (first | with_reducible rfl | with_reducible refine (Dev.modRegion_clock ..).trans ?_
                 | with_reducible refine (Dev.readUnits_clock ..).trans ?_
                 | with_reducible refine (Dev.completeTag_clock ..).trans ?_
                 | with_reducible refine (foldl_keep Dev.clock (fun _ _ => ?_) _ _).trans ?_ | split
                 | dsimp only [Dev.clock, Eff.mod, Eff.ops, Dev.eff])

theorem Dev.placementDone_clock (x0 : Dev) (x1 : Nat) (x2 : Bool) : (Dev.placementDone x0 x1 x2).dev.clock = x0.clock
    := by
  unfold Dev.placementDone
  repeat' (first | with_reducible rfl | with_reducible refine (Dev.readRange_clock ..).trans ?_
                 | with_reducible refine (Eff.abandonImage_clock ..).trans ?_
                 | with_reducible refine (Dev.setImage_clock ..).trans ?_
                 | with_reducible refine (Dev.completeTag_clock ..).trans ?_
                 | with_reducible refine (foldl_keep Dev.clock (fun _ _ => ?_) _ _).trans ?_ | split
                 | dsimp only [Dev.clock, Eff.mod, Eff.ops, Dev.eff])

theorem State.stratusRead_clock (x0 : State) (x1 : Sys2Proof.StratusRead) (x2 : Bool) : (State.stratusRead x0 x1
    x2).dev.clock = x0.dev.clock := by
  unfold State.stratusRead
  repeat' (first | with_reducible rfl | with_reducible refine (State.objectRead_clock ..).trans ?_
                 | with_reducible refine (Dev.readUnits_clock ..).trans ?_
                 | with_reducible refine (Dev.repaired_clock ..).trans ?_
                 | with_reducible refine (Dev.restoreRead_clock ..).trans ?_
                 | with_reducible refine (Dev.placementDone_clock ..).trans ?_
                 | with_reducible refine (Dev.roundRead_clock ..).trans ?_
                 | with_reducible refine (Dev.savedRead_clock ..).trans ?_
                 | with_reducible refine (Dev.patternsRead_clock ..).trans ?_ | split
                 | dsimp only [Dev.clock, Eff.mod, Eff.ops, Dev.eff])

theorem Dev.tickLate_clock (x0 : Dev) (x1 : Bool) : (Dev.tickLate x0 x1).clock = x0.clock := by
  unfold Dev.tickLate
  repeat' (first | with_reducible rfl | with_reducible refine (Dev.modRound_clock ..).trans ?_
                 | with_reducible refine (Dev.notify_clock ..).trans ?_
                 | with_reducible refine (foldl_keep Dev.clock (fun _ _ => ?_) _ _).trans ?_ | split)

theorem Dev.lostCycles_clock (x0 : Dev) (x1 : Job) (x2 : Nat) : (Dev.lostCycles x0 x1 x2).clock = x0.clock := by
  unfold Dev.lostCycles
  repeat' (first | with_reducible rfl | with_reducible refine (Dev.modJob_clock ..).trans ?_
                 | with_reducible refine (Dev.account_clock ..).trans ?_)

theorem Dev.stopSort_clock (x0 : Dev) (x1 : Nat) : (Dev.stopSort x0 x1).clock = x0.clock := by
  unfold Dev.stopSort
  repeat' (first | with_reducible rfl | with_reducible refine (Dev.modRegion_clock ..).trans ?_
                 | with_reducible refine (Dev.modRound_clock ..).trans ?_
                 | with_reducible refine (Dev.lostCycles_clock ..).trans ?_ | split)

theorem Dev.takeGranted_clock (x0 : Dev) : (Dev.takeGranted x0).clock = x0.clock := rfl

theorem Dev.bestEffortStop_clock (x0 : Dev) : (Dev.bestEffortStop x0).clock = x0.clock := by
  unfold Dev.bestEffortStop
  repeat' (first | with_reducible rfl | with_reducible refine (Dev.stopSort_clock ..).trans ?_
                 | with_reducible refine (Dev.takeGranted_clock ..).trans ?_
                 | with_reducible refine (Dev.giveBackTile_clock ..).trans ?_
                 | with_reducible refine (Dev.stopCell_clock ..).trans ?_
                 | with_reducible refine (Dev.lostCycles_clock ..).trans ?_
                 | with_reducible refine (foldl_keep Dev.clock (fun _ _ => ?_) _ _).trans ?_ | split)

theorem Dev.countTicks_clock (x0 : Dev) (x1 : List Nat) : (Dev.countTicks x0 x1).clock = x0.clock := by
  unfold Dev.countTicks
  repeat' (first | with_reducible rfl | with_reducible refine (Dev.count_clock ..).trans ?_
                 | with_reducible refine (Dev.account_clock ..).trans ?_
                 | with_reducible refine (Dev.modJob_clock ..).trans ?_
                 | with_reducible refine (foldl_keep Dev.clock (fun _ _ => ?_) _ _).trans ?_ | split)

theorem Dev.addStream_clock (x0 : Dev) (x1 : StreamEntry) : (Dev.addStream x0 x1).clock = x0.clock := by
  unfold Dev.addStream
  repeat' (first | with_reducible rfl | with_reducible refine (Dev.setStream_clock ..).trans ?_)

theorem Dev.commitStream_clock (x0 : Dev) (x1 : Nat) (x2 : Round) (x3 : StreamEntry × List Nat) : (Dev.commitStream
    x0 x1 x2 x3).clock = x0.clock := by
  unfold Dev.commitStream
  repeat' (first | with_reducible rfl | with_reducible refine (Dev.setStream_clock ..).trans ?_
                 | with_reducible refine (Dev.addStream_clock ..).trans ?_ | split
                 | dsimp only [Dev.clock, Eff.mod, Eff.ops, Dev.eff])

theorem Eff.writeDir_clock (x0 : Eff) (x1 : Nat) (x2 : List Nat) : (Eff.writeDir x0 x1 x2).dev.clock = x0.dev.clock
    := by
  unfold Eff.writeDir
  repeat' (first | with_reducible rfl | with_reducible refine (Eff.ops_clock ..).trans ?_ | split)

theorem Eff.settleStreams_clock (x0 : Eff) (x1 : Job) (x2 : Round) (x3 : List Future) : (Eff.settleStreams x0 x1 x2
    x3).dev.clock = x0.dev.clock := by
  unfold Eff.settleStreams
  repeat' (first | with_reducible rfl | with_reducible refine (Eff.stopRecall_clock ..).trans ?_
                 | with_reducible refine (Dev.noteFreed_clock ..).trans ?_
                 | with_reducible refine (Dev.commitStream_clock ..).trans ?_
                 | with_reducible refine (Eff.writeDir_clock ..).trans ?_
                 | with_reducible refine (Eff.freeDir_clock ..).trans ?_
                 | with_reducible refine (Eff.freeObj_clock ..).trans ?_
                 | with_reducible refine (Dev.setObj_clock ..).trans ?_
                 | with_reducible refine (foldl_keep Dev.clock (fun _ _ => ?_) _ _).trans ?_
                 | with_reducible refine (foldl_keep (fun e : Eff => e.dev.clock) (fun _ _ => ?_) _ _).trans ?_
                 | split | dsimp only [Dev.clock, Eff.mod, Eff.ops, Dev.eff])

theorem Eff.settlePages_clock (x0 : Eff) (x1 : Job) (x2 : Round) (x3 : List Future) : (Eff.settlePages x0 x1 x2
    x3).dev.clock = x0.dev.clock := by
  unfold Eff.settlePages
  repeat' (first | with_reducible rfl | with_reducible refine (Eff.freePage_clock ..).trans ?_
                 | with_reducible refine (Dev.setFrame_clock ..).trans ?_
                 | with_reducible refine (foldl_keep (fun e : Eff => e.dev.clock) (fun _ _ => ?_) _ _).trans ?_
                 | split | dsimp only [Dev.clock, Eff.mod, Eff.ops, Dev.eff])

theorem Dev.commitChunk_clock (x0 : Dev) (x1 : Job) (x2 : Code) (x3 : List (PartId × Code)) (x4 : Chunk) :
    (Dev.commitChunk x0 x1 x2 x3 x4).clock = x0.clock := by
  unfold Dev.commitChunk
  repeat' (first | with_reducible rfl | with_reducible refine (Dev.modPart_clock ..).trans ?_
                 | with_reducible refine (Dev.completeTag_clock ..).trans ?_ | split
                 | dsimp only [Dev.clock, Eff.mod, Eff.ops, Dev.eff])

theorem Dev.commitCommands_clock (x0 : Dev) (x1 : Job) (x2 : Round) (x3 : Code) (x4 : List (PartId × Code)) :
    (Dev.commitCommands x0 x1 x2 x3 x4).clock = x0.clock := by
  unfold Dev.commitCommands
  repeat' (first | with_reducible rfl | with_reducible refine (Dev.completeTag_clock ..).trans ?_
                 | with_reducible refine (Dev.commitChunk_clock ..).trans ?_
                 | with_reducible refine (foldl_keep Dev.clock (fun _ _ => ?_) _ _).trans ?_)

theorem Dev.takeStratus_clock {x0 : Dev} {x1 : Nat} {x2 : Nat} {a : _} {y : Dev} (h : (Dev.takeStratus x0 x1 x2) =
    some (a, y)) : y.clock = x0.clock := by
  unfold Dev.takeStratus at h
  repeat' (first | contradiction | (split at h) | (dsimp only at h; split at h) | (cases h))
  all_goals
   (repeat' (first | with_reducible rfl))

theorem Eff.startSpills_clock (x0 : Eff) (x1 : Nat) : (Eff.startSpills x0 x1).dev.clock = x0.dev.clock := by
  unfold Eff.startSpills
  repeat' (first | with_reducible rfl | with_reducible refine (Dev.takeStratus_clock (by assumption)).trans ?_
                 | with_reducible refine (Dev.setFrame_clock ..).trans ?_
                 | with_reducible refine (foldl_keep (fun e : Eff => e.dev.clock) (fun _ _ => ?_) _ _).trans ?_
                 | split | dsimp only [Dev.clock, Eff.mod, Eff.ops, Dev.eff])

theorem State.commitRound_clock (x0 : State) (x1 : Nat) : (State.commitRound x0 x1).dev.clock = x0.dev.clock := by
  have fin : ∀ (e : Eff) (j : Job), (match j.endAfter with
    | some c => e.endJob x1 c c
    | none => if j.batch.rounds != 0 && decide (j.batch.rounds ≤ j.committed + 1) then e.endJob x1 .ok .ok else e).dev.clock =
      e.dev.clock := by
    intro e j
    split
    · exact Eff.endJob_clock ..
    · split
      · exact Eff.endJob_clock ..
      · rfl
  unfold State.commitRound
  split
  · rfl
  · with_reducible refine (State.apply_clock ..).trans ?_
    refine (fin _ _).trans ?_
    with_reducible refine (Eff.startSpills_clock ..).trans ?_
    with_reducible refine (congrArg Dev.clock (Eff.mod_dev' _ _)).trans ?_
    with_reducible refine (Dev.roundResponse_clock ..).trans ?_
    with_reducible refine (Dev.commitCommands_clock ..).trans ?_
    with_reducible refine (congrArg Dev.clock (Eff.mod_dev' _ _)).trans ?_
    with_reducible refine (Dev.modJob_clock ..).trans ?_
    with_reducible refine (Eff.settleStreams_clock ..).trans ?_
    with_reducible refine (Eff.settlePages_clock ..).trans ?_
    rfl

theorem State.lateForks_clock (x0 : State) (x1 : Nat) : (State.lateForks x0 x1).dev.clock = x0.dev.clock := by
  unfold State.lateForks
  repeat' (first | with_reducible rfl | with_reducible refine (State.withDev_clock ..).trans ?_
                 | with_reducible refine (Dev.modRound_clock ..).trans ?_
                 | with_reducible refine (Dev.modJob_clock ..).trans ?_
                 | with_reducible refine (State.applyFork_clock ..).trans ?_
                 | with_reducible refine (foldl_keep (fun e : State => e.dev.clock) (fun _ _ => ?_) _ _).trans ?_
                 | split)

theorem State.dropRound_clock (x0 : State) (x1 : Nat) (x2 : Code × Nat × List (PartId × Code)) : (State.dropRound x0
    x1 x2).dev.clock = x0.dev.clock := by
  unfold State.dropRound
  repeat' (first | with_reducible rfl | with_reducible refine (Eff.failRound_clock ..).trans ?_
                 | with_reducible refine (Dev.eff_clock ..).trans ?_
                 | with_reducible refine (State.apply_clock ..).trans ?_
                 | with_reducible refine (Eff.endJob_clock ..).trans ?_ | split)

theorem Dev.keepOld_clock (x0 : Dev) (x1 : Mem) (x2 : Nat) (x3 : Nat) (x4 : Object) : (Dev.keepOld x0 x1 x2 x3
    x4).clock = x0.clock := by
  unfold Dev.keepOld
  repeat' (first | with_reducible rfl | with_reducible refine (Dev.modPart_clock ..).trans ?_)

theorem Eff.showStores_clock (x0 : Eff) (x1 : Mem) : (Eff.showStores x0 x1).dev.clock = x0.dev.clock := by
  unfold Eff.showStores
  repeat' (first | with_reducible rfl | with_reducible refine (Dev.keepOld_clock ..).trans ?_
                 | with_reducible refine (foldl_keep (fun e : Eff => e.dev.clock) (fun _ _ => ?_) _ _).trans ?_
                 | split | dsimp only [Dev.clock, Eff.mod, Eff.ops, Dev.eff])

theorem Dev.controlsDone_clock (x0 : Dev) : (Dev.controlsDone x0).clock = x0.clock := by
  unfold Dev.controlsDone
  repeat' (first | with_reducible rfl | with_reducible refine (Dev.completeTag_clock ..).trans ?_
                 | with_reducible refine (foldl_keep Dev.clock (fun _ _ => ?_) _ _).trans ?_)

theorem State.captureOne_clock (x0 : State) (x1 : Nat) (x2 : Wait) : (State.captureOne x0 x1 x2).dev.clock =
    x0.dev.clock := by
  unfold State.captureOne
  repeat' (first | with_reducible rfl | with_reducible refine (State.withDev_clock ..).trans ?_
                 | with_reducible refine (Dev.complete_clock ..).trans ?_
                 | with_reducible refine (Dev.setStream_clock ..).trans ?_
                 | with_reducible refine (Dev.countQueue_clock ..).trans ?_
                 | with_reducible refine (Dev.endChunks_clock ..).trans ?_
                 | with_reducible refine (Dev.modPart_clock ..).trans ?_ | split)

theorem State.captureSaves_clock (x0 : State) : (State.captureSaves x0).dev.clock = x0.dev.clock := by
  unfold State.captureSaves
  repeat' (first | with_reducible rfl | with_reducible refine (State.captureOne_clock ..).trans ?_
                 | with_reducible refine (foldl_keep (fun e : State => e.dev.clock) (fun _ _ => ?_) _ _).trans ?_)

theorem Dev.leaveRound_clock (x0 : Dev) (x1 : Nat) (x2 : Nat) : (Dev.leaveRound x0 x1 x2).clock = x0.clock := by
  unfold Dev.leaveRound
  repeat' (first | with_reducible rfl | with_reducible refine (Dev.modRound_clock ..).trans ?_)

theorem Eff.endEntry_clock (x0 : Eff) (x1 : Nat) : (Eff.endEntry x0 x1).dev.clock = x0.dev.clock := by
  unfold Eff.endEntry
  repeat' (first | with_reducible rfl | with_reducible refine (Eff.freeStream_clock ..).trans ?_
                 | with_reducible refine (Dev.modRound_clock ..).trans ?_
                 | with_reducible refine (Dev.leaveRound_clock ..).trans ?_
                 | with_reducible refine (Dev.completeTag_clock ..).trans ?_
                 | with_reducible refine (foldl_keep Dev.clock (fun _ _ => ?_) _ _).trans ?_ | split
                 | dsimp only [Dev.clock, Eff.mod, Eff.ops, Dev.eff])

theorem Eff.endEntries_clock (x0 : Eff) (x1 : Nat → Bool) : (Eff.endEntries x0 x1).dev.clock = x0.dev.clock := by
  unfold Eff.endEntries
  repeat' (first | with_reducible rfl | with_reducible refine (Eff.endEntry_clock ..).trans ?_
                 | with_reducible refine (foldl_keep (fun e : Eff => e.dev.clock) (fun _ _ => ?_) _ _).trans ?_)

theorem Dev.markResets_clock (x0 : Dev) : (Dev.markResets x0).clock = x0.clock := rfl

theorem Dev.countGrants_clock (x0 : Dev) : (Dev.countGrants x0).clock = x0.clock := by
  unfold Dev.countGrants
  repeat' (first | with_reducible rfl | with_reducible refine (Dev.account_clock ..).trans ?_
                 | with_reducible refine (foldl_keep Dev.clock (fun _ _ => ?_) _ _).trans ?_ | split
                 | dsimp only [Dev.clock, Eff.mod, Eff.ops, Dev.eff])

theorem Dev.takeForce_clock (x0 : Dev) : (Dev.takeForce x0).clock = x0.clock := rfl

theorem Dev.shiftPhase_clock (x0 : Dev) (x1 : Nat) : (Dev.shiftPhase x0 x1).clock = x0.clock := by
  unfold Dev.shiftPhase
  repeat' (first | with_reducible rfl | split | dsimp only [Dev.clock, Eff.mod, Eff.ops, Dev.eff])

theorem Eff.placeBoxes_clock (x0 : Eff) (x1 : Nat) : (Eff.placeBoxes x0 x1).dev.clock = x0.dev.clock := by
  unfold Eff.placeBoxes
  repeat' (first | with_reducible rfl | with_reducible refine (Eff.freeLines_clock ..).trans ?_
                 | with_reducible refine (Dev.modPart_clock ..).trans ?_
                 | with_reducible refine (Eff.takeRoom_clock (by assumption)).trans ?_ | split
                 | dsimp only [Dev.clock, Eff.mod, Eff.ops, Dev.eff])

theorem Dev.clearBlock_clock (x0 : Dev) (x1 : Nat) : (Dev.clearBlock x0 x1).clock = x0.clock := rfl

theorem Dev.clearPart_clock (x0 : Dev) (x1 : Nat) : (Dev.clearPart x0 x1).clock = x0.clock := by
  unfold Dev.clearPart
  repeat' (first | with_reducible rfl | with_reducible refine (Dev.clearBlock_clock ..).trans ?_
                 | with_reducible refine (Dev.modPart_clock ..).trans ?_)

theorem Eff.settlePart_clock (x0 : Eff) (x1 : Nat) : (Eff.settlePart x0 x1).dev.clock = x0.dev.clock := by
  unfold Eff.settlePart
  repeat' (first | with_reducible rfl | with_reducible refine (Eff.placeBoxes_clock ..).trans ?_
                 | with_reducible refine (Dev.modPart_clock ..).trans ?_
                 | with_reducible refine (Eff.freeLines_clock ..).trans ?_
                 | with_reducible refine (Dev.clearPart_clock ..).trans ?_ | split
                 | dsimp only [Dev.clock, Eff.mod, Eff.ops, Dev.eff])

theorem Eff.settleParts_clock (x0 : Eff) : (Eff.settleParts x0).dev.clock = x0.dev.clock := by
  unfold Eff.settleParts
  repeat' (first | with_reducible rfl | with_reducible refine (Eff.settlePart_clock ..).trans ?_
                 | with_reducible refine (foldl_keep (fun e : Eff => e.dev.clock) (fun _ _ => ?_) _ _).trans ?_)

theorem Dev.sendTo_clock (x0 : Dev) (x1 : Nat) (x2 : Sys2Proof.Bytes) : (Dev.sendTo x0 x1 x2).clock = x0.clock := rfl

theorem Dev.releasePart_clock (x0 : Dev) (x1 : Nat) : (Dev.releasePart x0 x1).clock = x0.clock := by
  unfold Dev.releasePart
  repeat' (first | with_reducible rfl | with_reducible refine (Dev.modPart_clock ..).trans ?_
                 | with_reducible refine (Dev.vector_clock ..).trans ?_
                 | with_reducible refine (Dev.sendTo_clock ..).trans ?_
                 | with_reducible refine (foldl_keep Dev.clock (fun _ _ => ?_) _ _).trans ?_ | split
                 | dsimp only [Dev.clock, Eff.mod, Eff.ops, Dev.eff])

theorem Dev.releaseAll_clock (x0 : Dev) : (Dev.releaseAll x0).clock = x0.clock := by
  unfold Dev.releaseAll
  repeat' (first | with_reducible rfl | with_reducible refine (Dev.releasePart_clock ..).trans ?_
                 | with_reducible refine (foldl_keep Dev.clock (fun _ _ => ?_) _ _).trans ?_)

theorem Dev.regionReturns_clock (x0 : Dev) (x1 : Nat) : (Dev.regionReturns x0 x1).clock = x0.clock := by
  unfold Dev.regionReturns
  repeat' (first | with_reducible rfl | with_reducible refine (Dev.modStack_clock ..).trans ?_
                 | with_reducible refine (Dev.modRegion_clock ..).trans ?_)

theorem Dev.unitReturns_clock (x0 : Dev) (x1 : Nat) : (Dev.unitReturns x0 x1).clock = x0.clock := by
  unfold Dev.unitReturns
  repeat' (first | with_reducible rfl | with_reducible refine (Dev.modCell_clock ..).trans ?_
                 | with_reducible refine (Dev.modEngine_clock ..).trans ?_
                 | with_reducible refine (Dev.capacityOf_clock ..).trans ?_
                 | with_reducible refine (Dev.regionReturns_clock ..).trans ?_
                 | with_reducible refine (foldl_keep Dev.clock (fun _ _ => ?_) _ _).trans ?_ | split)

theorem Dev.returnAll_clock (x0 : Dev) : (Dev.returnAll x0).clock = x0.clock := by
  unfold Dev.returnAll
  repeat' (first | with_reducible rfl | with_reducible refine (Dev.modRegion_clock ..).trans ?_
                 | with_reducible refine (Dev.unitReturns_clock ..).trans ?_
                 | with_reducible refine (foldl_keep Dev.clock (fun _ _ => ?_) _ _).trans ?_)

theorem Dev.planRemoval_clock (x0 : Dev) (x1 : Nat) (x2 : Nat) : (Dev.planRemoval x0 x1 x2).clock = x0.clock := by
  unfold Dev.planRemoval
  repeat' (first | with_reducible rfl | split)

theorem Dev.planRegionTest_clock (x0 : Dev) (x1 : Nat) : (Dev.planRegionTest x0 x1).clock = x0.clock := by
  unfold Dev.planRegionTest
  repeat' (first | with_reducible rfl | with_reducible refine (Dev.planRemoval_clock ..).trans ?_ | split)

theorem Dev.homesChanged_clock (x0 : Dev) (x1 : Nat) : (Dev.homesChanged x0 x1).clock = x0.clock := by
  unfold Dev.homesChanged
  repeat' (first | with_reducible rfl | with_reducible refine (Dev.modJob_clock ..).trans ?_)

theorem Eff.freeHome_clock (x0 : Eff) (x1 : TensorHome) : (Eff.freeHome x0 x1).dev.clock = x0.dev.clock := by
  unfold Eff.freeHome
  repeat' (first | with_reducible rfl | with_reducible refine (Eff.freeLines_clock ..).trans ?_
                 | with_reducible refine (Eff.ops_clock ..).trans ?_ | split
                 | dsimp only [Dev.clock, Eff.mod, Eff.ops, Dev.eff])

theorem Dev.testNoRoom_clock (x0 : Dev) (x1 : Nat) : (Dev.testNoRoom x0 x1).clock = x0.clock := by
  unfold Dev.testNoRoom
  repeat' (first | with_reducible rfl | with_reducible refine (Dev.modRegion_clock ..).trans ?_
                 | with_reducible refine (Dev.completeTag_clock ..).trans ?_
                 | with_reducible refine (foldl_keep Dev.clock (fun _ _ => ?_) _ _).trans ?_ | split
                 | dsimp only [Dev.clock, Eff.mod, Eff.ops, Dev.eff])

theorem Dev.regionLeaves_clock (x0 : Dev) (x1 : Nat) (x2 : Nat) : (Dev.regionLeaves x0 x1 x2).clock = x0.clock := by
  unfold Dev.regionLeaves
  repeat' (first | with_reducible rfl | with_reducible refine (Dev.modStack_clock ..).trans ?_
                 | with_reducible refine (Dev.modRegion_clock ..).trans ?_
                 | with_reducible refine (Dev.moveRanges_clock ..).trans ?_
                 | with_reducible refine (Dev.markReadmit_clock ..).trans ?_
                 | with_reducible refine (Dev.capacityOf_clock ..).trans ?_)

theorem Dev.drainRegion_clock (x0 : Dev) (x1 : Removal) : (Dev.drainRegion x0 x1).clock = x0.clock := by
  unfold Dev.drainRegion
  repeat' (first | with_reducible rfl | with_reducible refine (Dev.testNoRoom_clock ..).trans ?_
                 | with_reducible refine (Dev.markReadmit_clock ..).trans ?_
                 | with_reducible refine (Dev.modRegion_clock ..).trans ?_
                 | with_reducible refine (Dev.regionLeaves_clock ..).trans ?_ | split
                 | dsimp only [Dev.clock, Eff.mod, Eff.ops, Dev.eff])

theorem Dev.remove_clock (x0 : Dev) (x1 : Removal) : (Dev.remove x0 x1).clock = x0.clock := by
  unfold Dev.remove
  repeat' (first | with_reducible rfl | with_reducible refine (Dev.drainRegion_clock ..).trans ?_
                 | with_reducible refine (Dev.fenceEngine_clock ..).trans ?_
                 | with_reducible refine (Dev.fenceCell_clock ..).trans ?_
                 | with_reducible refine (Dev.capacityOf_clock ..).trans ?_
                 | with_reducible refine (foldl_keep Dev.clock (fun _ _ => ?_) _ _).trans ?_ | split
                 | dsimp only [Dev.clock, Eff.mod, Eff.ops, Dev.eff])

theorem Dev.removeAll_clock (x0 : Dev) : (Dev.removeAll x0).clock = x0.clock := by
  unfold Dev.removeAll
  repeat' (first | with_reducible rfl | with_reducible refine (Dev.planRegionTest_clock ..).trans ?_
                 | with_reducible refine (Dev.remove_clock ..).trans ?_
                 | with_reducible refine (foldl_keep Dev.clock (fun _ _ => ?_) _ _).trans ?_)

theorem Dev.cutQuota_clock (x0 : Dev) (x1 : Nat) : (Dev.cutQuota x0 x1).clock = x0.clock := by
  unfold Dev.cutQuota
  repeat' (first | with_reducible rfl | split | dsimp only [Dev.clock, Eff.mod, Eff.ops, Dev.eff])

theorem Dev.trimCaches_clock (x0 : Dev) : (Dev.trimCaches x0).clock = x0.clock := rfl

theorem Dev.reclock_clock (x0 : Dev) (x1 : Nat) : (Dev.reclock x0 x1).clock = x0.clock := by
  unfold Dev.reclock
  repeat' (first | with_reducible rfl | split)

theorem Dev.takeClock_clock (x0 : Dev) : (Dev.takeClock x0).clock = x0.clock := rfl

theorem Dev.takeCap_clock (x0 : Dev) (x1 : Nat) : (Dev.takeCap x0 x1).clock = x0.clock := by
  unfold Dev.takeCap
  repeat' (first | with_reducible rfl | with_reducible refine (Dev.takeClock_clock ..).trans ?_)

theorem Dev.useCap_clock (x0 : Dev) : (Dev.useCap x0).clock = x0.clock := by
  unfold Dev.useCap
  repeat' (first | with_reducible rfl | with_reducible refine (Dev.reclock_clock ..).trans ?_
                 | with_reducible refine (Dev.takeCap_clock ..).trans ?_)

theorem Dev.takeThrottle_clock (x0 : Dev) : (Dev.takeThrottle x0).clock = x0.clock := by
  unfold Dev.takeThrottle
  repeat' (first | with_reducible rfl | split)

theorem Dev.takePlan_clock (x0 : Dev) : (Dev.takePlan x0).clock = x0.clock := by
  unfold Dev.takePlan
  repeat' (first | with_reducible rfl | split)

theorem Dev.takeClocks_clock (x0 : Dev) : (Dev.takeClocks x0).clock = x0.clock := by
  unfold Dev.takeClocks
  repeat' (first | with_reducible rfl | with_reducible refine (Dev.useCap_clock ..).trans ?_
                 | with_reducible refine (Dev.takeThrottle_clock ..).trans ?_
                 | with_reducible refine (Dev.takePlan_clock ..).trans ?_)

theorem Dev.restartLow_clock (x0 : Dev) : (Dev.restartLow x0).clock = x0.clock := by
  unfold Dev.restartLow
  repeat' (first | with_reducible rfl | with_reducible refine (Dev.modPart_clock ..).trans ?_
                 | with_reducible refine (foldl_keep Dev.clock (fun _ _ => ?_) _ _).trans ?_)

theorem Eff.changes_clock (x0 : Eff) (x1 : Dev) : (Eff.changes x0 x1).dev.clock = x0.dev.clock := by
  unfold Eff.changes
  repeat' (first | with_reducible rfl | with_reducible refine (Eff.settleParts_clock ..).trans ?_
                 | with_reducible refine (Dev.releaseAll_clock ..).trans ?_
                 | with_reducible refine (Dev.returnAll_clock ..).trans ?_
                 | with_reducible refine (Dev.removeAll_clock ..).trans ?_
                 | with_reducible refine (Dev.cutQuota_clock ..).trans ?_
                 | with_reducible refine (Dev.trimCaches_clock ..).trans ?_
                 | with_reducible refine (Dev.takeClocks_clock ..).trans ?_
                 | with_reducible refine (Dev.restartLow_clock ..).trans ?_
                 | with_reducible refine (foldl_keep Dev.clock (fun _ _ => ?_) _ _).trans ?_
                 | dsimp only [Dev.clock, Eff.mod, Eff.ops, Dev.eff])

theorem Eff.dropAdmission_clock (x0 : Eff) (x1 : Nat) : (Eff.dropAdmission x0 x1).dev.clock = x0.dev.clock := by
  unfold Eff.dropAdmission
  repeat' (first | with_reducible rfl | with_reducible refine (Dev.modJob_clock ..).trans ?_
                 | with_reducible refine (Eff.endJob_clock ..).trans ?_ | split
                 | dsimp only [Dev.clock, Eff.mod, Eff.ops, Dev.eff])

theorem Eff.dropForCap_clock (x0 : Eff) : (Eff.dropForCap x0).dev.clock = x0.dev.clock := by
  unfold Eff.dropForCap
  repeat' (first | with_reducible rfl | with_reducible refine (Eff.dropAdmission_clock ..).trans ?_
                 | with_reducible refine (foldl_keep (fun e : Eff × _ => e.1.dev.clock) (fun _ _ => ?_) _ _).trans ?_
                 | split)

theorem Eff.placeStream_clock (x0 : Eff) (x1 : Nat) : (Eff.placeStream x0 x1).dev.clock = x0.dev.clock := by
  unfold Eff.placeStream
  repeat' (first | with_reducible rfl | with_reducible refine (Eff.takeRoom_clock (by assumption)).trans ?_
                 | with_reducible refine (Dev.homesChanged_clock ..).trans ?_
                 | with_reducible refine (Dev.modJob_clock ..).trans ?_ | split
                 | dsimp only [Dev.clock, Eff.mod, Eff.ops, Dev.eff])

theorem Eff.takeCache_clock {x0 : Eff} {x1 : Nat} {x2 : Nat} {x3 : Nat} {a : _} {y : Eff} (h : (Eff.takeCache x0 x1
    x2 x3) = some (a, y)) : y.dev.clock = x0.dev.clock := by
  unfold Eff.takeCache at h
  repeat' (first | contradiction | (split at h) | (dsimp only at h; split at h) | (cases h))
  all_goals
   (repeat' (first | with_reducible rfl))

theorem Eff.placeTensor_clock {x0 : Eff} {x1 : Nat} {x2 : Nat} {x3 : Program} {x4 : Batch} {x5 : Tensor} {a : _} {y :
    Eff} (h : (Eff.placeTensor x0 x1 x2 x3 x4 x5) = some (y, a)) : y.dev.clock = x0.dev.clock := by
    simp only [Eff.placeTensor] at h
    split at h
    · cases h; exact rfl
    · split at h
      · skip
        rw [Option.map_eq_some_iff] at h
        obtain ⟨⟨u, v⟩, hx, hy⟩ := h
        cases hy
        have t := Eff.takeCache_clock hx
        exact t
      · split at h
        · cases h
        · skip
          rw [Option.map_eq_some_iff] at h
          obtain ⟨⟨u, v⟩, hx, hy⟩ := h
          cases hy
          have t := Eff.takeRoom_clock hx
          exact t

theorem Eff.placeLevelTwo_clock {x0 : Eff} {x1 : Nat} {x2 : Nat} {x3 : Nat} {a : _} {y : Eff} (h : (Eff.placeLevelTwo
    x0 x1 x2 x3) = some (y, a)) : y.dev.clock = x0.dev.clock := by
    simp only [Eff.placeLevelTwo] at h
    split at h
    · cases h; exact rfl
    · skip
      rw [Option.map_eq_some_iff] at h
      obtain ⟨⟨u, v⟩, hx, hy⟩ := h
      cases hy
      have t := Eff.takeCache_clock hx
      exact t

theorem Eff.rebindHomes_clock {x0 : Eff} {x1 : Job} {x2 : Program} {a : _} {y : Eff} (h : (Eff.rebindHomes x0 x1 x2)
    = some (y, a)) : y.dev.clock = x0.dev.clock := by
  unfold Eff.rebindHomes at h
  dsimp only at h
  split at h
  · cases h
  · rename_i hf
    rw [Option.map_eq_some_iff] at h
    obtain ⟨⟨u, v⟩, hx, hy⟩ := h
    cases hy
    have t := Eff.placeLevelTwo_clock hx
    have g : ∀ (c : Tensor × Nat → Bool) (l : List (Tensor × Nat)) (o : Option (Eff × List (Option TensorHome))) (z : Eff × List (Option TensorHome)),
        (∀ y, o = some y → y.1.dev.clock = x0.dev.clock) →
        l.foldl (fun (acc : Option (Eff × List (Option TensorHome))) t =>
          match acc with
          | none => none
          | some (x, l) =>
            if c t then some (x, l ++ [(x1.homes[t.2]?).join])
            else (x.placeTensor x1.part (x1.grant.home % 6) x2 x1.batch t.1).map (fun y => (y.1, l ++ [y.2]))) o = some z →
        z.1.dev.clock = x0.dev.clock := by
      intro c l
      induction l with
      | nil => intro o z ho hz; exact ho z hz
      | cons w l ih =>
        intro o z ho hz
        refine ih _ z ?_ hz
        intro y hy
        cases o with
        | none => cases hy
        | some q =>
          dsimp only at hy
          split at hy
          · cases hy; exact ho q rfl
          · rw [Option.map_eq_some_iff] at hy
            obtain ⟨⟨a, b⟩, h1, h2⟩ := hy
            cases h2
            have p := Eff.placeTensor_clock h1
            have p' := ho q rfl
            exact p.trans p'
    have r := g _ _ _ _ (fun y hy => by
      cases hy
      exact foldl_keep (fun e : Eff => e.dev.clock) (fun e t => by
        split
        · split
          · rfl
          · exact Eff.freeHome_clock ..
        · rfl) _ _) hf
    exact t.trans r

theorem Dev.setJob_clock (x0 : Dev) (x1 : Job) : (Dev.setJob x0 x1).clock = x0.clock := rfl

theorem Eff.rebindNow_clock (x0 : Eff) (x1 : Nat) : (Eff.rebindNow x0 x1).dev.clock = x0.dev.clock := by
  unfold Eff.rebindNow
  repeat' (first | with_reducible rfl | with_reducible refine (Dev.completeTag_clock ..).trans ?_
                 | with_reducible refine (Dev.modJob_clock ..).trans ?_
                 | with_reducible refine (Eff.rebindHomes_clock (by assumption)).trans ?_
                 | with_reducible refine (Dev.setJob_clock ..).trans ?_ | split
                 | dsimp only [Dev.clock, Eff.mod, Eff.ops, Dev.eff])

theorem Eff.readmit_clock (x0 : Eff) (x1 : Nat) : (Eff.readmit x0 x1).dev.clock = x0.dev.clock := by
  unfold Eff.readmit
  repeat' (first | with_reducible rfl | with_reducible refine (Dev.modJob_clock ..).trans ?_
                 | with_reducible refine (Eff.dropAdmission_clock ..).trans ?_ | split
                 | dsimp only [Dev.clock, Eff.mod, Eff.ops, Dev.eff])

theorem Eff.readmitAll_clock (x0 : Eff) (x1 : Job → Bool) : (Eff.readmitAll x0 x1).dev.clock = x0.dev.clock := by
  unfold Eff.readmitAll
  repeat' (first | with_reducible rfl | with_reducible refine (Eff.readmit_clock ..).trans ?_
                 | with_reducible refine (foldl_keep (fun e : Eff => e.dev.clock) (fun _ _ => ?_) _ _).trans ?_)

theorem Dev.stopUngranted_clock (x0 : Dev) : (Dev.stopUngranted x0).clock = x0.clock := by
  unfold Dev.stopUngranted
  repeat' (first | with_reducible rfl | with_reducible refine (Dev.stopAndReissue_clock ..).trans ?_
                 | with_reducible refine (foldl_keep Dev.clock (fun _ _ => ?_) _ _).trans ?_ | split)

theorem Dev.lateCells_clock (x0 : Dev) : (Dev.lateCells x0).clock = x0.clock := by
  unfold Dev.lateCells
  repeat' (first | with_reducible rfl | with_reducible refine (Dev.moveRanges_clock ..).trans ?_)

theorem Eff.readmitAt_clock (x0 : Eff) (x1 : Bool) (x2 : Bool) (x3 : List Nat) : (Eff.readmitAt x0 x1 x2
    x3).dev.clock = x0.dev.clock := by
  have k : ∀ e : Eff, (e.mod (fun d => (d.lateCells.stopUngranted.bestEffortStop).useCap)).dev.clock = e.dev.clock := fun e => by
    rw [Eff.mod_dev', Dev.useCap_clock, Dev.bestEffortStop_clock, Dev.stopUngranted_clock, Dev.lateCells_clock]
  have c : (if x2 = true then x0.dropForCap else x0).dev.clock = x0.dev.clock := by
    split
    · exact Eff.dropForCap_clock ..
    · rfl
  unfold Eff.readmitAt
  with_reducible refine (k _).trans ?_
  with_reducible refine (Eff.readmitAll_clock ..).trans ?_
  with_reducible refine (foldl_keep (fun e : Eff => e.dev.clock) (fun e t => Eff.placeStream_clock ..) _ _).trans ?_
  with_reducible refine (foldl_keep (fun e : Eff => e.dev.clock) (fun e t => Eff.rebindNow_clock ..) _ _).trans ?_
  exact c

theorem Dev.discardOld_clock (x0 : Dev) : (Dev.discardOld x0).clock = x0.clock := rfl

theorem Dev.noticeCapacity_clock (x0 : Dev) (x1 : List Nat) (x2 : Nat) (x3 : Nat) (x4 : Nat) : (Dev.noticeCapacity x0
    x1 x2 x3 x4).clock = x0.clock := by
  unfold Dev.noticeCapacity
  repeat' (first | with_reducible rfl | with_reducible refine (Dev.noticeMgmt_clock ..).trans ?_
                 | with_reducible refine (Dev.noticePart_clock ..).trans ?_
                 | with_reducible refine (foldl_keep Dev.clock (fun _ _ => ?_) _ _).trans ?_)

theorem Dev.noticeQuota_clock (x0 : Dev) (x1 : Nat) : (Dev.noticeQuota x0 x1).clock = x0.clock := by
  unfold Dev.noticeQuota
  repeat' (first | with_reducible rfl | with_reducible refine (Dev.notify_clock ..).trans ?_)

theorem Dev.tellCapacity_clock (x0 : Dev) (x1 : Dev) (x2 : List Nat) : (Dev.tellCapacity x0 x1 x2).clock = x0.clock
    := by
  unfold Dev.tellCapacity
  repeat' (first | with_reducible rfl | with_reducible refine (Dev.noticeCapacity_clock ..).trans ?_
                 | with_reducible refine (Dev.noticeQuota_clock ..).trans ?_
                 | with_reducible refine (foldl_keep Dev.clock (fun _ _ => ?_) _ _).trans ?_)

theorem Dev.refuse_clock (x0 : Dev) (x1 : Nat) (x2 : Packet) (x3 : Code) : (Dev.refuse x0 x1 x2 x3).dev.clock =
    x0.clock := by
  unfold Dev.refuse
  repeat' (first | with_reducible rfl | with_reducible refine (Dev.eff_clock ..).trans ?_
                 | with_reducible refine (Dev.complete_clock ..).trans ?_)

theorem Eff.takeLocs_clock {x0 : Eff} {x1 : Nat} {x2 : List Nat} {a : _} {y : Eff} (h : (Eff.takeLocs x0 x1 x2) =
    some (y, a)) : y.dev.clock = x0.dev.clock := by
  induction x2 generalizing x0 y a with
  | nil => cases h; exact rfl
  | cons n ns ih =>
    simp only [Eff.takeLocs] at h
    split at h
    · cases h
    · rw [Option.map_eq_some_iff] at h
      obtain ⟨⟨u, v⟩, hx, hy⟩ := h
      cases hy
      have g := ih hx
      have t := Dev.takeStratus_clock (by assumption)
      exact g.trans t

theorem Eff.startEvict_clock (x0 : Eff) (x1 : Nat) : (Eff.startEvict x0 x1).dev.clock = x0.dev.clock := by
  unfold Eff.startEvict
  repeat' (first | with_reducible rfl | with_reducible refine (Eff.takeLocs_clock (by assumption)).trans ?_
                 | with_reducible refine (Dev.setObj_clock ..).trans ?_
                 | with_reducible refine (Dev.setStream_clock ..).trans ?_
                 | with_reducible refine (foldl_keep Dev.clock (fun _ _ => ?_) _ _).trans ?_ | split
                 | dsimp only [Dev.clock, Eff.mod, Eff.ops, Dev.eff])

theorem Eff.evictUntil_clock {x0 : Eff} {x1 : Dev → Bool} {x2 : List Nat} {y : Eff} (h : (Eff.evictUntil x0 x1 x2) =
    some y) : y.dev.clock = x0.dev.clock := by
  induction x2 generalizing x0 with
  | nil =>
    simp only [Eff.evictUntil] at h
    split at h
    · cases h; exact rfl
    · cases h
  | cons n ns ih =>
    simp only [Eff.evictUntil] at h
    split at h
    · cases h; exact rfl
    · split at h
      · have g := ih h
        have t := x0.startEvict_clock n
        exact g.trans t
      · exact ih h

theorem Eff.makeRoom_clock {x0 : Eff} {x1 : Job} {y : Eff} (h : (Eff.makeRoom x0 x1) = some y) : y.dev.clock =
    x0.dev.clock := by
  unfold Eff.makeRoom at h
  repeat' (first | contradiction | (split at h) | (dsimp only at h; split at h) | (cases h))
  all_goals
   (repeat' (first | with_reducible rfl | with_reducible refine (Eff.evictUntil_clock (by assumption)).trans ?_))

theorem Eff.replaceState_clock (x0 : Eff) (x1 : Nat) (x2 : StreamEntry) (x3 : SavedFields) (x4 : Nat) (x5 : List Nat)
    : (Eff.replaceState x0 x1 x2 x3 x4 x5).dev.clock = x0.dev.clock := by
  unfold Eff.replaceState
  repeat' (first | with_reducible rfl | with_reducible refine (Dev.setObj_clock ..).trans ?_
                 | with_reducible refine (Eff.writeDir_clock ..).trans ?_
                 | with_reducible refine (Dev.setStream_clock ..).trans ?_
                 | with_reducible refine (Eff.dropObj_clock ..).trans ?_
                 | with_reducible refine (foldl_keep (fun e : Eff => e.dev.clock) (fun _ _ => ?_) _ _).trans ?_
                 | dsimp only [Dev.clock, Eff.mod, Eff.ops, Dev.eff])

theorem State.openNow_clock (x0 : State) (x1 : Nat) (x2 : Wait) : (State.openNow x0 x1 x2).dev.clock = x0.dev.clock
    := by
  unfold State.openNow
  repeat' (first | with_reducible rfl | with_reducible refine (Dev.refuse_clock ..).trans ?_
                 | with_reducible refine (Eff.makeRoom_clock (by assumption)).trans ?_
                 | with_reducible refine (Dev.setStream_clock ..).trans ?_
                 | with_reducible refine (Dev.complete_clock ..).trans ?_
                 | with_reducible refine (Eff.newState_clock (by assumption)).trans ?_
                 | with_reducible refine (Eff.replaceState_clock ..).trans ?_ | split
                 | dsimp only [Dev.clock, Eff.mod, Eff.ops, Dev.eff])

theorem State.restoreNow_clock (x0 : State) (x1 : Nat) (x2 : Wait) : (State.restoreNow x0 x1 x2).dev.clock =
    x0.dev.clock := by
  unfold State.restoreNow
  dsimp only
  split
  · split
    · exact Dev.refuse_clock ..
    · split
      · exact Dev.refuse_clock ..
      · split
        · exact Dev.refuse_clock ..
        · rename_i e hr
          have g : e.dev.clock = x0.dev.clock := by
            split at hr
            · cases hr; exact rfl
            · exact Eff.makeRoom_clock hr
          split
          · exact Dev.refuse_clock ..
          · have t := Eff.newState_clock (by assumption)
            exact (Dev.complete_clock ..).trans ((Eff.replaceState_clock ..).trans ((Eff.stopRecall_clock ..).trans (t.trans g)))
  · exact Dev.refuse_clock ..

theorem State.streamNow_clock (x0 : State) (x1 : Nat) (x2 : Wait) : (State.streamNow x0 x1 x2).dev.clock =
    x0.dev.clock := by
  unfold State.streamNow
  repeat' (first | with_reducible rfl | with_reducible refine (State.apply_clock ..).trans ?_
                 | with_reducible refine (State.openNow_clock ..).trans ?_
                 | with_reducible refine (State.restoreNow_clock ..).trans ?_ | split)

theorem Dev.modStreamObjs_clock (x0 : Dev) (x1 : List Nat) (x2 : Loc) : (Dev.modStreamObjs x0 x1 x2).clock = x0.clock
    := by
  unfold Dev.modStreamObjs
  repeat' (first | with_reducible rfl | with_reducible refine (Dev.setObj_clock ..).trans ?_
                 | with_reducible refine (foldl_keep Dev.clock (fun _ _ => ?_) _ _).trans ?_)

theorem Eff.takeAddrs_clock {x0 : Eff} {x1 : Nat} {x2 : List Nat} {a : _} {y : Eff} (h : (Eff.takeAddrs x0 x1 x2) =
    some (y, a)) : y.dev.clock = x0.dev.clock := by
  induction x2 generalizing x0 y a with
  | nil => cases h; exact rfl
  | cons n ns ih =>
    simp only [Eff.takeAddrs] at h
    split at h
    · cases h
    · rw [Option.map_eq_some_iff] at h
      obtain ⟨⟨u, v⟩, hx, hy⟩ := h
      cases hy
      have g := ih hx
      have t := Eff.takeLines_clock (by assumption)
      exact g.trans t

theorem Eff.startRecall_clock (x0 : Eff) (x1 : Bool) (x2 : Nat) : (Eff.startRecall x0 x1 x2).dev.clock = x0.dev.clock
    := by
  unfold Eff.startRecall
  split
  · exact rfl
  · rename_i s hs
    have k : ∀ (o : Option Job) (y : Eff × List (Nat × Nat × Nat)), ((match o with
        | some j => if x1 then x0.makeRoom j else if x0.dev.streamFits j then some x0 else none
        | none => none).bind (fun r => r.takeAddrs s.part (r.dev.directory s))) = some y → y.1.dev.clock = x0.dev.clock := by
      intro o y h
      rw [Option.bind_eq_some_iff] at h
      obtain ⟨r, hr, hy⟩ := h
      have t := Eff.takeAddrs_clock hy
      have g : r.dev.clock = x0.dev.clock := by
        cases o with
        | none => cases hr
        | some j =>
          dsimp only at hr
          split at hr
          · exact Eff.makeRoom_clock hr
          · split at hr
            · cases hr; exact rfl
            · cases hr
      exact t.trans g
    have m : ∀ (e : Eff) (e0 : Eff) l, ((e.mod (fun d =>
        (d.setStream x2 { s with loc := .recalling }).modStreamObjs (d.directory s) .recalling)).mod (fun d =>
        { d with transfers := d.transfers.filter (fun t => !recallOf x2 t) ++ [.recall x2 l] })).dev.clock = e.dev.clock := by
      intro e e0 l
      exact (Dev.modStreamObjs_clock ..).trans (Dev.setStream_clock ..)
    dsimp only
    split
    · rename_i h
      have t := k _ _ h
      exact (m _ x0 _).trans t
    · exact m _ x0 _

theorem Eff.retryRecalls_clock (x0 : Eff) : (Eff.retryRecalls x0).dev.clock = x0.dev.clock := by
  unfold Eff.retryRecalls
  repeat' (first | with_reducible rfl | with_reducible refine (Eff.startRecall_clock ..).trans ?_
                 | with_reducible refine (foldl_keep (fun e : Eff => e.dev.clock) (fun _ _ => ?_) _ _).trans ?_
                 | split)

theorem Dev.setEnds_clock (x0 : Dev) : (Dev.setEnds x0).clock = x0.clock := rfl

theorem State.streamsAtBoundary_clock (x0 : State) : (State.streamsAtBoundary x0).dev.clock = x0.dev.clock := by
  unfold State.streamsAtBoundary
  repeat' (first | with_reducible rfl | with_reducible refine (State.apply_clock ..).trans ?_
                 | with_reducible refine (Eff.endEntries_clock ..).trans ?_
                 | with_reducible refine (Dev.eff_clock ..).trans ?_
                 | with_reducible refine (State.streamNow_clock ..).trans ?_
                 | with_reducible refine (Eff.retryRecalls_clock ..).trans ?_
                 | with_reducible refine (Dev.setEnds_clock ..).trans ?_
                 | with_reducible refine (foldl_keep (fun e : State => e.dev.clock) (fun _ _ => ?_) _ _).trans ?_)

theorem Eff.recallQueued_clock (x0 : Eff) : (Eff.recallQueued x0).dev.clock = x0.dev.clock := by
  unfold Eff.recallQueued
  repeat' (first | with_reducible rfl | with_reducible refine (Eff.startRecall_clock ..).trans ?_
                 | with_reducible refine (foldl_keep (fun e : Eff => e.dev.clock) (fun _ _ => ?_) _ _).trans ?_)

theorem Dev.markChecked_clock (x0 : Dev) (x1 : Nat) (x2 : Nat) : (Dev.markChecked x0 x1 x2).clock = x0.clock := by
  unfold Dev.markChecked
  repeat' (first | with_reducible rfl | with_reducible refine (Dev.modPart_clock ..).trans ?_)

theorem Dev.arrive_clock (x0 : Dev) (x1 : Nat) (x2 : Nat) (x3 : Nat) (x4 : Packet → Option (Code × Nat)) :
    (Dev.arrive x0 x1 x2 x3 x4).dev.clock = x0.clock := by
  unfold Dev.arrive Dev.startWith
  split
  · dsimp only
    split
    · exact Dev.complete_clock ..
    · exact Dev.markChecked_clock ..
  · exact rfl

theorem Dev.judge_clock (x0 : Dev) (x1 : Nat) (x2 : Packet) : (Dev.judge x0 x1 x2).clock = x0.clock := by
  unfold Dev.judge
  repeat' (first | with_reducible rfl | with_reducible refine (Dev.arrive_clock ..).trans ?_ | split)

theorem Dev.judgeAll_clock (x0 : Dev) : (Dev.judgeAll x0).clock = x0.clock := by
  unfold Dev.judgeAll
  repeat' (first | with_reducible rfl | with_reducible refine (Dev.judge_clock ..).trans ?_
                 | with_reducible refine (foldl_keep Dev.clock (fun _ _ => ?_) _ _).trans ?_)

theorem Dev.startPacket_clock (x0 : Dev) (x1 : Nat) (x2 : Nat) : (Dev.startPacket x0 x1 x2).clock = x0.clock := by
  unfold Dev.startPacket
  repeat' (first | with_reducible rfl | with_reducible refine (Dev.modPart_clock ..).trans ?_)

theorem Dev.wait_clock (x0 : Dev) (x1 : Nat) (x2 : Packet) (x3 : WaitFor) : (Dev.wait x0 x1 x2 x3).clock = x0.clock
    := by
  unfold Dev.wait
  repeat' (first | with_reducible rfl | with_reducible refine (Dev.modPart_clock ..).trans ?_
                 | with_reducible refine (Dev.startPacket_clock ..).trans ?_)

theorem Dev.takeControl_clock (x0 : Dev) (x1 : Nat) (x2 : Packet) : (Dev.takeControl x0 x1 x2).clock = x0.clock := by
  unfold Dev.takeControl
  repeat' (first | with_reducible rfl | with_reducible refine (Dev.setStream_clock ..).trans ?_
                 | with_reducible refine (Dev.wait_clock ..).trans ?_
                 | with_reducible refine (Dev.complete_clock ..).trans ?_ | split)

theorem Dev.takeInput_clock (x0 : Dev) (x1 : Nat) (x2 : Packet) : (Dev.takeInput x0 x1 x2).clock = x0.clock := by
  unfold Dev.takeInput
  repeat' (first | with_reducible rfl | with_reducible refine (Dev.complete_clock ..).trans ?_
                 | with_reducible refine (Dev.modJob_clock ..).trans ?_
                 | with_reducible refine (Dev.wait_clock ..).trans ?_ | split)

theorem Dev.takeFork_clock (x0 : Dev) (x1 : Nat) (x2 : Packet) : (Dev.takeFork x0 x1 x2).clock = x0.clock := by
  unfold Dev.takeFork
  repeat' (first | with_reducible rfl | with_reducible refine (Dev.modJob_clock ..).trans ?_
                 | with_reducible refine (Dev.wait_clock ..).trans ?_
                 | with_reducible refine (Dev.complete_clock ..).trans ?_ | split)

theorem Dev.takeChunk_clock (x0 : Dev) (x1 : Nat) (x2 : Packet) : (Dev.takeChunk x0 x1 x2).clock = x0.clock := by
  unfold Dev.takeChunk
  repeat' (first | with_reducible rfl | with_reducible refine (Dev.complete_clock ..).trans ?_
                 | with_reducible refine (Dev.setStream_clock ..).trans ?_
                 | with_reducible refine (Dev.modPart_clock ..).trans ?_
                 | with_reducible refine (Dev.wait_clock ..).trans ?_ | split)

theorem Dev.takeAtCut_clock (x0 : Dev) (x1 : Bool) (x2 : Nat) (x3 : Packet) : (Dev.takeAtCut x0 x1 x2 x3).clock =
    x0.clock := by
  unfold Dev.takeAtCut
  repeat' (first | with_reducible rfl | with_reducible refine (Dev.takeControl_clock ..).trans ?_
                 | with_reducible refine (Dev.complete_clock ..).trans ?_
                 | with_reducible refine (Dev.takeInput_clock ..).trans ?_
                 | with_reducible refine (Dev.takeFork_clock ..).trans ?_
                 | with_reducible refine (Dev.takeChunk_clock ..).trans ?_ | split)

theorem Dev.intake_clock (x0 : Dev) (x1 : Bool) : (Dev.intake x0 x1).clock = x0.clock := by
  unfold Dev.intake
  repeat' (first | with_reducible rfl | with_reducible refine (Dev.judgeAll_clock ..).trans ?_
                 | with_reducible refine (Dev.takeAtCut_clock ..).trans ?_
                 | with_reducible refine (Dev.markResets_clock ..).trans ?_
                 | with_reducible refine (foldl_keep Dev.clock (fun _ _ => ?_) _ _).trans ?_)

theorem Dev.slipStreams_clock (x0 : Dev) (x1 : Job) (x2 : Nat) : (Dev.slipStreams x0 x1 x2).clock = x0.clock := by
  unfold Dev.slipStreams
  repeat' (first | with_reducible rfl | with_reducible refine (Dev.modPart_clock ..).trans ?_
                 | with_reducible refine (Dev.modJob_clock ..).trans ?_
                 | with_reducible refine (foldl_keep Dev.clock (fun _ _ => ?_) _ _).trans ?_ | split)

theorem Dev.startRound_clock (x0 : Dev) (x1 : Nat) : (Dev.startRound x0 x1).clock = x0.clock := by
  unfold Dev.startRound
  repeat' (first | with_reducible rfl | with_reducible refine (Dev.stall_clock ..).trans ?_
                 | with_reducible refine (Dev.slipStreams_clock ..).trans ?_
                 | with_reducible refine (Dev.modJob_clock ..).trans ?_ | split)

theorem Dev.startRounds_clock (x0 : Dev) (x1 : Bool) : (Dev.startRounds x0 x1).clock = x0.clock := by
  unfold Dev.startRounds
  repeat' (first | with_reducible rfl | with_reducible refine (Dev.startRound_clock ..).trans ?_
                 | with_reducible refine (foldl_keep Dev.clock (fun _ _ => ?_) _ _).trans ?_ | split)

end Sys2Proof.Machine
end

