-- ==== Sys2Proof/Laws/Instants.lean ====
section
/-!
SUPPORT. When the events of rounds and ticks happen: the instant and the tick unit they leave.
-/

namespace Sys2Proof.Machine


theorem Dev.advance_clock (d : Dev) (t : Tns) : (d.advance t).clock = (max d.now t, d.tick) := rfl

theorem Dev.endPattern_clock (d : Dev) (c : Nat) : (d.endPattern c).clock = (max d.now ((d.unitOf c).patternAt +
    (if c < 384 then ceilDiv (1280 * 1000 - (d.unitOf c).patternMilli) d.ageing.clock else 600)), d.tick) := by
  unfold Dev.endPattern
  rw [Dev.modUnit_clock, Dev.count_clock, Dev.advance_clock]

/-- An item ends at `t`, or later by what its late reads and its lines' slots cost. -/
theorem Dev.itemEnds_clock (d : Dev) (h : Held) (t : Tns) (late waited : Nat) :
    (d.itemEnds h t late waited).clock = (max d.now (t + late + waited), d.tick) := by
  unfold Dev.itemEnds
  extract_lets d0 d1 d2
  have h0 : d0.tick = d.tick ∧ d.now ≤ d0.now ∧ d0.now ≤ max d.now t := by
    have key : d0.clock = d.clock ∨ d0.clock = (max d.now t, d.tick) := by
      show Dev.clock (match h.halted with
        | some x => (d.advance t).stall h.job x.1 ((d.advance t).now - x.2)
        | none => d) = _ ∨ Dev.clock (match h.halted with
        | some x => (d.advance t).stall h.job x.1 ((d.advance t).now - x.2)
        | none => d) = _
      cases h.halted with
      | some x => exact .inr (Dev.stall_clock ..)
      | none => exact .inl rfl
    rcases key with k | k
    · have k := Prod.mk.inj k
      exact ⟨k.2, Nat.le_of_eq k.1.symm, Nat.le_trans (Nat.le_of_eq k.1) (Nat.le_max_left ..)⟩
    · have k := Prod.mk.inj k
      exact ⟨k.2, Nat.le_trans (Nat.le_max_left ..) (Nat.le_of_eq k.1.symm), Nat.le_of_eq k.1⟩
  have h1 : d2.clock = d1.clock := by
    show Dev.clock (if late = 0 then d1 else d1.stall h.job .tierLate late) = _
    split
    · rfl
    · exact Dev.stall_clock ..
  have h2 := Prod.mk.inj h1
  refine (Dev.slotWait_clock ..).trans (Prod.ext ?_ (h2.2.trans h0.1))
  show max d2.now _ = _
  rw [h2.1]
  have h3 : ∀ a b c e f : Nat, a ≤ b → b ≤ max a c → max (max b (c + e)) (c + e + f) = max a (c + e + f) := by omega
  exact h3 _ _ _ _ _ h0.2.1 h0.2.2

theorem State.tileEnd_clock (s : State) (n : Nat) (h : Held) (obs : UnitObs) : (s.tileEnd n h obs).dev.clock =
    (s.dev.itemEnds h (h.endAt s.dev.ageing.clock) (s.dev.lateOf h obs) (s.dev.waitedOf h.job obs)).clock := by
  unfold State.tileEnd
  extract_lets upper w s1 d0
  have h0 : d0.clock = (s.dev.itemEnds h (h.endAt s.dev.ageing.clock) (s.dev.lateOf h obs) w).clock :=
    (State.meet_clock ..).trans ((State.withDev_clock ..).trans (Dev.nextHeld_clock ..))
  rw [← h0]
  clear_value d0
  repeat' (first | with_reducible rfl | with_reducible refine (State.withDev_clock ..).trans ?_
                 | with_reducible refine (State.apply_clock ..).trans ?_
                 | with_reducible refine (Eff.endItem_clock ..).trans ?_
                 | with_reducible refine (Eff.spoilItem_clock ..).trans ?_
                 | with_reducible refine (Eff.readLines_clock ..).trans ?_
                 | with_reducible refine (Dev.regulate_clock ..).trans ?_
                 | with_reducible refine (Dev.modCell_clock ..).trans ?_
                 | with_reducible refine (Dev.modRound_clock ..).trans ?_
                 | with_reducible refine (Dev.chargeCheck_clock ..).trans ?_
                 | with_reducible refine (Dev.cellBusy_clock ..).trans ?_ | split
                 | dsimp only [Dev.clock, Eff.mod, Dev.eff])

theorem State.sliceEnd_clock (s : State) (n : Nat) (h : Held) (obs : UnitObs) : (s.sliceEnd n h obs).dev.clock =
    (s.dev.itemEnds h (h.since + h.cost) (s.dev.lateOf h obs) (s.dev.waitedOf h.job obs)).clock := by
  unfold State.sliceEnd
  extract_lets w late s1 d0
  have h0 : d0.clock = (s.dev.itemEnds h (h.since + h.cost) late w).clock :=
    (State.meet_clock ..).trans ((State.withDev_clock ..).trans (Dev.modEngine_clock ..))
  rw [← h0]
  clear_value d0
  repeat' (first | with_reducible rfl | with_reducible refine (State.withDev_clock ..).trans ?_
                 | with_reducible refine (State.apply_clock ..).trans ?_
                 | with_reducible refine (Eff.endItem_clock ..).trans ?_
                 | with_reducible refine (Eff.spoilItem_clock ..).trans ?_
                 | with_reducible refine (Dev.regulate_clock ..).trans ?_
                 | with_reducible refine (Dev.modEngine_clock ..).trans ?_
                 | with_reducible refine (Dev.modRound_clock ..).trans ?_
                 | with_reducible refine (Dev.engineBusy_clock ..).trans ?_ | split
                 | dsimp only [Dev.clock, Eff.mod, Dev.eff])

/-- A tile that waits for no line ends on its cell. -/
theorem State.tileComplete_clock (s : State) (n : Nat) (obs : UnitObs) (h : Held) (hh : (s.dev.cell n).held = some h)
    (hw : h.wants = []) (hl : s.tileHalt h obs = none) : (s.tileComplete n obs).dev.clock =
      (max s.dev.now (h.endAt s.dev.ageing.clock + s.dev.lateOf h obs + s.dev.waitedOf h.job obs), s.dev.tick) := by
  unfold State.tileComplete
  simp only [hh, Option.filter, Option.bind, hl, hw, List.isEmpty_nil, if_true]
  exact (State.pump_clock ..).trans ((State.settleInst_clock ..).trans ((State.tileEnd_clock ..).trans (Dev.itemEnds_clock ..)))

/-- A slice that waits for no line ends on its engine. -/
theorem State.sliceComplete_clock (s : State) (n : Nat) (obs : UnitObs) (h : Held) (hh : (s.dev.engine n).held = some h)
    (hw : h.wants = []) (hl : s.sliceHalt h obs = none) : (s.sliceComplete n obs).dev.clock =
      (max s.dev.now (h.since + h.cost + s.dev.lateOf h obs + s.dev.waitedOf h.job obs), s.dev.tick) := by
  unfold State.sliceComplete
  simp only [hh, Option.filter, Option.bind, hl, hw, List.isEmpty_nil, if_true]
  exact (State.pump_clock ..).trans ((State.settleInst_clock ..).trans ((State.countSteps_clock ..).trans
    ((State.sliceEnd_clock ..).trans (Dev.itemEnds_clock ..))))

theorem State.passEnd_clock (s : State) (g job op : Nat) (hj : (s.dev.region g).sorter.job = some (job, op)) :
    (s.passEnd g).dev.clock = (max s.dev.now ((s.dev.region g).sorter.start +
      ceilDiv (72 * 1000 - (s.dev.region g).sorter.milli) s.dev.ageing.clock), s.dev.tick) := by
  unfold State.passEnd
  simp only [hj]
  generalize hd : (s.dev.advance _).modRegion g _ = d0
  have h0 : d0.clock = (max s.dev.now ((s.dev.region g).sorter.start +
      ceilDiv (72 * 1000 - (s.dev.region g).sorter.milli) s.dev.ageing.clock), s.dev.tick) := by rw [← hd]; rfl
  rw [← h0]
  clear h0 hd
  repeat' (first | with_reducible rfl | with_reducible refine (State.withDev_clock ..).trans ?_
                 | with_reducible refine (State.pump_clock ..).trans ?_
                 | with_reducible refine (State.settleInst_clock ..).trans ?_
                 | with_reducible refine (State.apply_clock ..).trans ?_
                 | with_reducible refine (Eff.readLines_clock ..).trans ?_
                 | with_reducible refine (Dev.modRound_clock ..).trans ?_
                 | with_reducible refine (Dev.regulateLines_clock ..).trans ?_
                 | with_reducible refine (Dev.sorterBusy_clock ..).trans ?_ | split
                 | dsimp only [Dev.clock, Eff.mod, Dev.eff])

theorem State.patternEnd_clock (s : State) (c : Nat) (pass : Bool) (h : s.dev.patternOn c = true) :
    (s.patternEnd c pass).dev.clock = (s.dev.endPattern c).clock := by
  unfold State.patternEnd
  rw [if_neg (by simp [h])]
  dsimp only
  rw [State.pump_clock, State.apply_clock]
  split
  · exact Eff.patternPasses_clock ..
  · exact Eff.patternFails_clock ..

theorem Dev.clock_window (d : Dev) (b : Bool) : Dev.clock { d with tick := { d.tick with commitDone := true, roundsDone := b } } =
    (d.clock.1, { d.clock.2 with commitDone := true, roundsDone := b }) := rfl

theorem State.commitFails_clock (s : State) : s.commitFails.dev.clock =
    (s.dev.now, { s.dev.tick with commitDone := true, roundsDone := false }) := by
  unfold State.commitFails
  extract_lets l d d1
  have h : d1.clock = s.dev.clock :=
    (foldl_keep Dev.clock (fun _ _ => Dev.modRound_clock ..) _ _).trans (Dev.countTicks_clock ..)
  refine (State.withDev_clock ..).trans ((Dev.clock_window d1 false).trans ?_)
  rw [h]

theorem State.commitAll_clock (s : State) : s.commitAll.dev.clock =
    (s.dev.now, { s.dev.tick with commitDone := true, roundsDone := true }) := by
  unfold State.commitAll
  extract_lets done drop s1 s2 s3 s4 s5 queued e
  have h1 : s1.dev.clock = s.dev.clock := (State.withDev_clock ..).trans (Dev.countTicks_clock ..)
  have h2 : s2.dev.clock = s1.dev.clock := foldl_keep (fun e : State => e.dev.clock)
    (fun a j => (State.commitRound_clock ..).trans (State.lateForks_clock ..)) _ _
  have h3 : s3.dev.clock = s2.dev.clock := foldl_keep (fun e : State => e.dev.clock) (fun a j => State.dropRound_clock ..) _ _
  have h4 : s4.dev.clock = s3.dev.clock := (State.apply_clock ..).trans ((Eff.showStores_clock ..).trans (Dev.controlsDone_clock ..))
  have h5 : s5.dev.clock = s4.dev.clock := State.captureSaves_clock ..
  clear_value s5 s4 s3 s2 s1
  have h6 := (Dev.markResets_clock (s5.dev.eff.endEntries (fun n => queued.contains n)).dev).trans ((Eff.endEntries_clock ..).trans
    (h5.trans (h4.trans (h3.trans (h2.trans h1)))))
  rw [State.apply_clock]
  have he : e.dev.clock = (s.dev.now, { s.dev.tick with commitDone := true, roundsDone := true }) := by
    refine (congrArg Dev.clock (Eff.mod_dev' _ _)).trans ((Dev.clock_window _ true).trans ?_)
    rw [h6]
  exact he

theorem State.commitWindow_clock (s : State) (completes : Bool) (h1 : s.dev.tick.started = true)
    (h2 : s.dev.tick.commitDone = false) : (s.commitWindow completes).dev.clock =
      (max s.dev.now (s.dev.tick.next - 16000), { s.dev.tick with commitDone := true, roundsDone := completes }) := by
  unfold State.commitWindow
  rw [if_neg (by simp [h1, h2])]
  dsimp only
  rw [State.pump_clock]
  have hf := Prod.mk.inj (State.flare_clock s)
  have h : (s.flare.withDev ((s.flare.dev.advance (s.dev.tick.next - 16000)).bestEffortStop.tickLate s.safety.safe)).dev.clock =
      (max s.dev.now (s.dev.tick.next - 16000), s.dev.tick) := by
    rw [State.withDev_clock, Dev.tickLate_clock, Dev.bestEffortStop_clock, Dev.advance_clock, hf.1, hf.2]
  have h3 := Prod.mk.inj h
  cases completes with
  | true => rw [if_pos rfl, State.commitAll_clock, h3.1, h3.2]
  | false => rw [if_neg (by simp), State.commitFails_clock, h3.1, h3.2]

theorem State.boundary_clock (s : State) : s.boundary.dev.clock = (s.dev.advance s.dev.tick.next).beginTick.clock := by
  unfold State.boundary
  extract_lets d0 cap d1 auto missed clears exit s1 e parts all e1 quotas s2 s3 s4
  have h1 : s1.dev.clock = d1.clock := by
    refine (State.apply_clock ..).trans ?_
    split
    · exact Dev.raise_clock ..
    · rfl
  have he : e.dev.clock = d1.clock := (Eff.changes_clock ..).trans h1
  have he1 : e1.dev.clock = d1.clock := (Eff.readmitAt_clock ..).trans he
  have h2 : s2.dev.clock = d1.clock := (State.apply_clock ..).trans ((Dev.discardOld_clock ..).trans ((Dev.tellCapacity_clock ..).trans he1))
  have h3 : s3.dev.clock = d1.clock := (State.streamsAtBoundary_clock ..).trans h2
  have h4 : s4.dev.clock = d1.clock := (State.apply_clock ..).trans ((Eff.recallQueued_clock ..).trans ((Dev.intake_clock ..).trans h3))
  exact (State.pump_clock ..).trans ((State.withDev_clock ..).trans ((Dev.startRounds_clock ..).trans h4))


end Sys2Proof.Machine
end

