-- ==== Sys2Proof/Laws/Items.lean ====
section
/-!
SUPPORT. What the end of an item keeps: the causes raised, the instances of a job's round, what a cell and an engine hold,
and a region's sorter.
-/

namespace Sys2Proof.Machine

/-- A round's number and instances. -/
def Round.dealt (r : Round) : Nat × List Inst := (r.number, r.insts)

/-- The causes raised, the instances of a job's round, what cell and engine `n` hold and the sorter of region `g`. -/
def Dev.items (job n g : Nat) (d : Dev) :
    List (Nat × Nat) × Option (Nat × List Inst) × Option Held × Option Held × Sorter :=
  (d.raised, (d.round? job).map (fun y => y.2.dealt), (d.cell n).held, (d.engine n).held, (d.region g).sorter)

variable {job n g : Nat}

theorem Dev.round?_dealt (d : Dev) (j : Nat) :
    (d.round? j).map (fun y => y.2.dealt) = (d.job? j).bind (fun x => x.round.map Round.dealt) := by
  unfold Dev.round?
  cases d.job? j with
  | none => rfl
  | some x => cases h : x.round <;> simp [h]

theorem Dev.items_of {d e : Dev} (h1 : e.raised = d.raised) (h2 : e.jobs = d.jobs) (h3 : e.cells = d.cells)
    (h4 : e.engines = d.engines) (h5 : (e.region g).sorter = (d.region g).sorter) : e.items job n g = d.items job n g := by
  unfold Dev.items Dev.round? Dev.job? Dev.cell Dev.engine
  rw [h1, h2, h3, h4, h5]

theorem Dev.modJob_items (d : Dev) (k : Nat) (f : Job → Job)
    (hf : ∀ x, (f x).round.map Round.dealt = x.round.map Round.dealt) : (d.modJob k f).items job n g = d.items job n g := by
  have h : ((d.modJob k f).round? job).map (fun y => y.2.dealt) = (d.round? job).map (fun y => y.2.dealt) := by
    rw [Dev.round?_dealt, Dev.round?_dealt]
    unfold Dev.modJob
    cases hj : d.job? k with
    | none => rfl
    | some x =>
      by_cases hk : job = k
      · subst hk; simp [Dev.job?, hf, show tget d.jobs job = some x from hj]
      · simp [Dev.job?, tget_tset_other _ _ _ _ hk]
  have hk : ∀ β (q : Dev → β), (∀ l, q { d with jobs := l } = q d) → q (d.modJob k f) = q d := by
    intro β q hq
    unfold Dev.modJob
    split
    · exact hq _
    · rfl
  unfold Dev.items
  rw [h, hk _ Dev.raised fun _ => rfl, hk _ (fun e => (e.cell n).held) fun _ => rfl,
    hk _ (fun e => (e.engine n).held) fun _ => rfl, hk _ (fun e => (e.region g).sorter) fun _ => rfl]

theorem Dev.modRound_items (d : Dev) (k : Nat) (f : Round → Round) (hf : ∀ r, (f r).dealt = r.dealt) :
    (d.modRound k f).items job n g = d.items job n g := by
  unfold Dev.modRound
  refine Dev.modJob_items _ _ _ (fun x => ?_)
  cases x.round <;> simp [hf]

theorem Dev.regionMap_items (d : Dev) (f : Region → Region) (hf : ∀ r, (f r).sorter = r.sorter) :
    ({ d with regions := d.regions.map (fun r => (r.1, f r.2)) } : Dev).items job n g = d.items job n g := by
  refine Dev.items_of rfl rfl rfl rfl ?_
  have h : ∀ l : List (Nat × Region), (tgetD (l.map (fun r => (r.1, f r.2))) g {}).sorter = (tgetD l g {}).sorter := by
    intro l
    induction l with
    | nil => rfl
    | cons x l ih =>
      by_cases hx : x.1 = g
      · simp [tgetD, tget, hx, hf]
      · simpa [tgetD, tget, hx] using ih
  exact h d.regions

theorem Dev.modRegion_items (d : Dev) (k : Nat) (f : Region → Region) (hf : ∀ r, (f r).sorter = r.sorter) :
    (d.modRegion k f).items job n g = d.items job n g := by
  refine Dev.items_of rfl rfl rfl rfl ?_
  show (tgetD (tset d.regions k (f (d.region k))) g {}).sorter = (tgetD d.regions g {}).sorter
  by_cases h : g = k
  · subst h; rw [tgetD_tset_same, hf]; rfl
  · rw [tgetD_tset_other _ _ _ _ _ h]

theorem Dev.modCell_items (d : Dev) (k : Nat) (f : ComputeUnit → ComputeUnit) (hf : ∀ c, (f c).held = c.held) :
    (d.modCell k f).items job n g = d.items job n g := by
  have h : ((d.modCell k f).cell n).held = (d.cell n).held := by
    show (tgetD (tset d.cells k (f (d.cell k))) n {}).held = (tgetD d.cells n {}).held
    by_cases h : n = k
    · subst h; rw [tgetD_tset_same, hf]; rfl
    · rw [tgetD_tset_other _ _ _ _ _ h]
  unfold Dev.items
  rw [h]
  rfl

theorem Dev.modEngine_items (d : Dev) (k : Nat) (f : ComputeUnit → ComputeUnit) (hf : ∀ c, (f c).held = c.held) :
    (d.modEngine k f).items job n g = d.items job n g := by
  have h : ((d.modEngine k f).engine n).held = (d.engine n).held := by
    show (tgetD (tset d.engines k (f (d.engine k))) n {}).held = (tgetD d.engines n {}).held
    by_cases h : n = k
    · subst h; rw [tgetD_tset_same, hf]; rfl
    · rw [tgetD_tset_other _ _ _ _ _ h]
  unfold Dev.items
  rw [h]
  rfl

/-! ### Counters and waits -/

theorem Dev.count_items (d : Dev) (i s k : Nat) : (d.count i s k).items job n g = d.items job n g :=
  Dev.items_of rfl rfl rfl rfl rfl

theorem Dev.cellBusy_items (d : Dev) (j : Job) (r : Role) (k : Nat) : (d.cellBusy j r k).items job n g = d.items job n g := by
  unfold Dev.cellBusy Dev.account
  split <;> exact Eq.trans (Dev.modJob_items _ _ _ (by intro; rfl)) (Dev.items_of rfl rfl rfl rfl rfl)

theorem Dev.engineBusy_items (d : Dev) (j : Job) (r : Role) (k : Nat) : (d.engineBusy j r k).items job n g = d.items job n g := by
  unfold Dev.engineBusy Dev.account
  split <;> exact Eq.trans (Dev.modJob_items _ _ _ (by intro; rfl)) (Dev.items_of rfl rfl rfl rfl rfl)

theorem Dev.sorterBusy_items (d : Dev) (j : Job) (k : Nat) : (d.sorterBusy j k).items job n g = d.items job n g := by
  unfold Dev.sorterBusy Dev.account
  exact Eq.trans (Dev.modJob_items _ _ _ (by intro; rfl)) (Dev.items_of rfl rfl rfl rfl rfl)

theorem Job.addStall_round (y : Job) (s : Stall) (l : List Nat) (ns : Nat) :
    (y.addStall s l ns).round.map Round.dealt = y.round.map Round.dealt := by
  unfold Job.addStall
  cases y.round <;> rfl

theorem Job.sweep_round (y : Job) (now : Tns) : (y.sweep now).round.map Round.dealt = y.round.map Round.dealt := by
  unfold Job.sweep
  split
  · rfl
  · split
    · rfl
    · dsimp only
      rw [← Job.addStall_round y _ _ _, Option.map_map]
      rfl

theorem Job.stall_round (y : Job) (s : Stall) (now : Tns) (ns : Nat) :
    (y.stall s now ns).round.map Round.dealt = y.round.map Round.dealt := by
  unfold Job.stall
  split
  · exact Job.addStall_round ..
  · split
    · exact Job.sweep_round ..
    · dsimp only
      rw [← Job.addStall_round y s [] _, Option.map_map]
      rfl

theorem Dev.stall_items (d : Dev) (k : Nat) (s : Stall) (ns : Nat) : (d.stall k s ns).items job n g = d.items job n g :=
  Dev.modJob_items _ _ _ fun _ => Job.stall_round ..

theorem Dev.advance_items (d : Dev) (t : Tns) : (d.advance t).items job n g = d.items job n g :=
  Dev.items_of rfl rfl rfl rfl rfl

theorem Dev.slotWait_items (d : Dev) (k w : Nat) : (d.slotWait k w).items job n g = d.items job n g := by
  unfold Dev.slotWait
  split
  · rfl
  · exact Dev.stall_items ..

theorem Dev.itemEnds_items (d : Dev) (h : Held) (t : Tns) (late waited : Nat) :
    (d.itemEnds h t late waited).items job n g = d.items job n g := by
  unfold Dev.itemEnds
  refine (Dev.slotWait_items ..).trans ((Dev.advance_items ..).trans ?_)
  have k : ∀ e : Dev, (if late = 0 then e else e.stall h.job .tierLate late).items job n g = e.items job n g := by
    intro e; split
    · rfl
    · exact Dev.stall_items ..
  refine (k _).trans ((Dev.advance_items ..).trans ?_)
  split
  · exact (Dev.stall_items ..).trans (Dev.advance_items ..)
  · rfl

/-! ### Lines read and written -/

theorem Dev.takeTokens_items (d : Dev) (p k m : Nat) : (d.takeTokens p k m).items job n g = d.items job n g :=
  Dev.items_of rfl rfl rfl rfl rfl

theorem Dev.takeCritical_items (d : Dev) (p k m : Nat) : (d.takeCritical p k m).items job n g = d.items job n g := by
  unfold Dev.takeCritical
  dsimp only
  split
  · exact Dev.items_of rfl rfl rfl rfl rfl
  · exact (Dev.takeTokens_items ..).trans (Dev.items_of rfl rfl rfl rfl rfl)

theorem Dev.regulate_items (d : Dev) (j : Job) (c : Bool) (ts : List Traffic) :
    (d.regulate j c ts).items job n g = d.items job n g := by
  unfold Dev.regulate
  refine foldl_keep (Dev.items job n g) (fun a t => ?_) _ _
  split
  · split
    · rfl
    · split
      · exact Dev.takeCritical_items ..
      · exact Dev.takeTokens_items ..
  · rfl

theorem Dev.regulateLines_items (d : Dev) (j : Job) (l : List Nat) :
    (d.regulateLines j l).items job n g = d.items job n g := by
  unfold Dev.regulateLines
  split
  · rfl
  · refine foldl_keep (Dev.items job n g) (fun a t => ?_) _ _
    dsimp only
    split
    · rfl
    · exact Dev.takeTokens_items ..

theorem Round.fail_dealt (r : Round) (who : Option PartId) (c : Code) (t : Tns) (b : Nat) : (r.fail who c t b).dealt = r.dealt := by
  unfold Round.fail
  split <;> rfl

theorem Round.failMet_dealt (r : Round) (m : Mem) (l : List (Nat × Nat)) (t : Tns) (b : Nat) (ms : List Met) :
    (r.failMet m l t b ms).dealt = r.dealt := by
  unfold Round.failMet
  have key : ∀ (ms : List Met) (r : Round), (ms.foldl (fun (acc : Round) x =>
      let y := x.lines.foldl (fun (a : Round) z =>
        a.fail x.who (m.poisonCode l z) t (if Space.stratus.firstLine ≤ z then 6 else b)) acc
      if x.lost then y.fail x.who .dataLost t b else y) r).dealt = r.dealt := by
    intro ms
    induction ms with
    | nil => intro r; rfl
    | cons x ms ih =>
      intro r
      refine (ih _).trans ?_
      have inner : ∀ (ls : List Nat) (r : Round), (ls.foldl (fun (a : Round) z =>
          a.fail x.who (m.poisonCode l z) t (if Space.stratus.firstLine ≤ z then 6 else b)) r).dealt = r.dealt := by
        intro ls
        induction ls with
        | nil => intro r; rfl
        | cons y ls ih => intro r; exact (ih _).trans (Round.fail_dealt ..)
      dsimp only
      split
      · exact (Round.fail_dealt ..).trans (inner ..)
      · exact inner ..
  exact key ms r

theorem Dev.stageCells_items (d : Dev) (k : Nat) (cs : List Host.Cell) : (d.stageCells k cs).items job n g = d.items job n g :=
  Dev.modRound_items _ _ _ fun _ => rfl

theorem Eff.flushEntry_items (e : Eff) (m : Mem) (w : WcbEntry) : (e.flushEntry m w).dev.items job n g = e.dev.items job n g := by
  unfold Eff.flushEntry
  split
  · rfl
  · dsimp only
    split
    · refine (foldl_keep (Dev.items job n g) (fun a k => ?_) _ _).trans (Dev.regionMap_items e.dev (fun x => { x with wcb := x.wcb.filter (fun y => y.line != w.line) }) fun _ => rfl)
      split
      · exact Dev.modRound_items _ _ _ fun _ => Round.fail_dealt ..
      · rfl
    · exact (foldl_keep (Dev.items job n g) (fun a k => Dev.stageCells_items ..) _ _).trans
        (Dev.regionMap_items e.dev (fun x => { x with wcb := x.wcb.filter (fun y => y.line != w.line) }) fun _ => rfl)

theorem Eff.flushWhere_items (e : Eff) (m : Mem) (f : WcbEntry → Bool) :
    (e.flushWhere m f).dev.items job n g = e.dev.items job n g :=
  foldl_keep (fun e : Eff => e.dev.items job n g) (fun _ _ => Eff.flushEntry_items ..) _ _

theorem Eff.touch_items (e : Eff) (a : Access) (hint : Nat) (x : CacheLine) :
    (e.touch a hint x).dev.items job n g = e.dev.items job n g := by
  unfold Eff.touch
  split
  · rfl
  · dsimp only
    split
    · exact Dev.modRegion_items _ _ _ fun _ => rfl
    · show (e.dev.cacheTouch a hint x).items job n g = _
      unfold Dev.cacheTouch
      split
      · rfl
      · exact Dev.modRegion_items _ _ _ fun _ => rfl

theorem Eff.cacheWrite_items (e : Eff) (k l : Nat) (a : Access) : (e.cacheWrite k l a).dev.items job n g = e.dev.items job n g :=
  Eff.touch_items ..

theorem Eff.readLine_items (e : Eff) (m : Mem) (k l h : Nat) (a : Bool) :
    (e.readLine m k l h a).dev.items job n g = e.dev.items job n g := by
  unfold Eff.readLine
  split
  · rfl
  · exact (Eff.touch_items ..).trans (Eff.flushWhere_items ..)

theorem Eff.readLines_items (e : Eff) (m : Mem) (k : Nat) (l : List Reach) :
    (e.readLines m k l).dev.items job n g = e.dev.items job n g := by
  unfold Eff.readLines
  refine foldl_keep (fun e : Eff => e.dev.items job n g) (fun a x => ?_) _ _
  split
  · rfl
  · exact foldl_keep (fun e : Eff => e.dev.items job n g) (fun _ _ => Eff.readLine_items ..) _ _

theorem Eff.combine_items (e : Eff) (m : Mem) (k l : Nat) (cs : List Host.Cell) :
    (e.combine m k l cs).dev.items job n g = e.dev.items job n g := by
  unfold Eff.combine
  extract_lets r old e1 w e2
  have h1 : e1.dev.items job n g = e.dev.items job n g := by
    clear_value old
    clear e2 w
    cases old with
    | some _ => rfl
    | none =>
      show (if _ then e else _ : Eff).dev.items job n g = _
      split
      · rfl
      · split
        · exact Eff.flushEntry_items ..
        · rfl
  have h2 : e2.dev.items job n g = e1.dev.items job n g := Dev.modRegion_items _ _ _ fun _ => rfl
  split
  · exact (Eff.flushEntry_items ..).trans (h2.trans h1)
  · exact h2.trans h1

theorem Eff.writeOut_items (e : Eff) (m : Mem) (k : Nat) (cs : List Host.Cell) :
    (e.writeOut m k cs).dev.items job n g = e.dev.items job n g := by
  unfold Eff.writeOut
  refine foldl_keep (fun e : Eff => e.dev.items job n g) (fun a x => ?_) _ _
  dsimp only
  split
  · exact Dev.stageCells_items ..
  · split
    · exact (Dev.stageCells_items ..).trans ((Eff.cacheWrite_items ..).trans (Dev.regionMap_items a.dev (fun r => { r with wcb := r.wcb.filter (fun y => y.line != x) }) fun _ => rfl))
    · split
      · exact (Dev.stageCells_items ..).trans (Eff.cacheWrite_items ..)
      · exact Eff.combine_items ..

/-! ### The device after an effect -/

theorem State.apply_items (s : State) (e : Eff) (h : e.dev.raised = []) : (s.apply e).dev.items job n g = e.dev.items job n g := by
  have k := s.apply_only e h
  exact Dev.items_of k.raised k.jobs k.cells k.engines (by unfold Dev.region; rw [k.regions])

theorem State.withDev_items (s : State) (d : Dev) (h : d.raised = []) : (s.withDev d).dev.items job n g = d.items job n g :=
  s.apply_items _ h

theorem Dev.items_raised {d e : Dev} (h : e.items job n g = d.items job n g) : e.raised = d.raised := congrArg Prod.fst h

/-! ### The end of an item -/

/-- Operator, items left, slices and the items under a vote of an instance. -/
def Inst.brief (x : Inst) : Nat × Nat × List Slice × List Nat := (x.op, x.left, x.slices, x.votes.map Vote.item)

/-- A round's number and its instances in brief. -/
def Round.brief (r : Round) : Nat × List (Nat × Nat × List Slice × List Nat) := (r.number, r.insts.map Inst.brief)

/-- As `Dev.items`, with the instances in brief. -/
def Dev.brief (job n g : Nat) (d : Dev) : List (Nat × Nat) × Option (Nat × List (Nat × Nat × List Slice × List Nat)) ×
    Option Held × Option Held × Sorter :=
  (d.raised, (d.round? job).map (fun y => y.2.brief), (d.cell n).held, (d.engine n).held, (d.region g).sorter)

theorem Dev.brief_of_items {d e : Dev} (h : e.items job n g = d.items job n g) : e.brief job n g = d.brief job n g := by
  have k : ∀ d : Dev, d.brief job n g = ((d.items job n g).1, (d.items job n g).2.1.map (fun y => (y.1, y.2.map Inst.brief)),
      (d.items job n g).2.2) := by
    intro d
    simp only [Dev.brief, Dev.items, Option.map_map]
    rfl
  rw [k, k, h]

/-- The round of a job with its round changed. -/
theorem Dev.modRound_round (d : Dev) (k : Nat) (f : Round → Round) :
    (d.modRound k f).round? k = (d.round? k).map (fun y => ({ y.1 with round := some (f y.2) }, f y.2)) := by
  unfold Dev.modRound Dev.modJob Dev.round? Dev.job?
  cases h : tget d.jobs k with
  | none => simp [h]
  | some x => cases hr : x.round <;> simp [hr]

theorem Dev.modRound_brief (d : Dev) (f : Round → Round) : (d.modRound job f).brief job n g =
    (d.raised, (d.round? job).map (fun y => (f y.2).brief), (d.cell n).held, (d.engine n).held, (d.region g).sorter) := by
  have hk : ∀ β (q : Dev → β), (∀ l, q { d with jobs := l } = q d) → q (d.modRound job f) = q d := by
    intro β q hq
    unfold Dev.modRound Dev.modJob
    split
    · exact hq _
    · rfl
  unfold Dev.brief
  rw [Dev.modRound_round, Option.map_map, hk _ Dev.raised fun _ => rfl, hk _ (fun e => (e.cell n).held) fun _ => rfl,
    hk _ (fun e => (e.engine n).held) fun _ => rfl, hk _ (fun e => (e.region g).sorter) fun _ => rfl]
  rfl

theorem Dev.modRound_brief_same (d : Dev) (f : Round → Round) (hf : ∀ r, (f r).brief = r.brief) :
    (d.modRound job f).brief job n g = d.brief job n g := by
  rw [Dev.modRound_brief]
  simp only [hf]
  rfl

theorem Round.modInst_brief (r : Round) (op : Nat) (f : Inst → Inst) (hf : ∀ x, (f x).brief = x.brief) :
    (r.modInst op f).brief = r.brief := by
  unfold Round.modInst Round.brief
  refine Prod.ext rfl ?_
  show (r.insts.map _).map Inst.brief = _
  rw [List.map_map]
  refine List.map_congr_left (fun x _ => ?_)
  show Inst.brief (if x.op = op then f x else x) = _
  split
  · exact hf x
  · rfl

theorem Inst.modVote_brief (x : Inst) (item : Nat) (f : Vote → Vote) (hf : ∀ v, (f v).item = v.item) :
    (x.modVote item f).brief = x.brief := by
  unfold Inst.modVote Inst.brief
  refine Prod.ext rfl (Prod.ext rfl (Prod.ext rfl ?_))
  show (x.votes.map _).map Vote.item = _
  rw [List.map_map]
  refine List.map_congr_left (fun v _ => ?_)
  show Vote.item (if v.item = item then f v else v) = _
  split
  · exact hf v
  · rfl

/-- An instance in brief with one item fewer left. -/
def oneLess (op : Nat) (b : Nat × Nat × List Slice × List Nat) : Nat × Nat × List Slice × List Nat :=
  if b.1 = op then (b.1, b.2.1 - 1, b.2.2) else b

theorem Round.oneLess_brief (r : Round) (op : Nat) : (r.modInst op (fun x => { x with left := x.left - 1 })).brief =
    (r.number, (r.insts.map Inst.brief).map (oneLess op)) := by
  unfold Round.modInst Round.brief
  refine Prod.ext rfl ?_
  show (r.insts.map _).map Inst.brief = _
  rw [List.map_map, List.map_map]
  refine List.map_congr_left (fun x _ => ?_)
  show Inst.brief (if x.op = op then _ else x) = oneLess op x.brief
  unfold oneLess Inst.brief
  split <;> simp_all

theorem Eff.standItem_brief (e : Eff) (m : Mem) (i : ItemEnd) : (e.standItem m i).dev.brief i.job n g = e.dev.brief i.job n g := by
  unfold Eff.standItem
  split
  · exact Dev.brief_of_items (Eff.writeOut_items ..)
  · exact Dev.modRound_brief_same _ _ fun r => Round.modInst_brief _ _ _ fun x => rfl

/-- The end of an original that no vote waits for. -/
theorem Eff.endItem_brief (e : Eff) (m : Mem) (i : ItemEnd) (ho : i.role = .original)
    (hv : ∀ b ∈ (e.dev.round? i.job).map (fun y => y.2.brief), ∀ x ∈ b.2, x.1 = i.op → i.item ∉ x.2.2.2) :
    (e.endItem m i).dev.brief i.job n g = (e.dev.raised, (e.dev.round? i.job).map (fun y =>
      (y.2.number, (y.2.insts.map Inst.brief).map (oneLess i.op))), (e.dev.cell n).held, (e.dev.engine n).held,
      (e.dev.region g).sorter) := by
  unfold Eff.endItem
  extract_lets e1 e2
  have h0 : (e.standItem m i).dev.brief i.job n g = e.dev.brief i.job n g := Eff.standItem_brief ..
  have h1 : e1.dev.brief i.job n g = (e.dev.raised, (e.dev.round? i.job).map (fun y =>
      (y.2.number, (y.2.insts.map Inst.brief).map (oneLess i.op))), (e.dev.cell n).held, (e.dev.engine n).held,
      (e.dev.region g).sorter) := by
    have : e1 = (e.standItem m i).mod (fun d => d.modRound i.job (fun r => r.modInst i.op (fun x => { x with left := x.left - 1 }))) := by
      show (if i.role = .original then _ else e) = _
      rw [if_pos ho]
    rw [this]
    refine (Dev.modRound_brief ..).trans ?_
    simp only [Round.oneLess_brief]
    have k := h0
    unfold Dev.brief at k
    simp only [Prod.mk.injEq] at k
    obtain ⟨k1, k2, k3, k4, k5⟩ := k
    rw [k1, k3, k4, k5]
    have : ∀ d : Dev, (d.round? i.job).map (fun y => (y.2.number, (y.2.insts.map Inst.brief).map (oneLess i.op))) =
        ((d.round? i.job).map (fun y => y.2.brief)).map (fun b => (b.1, b.2.map (oneLess i.op))) := by
      intro d; rw [Option.map_map]; rfl
    rw [this, this, k2]
  have h2 : e2.dev.brief i.job n g = e1.dev.brief i.job n g := by
    refine Dev.modRound_brief_same _ _ fun r => Round.modInst_brief _ _ _ fun x => Inst.modVote_brief _ _ _ fun v => ?_
    cases i.role <;> rfl
  have hfin := h2.trans h1
  split
  · exact hfin
  · rename_i j r hr
    have hno : (r.insts.find? (fun x => x.op == i.op)).bind (fun x => x.votes.find? (fun v => v.item == i.item)) = none := by
      have hb := congrArg (fun z => z.2.1) hfin
      simp only [Dev.brief, hr, Option.map_some] at hb
      cases he : e.dev.round? i.job with
      | none => simp [he] at hb
      | some y =>
        rw [he] at hb hv
        simp only [Option.map_some, Option.some.injEq] at hb
        have hb2 : r.insts.map Inst.brief = (y.2.insts.map Inst.brief).map (oneLess i.op) := congrArg Prod.snd hb
        cases hx : r.insts.find? (fun x => x.op == i.op) with
        | none => rfl
        | some x =>
          have hop : x.op = i.op := by simpa using List.find?_some hx
          have hmem : x.brief ∈ r.insts.map Inst.brief := List.mem_map_of_mem (List.mem_of_find?_eq_some hx)
          rw [hb2] at hmem
          obtain ⟨b, hbm, hbx⟩ := List.mem_map.1 hmem
          have hvb := hv y.2.brief (by simp) b hbm
          have hs : b.1 = x.op ∧ b.2.2.2 = x.votes.map Vote.item := by
            unfold oneLess Inst.brief at hbx
            split at hbx
            · exact ⟨congrArg Prod.fst hbx, congrArg (fun z => z.2.2.2) hbx⟩
            · exact ⟨congrArg Prod.fst hbx, congrArg (fun z => z.2.2.2) hbx⟩
          have hno := hvb (hs.1.trans hop)
          rw [hs.2] at hno
          refine List.find?_eq_none.2 (fun v hvm => ?_)
          simp only [beq_iff_eq]
          exact fun h => hno (h ▸ List.mem_map_of_mem hvm)
    rw [hno]
    exact hfin

/-- The end of an original that met a bad line. -/
theorem Eff.spoilItem_brief (e : Eff) (i : ItemEnd) (ho : i.role = .original)
    (hv : ∀ b ∈ (e.dev.round? i.job).map (fun y => y.2.brief), ∀ x ∈ b.2, x.1 = i.op → i.item ∉ x.2.2.2) :
    (e.spoilItem i).dev.brief i.job n g = (e.dev.raised, (e.dev.round? i.job).map (fun y =>
      (y.2.number, (y.2.insts.map Inst.brief).map (oneLess i.op))), (e.dev.cell n).held, (e.dev.engine n).held,
      (e.dev.region g).sorter) := by
  unfold Eff.spoilItem
  refine (Dev.modRound_brief ..).trans (Prod.ext rfl (Prod.ext ?_ rfl))
  cases he : e.dev.round? i.job with
  | none => rfl
  | some y =>
    rw [he] at hv
    refine congrArg some ?_
    unfold Round.modInst Round.brief
    refine Prod.ext rfl ?_
    show (y.2.insts.map _).map Inst.brief = (y.2.insts.map Inst.brief).map (oneLess i.op)
    rw [List.map_map, List.map_map]
    refine List.map_congr_left (fun x hx => ?_)
    have hvx := hv y.2.brief (by simp) x.brief (List.mem_map_of_mem hx)
    show Inst.brief (if x.op = i.op then _ else x) = oneLess i.op x.brief
    unfold oneLess Inst.brief
    by_cases h : x.op = i.op
    · simp only [h, if_true, ho]
      have hno := hvx h
      refine Prod.ext rfl (Prod.ext rfl (Prod.ext rfl ?_))
      rw [List.filter_eq_self.2 (fun v hvm => ?_)]
      simp only [bne_iff_ne]
      exact fun hh => hno (hh ▸ List.mem_map_of_mem hvm)
    · simp [h]

/-! ### What stalls leave of a round -/

theorem Dev.modJob_round {α : Type} (q : Job × Round → α) (d : Dev) (j k : Nat) (f : Job → Job)
    (hf : ∀ x, (f x).round.map (fun r => q (f x, r)) = x.round.map (fun r => q (x, r))) :
    ((d.modJob k f).round? j).map q = (d.round? j).map q := by
  have e : ∀ d : Dev, (d.round? j).map q = (d.job? j).bind (fun x => x.round.map (fun r => q (x, r))) := by
    intro d
    unfold Dev.round?
    cases d.job? j with
    | none => rfl
    | some x => simp only [Option.map_map]; rfl
  rw [e, e]
  unfold Dev.modJob
  cases hj : d.job? k with
  | none => rfl
  | some x =>
    by_cases hk : j = k
    · subst hk; simp [Dev.job?, hf, show tget d.jobs j = some x from hj]
    · simp [Dev.job?, tget_tset_other _ _ _ _ hk]

/-- What decides whether a round commits: its batch and its failures. -/
def Dev.fate (j : Nat) (d : Dev) : Option (Batch × List Failure × Nat × List Inst) :=
  (d.round? j).map (fun y => (y.1.batch, y.2.failures, y.2.dealt))

theorem Job.addStall_fate (y : Job) (s : Stall) (l : List Nat) (ns : Nat) :
    (y.addStall s l ns).batch = y.batch ∧
      (y.addStall s l ns).round.map (fun r => (r.failures, r.dealt)) = y.round.map (fun r => (r.failures, r.dealt)) := by
  unfold Job.addStall
  exact ⟨rfl, by cases y.round <;> rfl⟩

theorem Dev.stall_fate (d : Dev) (j k : Nat) (s : Stall) (ns : Nat) : (d.stall k s ns).fate j = d.fate j := by
  refine Dev.modJob_round _ d j k _ (fun x => ?_)
  have key : ∀ z : Job, z.batch = x.batch → z.round.map (fun r => (r.failures, r.dealt)) = x.round.map (fun r => (r.failures, r.dealt)) →
      z.round.map (fun r => (z.batch, r.failures, r.dealt)) = x.round.map (fun r => (x.batch, r.failures, r.dealt)) := by
    intro z h1 h2
    have h3 := congrArg (Option.map (fun y => (x.batch, y))) h2
    rw [Option.map_map, Option.map_map] at h3
    rw [h1]
    exact h3
  have hs : ∀ (s : Stall) (l : List Nat) (m now : Nat), let z := x.addStall s l m
      ({ z with round := z.round.map (fun r => { r with mark := max r.mark now }) } : Job).batch = x.batch ∧
      ({ z with round := z.round.map (fun r => { r with mark := max r.mark now }) } : Job).round.map (fun r => (r.failures, r.dealt)) =
        x.round.map (fun r => (r.failures, r.dealt)) := by
    intro s l m now
    refine ⟨(Job.addStall_fate x s l m).1, ?_⟩
    rw [← (Job.addStall_fate x s l m).2]
    dsimp only
    rw [Option.map_map]
    rfl
  have sw : (x.sweep d.now).batch = x.batch ∧ (x.sweep d.now).round.map (fun r => (r.failures, r.dealt)) =
      x.round.map (fun r => (r.failures, r.dealt)) := by
    unfold Job.sweep
    split
    · exact ⟨rfl, rfl⟩
    · split
      · exact ⟨rfl, rfl⟩
      · exact hs ..
  unfold Job.stall
  split
  · exact key _ (Job.addStall_fate ..).1 (Job.addStall_fate ..).2
  · split
    · exact key _ sw.1 sw.2
    · exact key _ (hs ..).1 (hs ..).2

theorem Dev.itemEnds_fate (d : Dev) (h : Held) (t : Tns) (late waited j : Nat) : (d.itemEnds h t late waited).fate j = d.fate j := by
  unfold Dev.itemEnds
  have a : ∀ (e : Dev) t, (e.advance t).fate j = e.fate j := fun _ _ => rfl
  have w : ∀ e : Dev, (e.slotWait h.job waited).fate j = e.fate j := by
    intro e; unfold Dev.slotWait; split
    · rfl
    · exact Dev.stall_fate ..
  have k : ∀ e : Dev, (if late = 0 then e else e.stall h.job .tierLate late).fate j = e.fate j := by
    intro e; split
    · rfl
    · exact Dev.stall_fate ..
  refine (w _).trans ((a _ _).trans ((k _).trans ((a _ _).trans ?_)))
  split
  · exact (Dev.stall_fate ..).trans (a _ _)
  · rfl

/-- An item's end changes the jobs and the instant alone. -/
theorem Dev.itemEnds_keeps {α : Type} (q : Dev → α) (hq : ∀ (d : Dev) l, q { d with jobs := l } = q d)
    (ht : ∀ (d : Dev) (t : Tns), q { d with now := t } = q d) (d : Dev) (h : Held) (t : Tns) (late waited : Nat) :
    q (d.itemEnds h t late waited) = q d := by
  have s : ∀ (e : Dev) k c m, q (e.stall k c m) = q e := by
    intro e k c m
    unfold Dev.stall Dev.modJob
    split
    · exact hq ..
    · rfl
  have w : ∀ e : Dev, q (e.slotWait h.job waited) = q e := by
    intro e; unfold Dev.slotWait; split
    · rfl
    · exact s ..
  have k : ∀ e : Dev, q (if late = 0 then e else e.stall h.job .tierLate late) = q e := by
    intro e; split
    · rfl
    · exact s ..
  unfold Dev.itemEnds
  refine (w _).trans ((ht _ _).trans ((k _).trans ((ht _ _).trans ?_)))
  split
  · exact (s ..).trans (ht _ _)
  · rfl

/-! ### A tile, a slice and a pass at their end -/

theorem Dev.chargeCheck_original (d : Dev) (j : Job) (r : Round) (n : Nat) (h : Held) (ho : h.role = .original) :
    d.chargeCheck j r n h = d := by
  unfold Dev.chargeCheck
  rw [if_pos ho]

theorem Dev.brief_votes {d : Dev} {k op item : Nat} {r : Round} (hb : (d.round? k).map (fun y => y.2.dealt) = some r.dealt)
    (hv : ∀ y ∈ r.insts, y.op = op → ∀ v ∈ y.votes, v.item ≠ item) :
    ∀ b ∈ (d.round? k).map (fun y => y.2.brief), ∀ x ∈ b.2, x.1 = op → item ∉ x.2.2.2 := by
  cases hd : d.round? k with
  | none => intro b h; simp at h
  | some y =>
    intro b hbm x hx hop hin
    simp only [Option.map_some, Option.mem_def, Option.some.injEq] at hbm
    subst hbm
    rw [hd] at hb
    have hi : y.2.insts = r.insts := congrArg Prod.snd (Option.some.inj hb)
    obtain ⟨z, hz, rfl⟩ := List.mem_map.1 hx
    obtain ⟨v, hvm, hvi⟩ := List.mem_map.1 hin
    exact hv z (hi ▸ hz) hop v hvm hvi

/-- An original tile of an instance that runs, of which nothing waits for a vote, ends: its cell goes over to what it claimed
ahead, and its instance has one tile fewer left. -/
theorem State.tileEnd_brief (s : State) (n g : Nat) (h : Held) (obs : UnitObs) (j : Job) (r : Round) (x : Inst)
    (hr : s.dev.raised = []) (hl : obs.lines = []) (hj : s.dev.round? h.job = some (j, r)) (hn : r.number = h.round)
    (hx : r.insts.find? (fun y => y.op == h.op && y.runs .cells) = some x) (ho : h.role = .original)
    (hv : ∀ y ∈ r.insts, y.op = h.op → ∀ v ∈ y.votes, v.item ≠ h.item) (hd : r.doomed j.batch = false) :
    (s.tileEnd n h obs).dev.brief h.job n g = ([], some (r.number, (r.insts.map Inst.brief).map (oneLess h.op)),
      (s.dev.cell n).ahead.map (fun a => { a with start := (s.tileEnd n h obs).dev.now, since := (s.tileEnd n h obs).dev.now }),
      (s.dev.engine n).held, (s.dev.region g).sorter) := by
  rw [show (s.tileEnd n h obs).dev.now = (s.dev.itemEnds h (h.endAt s.dev.ageing.clock) (s.dev.lateOf h obs)
    (s.dev.waitedOf h.job obs)).now from congrArg Prod.fst (s.tileEnd_clock n h obs)]
  unfold State.tileEnd
  extract_lets upper w s1 d0
  have ha : (s.dev.itemEnds h (h.endAt s.dev.ageing.clock) (s.dev.lateOf h obs) w).items h.job n g = s.dev.items h.job n g :=
    Dev.itemEnds_items ..
  have hf : (s.dev.itemEnds h (h.endAt s.dev.ageing.clock) (s.dev.lateOf h obs) w).fate h.job = s.dev.fate h.job :=
    Dev.itemEnds_fate ..
  have hs1 : s1 = s.withDev ((s.dev.itemEnds h (h.endAt s.dev.ageing.clock) (s.dev.lateOf h obs) w).nextHeld n) := by
    unfold s1; rw [hl]; rfl
  have hc : (s.dev.itemEnds h (h.endAt s.dev.ageing.clock) (s.dev.lateOf h obs) w).cells = s.dev.cells :=
    Dev.itemEnds_keeps Dev.cells (fun _ _ => rfl) (fun _ _ => rfl) ..
  have hg : (s.dev.itemEnds h (h.endAt s.dev.ageing.clock) (s.dev.lateOf h obs) w).regions = s.dev.regions :=
    Dev.itemEnds_keeps Dev.regions (fun _ _ => rfl) (fun _ _ => rfl) ..
  have he : (s.dev.itemEnds h (h.endAt s.dev.ageing.clock) (s.dev.lateOf h obs) w).engines = s.dev.engines :=
    Dev.itemEnds_keeps Dev.engines (fun _ _ => rfl) (fun _ _ => rfl) ..
  generalize s.dev.itemEnds h (h.endAt s.dev.ageing.clock) (s.dev.lateOf h obs) w = a at ha hf hs1 hc hg he
  have har : (a.nextHeld n).raised = [] := (Dev.items_raised ha).trans hr
  have hk : NoticesOnly (a.nextHeld n) d0 := by unfold d0; rw [hs1]; exact s.apply_only (a.nextHeld n).eff har
  have h0r : d0.raised = [] := hk.raised.trans har
  have h0j : d0.jobs = a.jobs := hk.jobs
  have h0f : d0.fate h.job = some (j.batch, r.failures, r.dealt) := by
    have e1 : d0.fate h.job = a.fate h.job := by unfold Dev.fate Dev.round? Dev.job?; rw [h0j]
    rw [e1, hf]
    unfold Dev.fate
    rw [hj]
    rfl
  have h0b : d0.brief h.job n g = ([], some r.brief,
      (s.dev.cell n).ahead.map (fun b => { b with start := a.now, since := a.now }), (s.dev.engine n).held, (s.dev.region g).sorter) := by
    have c1 : (d0.cell n).held = (s.dev.cell n).ahead.map (fun b => { b with start := a.now, since := a.now }) := by
      have : d0.cell n = (a.nextHeld n).cell n := by unfold Dev.cell; rw [hk.cells]
      rw [this]
      have e2 : a.cell n = s.dev.cell n := by unfold Dev.cell; rw [hc]
      show (tgetD (tset a.cells n _) n {}).held = _
      rw [tgetD_tset_same]
      show (a.cell n).ahead.map _ = _
      rw [e2]
    have c2 : d0.engine n = s.dev.engine n := by
      unfold Dev.engine; rw [hk.engines, show (a.nextHeld n).engines = a.engines from rfl, he]
    have c3 : d0.region g = s.dev.region g := by
      unfold Dev.region; rw [hk.regions, show (a.nextHeld n).regions = a.regions from rfl, hg]
    have c4 : (d0.round? h.job).map (fun y => y.2.brief) = some r.brief := by
      have := congrArg (Option.map (fun y => (y.2.2.1, y.2.2.2.map Inst.brief))) h0f
      unfold Dev.fate at this
      rw [Option.map_map] at this
      exact this
    unfold Dev.brief
    rw [h0r, c1, c2, c3, c4]
  cases h0 : d0.round? h.job with
  | none => unfold Dev.fate at h0f; rw [h0] at h0f; simp at h0f
  | some y =>
    obtain ⟨j', r'⟩ := y
    unfold Dev.fate at h0f
    rw [h0] at h0f
    simp only [Option.map_some, Option.some.injEq, Prod.mk.injEq] at h0f
    obtain ⟨q1, q2, q3⟩ := h0f
    have q4 : r'.number = r.number := congrArg Prod.fst q3
    have q5 : r'.insts = r.insts := congrArg Prod.snd q3
    have q6 : r'.doomed j'.batch = false := by unfold Round.doomed at hd ⊢; rw [q1, q2]; exact hd
    dsimp -zeta only
    rw [q5, hx]
    dsimp -zeta only
    rw [if_neg (by simp [q4, hn])]
    extract_lets o v q probs d1 e left done met now rows i base outs e1
    rw [if_neg (by simp [q6])]
    have i1 : d1.items h.job n g = d0.items h.job n g := by
      unfold d1
      rw [Dev.chargeCheck_original _ _ _ _ _ ho]
      exact Eq.trans (Dev.modCell_items _ _ _ (by intro; rfl)) (Dev.cellBusy_items ..)
    have i2 : e.dev.items h.job n g = d0.items h.job n g :=
      (Eff.readLines_items ..).trans ((Dev.regulate_items ..).trans ((Dev.regulate_items ..).trans ((Dev.regulate_items ..).trans i1)))
    have i3 : e1.dev.items h.job n g = d0.items h.job n g := Eq.trans (Dev.modCell_items _ _ _ (by intro; rfl)) i2
    have fin : ∀ e : Eff, e.dev.items h.job n g = d0.items h.job n g → ∀ i : ItemEnd, i.job = h.job → i.op = h.op → i.item = h.item →
        i.role = h.role → ∀ e' : Eff, (e' = e.endItem s1.mem i ∨ e' = e.spoilItem i) →
        (s1.apply e').dev.brief h.job n g = ([], some (r.number, (r.insts.map Inst.brief).map (oneLess h.op)),
          (s.dev.cell n).ahead.map (fun b => { b with start := a.now, since := a.now }), (s.dev.engine n).held, (s.dev.region g).sorter) := by
      intro e hi i hij hio hii hir e' he'
      have hb := Dev.brief_of_items hi
      have hvote : ∀ b ∈ (e.dev.round? h.job).map (fun y => y.2.brief), ∀ z ∈ b.2, z.1 = h.op → h.item ∉ z.2.2.2 := by
        refine Dev.brief_votes (r := r) ?_ hv
        have := congrArg (fun z => z.2.1) hi
        refine Eq.trans this ?_
        show (d0.round? h.job).map _ = _
        rw [h0]
        exact congrArg some q3
      have hb2 := hb.trans h0b
      unfold Dev.brief at hb2
      simp only [Prod.mk.injEq] at hb2
      obtain ⟨b1, b2, b3, b4, b5⟩ := hb2
      have key : e'.dev.brief h.job n g = (e.dev.raised, (e.dev.round? h.job).map (fun y =>
          (y.2.number, (y.2.insts.map Inst.brief).map (oneLess h.op))), (e.dev.cell n).held, (e.dev.engine n).held,
          (e.dev.region g).sorter) := by
        have hvi : ∀ b ∈ (e.dev.round? i.job).map (fun y => y.2.brief), ∀ z ∈ b.2, z.1 = i.op → i.item ∉ z.2.2.2 := by
          rw [hij, hio, hii]; exact hvote
        rcases he' with rfl | rfl
        · have k := Eff.endItem_brief (n := n) (g := g) e s1.mem i (hir.trans ho) hvi
          rwa [hij, hio] at k
        · have k := Eff.spoilItem_brief (n := n) (g := g) e i (hir.trans ho) hvi
          rwa [hij, hio] at k
      have hrd : e'.dev.raised = [] := (congrArg Prod.fst key).trans b1
      refine (Dev.brief_of_items (s1.apply_items e' hrd)).trans (key.trans ?_)
      rw [b1, b3, b4, b5]
      have : (e.dev.round? h.job).map (fun y => (y.2.number, (y.2.insts.map Inst.brief).map (oneLess h.op))) =
          ((e.dev.round? h.job).map (fun y => y.2.brief)).map (fun b => (b.1, b.2.map (oneLess h.op))) := by
        rw [Option.map_map]; rfl
      rw [this, b2]
      rfl
    have fi : i.job = h.job ∧ i.op = h.op ∧ i.item = h.item ∧ i.role = h.role := ⟨rfl, rfl, rfl, rfl⟩
    clear_value i e1 met
    split
    · exact fin _ i3 i fi.1 fi.2.1 fi.2.2.1 fi.2.2.2 _ (.inl rfl)
    · refine fin _ ?_ i fi.1 fi.2.1 fi.2.2.1 fi.2.2.2 _ (.inr rfl)
      exact Eq.trans (Dev.modRound_items _ _ _ fun _ => Round.failMet_dealt ..) i3

/-- A slice in brief marked done. -/
def sliceDone (op item : Nat) (b : Nat × Nat × List Slice × List Nat) : Nat × Nat × List Slice × List Nat :=
  if b.1 = op then (b.1, b.2.1, b.2.2.1.map (fun a => if a.item = item then { a with done := true } else a), b.2.2.2) else b

theorem Round.sliceDone_brief (r : Round) (op item : Nat) : (r.modInst op (fun z =>
    { z with slices := z.slices.map (fun a => if a.item = item then { a with done := true } else a) })).brief =
      (r.number, (r.insts.map Inst.brief).map (sliceDone op item)) := by
  unfold Round.modInst Round.brief
  refine Prod.ext rfl ?_
  show (r.insts.map _).map Inst.brief = _
  rw [List.map_map, List.map_map]
  refine List.map_congr_left (fun x _ => ?_)
  show Inst.brief (if x.op = op then _ else x) = sliceDone op item x.brief
  unfold sliceDone Inst.brief
  split <;> simp_all

/-- An original slice of an instance that runs, of which nothing waits for a vote, ends: its engine is free, and its instance
has the slice done and one fewer left. -/
theorem State.sliceEnd_brief (s : State) (n g : Nat) (h : Held) (obs : UnitObs) (j : Job) (r : Round) (x : Inst) (sl : Slice)
    (hr : s.dev.raised = []) (hl : obs.lines = []) (hj : s.dev.round? h.job = some (j, r)) (hn : r.number = h.round)
    (hx : r.insts.find? (fun y => y.op == h.op && y.runs .cirrus) = some x)
    (hs : x.slices.find? (fun y => y.item == h.item) = some sl) (ho : h.role = .original)
    (hv : ∀ y ∈ r.insts, y.op = h.op → ∀ v ∈ y.votes, v.item ≠ h.item) (hd : r.doomed j.batch = false) :
    (s.sliceEnd n h obs).dev.brief h.job n g = ([], some (r.number, ((r.insts.map Inst.brief).map
      (sliceDone h.op h.item)).map (oneLess h.op)), (s.dev.cell n).held, none, (s.dev.region g).sorter) := by
  unfold State.sliceEnd
  extract_lets w late s1 d0
  have ha : (s.dev.itemEnds h (h.since + h.cost) late w).items h.job n g = s.dev.items h.job n g := Dev.itemEnds_items ..
  have hf : (s.dev.itemEnds h (h.since + h.cost) late w).fate h.job = s.dev.fate h.job := Dev.itemEnds_fate ..
  have hc : (s.dev.itemEnds h (h.since + h.cost) late w).cells = s.dev.cells :=
    Dev.itemEnds_keeps Dev.cells (fun _ _ => rfl) (fun _ _ => rfl) ..
  have hg : (s.dev.itemEnds h (h.since + h.cost) late w).regions = s.dev.regions :=
    Dev.itemEnds_keeps Dev.regions (fun _ _ => rfl) (fun _ _ => rfl) ..
  have hs1 : s1 = s.withDev ((s.dev.itemEnds h (h.since + h.cost) late w).modEngine n (fun c => { c with held := none })) := by
    unfold s1; rw [hl]; rfl
  generalize s.dev.itemEnds h (h.since + h.cost) late w = a at ha hf hs1 hc hg
  have har : (a.modEngine n (fun c => { c with held := none })).raised = [] := (Dev.items_raised ha).trans hr
  have hk : NoticesOnly (a.modEngine n (fun c => { c with held := none })) d0 := by
    unfold d0; rw [hs1]; exact s.apply_only (a.modEngine n (fun c => { c with held := none })).eff har
  have h0r : d0.raised = [] := hk.raised.trans har
  have h0j : d0.jobs = a.jobs := hk.jobs
  have h0f : d0.fate h.job = some (j.batch, r.failures, r.dealt) := by
    have e1 : d0.fate h.job = a.fate h.job := by unfold Dev.fate Dev.round? Dev.job?; rw [h0j]
    rw [e1, hf]
    unfold Dev.fate
    rw [hj]
    rfl
  have h0b : d0.brief h.job n g = ([], some r.brief, (s.dev.cell n).held, none, (s.dev.region g).sorter) := by
    have c1 : d0.cell n = s.dev.cell n := by
      unfold Dev.cell; rw [hk.cells, show (a.modEngine n (fun c => { c with held := none })).cells = a.cells from rfl, hc]
    have c2 : (d0.engine n).held = none := by
      have : d0.engine n = (a.modEngine n (fun c => { c with held := none })).engine n := by unfold Dev.engine; rw [hk.engines]
      rw [this]
      show (tgetD (tset a.engines n _) n {}).held = _
      rw [tgetD_tset_same]
    have c3 : d0.region g = s.dev.region g := by
      unfold Dev.region
      rw [hk.regions, show (a.modEngine n (fun c => { c with held := none })).regions = a.regions from rfl, hg]
    have c4 : (d0.round? h.job).map (fun y => y.2.brief) = some r.brief := by
      have := congrArg (Option.map (fun y => (y.2.2.1, y.2.2.2.map Inst.brief))) h0f
      unfold Dev.fate at this
      rw [Option.map_map] at this
      exact this
    unfold Dev.brief
    rw [h0r, c1, c2, c3, c4]
  cases h0 : d0.round? h.job with
  | none => unfold Dev.fate at h0f; rw [h0] at h0f; simp at h0f
  | some y =>
    obtain ⟨j', r'⟩ := y
    unfold Dev.fate at h0f
    rw [h0] at h0f
    simp only [Option.map_some, Option.some.injEq, Prod.mk.injEq] at h0f
    obtain ⟨q1, q2, q3⟩ := h0f
    have q4 : r'.number = r.number := congrArg Prod.fst q3
    have q5 : r'.insts = r.insts := congrArg Prod.snd q3
    have q6 : r'.doomed j'.batch = false := by unfold Round.doomed at hd ⊢; rw [q1, q2]; exact hd
    dsimp -zeta only
    rw [q5, hx]
    dsimp -zeta only
    rw [hs, show (r'.number == h.round) = true by simp [q4, hn]]
    dsimp -zeta only
    extract_lets o v q d1 d2 d3 e bytes done met i e1
    rw [if_neg (by simp [q6])]
    have i1 : d1.items h.job n g = d0.items h.job n g := by
      unfold d1
      exact Eq.trans (Dev.modEngine_items _ _ _ (by intro; rfl)) (Dev.engineBusy_items ..)
    have b2 : d2.brief h.job n g = ([], some (r.number, (r.insts.map Inst.brief).map (sliceDone h.op h.item)),
        (s.dev.cell n).held, none, (s.dev.region g).sorter) := by
      have hd2 : d2 = d1.modRound h.job (fun y => y.modInst h.op (fun z =>
          { z with slices := z.slices.map (fun a => if a.item = h.item then { a with done := true } else a) })) := by
        unfold d2
        simp only [ho, if_true]
      rw [hd2, Dev.modRound_brief]
      have k := (Dev.brief_of_items i1).trans h0b
      unfold Dev.brief at k
      simp only [Prod.mk.injEq] at k
      obtain ⟨k1, k2, k3, k4, k5⟩ := k
      rw [k1, k3, k4, k5]
      simp only [Round.sliceDone_brief]
      have : (d1.round? h.job).map (fun y => (y.2.number, (y.2.insts.map Inst.brief).map (sliceDone h.op h.item))) =
          ((d1.round? h.job).map (fun y => y.2.brief)).map (fun b => (b.1, b.2.map (sliceDone h.op h.item))) := by
        rw [Option.map_map]; rfl
      rw [this, k2]
      rfl
    have b3 : e1.dev.brief h.job n g = d2.brief h.job n g := by
      refine Dev.brief_of_items (Eq.trans (Dev.modEngine_items _ _ _ (by intro; rfl)) ?_)
      exact (Dev.regulate_items ..).trans (Dev.regulate_items ..)
    have fin : ∀ e : Eff, e.dev.brief h.job n g = d2.brief h.job n g → ∀ i : ItemEnd, i.job = h.job → i.op = h.op →
        i.item = h.item → i.role = h.role → ∀ e' : Eff, (e' = e.endItem s1.mem i ∨ e' = e.spoilItem i) →
        (s1.apply e').dev.brief h.job n g = ([], some (r.number, ((r.insts.map Inst.brief).map (sliceDone h.op h.item)).map
          (oneLess h.op)), (s.dev.cell n).held, none, (s.dev.region g).sorter) := by
      intro e hi i hij hio hii hir e' he'
      have hb2 := hi.trans b2
      unfold Dev.brief at hb2
      simp only [Prod.mk.injEq] at hb2
      obtain ⟨c1, c2, c3, c4, c5⟩ := hb2
      have hvi : ∀ b ∈ (e.dev.round? i.job).map (fun y => y.2.brief), ∀ z ∈ b.2, z.1 = i.op → i.item ∉ z.2.2.2 := by
        rw [hij, hio, hii, c2]
        intro b hb z hz hop hin
        simp only [Option.mem_def, Option.some.injEq] at hb
        subst hb
        obtain ⟨z0, hz0, rfl⟩ := List.mem_map.1 hz
        obtain ⟨y, hy, rfl⟩ := List.mem_map.1 hz0
        have e1 : (sliceDone h.op h.item y.brief).1 = y.op ∧ (sliceDone h.op h.item y.brief).2.2.2 = y.votes.map Vote.item := by
          unfold sliceDone Inst.brief
          split <;> exact ⟨rfl, rfl⟩
        rw [e1.2] at hin
        obtain ⟨v, hvm, hvi⟩ := List.mem_map.1 hin
        exact hv y hy (e1.1.symm.trans hop) v hvm hvi
      have key : e'.dev.brief h.job n g = (e.dev.raised, (e.dev.round? h.job).map (fun y =>
          (y.2.number, (y.2.insts.map Inst.brief).map (oneLess h.op))), (e.dev.cell n).held, (e.dev.engine n).held,
          (e.dev.region g).sorter) := by
        rcases he' with rfl | rfl
        · have k := Eff.endItem_brief (n := n) (g := g) e s1.mem i (hir.trans ho) hvi
          rwa [hij, hio] at k
        · have k := Eff.spoilItem_brief (n := n) (g := g) e i (hir.trans ho) hvi
          rwa [hij, hio] at k
      have hrd : e'.dev.raised = [] := (congrArg Prod.fst key).trans c1
      refine (Dev.brief_of_items (s1.apply_items e' hrd)).trans (key.trans ?_)
      rw [c1, c3, c4, c5]
      have : (e.dev.round? h.job).map (fun y => (y.2.number, (y.2.insts.map Inst.brief).map (oneLess h.op))) =
          ((e.dev.round? h.job).map (fun y => y.2.brief)).map (fun b => (b.1, b.2.map (oneLess h.op))) := by
        rw [Option.map_map]; rfl
      rw [this, c2]
      rfl
    have fi : i.job = h.job ∧ i.op = h.op ∧ i.item = h.item ∧ i.role = h.role := ⟨rfl, rfl, rfl, rfl⟩
    clear_value i e1 met
    split
    · exact fin _ b3 i fi.1 fi.2.1 fi.2.2.1 fi.2.2.2 _ (.inl rfl)
    · refine fin _ ?_ i fi.1 fi.2.1 fi.2.2.1 fi.2.2.2 _ (.inr rfl)
      exact (Dev.brief_of_items (Dev.modRound_items _ _ _ fun _ => Round.failMet_dealt ..)).trans b3

/-- A pass of a sorter that runs ends: the sorter is free, and its instance is one pass on. -/
theorem State.passEnd_items (s : State) (job op n g : Nat) (j : Job) (r : Round) (x : Inst) (hr : s.dev.raised = [])
    (hs : (s.dev.region g).sorter.job = some (job, op)) (hj : s.dev.round? job = some (j, r))
    (hx : r.insts.find? (fun x => x.op == op && x.runs .sorter) = some x) :
    ∃ u : State, s.passEnd g = (State.settleInst 2 u job op).pump ∧ u.dev.items job n g = ([], some (r.number,
      (r.modInst op (fun x => x.pass (s.view j r) (j.prog.op op) g)).insts), (s.dev.cell n).held, (s.dev.engine n).held,
      { (s.dev.region g).sorter with job := none }) := by
  unfold State.passEnd
  rw [hs]
  dsimp -zeta only
  extract_lets d0
  have h0 : d0.round? job = some (j, r) := hj
  rw [h0]
  dsimp -zeta only
  rw [hx]
  dsimp -zeta only
  extract_lets v o met lines d1
  refine ⟨_, rfl, ?_⟩
  have i0 : (d0.round? job).map (fun y => y.2.dealt) = some r.dealt := by rw [h0]; rfl
  have b1 : ((d0.regulateLines j lines).sorterBusy j 72).items job n g = d0.items job n g :=
    (Dev.sorterBusy_items ..).trans (Dev.regulateLines_items ..)
  have h1 : d1.items job n g = ([], some (r.number, (r.modInst op (fun x => x.pass (s.view j r) (j.prog.op op) g)).insts),
      (s.dev.cell n).held, (s.dev.engine n).held, { (s.dev.region g).sorter with job := none }) := by
    have k := b1
    unfold Dev.items at k
    simp only [Prod.mk.injEq] at k
    obtain ⟨k1, k2, k3, k4, k5⟩ := k
    rw [h0] at k2
    have hk : ∀ (d : Dev) (f : Round → Round) β (q : Dev → β), (∀ d l, q { d with jobs := l } = q d) → q (d.modRound job f) = q d := by
      intro d f β q hq
      unfold Dev.modRound Dev.modJob
      split
      · exact hq ..
      · rfl
    unfold Dev.items d1
    rw [hk _ _ _ Dev.raised fun _ _ => rfl, hk _ _ _ (fun e => (e.cell n).held) fun _ _ => rfl,
      hk _ _ _ (fun e => (e.engine n).held) fun _ _ => rfl, hk _ _ _ (fun e => (e.region g).sorter) fun _ _ => rfl,
      k1, k3, k4, k5, Dev.modRound_round, Option.map_map]
    refine Prod.ext hr (Prod.ext ?_ (Prod.ext rfl (Prod.ext rfl ?_)))
    · cases hc : ((d0.regulateLines j lines).sorterBusy j 72).round? job with
      | none => rw [hc] at k2; simp at k2
      | some y =>
        rw [hc] at k2
        have hd : y.2.dealt = r.dealt := Option.some.inj k2
        refine congrArg some ((Round.failMet_dealt ..).trans ?_)
        refine Prod.ext (show y.2.number = r.number from congrArg Prod.fst hd) ?_
        show (y.2.modInst op _).insts = (r.modInst op _).insts
        unfold Round.modInst
        dsimp only
        rw [show y.2.insts = r.insts from congrArg Prod.snd hd]
    · show (tgetD (tset s.dev.regions g _) g {}).sorter = _
      rw [tgetD_tset_same]
      rfl
  have h2 : ∀ l, (d1.eff.readLines s.mem job l).dev.items job n g = d1.items job n g := fun l => Eff.readLines_items ..
  exact (s.apply_items _ (congrArg Prod.fst ((h2 _).trans h1))).trans ((h2 _).trans h1)

theorem State.countSteps_items (s : State) (k op : Nat) (hr : s.dev.raised = []) :
    (s.countSteps k op).dev.items job n g = s.dev.items job n g := by
  unfold State.countSteps
  split
  · rfl
  · split
    · rfl
    · split
      · rfl
      · refine (State.withDev_items _ _ ?_).trans (Dev.engineBusy_items ..)
        exact (Dev.items_raised (job := job) (n := n) (g := g) (Dev.engineBusy_items ..)).trans hr

end Sys2Proof.Machine
end

