-- ==== Sys2Proof/Laws/ObjectWrites.lean ====
section
/-!
SUPPORT. Writes of objects: what a write that the checks of R398 let through does, and how a written row completes.
-/

namespace Sys2Proof.Machine
open Sys2Proof.Safety

theorem NoticesOnly.reported {a b : Dev} (h : NoticesOnly a b) (r : Nat) :
    NoticesOnly { a with lastReport := r } { b with lastReport := r } :=
  ⟨(congrArg (fun d : Dev => { d with lastReport := r }) h.shell :), h.part, h.cred⟩

/-- A report kept after an effect that raises no cause. -/
theorem becomes_reported (s : State) (e : Eff) (r : Nat) (h : e.dev.raised = []) (hs : e.safety = []) :
    BecomesWith s { e.dev with lastReport := r } e.mem ((s.apply e).withDev { (s.apply e).dev with lastReport := r }) := by
  have h1 := becomes_with s e h hs
  have h2 := h1.2.2.2
  have hr : (s.apply e).dev.raised = [] := by simp
  have h3 := becomes_apply (s.apply e) ({ (s.apply e).dev with lastReport := r } : Dev).eff hr rfl rfl
  exact ⟨h3.1.trans h1.1, h3.2.1.trans h1.2.1, h3.2.2.1.trans h1.2.2.1, (h2.reported r).trans h3.2.2.2⟩

/-- A number in little-endian bytes reads back modulo their range (R13). -/
theorem leNat_toLe : ∀ n v : Nat, leNat (toLe n v) = v % 256 ^ n
  | 0, v => by simp [toLe, leNat, Nat.mod_one]
  | n + 1, v => by
    show (BitVec.ofNat 8 v).toNat + 256 * leNat (toLe n (v / 256)) = _
    rw [leNat_toLe n (v / 256), BitVec.toNat_ofNat, Nat.pow_succ (n := 256), Nat.mul_comm (256 ^ n) 256, Nat.mod_mul]

@[simp] theorem toLe_length : ∀ n v : Nat, (toLe n v).length = n
  | 0, _ => rfl
  | n + 1, v => by simp [toLe, toLe_length n]

/-- A write that is not DEFAULTS. -/
theorem State.writeRow_eq (s : State) (who : Requester) (w : Entry) (h : ¬(w.idx = 0x1100 ∧ w.sub = 1 ∧ leNat w.value = 2 ∧
    (s.writeOne who false w).2 = rAccepted)) : s.writeRow who w = (s.apply (s.writeOne who false w).1).withDev
      { (s.apply (s.writeOne who false w).1).dev with lastReport := (s.writeOne who false w).2 } := by
  unfold State.writeRow State.writeEntry
  rw [if_neg h]

/-- A write that the checks of R398 let through. -/
theorem State.writeOne_ok (s : State) (who : Requester) (w : Entry) (i : ObjInfo) (h1 : indexExists w.idx = true)
    (h2 : s.dev.absent w.idx w.sub = false) (h3 : w.sub ≠ 0) (h4 : isAlias w.idx w.sub = false)
    (h5 : objInfo w.idx w.sub = some i) (h6 : s.dev.mayWrite who false w.idx w.sub = true) (h7 : i.acc ≠ .ro)
    (h8 : i.wellTyped w = true) (h9 : s.dev.encodingOk w.idx w.sub (leNat w.value) = true)
    (h10 : s.permits false w.idx w.sub (leNat w.value) w.value = true) :
    s.writeOne who false w =
      if i.ty = .str ∨ i.ty = .blob then (s.accept who false w.idx w.sub 0 w.value i, rAccepted)
      else
        let f := fitValue (s.dev.rangeOf w.idx w.sub i).1 (s.dev.rangeOf w.idx w.sub i).2 i.step (leNat w.value)
        (s.accept who false w.idx w.sub f.1 w.value i, f.2) := by
  unfold State.writeOne
  simp [h1, h2, h3, h4, h5, h6, h7, h8, h9, h10]

@[simp] theorem entryFor_idx (idx sub v : Nat) : (entryFor idx sub v).idx = idx := by unfold entryFor; split <;> rfl

@[simp] theorem entryFor_sub (idx sub v : Nat) : (entryFor idx sub v).sub = sub := by unfold entryFor; split <;> rfl

theorem entryFor_some {idx sub : Nat} {i : ObjInfo} (v : Nat) (h : objInfo idx sub = some i) : entryFor idx sub v =
    { idx := idx, sub := sub, type := i.ty.code, status := 0, value := toLe i.ty.width v } := by simp [entryFor, h]

/-- A number written whole, within its range and on its step, by a requester that may. -/
theorem State.writeOne_number (s : State) (who : Requester) (idx sub v : Nat) (i : ObjInfo) (h1 : indexExists idx = true)
    (h2 : s.dev.absent idx sub = false) (h3 : sub ≠ 0) (h4 : isAlias idx sub = false) (h5 : objInfo idx sub = some i)
    (h6 : s.dev.mayWrite who false idx sub = true) (h7 : i.acc ≠ .ro) (h8 : i.wellTyped (entryFor idx sub v) = true)
    (h9 : s.dev.encodingOk idx sub v = true) (h10 : s.permits false idx sub v (toLe i.ty.width v) = true)
    (h11 : i.ty ≠ .str ∧ i.ty ≠ .blob) (h12 : leNat (toLe i.ty.width v) = v)
    (h13 : fitValue (s.dev.rangeOf idx sub i).1 (s.dev.rangeOf idx sub i).2 i.step v = (v, rAccepted)) :
    s.writeOne who false (entryFor idx sub v) = (s.accept who false idx sub v (toLe i.ty.width v) i, rAccepted) := by
  have he := entryFor_some v h5
  rw [he] at h8 ⊢
  rw [s.writeOne_ok who _ i h1 h2 h3 h4 h5 h6 h7 h8 (by dsimp only; rw [h12]; exact h9) (by dsimp only; rw [h12]; exact h10)]
  rw [if_neg (by simp [h11])]
  dsimp only
  rw [h12, h13]

/-- A row of a write that is not an accepted DEFAULTS: its device, with the report kept. -/
theorem completes_write {c : Instr} {s : State} {who : Requester} {w : Entry} {r : Nat} {d : Dev}
    (hc : exec c s = .next (s.writeRow who w))
    (hn : ¬(w.idx = 0x1100 ∧ w.sub = 1 ∧ leNat w.value = 2 ∧ r = rAccepted)) (h : s.writeOne who false w = (d.eff, r))
    (hr : d.raised = []) : CompletesTo c s { d with lastReport := r } := by
  refine ⟨_, hc, ?_⟩
  rw [s.writeRow_eq who w (by rw [h]; exact hn), h]
  exact becomes_reported s d.eff r hr rfl

end Sys2Proof.Machine
end

