-- ==== Sys2Proof/Laws/RoundEnd.lean ====
section
/-!
SUPPORT. A round with all its work done and nothing to wait for becomes ready when its job's ROUND_COMPLETE comes, and stays
so whatever the units take up then.
-/

namespace Sys2Proof.Machine

/-- The one job of a device whose round became ready at an instant. -/
structure Dev.Ready (d : Dev) (k : Nat) (t : Tns) : Prop where
  raised : d.raised = []
  job : ∃ j r, d.jobs = [(k, j)] ∧ j.round = some r ∧ r.ready = true ∧ r.readyAt = t ∧ r.closing = []

variable {d e : Dev} {k : Nat} {t : Tns}

theorem Dev.Ready.of (h : d.Ready k t) (hr : e.raised = d.raised) (hj : e.jobs = d.jobs) : e.Ready k t :=
  ⟨hr.trans h.raised, by rw [hj]; exact h.job⟩

theorem Dev.Ready.notices (h : d.Ready k t) (g : NoticesOnly d e) : e.Ready k t := h.of g.raised g.jobs

theorem Dev.Ready.apply {x : Eff} (h : x.dev.Ready k t) (s : State) : (s.apply x).dev.Ready k t := h.notices (s.apply_only x h.raised)

theorem Dev.Ready.withDev (h : d.Ready k t) (s : State) : (s.withDev d).dev.Ready k t := Dev.Ready.apply (x := d.eff) h s

theorem Dev.Ready.fold {α : Type} {f : Dev → α → Dev} (hf : ∀ d x, d.Ready k t → (f d x).Ready k t) :
    ∀ (l : List α) (d : Dev), d.Ready k t → (l.foldl f d).Ready k t
  | [], _, h => h
  | x :: l, d, h => Dev.Ready.fold hf l _ (hf d x h)

theorem Dev.Ready.modJob (h : d.Ready k t) (n : Nat) (f : Job → Job)
    (hf : ∀ j r, j.round = some r → r.ready = true → r.readyAt = t → r.closing = [] →
      ∃ r', (f j).round = some r' ∧ r'.ready = true ∧ r'.readyAt = t ∧ r'.closing = []) : (d.modJob n f).Ready k t := by
  obtain ⟨j, r, hj, hr, h1, h2, h3⟩ := h.job
  unfold Dev.modJob Dev.job?
  rw [hj]
  by_cases hn : n = k
  · subst hn
    obtain ⟨r', g⟩ := hf j r hr h1 h2 h3
    rw [show tget [(n, j)] n = some j by simp [tget]]
    exact ⟨h.raised, f j, r', by simp [tset], g⟩
  · rw [show tget [(k, j)] n = none by simp [tget, Ne.symm hn]]
    exact h

theorem Job.sweep_ready {j : Job} {r : Round} (now : Tns) (hr : j.round = some r) (h1 : r.ready = true) (h2 : r.readyAt = t)
    (h3 : r.closing = []) : ∃ r', (j.sweep now).round = some r' ∧ r'.ready = true ∧ r'.readyAt = t ∧ r'.closing = [] := by
  unfold Job.sweep
  rw [hr]
  dsimp only
  split
  · exact ⟨r, hr, h1, h2, h3⟩
  · unfold Job.addStall
    rw [hr]
    exact ⟨_, rfl, h1, h2, h3⟩

theorem Dev.Ready.stall (h : d.Ready k t) (n : Nat) (c : Stall) (m : Nat) : (d.stall n c m).Ready k t := by
  refine h.modJob n _ (fun j r hr h1 h2 h3 => ?_)
  unfold Job.stall
  rw [hr]
  dsimp only
  split
  · exact Job.sweep_ready _ hr h1 h2 h3
  · unfold Job.addStall
    rw [hr]
    exact ⟨_, rfl, h1, h2, h3⟩

/-- A ready round is not at work. -/
theorem Round.working_ready {r : Round} (h : r.ready = true) (b : Batch) : r.working b = false := by
  unfold Round.working
  simp [h]

theorem Dev.Ready.live (h : d.Ready k t) {j : Job} {r : Round} (hj : j ∈ d.liveJobs) (hr : j.round = some r) : r.ready = true := by
  obtain ⟨j', r', hjs, hr', h1, _⟩ := h.job
  unfold Dev.liveJobs at hj
  rw [hjs] at hj
  have : j = j' := by simpa using (List.mem_filter.1 hj).1
  subst this
  rw [hr] at hr'
  cases hr'
  exact h1

theorem Dev.Ready.round (h : d.Ready k t) {n : Nat} {j : Job} {r : Round} (hj : d.round? n = some (j, r)) : r.ready = true := by
  obtain ⟨j', r', hjs, hr', h1, _⟩ := h.job
  unfold Dev.round? Dev.job? at hj
  rw [hjs] at hj
  by_cases hn : n = k
  · subst hn
    simp [tget, hr'] at hj
    rw [← hj.2]; exact h1
  · simp [tget, Ne.symm hn] at hj

theorem mem_insertBy {α : Type} (lt : α → α → Bool) (x y : α) : ∀ l : List α, y ∈ insertBy lt x l → y = x ∨ y ∈ l
  | [], h => by simpa [insertBy] using h
  | z :: l, h => by
    unfold insertBy at h
    split at h
    · simpa using h
    · rcases List.mem_cons.1 h with h | h
      · exact .inr (h ▸ List.mem_cons_self)
      · rcases mem_insertBy lt x y l h with h | h
        · exact .inl h
        · exact .inr (List.mem_cons_of_mem _ h)

theorem mem_sortBy {α : Type} (lt : α → α → Bool) (l : List α) (x : α) (h : x ∈ sortBy lt l) : x ∈ l := by
  have key : ∀ (l acc : List α), x ∈ l.foldl (fun acc x => insertBy lt x acc) acc → x ∈ l ∨ x ∈ acc := by
    intro l
    induction l with
    | nil => intro acc h; exact .inr h
    | cons y l ih =>
      intro acc h
      rcases ih _ h with h | h
      · exact .inl (List.mem_cons_of_mem _ h)
      · rcases mem_insertBy lt y x acc h with h | h
        · exact .inl (h ▸ List.mem_cons_self)
        · exact .inr h
  exact (key l [] h).resolve_right (by simp)

theorem Dev.Ready.workingJobs (h : d.Ready k t) (b : Bool) : d.workingJobs b = [] := by
  unfold Dev.workingJobs
  rw [List.filterMap_eq_nil_iff]
  intro j hj
  have hl := mem_sortBy _ _ _ hj
  split
  · rfl
  · split
    · rename_i r hr
      rw [Round.working_ready (h.live hl hr)]
      rfl
    · rfl

theorem Dev.Ready.offerEngine {s : State} (h : s.dev.Ready k t) (n : Nat) : s.offerEngine n = s.dev := by
  unfold State.offerEngine
  dsimp only
  rw [h.workingJobs]
  split
  · rfl
  · split
    · split
      · rename_i hj
        rw [Round.working_ready (h.round hj)]
        rfl
      · rfl
    · simp

theorem Dev.Ready.offerSorter {s : State} (h : s.dev.Ready k t) (g : Nat) : s.offerSorter g = s.dev := by
  unfold State.offerSorter
  dsimp only
  rw [h.workingJobs, h.workingJobs]
  split
  · rfl
  · simp [Dev.offered]

theorem Dev.Ready.offers {s : State} (h : s.dev.Ready k t) : s.offerEngines.offerSorters.dev.Ready k t := by
  have key : ∀ (f : State → Nat → Dev), (∀ a n, a.dev.Ready k t → f a n = a.dev) → ∀ (l : List Nat) (a : State), a.dev.Ready k t →
      (l.foldl (fun acc n => if acc.dev.liveJobs.isEmpty then acc else acc.withDev (f acc n)) a).dev.Ready k t := by
    intro f hf l
    induction l with
    | nil => intro a ha; exact ha
    | cons x l ih =>
      intro a ha
      refine ih _ ?_
      dsimp only
      split
      · exact ha
      · rw [hf a x ha]; exact ha.withDev a
  exact key _ (fun a g ha => ha.offerSorter g) _ _ (key _ (fun a n ha => ha.offerEngine n) _ _ h)

/-! ### The rest of what follows any work -/

theorem Dev.Ready.takeEntries (h : d.Ready k t) (x : Held) (l : List (Nat × Nat)) : (d.takeEntries x l).2.Ready k t := by
  unfold Dev.takeEntries
  have key : ∀ (l : List (Nat × Nat)) (a : Held × Dev), a.2.Ready k t → (l.foldl (fun acc y =>
      let free := acc.2.entriesFree y.1
      if free = 0 then ({ acc.1 with wants := acc.1.wants ++ [y] }, acc.2)
      else
        let b := acc.2.pick (min y.2 free)
        ({ acc.1 with entries := acc.1.entries ++ [(y.1, b.1 + 1)] }, b.2)) a).2.Ready k t := by
    intro l
    induction l with
    | nil => intro a ha; exact ha
    | cons y l ih =>
      intro a ha
      refine ih _ ?_
      dsimp only
      split
      · exact ha
      · exact ha.of rfl rfl
  exact key l (x, d) h

theorem Dev.Ready.serveEntries (h : d.Ready k t) : d.serveEntries.Ready k t := by
  have one : ∀ (d : Dev), d.Ready k t → ∀ (o : Option Held) (x : Held × Dev), o.bind d.serveHeld = some x → x.2.Ready k t := by
    intro d hd o x hx
    cases o with
    | none => simp at hx
    | some y =>
      simp only [Option.bind_some] at hx
      unfold Dev.serveHeld at hx
      split at hx
      · simp at hx
      · cases hx
        exact (hd.takeEntries _ _).stall _ _ _
  unfold Dev.serveEntries
  refine Dev.Ready.fold (fun d n hd => ?_) _ _ (Dev.Ready.fold (fun d n hd => ?_) _ _ h)
  · split
    · rename_i x hx; exact (one d hd _ _ hx).of rfl rfl
    · exact hd
  · split
    · rename_i x hx; exact (one d hd _ _ hx).of rfl rfl
    · exact hd

theorem Dev.Ready.roundWaits (h : d.Ready k t) : d.roundWaits.Ready k t := by
  obtain ⟨j, r, hj, hr, h1, h2, h3⟩ := h.job
  obtain ⟨r1, g0, g1, g2, g3⟩ := Job.sweep_ready (t := t) d.now hr h1 h2 h3
  have hw : ∃ r', (j.setWaits d.now (d.waitsOf j r)).round = some r' ∧ r'.ready = true ∧ r'.readyAt = t ∧ r'.closing = [] := by
    unfold Job.setWaits
    dsimp only
    rw [g0]
    exact ⟨_, rfl, g1, g2, g3⟩
  obtain ⟨r', w⟩ := hw
  refine ⟨h.raised, _, r', ?_, w⟩
  unfold Dev.roundWaits
  rw [hj]
  simp only [List.map_cons, List.map_nil, hr]

theorem Dev.Ready.dropClosings (h : d.Ready k t) : d.dropClosings.Ready k t := by
  obtain ⟨j, r, hj, hr, h1, h2, h3⟩ := h.job
  refine ⟨h.raised, { j with round := some r }, r, ?_, rfl, h1, h2, h3⟩
  unfold Dev.dropClosings
  rw [hj]
  simp [hr, h3]

theorem Dev.Ready.lateClosings (h : d.Ready k t) : d.lateClosings.Ready k t := by
  obtain ⟨j, r, hj, hr, h1, h2, h3⟩ := h.job
  have : d.liveJobs.flatMap (fun j => (j.round.map Round.closing).getD []) = [] := by
    rw [List.flatMap_eq_nil_iff]
    intro x hx
    unfold Dev.liveJobs at hx
    rw [hj] at hx
    have : x = j := by simpa using (List.mem_filter.1 hx).1
    subst this
    rw [hr]
    exact h3
  unfold Dev.lateClosings
  rw [this]
  exact h

theorem Dev.Ready.closeWindow (h : d.Ready k t) (n : Nat) : (d.closeWindow n).Ready k t := by
  have e : (d.endWindow n).Ready k t := by
    unfold Dev.endWindow
    split
    · exact h
    · dsimp only
      split <;> exact h.of rfl rfl
  have e2 : ∀ b : Bool, (if b then d else d.endWindow n).Ready k t := by
    intro b
    cases b
    · exact e
    · exact h
  unfold Dev.closeWindow
  split
  · exact h
  · exact e2 _

/-- What follows any work, from a device whose one round is ready. -/
theorem Dev.Ready.after {s : State} (h : s.dev.Ready k t) : (s.withDev ((List.range 12).foldl Dev.closeWindow
    s.dev.serveEntries.roundWaits.dropClosings.lateClosings)).offerEngines.offerSorters.dev.Ready k t :=
  Dev.Ready.offers (Dev.Ready.withDev (Dev.Ready.fold (fun _ n hd => hd.closeWindow n) _ _
    h.serveEntries.roundWaits.dropClosings.lateClosings) s)

/-! ### ROUND_COMPLETE -/

theorem flareBatch_none (e : Eff) (h : ∀ q, (e.dev.part q).flareBuffer = [] ∧ (e.dev.part q).overflowMark = false) :
    e.flareBatch = e := by
  have hl : e.dev.flareEntries = [] := by
    unfold Dev.flareEntries
    rw [List.flatMap_eq_nil_iff.2 (fun p _ => by rw [(h p).1]; rfl)]
    rfl
  unfold Eff.flareBatch
  rw [hl]
  exact flareOverflows_none _ _ (fun q => (h q).2)

theorem Dev.closers_of {d e : Dev} (hc : e.cells = d.cells) (he : e.engines = d.engines) (hs : e.stackTab = d.stackTab)
    (hg : ∀ g, (e.region g).outOfService = (d.region g).outOfService) (j : Job) (r : Round) : e.closers j r = d.closers j r := by
  have h1 : e.cellUp = d.cellUp := by
    funext n
    unfold Dev.cellUp Dev.cell
    rw [hc, hg]
  have h2 : e.engineUp = d.engineUp := by
    funext n
    unfold Dev.engineUp Dev.engine Dev.stack
    rw [he, hs, hg]
  unfold Dev.closers
  rw [h1, h2]

/-- A round whose work is done, with none of its lines combined and no closing pattern to wait for, becomes ready. -/
theorem State.roundComplete_ready (s : State) (k : Nat) (j : Job) (r : Round) (hr : s.dev.raised = [])
    (hf : ∀ q, (s.dev.part q).flareBuffer = [] ∧ (s.dev.part q).overflowMark = false) (hj : s.dev.jobs = [(k, j)])
    (hid : j.id = k) (hl : j.state ≠ .ended) (hjr : j.round = some r) (hw : r.working j.batch = true)
    (hc : s.dev.copyWaits j = false) (hi : r.inStep = false) (hp : r.phase = .imagined)
    (hs : j.prog.hdr.s ≤ r.step ∨ j.imagines = false) (hv : ∀ x ∈ r.insts, x.votes = [])
    (hb : ∀ g ∈ s.dev.regions, g.2.wcb = []) (hcl : s.dev.closers j r = []) :
    (s.roundComplete k).dev.Ready k s.dev.now := by
  have quiet : ∀ (a b : State), NoticesOnly a.dev b.dev → (∀ q, (a.dev.part q).flareBuffer = [] ∧ (a.dev.part q).overflowMark = false) →
      ∀ q, (b.dev.part q).flareBuffer = [] ∧ (b.dev.part q).overflowMark = false := fun a b h hq q =>
    ⟨(congrArg Part.flareBuffer (h.part q) :).trans (hq q).1, (congrArg Part.overflowMark (h.part q) :).trans (hq q).2⟩
  have n0 : NoticesOnly s.dev (s.apply s.dev.eff).dev := s.apply_only s.dev.eff hr
  have n1 : NoticesOnly s.dev (s.apply s.dev.eff).flare.dev := by
    refine n0.trans ?_
    unfold State.flare
    rw [flareBatch_none _ (quiet _ _ n0 hf)]
    exact State.apply_only _ (s.apply s.dev.eff).dev.eff (n0.raised.trans hr)
  have hx : (s.roundComplete k) = ((s.apply s.dev.eff).pump).runJob k := rfl
  rw [hx]
  unfold State.pump
  generalize (s.apply s.dev.eff).flare = s1 at n1
  have j1 : s1.dev.jobs = [(k, j)] := n1.jobs.trans hj
  have live : s1.dev.liveJobs = [j] := by unfold Dev.liveJobs; rw [j1]; simp [hl]
  have rnd : s1.dev.round? k = some (j, r) := by unfold Dev.round? Dev.job?; rw [j1]; simp [tget, hjr]
  have hrel : s1.releaseVotes = s1 := by
    unfold State.releaseVotes
    rw [live]
    simp only [List.foldl_cons, List.foldl_nil, hjr, hw]
    have key : ∀ (l : List Inst) (a : State), (∀ x ∈ l, x.votes = []) → l.foldl (fun b x =>
        let m := if decide (x.state = .running) then x.votes.filter (s1.dev.orphan j r x) else []
        if m.isEmpty then b
        else State.settleInst (j.prog.op x.op).fuel (m.foldl (fun c v => c.releaseVote j r x v) b) j.id x.op) a = a := by
      intro l
      induction l with
      | nil => intro a _; rfl
      | cons x l ih =>
        intro a ha
        simp only [List.foldl_cons]
        rw [ha x List.mem_cons_self]
        simp only [List.filter_nil, ite_self, List.isEmpty_nil, if_true]
        exact ih a fun y hy => ha y (List.mem_cons_of_mem _ hy)
    simpa using key r.insts s1 hv
  rw [hrel]
  dsimp only
  have hend : (s1.endRound k).dev.Ready k s.dev.now := by
    unfold State.endRound
    have hfl : s1.dev.eff.flushWhere s1.mem (fun w => w.jobs.contains k) = s1.dev.eff := by
      unfold Eff.flushWhere
      rw [List.flatMap_eq_nil_iff.2 (fun g hg => by
        rw [hb g (by rw [← n1.regions]; exact hg)]; rfl)]
      rfl
    rw [hfl]
    extract_lets s2
    have n2 : NoticesOnly (s1.dev.dropAct k) s2.dev := s1.apply_only (s1.dev.dropAct k).eff (n1.raised.trans hr)
    have rnd2 : s2.dev.round? k = some (j, r) := by
      unfold Dev.round? Dev.job?
      rw [n2.jobs, show (s1.dev.dropAct k).jobs = s1.dev.jobs from rfl, j1]
      simp [tget, hjr]
    have cl2 : s2.dev.closers j r = [] := by
      rw [Dev.closers_of (d := s.dev) _ _ _ _ j r, hcl]
      · rw [n2.cells]; exact n1.cells
      · rw [n2.engines]; exact n1.engines
      · rw [n2.stackTab]; exact n1.stackTab
      · intro g
        unfold Dev.region
        rw [n2.regions, ← n1.regions]
        have := congrArg Region.outOfService (tgetD_map s1.dev.regions (fun r => r.dropAct (· == k)) g {} rfl)
        exact this
    rw [rnd2]
    dsimp only
    rw [cl2]
    have hcz : r.closing = [] := by
      unfold Round.working at hw
      simp only [Bool.and_eq_true, List.isEmpty_iff] at hw
      exact hw.1.2
    have ring : ∀ (f : Round → Round), (s2.dev.modRound k f).raised = s2.dev.raised := by
      intro f
      unfold Dev.modRound Dev.modJob
      split <;> rfl
    refine Dev.Ready.withDev (d := s2.dev.modRound k (fun y => { y with ready := true, readyAt := s2.dev.now }))
      ⟨(ring _).trans (n2.raised.trans (n1.raised.trans hr)), { j with round := some { r with ready := true, readyAt := s2.dev.now } },
      { r with ready := true, readyAt := s2.dev.now }, ?_, rfl, rfl, n2.settled.now.trans n1.settled.now, hcz⟩ s2
    have j2 : s2.dev.jobs = [(k, j)] := n2.jobs.trans j1
    have jk : s2.dev.job? k = some j := by unfold Dev.job?; rw [j2]; simp [tget]
    show (s2.dev.modRound k _).jobs = _
    unfold Dev.modRound Dev.modJob
    rw [jk]
    simp [j2, tset, hjr]
  have stop : ∀ (n : Nat) (a : State), a.dev.Ready k s.dev.now → (State.advanceRound n a k) = a := by
    intro n a ha
    cases n with
    | zero => rfl
    | succ n =>
      unfold State.advanceRound
      split
      · rfl
      · rename_i hjr'
        unfold State.roundAction
        rw [Round.working_ready (ha.round hjr')]
        rfl
  have run : ∀ a : State, a.dev.Ready k s.dev.now → a.runJob k = a := by
    intro a ha
    unfold State.runJob
    split
    · rfl
    · exact stop _ a ha
  have hgo : s1.runRounds = s1.endRound k := by
    unfold State.runRounds
    rw [live]
    simp only [List.map_cons, List.map_nil, List.foldl_cons, List.foldl_nil, hid]
    unfold State.runJob
    rw [rnd]
    dsimp only
    obtain ⟨n, hn⟩ : ∃ n, r.fuel j.prog = n + 1 := by
      refine ⟨r.fuel j.prog - 1, ?_⟩
      have : 0 < r.fuel j.prog := Nat.mul_pos (by omega) (by omega)
      omega
    rw [hn]
    unfold State.advanceRound
    rw [rnd]
    dsimp only
    have hact : s1.roundAction j r = some (s1.endRound j.id) := by
      have c1 : s1.dev.copyWaits j = false := by
        unfold Dev.copyWaits at hc ⊢
        rw [show (s1.dev.part j.part).waits = (s.dev.part j.part).waits from (congrArg Part.waits (n1.part j.part) :), n1.settled.tick]
        exact hc
      have c2 : s1.dev.flushWaits j.id = false := by
        unfold Dev.flushWaits
        rw [n1.regions, List.any_eq_false]
        intro g hg
        rw [hb g hg]
        simp
      unfold State.roundAction
      rw [c1, hw, hi, hp, c2]
      rcases hs with hs | hs
      · simp [Nat.not_lt.2 hs]
      · simp [hs]
    rw [hact, hid]
    exact stop n _ hend
  rw [hgo]
  have ha := Dev.Ready.after hend
  rw [run _ ha]
  exact ha

end Sys2Proof.Machine
end

