-- ==== Sys2Proof/WellFormed.lean ====
section
/-!
DEFINITION. Well-formed commands: every operand fits the field, the table or the unit the manual gives it.
-/

namespace Sys2Proof

/-- The widths of a register access of a port (R336, R367). -/
def widthOk (width : Nat) : Bool := [8, 16, 32, 64].contains width

/-- Lanes of one stack channel: 64 data, 8 side and 2 spare lanes (R282, R294). -/
def laneCount : Nat := 74

/-- A flare-door write of a width a port can bring, with an ARM word of 32 bits (R367). -/
def flareOk (w : FlareWrite) : Bool := widthOk w.width && w.arm < 2 ^ 32

/-- A read of a command ring brings a packet of whole granules, or a header (R340, R343). -/
def readOk : HostRead → Bool
  | .packet bytes => 64 ≤ bytes.length && bytes.length % 64 == 0
  | .readError header => header.length ≤ 64

/-- A stack line with an address in its stack (R283), and one of the 72 active lanes of its channel (R282). -/
def lineOk (e : LineError) : Bool := e.la < Machine.stackLines && e.lane < 72

/-- What a unit met: lines of the stacks, and masks that change a byte. -/
def obsOk (o : UnitObs) : Bool := o.lines.all lineOk && o.wrong.all fun w => w.2 != 0

/-- What a start finds: two banks, plans and configuration copies, lane numbers, and a loss for
each of the 6 regions and 12 base dies. -/
def startOk (o : StartObs) : Bool :=
  o.bankVerifies.length ≤ 2 && o.planVerifies.length ≤ 2 && o.configVerifies.length ≤ 2 &&
  (o.failingLanes.all fun l => l.2.2.all fun n => decide (n < laneCount)) && o.oscillators.length ≤ 18

/-- The fields of an Announce message in their widths. -/
def masterOk (m : PtpMaster) : Bool :=
  m.priority1 < 256 && m.clockClass < 256 && m.accuracy < 256 && m.variance < 2 ^ 16 &&
  m.priority2 < 256 && m.identity < 2 ^ 64 && m.stepsRemoved < 2 ^ 16

/-- One DTLS record's LOP message: a 16 B header and at most 1,184 B of payload (R426). -/
def messageOk (m : Bytes) : Bool := 16 ≤ m.length && m.length ≤ 1200

/-- The data of an Ethernet frame of the management LANs. -/
def frameOk (d : Bytes) : Bool := d.length ≤ 1500

/-- An object address, a type code and a value no longer than a BLOB (R392, R393). -/
def objectOk (index sub type : Nat) (value : Bytes) : Bool :=
  index < 2 ^ 16 && sub < 256 && type < 256 && value.length ≤ 65536

/-- A command whose operands fit their fields. -/
def Instr.wf : Instr → Bool
  | .nop _ tag => tag < 2 ^ 17
  | .loadImageBegin _ tag => tag < 2 ^ 17
  | .loadImageTable _ tag => tag < 2 ^ 17
  | .loadImageData _ tag => tag < 2 ^ 17
  | .loadImageEnd _ tag => tag < 2 ^ 17
  | .unload _ tag => tag < 2 ^ 17
  | .bind _ tag => tag < 2 ^ 17
  | .submit _ tag => tag < 2 ^ 17
  | .input _ tag => tag < 2 ^ 17
  | .storeCreate _ tag => tag < 2 ^ 17
  | .storeWrite _ tag => tag < 2 ^ 17
  | .fetch _ tag met => tag < 2 ^ 17 && met.all lineOk
  | .fetchCopy _ tag => tag < 2 ^ 17
  | .fork _ tag => tag < 2 ^ 17
  | .streamOpen _ tag => tag < 2 ^ 17
  | .streamChunk _ tag => tag < 2 ^ 17
  | .streamChunkPause _ tag => tag < 2 ^ 17
  | .streamChunkResume _ tag => tag < 2 ^ 17
  | .streamSave _ tag => tag < 2 ^ 17
  | .streamSaveDetach _ tag => tag < 2 ^ 17
  | .streamSaveComplete _ tag => tag < 2 ^ 17
  | .streamRestore _ tag => tag < 2 ^ 17
  | .streamEnd _ tag => tag < 2 ^ 17
  | .streamEndImmediate _ tag => tag < 2 ^ 17
  | .fence _ tag => tag < 2 ^ 17
  | .fenceEndJob _ tag => tag < 2 ^ 17
  | .fenceComplete _ tag => tag < 2 ^ 17
  | .fieldTest _ tag => tag < 2 ^ 17
  | .odRead _ tag => tag < 2 ^ 17
  | .odWrite _ tag => tag < 2 ^ 17
  | .packetFetch _ _ data => readOk data
  | .responseWrite _ => true
  | .cmdTailDb _ _ => true
  | .urgTailDb _ _ => true
  | .rspHeadDb _ _ => true
  | .ntcHeadDb _ _ => true
  | .ringEnable _ _ => true
  | .ringDisable _ _ => true
  | .release _ => true
  | .registerWrite _ offset width value => offset < 0x4000 && widthOk width && value < 2 ^ width
  | .quiesce _ write => flareOk write
  | .abortJob _ write job => flareOk write && job < 2 ^ 24
  | .dropQueue _ write => flareOk write
  | .functionLevelReset _ => true
  | .linkDown _ => true
  | .linkTraining _ speed width => [640, 320, 160, 80, 50, 25].contains speed && [16, 8, 4, 2, 1].contains width
  | .perst _ _ => true
  | .vfEnable _ _ => true
  | .busMasterEnable _ _ => true
  | .configSpaceWrite _ => true
  | .ideCheckFail _ => true
  | .keyProg _ _ _ _ key ranges => key.length == 32 && ranges.length ≤ 4 && ranges.all fun r => r.1 ≤ r.2 && r.2 < 2 ^ 64
  | .keySetGo _ _ _ _ => true
  | .getTdispVersion _ => true
  | .getTdispCapabilities _ => true
  | .lockInterface _ => true
  | .getDeviceInterfaceReport _ => true
  | .getDeviceInterfaceState _ => true
  | .startInterface _ _ => true
  | .stopInterface _ => true
  | .getCertificate _ requester slot => requester < 2 ^ 16 && slot < 8
  | .challenge _ requester slot nonce => requester < 2 ^ 16 && slot < 8 && nonce.length == 32
  | .getMeasurements _ requester index nonce => requester < 2 ^ 16 && index < 256 && nonce.length == 32
  | .keyExchange _ requester slot _ => requester < 2 ^ 16 && slot < 8
  | .tickBoundary => true
  | .commitWindow _ => true
  | .tickLoss => true
  | .roundComplete job met => job < 2 ^ 24 && met.all lineOk
  | .tileClaim _ => true
  | .tileComplete _ obs => obsOk obs
  | .cirrusOperationComplete _ _ obs => obsOk obs
  | .guaranteedWindowStart _ => true
  | .cellFault _ _ => true
  | .engineFault _ _ _ => true
  | .sorterDisagreement _ => true
  | .roLineRepair _ la _ => la < Machine.stackLines
  | .wcbAgeFlush _ _ met => met.all lineOk
  | .patrolScrub err => lineOk err
  | .regulatorRefill => true
  | .shareWindowStart => true
  | .laneFailure _ _ lane _ => lane < laneCount
  | .retrainingComplete _ _ failing => failing.all fun n => decide (n < laneCount)
  | .regionLoss _ => true
  | .fabricLinkFailure _ _ => true
  | .lockstepMismatch _ => true
  | .pairTakeoverComplete _ => true
  | .chipPairRestartComplete _ _ obs => startOk obs
  | .clockLoss _ => true
  | .clockRelockTimeout _ => true
  | .supplyOutOfRange _ => true
  | .temperatureReading _ _ => true
  | .throttleRelease => true
  | .causeClear _ => true
  | .safeStateIn _ _ => true
  | .faultNDriverTest _ _ => true
  | .faultLineMismatch _ => true
  | .idlePattern _ => true
  | .patternComplete _ _ => true
  | .fieldTestStart _ => true
  | .fieldTestComplete _ _ => true
  | .plannedRemovalSwitch _ => true
  | .placementComplete _ => true
  | .stratusReadComplete _ _ => true
  | .stratusWriteDurable _ tag => tag < 2 ^ 17
  | .spillComplete _ _ met => met.all lineOk
  | .evictionComplete _ _ met => met.all lineOk
  | .recallComplete _ _ => true
  | .garbageCollection _ => true
  | .readDisturbRefresh _ _ => true
  | .retentionRefresh _ _ => true
  | .staticWearLevelling _ => true
  | .badBlockRetirement _ _ => true
  | .dieFailure _ => true
  | .stratusCheckpoint => true
  | .stratusMount _ => true
  | .timingEdge _ _ _ => true
  | .sourceLostTimeout => true
  | .announceReceiptTimeout _ => true
  | .ptpAnnounce _ domain master => domain < 256 && masterOk master
  | .ptpSync _ _ _ => true
  | .pdelayReq _ sequence => sequence < 2 ^ 16
  | .holdoverExpired => true
  | .taiSecondWrite _ _ => true
  | .dtlsHandshake hello => hello.keyHash.length == 32
  | .sessionIdleTimeout _ => true
  | .mgmtOdRead _ message => messageOk message
  | .mgmtOdWrite _ message => messageOk message
  | .mgmtQuiesce _ message => messageOk message
  | .mgmtAbortJob _ message => messageOk message
  | .mgmtDropQueue _ message => messageOk message
  | .mgmtRelease _ message => messageOk message
  | .noticeAck _ message => messageOk message
  | .credentialSet _ message => messageOk message
  | .inspectPageFrame _ message => messageOk message
  | .inspectPageList _ message => messageOk message
  | .inspectStreamEntry _ message => messageOk message
  | .inspectStateDesc _ message => messageOk message
  | .inspectLines _ message => messageOk message
  | .inspectObject _ message => messageOk message
  | .inspectHeaders _ message => messageOk message
  | .keepalive _ message => messageOk message
  | .icmpv6Echo _ data => frameOk data
  | .neighbourDiscovery _ target => target.length == 16
  | .prpSupervision => true
  | .lanLost _ => true
  | .lanRestored _ => true
  | .noticeDelivery _ => true
  | .noticeResend _ => true
  | .objectWrite _ index sub type value => objectOk index sub type value
  | .readAndClear _ index sub => index < 2 ^ 16 && sub < 256
  | .watermarkSlotWrite _ index sub type value => objectOk index sub type value
  | .partitionCreate _ _ => true
  | .partitionDelete _ _ => true
  | .configStore _ => true
  | .configStoreDurable _ => true
  | .defaults _ => true
  | .rebase _ => true
  | .resetWarm _ => true
  | .resetCold _ => true
  | .orderlyWindowEnd obs => startOk obs
  | .firmwareChunk _ value => value.length ≤ 65536
  | .firmwareBegin _ => true
  | .firmwareCommit _ => true
  | .firmwareCancel _ => true
  | .leaveSafeState _ => true
  | .safetyLockOpen _ => true
  | .safetyLockExpire => true
  | .fieldTestMgmt _ _ => true
  | .plannedFence _ _ => true
  | .replanNow _ => true
  | .alarmAcknowledge _ _ _ => true
  | .powerCapWrite _ _ => true
  | .skyPinFunctionWrite _ _ _ => true
  | .skyPinTake _ => true
  | .replicaRead delays => delays.length ≤ 576
  | .ringOscillatorRead losses => losses.length ≤ 18
  | .retentionRead _ _ _ => true
  | .eyeRead _ widths => widths.length ≤ 16
  | .replanInterval => true
  | .replanDecision steps => steps.all fun o => decide (o.delays.length ≤ 576)
  | .feedChange _ _ _ => true
  | .inputResetRange => true
  | .powerOn obs => startOk obs
  | .resetN obs => startOk obs
  | .startStepTimeout step => step < 256
  | .warmStartRetry obs => startOk obs
  | .startReady => true
  | .tamper _ => true
  | .lowCell => true
  | .backupTemperature _ => true
  | .cellFailure => true
  | .smbusPartNumber => true
  | .smbusSerialNumber => true
  | .smbusStartState => true
  | .smbusFailedStep => true
  | .smbusInputPower => true
  | .smbusCoolantInlet => true
  | .smbusAlarmCauses => true
  | .smbusEnrol fingerprint => fingerprint.length == 32
  | .smbusEnrolResult => true
  | .dieRebuildComplete _ => true
  | .rspHoldoffExpiry _ => true
  | .taiSecondPulse => true
  | .zenithPassComplete _ met => met.all lineOk
  | .replanAfterStart => true

end Sys2Proof
end

