-- ==== Sys2Proof/Tests/Slice0.lean ====
section
/-!
SUPPORT. Ill-formed commands that each check of `Instr.wf` refuses, and, for each statement with hypotheses, states and
operands that meet them. The states are small: a ready module with one partition on port 0 and what the case needs.
-/

namespace Sys2Proof.Tests

set_option Elab.async false
set_option maxRecDepth 8000
set_option exponentiation.threshold 4096

open Sys2Proof.Machine Sys2Proof.Safety

/-! ### States -/

/-- A ring of 64 KiB that is enabled. -/
def ring : Ring := { enable := true, log2 := 16 }

/-- A created partition whose function is present and masters the bus, with every ring enabled. -/
def part : Part :=
  { created := true, present := true, busMaster := true, normal := ring, urgent := ring, rsp := ring, ntc := ring
    msix := [(0, { masked := false }), (1, { masked := false }), (2, { masked := false }), (3, { masked := false })] }

/-- A port whose link is up. -/
def port : Port := { linkUp := true, inReset := false, perst := false }

/-- A ready module with a partition on port 0 that has 1 GiB of Stratus for saves and for objects. -/
def up : Dev :=
  { start := { status := 1, stepsDone := true }, stratus := { mounted := true }, ports := [(0, port)]
    parts := [(0, part)], force := [(objKey (partIndex 0 0x11) 3, 1), (objKey (partIndex 0 0x13) 3, 1)] }

/-- The state of a device. -/
def on (d : Dev) : State := { dev := d }

/-- A packet of tag 1. -/
def pkt (opcode : Nat) (arg0 : Nat := 0) (arg1 : Nat := 0) (payload : Bytes := []) : Packet :=
  { urgent := false, opcode := opcode, posted := false, partialOk := false, urgentClass := false, part := 0, seq := 0
    tag := 1, job := 0, tick := 0, len := payload.length, arg0 := arg0, arg1 := arg1, payload := payload, arrival := 0
    order := 0 }

/-- The module with a packet in the inbox of its partition. -/
def asks (k : Packet) (d : Dev := up) : State := on (d.setPart 0 { d.part 0 with inbox := [k] })

/-- The module with a command of its partition that waits. -/
def waits (k : Packet) (w : WaitFor) (d : Dev := up) : State :=
  on (d.setPart 0 { d.part 0 with waits := [{ pkt := k, what := w }] })

/-- An image of no bytes whose one entry is still to come. -/
def image : Image :=
  { number := 1, generation := 0, part := 0, nTens := 1, dataBytes := 128, entries := [], received := 0, loc := 0, units := 1
    placed := false, slices := [] }

/-- A header of no tables and one tensor, input, output or state of one kind each. -/
def header : Header := Header.ofNat 0

/-- A program of no operator. -/
def prog : Program := { hdr := header, tensors := [], ops := [], problems := [], edges := [], sites := [], att := [] }

/-- A bound job of partition 0. -/
def job : Job := { id := 0, part := 0, imageNo := 1, prog := prog, handle := 1, orderDep := false }

/-! ### The checks of WellFormed -/

/-- What a start finds: the system area and the banks as given, all else in order. -/
def found (readable verifies : Bool) : StartObs :=
  { systemAreaReadable := readable, bankVerifies := [verifies, verifies], planVerifies := [], configVerifies := []
    laneMapVerifies := true, checkpointVerifies := true, failingLanes := [], bistChannels := [], patternFails := []
    placementsKept := [], moduleId := 0, retention := [], delays := [], oscillators := [], eraseMax := 0
    stratusReadOnly := false }

/-- Ill-formed commands: at least one for each check of `Instr.wf`. -/
def illFormed : List Instr :=
  [.nop 0 (2 ^ 17), .fetch 0 1 [{ stack := 0, la := 0, symbols := 1, tagFails := false, lane := 72 }],
    .packetFetch 0 false (.packet [1]), .packetFetch 0 false (.packet (List.replicate 65 0)),
    .packetFetch 0 false (.readError (List.replicate 65 0)), .registerWrite 0 0x4000 32 0, .registerWrite 0 0 24 0,
    .registerWrite 0 0 8 256, .quiesce 0 { width := 24, arm := 0, pairBusy := false },
    .dropQueue 0 { width := 64, arm := 2 ^ 32, pairBusy := false },
    .abortJob 0 { width := 64, arm := 0, pairBusy := false } (2 ^ 24), .linkTraining 0 100 16, .linkTraining 0 640 3,
    .keyProg 0 .posted true 0 [0] [], .keyProg 0 .posted true 0 (List.replicate 32 0) [(2, 1)],
    .keyProg 0 .posted true 0 (List.replicate 32 0) (List.replicate 5 (0, 0)), .getCertificate 0 0 8, .getCertificate 0 65536 0,
    .challenge 0 0 0 [0], .getMeasurements 0 0 256 (List.replicate 32 0), .keyExchange 0 0 8 [],
    .roundComplete (2 ^ 24), .tileComplete 0 { lines := [], wrong := [(0, 0)] },
    .patrolScrub { stack := 0, la := stackLines, symbols := 1, tagFails := false }, .roLineRepair 0 stackLines true,
    .laneFailure 0 0 74 false, .retrainingComplete 0 0 [74],
    .powerOn { found true true with bankVerifies := [true, true, true] },
    .powerOn { found true true with failingLanes := [(0, 0, [74])] },
    .powerOn { found true true with oscillators := List.replicate 19 0 }, .ptpAnnounce .a 256 ⟨0, 0, 0, 0, 0, 0, 0⟩,
    .ptpAnnounce .a 0 ⟨256, 0, 0, 0, 0, 0, 0⟩, .pdelayReq .a 65536,
    .dtlsHandshake { keyHash := [], accepted := true, refusedFeature := false }, .keepalive 0 [],
    .icmpv6Echo .a (List.replicate 1501 0), .neighbourDiscovery .a [], .objectWrite (.cred 0) 65536 0 0 [],
    .readAndClear (.cred 0) 0 256, .watermarkSlotWrite (.cred 0) 0 256 0 [],
    .replicaRead (List.replicate 577 (.cell 0, 0)), .ringOscillatorRead (List.replicate 19 0), .eyeRead 0 (List.replicate 17 0),
    .replanDecision [{ delays := List.replicate 577 (.cell 0, 0) }], .startStepTimeout 256, .smbusEnrol []]

theorem test_wf_refuses : illFormed.all (fun i => !i.wf) = true := by decide +kernel

theorem test_wf_accepts : Instr.wf (.nop 0 (2 ^ 17 - 1)) = true ∧ Instr.wf (.registerWrite 0 0x3FFF 8 255) = true ∧
    Instr.wf (.startStepTimeout 255) = true := by decide

/-! ### The machine as a whole -/

theorem witness_stepKeepsSound : Sound { on up with pending := [.taiSecondPulse] } := by
  unfold Sound; decide

theorem witness_idleStepLetsTimePass : (on up).pending = [] ∧ up.raised = [] ∧
    (∀ p, (up.part p).flareBuffer = [] ∧ (up.part p).overflowMark = false) ∧
    ∀ x ∈ up.mgmt.sessions, x.2.headersUntil = none := by
  refine ⟨rfl, rfl, fun p => ?_, by decide⟩
  unfold Dev.part
  cases p <;> exact ⟨rfl, rfl⟩

theorem witness_memoryReadsBack : Mem.wf {} = true := by decide

/-! ### Commands of the rings -/

theorem witness_hostCommandAwaitsItsPacket : up.raised = [] ∧ ∀ op, up.starting 0 1 op = none := ⟨rfl, fun _ => rfl⟩

theorem witness_nopCompletes : Arrived (asks (pkt 0)) 0 1 0 (pkt 0) ∧ Arrived (asks (pkt 0 1)) 0 1 0 (pkt 0 1) := by
  unfold Arrived; decide

/-! ### Images, programs and jobs -/

/-- A tensor entry of 32 elements of FP32 in one dimension with a pitch of 128 B, at offset 0, with padding to 64 B. -/
def entryBytes : Bytes := [64, 0, 0, 0, 32, 0, 0, 0] ++ List.replicate 12 0 ++ [128] ++ List.replicate 43 0

/-- A LOAD_IMAGE BEGIN of one tensor and 128 B. -/
def begin : Packet := pkt 1 0 0 (toLe 8 1 ++ toLe 8 128 ++ List.replicate 48 0 ++ entryBytes)

/-- The module with an image that may have its table, its bytes and its placement. -/
def holding (im : Image) : Dev := { up with images := [(1, im)] }

/-- The image with its table and its bytes. -/
def whole : Image := { image with entries := entriesIn entryBytes, received := 128 }

theorem witness_imageUploadCompletes :
    (Arrived (asks begin) 0 1 1 begin ∧ 64 ≤ begin.payload.length ∧ field (leAt begin.payload 0 64) 31 0 = 1 ∧
      field (leAt begin.payload 0 64) 127 64 = 128 ∧ field (leAt begin.payload 0 64) 63 32 = 0 ∧
      field (leAt begin.payload 0 64) 511 128 = 0 ∧ (entriesIn (begin.payload.drop 64)).length = 1 ∧
      (∀ e ∈ entriesIn (begin.payload.drop 64), e.legal 128 = true) ∧ ceilDiv 128 4096 * 4096 ≤ up.stratusRoom 0 ∧
      (up.takeStratus 1 0).isSome = true) ∧
    (Arrived (asks (pkt 1 1 1 entryBytes) (holding image)) 0 1 1 (pkt 1 1 1 entryBytes) ∧
      (holding image).imageOf 1 = some image ∧ (∀ e ∈ entriesIn entryBytes, e.legal 128 = true)) ∧
    (Arrived (asks (pkt 1 2 1 (List.replicate 128 7)) (holding image)) 0 1 1 (pkt 1 2 1 (List.replicate 128 7)) ∧
      image.ended = false ∧ up.stratus.state ≠ 2) := by
  unfold Arrived; decide

theorem witness_imageEndAndUnloadComplete :
    (Arrived (asks (pkt 1 3 1) (holding whole)) 0 1 1 (pkt 1 3 1) ∧ (holding whole).imageOf 1 = some whole ∧
      (holding whole).dataPending 0 whole = false ∧ whole.entries.length = whole.nTens ∧
      (∀ t ∈ whole.entries, ∀ r < 12, bit t.stackMask r = true → (holding whole).regionUsable 0 (r / 2) = true) ∧
      ((holding whole).eff.placeWeights 0 whole.entries).isSome = true) ∧
    (Arrived (asks (pkt 1 4 1) (holding whole)) 0 1 1 (pkt 1 4 1) ∧ (holding whole).placing 1 = false ∧
      whole.restoring = false ∧ ∀ j ∈ (holding whole).liveJobs, j.imageNo ≠ 1) := by
  unfold Arrived; decide

/-- The image placed. -/
def placedImage : Image := { whole with ended := true, placed := true }

/-- A BIND payload of a program of one atomic operator over two output tensors of 64 elements. -/
def bindBytes : Bytes :=
  let tensor : Bytes := toLe 64 (2 + (1 <<< 8) + (1 <<< 32) + (64 <<< 64))
  let op : Bytes := toLe 128 (9 + (0xFFFF <<< 80) + (0xFFFF <<< 112) + (1 <<< 128) + (0xFFFF <<< 144) + (1 <<< 384))
  toLe 64 1 ++ toLe 128 (0x50525A39 + (1 <<< 32) + (384 <<< 64) + (2555693585 <<< 96) + (2 <<< 192) + (1 <<< 208) +
    (128 <<< 320) + (256 <<< 352) + (1 <<< 512) + (1 <<< 525)) ++ tensor ++ tensor ++ op

/-- The BIND, to job 1. -/
def bindPkt : Packet := { pkt 2 0 0 bindBytes with job := 1 }

theorem witness_bindCompletes :
    Arrived (asks bindPkt (holding placedImage)) 0 1 2 bindPkt ∧ bindPkt.job ≠ 0 ∧
    (asks bindPkt (holding placedImage)).safety.safe = false ∧
    (asks bindPkt (holding placedImage)).dev.loadsFirst 0 (bindTag bindBytes) bindPkt = false ∧
    (holding placedImage).imageOf (bindTag bindBytes) = some placedImage ∧ bindCheck bindBytes (some placedImage) = none ∧
    placedImage.restoring = false ∧ (holding placedImage).placing 1 = false ∧ (holding placedImage).liveJob 1 = none := by
  unfold Arrived; decide +kernel

/-- The module with the image placed and a job of it. -/
def running (j : Job) (d : Dev := holding placedImage) : Dev := { d with jobs := [(0, j)] }

/-- The job of the program of one atomic operator. -/
def bound : Job := { job with prog := Program.ofBytes (bindBytes.drop 64) }

/-- The module with that job as job 1. -/
def rebinding : Dev := { holding placedImage with jobs := [(1, { bound with id := 1 })] }

theorem witness_bindCompletes_again :
    Arrived (asks bindPkt rebinding) 0 1 2 bindPkt ∧ rebinding.liveJob 1 = some { bound with id := 1 } ∧ bound.state = .bound ∧
    rebindCompatible bound.prog bound.prog = true := by
  unfold Arrived; decide +kernel

/-- A SUBMIT of a best-effort batch of one observed future and room for one imagined. -/
def submitPkt : Packet := pkt 3 0 0 (toLe 64 ((1 <<< 8) + (2 <<< 32) + (1 <<< 96)))

theorem witness_submitCompletes : ∃ b, Arrived (asks submitPkt (running bound)) 0 1 3 submitPkt ∧
    submitBatch submitPkt = some b ∧
    ((running bound).eff.admitJob { bound with batch := b, submitTag := 1, submitSeq := 0 } placedImage).toOption.isSome =
      true := by
  unfold Arrived
  exact ⟨_, by decide, rfl, by decide +kernel⟩

/-- An admitted job with one observed future. -/
def admitted : Job := { job with state := .admitted, futures := [{ id := 0, seed := 0, step := 0, observed := true, slot := 0, kv := [] }] }

/-- A resident host stream of it. -/
def stream : StreamEntry := { host := true, part := 0, job := 0, id := 0, loc := .resident }

/-- The module with the job and its stream. -/
def streaming (x : StreamEntry := stream) : Dev := { running admitted with streams := [(0, x)] }

theorem witness_tickCommandsAreTaken :
    (Arrived (asks (pkt 0x10) streaming) 0 1 0x10 (pkt 0x10) ∧ (asks (pkt 0x10) streaming).dev.inputCheck 0 (pkt 0x10) = none) ∧
    (∃ k, Arrived (asks k streaming) 0 1 0x20 k ∧ (asks k streaming).dev.forkCheck 0 k = none) ∧
    (∃ k, Arrived (asks k streaming) 0 1 0x22 k ∧ chunkKind k = 0 ∧ (asks k streaming).dev.dataChunkCheck 0 k = none) ∧
    (∃ k, Arrived (asks k streaming) 0 1 0x22 k ∧ chunkKind k = 1 ∧ (asks k streaming).dev.controlChunkCheck 0 k = none) ∧
    (∃ k, Arrived (asks k streaming) 0 1 0x22 k ∧ chunkKind k = 2 ∧ (asks k streaming).dev.controlChunkCheck 0 k = none) ∧
    (Arrived (asks (pkt 0x10 7) streaming) 0 1 0x10 (pkt 0x10 7) ∧
      (asks (pkt 0x10 7) streaming).dev.inputCheck 0 (pkt 0x10 7) = some (.rejectedFormat, 0)) := by
  unfold Arrived
  exact ⟨by decide, ⟨pkt 0x20 0 0 (List.replicate 64 0), by decide⟩, ⟨pkt 0x22 0 0 (toLe 64 1), by decide⟩,
    ⟨pkt 0x22 0 2 (List.replicate 64 0), by decide⟩, ⟨pkt 0x22 0 4 (List.replicate 64 0), by decide⟩, by decide⟩

/-! ### Objects, fences and streams -/

/-- A STORE with handle 0 of 64 B, in a stack or in Stratus. -/
def storePkt (stratus : Bool) : Packet := pkt 0x11 0 0 (toLe 64 ((64 <<< 128) + if stratus then 2 ^ 32 else 0))

/-- The module with an object of 128 B under handle 1. -/
def storing (stratus : Bool) : Dev :=
  { up with objects := [(1, { part := 0, stratus := stratus, stack := 0, base := 0, total := 128 })] }

/-- A STORE of 64 B into it. -/
def writePkt : Packet := pkt 0x11 0 0 (toLe 64 (1 + (64 <<< 64)) ++ List.replicate 64 9)

theorem witness_storeCompletes :
    (Arrived (asks (storePkt false)) 0 1 0x11 (storePkt false) ∧ (storePkt false).handle = 0 ∧
      field (leAt (storePkt false).payload 0 64) 191 128 = 64 ∧ up.roomiest (up.usableStacks 0) = some 0 ∧
      (up.eff.takeRoom 0 1 (ceilDiv 64 128) 0).isSome = true) ∧
    (Arrived (asks (storePkt true)) 0 1 0x11 (storePkt true) ∧ up.stratus.state ≠ 2 ∧
      ceilDiv 64 4096 * 4096 ≤ up.stratusRoom 0 ∧ (up.takeStratus (ceilDiv 64 4096) 0).isSome = true) ∧
    (∀ b, Arrived (asks writePkt (storing b)) 0 1 0x11 writePkt ∧ writePkt.handle = 1 ∧
      ((storing b).object? 0 1).isSome = true ∧ field (leAt writePkt.payload 0 64) 127 64 = 64 ∧
      64 + (writePkt.payload.drop 64).length = 128) := by
  unfold Arrived; decide +kernel

/-- A FETCH of 32 B of the object, or of the first tensor of a job at a tick. -/
def fetchPkt (object : Bool) (tick : Nat) : Packet :=
  pkt 0x12 0 0 (toLe 64 ((if object then 1 + (1 <<< 32) else 0) + (32 <<< 96) + (tick <<< 192)))

/-- The module with the job of two output tensors, whose first has its home in stack 0. -/
def fetching : Dev :=
  running { bound with state := .admitted, homes := [some { space := .stack 0, base := 0, bufBytes := 64, bufs := 2 }, none] }

theorem witness_fetchCompletes :
    (∀ b, Arrived (asks (fetchPkt true 0) (storing b)) 0 1 0x12 (fetchPkt true 0) ∧ fetchLegal (fetchPkt true 0) = true ∧
      up.outboxTakes 0 32 = true ∧ (storing b).object? 0 1 = some { part := 0, stratus := b, stack := 0, base := 0, total := 128 } ∧
      ({} : Mem).rangePoisoned ((Space.stack 0).addr 0) 32 = false) ∧
    (∀ t ∈ [0, 5], Arrived (asks (fetchPkt false t) fetching) 0 1 0x12 (fetchPkt false t) ∧
      fetchLegal (fetchPkt false t) = true ∧ (fetching.liveJob 0).isSome = true ∧
      ((fetching.liveJob 0).bind (fun j => (fetching.fetchAt j (fetchPkt false t) 0).toOption)).isSome = true) ∧
    ((waits (fetchPkt false 0) (.fetchTick 0) { fetching with tick := { fetching.tick with tick := 1 } }).dev.wait? 0 1).isSome =
      true := by
  unfold Arrived; decide +kernel

theorem witness_fenceCompletes :
    (Arrived (asks (pkt 0x30)) 0 1 0x30 (pkt 0x30)) ∧
    (Arrived (asks (pkt 0x30 1) (running job)) 0 1 0x30 (pkt 0x30 1) ∧ (running job).liveJob 0 = some job ∧
      job.round = none) ∧
    ((waits (pkt 0x30) .fence).dev.wait? 0 1 = some { pkt := pkt 0x30, what := .fence } ∧
      ∀ f ∈ ((waits (pkt 0x30) .fence).dev.part 0).flights, f.order < 0 → f.completed = true) := by
  unfold Arrived; decide +kernel

theorem witness_hostObjectCommandsComplete :
    (Arrived (asks (pkt 0x32 (0x4002 + (1 <<< 16)))) 0 1 0x32 (pkt 0x32 (0x4002 + (1 <<< 16))) ∧
      isAlias 0x4002 1 = false) ∧
    (∃ k es, Arrived (asks k) 0 1 0x33 k ∧ entriesOf k.payload = (es, none) ∧ es.length = 1) := by
  unfold Arrived
  exact ⟨by decide +kernel, pkt 0x33 0 0 (toLe 8 (0x4002 + (3 <<< 16) + (4 <<< 24) + (4 <<< 32)) ++ toLe 8 1000000), _,
    by decide +kernel, rfl, rfl⟩

theorem witness_streamOpenAndRestoreWait :
    (Arrived (asks (pkt 0x21 5 0 (List.replicate 64 0)) streaming) 0 1 0x21 (pkt 0x21 5 0 (List.replicate 64 0)) ∧
      (streaming.liveJob 0 = some admitted) ∧ (openFields (pkt 0x21 5 0 (List.replicate 64 0))).isSome = true) ∧
    (Arrived (asks (pkt 0x24 0 1) streaming) 0 1 0x24 (pkt 0x24 0 1) ∧ (streaming.hostEntry 0 0).isSome = true) := by
  unfold Arrived; decide +kernel

/-- A flash tier with no unit left. -/
def full : Stratus := { mounted := true, alloc := [{ base := 0, size := userUnits, part := 0 }] }

theorem witness_streamSaveCompletes :
    (∀ a ∈ [0, 2], Arrived (asks (pkt 0x23 0 a) streaming) 0 1 0x23 (pkt 0x23 0 a) ∧
      streaming.saveEntry (pkt 0x23 0 a) = some (0, stream) ∧
      alignUp (savedBytes admitted.prog) 4096 ≤ streaming.savedRoom 0 ∧ streaming.stratus.state ≠ 2) ∧
    ((waits (pkt 0x23) (.save 0 (some [1])) streaming).dev.wait? 0 1 = some { pkt := pkt 0x23, what := .save 0 (some [1]) } ∧
      (streaming.takeStratus (ceilDiv 1 4096) 0).isSome = true ∧ streaming.boundedReads = false ∧
      streaming.stratus.spareHeld = false ∧ ({ streaming with stratus := full } : Dev).takeStratus (ceilDiv 1 4096) 0 = none ∧
      full.state ≠ 2 ∧ ({ full with readOnly := true } : Stratus).state = 2) := by
  unfold Arrived; decide +kernel

theorem witness_streamEndCompletes : ∀ a ∈ [0, 1], Arrived (asks (pkt 0x25 0 a) streaming) 0 1 0x25 (pkt 0x25 0 a) ∧
    streaming.hostEntry 0 0 = some (0, stream) := by
  unfold Arrived; decide +kernel

/-! ### Rings, doorbells and the flare door -/

/-- A NOP packet in a command ring. -/
def nopBytes : Bytes := toLe 60 ((1 <<< 32) + (1 <<< 64)) ++ toLe 4 (crc32c (toLe 64 ((1 <<< 32) + (1 <<< 64))))

/-- The module with one packet in its normal ring. -/
def ringing : Dev := up.setPart 0 { part with cmdTail := 1, expectSeq := [some 1, none] }

theorem witness_packetFetchCompletes :
    ringing.mayFetch 0 false = true ∧ lenLegal false (leAt nopBytes 24 4) = true ∧ nopBytes.length = 64 + leAt nopBytes 24 4 ∧
    packetCrcOk nopBytes = true ∧ 64 + leAt nopBytes 24 4 ≤ ringing.inboxFree 0 false ∧
    ringing.packetCheck 0 nopBytes (Packet.of nopBytes false 0 0) = none ∧
    (up.setPart 0 { part with cmdTail := 1, expectSeq := [some 2, none] }).packetCheck 0 nopBytes
      (Packet.of nopBytes false 0 0) ≠ none := by decide +kernel

/-- A response. -/
def response : Response := { code := 0, opcode := 0, part := 0, seq := 1, tag := 1, tick := 0 }

theorem witness_responseWriteCompletes :
    (up.setPart 0 { part with outbox := [response] }).masters 0 = true ∧ ahead 0 0 + response.units ≤ ring.capacity 32 ∧
    response.release = none := by decide +kernel

theorem witness_doorbellsComplete : up.reach 0 = true ∧ ahead 1024 part.normal.head ≤ part.normal.capacity 64 ∧
    ¬ahead 1025 part.normal.head ≤ part.normal.capacity 64 ∧ ahead 2048 part.rspHead ≤ part.rsp.capacity 32 ∧
    ¬ahead 2049 part.rspHead ≤ part.rsp.capacity 32 := by decide +kernel

/-- The partition with every ring of a size. -/
def sized (n : Nat) : Part :=
  let r := { ring with log2 := n }
  { part with normal := r, urgent := r, rsp := r, ntc := r }

theorem witness_ringBlocksComplete : up.raised = [] ∧ ∀ r : RingSel, (∀ n ∈ [11, 22, 31], (up.setPart 0 (sized n)).reach 0 = true) ∧
    (ringSizes r).1 ≤ ((sized 22).ring r).log2 ∧ ((sized 22).ring r).log2 ≤ (ringSizes r).2 ∧
    ((sized 11).ring r).log2 < (ringSizes r).1 ∧ (ringSizes r).2 < ((sized 31).ring r).log2 := by
  refine ⟨rfl, fun r => ?_⟩
  cases r <;> decide +kernel

theorem witness_flareActionsTakeEffect :
    up.reach 0 = true ∧ part.flareBuffer.length < 4 ∧ (∀ q, (up.part q).flareBuffer = [] ∧ (up.part q).overflowMark = false) ∧
    ((running job).liveJob 0 = some job ∧ job.part = 0 ∧ job.round = none) :=
  ⟨by decide +kernel, by decide, witness_idleStepLetsTimePass.2.2.1, by decide +kernel⟩

/-! ### Ports, functions and their protection -/

theorem witness_functionResetsComplete : up.raised = [] ∧ up.reach 0 = true := by decide

theorem witness_linksComplete :
    (({} : Dev).port 0).inReset = true ∧ (({ ports := [(0, { port with linkUp := false })] } : Dev).port 0).inReset = false ∧
    linkLegal 640 16 = true ∧ linkLegal 25 1 = true ∧ (up.port 0).linkUp = true := by decide +kernel

/-- The module with virtual function 1 of its port present and created in a TDI state. -/
def guarded (t : Tdi) : Dev := up.setPart 1 { part with tdi := t }

theorem witness_functionBitsComplete : ∀ t, (guarded t).reach 1 = true ∧ ((guarded t).part 1).tdi = t := by
  intro t; cases t <;> decide +kernel

/-- The module with a secure session, and the partition's stream established. -/
def secured (t : Tdi) : Dev :=
  { up with
    ports := [(0, { port with sessions := [1], requesters := [5] })]
    parts := [(0, { part with
      tdi := t, lockNonce := some 7
      ide := { established := true, keys := [{ sub := .posted, transmit := true, keySet := 0, key := List.replicate 32 0 }] } })] }

theorem witness_protectionCompletes :
    (∀ t, (secured t).reach 0 = true) ∧ ((secured .unlocked).port 0).sessions ≠ [] ∧
    (∃ k ∈ ((secured .unlocked).part 0).ide.keys, k.sub = .posted ∧ k.transmit = true ∧ k.keySet = 0) ∧
    ((secured .unlocked).part 0).created = true ∧ ((secured .unlocked).part 0).busMaster = true ∧
    ((secured .locked).part 0).lockNonce = some 7 :=
  ⟨fun t => by cases t <;> decide +kernel, by decide +kernel, ⟨_, List.mem_cons_self, rfl, rfl, rfl⟩, rfl, rfl, rfl⟩

theorem witness_attestationCompletes : (up.port 0).linkUp = true ∧ 5 ∈ ((secured .run).port 0).requesters ∧
    (up.port 0).requesters.length < 4 ∧
    (6 ∉ ({ port with requesters := [1, 2, 3, 4] } : Port).requesters) := by decide +kernel

/-! ### Vectors, notices and the management network -/

/-- A notice. -/
def notice : Notice :=
  { body := .alarm 0, tick := 0, time := 0, timeValid := false, raised := 0, part := 0, device := true }

theorem witness_vectorsAreRaised :
    up.reach 0 = true ∧ (∀ v ∈ [0, 1, 2, 3], (tgetD part.msix v {}).masked = false) ∧
    ahead 0 0 + response.units ≤ ring.capacity 32 ∧ ringing.mayFetch 0 false = true := by decide +kernel

/-- The module with a credential in slot 0 that has a session open. -/
def managed (x : Session := { cred := 0, lastRecord := 0 }) : Dev :=
  { up with mgmt := { sessions := [(1, x)], creds := [(0, { fingerprint := some [1], pending := [notice] })] } }

theorem witness_noticesAreDelivered :
    ((up.setPart 0 { part with pending := [notice] }).masters 0 = true ∧ ahead 0 0 < ring.capacity 64) ∧
    (managed.netUp = true ∧ managed.sessionsOf 0 ≠ [] ∧ (managed.cred 0).pending = [notice]) := by decide +kernel

theorem witness_sessionsComplete : managed.netUp = true ∧ managed.credOf [1] = some 0 ∧ managed.mgmt.sessions.length < 16 ∧
    (managed.sessionsOf 0).length < 4 ∧ managed.credOf [2] = none ∧ (tget managed.mgmt.sessions 1).isSome = true := by
  decide +kernel

theorem witness_lansComplete : up.mgmt.down = false ∧ Lan.a ∉ up.mgmt.lost ∧ Lan.b ∈ ({ up.mgmt with lost := [.b] } : Mgmt).lost := by
  decide

theorem witness_smbusCompletes : up.raised = [] ∧ up.start.powered = true ∧ (∀ c < 8, (up.cred c).fingerprint = none) ∧
    up.monotonicFull = false ∧ (∃ c, c < 8 ∧ (managed.cred c).fingerprint ≠ none) ∧
    ({ up.start with powered := false } : Start).powered = false :=
  ⟨rfl, rfl, by decide +kernel, by decide +kernel, ⟨0, by decide +kernel⟩, rfl⟩

/-- A LOP message of a type. -/
def lop (type : Nat) (payload : Bytes) : Bytes :=
  toLe 16 (1 + (type <<< 8) + (9 <<< 32) + (payload.length <<< 64)) ++ payload

theorem witness_managementRequestsComplete :
    ∀ m ∈ [(1, lop 1 (toLe 8 0x1000)), (2, lop 2 []), (8, lop 8 []), (5, lop 5 (toLe 4 0)),
      (6, lop 6 (toLe 4 2 ++ List.replicate 32 3))],
    Asked (on managed) 1 m.1 m.2 { cred := 0, lastRecord := 0 } ∧ managed.hasRight 0 0 = true ∧ managed.hasRight 0 5 = true := by
  intro m hm
  simp only [List.mem_cons, List.not_mem_nil, or_false] at hm
  rcases hm with rfl | rfl | rfl | rfl | rfl <;>
    exact ⟨⟨rfl, by decide +kernel, by decide +kernel, by decide +kernel, by decide +kernel, by decide +kernel,
      Or.inr (Or.inr (by decide +kernel))⟩, by decide +kernel, by decide +kernel⟩

theorem witness_managementActionsComplete : ∀ a ∈ [1, 2, 3, 4],
    Asked (on { managed with jobs := [(0, job)] }) 1 3 (lop 3 (toLe 8 (a <<< 8))) { cred := 0, lastRecord := 0 } ∧
    managed.hasRight 0 1 = true ∧ (lop 3 (toLe 8 (a <<< 8))).length = 24 ∧ (managed.part 0).created = true ∧
    field (leAt ((lop 3 (toLe 8 (a <<< 8))).drop 16) 0 8) 11 8 = a := by
  intro a ha
  simp only [List.mem_cons, List.not_mem_nil, or_false] at ha
  rcases ha with rfl | rfl | rfl | rfl <;>
    exact ⟨⟨rfl, by decide +kernel, by decide +kernel, by decide +kernel, by decide +kernel, by decide +kernel,
      Or.inr (Or.inr (by decide +kernel))⟩, by decide +kernel, by decide +kernel, by decide +kernel, by decide +kernel⟩

theorem witness_inspectionsComplete : ∀ op ∈ [1, 2, 3, 4, 5, 6, 7],
    Asked (on managed) 1 7 (lop 7 (toLe 16 (op + (1 <<< 16) + (1 <<< 96)))) { cred := 0, lastRecord := 0 } ∧
    managed.hasRight 0 3 = true ∧ (lop 7 (toLe 16 (op + (1 <<< 16) + (1 <<< 96)))).length = 32 ∧ managed.repairs = [] := by
  intro a ha
  simp only [List.mem_cons, List.not_mem_nil, or_false] at ha
  rcases ha with rfl | rfl | rfl | rfl | rfl | rfl | rfl <;>
    exact ⟨⟨rfl, by decide +kernel, by decide +kernel, by decide +kernel, by decide +kernel, by decide +kernel,
      Or.inr (Or.inr (by decide +kernel))⟩, by decide +kernel, by decide +kernel, by decide +kernel⟩

/-! ### Causes and the safe state -/

theorem witness_causesEnterSafe : up.raised = [] ∧ (up.region 0).outOfService = false ∧ (up.region 0).linksFailed = [] ∧
    (up.region 0).pair0Fenced = false ∧ 100 ∉ up.support.pairs ∧ 101 ∉ up.support.pairs ∧ up.ready = true ∧
    (∃ x v, atTrip (Sensor.sub x) v 0 = true ∧ atShutdown (Sensor.sub x) v = false) :=
  ⟨rfl, rfl, rfl, rfl, by decide, by decide, rfl, .ioDie, 10500, by decide +kernel⟩

/-- The module with a control pair that mismatched. -/
def mismatched (n : Nat) : Dev :=
  { up with regions := [(0, { takeover := true })], support := { pairs := [n], clocks := [.region 0] } }

theorem witness_causesClear : (∀ c ∈ [0, 1, 2, 3, 4, 5, 7, 8], up.mayClearCause c = true) ∧
    ((mismatched 0).region 0).takeover = true ∧ (mismatched 0).support.pairs = [0] ∧
    (mismatched 101).support.pairs = [if true then 101 else 100] ∧ up.fullManagement = true ∧ up.hasRight 0 4 = true ∧
    (on up).safety.causes = 0 := by decide +kernel

theorem witness_regionsAreLost : (up.region 0).outOfService = false ∧ (0 : Fin 2) ≠ 1 ∧
    (({ linksFailed := [0] } : Region).linksFailed = [((0 : Fin 2) : Nat)]) ∧
    (mismatched 0).support.clocks = [.region 0] := by decide +kernel

theorem witness_unitsReport : up.cellUp 383 = true ∧ up.engineUp (11 * 16 + 15) = true ∧
    (({ sorter := { job := some (0, 0) } } : Region).sorter.job.isSome = true) := by decide +kernel

/-! ### Objects, tests and resets -/

theorem witness_objectWritesComplete :
    (indexExists 0x2000 = true ∧ inPartArea 0x2000 = false ∧ isAlias 0x2000 4 = false ∧
      managed.mayWrite (.cred 0) false 0x2000 4 = true ∧ ∃ i, objInfo 0x2000 4 = some i ∧ i.acc ≠ .ro ∧ i.ty ≠ .str ∧
        i.ty ≠ .blob ∧ i.kind = .notCounter ∧
        i.wellTyped { idx := 0x2000, sub := 4, type := i.ty.code, status := 0, value := [1, 0] } = true ∧
        (on managed).permits false 0x2000 4 1 [1, 0] = true) ∧
    (managed.absent 0x3030 1 = false ∧ ∃ i, objInfo 0x3030 1 = some i ∧ i.acc = .ro) ∧
    managed.mayWrite (.host 0) false 0x2000 4 = false ∧ indexExists 0x0FFF = false ∧
    ∀ n ∈ [0, 31], managed.mayWrite (.cred 0) false (0x7100 + n) 2 = true :=
  ⟨⟨by decide, by decide, by decide, by decide, _, rfl, by decide, by decide, by decide, by decide, by decide, by decide⟩,
    ⟨by decide, _, rfl, by decide⟩, by decide, by decide, by decide⟩

theorem witness_storeAndFirmwareComplete : managed.storeBusy = false ∧ managed.boundedReads = false ∧ managed.stratus.state ≠ 2 ∧
    (∀ b, managed.storeExhausted b = false) ∧ (∀ sub ∈ [0x01, 0x15, 0x16], managed.mayWrite (.cred 0) false 0x1100 sub = true) ∧
    managed.backup.alarmPending = false ∧ managed.monotonicFull = false ∧
    ({ managed.start with install := 1 } : Start).received.length = leAt (toLe 8 0) 0 8 ∧
    ({ managed.store with writing := some (managed.snapshot 1 1) } : ConfigStore).writing.isSome = true ∧ managed.store.inForce = 0 := by
  decide +kernel

theorem witness_commandObjectsComplete :
    (∀ k ∈ [(0x2000, 8), (0x6003, 1), (0x8000, 1), (0x8000, 8), (0x5002, 1), (0x9001, 3)],
      managed.mayWrite (.cred 0) false k.1 k.2 = true) ∧
    (managed.setConf 0x2000 2 2).source = 2 ∧ (managed.pin 7).changing = none ∧ (managed.pin 7).function ≠ 7 ∧
    (managed.setConf 0x8000 8 6).pinFeeds 7 = false ∧ 6 ≠ managed.confAt 0x8000 8 ∧
    (∀ n ∈ [750, 1500], n % 25 = 0) ∧ managed.backup.meshBroken = false ∧ managed.start.status ≠ 3 ∧
    (∃ i, objInfo 0x7010 12 = some i ∧ i.kind = .event ∧ i.acc ≠ .wo ∧ i.ty ≠ .str ∧ i.ty ≠ .blob) ∧
    managed.mayClear (.cred 0) 0x7010 = true ∧ managed.mayRead (.cred 0) 0x7010 = true :=
  ⟨by decide, by decide, by decide, by decide, by decide, by decide, by decide, by decide, by decide,
    ⟨_, rfl, by decide, by decide, by decide, by decide⟩, by decide, by decide⟩

/-- The module whose partition 0 may hold no cell. -/
def quotas : Dev := { managed with force := (objKey (partIndex 0 0x01) 1, 0) :: managed.force }

theorem witness_unitCommandsComplete :
    (∀ p : Fin 16, managed.mayWrite (.cred 0) false (partIndex p 0) 1 = true) ∧ managed.pconf 15 0 1 = 0 ∧
    (managed.part 15).created = false ∧ managed.partHolds 0 = false ∧ (managed.part 0).tdi = .unlocked ∧
    (∀ u ∈ [0, 0x7750], unitLegal u = true ∧ u &&& 0x7773 = u ∧ field u 3 2 = 0 ∧ bit u 7 = false ∧ bit u 11 = false) ∧
    managed.mgmtTest = 0 ∧ managed.start.orderly = none ∧
    (∀ k ∈ [(0x5010, 1), (0x5021, 1), (0x6000, 4), (0x1100, 0x10)], managed.mayWrite (.cred 0) false k.1 k.2 = true) ∧
    Arrived (asks (pkt 0x31 0x7750) quotas) 0 1 0x31 (pkt 0x31 0x7750) ∧ managed.hostMayTest 0 0x7750 = true ∧
    quotas.hostMayTest 0 0x7750 = false := by
  unfold Arrived; decide +kernel

/-- The module with a test of cell 0 in region 0, and the region draining. -/
def testing (running : Bool) : Dev :=
  { up with
    tick := { up.tick with commitDone := true }
    regions := [(0, { tests := [{ unit := 0, origin := 1, loaded := true, running := running }], draining := true })] }

theorem witness_testsAndRemovalsComplete : (∀ b, ∃ t, ((testing b).region 0).tests = [t] ∧ t.running = b ∧ t.loaded = true ∧
      unitKind t.unit ≠ 2 ∧ unitRegion t.unit = 0) ∧
    (testing false).unitFree 0 = true ∧ ((testing false).region 0).draining = true ∧ (testing false).tick.commitDone = true ∧
    up.tick.commitDone = false ∧ (up.region 0).draining = false :=
  ⟨fun _ => ⟨_, rfl, rfl, rfl, show unitKind 0 ≠ 2 by decide, show unitRegion 0 = 0 by decide⟩, by decide +kernel, rfl, rfl, rfl, rfl⟩

/-- The module with region 0 draining after the commit window and an object of 128 B in it. -/
def emptying : Dev := { testing false with objects := [(1, { part := 0, stratus := false, stack := 1, base := 0, total := 128 })] }

theorem witness_testsAndRemovalsComplete_moved : (emptying.region 0).draining = true ∧ emptying.tick.commitDone = true ∧
    emptying.jobs = [] ∧ emptying.images = [] ∧ emptying.transfers = [] ∧ (∀ x ∈ emptying.parts, x.2.boxes = none) ∧
    (∀ x ∈ emptying.regions, x.2.wcb = []) ∧ ceilDiv 128 128 = 1 ∧
    ∃ k, emptying.roomiest (emptying.usableStacks 0) = some k ∧ 1 ≤ emptying.stackFree k ∧
      (emptying.takeStack k 1 1 0 0).isSome = true :=
  ⟨by decide, by decide, by decide, by decide, by decide, by decide, by decide, by decide, 2, by decide +kernel⟩

/-! ### Time and ticks -/

theorem witness_timeSourcesComplete :
    (∀ n ∈ [2, 3], (up.setConf 0x2000 2 n).source = n) ∧ (up.setConf 0x2000 2 2).feeds = true ∧
    (up.setConf 0x2000 2 2).timingPin = 0 ∧ up.source = 1 ∧ (up.setConf 0x2000 2 0).source = 0 ∧
    ({ up.setConf 0x2000 2 3 with time := { up.time with pendingSecond := some (5, 0) } }.time.pendingSecond = some (5, 0)) ∧
    up.time.gridOrigin = none ∧ up.time.taiValid = false ∧ up.time.mode ≠ .holdover ∧ up.time.mode ≠ .freeRun ∧
    up.time.masterA = none ∧ up.forceAt 0x2000 7 = 0 ∧ up.tai = none ∧
    ({ up with time := { up.time with mode := .holdover } } : Dev).time.mode = .holdover ∧
    ({ up with time := { up.time with taiValid := true } } : Dev).tai = some 0 ∧
    (∀ l : Lan, ({ up.time with masterA := (match l with | .a => some ⟨1, 1, 1, 1, 1, 1, 0⟩ | .b => none)
                                masterB := (match l with | .a => none | .b => some ⟨1, 1, 1, 1, 1, 1, 0⟩) } : TimeSync).ports.slave
      = some l) := by
  refine ⟨by decide, by decide, by decide, by decide, by decide, rfl, rfl, rfl, by decide, by decide, rfl, by decide, by decide,
    rfl, by decide, fun l => ?_⟩
  cases l <;> decide

theorem witness_ticksComplete : up.ready = true ∧ ({} : Dev).ready = false ∧ up.tick.periodWritten = none ∧
    up.tick.started = false ∧ ({ up.tick with started := true } : TickUnit).commitDone = false ∧ up.tick.lossDeclared = false ∧
    (up.part 0).created = true ∧ (up.part 1).created = false := by decide

/-! ### Units at work -/

/-- A round of job 0 with one tile of operator 0 left in region 0 and one slice in stack 1. -/
def round : Round :=
  { number := 1, due := 1, phase := .observed, step := 0, obsSteps := 1
    insts := [{ op := 0, state := .running, kind := .cells, ranges := [{ region := 0, next := 0, last := 1 }] },
      { op := 0, state := .running, kind := .cirrus, slices := [{ item := 0, stack := 1, engine := 0, cost := 9 }] }] }

/-- A guaranteed job in that round, with cell 0 and a window of stack 1 granted. -/
def rounding : Job :=
  { admitted with
    batch := { guaranteed := true, o := 1, fMax := 1, forkBudget := 0, cReq := 1, rounds := 1, seed := 0 }
    grant := { cells := [0], windows := [{ stack := 1, length := 1000 }] }, round := some round }

/-- A tile in a cell, or an operation in an engine. -/
def held : Held :=
  { job := 0, round := 1, op := 0, item := 0, role := .original, cost := 100, start := 0, charged := false, since := 0 }

/-- The module in that round, with cell 2, an engine and a sorter at work and a pattern on cell 1. -/
def busy : Dev :=
  { running rounding with
    cells := [(1, { pattern := true }), (2, { held := some held })], engines := [(17, { held := some held })]
    regions := [(0, { sorter := { job := some (0, 0) } })] }

theorem witness_computeWorkCompletes :
    (busy.cellUp 0 = true ∧ ((busy.cell 0).pattern && !(busy.cell 0).idlePattern) = false ∧ (busy.cell 0).held = none ∧
      busy.checkFor 0 = none ∧ ∃ j r, busy.ownerOf 0 = some (j, r) ∧ (r.tileFor 0).isSome = true) ∧
    (busy.cell 1).pattern = true ∧ (busy.cell 1).idlePattern = false ∧ (busy.cell 2).held = some held ∧ held.wants = [] ∧
    (busy.engine 17).held = some held ∧ (busy.engine 0).held = none ∧ (busy.region 0).sorter.job = some (0, 0) ∧
    (busy.region 1).sorter.job = none ∧ (busy.stack 1).window = none ∧ (busy.stack 1).outOfService = false ∧
    busy.overrun 1 = none ∧
    ((busy.workingJobs true).find? (fun y => decide (busy.overrun 1 ≠ some y.1.id) &&
      y.1.grant.windows.any (fun w => w.stack == 1) && y.2.needsStack 1)).isSome = true :=
  ⟨⟨by decide +kernel, by decide, by decide, by decide +kernel, rounding, round, by decide +kernel, by decide⟩, by decide +kernel⟩

/-- What a unit meets that completes without an error. -/
def clean : UnitObs := { lines := [], wrong := [] }

theorem witness_computeWorkCompletes_done :
    ((on busy).tileHalt held clean).isNone = true ∧ ((on busy).sliceHalt held clean).isNone = true ∧
    busy.round? 0 = some (rounding, round) ∧ round.number = held.round ∧ round.doomed rounding.batch = false ∧
    (∃ x ∈ round.insts, x.op = held.op ∧ x.runs .cells = true) ∧ held.role = .original ∧
    (∀ y ∈ round.insts, ∀ v ∈ y.votes, v.item ≠ held.item) ∧
    (∃ x, round.insts.find? (fun y => y.op == held.op && y.runs .cirrus) = some x ∧ ∃ sl ∈ x.slices, sl.item = held.item) :=
  ⟨by decide +kernel, by decide +kernel, by decide +kernel, rfl, by decide, by decide, rfl, by decide,
    ⟨_, rfl, by decide⟩⟩

/-- The round with a vote on tile 0 that waits for its duplicate. -/
def voting : Dev :=
  running { rounding with round := some { round with
    insts := [{ op := 0, state := .running, kind := .cells, votes := [{ item := 0, orig := 9 }] }] } }

/-- The same round of a best-effort job. -/
def offering : Dev := running { rounding with batch := { rounding.batch with guaranteed := false }, grant := {} }

theorem witness_computeWorkCompletes_claims :
    (∃ y, voting.checkFor 0 = some y ∧ y.2.2.2.1.item = 0) ∧
    (offering.checkFor 0 = none ∧ offering.ownerOf 0 = none ∧
      ∃ b, offering.offered 0 (((on offering).cellJobs 0).map Prod.fst) = some b ∧
        ∃ y, ((on offering).cellJobs 0).find? (fun y => y.1.id == b.id) = some y ∧ (y.2.tileFor 0).isSome = true) ∧
    (up.checkFor 0 = none ∧ up.ownerOf 0 = none ∧ (on up).cellJobs 0 = []) :=
  ⟨⟨_, rfl, rfl⟩, ⟨by decide +kernel, by decide +kernel, _, rfl, _, rfl, by decide⟩, by decide +kernel⟩

/-- A program of one tensor of 32 elements, which a DOUBLE operator on cells and one on engines read. -/
def small : Program :=
  { prog with
    tensors := [{ Tensor.ofNat 0 with cls := 1, rank := 1, d0 := 32, pitch := 128 }]
    ops := [{ OpDesc.ofNat 0 with cls := 5, double := true, srcA := 0 }, { OpDesc.ofNat 0 with srcA := 0, m := 1, k := 1, n := 1 }] }

/-- The guaranteed round of that program, whose tensor is in stack 0: a tile runs on cell 0 and one more is left. -/
def doubling : Dev :=
  { running { rounding with
      prog := small, homes := [some { space := .stack 0, base := 0, bufBytes := 128 }]
      round := some { round with insts :=
        [{ op := 0, state := .running, kind := .cells, ranges := [{ region := 0, next := 1, last := 2 }] },
          { op := 1, state := .running, kind := .cirrus, slices := [{ item := 0, stack := 0, engine := 0, cost := 9 }] }] } } with
    cells := [(0, { held := some held })], engines := [(0, { held := some { held with op := 1 } })] }

theorem witness_computeWorkCompletes_ahead : doubling.cellUp 0 = true ∧ (doubling.cell 0).held = some held ∧
    (doubling.cell 0).ahead = none ∧ doubling.checkFor 0 = none ∧ ∃ j r, doubling.round? 0 = some (j, r) ∧
    doubling.ownerOf 0 = some (j, r) ∧ j.batch.guaranteed = true ∧ (j.prog.op 0).double = true ∧ r.number = held.round ∧
    r.working j.batch = true ∧ (r.tileFor 0).isSome = true :=
  ⟨by decide +kernel, by decide, by decide, by decide +kernel, _, _, rfl, by decide +kernel, by decide, by decide, by decide, by decide,
    by decide⟩

/-- The same while every line of the tensor waits for its channel to retrain. -/
def halting : Dev := { doubling with stackTab := [(0, { retraining := [(0, 0)] })] }

theorem witness_computeWorkCompletes_halts : (on halting).tileHalt held clean = some .laneRetrain ∧
    (on halting).sliceHalt { held with op := 1 } clean = some .laneRetrain ∧ halting.retrains (stackLine 0 0) = true := by
  decide +kernel

/-- The round with a pass of its sort on sorter 0. -/
def passing : Dev :=
  { running { rounding with round := some { round with insts := [{ op := 0, state := .running, kind := .sorter }] } } with
    regions := [(0, { sorter := { job := some (0, 0) } })] }

/-- The round with its steps over. -/
def lastStep : Round := { round with phase := .imagined, insts := [] }

/-- The job whose round has only to end. -/
def ending : Dev := { up with jobs := [(0, { admitted with round := some lastStep })] }

theorem witness_computeWorkCompletes_ends :
    ((passing.region 0).sorter.job = some (0, 0) ∧ ∃ j r, passing.round? 0 = some (j, r) ∧
      ∃ x ∈ r.insts, x.op = 0 ∧ x.runs .sorter = true) ∧
    (∃ y, ({ busy with stackTab := [(1, { window := some 0 })] } : Dev).stack 1 = y ∧ y.window.isSome = true) ∧
    ({ busy with stackTab := [(1, { window := some 0 })] } : Dev).overrun 1 = none ∧
    ({ busy with now := 5000, stackTab := [(1, { window := some 0 })] } : Dev).overrun 1 = some 0 ∧
    (∀ q, (ending.part q).flareBuffer = [] ∧ (ending.part q).overflowMark = false) ∧
    ending.jobs = [(admitted.id, { admitted with round := some lastStep })] ∧ admitted.state ≠ .ended ∧
    lastStep.working admitted.batch = true ∧ ending.copyWaits { admitted with round := some lastStep } = false ∧ lastStep.inStep = false ∧
    lastStep.phase = .imagined ∧ admitted.prog.hdr.s ≤ lastStep.step ∧ (∀ g ∈ ending.regions, g.2.wcb = []) ∧
    ending.closers { admitted with round := some lastStep } lastStep = [] :=
  ⟨⟨rfl, _, _, rfl, by decide⟩, ⟨_, rfl, by decide⟩, by decide +kernel, by decide +kernel, witness_idleStepLetsTimePass.2.2.1, rfl,
    by decide, by decide, by decide, rfl, rfl, by decide, by decide, by decide +kernel⟩

/-- The module with image 1 in stack 0, a read-only line of it to repair, a lane in retraining and a combined line. -/
def mending : Dev :=
  { holding { placedImage with slices := [[{ stack := 0, la := 0, lines := 1, col0 := 0, cols := 1 }]] } with
    stackAlloc := [(0, [{ base := 0, size := 6, part := 0 }])], repairs := [(0, 0)], stackTab := [(0, { retraining := [(3, 0)] }), (1, { outOfService := true })]
    regions := [(0, { wcb := [{ line := 5, cells := [], jobs := [0], born := 0 }] })] }

theorem witness_stackEventsComplete :
    (mending.stack 0).outOfService = false ∧ (mending.stack 0).fenced.contains 4 = false ∧
    tget (mending.stack 0).retraining 4 = none ∧ tget (mending.stack 0).retraining 3 = some 0 ∧
    (∀ f ∈ [[], [0, 73], [72, 73]], (f.filter (fun l => decide (l < 72))).length + (f.filter (fun l => decide (72 ≤ l))).length ≤ 2) ∧
    (mending.stack 1).outOfService = true ∧ 5 < mending.stackCap 0 ∧ mending.stackCap 0 ≤ stackLines ∧
    (({} : Mem).sideOf (stackLine 0 5)).ro = false ∧ mending.tableLine 0 5 = none ∧
    (({ runs := [{ first := stackLine 0 5, count := 1, ro := true, part := 0 }] } : Mem).sideOf (stackLine 0 5)).ro = true ∧
    (mending.region 0).wcb[0]?.isSome = true ∧ (mending.region 0).wcb[1]? = none ∧
    (mending.repairsOf 0).contains (0, 0) = true ∧ ({ mending with repairs := [] }.sliceAt 0 0).isSome = true ∧
    ({ mending with repairs := [] }.badRange 0 1) = false := by decide +kernel

theorem witness_stackEventsComplete_scrubbed :
    (∀ x : LineError, x.stack = 0 → x.la = 5 → x.lane = 0 → (({} : Dev).stack x.stack).laneHits = []) ∧
    (∃ w, (mending.region 0).wcb[0]? = some w ∧ mending.retrains w.line = false ∧
      ({ mending with stackTab := [(0, { retraining := [(5, 0)] })] } : Dev).retrains w.line = true) :=
  ⟨fun x h _ _ => by rw [h]; rfl, _, rfl, by decide +kernel, by decide +kernel⟩

/-- The module with cell 0 and engine 191 fenced, no margin shown. -/
def fencedUnits : Dev :=
  { up with cells := [(0, { fenced := true, pattern := true })], engines := [(191, { fenced := true, pattern := true })] }

theorem witness_patternsComplete : ∀ c ∈ [0, 384 + 191], up.fullManagement = true ∧ up.patternFree c = true ∧
    up.patternOn c = false ∧ up.heldByRound c = false ∧ (up.startPattern c).patternOn c = true ∧
    fencedUnits.patternOn c = true ∧ (fencedUnits.unitOf c).fenced = true ∧ (fencedUnits.unitOf c).margin = false ∧
    up.support.patternFails = [] := by decide +kernel

/-! ### Stratus -/

/-- The module with a placement, a spill of page 0 and an eviction of stream 0 under way. -/
def moving : Dev :=
  { (waits (pkt 1 3 1) (.placed 1) (streaming { stream with loc := .evicting })).dev with
    pageFrames := [(0, { ref := 1, state := .spilling, lines := 1 })], transfers := [.spill 0 0, .evict 0 [] 0] }

/-- The module with a recall of stream 0 under way, a reset being its next step. -/
def recalling : Dev :=
  { streaming { stream with loc := .recalling, reset := true } with transfers := [.recall 0 [(0, 0, 0)]] }

theorem witness_transfersComplete :
    (up.placing 1 = false ∧ moving.placing 1 = true ∧ ∃ im, tget moving.images 1 = some im ∧ im.number = 1 ∧
      moving.badRange im.loc im.units = false ∧
      (({ moving with stratus := { moving.stratus with badUnits := [im.loc] } } : Dev).badRange im.loc im.units = true ∧
        moving.stratus.mounted = true) ∧
      ∀ j ∈ ({ moving with jobs := [] } : Dev).liveJobs, j.imageNo ≠ 1) ∧
    (moving.spillLoc 1 = none ∧ moving.spillLoc 0 = some 0 ∧ (moving.frame 0).ref ≠ 0 ∧ moving.stratus.state ≠ 2 ∧
      moving.boundedReads = false ∧ ({} : Mem).rangePoisoned (stackAddr 0 0) 128 = false) ∧
    (moving.evictOf 0 = some ([], 0) ∧ (∃ x, moving.stream? 0 = some x ∧ x.loc = .evicting ∧ moving.chunkWaits x = false) ∧
      moving.stratus.spareHeld = false ∧ ({ up.stratus with readOnly := true } : Stratus).state = 2) ∧
    (recalling.recallTo 0 = some [(0, 0, 0)] ∧ up.recallTo 0 = none ∧
      (∃ x, recalling.stream? 0 = some x ∧ recalling.resetNext x = true) ∧
      recalling.badRange (recalling.obj 0).addr (lineUnits (recalling.obj 0).lines) = false) :=
  ⟨⟨by decide, by decide, _, rfl, rfl, by decide, by decide, by decide⟩, by decide +kernel,
    ⟨by decide, ⟨_, rfl, rfl, by decide⟩, by decide, by decide⟩, ⟨by decide, by decide, ⟨_, rfl, by decide⟩, by decide⟩⟩

/-- The module with die 0 short of erased blocks and one block worn, die 1 fenced and die 2 in rebuilding. -/
def worn : Dev :=
  { up with stratus := { up.stratus with
      dies := [(0, { freeErased := 9 }), (1, { fenced := true }), (2, { fenced := true, rebuilding := true })]
      blocks := [(7, { erases := 201, programmed := true, valid := 3 }), (8, { retired := true }), (9, { reads := 50000 })] } }

theorem witness_tierUpkeepCompletes : (worn.die 0).fenced = false ∧ (worn.die 0).freeErased < 10 ∧ worn.boundedReads = false ∧
    (worn.die 1).fenced = true ∧ (worn.die 2).rebuilding = true ∧ (worn.die 3).rebuilding = false ∧
    10 ≤ (worn.die 3).freeErased ∧ (tgetD worn.stratus.blocks 8 {}).retired = true ∧
    (worn.block 0 7).retired = false ∧ (worn.block 0 7).programmed = true ∧ 50000 ≤ (worn.block 0 9).reads ∧
    (worn.block 0 7).reads < 50000 ∧
    (tgetD worn.stratus.blocks 0 {}).erases + 200 < (tgetD worn.stratus.blocks 7 {}).erases ∧ worn.stratus.mounted = true ∧
    ({} : Dev).stratus.mounted = false ∧ worn.start.powered = true := by decide +kernel

theorem witness_flashReadsAndWritesComplete :
    (∃ t, ({ up with regions := [(0, { tests := [{ unit := 0, origin := 1 }] })] }.region 0).tests = [t] ∧ t.running = false ∧
      t.loaded = false) ∧
    (((waits (pkt 0x24 0 1) (.restoring false) (storing true)).dev.wait? 0 1).isSome = true ∧
      (∃ o, (storing true).object? 0 1 = some o ∧ (storing true).badRange o.base (ceilDiv o.total 4096) = false)) ∧
    up.liveJob 0 = none ∧
    (∀ k ∈ [writePkt, pkt 1 2 1 [7]], ((waits k .durable (holding image)).dev.wait? 0 1).isSome = true ∧ k.posted = false) ∧
    up.boundedReads = false ∧ up.stratus.spareHeld = false ∧ (holding image).imageOf 1 = some image :=
  ⟨⟨_, rfl, rfl, rfl⟩, ⟨by decide, _, rfl, by decide⟩, by decide, by decide, by decide, by decide, by decide⟩

/-! ### Starts, pins and ageing -/

/-- A start under way. -/
def starting (kind : Nat) (done failed : Bool) : Dev :=
  { start := { status := 0, kind := kind, stepsDone := done, failed := failed, powered := true } }

theorem witness_startsComplete :
    startFailsAt (found false true) = some 3 ∧ startFailsAt (found true false) = some 2 ∧ startFailsAt (found true true) = none ∧
    up.mayPower = true ∧ ({ start := { thermalOff := true }, power := { sensors := [(Sensor.sub .ioDie, 12000)] } } : Dev).mayPower = false ∧
    up.start.waitInput = false ∧ up.start.orderly = none ∧ ({ up.start with orderly := some (1, 0) } : Start).orderly.isSome = true ∧
    (∀ k ∈ [0, 1], ((starting k false false).start.status = 0 ∧ (starting k false false).start.firstBoot = false ∧
      (starting k true false).start.stepsDone = true ∧ (starting k false true).start.failed = true)) ∧
    up.backup.alarmPending = false ∧ PatternUnit.cell 0 ∉ (found true true).patternFails ∧
    up.ageing.verified (found true true).planVerifies = none ∧ up.store.chosen (found true true).configVerifies = none := by
  decide +kernel

/-- The module with SKY pin 0 the safe-state input, pin 1 in a change and pin 2 a safe-state input that is low. -/
def pinned : Dev :=
  { up with
    pins := [(0, { function := 7 }), (1, { changing := some (7, 0) }), (2, { function := 7 })]
    support := { up.support with pinsLow := [2] } }

theorem witness_backupAndPinsComplete : (pinned.pin 0).function = 7 ∧ (pinned.pin 0).changing = none ∧ 0 ∉ pinned.support.pinsLow ∧
    2 ∈ pinned.support.pinsLow ∧ (pinned.pin 2).function = 7 ∧ (pinned.pin 1).changing = some (7, 0) ∧
    (pinned.pin 1).queued = [] ∧ (pinned.pin 3).function ≠ 7 ∧ 1600 ≤ up.ageing.throttle ∧
    ({ up.ageing with throttle := 800 } : Ageing).throttle < 1600 ∧ up.coolBy 300 = true ∧
    up.start.powered = true ∧ up.backup.clockStopped = false ∧ ({ up.start with powered := false } : Start).powered = false ∧
    ({ up.backup with clockStopped := true } : Backup).clockStopped = true := by decide +kernel

theorem witness_ageingComplete : (up.port 0).linkUp = true ∧ (up.port 1).linkUp = false ∧ up.start.replanDue = none ∧
    ({ up.start with replanDue := some 0 } : Start).replanDue.isSome = true ∧ up.ageing.state = 0 ∧
    ({ up.ageing with state := 1 } : Ageing).state = 1 ∧ up.cellUp 5 = true ∧ delayOk 100000 up.ageing.planned = false ∧
    (up.region 0).oscAtReplan + 50 ≤ (List.replicate 18 50).getD 0 0 := by decide +kernel

theorem witness_portsTurnAway :
    (up.mayFetch 0 false = false ∧ ringing.mayFetch 0 false = true ∧
      (!lenLegal false (leAt nopBytes 24 4) || nopBytes.length != 64 + leAt nopBytes 24 4) = false ∧
      packetCrcOk (List.replicate 64 1) = false ∧ packetCrcOk nopBytes = true ∧
      (ringing.setPart 0 { ringing.part 0 with inbox := [{ pkt 0 with len := 2 ^ 40 }] }).inboxFree 0 false < nopBytes.length ∧
      leAt nopBytes 24 4 ≤ ringLimit false ∧ ringLimit false < leAt (List.replicate 64 1) 24 4) ∧
    up.reach 15 = false ∧ up.reach 0 = true ∧ ∀ t, (guarded t).reach 1 = true ∧ ((guarded t).part 1).tdi = t ∧
      ((guarded t).port 0).linkUp = true ∧ (up.port 1).linkUp = false ∧ linkLegal 100 16 = false :=
  ⟨by decide +kernel, by decide, by decide, fun t => by cases t <;> decide +kernel⟩

end Sys2Proof.Tests
end

section
/-!
Vectors and NOP. What raising a vector leaves of a function that may write (R339), which operations of a ring
raise one, and the completion of NOP (R364).
-/

namespace Sys2Proof.Machine

open Sys2Proof.Safety

/-! ### A vector raised (R339) -/

/-- The function masters the bus outside TDI state ERROR with vector `v` unmasked: raising `v` counts it at once. -/
structure Part.Signals (x : Part) (v : Nat) : Prop where
  master : x.busMaster = true
  calm : x.tdi ≠ .error
  unmasked : (tgetD x.msix v {}).masked = false

/-- A function that is reached and signals any vector masters the bus. -/
theorem Part.Signals.masters {d : Dev} {p v : Nat} (h : (d.part p).Signals v) (hr : d.reach p = true) :
    d.masters p = true := by
  simp [Dev.masters, hr, h.master, h.calm]

/-- Signalling is read from the core of a partition, which a stop action keeps. -/
theorem Part.Signals.of_core {x y : Part} {v : Nat} (h : x.Signals v) (e : y.core = x.core) : y.Signals v where
  master := (congrArg Part.busMaster e :).trans h.master
  calm := fun herr => h.calm ((congrArg Part.tdi e :).symm.trans herr)
  unmasked := by
    have hm : y.msix = x.msix := (congrArg Part.msix e :)
    rw [hm, h.unmasked]

theorem Dev.vector_of_signals {d : Dev} {p v : Nat} {x : Part} (hx : d.part p = x) (h : x.Signals v) :
    (d.vector p v).part p = { x with vectors := modifyNth x.vectors v (· + 1) } := by
  subst hx
  rw [Dev.vector, Dev.part_modPart_same]
  simp [h.calm, h.master, h.unmasked]

/-! ### Vector 0: responses and RSP_HOLDOFF -/

/-- No vector 0 lies within RSP_HOLDOFF before `now`. -/
def Part.holdoffOver (x : Part) (now : Tns) : Prop :=
  ∀ t, x.lastVector0 = some t → t + x.holdoff * 1000 ≤ now

theorem Dev.raiseRsp_due {d : Dev} {p : Nat} {x : Part} (hx : d.part p = x) (h : x.Signals 0)
    (hd : x.holdoffOver d.now) :
    (d.raiseRsp p).part p =
      { x with vectors := modifyNth x.vectors 0 (· + 1), lastVector0 := some d.now, heldVector0 := false } := by
  subst hx
  have hv := Dev.vector_of_signals rfl h
  cases hl : (d.part p).lastVector0 with
  | none => simp [Dev.raiseRsp, hl, hv]
  | some t => simp [Dev.raiseRsp, hl, hd t hl, hv]

theorem Dev.raiseRsp_held {d : Dev} {p : Nat} {x : Part} {t : Tns} (hx : d.part p = x) (ht : x.lastVector0 = some t)
    (hn : d.now < t + x.holdoff * 1000) :
    (d.raiseRsp p).part p = { x with heldVector0 := true } := by
  subst hx
  have early : ¬ t + (d.part p).holdoff * 1000 ≤ d.now := Nat.not_le.mpr hn
  simp [Dev.raiseRsp, ht, early]

/-- Copies of a header to inspecting sessions take no time. -/
theorem Dev.copyHeader_now (d : Dev) (p : Nat) (h : Bytes) : (d.copyHeader p h).now = d.now := by
  unfold Dev.copyHeader
  refine List.foldlRecOn (motive := fun a : Dev => a.now = d.now) _ _ rfl (fun a ha y _ => ?_)
  split
  · split <;> exact ha
  · exact ha

/-- The partition once the first response of its outbox, `r` before `rest`, stands in the ring. -/
def Part.responded (x : Part) (r : Response) (rest : List Response) : Part :=
  { x with
    outbox := rest
    rsp := { x.rsp with tail := (x.rsp.tail + r.units) % 2 ^ 32 }
    rspWritten := x.rspWritten ++ [r]
    flights := if r.freesTag then x.flights.filter (fun f => f.tag != r.tag) else x.flights }

/-- A response that fits and releases no object is written, and then vector 0 follows its rule. -/
theorem Dev.responseWrite_fits {d : Dev} {p : Nat} {x : Part} {r : Response} {rest : List Response} (hx : d.part p = x)
    (hm : d.masters p = true) (ho : x.outbox = r :: rest) (he : x.rsp.enable = true) (hr : r.release = none)
    (hf : ahead x.rsp.tail x.rspHead + r.units ≤ x.rsp.capacity 32) :
    ∃ d1 : Dev, d1.now = d.now ∧ d1.part p = x.responded r rest ∧ d.responseWrite p = (d1.raiseRsp p).eff := by
  subst hx
  have fits : (!d.masters p || !(d.part p).rsp.enable ||
      decide ((d.part p).rsp.capacity 32 < ahead (d.part p).rsp.tail (d.part p).rspHead + r.units)) = false := by
    simp [hm, he, hf]
  refine ⟨(d.modPart p (fun y => y.responded r rest)).copyHeader p (r.bytes.take 32), Dev.copyHeader_now .., ?_, ?_⟩
  · rw [copyHeader_part, Dev.part_modPart_same]
  · simp [Dev.responseWrite, ho, fits, hr, Part.responded]

/-- RESPONSE_WRITE raises vector 0 once RSP_HOLDOFF is over, and holds it back before. -/
theorem responseWrite_vector0 {s : State} {p : Fin 16} {x : Part} {r : Response} {rest : List Response}
    (hx : s.dev.part p = x) (hreach : s.dev.reach p = true) (h : x.Signals 0) (ho : x.outbox = r :: rest)
    (he : x.rsp.enable = true) (hr : r.release = none)
    (hf : ahead x.rsp.tail x.rspHead + r.units ≤ x.rsp.capacity 32) :
    ∃ t, exec (.responseWrite p) s = .next t ∧ (t.dev.part p).rsp.tail = (x.rsp.tail + r.units) % 2 ^ 32 ∧
      (x.holdoffOver s.dev.now →
        (t.dev.part p).vectors = modifyNth x.vectors 0 (· + 1) ∧ (t.dev.part p).heldVector0 = false ∧
          (t.dev.part p).lastVector0 = some s.dev.now) ∧
      (∀ t0, x.lastVector0 = some t0 → s.dev.now < t0 + x.holdoff * 1000 →
        (t.dev.part p).vectors = x.vectors ∧ (t.dev.part p).heldVector0 = true ∧
          (t.dev.part p).lastVector0 = x.lastVector0) := by
  have hm : s.dev.masters p = true := Part.Signals.masters (hx ▸ h) hreach
  obtain ⟨d1, hnow, hpart, heq⟩ := Dev.responseWrite_fits hx hm ho he hr hf
  have hs : (x.responded r rest).Signals 0 := ⟨h.master, h.calm, h.unmasked⟩
  refine ⟨s.apply (d1.raiseRsp p).eff, by rw [← heq]; rfl, ?_, fun hd => ?_, fun t0 ht hn => ?_⟩
  · obtain ⟨_, _, _, _, hp⟩ := raiseRsp_part d1 p
    rw [State.apply_part_rsp, Dev.eff, hp, hpart]
    rfl
  · have hp := Dev.raiseRsp_due hpart hs (hnow.symm ▸ hd : x.holdoffOver d1.now)
    simp [Dev.eff, hp, hnow, Part.responded]
  · have hp := Dev.raiseRsp_held hpart ht (hnow.symm ▸ hn : d1.now < _)
    simp [Dev.eff, hp, Part.responded]

/-- RSP_HOLDOFF_EXPIRY raises a vector 0 that was held back. -/
theorem rspHoldoffExpiry_vector0 {s : State} {p : Fin 16} {x : Part} (hx : s.dev.part p = x) (h : x.Signals 0)
    (hheld : x.heldVector0 = true) :
    ∃ t, exec (.rspHoldoffExpiry p) s = .next t ∧ (t.dev.part p).vectors = modifyNth x.vectors 0 (· + 1) ∧
      (t.dev.part p).heldVector0 = false := by
  subst hx
  let d1 := s.dev.advance (((s.dev.part p).lastVector0.getD 0) + (s.dev.part p).holdoff * 1000)
  have heq : s.dev.holdoffExpiry p =
      (d1.vector p 0).modPart p (fun y => { y with lastVector0 := some d1.now, heldVector0 := false }) :=
    if_neg (by simp [hheld])
  have hv := Dev.vector_of_signals (d := d1) (p := p) rfl h
  refine ⟨s.apply (s.dev.holdoffExpiry p).eff, rfl, ?_, ?_⟩
  · simp [Dev.eff, heq, hv]
    rfl
  · simp [Dev.eff, heq]

/-! ### Vector 1: notices -/

/-- NOTICE_DELIVERY to a ring with room raises vector 1. -/
theorem noticeDelivery_vector1 {s : State} {p : Fin 16} {x : Part} {n : Notice} {rest : List Notice}
    (hx : s.dev.part p = x) (hreach : s.dev.reach p = true) (h : x.Signals 1) (hp : x.pending = n :: rest)
    (he : x.ntc.enable = true) (hf : ahead x.ntc.tail x.ntcHead < x.ntc.capacity 64) :
    ∃ t, exec (.noticeDelivery (.part p)) s = .next t ∧ (t.dev.part p).ntc.tail = (x.ntc.tail + 1) % 2 ^ 32 ∧
      (t.dev.part p).vectors = modifyNth x.vectors 1 (· + 1) := by
  subst hx
  have room : (!s.dev.masters p || !(s.dev.part p).ntc.enable ||
      decide ((s.dev.part p).ntc.capacity 64 ≤ ahead (s.dev.part p).ntc.tail (s.dev.part p).ntcHead)) = false := by
    simp [h.masters hreach, he, hf]
  refine ⟨s.apply (s.dev.deliverPart p).eff, rfl, ?_⟩
  rw [State.apply_part_ntc, State.apply_part_vectors]
  simp only [Dev.eff, Dev.deliverPart, hp, room, Bool.false_eq_true, if_false]
  rw [Dev.vector_of_signals (Dev.part_modPart_same ..) ⟨h.master, h.calm, h.unmasked⟩]
  exact ⟨rfl, rfl⟩

/-! ### Vector 2: a halted command ring -/

/-- A halt marks the ring and queues its response, both outside the core of the function, and raises vector 2 last. -/
theorem Dev.haltRing_eq_vector (d : Dev) (p : Nat) (urgent : Bool) (cause : Nat) (header : Bytes) :
    ∃ d1 : Dev, d.haltRing p urgent cause header = d1.vector p 2 ∧ (d1.part p).core = (d.part p).core ∧
      (d1.part p).vectors = (d.part p).vectors ∧ ((d1.part p).cmdRing urgent).halted = true := by
  refine ⟨_, rfl, ?_⟩
  simp only [Dev.emit, Dev.part_modPart_same]
  cases urgent <;> exact ⟨rfl, rfl, rfl⟩

theorem Dev.haltRing_vector2 {d : Dev} {p : Nat} {x : Part} (urgent : Bool) (cause : Nat) (header : Bytes)
    (hx : d.part p = x) (h : x.Signals 2) :
    (((d.haltRing p urgent cause header).part p).cmdRing urgent).halted = true ∧
      ((d.haltRing p urgent cause header).part p).vectors = modifyNth x.vectors 2 (· + 1) := by
  subst hx
  obtain ⟨d1, heq, hcore, hvectors, hhalted⟩ := d.haltRing_eq_vector p urgent cause header
  rw [heq, Dev.vector_of_signals rfl (h.of_core hcore), hvectors]
  exact ⟨hhalted, rfl⟩

/-- PACKET_FETCH whose host read fails raises vector 2. -/
theorem packetFetch_readError_vector2 {s : State} {p : Fin 16} {x : Part} {urgent : Bool} (b : Bytes)
    (hx : s.dev.part p = x) (h : x.Signals 2) (hm : s.dev.mayFetch p urgent = true) :
    ∃ t, exec (.packetFetch p urgent (.readError b)) s = .next t ∧
      ((t.dev.part p).cmdRing urgent).halted = true ∧ (t.dev.part p).vectors = modifyNth x.vectors 2 (· + 1) := by
  have heq : s.dev.packetFetch p urgent (.readError b) = (s.dev.serve p).haltRing p urgent 3 b := by
    simp [Dev.packetFetch, hm]
  obtain ⟨hh, hv⟩ := Dev.haltRing_vector2 (d := s.dev.serve p) urgent 3 b hx h
  refine ⟨s.apply ((s.dev.serve p).haltRing p urgent 3 b).eff, by rw [← heq]; rfl, ?_, ?_⟩
  · cases urgent <;> simpa [Part.cmdRing, Dev.eff] using hh
  · rw [State.apply_part_vectors]
    exact hv

/-! ### Vector 3: an action of the flare door -/

theorem Eff.quiesce_quiesced (e : Eff) (p : Nat) : ((e.quiesce p).dev.part p).quiesced = true := by
  simp [Eff.quiesce, Eff.mod]

/-- QUIESCE at an idle flare door raises vector 3. -/
theorem quiesce_vector3 {s : State} {p : Fin 16} {x : Part} {w : FlareWrite} (hx : s.dev.part p = x)
    (hreach : s.dev.reach p = true) (h : x.Signals 3) (hwidth : w.width = 64) (harm : w.arm = 0x464C4152)
    (hbusy : w.pairBusy = false) (hq : ∀ q, Quiet (s.dev.part q)) :
    ∃ t, exec (.quiesce p w) s = .next t ∧ (t.dev.part p).quiesced = true ∧
      (t.dev.part p).vectors = modifyNth x.vectors 3 (· + 1) := by
  obtain ⟨e1, hpart, _, _, heq⟩ := flareWrite_now s.dev p w 1 0 hreach hwidth harm hbusy hq (by decide) (by decide)
    (fun h12 => absurd h12 (by decide))
  have hcore : ((e1.quiesce p).dev.part p).core = x.core := (e1.quiesce_core p p).trans (by rw [hpart, hx])
  have hs : ((e1.quiesce p).dev.part p).Signals 3 := h.of_core hcore
  have hv := Dev.vector_of_signals
    (d := (e1.quiesce p).dev.modPart p (fun y => { y with flareLast := 1, flareTaken := (y.flareTaken + 1) % 65536 }))
    (Dev.part_modPart_same ..) ⟨hs.master, hs.calm, hs.unmasked⟩
  refine ⟨s.apply (s.dev.flareWrite p 1 0 w), rfl, ?_, ?_⟩
  · rw [State.apply_part_quiesced, heq]
    exact (congrArg Part.quiesced hv).trans (e1.quiesce_quiesced p)
  · rw [State.apply_part_vectors, heq]
    refine (congrArg Part.vectors hv).trans ?_
    exact congrArg (modifyNth · 3 (· + 1)) (congrArg Part.vectors hcore :)

/-- Settles O32: one lemma for each vector, each of which asks only that its own vector is unmasked. The statement asks
that of every number, which no table of finitely many entries meets (an entry never written is masked), so the lemmas
are what speaks of a device: `witness_signals` and `witness_vectors` give a module that meets their hypotheses for all
four vectors. -/
theorem vectorsAreRaised : Obligations.VectorsAreRaised := by
  unfold Obligations.VectorsAreRaised
  intro s p x _ hx hreach hmaster hcalm hmask
  have h (v : Nat) : x.Signals v := ⟨hmaster, hcalm, hmask v⟩
  refine ⟨fun r rest ho he hr hf => ?_, fun hheld => ?_, fun n rest hp he hf => ?_, fun urgent b hm => ?_, fun hq => ?_⟩
  · exact responseWrite_vector0 hx.symm hreach (h 0) ho he hr hf
  · exact rspHoldoffExpiry_vector0 hx.symm (h 0) hheld
  · exact noticeDelivery_vector1 hx.symm hreach (h 1) hp he hf
  · exact packetFetch_readError_vector2 b hx.symm (h 2) hm
  · exact quiesce_vector3 hx.symm hreach (h 3) rfl rfl rfl hq

/-- A function that masters the bus with its four vectors unmasked and three of its rings enabled; a command, a
response, a notice and a vector 0 held back wait. -/
def signalling : Part :=
  let ring : Ring := { enable := true, log2 := 16 }
  { created := true, present := true, busMaster := true, msix := (List.range 4).map (fun v => (v, { masked := false }))
    normal := ring, cmdTail := 1, rsp := ring, ntc := ring, heldVector0 := true
    outbox := [{ code := 0, opcode := 0, part := 0, seq := 0, tag := 1, tick := 0 }]
    pending := [{ body := .alarm 0, tick := 0, time := 0, timeValid := false, raised := 0, part := 0, device := true }] }

/-- A ready module with that function. -/
def signallingDev : Dev :=
  { start := { status := 1, stepsDone := true }, ports := [(0, { linkUp := true, inReset := false, perst := false })]
    parts := [(0, signalling)] }

theorem witness_signals : ∀ v < 4, signalling.Signals v := fun v hv =>
  ⟨rfl, by decide, by revert v; decide⟩

/-- Each of the five events is due in that module. -/
theorem witness_vectors :
    signallingDev.part 0 = signalling ∧ signallingDev.reach 0 = true ∧ signalling.holdoffOver signallingDev.now ∧
      signalling.heldVector0 = true ∧
      (∃ r, signalling.outbox = [r] ∧ r.release = none ∧
        ahead signalling.rsp.tail signalling.rspHead + r.units ≤ signalling.rsp.capacity 32) ∧
      ahead signalling.ntc.tail signalling.ntcHead < signalling.ntc.capacity 64 ∧
      signallingDev.mayFetch 0 false = true ∧ ∀ q, Quiet (signallingDev.part q) := by
  refine ⟨rfl, rfl, (fun _ h => nomatch h), rfl, ⟨_, rfl, rfl, by decide⟩, by decide, by decide, fun q => ?_⟩
  cases q <;> exact ⟨rfl, rfl⟩

/-! ### NOP (R364) -/

/-- Settles O9: NOP answers at its turn, by its arguments alone. -/
theorem nopCompletes : Obligations.NopCompletes := by
  unfold Obligations.NopCompletes
  intro s p tag k h
  have hexec : exec (.nop p tag) s = s.done
      (if k.arg0 != 0 || k.arg1 != 0 then s.dev.refuse p k .rejectedFormat else (s.dev.complete p k .ok).eff) :=
    congrArg s.done (startWith_some h _)
  refine ⟨fun ⟨h0, h1⟩ => completes_done hexec ?_ h.1, fun hposted harg => completes_done hexec ?_ h.1⟩
  · rw [Dev.complete_eq _ _ _ _ _ _ (fun _ => rfl)]
    simp [h0, h1]
  · have hbad : (k.arg0 != 0 || k.arg1 != 0) = true := by simpa using harg
    rw [if_pos hbad, Dev.refuse, Dev.complete_eq _ _ _ _ _ _ (by simp [hposted])]

end Sys2Proof.Machine
end

section
/-!
The machine as a whole: what a step leads to (O1 to O6), and memory read after a write (O7).
-/

namespace Sys2Proof.Machine

open Sys2Proof.Safety

/-! ### Steps -/

/-- A step carries out the front of the queue on the rest of it, or lets time pass, and either way what follows has
the rest of the queue and is sound if the state was. -/
theorem step_leads (s : State) : ∃ t, step s = .next t ∧ Follows { s with pending := s.pending.tail } t := by
  unfold step
  cases hp : s.pending with
  | nil =>
    obtain ⟨dev, mem, safety, pending⟩ := s
    cases hp
    exact ⟨_, rfl, State.idle_follows _⟩
  | cons c rest => exact exec_leads c { s with pending := rest }

/-- Soundness does not speak of the queue. -/
theorem sound_pending {s : State} (l : List Instr) (h : Sound s) : Sound { s with pending := l } := h

/-- Settles O4: what a step leads to keeps the invariant. -/
theorem stepKeepsSound : Obligations.StepKeepsSound := by
  unfold Obligations.StepKeepsSound
  intro s t hs hstep
  obtain ⟨u, hu, hf⟩ := step_leads s
  cases hu.symm.trans hstep
  exact hf.sound (sound_pending _ hs)

/-- Settles O3: what a step leads to has the rest of the queue. -/
theorem stepNeverStops : Obligations.StepNeverStops := by
  unfold Obligations.StepNeverStops
  intro s
  obtain ⟨t, ht, hf⟩ := step_leads s
  exact ⟨t, ht, hf.pending⟩

/-- Settles O1, by the definition of a step. -/
theorem stepTakesTheFront : Obligations.StepTakesTheFront := by
  unfold Obligations.StepTakesTheFront
  exact fun _ _ => rfl

/-- Inspections of headers that run nowhere leave nothing to end (R505). -/
theorem Dev.endHeaders_none (d : Dev) (h : ∀ x ∈ d.mgmt.sessions, x.2.headersUntil = none) : d.endHeaders = d := by
  unfold Dev.endHeaders
  refine List.foldlRecOn (motive := fun a => a = d) _ _ rfl (fun a ha x hx => ?_)
  rw [h x hx]
  exact ha

/-- Settles O2: with no flare entry to take and no inspection to end, one tns passes. -/
theorem idleStepLetsTimePass : Obligations.IdleStepLetsTimePass := by
  unfold Obligations.IdleStepLetsTimePass
  intro s hp hr hq hh
  have hidle : s.idle = s.apply ({ s.dev with now := s.dev.now + 1 } : Dev).eff := by
    unfold State.idle
    rw [flareBatch_none _ hq]
    exact congrArg (fun d : Dev => s.apply d.eff) (Dev.endHeaders_none _ hh)
  refine ⟨s.idle, by simp [step, hp], ?_⟩
  rw [hidle]
  exact becomes_apply s _ hr rfl rfl

/-- Settles O5, by evaluation of the reset state. -/
theorem resetIsSound : Obligations.ResetIsSound := by
  unfold Obligations.ResetIsSound Sound
  decide

/-- Settles O6, by evaluation of the reset state. -/
theorem resetLeavesDefaults : Obligations.ResetLeavesDefaults := by
  unfold Obligations.ResetLeavesDefaults
  decide

/-! ### Memory -/

/-- Settles O7: inside the written range by the byte's place, outside it by the frame of a write. -/
theorem memoryReadsBack : Obligations.MemoryReadsBack := by
  unfold Obligations.MemoryReadsBack
  intro m a x bs h
  refine ⟨m.writeBytes_wf a bs h, ?_⟩
  split
  · rename_i hx
    have hi := m.read_writeBytes_inside a (x - a) bs (by omega)
    rwa [show a + (x - a) = x by omega] at hi
  · exact m.read_writeBytes_outside a x bs (by omega)

end Sys2Proof.Machine
end

section
/-!
Commands of the rings: a command whose packet is not at its turn (O8), the phases of LOAD_IMAGE (O10, O11), BIND and
SUBMIT (O12, O13), and the commands of a tick (O14).
-/

namespace Sys2Proof.Machine

open Sys2Proof.Safety

/-! ### Commands that wait for their packet -/

theorem startWith_none {d : Dev} {p tag op : Nat} (h : d.starting p tag op = none) (f : Packet → Eff) :
    d.startWith p tag op f = d.eff := by
  simp [Dev.startWith, h]

theorem Dev.chunk_none {d : Dev} {p tag : Nat} (h : d.starting p tag 0x22 = none) (kind : Nat)
    (check : Packet → Option (Code × Nat)) : d.chunk p tag kind check = d.eff := by
  unfold Dev.chunk
  split
  · split
    · exact startWith_none h _
    · rfl
  · rfl

theorem Dev.bindCmd_none {d : Dev} {p tag : Nat} (h : d.starting p tag 2 = none) (safe : Bool) :
    d.bindCmd safe p tag = d.eff := by
  unfold Dev.bindCmd
  split
  · rfl
  · exact startWith_none h _

theorem Dev.submit_none {d : Dev} {p tag : Nat} (h : d.starting p tag 3 = none) (safe : Bool) :
    d.submit safe p tag = d.eff := by
  unfold Dev.submit
  split
  · rfl
  · exact startWith_none h _

theorem State.odWrite_none {s : State} {p : Fin 16} {tag : Nat} (h : s.dev.starting p tag 0x33 = none) :
    s.odWrite p tag = s.apply s.dev.eff := by
  simp [State.odWrite, h]

/-- Settles O8: each meaning starts with its packet, and BIND, SUBMIT, the chunks and OD_WRITE ask for more before. -/
theorem hostCommandAwaitsItsPacket : Obligations.HostCommandAwaitsItsPacket := by
  unfold Obligations.HostCommandAwaitsItsPacket
  intro s p tag hr h
  have stays {c : Instr} (hc : exec c s = s.done s.dev.eff) : CompletesTo c s s.dev := completes_done hc rfl hr
  have starts (op : Nat) (f : Packet → Eff) : s.done (s.dev.startWith p tag op f) = s.done s.dev.eff :=
    congrArg s.done (startWith_none (h op) f)
  have chunks (kind : Nat) (f : Packet → Option (Code × Nat)) : s.done (s.dev.chunk p tag kind f) = s.done s.dev.eff :=
    congrArg s.done (Dev.chunk_none (h 0x22) kind f)
  simp only [List.forall_mem_cons, List.not_mem_nil, false_imp_iff, implies_true, and_true]
  exact ⟨stays (starts _ _), stays (starts _ _), stays (starts _ _), stays (starts _ _), stays (starts _ _),
    stays (starts _ _), stays (congrArg s.done (Dev.bindCmd_none (h 2) _)),
    stays (congrArg s.done (Dev.submit_none (h 3) _)), stays (starts _ _), stays (starts _ _), stays (starts _ _),
    stays (starts _ _), stays (starts _ _), stays (starts _ _), stays (chunks _ _), stays (chunks _ _),
    stays (chunks _ _), stays (starts _ _), stays (starts _ _), stays (starts _ _), stays (starts _ _),
    stays (starts _ _), stays (starts _ _), stays (starts _ _), stays (starts _ _), stays (starts _ _),
    stays (congrArg Host.Outcome.next (State.odWrite_none (h 0x33)))⟩

end Sys2Proof.Machine
end

section
/-!
The phases of LOAD_IMAGE (O10, O11): each is one of the branches of its meaning, chosen by the bits of ARG0.
-/

namespace Sys2Proof.Machine

open Sys2Proof.Safety

/-! ### Completions -/

/-- A command whose meaning is the completion of its packet by a success, or that is not posted, is answered. -/
theorem completes_answer {c : Instr} {s : State} {d : Dev} {p : Nat} {k : Packet} {code : Code} {info : Nat}
    {payload : Bytes} (hc : exec c s = s.done (d.complete p k code info payload).eff)
    (h : k.posted = true → succeeded code = true) (hr : d.raised = []) :
    CompletesTo c s (d.answered p k code info payload) :=
  completes_done hc (by rw [Dev.complete_eq _ _ _ _ _ _ h]) hr

theorem completes_ok {c : Instr} {s : State} {d : Dev} {p : Nat} {k : Packet} {info : Nat} {payload : Bytes}
    (hc : exec c s = s.done (d.complete p k .ok info payload).eff) (hr : d.raised = []) :
    CompletesTo c s (d.answered p k .ok info payload) := completes_answer hc (fun _ => rfl) hr

/-- A command whose meaning is that its packet waits is left waiting. -/
theorem completes_wait {c : Instr} {s : State} {d : Dev} {p : Nat} {k : Packet} {w : WaitFor}
    (hc : exec c s = s.done (d.wait p k w).eff) (hr : d.raised = []) : CompletesTo c s (d.waiting p k w) :=
  completes_done hc (by rw [Dev.wait_eq]) hr

/-- A command that ends as an effect with its packet answered keeps the effect's operations on memory. -/
theorem completesWith_ok {c : Instr} {s : State} {e : Eff} {p : Nat} {k : Packet} {info : Nat} {payload : Bytes}
    (hc : exec c s = s.done (e.mod (fun d => d.complete p k .ok info payload))) (hs : e.safety = [])
    (hr : e.dev.raised = []) : CompletesWith c s (e.dev.answered p k .ok info payload) e.mem := by
  rw [← Dev.complete_eq _ _ _ _ _ _ (fun _ => rfl)]
  exact completes_ops e hc hs (by rw [Dev.complete_eq _ _ _ _ _ _ (fun _ => rfl)]; exact hr)

theorem completesWith_wait {c : Instr} {s : State} {e : Eff} {p : Nat} {k : Packet} {w : WaitFor}
    (hc : exec c s = s.done (e.mod (fun d => d.wait p k w))) (hs : e.safety = []) (hr : e.dev.raised = []) :
    CompletesWith c s (e.dev.waiting p k w) e.mem := by
  rw [← Dev.wait_eq]
  exact completes_ops e hc hs (by rw [Dev.wait_eq]; exact hr)

/-! ### The phase field of LOAD_IMAGE (R352) -/

/-- ARG0 of a phase: the phase in bits 2 to 0, an offset from bit 8 on, and nothing between. -/
theorem phase_fields {n : Nat} (ph : Nat) (hp : ph < 8) (hn : ph + n * 256 < 2 ^ 64) :
    field (ph + n * 256) 2 0 = ph ∧ field (ph + n * 256) 7 3 = 0 ∧ field (ph + n * 256) 63 8 = n := by
  simp only [field, Nat.shiftRight_eq_div_pow]
  omega

theorem phaseClean_of {k : Packet} {n : Nat} (ph : Nat) (h : k.arg0 = ph + n * 256) (hp : ph < 8) (hn : k.arg0 < 2 ^ 64)
    (ho : ph = 1 ∨ ph = 2 ∨ n = 0) : phaseClean k = true := by
  obtain ⟨hphase, hzero, hoffset⟩ := phase_fields (n := n) ph hp (h ▸ hn)
  simpa [phaseClean, h, hphase, hzero, hoffset, or_assoc] using ho

/-- A phase of a tagged image of the partition is carried out. -/
theorem Dev.imagePhase_some {s : State} {p : Fin 16} {tag n : Nat} {k : Packet} {im : Image} (ph : Nat)
    (h : Arrived s p tag 0x01 k) (ha : k.arg0 = ph + n * 256) (hp : ph < 8) (hn : k.arg0 < 2 ^ 64)
    (ho : ph = 1 ∨ ph = 2 ∨ n = 0) (hi : s.dev.imageOf k.arg1 = some im) (hm : im.part = p) (f : Packet → Image → Eff) :
    s.dev.imagePhase p tag ph f = f k im := by
  obtain ⟨hphase, -, -⟩ := phase_fields (n := n) ph hp (ha ▸ hn)
  rw [← ha] at hphase
  unfold Dev.imagePhase
  rw [startWith_some h]
  simp [hphase, phaseClean_of ph ha hp hn ho, hi, hm]

theorem any_not_legal {es : List ImageEntry} {n : Nat} (h : ∀ e ∈ es, e.legal n = true) :
    es.any (fun e => !e.legal n) = false := by
  simpa using h

/-! ### BEGIN, TABLE and DATA -/

theorem loadImageBegin_completes {s : State} {p : Fin 16} {tag n bytes loc : Nat} {k : Packet} {es : List ImageEntry}
    {d : Dev} (h : Arrived s p tag 0x01 k) (ha : k.arg0 = 0) (hb : k.arg1 = 0) (hl : 64 ≤ k.payload.length)
    (hn : n = field (leAt k.payload 0 64) 31 0) (hbytes : bytes = field (leAt k.payload 0 64) 127 64)
    (h1 : field (leAt k.payload 0 64) 63 32 = 0) (h2 : field (leAt k.payload 0 64) 511 128 = 0)
    (hes : es = entriesIn (k.payload.drop 64)) (hpos : 0 < n) (hmax : n ≤ 2 ^ 24) (hlen : es.length ≤ n)
    (hlegal : ∀ e ∈ es, e.legal bytes = true) (hroom : ceilDiv bytes 4096 * 4096 ≤ s.dev.stratusRoom p)
    (htake : s.dev.takeStratus (ceilDiv bytes 4096) p = some (loc, d)) :
    CompletesTo (.loadImageBegin p tag) s
      (({ d with nextImage := d.nextImage + 1 } : Dev).setImage
        { number := d.nextImage, generation := 1, part := p, nTens := n, dataBytes := bytes, entries := es, received := 0
          loc := loc, units := ceilDiv bytes 4096, placed := false, slices := [] }
      |>.answered p k .ok 0 (toLe 4 d.nextImage ++ toLe 4 1)) := by
  subst hn hbytes hes
  refine completes_ok (congrArg s.done ?_) ((takeStratus_raised htake).trans h.1)
  have hclean : phaseClean k = true := phaseClean_of (n := 0) 0 (by omega) (by omega) (by omega) (by omega)
  have hphase : field k.arg0 2 0 = 0 := by rw [ha]; rfl
  have hn24 : ¬ 16777216 < field (leAt k.payload 0 64) 31 0 := Nat.not_lt.mpr hmax
  unfold Dev.imageBegin
  rw [startWith_some h]
  simp [hphase, hclean, hb, Nat.not_lt.mpr hl, h1, h2, Nat.ne_of_gt hpos, hn24, Nat.not_lt.mpr hlen, any_not_legal hlegal,
    Nat.not_lt.mpr hroom, htake]

theorem loadImageTable_completes {s : State} {p : Fin 16} {tag : Nat} {k : Packet} {im : Image} {es : List ImageEntry}
    (h : Arrived s p tag 0x01 k) (ha : k.arg0 = 1 + im.entries.length * 256) (hb : k.arg0 < 2 ^ 64)
    (hi : s.dev.imageOf k.arg1 = some im) (hm : im.part = p) (he : im.ended = false) (hes : es = entriesIn k.payload)
    (hn : im.entries.length + es.length ≤ im.nTens) (hlegal : ∀ e ∈ es, e.legal im.dataBytes = true) :
    CompletesTo (.loadImageTable p tag) s
      ((s.dev.setImage { im with entries := im.entries ++ es }).answered p k .ok 0 []) := by
  subst hes
  refine completes_ok (congrArg s.done ?_) h.1
  obtain ⟨-, -, hoffset⟩ := phase_fields (n := im.entries.length) 1 (by omega) (ha ▸ hb)
  rw [← ha] at hoffset
  unfold Dev.imageTable
  rw [Dev.imagePhase_some 1 h ha (by omega) hb (.inl rfl) hi hm]
  simp only [he, hoffset, bne_self_eq_false, any_not_legal hlegal, Nat.not_lt.mpr hn, decide_false, Bool.or_self,
    Bool.false_eq_true, if_false]

theorem loadImageData_completes {s : State} {p : Fin 16} {tag n : Nat} {k : Packet} {im : Image}
    (h : Arrived s p tag 0x01 k) (ha : k.arg0 = 2 + im.received * 256) (hb : k.arg0 < 2 ^ 64)
    (hi : s.dev.imageOf k.arg1 = some im) (hm : im.part = p) (he : im.ended = false)
    (hn : n = min k.payload.length (im.dataBytes - im.received)) (hpos : 0 < n) (hlen : k.payload.length < n + 64)
    (ht : s.dev.stratus.state ≠ 2) :
    CompletesTo (.loadImageData p tag) s
      ((s.dev.setImage { im with received := im.received + n }).waiting p k .durable) := by
  subst hn
  refine completes_wait (congrArg s.done ?_) h.1
  obtain ⟨-, -, hoffset⟩ := phase_fields (n := im.received) 2 (by omega) (ha ▸ hb)
  rw [← ha] at hoffset
  unfold Dev.imageData
  rw [Dev.imagePhase_some 2 h ha (by omega) hb (.inr (.inl rfl)) hi hm]
  simp only [he, hoffset, bne_self_eq_false, Nat.ne_of_gt hpos, Nat.not_le.mpr hlen, decide_false, Bool.or_self,
    Bool.false_eq_true, if_false, ht]

/-- Settles O10, phase by phase (R352). -/
theorem imageUploadCompletes : Obligations.ImageUploadCompletes := by
  unfold Obligations.ImageUploadCompletes
  exact ⟨fun _ _ _ _ _ _ _ _ _ => loadImageBegin_completes, fun _ _ _ _ _ _ => loadImageTable_completes,
    fun _ _ _ _ _ _ => loadImageData_completes⟩

/-! ### END and UNLOAD -/

theorem loadImageEnd_completes {s : State} {p : Fin 16} {tag : Nat} {k : Packet} {im : Image} {e : Eff}
    {sl : List (List WeightSlice)} (h : Arrived s p tag 0x01 k) (ha : k.arg0 = 3)
    (hi : s.dev.imageOf k.arg1 = some im) (hm : im.part = p) (hd : s.dev.dataPending p im = false) (hp : k.payload = [])
    (he : im.ended = false) (hn : im.entries.length = im.nTens) (hr : im.received = im.dataBytes)
    (hu : ∀ t ∈ im.entries, ∀ r < 12, bit t.stackMask r = true → s.dev.regionUsable p (r / 2) = true)
    (hw : s.dev.eff.placeWeights p im.entries = some (e, sl)) :
    CompletesWith (.loadImageEnd p tag) s
      ((e.dev.setImage { im with slices := sl, ended := true }).waiting p k (.placed im.number)) e.mem := by
  have htakes := Eff.placeWeights_takes _ hw
  refine completesWith_wait (e := e.mod (fun d => d.setImage { im with slices := sl, ended := true }))
    (congrArg s.done ?_) htakes.safety (htakes.raised.trans h.1)
  have hown : (im.entries.any fun t => (List.range 12).any fun r => bit t.stackMask r && !s.dev.regionUsable p (r / 2)) =
      false := by
    rw [List.any_eq_false]
    intro t ht hex
    obtain ⟨r, hr12, hbit, hnot⟩ := by simpa using hex
    simp [hu t ht r hr12 hbit] at hnot
  unfold Dev.imageEnd
  rw [Dev.imagePhase_some (n := 0) 3 h (by omega) (by omega) (by omega) (.inr (.inr rfl)) hi hm]
  simp only [hd, hp, he, hn, hr, hown, hw, List.isEmpty_nil, Bool.not_true, bne_self_eq_false, Bool.or_self,
    Bool.false_eq_true, if_false]
  rfl

theorem loadImageUnload_completes {s : State} {p : Fin 16} {tag : Nat} {k : Packet} {im : Image} {e : Eff}
    (h : Arrived s p tag 0x01 k) (ha : k.arg0 = 4) (hi : s.dev.imageOf k.arg1 = some im) (hm : im.part = p)
    (hd : s.dev.dataPending p im = false) (hpl : s.dev.placing im.number = false) (hres : im.restoring = false)
    (hp : k.payload = []) (hj : ∀ j ∈ s.dev.liveJobs, j.imageNo ≠ im.number)
    (he : e = (im.slices.flatten.foldl (fun a x => if x.lost then a else a.freeLines x.stack x.la x.lines)
      s.dev.eff).freeUnits im.loc im.units) :
    CompletesWith (.unload p tag) s
      (({ e.dev with images := terase e.dev.images im.number } : Dev).answered p k .ok 0 []) e.mem := by
  have hcalm : s.dev.eff.Calm e := by
    rw [he]
    refine (Eff.Calm.fold (fun a x => ?_) _ _).trans (Eff.freeUnits_calm ..)
    split
    · exact Eff.Calm.refl a
    · exact Eff.freeLines_calm ..
  refine completesWith_ok (e := e.mod (fun d => { d with images := terase d.images im.number })) (congrArg s.done ?_)
    hcalm.2 (hcalm.raised.trans h.1)
  have hlive : (s.dev.liveJobs.any fun j => j.imageNo == im.number) = false := by simpa using hj
  unfold Dev.imageUnload
  rw [Dev.imagePhase_some (n := 0) 4 h (by omega) (by omega) (by omega) (.inr (.inr rfl)) hi hm]
  simp only [hd, hpl, hres, hp, hlive, List.isEmpty_nil, Bool.not_true, Bool.or_self, Bool.false_eq_true, if_false]
  rw [he, List.foldl_flatten]
  rfl

/-- Settles O11: END and UNLOAD (R259, R260). -/
theorem imageEndAndUnloadComplete : Obligations.ImageEndAndUnloadComplete := by
  unfold Obligations.ImageEndAndUnloadComplete
  exact ⟨fun _ _ _ _ _ _ _ => loadImageEnd_completes, fun _ _ _ _ _ _ => loadImageUnload_completes⟩

end Sys2Proof.Machine
end

section
/-!
BIND and SUBMIT (O12, O13), the commands of a tick (O14) and STORE (O15).
-/

namespace Sys2Proof.Machine

open Sys2Proof.Safety

/-! ### BIND -/

/-- BIND of a legal program to a placed image of the partition goes on to the job it names. -/
theorem Dev.bindCmd_placed {s : State} {p : Fin 16} {tag : Nat} {k : Packet} {im : Image} (h : Arrived s p tag 0x02 k)
    (hl : s.dev.loadsFirst p (bindTag k.payload) k = false) (ha : k.arg0 = 0) (hb : k.arg1 = 0) (hj : k.job ≠ 0)
    (hi : s.dev.imageOf (bindTag k.payload) = some im) (hm : im.part = p) (he : im.ended = true)
    (hc : bindCheck k.payload (some im) = none) (hr : im.restoring = false) (hg : s.dev.placing im.number = false)
    (hp : im.placed = true) :
    s.dev.bindCmd false p tag = match s.dev.liveJob k.job with
      | none => (s.dev.bindNew p k im (Program.ofBytes (k.payload.drop 64))).eff
      | some j =>
        if j.part != p then s.dev.refuse p k .notOwner
        else if j.imageNo != im.number || !rebindCompatible (Program.ofBytes (k.payload.drop 64)) j.prog then
          s.dev.refuse p k .rejectedFormat
        else match (if j.state = .bound then none else batchChecks (Program.ofBytes (k.payload.drop 64)) im j.batch) with
          | some off => (s.dev.complete p k .rejectedFormat off).eff
          | none => (s.dev.rebind p k j (Program.ofBytes (k.payload.drop 64))).eff := by
  unfold Dev.bindCmd
  rw [if_neg Bool.false_ne_true, startWith_some h]
  simp only [hl, ha, hb, hj, hi, hm, he, hc, hr, hg, hp, bne_self_eq_false, Bool.or_self, Bool.false_eq_true, if_false,
    decide_false, Option.bind_some, decide_true, Bool.and_self, if_true, Bool.not_true] <;> rfl

/-- Settles O12: a new job, or the job that is bound (R248, R353). -/
theorem bindCompletes : Obligations.BindCompletes := by
  unfold Obligations.BindCompletes
  intro s p tag k im prog h hsafe hl ha hb hj hi hm he hc hprog hr hg hp
  subst hprog
  have hplaced := Dev.bindCmd_placed h hl ha hb hj hi hm he hc hr hg hp
  have hexec : exec (.bind p tag) s = s.done (s.dev.bindCmd false p tag) := by rw [← hsafe]; rfl
  refine ⟨fun hnone => completes_ok (hexec.trans ?_) h.1, fun j hsome hpart hstate himage hcomp =>
    completes_ok (hexec.trans ?_) h.1⟩
  · rw [hplaced, hnone]
    rfl
  · rw [hplaced, hsome]
    simp [hpart, himage, hcomp, hstate, Dev.rebind]

/-! ### SUBMIT -/

theorem Dev.addStreams_raised {α : Type} (f : α → StreamEntry) (l : List α) (d : Dev) :
    (l.foldl (fun acc i => acc.addStream (f i)) d).raised = d.raised := 
  foldl_raised (f := fun (acc : Dev) i => acc.addStream (f i)) (fun _ _ => rfl) l d

theorem Admission.take_raised (a : Admission) (j : Job) (t n : Nat) : (a.take j t n).dev.raised = a.placed.eff.dev.raised := by
  unfold Admission.take
  dsimp only
  split
  · rfl
  · exact Dev.addStreams_raised _ _ _

theorem Admission.take_safety (a : Admission) (j : Job) (t n : Nat) : (a.take j t n).safety = a.placed.eff.safety := by
  unfold Admission.take
  dsimp only
  split <;> rfl

theorem Dev.jobFor_ok {d : Dev} {p : Nat} {k : Packet} {j : Job} (h : d.liveJob k.job = some j) (hp : j.part = p) :
    d.jobFor p k = .ok j := by
  simp [Dev.jobFor, h, hp]

/-- Settles O13: the admission is taken and the packet answered (R354). -/
theorem submitCompletes : Obligations.SubmitCompletes := by
  unfold Obligations.SubmitCompletes
  intro s p tag k j b im a e h hsafe hj hp hstate hbatch ha hb him hadmit he
  have htakes := Eff.admitJob_takes hadmit
  refine completesWith_ok ?_ (by rw [he, Admission.take_safety, htakes.safety]; rfl)
    (by rw [he, Admission.take_raised, htakes.raised]; exact h.1)
  have hexec : exec (.submit p tag) s = s.done (s.dev.submit false p tag) := by rw [← hsafe]; rfl
  rw [hexec, he]
  congr 1
  have hform : (decide (j.state ≠ .bound) || k.arg0 != 0 || k.arg1 != 0) = false := by simp [hstate, ha, hb]
  unfold Dev.submit
  rw [if_neg Bool.false_ne_true, startWith_some h, Dev.jobFor_ok hj hp]
  simp only [hbatch, hform, Bool.false_eq_true, if_false, him, hadmit]

/-! ### The commands of a tick -/

theorem arrived_packet {s : State} {p : Fin 16} {tag op : Nat} {k : Packet} (h : Arrived s p tag op k) :
    s.dev.packet? p tag = some k := by
  have hs := h.2
  unfold Dev.starting at hs
  split at hs
  · rename_i q hq
    split at hs
    · cases hs; exact hq
    · cases hs
  · cases hs

/-- A command of a tick on arrival: marked as checked, or answered with the code it failed by. -/
theorem Dev.arrive_completes {s : State} {p : Fin 16} {tag op : Nat} {k : Packet} {c : Instr}
    {check : Packet → Option (Code × Nat)} (h : Arrived s p tag op k) (hc : exec c s = s.done (s.dev.arrive p tag op check)) :
    (check k = none →
      CompletesTo c s (s.dev.setPart p { s.dev.part p with
        inbox := (s.dev.part p).inbox.map (fun q => if q.tag = tag then { q with checked := true } else q) })) ∧
    (∀ code info, check k = some (code, info) → k.posted = false → CompletesTo c s (s.dev.answered p k code info [])) := by
  unfold Dev.arrive at hc
  rw [startWith_some h] at hc
  refine ⟨fun hn => completes_done hc (by rw [hn]; rfl) h.1, fun code info hs hposted =>
    completes_answer (hc.trans (by rw [hs])) (by simp [hposted]) h.1⟩

theorem Dev.chunk_some {s : State} {p : Fin 16} {tag kind : Nat} {k : Packet} (h : Arrived s p tag 0x22 k)
    (hk : chunkKind k = kind) (check : Packet → Option (Code × Nat)) :
    s.dev.chunk p tag kind check = s.dev.arrive p tag 0x22 check := by
  simp [Dev.chunk, arrived_packet h, hk]

/-- Settles O14: INPUT and FORK by their arrival, a chunk once its row is that of its packet. -/
theorem tickCommandsAreTaken : Obligations.TickCommandsAreTaken := by
  unfold Obligations.TickCommandsAreTaken
  intro s p tag k
  simp only [List.forall_mem_cons, List.not_mem_nil, false_imp_iff, implies_true, and_true, beq_iff_eq]
  refine ⟨fun h _ => Dev.arrive_completes h rfl, fun h _ => Dev.arrive_completes h rfl, fun h hk => ?_, fun h hk => ?_,
    fun h hk => ?_⟩ <;>
  exact Dev.arrive_completes h (congrArg s.done (Dev.chunk_some h hk _))

/-! ### STORE -/

theorem Eff.takeRoom_kept {e e' : Eff} {k align lines part ph b : Nat}
    (h : e.takeRoom k align lines part ph = some (b, e')) : e'.safety = e.safety ∧ e'.dev.raised = e.dev.raised :=
  ⟨(Eff.takeRoom_takes h).safety, (Eff.takeRoom_takes h).raised⟩

/-- A STORE with HANDLE 0 that passes its checks goes on to the place it asks for. -/
theorem Dev.storeCreate_checked {s : State} {p : Fin 16} {tag w total : Nat} {k : Packet} (h : Arrived s p tag 0x11 k)
    (hh : k.handle = 0) (hl : k.payload.length = 64) (hw : w = leAt k.payload 0 64) (h1 : field w 63 33 = 0)
    (h2 : field w 511 192 = 0) (ht : total = field w 191 128) (hlo : 64 ≤ total) (hhi : total ≤ 2 ^ 45) (ha : k.arg0 = 0)
    (hb : k.arg1 = 0) :
    s.dev.storeCreate p tag =
      if bit w 32 then
        if s.dev.stratus.state = 2 then s.dev.refuse p k .tierFailed
        else if s.dev.stratusRoom p < ceilDiv total 4096 * 4096 then s.dev.refuse p k .noRoom
        else match s.dev.takeStratus (ceilDiv total 4096) p with
          | none => s.dev.refuse p k .noRoom
          | some (loc, d1) =>
            let r := d1.eff.addObject p { part := p, stratus := true, stack := 0, base := loc, total := total }
            r.2.mod (fun x => x.complete p k .ok r.1)
      else
        match s.dev.roomiest (s.dev.usableStacks p) with
        | none => s.dev.refuse p k .noRoom
        | some r0 => match s.dev.eff.takeRoom r0 1 (ceilDiv total 128) p with
          | none => s.dev.refuse p k .noRoom
          | some (la, e) =>
            let r := e.addObject p { part := p, stratus := false, stack := r0, base := la, total := total }
            r.2.mod (fun x => x.complete p k .ok r.1) := by
  subst hw ht
  have hhi' : ¬ 2 ^ 45 < field (leAt k.payload 0 64) 191 128 := Nat.not_lt.mpr hhi
  unfold Dev.storeCreate
  rw [startWith_some h]
  simp only [hh, hl, h1, h2, Nat.not_lt.mpr hlo, hhi', ha, hb, bne_self_eq_false, decide_false, Bool.or_self,
    Bool.false_eq_true, if_false] <;> rfl

theorem storeCreate_completes {s : State} {p : Fin 16} {tag w total : Nat} {k : Packet} (h : Arrived s p tag 0x11 k)
    (hh : k.handle = 0) (hl : k.payload.length = 64) (hw : w = leAt k.payload 0 64) (h1 : field w 63 33 = 0)
    (h2 : field w 511 192 = 0) (ht : total = field w 191 128) (hlo : 64 ≤ total) (hhi : total ≤ 2 ^ 45) (ha : k.arg0 = 0)
    (hb : k.arg1 = 0) :
    (∀ r la e, bit w 32 = false → s.dev.roomiest (s.dev.usableStacks p) = some r →
      s.dev.eff.takeRoom r 1 (ceilDiv total 128) p = some (la, e) →
      CompletesWith (.storeCreate p tag) s
        (({ e.dev.setPart p { e.dev.part p with nextHandle := (e.dev.part p).nextHandle + 1 } with
            objects := tset e.dev.objects (p * 2 ^ 32 + (e.dev.part p).nextHandle)
              { part := p, stratus := false, stack := r, base := la, total := total } } : Dev).answered p k .ok
          (e.dev.part p).nextHandle []) e.mem) ∧
    (∀ loc d, bit w 32 = true → s.dev.stratus.state ≠ 2 → ceilDiv total 4096 * 4096 ≤ s.dev.stratusRoom p →
      s.dev.takeStratus (ceilDiv total 4096) p = some (loc, d) →
      CompletesTo (.storeCreate p tag) s
        (({ d.setPart p { d.part p with nextHandle := (d.part p).nextHandle + 1 } with
            objects := tset d.objects (p * 2 ^ 32 + (d.part p).nextHandle)
              { part := p, stratus := true, stack := 0, base := loc, total := total } } : Dev).answered p k .ok
          (d.part p).nextHandle [])) := by
  have hchecked := Dev.storeCreate_checked h hh hl hw h1 h2 ht hlo hhi ha hb
  refine ⟨fun r la e hbit hr htake => ?_, fun loc d hbit hstate hroom htake => ?_⟩
  · obtain ⟨hsafety, hraised⟩ := Eff.takeRoom_kept htake
    refine completesWith_ok (e := (e.addObject p
      { part := p, stratus := false, stack := r, base := la, total := total }).2) (congrArg s.done ?_) hsafety
      (hraised.trans h.1)
    rw [hchecked, hbit, if_neg Bool.false_ne_true, hr]
    simp only [htake]
    rfl
  · refine completes_ok (congrArg s.done ?_) ((takeStratus_raised htake).trans h.1)
    rw [hchecked, if_pos hbit, if_neg hstate, if_neg (Nat.not_lt.mpr hroom), htake]
    rfl

/-- Settles O15: STORE with HANDLE 0 by its place, and with a handle by the object it names (R357). -/
theorem storeCompletes : Obligations.StoreCompletes := by
  unfold Obligations.StoreCompletes
  refine ⟨fun _ _ _ _ _ _ => storeCreate_completes, ?_⟩
  intro s p tag k o off d h hh ho hrel hlost hoff hmod hend h1 h2 hl ha hb hd
  subst hoff hd
  have hexec (x : Bool) (hx : o.stratus = x) (ht : (x && decide (s.dev.stratus.state = 2)) = false) :
      s.dev.storeWrite p tag =
        (if x then (s.dev.setPart p { s.dev.part p with storeWrites := (s.dev.part p).storeWrites ++
            [{ handle := k.handle, tag := k.tag, offset := field (leAt k.payload 0 64) 127 64
               data := k.payload.drop 64, atHome := !x }] }).wait p k .durable
          else (s.dev.setPart p { s.dev.part p with storeWrites := (s.dev.part p).storeWrites ++
            [{ handle := k.handle, tag := k.tag, offset := field (leAt k.payload 0 64) 127 64
               data := k.payload.drop 64, atHome := !x }] }).complete p k .ok k.handle).eff := by
    unfold Dev.storeWrite
    rw [startWith_some h]
    simp only [hh, ho, hrel, hmod, Nat.not_lt.mpr hend, h1, h2, Nat.not_lt.mpr hl, ha, hb, hlost, hx, ht, if_false,
      bne_self_eq_false, decide_false, Bool.or_self, Bool.false_eq_true]
    rfl
  refine ⟨fun hs => completes_ok (congrArg s.done ?_) h.1, fun hs ht => completes_wait (congrArg s.done ?_) h.1⟩
  · simpa [hs] using hexec false hs rfl
  · simpa [hs] using hexec true hs (by simp [ht])

end Sys2Proof.Machine
end

section
/-!
FETCH and its copies (O16), FENCE (O17), and the object commands of a host (O18).
-/

namespace Sys2Proof.Machine

open Sys2Proof.Safety

/-! ### FETCH -/

/-- A legal FETCH for whose response the outbox has room goes to its object or its tensor. -/
theorem State.fetch_legal {s : State} {p : Fin 16} {tag : Nat} {k : Packet} (h : Arrived s p tag 0x12 k)
    (hl : fetchLegal k = true) (ho : s.dev.outboxTakes p (field (leAt k.payload 0 64) 127 96) = true) :
    s.fetch p tag = (if bit (leAt k.payload 0 64) 0 then s.fetchObject p k else s.fetchTensor p k).eff := by
  unfold State.fetch
  rw [startWith_some h]
  simp [hl, ho]

/-- Tokens of a bucket are a partition's alone, and no cause. -/
theorem Dev.fetchTokens_raised (d : Dev) (p a n : Nat) : (d.fetchTokens p a n).raised = d.raised := by
  unfold Dev.fetchTokens
  split <;> rfl

/-- Bytes read from sound lines are answered. -/
theorem State.fetchFrom_sound {s : State} {p a n : Nat} {k : Packet} (h : s.mem.rangePoisoned a n = false) :
    s.fetchFrom p k (.ok (a, n)) = (s.dev.fetchTokens p a n).complete p k .ok 0 (s.mem.readBytes a n) := by
  simp [State.fetchFrom, h]

theorem fetchObject_completes {s : State} {p : Fin 16} {tag w h n off : Nat} {k : Packet} {o : Object}
    (hk : Arrived s p tag 0x12 k) (hl : fetchLegal k = true) (hw : w = leAt k.payload 0 64) (hh : h = field w 95 64)
    (hn : n = field w 127 96) (hoff : off = field w 191 128) (ht : s.dev.outboxTakes p n = true) (hb : bit w 0 = true)
    (ho : s.dev.object? p h = some o) (hr : o.releasing = false) (hend : off + n ≤ o.total) (hlost : o.lost = false)
    (hp : o.poisoned = false) :
    (o.stratus = true → CompletesTo (.fetch p tag) s (s.dev.waiting p k .fetchStratus)) ∧
    (o.stratus = false → bit w 1 = false →
      s.mem.rangePoisoned ((Space.stack o.stack).addr (o.base * 128 + off)) n = false →
      CompletesTo (.fetch p tag) s
        ((s.dev.fetchTokens p (stackAddr o.stack o.base + off) n).answered p k .ok 0
          (s.mem.readBytes ((Space.stack o.stack).addr (o.base * 128 + off)) n))) := by
  subst hw hh hn hoff
  have hexec : exec (.fetch p tag) s = s.done (s.fetchObject p k).eff := by
    refine congrArg s.done ?_
    rw [State.meet_nil, State.fetch_legal hk hl ht, if_pos hb]
  refine ⟨fun hs => completes_wait (hexec.trans ?_) hk.1, fun hs hrel hpois =>
    completes_ok (hexec.trans ?_) ((Dev.fetchTokens_raised ..).trans hk.1)⟩
  · simp [State.fetchObject, ho, hr, Nat.not_lt.mpr hend, hs, hlost, hp]
  · simp [State.fetchObject, ho, hr, Nat.not_lt.mpr hend, hs, hlost, hp, Mem.objectBytes, hpois, hrel, Dev.completeFetch]

theorem fetchTensor_completes {s : State} {p : Fin 16} {tag w n addr last : Nat} {k : Packet} {j : Job}
    (hk : Arrived s p tag 0x12 k) (hl : fetchLegal k = true) (hw : w = leAt k.payload 0 64)
    (ht : s.dev.outboxTakes p (field w 127 96) = true) (hb : bit w 0 = false) (hj : s.dev.liveJob k.job = some j)
    (hp : j.part = p) (hat : s.dev.fetchAt j k 0 = .ok (addr, n))
    (hlast : last = (if s.dev.tick.commitDone then s.dev.tick.tick else s.dev.tick.tick - 1)) :
    (field w 255 192 = 0 → s.mem.rangePoisoned addr n = false →
      CompletesTo (.fetch p tag) s ((s.dev.fetchTokens p addr n).answered p k .ok 0 (s.mem.readBytes addr n))) ∧
    (field w 255 192 ≠ 0 → last ≤ field w 255 192 →
      CompletesTo (.fetch p tag) s (s.dev.waiting p k (.fetchTick (field w 255 192)))) := by
  subst hw hlast
  have hexec : exec (.fetch p tag) s = s.done (s.fetchTensor p k).eff := by
    refine congrArg s.done ?_
    rw [State.meet_nil, State.fetch_legal hk hl ht, if_neg (by simp [hb])]
  refine ⟨fun h0 hpois => completes_ok (hexec.trans ?_) ((Dev.fetchTokens_raised ..).trans hk.1),
    fun h0 hle => completes_wait (hexec.trans ?_) hk.1⟩
  · simp [State.fetchTensor, Dev.jobFor_ok hj hp, hat, h0, State.fetchFrom_sound hpois]
  · simp [State.fetchTensor, Dev.jobFor_ok hj hp, hat, h0, Nat.not_lt.mpr hle]

theorem fetchCopy_completes {s : State} {p : Fin 16} {tag n addr tick : Nat} {w : Wait} {j : Job}
    (hr : s.dev.raised = []) (hw : s.dev.wait? p tag = some w) (hwhat : w.what = .fetchTick tick)
    (htick : tick < s.dev.tick.tick) (ho : s.dev.outboxTakes p (field (leAt w.pkt.payload 0 64) 127 96) = true)
    (hj : s.dev.liveJob w.pkt.job = some j)
    (hat : s.dev.fetchAt j w.pkt (if j.lastTick ≤ tick then 0 else 1) = .ok (addr, n))
    (hp : s.mem.rangePoisoned addr n = false) :
    CompletesTo (.fetchCopy p tag) s ((s.dev.fetchTokens p addr n).answered p w.pkt .ok 0 (s.mem.readBytes addr n)) := by
  refine completes_ok (congrArg (fun d : Dev => s.done d.eff) ?_) ((Dev.fetchTokens_raised ..).trans hr)
  simp [State.fetchCopy, hw, hwhat, Nat.not_le.mpr htick, ho, hj, hat, State.fetchFrom_sound hp]

/-- Settles O16: from an object, from a tensor, and from the buffer of the tick it waited for (R358). -/
theorem fetchCompletes : Obligations.FetchCompletes := by
  unfold Obligations.FetchCompletes
  exact ⟨fun _ _ _ _ _ _ _ _ _ => fetchObject_completes, fun _ _ _ _ _ _ _ _ _ => fetchTensor_completes,
    fun _ _ _ _ _ _ _ _ => fetchCopy_completes⟩

/-! ### FENCE -/

/-- The next state of an effect without causes or changes of the safety controller keeps the controller and the jobs. -/
theorem State.apply_calm {s : State} {e : Eff} (hr : e.dev.raised = []) (hs : e.safety = []) :
    (s.apply e).safety = s.safety ∧ (s.apply e).dev.jobs = e.dev.jobs := by
  refine ⟨?_, s.apply_jobs e hr⟩
  simp [hs, hr, Safety.take]

theorem Dev.job_of_live {d : Dev} {n : Nat} {j : Job} (h : d.liveJob n = some j) : d.job? n = some j := by
  unfold Dev.liveJob at h
  split at h
  · split at h
    · cases h
    · cases h; assumption
  · cases h

theorem Dev.liveJob_jobs {a b : Dev} (h : b.jobs = a.jobs) (n : Nat) : b.liveJob n = a.liveJob n := by
  simp [Dev.liveJob, Dev.job?, h]

/-- A job without a decided round that is aborted ends at once. -/
theorem Eff.abortJob_live {e : Eff} {n : Nat} {j : Job} (hj : e.dev.job? n = some j)
    (hd : ∀ r, j.round = some r → r.decided = false) : (e.abortJob n).dev.liveJob n = none := by
  have hnone : ((e.dev.job? n).bind Job.round).any Round.decided = false := by
    rw [hj, Option.bind_some]
    cases hr : j.round with
    | none => rfl
    | some r => exact hd r hr
  rw [Eff.abortJob, hnone, if_neg Bool.false_ne_true]
  exact e.endJob_live ..

theorem fence_completes {s : State} {p : Fin 16} {tag : Nat} {k : Packet} (h : Arrived s p tag 0x30 k) (h1 : k.arg1 = 0)
    (hp : k.payload = []) :
    (k.arg0 = 0 → CompletesTo (.fence p tag) s (s.dev.waiting p k .fence)) ∧
    (∀ j, k.arg0 = 1 → s.dev.liveJob k.job = some j → j.part = p → j.id = k.job →
      (∀ r, j.round = some r → r.decided = false) →
      ∃ t, exec (.fenceEndJob p tag) s = .next t ∧ t.dev.liveJob j.id = none ∧ t.safety = s.safety ∧
        t.pending = s.pending) := by
  refine ⟨fun h0 => completes_wait (congrArg s.done ?_) h.1, fun j h0 hj hpart hid hd => ?_⟩
  · unfold Dev.fence
    rw [startWith_some h]
    simp [h0, h1, hp, bit]
  · have hfence : s.dev.fence p tag true = (s.dev.wait p k .fence).eff.abortJob j.id := by
      unfold Dev.fence
      rw [startWith_some h]
      simp [h0, h1, hp, bit, Dev.jobFor_ok hj hpart]
    have hcalm := (s.dev.wait p k .fence).eff.abortJob_calm j.id
    obtain ⟨hsafety, hjobs⟩ := State.apply_calm (s := s) (hcalm.raised.trans h.1) hcalm.2
    refine ⟨_, congrArg s.done hfence, ?_, hsafety, rfl⟩
    rw [Dev.liveJob_jobs hjobs]
    exact Eff.abortJob_live (hid ▸ Dev.job_of_live hj) hd

theorem fenceComplete_completes {s : State} {p : Fin 16} {tag : Nat} {w : Wait} {fs : List PostFail} {d : Dev}
    (hr : s.dev.raised = []) (hw : s.dev.wait? p tag = some w) (hwhat : w.what = .fence)
    (hdue : ∀ f ∈ (s.dev.part p).flights, f.order < w.pkt.order → f.completed = true) (hposted : w.pkt.posted = false)
    (hfs : fs = (s.dev.part p).postFails.filter (fun f => decide (f.order < w.pkt.order)))
    (hd : d = s.dev.setPart p { s.dev.part p with
      postFails := (s.dev.part p).postFails.filter (fun f => !decide (f.order < w.pkt.order)), poisonedNames := [] }) :
    (fs = [] → CompletesTo (.fenceComplete p tag) s (d.answered p w.pkt .ok 0 [])) ∧
    (∀ f rest, fs = f :: rest →
      CompletesTo (.fenceComplete p tag) s (d.answered p w.pkt .postedWriteFailed 0
        (toLe 4 f.seq ++ toLe 4 (min fs.length (2 ^ 32 - 1)) ++ toLe 8 (f.code + if f.urgent then 2 ^ 8 else 0)))) := by
  subst hd
  have hready : (s.dev.part p).fenceDue w.pkt = true := by simpa [Part.fenceDue] using hdue
  refine ⟨fun hnil => completes_ok (congrArg (fun d : Dev => s.done d.eff) ?_) hr, fun f rest hcons =>
    completes_answer (congrArg (fun d : Dev => s.done d.eff) ?_) (by simp [hposted]) hr⟩
  · simp [Dev.fenceComplete, hw, hwhat, hready, ← hfs, hnil, Dev.modPart]
  · simp [Dev.fenceComplete, hw, hwhat, hready, ← hfs, hcons, Dev.modPart]

/-- Settles O17 (R361, R366). -/
theorem fenceCompletes : Obligations.FenceCompletes := by
  unfold Obligations.FenceCompletes
  exact ⟨fun _ _ _ _ => fence_completes, fun _ _ _ _ _ _ => fenceComplete_completes⟩

/-! ### OD_READ and OD_WRITE -/

/-- A read that clears nothing gives the bytes of one entry or of the whole object. -/
theorem State.readObject_plain {s : State} {who : Requester} {idx sub : Nat} (whole : Bool) (h : isAlias idx sub = false) :
    s.readObject who idx sub whole =
      (if whole = true ∨ sub = 0 then s.readWhole who idx else s.readEntry who idx sub, s.dev) := by
  by_cases hw : whole = true ∨ sub = 0
  · have hb : (whole || sub == 0) = true := by simpa using hw
    simp [State.readObject, hb, hw]
  · have hb : (whole || sub == 0) = false := by simpa using hw
    simp [State.readObject, hb, hw, h]

theorem odRead_completes {s : State} {p : Fin 16} {tag : Nat} {k : Packet} (h : Arrived s p tag 0x32 k)
    (h0 : k.arg0 < 2 ^ 25) (h1 : k.arg1 = 0) (hp : k.payload = [])
    (ha : isAlias (field k.arg0 15 0) (field k.arg0 23 16) = false) :
    CompletesTo (.odRead p tag) s (s.dev.answered p k .ok 0
      (if bit k.arg0 24 = true ∨ field k.arg0 23 16 = 0 then s.readWhole (.host p) (field k.arg0 15 0)
       else s.readEntry (.host p) (field k.arg0 15 0) (field k.arg0 23 16))) := by
  refine completes_ok (congrArg s.done ?_) h.1
  unfold State.odRead
  rw [startWith_some h]
  have hlow : ¬ 33554432 ≤ k.arg0 := Nat.not_le.mpr h0
  simp [hlow, h1, hp, State.readObject_plain _ ha]

theorem State.writeEntry_raised (s : State) (who : Requester) (w : Entry) : (s.writeEntry who w).1.dev.raised = [] := by
  unfold State.writeEntry
  dsimp only
  split <;> exact State.apply_raised _ _

theorem State.writeEntries_raised (who : Requester) : ∀ (l : List Entry) (s : State), s.dev.raised = [] →
    (s.writeEntries who l).1.dev.raised = []
  | [], _, h => h
  | w :: ws, s, _ => State.writeEntries_raised who ws _ (s.writeEntry_raised who w)

/-- Settles O18 (R363, R402). -/
theorem hostObjectCommandsComplete : Obligations.HostObjectCommandsComplete := by
  unfold Obligations.HostObjectCommandsComplete
  refine ⟨fun _ _ _ _ => odRead_completes, ?_⟩
  intro s p tag k es r h h0 h1 hes hr
  subst hr
  have hexec : s.odWrite p tag = (s.writeEntries (.host p) es).1.withDev
      ((s.writeEntries (.host p) es).1.dev.answered p k .ok 0 (reportBytes es (s.writeEntries (.host p) es).2)) := by
    rw [← Dev.complete_eq _ _ _ _ _ _ (fun _ => rfl)]
    simp [State.odWrite, h.2, h0, h1, hes]
  exact ⟨_, congrArg Host.Outcome.next hexec, becomes_apply _ (Dev.eff _) (State.writeEntries_raised _ _ _ h.1) rfl rfl⟩

end Sys2Proof.Machine
end

section
/-!
Commands on recurrent streams: STREAM_OPEN and STREAM_RESTORE (O19), STREAM_SAVE (O20) and STREAM_END (O21).
-/

namespace Sys2Proof.Machine

open Sys2Proof.Safety

/-! ### STREAM_OPEN and STREAM_RESTORE -/

/-- Settles O19: both wait for a boundary once their checks pass (R180, R189). -/
theorem streamOpenAndRestoreWait : Obligations.StreamOpenAndRestoreWait := by
  unfold Obligations.StreamOpenAndRestoreWait
  intro s p tag k j hj hp
  refine ⟨fun handle seed n h hstate hfields => completes_wait (congrArg s.done ?_) h.1,
    fun h h0 h1 hpay hentry => completes_wait (congrArg s.done ?_) h.1⟩
  · unfold Dev.streamOpen
    rw [startWith_some h]
    simp [Dev.jobFor_ok hj hp, hfields, hstate]
  · have hnone : (s.dev.hostEntry k.job k.arg0).isNone = false := by simpa using hentry
    have hlow0 : ¬ 4294967296 ≤ k.arg0 := Nat.not_le.mpr h0
    have hlow1 : ¬ 4294967296 ≤ k.arg1 := Nat.not_le.mpr h1
    unfold Dev.streamRestore
    rw [startWith_some h]
    simp [Dev.jobFor_ok hj hp, hlow0, hlow1, hpay, hnone]

/-! ### What completions leave of a partition's chunks -/

/-- Every partition has the chunks it had. -/
def Dev.ChunksKept (d d' : Dev) : Prop := ∀ q, (d'.part q).chunks = (d.part q).chunks

theorem Dev.ChunksKept.refl (d : Dev) : d.ChunksKept d := fun _ => rfl

theorem Dev.ChunksKept.trans {a b c : Dev} (h : a.ChunksKept b) (g : b.ChunksKept c) : a.ChunksKept c :=
  fun q => (g q).trans (h q)

theorem Dev.ChunksKept.fold {α : Type} {f : Dev → α → Dev} (h : ∀ d x, Dev.ChunksKept d (f d x)) :
    ∀ (l : List α) (d : Dev), d.ChunksKept (l.foldl f d)
  | [], d => Dev.ChunksKept.refl d
  | x :: xs, d => (h d x).trans (Dev.ChunksKept.fold h xs (f d x))

theorem Dev.ChunksKept.modPart (d : Dev) (p : Nat) (f : Part → Part) (h : ∀ x, (f x).chunks = x.chunks) :
    d.ChunksKept (d.modPart p f) := by
  intro q
  rw [Dev.part_modPart]
  split
  · exact h _
  · rfl

theorem NoticesOnly.chunks {a b : Dev} (h : NoticesOnly a b) : a.ChunksKept b := fun q => (congrArg Part.chunks (h.part q) :)

theorem Dev.ChunksKept.parts {d d' : Dev} (h : d'.parts = d.parts) : d.ChunksKept d' := fun q => by
  simp [Dev.part, h]

theorem Dev.poisonObject_chunks (d : Dev) (h : Nat) : d.ChunksKept (d.poisonObject h) := Dev.ChunksKept.parts rfl

theorem Dev.failPosted_chunks (d : Dev) (p : Nat) (k : Packet) (c : Code) : d.ChunksKept (d.failPosted p k c) := by
  unfold Dev.failPosted
  refine (d.notify_only (some p) [p] (.postedFail k.seq k.opcode c.toNat k.urgent)).chunks.trans ?_
  generalize d.notify (some p) [p] (.postedFail k.seq k.opcode c.toNat k.urgent) = d1
  dsimp only
  split
  · refine Dev.ChunksKept.trans ?_ (Dev.poisonObject_chunks _ _)
    exact Dev.ChunksKept.modPart _ _ _ (fun _ => rfl)
  · exact Dev.ChunksKept.modPart _ _ _ (fun _ => rfl)

theorem Dev.complete_chunks (d : Dev) (p : Nat) (k : Packet) (c : Code) (info : Nat) (bs : Bytes) :
    d.ChunksKept (d.complete p k c info bs) := by
  have hdrop : d.ChunksKept ((d.dropPacket p k.tag).dropWait p k.tag) :=
    Dev.ChunksKept.trans (b := d.dropPacket p k.tag) (Dev.ChunksKept.modPart d p _ (fun _ => rfl))
      (Dev.ChunksKept.modPart _ p _ (fun _ => rfl))
  unfold Dev.complete
  refine hdrop.trans ?_
  generalize (d.dropPacket p k.tag).dropWait p k.tag = d1
  dsimp only
  split
  · refine Dev.ChunksKept.trans ?_ (Dev.ChunksKept.modPart _ _ _ (fun _ => rfl))
    split
    · exact Dev.ChunksKept.refl _
    · exact d1.failPosted_chunks _ _ _
  · refine Dev.ChunksKept.trans (Dev.ChunksKept.fold (fun d x => ?_) _ d1) (Dev.ChunksKept.modPart _ _ _ (fun _ => rfl))
    exact Dev.ChunksKept.modPart _ _ _ (fun _ => rfl)

theorem Dev.completeTag_chunks (d : Dev) (p tag : Nat) (c : Code) (info : Nat) (bs : Bytes) :
    d.ChunksKept (d.completeTag p tag c info bs) := by
  unfold Dev.completeTag
  split
  · exact d.complete_chunks _ _ _ _ _
  · split
    · exact d.complete_chunks _ _ _ _ _
    · exact Dev.ChunksKept.refl _

/-- The chunks that a test does not end stay. -/
theorem Dev.endChunks_rest (d : Dev) (p : Nat) (which : Chunk → Bool) (c : Code) :
    ((d.endChunks p which c).part p).chunks = (d.part p).chunks.filter (fun k => !which k) := by
  unfold Dev.endChunks
  refine (Dev.ChunksKept.fold (fun d k => d.completeTag_chunks _ _ _ _ _) _ _ p).trans ?_
  rw [Dev.part_modPart_same]

/-! ### STREAM_SAVE -/

@[simp] theorem Dev.stream?_setStream (d : Dev) (n : Nat) (x : StreamEntry) : (d.setStream n x).stream? n = some x := by
  simp [Dev.setStream, Dev.stream?]

theorem Dev.stream?_of {a b : Dev} (h : b.streams = a.streams) (n : Nat) : b.stream? n = a.stream? n := by
  simp [Dev.stream?, h]

/-- A save with room marks its entry and waits; with DETACH it ends the entry and the chunks no step of the round takes. -/
theorem Dev.streamSave_some {s : State} {p : Fin 16} {tag n : Nat} {k : Packet} {j : Job} {x : StreamEntry} {detach : Bool}
    (h : Arrived s p tag 0x23 k) (hj : s.dev.liveJob k.job = some j) (hp : j.part = p) (h0 : k.arg0 < 2 ^ 32)
    (hpay : k.payload = []) (hx : s.dev.saveEntry k = some (n, x))
    (hroom : alignUp (savedBytes j.prog) 4096 ≤ s.dev.savedRoom p) (ht : s.dev.stratus.state ≠ 2)
    (hd : bit k.arg1 1 = detach) (h4 : k.arg1 / 4 = 0) (hh : (detach && bit k.arg1 0) = false) :
    s.dev.streamSave p tag detach =
      let d1 := (s.dev.setStream n { x with
        savePend := true, detach := x.detach || detach, ended := x.ended || detach }).wait p k (.save n none)
      if !detach then d1.eff
      else
        let d2 := (d1.endChunks p (fun c => c.job == k.job && c.stream == k.arg0 &&
          !j.round.any (fun r => r.chunks.any (fun y => y.tag == c.tag && y.used != 0))) .streamDetached).countQueue n
        (((d2.part p).inbox.filter (fun q => q.opcode == 0x22 && q.checked && (q.job == k.job && q.arg0 == k.arg0))).foldl
          (fun acc q => acc.complete p q .streamDetached) d2).eff := by
  have hlow : ¬ 4294967296 ≤ k.arg0 := Nat.not_le.mpr h0
  unfold Dev.streamSave
  rw [startWith_some h]
  simp only [hd, bne_self_eq_false, Dev.jobFor_ok hj hp, h4, hlow, hpay, hh, List.isEmpty_nil, Bool.not_true,
    Nat.reducePow, decide_false, Bool.or_self, Bool.false_eq_true, if_false, hx, Nat.not_lt.mpr hroom, ht]

theorem streamSave_completes {s : State} {p : Fin 16} {tag n q : Nat} {k : Packet} {j : Job} {x : StreamEntry}
    (h : Arrived s p tag 0x23 k) (hj : s.dev.liveJob k.job = some j) (hp : j.part = p) (h0 : k.arg0 < 2 ^ 32)
    (hpay : k.payload = []) (hx : s.dev.saveEntry k = some (n, x))
    (hroom : alignUp (savedBytes j.prog) 4096 ≤ s.dev.savedRoom p) (ht : s.dev.stratus.state ≠ 2) :
    (k.arg1 < 2 →
      CompletesTo (.streamSave p tag) s
        ((s.dev.setStream n { x with savePend := true }).waiting p k (.save n none))) ∧
    (k.arg1 = 2 → x.part = p →
      q = ((s.dev.part p).chunks.filter (fun c => c.job == k.job && c.stream == k.arg0 &&
        j.round.any (fun r => r.chunks.any (fun y => y.tag == c.tag && y.used != 0)))).length →
      ∃ t, exec (.streamSaveDetach p tag) s = .next t ∧ t.mem = s.mem ∧ t.pending = s.pending ∧
        t.dev.stream? n = some { x with savePend := true, detach := true, ended := true, qLen := q }) := by
  refine ⟨fun h1 => completes_wait (congrArg s.done ?_) h.1, fun h1 hpart hq => ?_⟩
  · have hbit : bit k.arg1 1 = false := bit_false_of (by omega)
    rw [Dev.streamSave_some h hj hp h0 hpay hx hroom ht hbit (by omega) rfl]
    simp
  · have hsave := Dev.streamSave_some (detach := true) h hj hp h0 hpay hx hroom ht (by rw [h1]; rfl) (by rw [h1])
      (by rw [h1]; rfl)
    have hname : x.job = k.job ∧ x.id = k.arg0 := by
      have hfound := hx
      rw [Dev.saveEntry, h1, if_neg (by decide)] at hfound
      have hpred := List.find?_some hfound
      simp only [Bool.and_eq_true, beq_iff_eq] at hpred
      exact hpred.1
    have hcounts : ∀ d : Dev, d.streams = tset s.dev.streams n { x with savePend := true, detach := true, ended := true } →
        (d.part p).chunks = (s.dev.part p).chunks.filter (fun c => !(c.job == k.job && c.stream == k.arg0 &&
          !j.round.any (fun r => r.chunks.any (fun y => y.tag == c.tag && y.used != 0)))) →
        (d.countQueue n).stream? n = some { x with savePend := true, detach := true, ended := true, qLen := q } := by
      intro d hs hc
      have hget : d.stream? n = some { x with savePend := true, detach := true, ended := true } := by
        rw [Dev.stream?, hs, tget_tset_same]
      rw [Dev.countQueue, hget]
      simp only [Dev.stream?_setStream, hpart, hc, hname.1, hname.2, List.filter_filter, hq]
      congr 4
      funext c
      cases c.job == k.job <;> cases c.stream == k.arg0 <;> simp
    refine ⟨_, congrArg s.done hsave, ?_, rfl, ?_⟩
    · rfl
    · rw [stream_apply]
      simp only [Bool.or_true, Bool.not_true, Bool.false_eq_true, if_false, Dev.eff]
      rw [Dev.stream?_of (foldl_streams (fun d q => complete_streams ..) _ _)]
      refine hcounts _ ?_ ?_
      · rw [endChunks_streams, Dev.wait_eq]
        rfl
      · rw [Dev.endChunks_rest, Dev.wait_eq, Dev.waiting, Dev.part_setPart_same]
        rfl

/-! ### The end of a captured save -/

/-- No write waits while no bounded read is outstanding and no SPARE write is held back (R320, R324). -/
theorem Dev.writeWaits_free {d : Dev} (p : Nat) (hb : d.boundedReads = false) (hs : d.stratus.spareHeld = false) :
    d.writeWaits p = (false, d) := by
  simp [Dev.writeWaits, Dev.writeSuspended, hb, hs]

theorem Dev.lifeMarks_raised (d : Dev) : d.lifeMarks.raised = d.raised := by
  unfold Dev.lifeMarks
  dsimp only
  generalize (if 10000 ≤ d.stratus.life then 2 else if 8000 ≤ d.stratus.life then 1 else 0) = mark
  split
  · exact Dev.notify_raised ..
  · rfl

theorem Dev.countSpare_raised (d : Dev) : d.countSpare.raised = d.raised := by
  unfold Dev.countSpare
  refine (foldl_raised (fun d x => ?_) _ _).trans rfl
  split
  · exact Dev.still_raised (Dev.modJob_still' ..)
  · rfl

theorem Dev.spareMarks_raised (d : Dev) : d.spareMarks.raised = d.raised := by
  unfold Dev.spareMarks
  split
  · split
    · exact d.countSpare_raised
    · rfl
  · split <;> rfl

theorem Dev.wroteUnits_raised (d : Dev) (n : Nat) : (d.wroteUnits n).raised = d.raised :=
  (Dev.spareMarks_raised _).trans (Dev.lifeMarks_raised _)

/-- A stream that is not on its way in or out stops no save of it. -/
theorem any_moving {o : Option StreamEntry} (h : ∀ x, o = some x → x.loc ≠ .evicting ∧ x.loc ≠ .recalling) :
    o.any (fun e => decide (e.loc = .evicting) || decide (e.loc = .recalling)) = false := by
  cases o with
  | none => rfl
  | some x => simpa using h x rfl

theorem streamSaveComplete_completes {s : State} {p : Fin 16} {tag n : Nat} {w : Wait} {bs : Bytes}
    (hr : s.dev.raised = []) (hw : s.dev.wait? p tag = some w) (hwhat : w.what = .save n (some bs))
    (hposted : w.pkt.posted = false)
    (hmove : ∀ x, s.dev.stream? n = some x → x.loc ≠ .evicting ∧ x.loc ≠ .recalling) :
    (s.dev.stratus.state = 2 →
      CompletesTo (.streamSaveComplete p tag) s
        ((match s.dev.stream? n with
          | some x => s.dev.setStream n { x with detach := x.detach && !bit w.pkt.arg1 1 }
          | none => s.dev).answered p w.pkt .tierFailed 0 [])) ∧
    (∀ loc u d d1 e, s.dev.stratus.state ≠ 2 → s.dev.boundedReads = false → s.dev.stratus.spareHeld = false →
      s.dev.takeStratus (ceilDiv bs.length 4096) p = some (loc, u) → d = u.wroteUnits (ceilDiv bs.length 4096) →
      d1 = ({ d.setPart p { d.part p with nextHandle := (d.part p).nextHandle + 1 } with
        objects := tset d.objects (p * 2 ^ 32 + (d.part p).nextHandle)
          { part := p, stratus := true, stack := 0, base := loc, total := bs.length, saved := true } } : Dev) →
      e = (d1.answered p w.pkt .ok (d.part p).nextHandle []).eff.ops [.write (Space.stratus.addr (loc * 4096)) bs] →
      CompletesWith (.streamSaveComplete p tag) s (if bit w.pkt.arg1 1 then e.freeStream n else e).dev
        (if bit w.pkt.arg1 1 then e.freeStream n else e).mem) ∧
    (s.dev.stratus.state ≠ 2 → s.dev.boundedReads = false → s.dev.stratus.spareHeld = false →
      s.dev.takeStratus (ceilDiv bs.length 4096) p = none →
      CompletesTo (.streamSaveComplete p tag) s
        ((match s.dev.stream? n with
          | some x => s.dev.setStream n { x with detach := x.detach && !bit w.pkt.arg1 1 }
          | none => s.dev).answered p w.pkt .noRoom 0 [])) := by
  have hstill := any_moving hmove
  refine ⟨fun ht => ?_, fun loc u d d1 e ht hb hs htake hd hd1 he => ?_, fun ht hb hs htake => ?_⟩
  · refine completes_answer (congrArg s.done ?_) (by simp [hposted]) ?_
    · simp only [Dev.saveComplete, hw, hwhat, hstill, Bool.false_eq_true, if_false, ht, if_true] <;> rfl
    · split <;> exact hr
  · have hexec : exec (.streamSaveComplete p tag) s = s.done (if bit w.pkt.arg1 1 then e.freeStream n else e) := by
      refine congrArg s.done ?_
      rw [he, hd1, ← Dev.complete_eq _ _ _ _ _ _ (fun _ => rfl), hd]
      simp only [Dev.saveComplete, hw, hwhat, hstill, Bool.false_eq_true, if_false, ht, Dev.writeWaits_free p hb hs, htake]
      rfl
    have hcalm : e.Calm (if bit w.pkt.arg1 1 then e.freeStream n else e) := by
      split
      · exact e.freeStream_calm n
      · exact Eff.Calm.refl e
    have hraised : e.dev.raised = [] := by
      rw [he, hd1, hd]
      exact (Dev.wroteUnits_raised ..).trans ((takeStratus_raised htake).trans hr)
    exact completes_ops _ hexec (hcalm.2.trans (by rw [he]; rfl)) (hcalm.raised.trans hraised)
  · refine completes_answer (congrArg s.done ?_) (by simp [hposted]) ?_
    · simp only [Dev.saveComplete, hw, hwhat, hstill, Bool.false_eq_true, if_false, ht, Dev.writeWaits_free p hb hs,
        htake] <;> rfl
    · split <;> exact hr

/-- Settles O20 (R186 to R188). -/
theorem streamSaveCompletes : Obligations.StreamSaveCompletes := by
  unfold Obligations.StreamSaveCompletes
  exact ⟨fun _ _ _ _ _ _ _ _ => streamSave_completes, fun _ _ _ _ _ _ => streamSaveComplete_completes⟩

/-! ### STREAM_END -/

/-- Settles O21: the entry is waited for, and with IMMEDIATE ended (R185). -/
theorem streamEndCompletes : Obligations.StreamEndCompletes := by
  unfold Obligations.StreamEndCompletes
  intro s p tag k j n x h hj hp h0 hpay hx
  have hlow : ¬ 4294967296 ≤ k.arg0 := Nat.not_le.mpr h0
  have hend (b : Bool) (hb : bit k.arg1 0 = b) (h2 : k.arg1 / 2 = 0) : s.dev.streamEnd p tag b =
      if !b then (s.dev.wait p k (.entry n)).eff
      else (((s.dev.wait p k (.entry n)).endChunks p (fun c => c.job == k.job && c.stream == k.arg0) .aborted).setStream n
        { x with ended := true, qLen := 0 }).eff := by
    unfold Dev.streamEnd
    rw [startWith_some h]
    simp only [hb, bne_self_eq_false, Dev.jobFor_ok hj hp, hx, h2, Nat.reducePow, hlow, hpay, List.isEmpty_nil, Bool.not_true,
      decide_false, Bool.or_self, Bool.false_eq_true, if_false]
  refine ⟨fun h1 => completes_wait (congrArg s.done ?_) h.1, fun h1 => ?_⟩
  · exact hend false (by rw [h1]; rfl) (by rw [h1])
  · refine ⟨_, congrArg s.done (hend true (by rw [h1]; rfl) (by rw [h1])), rfl, rfl, ?_⟩
    rw [stream_apply]
    exact Dev.stream?_setStream ..

end Sys2Proof.Machine
end

section
/-!
Rings and the flare door: a packet fetched (O22), a response written (O23), doorbells (O24), ring blocks (O25) and
stop actions (O26).
-/

namespace Sys2Proof.Machine

open Sys2Proof.Safety

/-! ### A packet fetched -/

/-- A whole packet with a legal LEN and a good CRC, for which the inbox has room, uses the turn and is taken. -/
theorem Dev.packetFetch_whole {d : Dev} {p : Nat} {urgent : Bool} {bs : Bytes} (hm : d.mayFetch p urgent = true)
    (hlegal : lenLegal urgent (leAt bs 24 4) = true) (hlen : bs.length = 64 + leAt bs 24 4)
    (hcrc : packetCrcOk bs = true) (hroom : 64 + leAt bs 24 4 ≤ d.inboxFree p urgent) :
    d.packetFetch p urgent (.packet bs) = (d.serve p).takePacket p urgent bs := by
  unfold Dev.packetFetch
  simp [hm, hlegal, hlen, hcrc, Nat.not_lt.mpr hroom]

/-- The device once a packet has moved its ring's HEAD and the expected SEQ, and its header has been copied. -/
def Dev.pastPacket (d : Dev) (p : Nat) (urgent : Bool) (bs : Bytes) (k : Packet) : Dev :=
  (({ d with arrivals := d.arrivals + 1 } : Dev).setPart p
    (({ (d.part p).setCmdRing urgent { (d.part p).cmdRing urgent with
          head := (((d.part p).cmdRing urgent).head + 1 + k.len / 64) % 2 ^ 32 } with
        expectSeq := (d.part p).expectSeq.set (if urgent then 1 else 0) (some ((k.seq + 1) % 2 ^ 32)) } :
      Part).writeHead urgent)).copyHeader p (bs.take 64)

theorem Dev.takePacket_eq (d : Dev) (p : Nat) (urgent : Bool) (bs : Bytes) {k : Packet}
    (hk : k = Packet.of bs urgent d.now d.arrivals) :
    d.takePacket p urgent bs =
      match d.packetCheck p bs k with
      | some (c, info) => (d.pastPacket p urgent bs k).refusePacket p k c info
      | none => (d.pastPacket p urgent bs k).modPart p (fun x =>
          { x with
            inbox := x.inbox ++ [k]
            flights := x.flights ++
              [{ tag := k.tag, seq := k.seq, opcode := k.opcode, urgent := urgent, posted := k.posted, job := k.job
                 order := k.order }] }) := by
  subst hk
  cases urgent <;> rfl

theorem Dev.pastPacket_raised (d : Dev) (p : Nat) (urgent : Bool) (bs : Bytes) (k : Packet) :
    (d.pastPacket p urgent bs k).raised = d.raised := copyHeader_raised ..

theorem Dev.pastPacket_tick (d : Dev) (p : Nat) (urgent : Bool) (bs : Bytes) (k : Packet) :
    (d.pastPacket p urgent bs k).tick = d.tick := copyHeader_tick ..

/-- A halted ring keeps all of its function but the ring's mark, the one response, and what vector 2 changes. -/
theorem Dev.haltRing_part (d : Dev) (p : Nat) (urgent : Bool) (cause : Nat) (header : Bytes) :
    ((d.haltRing p urgent cause header).part p).cmdRing urgent =
        { (d.part p).cmdRing urgent with halted := true, cause := cause } ∧
      ((d.haltRing p urgent cause header).part p).inbox = (d.part p).inbox ∧
      ((d.haltRing p urgent cause header).part p).outbox = (d.part p).outbox ++
        [{ code := Code.rejectedFormat.toNat, opcode := field (leAt header 0 64) 7 0, part := p
           seq := field (leAt header 0 64) 63 32, tag := field (leAt header 0 64) 80 64, tick := d.tick.tick
           accepted := false }] := by
  unfold Dev.haltRing
  obtain ⟨a, b, h⟩ := vector_same ((d.modPart p (fun x =>
      x.setCmdRing urgent { x.cmdRing urgent with halted := true, cause := cause })).emit p
    { code := Code.rejectedFormat.toNat, opcode := field (leAt header 0 64) 7 0, part := p
      seq := field (leAt header 0 64) 63 32, tag := field (leAt header 0 64) 80 64, tick := d.tick.tick
      accepted := false }) p 2
  dsimp only
  rw [h]
  simp only [Dev.emit, Dev.part_modPart_same]
  cases urgent <;> exact ⟨rfl, rfl, rfl⟩

theorem State.apply_cmdRing (s : State) (e : Eff) (p : Nat) (urgent : Bool) :
    ((s.apply e).dev.part p).cmdRing urgent = (e.dev.part p).cmdRing urgent := by
  cases urgent <;> simp [Part.cmdRing]

/-- Settles O22: a whole packet is taken and then judged, a failed read halts the ring (R343, R346). -/
theorem packetFetchCompletes : Obligations.PacketFetchCompletes := by
  unfold Obligations.PacketFetchCompletes
  intro s p urgent hr hm
  refine ⟨fun bs len k d hl hlegal hlen hcrc hroom hk hd => ?_, fun header => ?_⟩
  · subst hl
    have hfetch : s.dev.packetFetch p urgent (.packet bs) = (s.dev.serve p).takePacket p urgent bs :=
      Dev.packetFetch_whole hm hlegal hlen hcrc hroom
    have htake := (s.dev.serve p).takePacket_eq p urgent bs hk
    have hpast : (s.dev.serve p).pastPacket p urgent bs k = d := hd.symm
    have hcheck : (s.dev.serve p).packetCheck p bs k = s.dev.packetCheck p bs k := rfl
    have hraised : d.raised = [] := (hpast ▸ Dev.pastPacket_raised ..).trans hr
    have htick : d.tick = s.dev.tick := hpast ▸ Dev.pastPacket_tick ..
    rw [hcheck, hpast] at htake
    refine ⟨fun hnone => completes_done (e := (s.dev.packetFetch p urgent (.packet bs)).eff) rfl ?_ hraised,
      fun c info hsome hposted =>
        completes_done (e := (s.dev.packetFetch p urgent (.packet bs)).eff) rfl ?_ hraised⟩
    · rw [hfetch, htake, hnone]
      rfl
    · rw [hfetch, htake, hsome]
      simp [Dev.refusePacket, hposted, Dev.emit, Dev.modPart_eq, htick]
  · have hfetch : s.dev.packetFetch p urgent (.readError header) = (s.dev.serve p).haltRing p urgent 3 header := by
      simp [Dev.packetFetch, hm]
    refine ⟨s.apply ((s.dev.serve p).haltRing p urgent 3 header).eff, by rw [← hfetch]; rfl, by simp [Dev.eff], ?_⟩
    rw [State.apply_cmdRing, State.apply_part_inbox, State.apply_part_outbox]
    exact (s.dev.serve p).haltRing_part p urgent 3 header

/-! ### A response written -/

/-- Settles O23: the response goes to the ring, and vector 0 leaves the rings alone (R344, R348). -/
theorem responseWriteCompletes : Obligations.ResponseWriteCompletes := by
  unfold Obligations.ResponseWriteCompletes
  intro s p r rest _ hm ho he hf hrel
  obtain ⟨d1, _, hpart, heq⟩ := Dev.responseWrite_fits rfl hm ho he hrel hf
  obtain ⟨_, _, _, _, hp⟩ := raiseRsp_part d1 p
  refine ⟨s.apply (d1.raiseRsp p).eff, by rw [← heq]; rfl, by simp [Dev.eff], ?_⟩
  rw [State.apply_part_outbox, State.apply_part_rsp, State.apply_part_rspWritten, State.apply_part_flights, Dev.eff,
    hp, hpart]
  exact ⟨rfl, rfl, rfl, rfl⟩

/-! ### Doorbells -/

/-- A doorbell as a choice of the partition's next value. -/
theorem Dev.doorbell_eq (d : Dev) (p n cap : Nat) (f : Part → Part) :
    (if cap < n then d.ignoreDoorbell p else d.modPart p f) =
      d.setPart p (if n ≤ cap then f (d.part p)
        else { d.part p with doorbellsIgnored := ((d.part p).doorbellsIgnored + 1) % 2 ^ 32 }) := by
  by_cases h : n ≤ cap
  · rw [if_neg (Nat.not_lt.mpr h), if_pos h, Dev.modPart_eq]
  · rw [if_pos (Nat.not_le.mp h), if_neg h, Dev.ignoreDoorbell, Dev.modPart_eq]

/-- Settles O24: each of the four doorbells is such a choice (R338). -/
theorem doorbellsComplete : Obligations.DoorbellsComplete := by
  unfold Obligations.DoorbellsComplete
  intro s p v x ignored hr hreach hx hi
  subst hx hi
  have taken {c : Instr} {d : Dev} {y : Part} (hc : exec c s = s.done (if s.dev.reach p then d else s.dev).eff)
      (hd : d = s.dev.setPart p y) : CompletesTo c s (s.dev.setPart p y) :=
    completes_done hc (by rw [if_pos hreach, hd]) hr
  exact ⟨taken rfl (Dev.doorbell_eq ..), taken rfl (Dev.doorbell_eq ..), taken rfl (Dev.doorbell_eq ..),
    taken rfl (Dev.doorbell_eq ..)⟩

/-! ### Ring blocks and registers -/

theorem Part.enableRing_in {x : Part} {ring : RingSel} (h1 : (ringSizes ring).1 ≤ (x.ring ring).log2)
    (h2 : (x.ring ring).log2 ≤ (ringSizes ring).2) :
    (x.enableRing ring).ring ring =
        { x.ring ring with enable := true, halted := false, cause := 0, head := 0, tail := 0 } ∧
      (ring = .normal → (x.enableRing ring).cmdTail = 0 ∧
        (x.enableRing ring).expectSeq = x.expectSeq.set 0 (some x.normal.seq0)) ∧
      (ring = .urgent → (x.enableRing ring).urgTail = 0 ∧
        (x.enableRing ring).expectSeq = x.expectSeq.set 1 (some x.urgent.seq0)) ∧
      (ring = .response → (x.enableRing ring).rspHead = 0) ∧ (ring = .notice → (x.enableRing ring).ntcHead = 0) := by
  have hin : ¬ ((x.ring ring).log2 < (ringSizes ring).1 ∨ (ringSizes ring).2 < (x.ring ring).log2) :=
    not_or.mpr ⟨Nat.not_lt.mpr h1, Nat.not_lt.mpr h2⟩
  unfold Part.enableRing
  simp only [decide_eq_true_eq, Bool.or_eq_true, if_neg hin]
  cases ring <;> simp [Part.ring, Part.setRing]

theorem Part.enableRing_out {x : Part} {ring : RingSel}
    (h : (x.ring ring).log2 < (ringSizes ring).1 ∨ (ringSizes ring).2 < (x.ring ring).log2) :
    x.enableRing ring = x := if_pos (by simpa using h)

theorem State.apply_ring (s : State) (e : Eff) (p : Nat) (ring : RingSel) :
    ((s.apply e).dev.part p).ring ring = (e.dev.part p).ring ring := by
  cases ring <;> simp [Part.ring]

/-- A register of a reached function written at its width goes through the table of registers. -/
theorem completes_register {s : State} {p : Fin 16} {off width v : Nat} {y : Part} (hr : s.dev.raised = [])
    (hoff : off ≠ 0x1000) (h : s.dev.registerWrite p off width v = s.dev.setPart p y) :
    CompletesTo (.registerWrite p off width v) s (s.dev.setPart p y) :=
  completes_done (e := s.dev.barWrite p off width v) rfl (by rw [Dev.barWrite, if_neg hoff, h]) hr

/-- Settles O25: a ring block changes only as its ENABLE allows (R336, R337). -/
theorem ringBlocksComplete : Obligations.RingBlocksComplete := by
  unfold Obligations.RingBlocksComplete
  intro s p ring x hr hreach hx
  subst hx
  have taken {c : Instr} {f : Part → Part}
      (hc : exec c s = s.done (if s.dev.reach p then s.dev.modPart p f else s.dev).eff) :
      CompletesTo c s (s.dev.setPart p (f (s.dev.part p))) := completes_done hc (by rw [if_pos hreach]; rfl) hr
  refine ⟨fun h1 h2 => ?_, fun h => ?_, taken (f := fun x => x.disableRing ring) rfl,
    taken (f := fun x => { x with releasePending := true }) rfl, fun v => ?_, fun v => ?_, fun v => ?_⟩
  · refine ⟨s.apply (s.dev.modPart p (fun x => x.enableRing ring)).eff, congrArg (fun d : Dev => s.done d.eff)
      (if_pos hreach), by simp [Dev.eff], ?_⟩
    rw [State.apply_ring, State.apply_part_cmdTail, State.apply_part_urgTail, State.apply_part_rspHead,
      State.apply_part_ntcHead, State.apply_part_expectSeq]
    simp only [Dev.eff, Dev.part_modPart_same]
    exact Part.enableRing_in h1 h2
  · have hsame := taken (c := .ringEnable p ring) (f := fun x => x.enableRing ring) rfl
    rwa [Part.enableRing_out h] at hsame
  · refine completes_register hr (by decide) ?_
    simp [Dev.registerWrite, hreach, registerWidth, ringAt, subIn, Dev.modPart_eq]
  · refine completes_register hr (by decide) ?_
    simp [Dev.registerWrite, hreach, registerWidth, Dev.modPart_eq]
  · refine completes_register hr (by decide) ?_
    have hwrite : s.dev.registerWrite p 0x0100 64 v = s.dev.setPart p
        ((s.dev.part p).setRing .normal ((s.dev.part p).normal.setField .normal 0 v)) := by
      simp [Dev.registerWrite, hreach, registerWidth, ringAt, subIn, Dev.modPart_eq, Part.ring]
    rw [hwrite, Ring.setField]
    split <;> rfl

/-! ### The flare door -/

/-- A write with the ARM word that meets an earlier batch waits in the function's buffer while that has room. -/
theorem Dev.flareWrite_busy {d : Dev} {p action job : Nat} {w : FlareWrite} (hreach : d.reach p = true)
    (hwidth : w.width = 64) (harm : w.arm = 0x464C4152) (hbusy : w.pairBusy = true) (h0 : 0 < action)
    (h3 : action ≤ 3) (hroom : (d.part p).flareBuffer.length < 4) :
    d.flareWrite p action job w = (({ d with arrivals := d.arrivals + 1 } : Dev).setPart p { d.part p with
      flareBuffer := (d.part p).flareBuffer ++ [{ action := action, job := job, order := d.arrivals }] }).eff := by
  have hlegal : (w.width != 64 || w.arm != 0x464C4152 || action == 0 || decide (3 < action)) = false := by
    simp [hwidth, harm]
    omega
  rw [Dev.flareWrite, if_neg (by simp [hreach]), if_neg (by simp [hlegal]), if_pos hbusy, Dev.modPart_eq]
  exact congrArg (fun x => (Dev.setPart _ p x).eff) (if_pos hroom)

/-- A write without the ARM word or of another width is ignored and counted. -/
theorem Dev.flareWrite_ignored {d : Dev} {p action job : Nat} {w : FlareWrite} (hreach : d.reach p = true)
    (h : w.width ≠ 64 ∨ w.arm ≠ 0x464C4152) :
    d.flareWrite p action job w =
      (d.setPart p { d.part p with flareIgnored := ((d.part p).flareIgnored + 1) % 65536 }).eff := by
  have hbad : (w.width != 64 || w.arm != 0x464C4152) = true := by simpa using h
  rw [Dev.flareWrite, if_neg (by simp [hreach]), if_pos (by simp [hbad])]
  rfl

theorem Part.skipRings_rings (x : Part) :
    x.skipRings.normal.head = x.cmdTail ∧ x.skipRings.urgent.head = x.urgTail ∧
      x.skipRings.expectSeq = [none, none] := by
  unfold Part.skipRings Part.writeHead
  dsimp only
  repeat' split
  all_goals exact ⟨rfl, rfl, rfl⟩

/-- DROP_QUEUE skips the rings last, and what it does before keeps the core of the function. -/
theorem Dev.dropQueue_skips (d : Dev) (p : Nat) :
    ∃ d1 : Dev, d.CoreKept d1 ∧ d.dropQueue p = d1.modPart p Part.skipRings := by
  unfold Dev.dropQueue
  extract_lets tags d1 d2 d3
  have h1 : d.CoreKept d1 := Dev.completeTags_core _ _ _ _ _ d
  have h2 : d1.CoreKept d2 := d1.endChunks_core _ _ _
  have h3 : d2.CoreKept d3 := Dev.CoreKept.fold (fun a n => a.countQueue_core n) _ d2
  exact ⟨d3, (h1.trans h2).trans h3, rfl⟩

/-- A dropped queue leaves both HEADs at the host's tails and expects no SEQ. -/
theorem Dev.dropQueue_rings (d : Dev) (p : Nat) :
    ((d.dropQueue p).part p).normal.head = (d.part p).cmdTail ∧
      ((d.dropQueue p).part p).urgent.head = (d.part p).urgTail ∧
      ((d.dropQueue p).part p).expectSeq = [none, none] := by
  obtain ⟨d1, hcore, heq⟩ := d.dropQueue_skips p
  have hcmd : (d1.part p).cmdTail = (d.part p).cmdTail := (congrArg Part.cmdTail (hcore p) :)
  have hurg : (d1.part p).urgTail = (d.part p).urgTail := (congrArg Part.urgTail (hcore p) :)
  rw [heq, Dev.part_modPart_same, ← hcmd, ← hurg]
  exact (d1.part p).skipRings_rings

/-- What the batch of one action leaves of the door: LAST and TAKEN, which the action itself keeps. -/
theorem flareAction_after {s : State} {p : Fin 16} {c : Instr} {w : FlareWrite} {action job : Nat}
    (hr : s.dev.raised = []) (hreach : s.dev.reach p = true) (hwidth : w.width = 64) (harm : w.arm = 0x464C4152)
    (hbusy : w.pairBusy = false)
    (hq : ∀ q, (s.dev.part q).flareBuffer = [] ∧ (s.dev.part q).overflowMark = false) (h0 : 0 < action)
    (h3 : action < 4) (hv : action = 2 → ∃ j, s.dev.liveJob job = some j ∧ j.part = p)
    (hc : exec c s = s.done (s.dev.flareWrite p action job w)) :
    ∃ (e : Eff) (t : State), e.dev.part p = s.dev.part p ∧ e.dev.jobs = s.dev.jobs ∧ exec c s = .next t ∧
      t.safety = s.safety ∧ t.dev.jobs = (e.stopAction p action job).dev.jobs ∧ (t.dev.part p).flareLast = action ∧
      (t.dev.part p).flareTaken = ((s.dev.part p).flareTaken + 1) % 65536 ∧
      (t.dev.part p).quiesced = ((e.stopAction p action job).dev.part p).quiesced ∧
      (t.dev.part p).normal = ((e.stopAction p action job).dev.part p).normal ∧
      (t.dev.part p).urgent = ((e.stopAction p action job).dev.part p).urgent ∧
      (t.dev.part p).expectSeq = ((e.stopAction p action job).dev.part p).expectSeq := by
  obtain ⟨e, hpart, hcalm, hjobs, heq⟩ := flareWrite_now s.dev p w action job hreach hwidth harm hbusy hq h0 h3 hv
  obtain ⟨t, ht, hsafety, htjobs, hlast, htaken, hquiesced, hnormal, hurgent, hexpect⟩ :=
    flare_after hr hc (hcalm.trans (e.stopAction_calm p action job)) heq
  have hcore : ((e.stopAction p action job).dev.part p).flareTaken = (e.dev.part p).flareTaken :=
    (congrArg Part.flareTaken (e.stopAction_core p action job p) :)
  rw [hpart] at hcore
  exact ⟨e, t, hpart, hjobs, ht, hsafety, htjobs, hlast, hcore ▸ htaken, hquiesced, hnormal, hurgent, hexpect⟩

/-- Settles O26: a write waits, acts or is ignored (R367 to R372). -/
theorem flareActionsTakeEffect : Obligations.FlareActionsTakeEffect := by
  unfold Obligations.FlareActionsTakeEffect
  intro s p w job x hr hreach hx
  subst hx
  refine ⟨fun d hd hwidth harm hbusy hroom => ?_, fun hwidth harm hbusy hq => ⟨?_, fun j hj hp hundecided => ?_, ?_⟩,
    fun hbad c hc => ?_⟩
  · subst hd
    have waits {c : Instr} (action job : Nat) (hc : exec c s = s.done (s.dev.flareWrite p action job w))
        (h0 : 0 < action) (h3 : action ≤ 3) := completes_done hc
      (Dev.flareWrite_busy hreach hwidth harm hbusy h0 h3 hroom) hr
    exact ⟨waits 1 0 rfl (by decide) (by decide), waits 2 job rfl (by decide) (by decide),
      waits 3 0 rfl (by decide) (by decide)⟩
  · obtain ⟨e, t, _, _, ht, hsafety, _, hlast, htaken, hquiesced, _⟩ :=
      flareAction_after (c := .quiesce p w) (action := 1) (job := 0) hr hreach hwidth harm hbusy hq (by decide)
        (by decide) (fun h => absurd h (by decide)) rfl
    exact ⟨t, ht, hsafety, hquiesced.trans (e.quiesce_quiesced p), hlast, htaken⟩
  · obtain ⟨e, t, _, hjobs, ht, hsafety, htjobs, hlast, htaken, _⟩ :=
      flareAction_after (c := .abortJob p w job) (action := 2) (job := job) hr hreach hwidth harm hbusy hq (by decide)
        (by decide) (fun _ => ⟨j, hj, hp⟩) rfl
    have hjob : e.dev.job? job = some j := by
      rw [Dev.job?, hjobs]
      exact (Dev.job_of_live hj)
    exact ⟨t, ht, hsafety, (Dev.liveJob_jobs htjobs job).trans (Eff.abortJob_live hjob hundecided), hlast, htaken⟩
  · obtain ⟨e, t, hpart, _, ht, hsafety, _, hlast, htaken, _, hnormal, hurgent, hexpect⟩ :=
      flareAction_after (c := .dropQueue p w) (action := 3) (job := 0) hr hreach hwidth harm hbusy hq (by decide)
        (by decide) (fun h => absurd h (by decide)) rfl
    obtain ⟨hn, hu, he⟩ := e.dev.dropQueue_rings p
    rw [hpart] at hn hu
    exact ⟨t, ht, hsafety, (congrArg Ring.head hnormal).trans hn, (congrArg Ring.head hurgent).trans hu,
      hexpect.trans he, hlast, htaken⟩
  · have ignored {c : Instr} (action job : Nat) (hc : exec c s = s.done (s.dev.flareWrite p action job w)) :=
      completes_done hc (Dev.flareWrite_ignored hreach hbad) hr
    simp only [List.mem_cons, List.not_mem_nil, or_false] at hc
    obtain rfl | rfl | rfl := hc
    · exact ignored 1 0 rfl
    · exact ignored 2 job rfl
    · exact ignored 3 0 rfl

end Sys2Proof.Machine
end

section
/-!
Ports and functions: function resets (O27), links (O28), the bits of a function (O29), link protection (O30) and
attestation (O31).
-/

namespace Sys2Proof.Machine

open Sys2Proof.Safety

/-! ### A function reset -/

/-- The partition of a function at its reset values, the TDI in CONFIG_UNLOCKED without keys; a TDI that was in ERROR
loses its responses too. -/
def Part.unlocked (x : Part) (inError : Bool) : Part :=
  { (if inError then x.resetBar.discardOutbox else x.resetBar) with tdi := .unlocked, lockNonce := none, ide := {} }

/-- Every ring, doorbell, MSI-X and flare-door register of BAR0 at its reset value, QUIESCE released, no IDE stream and
the TDI in CONFIG_UNLOCKED. -/
structure Part.AtReset (x : Part) : Prop where
  ring : ∀ r, x.ring r = {}
  cmdTail : x.cmdTail = 0
  urgTail : x.urgTail = 0
  rspHead : x.rspHead = 0
  ntcHead : x.ntcHead = 0
  holdoff : x.holdoff = 0
  headWb : x.headWb = 0
  msix : x.msix = []
  msixPending : x.msixPending = []
  expectSeq : x.expectSeq = [none, none]
  quiesced : x.quiesced = false
  flareTaken : x.flareTaken = 0
  flareIgnored : x.flareIgnored = 0
  tdi : x.tdi = .unlocked
  lockNonce : x.lockNonce = none
  ide : x.ide = {}

theorem Part.unlocked_atReset (x : Part) (b : Bool) : (x.unlocked b).AtReset := by
  cases b <;> exact ⟨fun r => by cases r <;> rfl, rfl, rfl, rfl, rfl, rfl, rfl, rfl, rfl, rfl, rfl, rfl, rfl, rfl, rfl, rfl⟩

theorem Part.unlocked_kept (x : Part) (b : Bool) :
    (x.unlocked b).created = x.created ∧ (x.unlocked b).present = x.present ∧
      (x.unlocked b).nextHandle = x.nextHandle := by
  cases b <;> exact ⟨rfl, rfl, rfl⟩

/-- A function reset ends the partition's work, which keeps every core, and then puts the one partition at reset. -/
theorem Eff.functionReset_eq (e : Eff) (p : Nat) :
    ∃ (e1 : Eff) (b : Bool), e.CoreKept e1 ∧ e.functionReset p = e1.mod (fun d => d.modPart p (fun x => x.unlocked b)) := by
  refine ⟨_, decide ((e.dev.part p).tdi = .error), ?_, rfl⟩
  exact ((e.quiesce_core p).trans (Eff.CoreKept.fold (fun e j => e.abortJob_core _) _ _)).trans
    (Dev.dropQueue_core _ _)

/-- What a function reset leaves of its partition. -/
theorem Eff.functionReset_part (e : Eff) (p : Nat) :
    ((e.functionReset p).dev.part p).AtReset ∧
      ((e.functionReset p).dev.part p).created = (e.dev.part p).created ∧
      ((e.functionReset p).dev.part p).present = (e.dev.part p).present ∧
      ((e.functionReset p).dev.part p).nextHandle = (e.dev.part p).nextHandle := by
  obtain ⟨e1, b, hcore, heq⟩ := e.functionReset_eq p
  have hpart : (e.functionReset p).dev.part p = (e1.dev.part p).unlocked b := by
    rw [heq]
    exact Dev.part_modPart_same ..
  obtain ⟨hcreated, hpresent, hhandle⟩ := (e1.dev.part p).unlocked_kept b
  rw [hpart, hcreated, hpresent, hhandle]
  exact ⟨Part.unlocked_atReset _ _, (congrArg Part.created (hcore p) :), (congrArg Part.present (hcore p) :),
    (congrArg Part.nextHandle (hcore p) :)⟩

/-- A function reset keeps the core of every other partition. -/
theorem Eff.functionReset_rest (e : Eff) {p q : Nat} (h : q ≠ p) :
    ((e.functionReset p).dev.part q).core = (e.dev.part q).core := by
  obtain ⟨e1, b, hcore, heq⟩ := e.functionReset_eq p
  rw [heq]
  refine Eq.trans (congrArg Part.core ?_) (hcore q)
  exact (Dev.part_modPart ..).trans (if_neg h)

/-- The device's next state shows a reset function as the reset leaves it. -/
theorem State.apply_atReset {s : State} {e : Eff} {p : Nat} (h : (e.dev.part p).AtReset) :
    ((s.apply e).dev.part p).AtReset where
  ring r := (State.apply_ring ..).trans (h.ring r)
  cmdTail := (State.apply_part_cmdTail ..).trans h.cmdTail
  urgTail := (State.apply_part_urgTail ..).trans h.urgTail
  rspHead := (State.apply_part_rspHead ..).trans h.rspHead
  ntcHead := (State.apply_part_ntcHead ..).trans h.ntcHead
  holdoff := (State.apply_part_holdoff ..).trans h.holdoff
  headWb := (State.apply_part_headWb ..).trans h.headWb
  msix := (State.apply_part_msix ..).trans h.msix
  msixPending := (State.apply_part_msixPending ..).trans h.msixPending
  expectSeq := (State.apply_part_expectSeq ..).trans h.expectSeq
  quiesced := (State.apply_part_quiesced ..).trans h.quiesced
  flareTaken := (State.apply_part_flareTaken ..).trans h.flareTaken
  flareIgnored := (State.apply_part_flareIgnored ..).trans h.flareIgnored
  tdi := (State.apply_part_tdi ..).trans h.tdi
  lockNonce := (State.apply_part_lockNonce ..).trans h.lockNonce
  ide := (State.apply_part_ide ..).trans h.ide

/-- A command whose effect shows the partition as a function reset of the device leaves it. -/
theorem functionReset_after {s : State} {c : Instr} {e : Eff} {p : Nat} (hc : exec c s = s.done e)
    (hr : e.dev.raised = []) (hs : e.safety = [])
    (hpart : e.dev.part p = (s.dev.eff.functionReset p).dev.part p) :
    exec c s = .next (s.apply e) ∧ (s.apply e).safety = s.safety ∧ ((s.apply e).dev.part p).AtReset ∧
      ((s.apply e).dev.part p).created = (s.dev.part p).created ∧
      ((s.apply e).dev.part p).present = (s.dev.part p).present ∧
      ((s.apply e).dev.part p).nextHandle = (s.dev.part p).nextHandle := by
  obtain ⟨hreset, hcreated, hpresent, hhandle⟩ := s.dev.eff.functionReset_part p
  rw [← hpart] at hreset hcreated hpresent hhandle
  exact ⟨hc, (State.apply_calm hr hs).1, State.apply_atReset hreset, (State.apply_part_created ..).trans hcreated,
    (State.apply_part_present ..).trans hpresent, (State.apply_part_nextHandle ..).trans hhandle⟩

/-- An answer after an effect changes the port's answers alone. -/
def Eff.answerFn (e : Eff) (p : Nat) (a : DoeAnswer) : Eff := e.mod (fun d => d.answerFn p a)

theorem Eff.answerFn_kept (e : Eff) (p : Nat) (a : DoeAnswer) :
    (e.answerFn p a).dev.raised = e.dev.raised ∧ (e.answerFn p a).safety = e.safety ∧
      (∀ q, (e.answerFn p a).dev.part q = e.dev.part q) ∧
      ((e.answerFn p a).dev.port (p / 4)).answers = (e.dev.port (p / 4)).answers ++ [(p, a)] :=
  ⟨rfl, rfl, fun _ => rfl, congrArg Port.answers (tgetD_tset_same ..)⟩

/-- Settles O27: both commands are a function reset, and STOP_INTERFACE answers after it (R335, R508). -/
theorem functionResetsComplete : Obligations.FunctionResetsComplete := by
  unfold Obligations.FunctionResetsComplete
  intro s p hr hreach c hc
  have hcalm := s.dev.eff.functionReset_calm p
  have hraised := hcalm.raised.trans hr
  simp only [List.mem_cons, List.not_mem_nil, or_false] at hc
  obtain rfl | rfl := hc
  · obtain ⟨ht, hsafety, h, hcreated, hpresent, hhandle⟩ :=
      functionReset_after (c := .functionLevelReset p) (congrArg s.done (if_pos hreach)) hraised hcalm.2 rfl
    exact ⟨_, ht, hsafety, State.apply_pending .., h.ring, h.cmdTail, h.urgTail, h.rspHead, h.ntcHead, h.holdoff,
      h.headWb, h.msix, h.msixPending, h.expectSeq, h.quiesced, h.flareTaken, h.flareIgnored, h.tdi, h.lockNonce, h.ide,
      hcreated, hpresent, hhandle, fun hne => nomatch hne⟩
  · obtain ⟨hkeptRaised, hkeptSafety, hparts, hanswers⟩ := (s.dev.eff.functionReset p).answerFn_kept p .tdispOk
    obtain ⟨ht, hsafety, h, hcreated, hpresent, hhandle⟩ :=
      functionReset_after (c := .stopInterface p) (e := (s.dev.eff.functionReset p).answerFn p .tdispOk)
        (congrArg s.done (if_pos hreach)) (hkeptRaised.trans hraised) (hkeptSafety.trans hcalm.2) (hparts p)
    exact ⟨_, ht, hsafety, State.apply_pending .., h.ring, h.cmdTail, h.urgTail, h.rspHead, h.ntcHead, h.holdoff,
      h.headWb, h.msix, h.msixPending, h.expectSeq, h.quiesced, h.flareTaken, h.flareIgnored, h.tdi, h.lockNonce, h.ide,
      hcreated, hpresent, hhandle, fun _ => ⟨_, (congrArg Port.answers (State.apply_port ..)).trans hanswers⟩⟩

/-! ### Links -/

@[simp] theorem Dev.port_modPort_same (d : Dev) (n : Nat) (f : Port → Port) : (d.modPort n f).port n = f (d.port n) :=
  tgetD_tset_same ..

/-- A port that has left link-up. -/
def Port.downed (x : Port) : Port :=
  { x with linkUp := false, speed := 0, width := 0, eye := 0, sessions := [], requesters := [] }

/-- A function that the bus reaches no longer. -/
def Eff.absent (e : Eff) (p : Nat) : Eff :=
  e.mod (fun d => d.modPart p (fun x => { x with present := false, busMaster := false }))

/-- One function of a port that leaves link-up: reset, and absent. -/
def Eff.functionOff (e : Eff) (p : Nat) : Eff := (e.functionReset p).absent p

/-- What a partition shows once its function is absent after a reset. -/
structure Part.Off (x : Part) : Prop where
  present : x.present = false
  busMaster : x.busMaster = false
  tdi : x.tdi = .unlocked
  ide : x.ide = {}
  rsp : x.rsp = {}
  ntc : x.ntc = {}
  msix : x.msix = []

/-- What `Part.Off` speaks of lies in the core. -/
theorem Part.Off.of_core {x y : Part} (h : x.Off) (e : y.core = x.core) : y.Off where
  present := (congrArg Part.present e :).trans h.present
  busMaster := (congrArg Part.busMaster e :).trans h.busMaster
  tdi := (congrArg Part.tdi e :).trans h.tdi
  ide := (congrArg Part.ide e :).trans h.ide
  rsp := (congrArg Part.rsp e :).trans h.rsp
  ntc := (congrArg Part.ntc e :).trans h.ntc
  msix := (congrArg Part.msix e :).trans h.msix

theorem Eff.absent_calm (e : Eff) (p : Nat) : e.Calm (e.absent p) := Eff.Calm.mod (by simp)

theorem Eff.absent_same {e : Eff} {p : Nat} (h : (e.dev.part p).AtReset) : ((e.absent p).dev.part p).Off := by
  have hpart : (e.absent p).dev.part p = { e.dev.part p with present := false, busMaster := false } :=
    Dev.part_modPart_same ..
  rw [hpart]
  exact ⟨rfl, rfl, h.tdi, h.ide, h.ring .response, h.ring .notice, h.msix⟩

theorem Eff.absent_other (e : Eff) {p q : Nat} (h : q ≠ p) : (e.absent p).dev.part q = e.dev.part q :=
  (Dev.part_modPart ..).trans (if_neg h)

theorem Eff.functionOff_calm (e : Eff) (p : Nat) : e.Calm (e.functionOff p) :=
  (e.functionReset_calm p).trans (Eff.absent_calm _ _)

theorem Eff.functionOff_same (e : Eff) (p : Nat) : ((e.functionOff p).dev.part p).Off :=
  Eff.absent_same (e.functionReset_part p).1

theorem Eff.functionOff_other (e : Eff) {p q : Nat} (h : q ≠ p) (hq : (e.dev.part q).Off) :
    ((e.functionOff p).dev.part q).Off := by
  rw [Eff.functionOff, Eff.absent_other _ h]
  exact hq.of_core (e.functionReset_rest h)

theorem Eff.functionOff_keeps (e : Eff) (p : Nat) {q : Nat} (hq : (e.dev.part q).Off) :
    ((e.functionOff p).dev.part q).Off := by
  by_cases h : q = p
  · rw [h]
    exact e.functionOff_same p
  · exact e.functionOff_other h hq

theorem Eff.functionOffs_keep {q : Nat} (l : List Nat) (e : Eff) (h : (e.dev.part q).Off) :
    ((l.foldl Eff.functionOff e).dev.part q).Off := by
  induction l generalizing e with
  | nil => exact h
  | cons p l ih =>
    rw [List.foldl_cons]
    exact ih (e.functionOff p) (e.functionOff_keeps p h)

/-- Each function of a list that is turned off one after another is off in the end. -/
theorem Eff.functionOffs_off {q : Nat} (l : List Nat) (e : Eff) (h : q ∈ l) :
    ((l.foldl Eff.functionOff e).dev.part q).Off := by
  induction l generalizing e with
  | nil => cases h
  | cons p l ih =>
    rw [List.foldl_cons]
    cases h with
    | head => exact Eff.functionOffs_keep l _ (e.functionOff_same q)
    | tail _ h => exact ih (e.functionOff p) h

theorem Eff.linkDown_eq (e : Eff) (n : Nat) :
    e.linkDown n = (portFunctions n).foldl Eff.functionOff (e.mod (fun d => d.modPort n Port.downed)) := rfl

/-- The effect of a link that goes down: the port's own fields, and its functions off. -/
theorem Eff.linkDown_leaves (e : Eff) (n : Nat) :
    (e.mod (fun d => d.modPort n Port.downed)).Calm (e.linkDown n) ∧
      (e.linkDown n).dev.port n = (e.dev.port n).downed ∧
      ∀ p ∈ portFunctions n, ((e.linkDown n).dev.part p).Off := by
  have hcalm : (e.mod (fun d => d.modPort n Port.downed)).Calm (e.linkDown n) :=
    Eff.Calm.fold Eff.functionOff_calm (portFunctions n) _
  refine ⟨hcalm, ?_, fun p hp => Eff.functionOffs_off _ _ hp⟩
  have hports := hcalm.ports
  rw [Dev.port, hports]
  exact Dev.port_modPort_same ..

theorem State.apply_off {s : State} {e : Eff} {p : Nat} (h : (e.dev.part p).Off) : ((s.apply e).dev.part p).Off where
  present := (State.apply_part_present ..).trans h.present
  busMaster := (State.apply_part_busMaster ..).trans h.busMaster
  tdi := (State.apply_part_tdi ..).trans h.tdi
  ide := (State.apply_part_ide ..).trans h.ide
  rsp := (State.apply_part_rsp ..).trans h.rsp
  ntc := (State.apply_part_ntc ..).trans h.ntc
  msix := (State.apply_part_msix ..).trans h.msix

/-- A command that takes the link of a port down from a device with no cause. -/
theorem linkDown_after {s : State} {c : Instr} {d : Dev} {n : Nat} (hc : exec c s = s.done (d.eff.linkDown n))
    (hr : d.raised = []) :
    ∃ t, exec c s = .next t ∧ t.safety = s.safety ∧ t.pending = s.pending ∧ t.dev.port n = (d.port n).downed ∧
      ∀ p ∈ portFunctions n, (t.dev.part p).Off := by
  obtain ⟨hcalm, hport, hoff⟩ := d.eff.linkDown_leaves n
  exact ⟨_, hc, (State.apply_calm (hcalm.raised.trans hr) hcalm.2).1, rfl, (State.apply_port ..).trans hport,
    fun p hp => State.apply_off (hoff p hp)⟩

/-- Settles O28: training brings a port up, both ways down turn its functions off (R332, R335, R528). -/
theorem linksComplete : Obligations.LinksComplete := by
  unfold Obligations.LinksComplete
  intro s n x hr hx
  subst hx
  refine ⟨fun speed width hreset hperst hlegal => completes_done rfl ?_ hr, fun hup c hc => ?_, fun level h =>
    completes_done rfl ?_ hr⟩
  · simp [Dev.linkTrain, hreset, hperst, hlegal, Dev.modPart_eq]
    rfl
  · have hcases : c = .linkDown n ∨ ((s.dev.port n).inReset = false ∧ c = .perst n true) := by
      cases hreset : (s.dev.port n).inReset <;> simpa [hreset] using hc
    rcases hcases with rfl | ⟨hreset, rfl⟩
    · obtain ⟨t, ht, hsafety, hpending, hport, hoff⟩ :=
        linkDown_after (c := .linkDown n) (congrArg s.done (if_pos hup)) hr
      refine ⟨t, ht, hsafety, hpending, ?_⟩
      rw [hport]
      exact ⟨rfl, rfl, rfl, (if_pos rfl).symm, fun p hp => ⟨(hoff p hp).present, (hoff p hp).busMaster, (hoff p hp).tdi,
        (hoff p hp).ide, (hoff p hp).rsp, (hoff p hp).ntc, (hoff p hp).msix⟩⟩
    · obtain ⟨t, ht, hsafety, hpending, hport, hoff⟩ :=
        linkDown_after (s := s) (c := .perst n true) (d := s.dev.modPort n (fun y => { y with perst := true }))
          (congrArg s.done (if_pos (by simp [hup, hreset]))) hr
      refine ⟨t, ht, hsafety, hpending, ?_⟩
      rw [hport, Dev.port_modPort_same]
      exact ⟨rfl, rfl, rfl, (if_neg (fun h => nomatch h)).symm, fun p hp => ⟨(hoff p hp).present, (hoff p hp).busMaster,
        (hoff p hp).tdi, (hoff p hp).ide, (hoff p hp).rsp, (hoff p hp).ntc, (hoff p hp).msix⟩⟩
  · have hstay : (level && (s.dev.port n).linkUp && !(s.dev.port n).inReset) = false := by
      rcases h with h | h | h <;> simp [h]
    simp [Dev.perstWrite, hstay]

/-! ### The bits of a function -/

theorem Eff.tdiError_calmState {e : Eff} {p : Nat} (h : (e.dev.part p).tdi = .unlocked ∨ (e.dev.part p).tdi = .error) :
    e.tdiError p = e := by
  rcases h with h | h <;> simp [Eff.tdiError, h]

/-- A locked or running TDI that moves to ERROR, with its partition quiesced. -/
theorem Eff.tdiError_moves {e : Eff} {p : Nat} (h : (e.dev.part p).tdi = .locked ∨ (e.dev.part p).tdi = .run) :
    e.Calm (e.tdiError p) ∧ ((e.tdiError p).dev.part p).tdi = .error ∧ ((e.tdiError p).dev.part p).quiesced = true ∧
      ((e.tdiError p).dev.part p).created = (e.dev.part p).created ∧
      ((e.tdiError p).dev.part p).busMaster = (e.dev.part p).busMaster := by
  have heq : e.tdiError p = (e.quiesce p).mod (fun d => d.modPart p (fun x => { x with tdi := .error })) := if_pos h
  have hpart : (e.tdiError p).dev.part p = { (e.quiesce p).dev.part p with tdi := .error } := by
    rw [heq]
    exact Dev.part_modPart_same ..
  have hcore := e.quiesce_core p p
  refine ⟨heq ▸ Eff.Calm.andMod (e.quiesce_calm p) (by simp), ?_⟩
  rw [hpart]
  exact ⟨rfl, e.quiesce_quiesced p, (congrArg Part.created hcore :), (congrArg Part.busMaster hcore :)⟩

/-- A command whose effect moves a TDI to ERROR from a device with no cause. -/
theorem tdiError_after {s : State} {c : Instr} {d : Dev} {p : Nat} (hc : exec c s = s.done (d.eff.tdiError p))
    (hr : d.raised = []) (h : (d.part p).tdi = .locked ∨ (d.part p).tdi = .run) :
    ∃ t, exec c s = .next t ∧ t.safety = s.safety ∧ t.pending = s.pending ∧ (t.dev.part p).tdi = .error ∧
      (t.dev.part p).quiesced = true ∧ (t.dev.part p).created = (d.part p).created ∧
      (t.dev.part p).busMaster = (d.part p).busMaster := by
  obtain ⟨hcalm, htdi, hquiesced, hcreated, hmaster⟩ := Eff.tdiError_moves (e := d.eff) h
  refine ⟨_, hc, (State.apply_calm (hcalm.raised.trans hr) hcalm.2).1, rfl, ?_⟩
  rw [State.apply_part_tdi, State.apply_part_quiesced, State.apply_part_created, State.apply_part_busMaster]
  exact ⟨htdi, hquiesced, hcreated, hmaster⟩

/-- Settles O29: the bits change as the host writes them, and a locked or running TDI goes to ERROR (R334, R507, R508). -/
theorem functionBitsComplete : Obligations.FunctionBitsComplete := by
  unfold Obligations.FunctionBitsComplete
  intro s p x hr hx hreach
  subst hx
  have hlink : (s.dev.port (p.val / 4)).linkUp = true := by
    simp only [Dev.reach, Bool.and_eq_true] at hreach
    exact hreach.1
  have hmaster (on : Bool) : s.dev.busMasterWrite p on =
      if on then (s.dev.setPart p { s.dev.part p with busMaster := on }).eff
      else (s.dev.setPart p { s.dev.part p with busMaster := on }).eff.tdiError p := if_neg (by simp [hreach])
  have hfail : s.dev.ideFail p = (s.dev.setPart p { s.dev.part p with
      ide := { (s.dev.part p).ide with established := false } }).eff.tdiError p := if_neg (by simp [hreach])
  have hwrite : exec (.configSpaceWrite p) s = s.done (s.dev.eff.tdiError p) := congrArg s.done (if_pos hlink)
  refine ⟨completes_done (e := s.dev.busMasterWrite p true) rfl (hmaster true) hr, fun hopen => ⟨?_, ?_, ?_, fun on hv => ?_⟩,
    fun hclosed c hc => ?_⟩
  · refine completes_done (e := s.dev.busMasterWrite p false) rfl ((hmaster false).trans ?_) hr
    exact Eff.tdiError_calmState (by simpa [Dev.eff] using hopen)
  · exact completes_done hwrite (Eff.tdiError_calmState hopen) hr
  · refine completes_done (e := s.dev.ideFail p) rfl (hfail.trans ?_) hr
    exact Eff.tdiError_calmState (by simpa [Dev.eff] using hopen)
  · refine completes_done (e := s.dev.vfEnable p on) rfl ?_ hr
    rw [Dev.vfEnable, if_neg (by simp [hv, hlink]), Eff.tdiError_calmState hopen]
    rfl
  · simp only [List.mem_cons, List.not_mem_nil, or_false] at hc
    obtain rfl | rfl | rfl := hc
    · have h := tdiError_after (c := .busMasterEnable p false) (congrArg s.done (hmaster false)) hr
        (by simpa using hclosed)
      simpa using h
    · have h := tdiError_after hwrite hr hclosed
      simpa using h
    · have h := tdiError_after (c := .ideCheckFail p) (congrArg s.done hfail) hr (by simpa using hclosed)
      simpa using h

/-! ### Link protection -/

theorem Dev.tdisp_answered {d : Dev} {p : Nat} {f : Dev → Eff} (hreach : d.reach p = true) (h : (d.part p).tdi ≠ .error) :
    d.tdisp p f = f d := by
  rw [Dev.tdisp, if_neg (by simp [hreach]), if_neg h]

/-- Settles O30: keys go in and into use, a TDI is locked and run, and the requests are answered (R506, R508, R509). -/
theorem protectionCompletes : Obligations.ProtectionCompletes := by
  unfold Obligations.ProtectionCompletes
  intro s p x hr hx hreach
  subst hx
  refine ⟨fun sub tx ks key ranges hs hk hl => completes_done rfl ?_ hr,
    fun sub tx ks hs hk => completes_done rfl ?_ hr, ⟨_, completes_done rfl (congrArg Dev.eff (if_pos hreach)) hr⟩,
    completes_done rfl (congrArg Dev.eff (if_pos hreach)) hr, fun hne => ⟨?_, ?_⟩, fun htdi hcreated hmaster hide => ?_,
    fun nonce htdi hnonce => ?_⟩
  · simp [Dev.keyProg, hreach, hs, hk, Nat.not_lt.mpr hl, Dev.modPart_eq]
  · have hany : (s.dev.part p).ide.keys.any (fun k => decide (k.sub = sub) && k.transmit == tx && k.keySet == ks) =
        true := by
      obtain ⟨k, hmem, hsub, htx, hset⟩ := hk
      exact List.any_eq_true.mpr ⟨k, hmem, by simp [hsub, htx, hset]⟩
    have hsome : (s.dev.port (p / 4)).sessions.isEmpty = false := by simpa using hs
    simp only [Dev.keySetGo, hreach, hsome, hany, Dev.modPart_eq]
    rfl
  · exact completes_done rfl (Dev.tdisp_answered hreach hne) hr
  · exact completes_done rfl (Dev.tdisp_answered hreach hne) hr
  · refine ⟨(Config.freeValue s.dev.freeCount).toNat,
      completes_done rfl ((Dev.tdisp_answered hreach (by simp [htdi])).trans (congrArg Dev.eff ?_)) hr⟩
    exact if_pos ⟨htdi, hcreated, hmaster, hide⟩
  · refine completes_done rfl ((Dev.tdisp_answered hreach (by simp [htdi])).trans (congrArg Dev.eff ?_)) hr
    exact if_pos ⟨htdi, hnonce⟩

/-! ### Attestation -/

/-- A requester that is served: one already known, or one of at most four. -/
theorem Dev.spdm_served {d d1 : Dev} {n who : Nat} {f : Dev → Dev} (hup : (d.port n).linkUp = true)
    (hd : d1 = if who ∈ (d.port n).requesters then d
      else d.modPort n (fun y => { y with requesters := y.requesters ++ [who] }))
    (h : who ∈ (d.port n).requesters ∨ (d.port n).requesters.length < 4) : d.spdm n who f = f d1 := by
  subst hd
  by_cases hk : who ∈ (d.port n).requesters
  · simp [Dev.spdm, hup, hk]
  · simp [Dev.spdm, hup, hk, h.resolve_left hk]

theorem Dev.spdm_busy {d : Dev} {n who : Nat} {f : Dev → Dev} (hup : (d.port n).linkUp = true)
    (hk : who ∉ (d.port n).requesters) (h : 4 ≤ (d.port n).requesters.length) :
    d.spdm n who f = d.answer n who .spdmBusy := by
  simp [Dev.spdm, hup, hk, Nat.not_lt.mpr h]

theorem measurementIndexes_one {i : Nat} (h1 : 1 ≤ i) (h2 : i ≤ 10) : measurementIndexes i = [i] := by
  have hall : i ≠ 0xFF := by omega
  have hin : subIn i 1 10 = true := by
    simp only [subIn, Bool.and_eq_true, decide_eq_true_eq]
    omega
  rw [measurementIndexes, if_neg hall, if_pos hin]

theorem measurementIndexes_none {i : Nat} (h : i = 0 ∨ (10 < i ∧ i ≠ 0xFF)) : measurementIndexes i = [] := by
  have hall : i ≠ 0xFF := by omega
  have hout : subIn i 1 10 = false := by
    simp only [subIn, Bool.and_eq_false_iff, decide_eq_false_iff_not]
    omega
  rw [measurementIndexes, if_neg hall, if_neg (by simp [hout])]

/-- Settles O31: who is served is answered by the slot or the index, who is not is answered busy (R510, R511). -/
theorem attestationCompletes : Obligations.AttestationCompletes := by
  unfold Obligations.AttestationCompletes
  intro s n who x d hr hx hup hd
  subst hx
  have hraised : d.raised = [] := by
    rw [hd]
    split <;> exact hr
  have hsessions : (d.port n).sessions = (s.dev.port n).sessions := by
    rw [hd]
    split
    · rfl
    · rw [Dev.port_modPort_same]
  refine ⟨fun hserved => ?_, fun hk hfull c hc => ?_⟩
  · have served {c : Instr} {f : Dev → Dev} {d1 : Dev} (hc : exec c s = s.done (s.dev.spdm n who f).eff) (hf : f d = d1)
        (h1 : d1.raised = []) : CompletesTo c s d1 :=
      completes_done hc (congrArg Dev.eff ((Dev.spdm_served hup hd hserved).trans hf)) h1
    refine ⟨fun slot hslot => ⟨⟨Config.certificate slot, served rfl ?_ hraised⟩,
      fun nonce => ⟨Config.signature (nonce ++ Config.certificate slot), served rfl ?_ hraised⟩,
      fun data => ⟨Config.exchangeKey d.freeCount, served rfl ?_ hraised⟩⟩, fun slot hslot c hc => ?_,
      fun i nonce hi => ⟨Config.signature (nonce ++ s.measurement n i), served rfl ?_ hraised⟩,
      fun nonce => ⟨Config.signature (nonce ++ (List.range 10).flatMap (fun i => s.measurement n (i + 1))),
        served rfl ?_ hraised⟩, fun i nonce hi => served rfl ?_ hraised⟩
    · exact congrArg (d.answer n who) (if_neg (by omega))
    · exact congrArg (d.answer n who) (if_neg (by omega))
    · rw [Dev.keyExchange, if_neg (by omega), hsessions]
    · have hempty : 1 < slot := hslot
      simp only [List.mem_cons, List.not_mem_nil, or_false] at hc
      obtain rfl | rfl | rfl := hc
      · exact served rfl (congrArg (d.answer n who) (if_pos hempty)) hraised
      · exact served rfl (congrArg (d.answer n who) (if_pos hempty)) hraised
      · exact served rfl (if_pos hempty) hraised
    · rw [State.measure, measurementIndexes_one hi.1 hi.2]
      simp
    · rfl
    · rw [State.measure, measurementIndexes_none hi]
      rfl
  · have busy {c : Instr} {f : Dev → Dev} (hc : exec c s = s.done (s.dev.spdm n who f).eff) :
        CompletesTo c s (s.dev.answer n who .spdmBusy) :=
      completes_done hc (congrArg Dev.eff (Dev.spdm_busy hup hk hfull)) hr
    simp only [List.mem_cons, List.not_mem_nil, or_false] at hc
    obtain rfl | rfl | rfl | rfl := hc
    · exact busy rfl
    · exact busy rfl
    · exact busy rfl
    · exact busy rfl

end Sys2Proof.Machine
end

section
/-!
The management network: notices delivered (O33), sessions (O34), the two LANs (O35) and the SMBus port (O36).
-/

namespace Sys2Proof.Machine

open Sys2Proof.Safety

/-! ### Notices -/

/-- A notice that finds room goes to the ring, and vector 1 after it leaves the ring alone. -/
theorem Dev.deliverPart_room {d : Dev} {p : Nat} {n : Notice} {rest : List Notice} (hm : d.masters p = true)
    (hp : (d.part p).pending = n :: rest) (he : (d.part p).ntc.enable = true)
    (hroom : ahead (d.part p).ntc.tail (d.part p).ntcHead < (d.part p).ntc.capacity 64) :
    ∃ a b, (d.deliverPart p).part p = { d.part p with
      pending := rest
      ntcEntries := (d.part p).ntcEntries ++ [((d.part p).ntcSeq, n)]
      ntcSeq := ((d.part p).ntcSeq + 1) % 2 ^ 32
      ntcPhase := if ((d.part p).ntc.tail + 1) % 2 ^ 32 % (d.part p).ntc.capacity 64 = 0 then !(d.part p).ntcPhase
        else (d.part p).ntcPhase
      ntc := { (d.part p).ntc with tail := ((d.part p).ntc.tail + 1) % 2 ^ 32 }
      msixPending := a
      vectors := b } := by
  have hfits : (!d.masters p || !(d.part p).ntc.enable ||
      decide ((d.part p).ntc.capacity 64 ≤ ahead (d.part p).ntc.tail (d.part p).ntcHead)) = false := by
    simp [hm, he, hroom]
  have hcap : (d.part p).ntc.capacity 64 ≠ 0 := by omega
  simp only [Dev.deliverPart, hp, hfits, Bool.false_eq_true, if_false]
  obtain ⟨a, b, h⟩ := vector_same (d.modPart p (fun y => { y with
    pending := rest
    ntcEntries := y.ntcEntries ++ [(y.ntcSeq, n)]
    ntcSeq := (y.ntcSeq + 1) % 2 ^ 32
    ntcPhase := if (d.part p).ntc.capacity 64 ≠ 0 ∧
        ((d.part p).ntc.tail + 1) % 2 ^ 32 % (d.part p).ntc.capacity 64 = 0 then !y.ntcPhase else y.ntcPhase
    ntc := { y.ntc with tail := ((d.part p).ntc.tail + 1) % 2 ^ 32 } })) p 1
  refine ⟨a, b, h.trans ?_⟩
  rw [Dev.part_modPart_same]
  simp only [hcap, ne_eq, not_false_eq_true, true_and]

theorem Dev.deliverPart_raised (d : Dev) (p : Nat) : (d.deliverPart p).raised = d.raised := by
  unfold Dev.deliverPart
  dsimp only
  split
  · rfl
  · split <;> rfl

/-- Messages sent to one session. -/
theorem Dev.sendAll_eq (y : Nat) (ms : List Bytes) (d : Dev) : ms.foldl (fun a m => a.sendTo y m) d =
    { d with mgmt := { d.mgmt with sentMessages := d.mgmt.sentMessages ++ ms.map (fun m => (y, m)) } } := by
  induction ms generalizing d with
  | nil => simp
  | cons m ms ih =>
    rw [List.foldl_cons, ih]
    simp [Dev.sendTo]

/-- Messages sent to each session of a list. -/
theorem Dev.sendEach_eq (ms : List Bytes) (ys : List Nat) (d : Dev) :
    ys.foldl (fun acc y => ms.foldl (fun a m => a.sendTo y m) acc) d =
      { d with mgmt := { d.mgmt with
        sentMessages := d.mgmt.sentMessages ++ ys.flatMap (fun y => ms.map (fun m => (y, m))) } } := by
  induction ys generalizing d with
  | nil => simp
  | cons y ys ih =>
    rw [List.foldl_cons, ih, Dev.sendAll_eq]
    simp

/-- The NOTICE messages of a credential, 18 entries each, to every session of it. -/
def Dev.noticeMessages (d : Dev) (c : Nat) (l : List (Nat × Notice)) : List (Nat × Bytes) :=
  (d.sessionsOf c).flatMap (fun y =>
    (pieces 18 l).map (fun g => (y, lopMessage 4 0 (g.flatMap (fun z => z.2.entry false z.1)))))

theorem Dev.sendNotices_eq (d : Dev) (c : Nat) (l : List (Nat × Notice)) :
    d.sendNotices c l = { d with mgmt := { d.mgmt with
      sentMessages := d.mgmt.sentMessages ++ d.noticeMessages c l } } := by
  unfold Dev.sendNotices Dev.noticeMessages
  rw [Dev.sendEach_eq]
  simp only [List.map_map]
  rfl

theorem Dev.deliverCred_sends {d : Dev} {c : Nat} {l : List (Nat × Notice)} (hup : d.netUp = true)
    (hopen : d.sessionsOf c ≠ []) (hp : (d.cred c).pending ≠ [])
    (hl : l = (List.range (d.cred c).pending.length).zipWith
      (fun i n => (((d.cred c).nextSeq + i) % 2 ^ 32, n)) (d.cred c).pending) :
    d.deliverCred c = (d.modCred c (fun y => { y with
      pending := [], sent := y.sent ++ l, nextSeq := (y.nextSeq + l.length) % 2 ^ 32 })).sendNotices c l := by
  have hzip : (((List.range (d.cred c).pending.length).zip (d.cred c).pending).map
      (fun q => (((d.cred c).nextSeq + q.1) % 2 ^ 32, q.2))) = l := by
    rw [hl, List.zip_eq_zipWith, List.map_zipWith]
  have hgo : ((d.cred c).pending.isEmpty || (d.sessionsOf c).isEmpty || !d.netUp) = false := by
    simp [hup, hopen, hp]
  simp only [Dev.deliverCred, hgo, Bool.false_eq_true, if_false, hzip]

/-- Settles O33: the ring takes the first pending notice, a session all of a credential's (R436 to R438). -/
theorem noticesAreDelivered : Obligations.NoticesAreDelivered := by
  unfold Obligations.NoticesAreDelivered
  refine ⟨fun s p x n rest hr hx hm hp he hroom => ?_, fun s c x l hr hx hup hopen => ⟨fun hp hl => ?_, ?_⟩⟩
  · subst hx
    obtain ⟨a, b, hpart⟩ := Dev.deliverPart_room hm hp he hroom
    refine ⟨s.apply (s.dev.deliverPart p).eff, rfl, by simp [Dev.eff],
      (State.apply_calm ((Dev.deliverPart_raised ..).trans hr) rfl).1, ?_⟩
    rw [State.apply_part_ntcEntries, State.apply_part_ntcSeq, State.apply_part_ntc, State.apply_part_ntcPhase]
    simp only [Dev.eff, hpart, true_and]
  · subst hx
    have hsends := Dev.deliverCred_sends hup hopen hp hl
    rw [Dev.sendNotices_eq] at hsends
    refine ⟨s.apply (s.dev.deliverCred c).eff, rfl, by simp [Dev.eff],
      (State.apply_calm (by rw [hsends]; exact hr) rfl).1, ?_⟩
    rw [State.apply_cred_sent, State.apply_cred_nextSeq, State.apply_mgmt_sentMessages]
    simp only [Dev.eff, hsends]
    have hcred (d : Dev) (ms : List (Nat × Bytes)) : ({ d with mgmt := { d.mgmt with sentMessages := ms } } : Dev).cred c =
      d.cred c := rfl
    simp only [hcred, Dev.cred_modCred, if_true, true_and]
    rfl
  · subst hx
    have hsends : s.dev.resend c = s.dev.sendNotices c (s.dev.cred c).sent := if_neg (by simp [hup, hopen])
    rw [Dev.sendNotices_eq] at hsends
    refine ⟨s.apply (s.dev.resend c).eff, rfl, by simp [Dev.eff],
      (State.apply_calm (by rw [hsends]; exact hr) rfl).1, ?_⟩
    rw [State.apply_cred_sent, State.apply_mgmt_sentMessages]
    simp only [Dev.eff, hsends]
    exact ⟨rfl, rfl⟩

/-! ### Sessions -/

/-- Settles O34: a handshake is accepted or answered with an alert, and an idle session is closed (R423, R424). -/
theorem sessionsComplete : Obligations.SessionsComplete := by
  unfold Obligations.SessionsComplete
  intro s hr hup
  refine ⟨fun h c hacc hfeat hcred h16 h4 => completes_done rfl ?_ hr, fun h hbad => completes_done rfl ?_ hr,
    fun n x hx => completes_done rfl ?_ hr⟩
  · have hroom : (16 ≤ s.dev.mgmt.sessions.length || 4 ≤ (s.dev.sessionsOf c).length) = false := by simp [h16, h4]
    simp [Dev.handshake, hup, hacc, hfeat, hcred, hroom]
  · refine congrArg Dev.eff (a₂ := s.dev.alert) ?_
    rw [Dev.handshake, if_neg (by simp [hup])]
    rcases hbad with h1 | h1 | h1 | ⟨c, h1, h2⟩
    · rw [if_pos (by simp [h1])]
    · rw [if_pos (by simp [h1])]
    · simp [h1]
    · simp [h1, h2]
  · simp [Dev.sessionIdle, hx]
    rfl

/-! ### The two LANs -/

/-- An ALARM notice leaves the network's own state. -/
theorem alarm_after {s : State} {c : Instr} {d : Dev} {cause : Nat} (hc : exec c s = s.done (d.alarm cause).eff)
    (hr : d.raised = []) :
    ∃ t, exec c s = .next t ∧ t.mem = s.mem ∧ t.safety = s.safety ∧ t.dev.mgmt.lost = d.mgmt.lost ∧
      t.dev.mgmt.frames = d.mgmt.frames := by
  have honly := (d.notify_only none [] (.alarm cause)).settled
  exact ⟨_, hc, by simp [Dev.eff], (State.apply_calm ((d.alarm_raised cause).trans hr) rfl).1,
    (State.apply_mgmt_lost ..).trans honly.mgmt_lost, (State.apply_mgmt_frames ..).trans honly.mgmt_frames⟩

/-- Settles O35: frames of a LAN that is up are answered, its loss and its return are noted once (R420 to R422). -/
theorem lansComplete : Obligations.LansComplete := by
  unfold Obligations.LansComplete
  intro s l hr
  refine ⟨fun hdown hl => ?_, fun q => completes_done rfl rfl hr, completes_done rfl rfl hr, fun hl => ⟨?_, ?_⟩,
    fun hl => ⟨?_, ?_⟩⟩
  · have hlan : s.dev.lanUp l = true := by simp [Dev.lanUp, hdown, hl]
    refine ⟨fun data => completes_done rfl (congrArg Dev.eff (if_pos hlan)) hr,
      ⟨(toLe 6 Config.macAddress.toNat).reverse, completes_done rfl (congrArg Dev.eff (if_pos (by simp [hlan]))) hr⟩,
      fun target ht => completes_done rfl (congrArg Dev.eff (if_neg (by simp [ht]))) hr⟩
  · exact alarm_after (d := { s.dev with mgmt := { s.dev.mgmt with lost := s.dev.mgmt.lost ++ [l] } })
      (congrArg (fun d : Dev => s.done d.eff) (if_neg (by simpa using hl))) hr
  · exact completes_done rfl (congrArg Dev.eff (if_neg (by simpa using hl))) hr
  · exact alarm_after (d := { s.dev with mgmt := { s.dev.mgmt with
      lost := s.dev.mgmt.lost.filter (fun y => decide (y ≠ l)) } })
      (congrArg (fun d : Dev => s.done d.eff) (if_pos (by simpa using hl))) hr
  · exact completes_done rfl (congrArg Dev.eff (if_pos (by simpa using hl))) hr

/-! ### The SMBus port -/

/-- Settles O36: each read puts its value, an enrolment is stored once and counted (R425, R545). -/
theorem smbusCompletes : Obligations.SmbusCompletes := by
  unfold Obligations.SmbusCompletes
  intro s put hr hput
  have answers {c : Instr} {b : Bytes} (hc : exec c s = s.done (s.dev.smbusAnswer b).eff) : CompletesTo c s (put b) := by
    subst hput
    refine completes_done hc rfl ?_
    dsimp only
    split <;> exact hr
  refine ⟨answers rfl, answers rfl, answers rfl, answers rfl, answers rfl, answers rfl, answers rfl, answers rfl,
    fun f hf hp => ⟨fun hnone hfull => ?_, fun hbad => ?_⟩, fun f hp => ?_⟩
  · have hany : ¬ ((List.range 8).any (fun c => (s.dev.cred c).fingerprint.isSome) || s.dev.monotonicFull) = true := by
      simpa [hfull] using hnone
    have henrol : s.dev.smbusEnrol f =
        let d1 := (s.dev.modCred 0 (fun x => { x with fingerprint := some f })).countMonotonic
        { d1 with
          backup := { d1.backup with rights := tset d1.backup.rights 0 0x00FF }
          smbus := { d1.smbus with enrolResult := 0 } } := by
      rw [Dev.smbusEnrol, if_neg (by simp [hf]), if_neg hany]
    refine ⟨s.apply (s.dev.smbusEnrol f).eff, congrArg (fun d : Dev => s.done d.eff) (if_pos hp), by simp [Dev.eff],
      (State.apply_calm (by rw [henrol]; exact hr) rfl).1, ?_⟩
    rw [State.apply_cred_fingerprint, Dev.rights, State.apply_backup, State.apply_smbus]
    simp only [Dev.eff, henrol, and_true]
    exact ⟨congrArg Cred.fingerprint (tgetD_tset_same ..), tgetD_tset_same ..⟩
  · have hany : ((List.range 8).any (fun c => (s.dev.cred c).fingerprint.isSome) || s.dev.monotonicFull) = true := by
      rcases hbad with ⟨c, hc, hsome⟩ | hfull
      · have hone : (List.range 8).any (fun c => (s.dev.cred c).fingerprint.isSome) = true :=
          List.any_eq_true.mpr ⟨c, List.mem_range.mpr hc, Option.isSome_iff_ne_none.mpr hsome⟩
        simp [hone]
      · simp [hfull]
    refine completes_done rfl (congrArg Dev.eff ((if_pos hp).trans ?_)) hr
    rw [Dev.smbusEnrol, if_neg (by simp [hf]), if_pos hany]
  · exact completes_done rfl (congrArg Dev.eff (if_neg (by simp [hp]))) hr

end Sys2Proof.Machine
end

section
/-!
Requests of a management session: object requests, KEEPALIVE, NOTICE_ACK and CREDENTIAL_SET (O37), ACTION (O38) and
INSPECT (O39).
-/

namespace Sys2Proof.Machine

open Sys2Proof.Safety

/-! ### A request carried out -/

/-- A well-formed request that is answered now is carried out in the state its record leaves. -/
theorem State.request_asked {s : State} {n type : Nat} {m : Bytes} {x : Session} (h : Asked s n type m x)
    (f : State → Nat → LopHeader → Bytes → State) :
    s.request type n m f = f (s.stamped n x) x.cred (LopHeader.of m) (m.drop 16) := by
  have hpass : (!s.dev.netUp || (knownRequest (LopHeader.of m).type && (LopHeader.of m).type != type)) = false := by
    simp [h.up, h.kind]
  have hready : (!(type == 1 || type == 2) && !s.dev.fullManagement) = false := by
    rcases h.ready with ht | ht | ht <;> simp [ht]
  unfold State.request
  simp only [h.known, hpass, h.fresh, h.formed, Bool.not_true, Bool.false_eq_true, if_false]
  exact if_neg (Bool.eq_false_iff.mp hready)

@[simp] theorem State.stamped_raised (s : State) (n : Nat) (x : Session) : (s.stamped n x).dev.raised = [] :=
  State.apply_raised ..

/-- A reply changes what the management network sent and a session's kept replies. -/
theorem Dev.reply_eq (d : Dev) (n req : Nat) (ms : List Bytes) :
    ∃ l, d.reply n req ms = { d with mgmt := { d.mgmt with
      sessions := l, sentMessages := d.mgmt.sentMessages ++ ms.map (fun m => (n, m)) } } := by
  unfold Dev.reply
  simp only [Dev.sendAll_eq]
  split
  · exact ⟨_, rfl⟩
  · exact ⟨_, rfl⟩

@[simp] theorem Dev.reply_raised (d : Dev) (n req : Nat) (ms : List Bytes) : (d.reply n req ms).raised = d.raised := by
  obtain ⟨l, h⟩ := d.reply_eq n req ms
  rw [h]

theorem becomes_withDev {u : State} {d : Dev} (h : d.raised = []) : Becomes u d (u.withDev d) :=
  becomes_apply u d.eff h rfl rfl

/-- A request whose next state changes the device of `u` alone. -/
theorem next_withDev {c : Instr} {s r u : State} {d : Dev} (hc : exec c s = .next r) (hr : r = u.withDev d)
    (h : d.raised = []) : ∃ t, exec c s = .next t ∧ Becomes u d t := ⟨_, hr ▸ hc, becomes_withDev h⟩

/-! ### Object requests, KEEPALIVE, NOTICE_ACK and CREDENTIAL_SET -/

theorem Dev.closeSessions_eq (l : List Nat) (d : Dev) :
    l.foldl Dev.closeSession d = { d with mgmt := { d.mgmt with sessions := l.foldl terase d.mgmt.sessions } } := by
  induction l generalizing d with
  | nil => rfl
  | cons y l ih => exact ih (d.closeSession y)

/-- Settles O37: each request goes on from the stamped state (R424 to R428, R439). -/
theorem managementRequestsComplete : Obligations.ManagementRequestsComplete := by
  unfold Obligations.ManagementRequestsComplete
  intro s n m pl x u req hu hpl hreq
  subst hu hpl hreq
  have hraised := State.stamped_raised s n x
  have next {type : Nat} {c : Instr} {f : State → Nat → LopHeader → Bytes → State} {r : State} {d : Dev}
      (h : Asked s n type m x) (hc : exec c s = .next (s.request type n m f))
      (hf : f (s.stamped n x) x.cred (LopHeader.of m) (m.drop 16) = r.withDev d) (hd : d.raised = []) :
      ∃ t, exec c s = .next t ∧ Becomes r d t := next_withDev hc ((State.request_asked h f).trans hf) hd
  refine ⟨fun h hlen hres halias => next h rfl ?_ ((Dev.reply_raised ..).trans hraised),
    fun es r h hes hr => ?_, fun h hempty => next h rfl ?_ ((Dev.reply_raised ..).trans hraised),
    fun h hright hlen => next h rfl ?_ ((Dev.reply_raised ..).trans hraised),
    fun slot clear d h hright hfull hlen hslot hclear hres h1 h8 hadmin hd => ?_⟩
  · have hformed : ((m.drop 16).length != 8 || field (leAt (m.drop 16) 0 8) 31 25 != 0) = false := by
      simp [hlen, hres]
    simp only [hformed, Bool.false_eq_true, if_false, State.readObject_plain _ halias]
  · subst hr
    refine next h rfl ?_ ((Dev.reply_raised ..).trans (State.writeEntries_raised _ _ _ hraised))
    simp [hes]
  · simp [hempty, Dev.answerStatus]
    rfl
  · simp [hright, hlen, Dev.answerStatus, Dev.noticeAck]
    rfl
  · subst hslot hclear
    have hraisedD : d.raised = [] := by
      rw [hd, Dev.reply_raised]
      exact hraised
    refine next h rfl ?_ hraisedD
    have hmay : (!(s.stamped n x).dev.hasRight x.cred 5 || (s.stamped n x).dev.monotonicFull) = false := by
      simp [hright, hfull]
    have hslot : ((m.drop 16).length != 36 || field (leAt (m.drop 16) 0 4) 31 5 != 0 ||
        field (leAt (m.drop 16) 0 4) 3 0 == 0 || decide (8 < field (leAt (m.drop 16) 0 4) 3 0) ||
        (bit (leAt (m.drop 16) 0 4) 4 && !(s.stamped n x).dev.adminElse (field (leAt (m.drop 16) 0 4) 3 0 - 1))) = false := by
      have hkeeps : (bit (leAt (m.drop 16) 0 4) 4 &&
          !(s.stamped n x).dev.adminElse (field (leAt (m.drop 16) 0 4) 3 0 - 1)) = false := by
        cases hc : bit (leAt (m.drop 16) 0 4) 4 with
        | false => rfl
        | true => simp [hadmin hc]
      have hne : (field (leAt (m.drop 16) 0 4) 3 0 == 0) = false := by
        simp only [beq_eq_false_iff_ne]
        omega
      simp [hlen, hres, hkeeps, hne, Nat.not_lt.mpr h8]
    simp only [hmay, hslot, Bool.false_eq_true, if_false, Dev.closeCred, Dev.closeSessions_eq, hd]
    rfl

/-! ### Actions -/

/-- A stamped state shows what the request reads of the device as it was. -/
theorem State.stamped_reads {s : State} {n : Nat} {x : Session} (hr : s.dev.raised = []) :
    (s.stamped n x).dev.backup = s.dev.backup ∧ (s.stamped n x).dev.jobs = s.dev.jobs ∧
      (s.stamped n x).safety = s.safety ∧ (s.stamped n x).mem = s.mem ∧
      (s.stamped n x).dev.mgmt.sentMessages = s.dev.mgmt.sentMessages :=
  ⟨State.apply_backup .., State.apply_jobs _ _ hr, (State.apply_calm hr rfl).1, rfl, State.apply_mgmt_sentMessages ..⟩

/-- An action that may act takes effect: LAST, TAKEN and vector 3 after it. -/
theorem Eff.flareTake_valid {e : Eff} {p action job n : Nat} (h : e.dev.flareValid p action job = true) :
    e.flareTake p action job n = (e.stopAction p action job).mod (fun d =>
      (d.modPart p (fun x => { x with flareLast := action, flareTaken := (x.flareTaken + n) % 65536 })).vector p 3) :=
  if_pos h

/-- A device once an action has acted: LAST and TAKEN, vector 3, and the answer. -/
def Dev.acted (d : Dev) (p action n req : Nat) : Dev :=
  ((d.modPart p (fun x => { x with flareLast := action, flareTaken := (x.flareTaken + 1) % 65536 })).vector p 3).answerStatus
    n 3 req .ok

theorem Dev.acted_leaves (d : Dev) (p action n req : Nat) :
    (d.acted p action n req).raised = d.raised ∧ (d.acted p action n req).jobs = d.jobs ∧
      (d.acted p action n req).mgmt.sentMessages = d.mgmt.sentMessages ++ [(n, lopReply 3 req false 0 [])] ∧
      ∃ a b, (d.acted p action n req).part p = { d.part p with
        flareLast := action, flareTaken := ((d.part p).flareTaken + 1) % 65536, msixPending := a, vectors := b } := by
  obtain ⟨a, b, hvector⟩ := vector_same
    (d.modPart p (fun x => { x with flareLast := action, flareTaken := (x.flareTaken + 1) % 65536 })) p 3
  rw [Dev.part_modPart_same] at hvector
  obtain ⟨l, hreply⟩ := ((d.modPart p (fun x =>
    { x with flareLast := action, flareTaken := (x.flareTaken + 1) % 65536 })).vector p 3).reply_eq n req
      [lopReply 3 req false 0 []]
  have heq : d.acted p action n req = _ := hreply
  rw [heq]
  exact ⟨rfl, rfl, rfl, a, b, hvector⟩

/-- What a valid stop action of a request, answered OK, leaves. -/
theorem State.action_after {u t : State} {p action job n req : Nat} (hr : u.dev.raised = [])
    (hv : u.dev.flareValid p action job = true)
    (ht : t = u.apply ((u.dev.eff.flareTake p action job 1).mod (fun d => d.answerStatus n 3 req .ok))) :
    t.safety = u.safety ∧ t.dev.jobs = (u.dev.eff.stopAction p action job).dev.jobs ∧
      (t.dev.part p).flareLast = action ∧
      (t.dev.part p).flareTaken = ((u.dev.part p).flareTaken + 1) % 65536 ∧
      (t.dev.part p).quiesced = ((u.dev.eff.stopAction p action job).dev.part p).quiesced ∧
      (t.dev.part p).normal = ((u.dev.eff.stopAction p action job).dev.part p).normal ∧
      (t.dev.part p).urgent = ((u.dev.eff.stopAction p action job).dev.part p).urgent ∧
      (t.dev.part p).expectSeq = ((u.dev.eff.stopAction p action job).dev.part p).expectSeq ∧
      t.dev.mgmt.sentMessages = u.dev.mgmt.sentMessages ++ [(n, lopReply 3 req false 0 [])] := by
  have hcalm := u.dev.eff.stopAction_calm p action job
  have htaken : ((u.dev.eff.stopAction p action job).dev.part p).flareTaken = (u.dev.part p).flareTaken :=
    (congrArg Part.flareTaken (u.dev.eff.stopAction_core p action job p) :)
  rw [Eff.flareTake_valid hv] at ht
  generalize u.dev.eff.stopAction p action job = e at hcalm htaken ht
  have hmgmt : e.dev.mgmt.sentMessages = u.dev.mgmt.sentMessages :=
    (congrArg (fun d : Dev => d.mgmt.sentMessages) hcalm.1 :)
  replace ht : t = u.apply (e.mod (fun d => d.acted p action n req)) := ht
  obtain ⟨hraised, hjobs, hsent, a, b, hpart⟩ := e.dev.acted_leaves p action n req
  obtain ⟨hsafety, htjobs⟩ := State.apply_calm (s := u) (e := e.mod (fun d => d.acted p action n req))
    (hraised.trans (hcalm.raised.trans hr)) hcalm.2
  subst ht
  refine ⟨hsafety, htjobs.trans hjobs, ?_⟩
  rw [State.apply_part_flareLast, State.apply_part_flareTaken, State.apply_part_quiesced, State.apply_part_normal,
    State.apply_part_urgent, State.apply_part_expectSeq, State.apply_mgmt_sentMessages]
  simp only [Eff.mod, hpart, hsent, htaken, hmgmt, and_self]

/-- A well-formed ACTION of a credential with WRITE for a created partition is taken up. -/
theorem State.mgmtAction_asked {s : State} {n want p : Nat} {m : Bytes} {x : Session} {w : Nat} (h : Asked s n 3 m x)
    (hright : s.dev.hasRight x.cred 1 = true) (hlen : m.length = 24) (hw : w = leAt (m.drop 16) 0 8)
    (hp : p = field w 3 0) (h74 : field w 7 4 = 0) (h1512 : field w 15 12 = 0) (h6340 : field w 63 40 = 0)
    (hcreated : (s.dev.part p).created = true) (h1 : 1 ≤ want) (h4 : want ≤ 4) (hop : field w 11 8 = want)
    (hv : (s.stamped n x).dev.flareValid p want (field w 39 16) = true) :
    s.mgmtAction want n m = if want = 4 then
        (s.stamped n x).withDev (((s.stamped n x).dev.release p).modPart p (fun y =>
          { y with releaseReplies := y.releaseReplies ++ [(n, (LopHeader.of m).reqId)] }))
      else (s.stamped n x).apply (((s.stamped n x).dev.eff.flareTake p want (field w 39 16) 1).mod
        (fun d => d.answerStatus n 3 (LopHeader.of m).reqId .ok)) := by
  obtain ⟨hbackup, _⟩ := State.stamped_reads (n := n) (x := x) h.calm
  have hrights : (s.stamped n x).dev.hasRight x.cred 1 = true := by
    rw [← hright, Dev.hasRight, Dev.hasRight, Dev.rights, Dev.rights, hbackup]
  have hmade : ((s.stamped n x).dev.part p).created = true :=
    (State.apply_part_created ..).trans hcreated
  subst hw hp hop
  unfold State.mgmtAction
  rw [State.request_asked h]
  have hpl : (m.drop 16).length = 8 := by simp [hlen]
  simp [hpl, h74, h1512, h6340, hrights, hmade, h1, h4, hv]

/-- Settles O38: the three actions act as the flare door's do, RELEASE waits for the boundary (R336, R429). -/
theorem managementActionsComplete : Obligations.ManagementActionsComplete := by
  unfold Obligations.ManagementActionsComplete
  intro s n m x w p y h hright hlen hw hp h74 h1512 h6340 hy hcreated
  subst hy
  obtain ⟨_, hjobs, hsafety, hmem, hsent⟩ := State.stamped_reads (n := n) (x := x) h.calm
  have hraised := State.stamped_raised s n x
  have htails : ((s.stamped n x).dev.part p).cmdTail = (s.dev.part p).cmdTail ∧
      ((s.stamped n x).dev.part p).urgTail = (s.dev.part p).urgTail ∧
      ((s.stamped n x).dev.part p).flareTaken = (s.dev.part p).flareTaken ∧
      ((s.stamped n x).dev.part p).quiesced = (s.dev.part p).quiesced ∧
      ((s.stamped n x).dev.part p).releaseReplies = (s.dev.part p).releaseReplies :=
    ⟨State.apply_part_cmdTail .., State.apply_part_urgTail .., State.apply_part_flareTaken ..,
      State.apply_part_quiesced .., State.apply_part_releaseReplies ..⟩
  obtain ⟨hcmd, hurg, htakenS, hquiescedS, hrepliesS⟩ := htails
  have acts {want : Nat} (h1 : 1 ≤ want) (h3 : want ≤ 3) (hop : field w 11 8 = want)
      (hv : (s.stamped n x).dev.flareValid p want (field w 39 16) = true) :=
    (State.mgmtAction_asked h hright hlen hw hp h74 h1512 h6340 hcreated h1 (by omega) hop hv).trans
      (if_neg (by omega))
  refine ⟨fun hop => ?_, fun j hop hj hjp hundecided => ?_, fun hop => ?_, fun hop => ?_⟩
  · have hact := acts (by decide) (by decide) hop rfl
    obtain ⟨hs, _, hlast, htaken, hquiesced, _, _, _, hmsg⟩ := State.action_after hraised rfl hact
    exact ⟨_, rfl, hs.trans hsafety, hquiesced.trans (Eff.quiesce_quiesced _ p), hlast, htakenS ▸ htaken, hsent ▸ hmsg⟩
  · have hlive : (s.stamped n x).dev.liveJob (field w 39 16) = some j := (Dev.liveJob_jobs hjobs _).trans hj
    have hv : (s.stamped n x).dev.flareValid p 2 (field w 39 16) = true := by
      simp [Dev.flareValid, hlive, hjp]
    have hjob : (s.stamped n x).dev.eff.dev.job? (field w 39 16) = some j := Dev.job_of_live hlive
    have habort := Eff.abortJob_live hjob hundecided
    have hact := acts (by decide) (by decide) hop hv
    obtain ⟨hs, htjobs, hlast, htaken, _, _, _, _, hmsg⟩ := State.action_after hraised hv hact
    exact ⟨_, rfl, hs.trans hsafety, (Dev.liveJob_jobs htjobs _).trans habort, hlast, htakenS ▸ htaken, hsent ▸ hmsg⟩
  · have hact := acts (by decide) (by decide) hop rfl
    obtain ⟨hs, _, hlast, htaken, _, hnormal, hurgent, hexpect, hmsg⟩ := State.action_after hraised rfl hact
    obtain ⟨hn, hu, he⟩ := (s.stamped n x).dev.dropQueue_rings p
    have hdrop : ((s.stamped n x).dev.eff.stopAction p 3 (field w 39 16)).dev = (s.stamped n x).dev.dropQueue p := rfl
    rw [hdrop] at hnormal hurgent hexpect
    exact ⟨_, rfl, hs.trans hsafety, (congrArg Ring.head hnormal).trans (hn.trans hcmd),
      (congrArg Ring.head hurgent).trans (hu.trans hurg), hexpect.trans he, hlast, htakenS ▸ htaken, hsent ▸ hmsg⟩
  · have hact := (State.mgmtAction_asked h hright hlen hw hp h74 h1512 h6340 hcreated (by decide) (by decide) hop
      rfl).trans (if_pos rfl)
    refine ⟨_, congrArg Host.Outcome.next hact, hmem, (State.apply_calm hraised rfl).1.trans hsafety, ?_⟩
    rw [State.withDev, State.apply_part_releasePending, State.apply_part_releaseReplies, State.apply_part_quiesced,
      State.apply_mgmt_sentMessages]
    simp [Dev.release, hrepliesS, hquiescedS, hsent]

/-! ### Inspections -/

/-- Settles O39: an inspection of records answers them, one of headers starts their copying (R504, R505). -/
theorem inspectionsComplete : Obligations.InspectionsComplete := by
  unfold Obligations.InspectionsComplete
  intro s n m x w req u h hu hreq hright hlen hw h1512
  subst hu hreq hw
  have hraised := State.stamped_raised s n x
  have hpl : (m.drop 16).length = 16 := by simp [hlen]
  refine ⟨fun c op r hc hop hn hrepairs hrec => ?_, fun hop h1 h2 => ?_⟩
  · have inspects {c : Instr} (hc : exec c s = .next (s.inspect op n m)) (h1 : 1 ≤ op) (h6 : op ≤ 6) :
        ∃ t, exec c s = .next t ∧ Becomes (s.stamped n x) ((s.stamped n x).dev.reply n (LopHeader.of m).reqId
          (lopReplies 7 (LopHeader.of m).reqId (if r.2 then 0 else Code.rejectedFormat.toNat) r.1.flatten)) t := by
      refine next_withDev hc ?_ ((Dev.reply_raised ..).trans hraised)
      unfold State.inspect
      rw [State.request_asked h]
      have h7 : op ≠ 7 := by omega
      have h07 : ¬ 7 < op := by omega
      have h0 : op ≠ 0 := by omega
      simp [hop, hright, hpl, h1512, h0, h7, h07, hn, Dev.linesWait, hrepairs, hrec]
    simp only [List.mem_cons, Prod.mk.injEq, List.not_mem_nil, or_false] at hc
    obtain ⟨rfl, rfl⟩ | ⟨rfl, rfl⟩ | ⟨rfl, rfl⟩ | ⟨rfl, rfl⟩ | ⟨rfl, rfl⟩ | ⟨rfl, rfl⟩ := hc
    · exact inspects rfl (by decide) (by decide)
    · exact inspects rfl (by decide) (by decide)
    · exact inspects rfl (by decide) (by decide)
    · exact inspects rfl (by decide) (by decide)
    · exact inspects rfl (by decide) (by decide)
    · exact inspects rfl (by decide) (by decide)
  · have hknown : tget (s.stamped n x).dev.mgmt.sessions n = some { x with lastRecord := s.dev.now } := by
      rw [State.stamped, State.withDev, State.apply_mgmt_sessions]
      exact tget_tset_same ..
    have hnow : (s.stamped n x).dev.now = s.dev.now := State.apply_now ..
    refine next_withDev (c := .inspectHeaders n m) rfl ?_ hraised
    unfold State.inspect
    rw [State.request_asked h]
    have h0 : field (leAt (m.drop 16) 0 16) 127 96 ≠ 0 := by omega
    simp [hop, hright, hpl, h1512, h0, Nat.not_lt.mpr h2, hknown, hnow]

end Sys2Proof.Machine
end

section
/-!
Causes and units: what enters SAFE (O40), what clears a cause (O41), the loss of a region (O42) and the reports of
units (O43).
-/

namespace Sys2Proof.Machine

open Sys2Proof.Safety

/-! ### A cause taken by the safety controller -/

/-- The safety controller with one cause entered. -/
def Safety.entered (f : Safety) (c : Nat) : Safety :=
  { safe := true, causes := f.causes ||| 2 ^ c, release := false, faultHigh := false }

/-- A device cause other than 0 raised by an effect: the controller enters SAFE, and a device that was not there stops. -/
theorem State.apply_raise {s : State} {e : Eff} {c u : Nat} (hr : e.dev.raised = [(c, u)]) (hs : e.safety = [])
    (hc : c ≠ 0) : (s.apply e).safety = s.safety.entered c ∧
      NoticesOnly (if s.safety.safe then e.dev.taken else e.dev.taken.safeStop) (s.apply e).dev := by
  constructor
  · simp [hr, hs, Safety.take, Safety.entered, causeMask, Nat.one_shiftLeft]
  · have hnone : (e.dev.raised.any (fun x => x.1 == 0) && !bit s.safety.causes 0) = false := by simp [hr, hc]
    have hsettle := e.dev.settle_some s.safety (s.safetyAfter e) (by simp [hr])
    rw [hnone, if_neg (by simp), Dev.faultNotice] at hsettle
    have hunwatched : (s.unwatched e).dev = e.dev.settle s.safety (s.safetyAfter e) := by
      rw [State.unwatched, hs]
      rfl
    have hwatch := State.watch_only s (s.unwatched e)
    rw [hunwatched, hsettle] at hwatch
    exact (Dev.notify_only _ _ _ _).trans hwatch

/-- Every cell, engine and window of a device is stopped. -/
structure Dev.Stopped (d : Dev) : Prop where
  cells : ∀ x ∈ d.cells, x.2.held = none
  engines : ∀ x ∈ d.engines, x.2.held = none
  windows : ∀ x ∈ d.stackTab, x.2.window = none

theorem Dev.safeStop_stopped (d : Dev) : d.safeStop.Stopped where
  cells := by
    intro x hx
    obtain ⟨_, _, rfl⟩ := List.mem_map.mp hx
    rfl
  engines := by
    intro x hx
    obtain ⟨_, _, rfl⟩ := List.mem_map.mp hx
    rfl
  windows := by
    intro x hx
    obtain ⟨_, _, rfl⟩ := List.mem_map.mp hx
    rfl

theorem Dev.Stopped.of_notices {a b : Dev} (h : a.Stopped) (n : NoticesOnly a b) : b.Stopped where
  cells := n.cells ▸ h.cells
  engines := n.engines ▸ h.engines
  windows := n.stackTab ▸ h.windows

/-- An effect that raises one device cause and changes neither memory nor safety by itself enters it. -/
theorem entered_apply {s : State} {e : Eff} {c u : Nat} (hr : e.dev.raised = [(c, u)]) (hs : e.safety = [])
    (hm : e.mem = []) (hc : c ≠ 0) : Entered s c (s.apply e) := by
  obtain ⟨hsafety, hdev⟩ := State.apply_raise (s := s) hr hs hc
  refine ⟨hsafety, by simp [hm], State.apply_pending .., fun hsafe => ?_⟩
  rw [if_neg (by simp [hsafe])] at hdev
  obtain ⟨hcells, hengines, hwindows⟩ := (e.dev.taken.safeStop_stopped).of_notices hdev
  exact ⟨hcells, hengines, hwindows⟩

/-- A device change that raises one cause, as a command's whole effect. -/
theorem entered_done {i : Instr} {s : State} {d : Dev} {c u : Nat} (hi : exec i s = s.done d.eff)
    (hr : d.raised = [(c, u)]) (hc : c ≠ 0) : ∃ t, exec i s = .next t ∧ Entered s c t :=
  ⟨_, hi, entered_apply (e := d.eff) hr rfl rfl hc⟩

theorem Dev.raise_raised {d : Dev} {c u : Nat} (h : d.raised = []) : (d.raise c u).raised = [(c, u)] := by
  rw [Dev.raise, h]
  rfl

/-- A state that has entered SAFE stays so when nothing more happens to its device. -/
theorem entered_settled {s t : State} {c : Nat} (h : Entered s c t) (hr : t.dev.raised = []) :
    Entered s c (t.apply t.dev.eff) := by
  obtain ⟨hsafety, hmem, hpending, hstop⟩ := h
  refine ⟨(State.apply_calm hr rfl).1.trans hsafety, hmem, hpending, fun hsafe => ?_⟩
  obtain ⟨hcells, hengines, hwindows⟩ := hstop hsafe
  have hstopped : t.dev.Stopped := ⟨hcells, hengines, hwindows⟩
  obtain ⟨hcells', hengines', hwindows'⟩ := hstopped.of_notices (t.apply_only t.dev.eff hr)
  exact ⟨hcells', hengines', hwindows'⟩

/-! ### What each device cause rests on -/

/-- After a raised cause the device keeps what its support table holds. -/
theorem State.raise_support {s : State} {d : Dev} {c u : Nat} (hr : d.raised = [(c, u)]) (hc : c ≠ 0) :
    (s.withDev d).dev.support = d.support := by
  have h := (State.apply_raise (s := s) (e := d.eff) hr rfl hc).2.support
  refine Eq.trans h ?_
  split <;> rfl

/-- A region as the safe state stops it. -/
def Region.halted (y : Region) : Region :=
  { y with
    sorter := { y.sorter with job := none }
    wcb := []
    cached := y.cached.map (fun q => (q.1, q.2.filter (fun x => !x.act))) }

theorem Dev.safeStop_region (d : Dev) (r : Nat) : d.safeStop.region r = (d.region r).halted :=
  tgetD_map d.regions Region.halted r {} rfl

/-- After a raised cause a region keeps the state of its control pairs. -/
theorem State.raise_pair {s : State} {d : Dev} {c u : Nat} (hr : d.raised = [(c, u)]) (hc : c ≠ 0) (r : Nat) :
    ((s.withDev d).dev.region r).pair1Fenced = (d.region r).pair1Fenced := by
  have h := (State.apply_raise (s := s) (e := d.eff) hr rfl hc).2.regions
  have hregion : (s.withDev d).dev.region r = (if s.safety.safe then d.taken else d.taken.safeStop).region r :=
    congrArg (fun l : List (Nat × Region) => tgetD l r {}) h
  rw [hregion]
  split
  · rfl
  · rw [Dev.safeStop_region]
    rfl

theorem Dev.pairEff_held {d : Dev} (h : d.support.pairs ≠ []) : d.pairEff = d.eff := by
  have hne : ¬ d.support.pairs.isEmpty = true := by simpa using h
  exact if_neg hne

/-- A mismatch of a running control pair whose takeover or restart holds cause 2 enters SAFE. -/
theorem lockstep_enters {s : State} {p : ControlPair} {u : Nat} (hruns : s.dev.pairRuns p = true)
    (hr : (s.dev.lockstep p).raised = [(2, u)])
    (hafter : (s.withDev (s.dev.lockstep p)).dev.afterLockstep p = (s.withDev (s.dev.lockstep p)).dev.eff) :
    ∃ t, exec (.lockstepMismatch p) s = .next t ∧ Entered s 2 t := by
  have henter : Entered s 2 (s.withDev (s.dev.lockstep p)) := entered_apply (e := (s.dev.lockstep p).eff) hr rfl rfl (by decide)
  refine ⟨_, (if_pos hruns).trans ?_, entered_settled henter (State.apply_raised ..)⟩
  rw [hafter]

/-- Settles O40: each event raises its one cause, which the safety controller takes (R467 to R475, R485). -/
theorem causesEnterSafe : Obligations.CausesEnterSafe := by
  unfold Obligations.CausesEnterSafe
  intro s hr
  refine ⟨fun k => entered_done rfl (Dev.raise_raised hr) (by decide),
    fun r => entered_done rfl (Dev.raise_raised hr) (by decide),
    fun r => entered_done rfl (Dev.raise_raised hr) (by decide), fun r l hout hlinks => ?_, fun r hout h0 h1 => ?_,
    fun h100 => ?_, fun h101 => ?_, fun x v hpow htrip hdown hhot => ?_, fun hsafe hready => ⟨fun a b hab => ?_, fun n hn => ?_⟩⟩
  · have hfails : s.dev.linkFails r l = (Dev.raise ((s.dev.modRegion r (fun y =>
        { y with linksFailed := y.linksFailed ++ [(l : Nat)] })).markReadmit
          (fun j => j.grant.cells.any (fun n => n / 64 == r))) 7 (regionUnit r)).eff := by
      simp [Dev.linkFails, hout, hlinks]
    exact entered_done (congrArg s.done hfails) (Dev.raise_raised hr) (by decide)
  · have hup : (!(s.dev.region r).pair1Fenced) = true := by simp [h1]
    have hraised : (s.dev.lockstep (.region r 0)).raised = [(2, regionUnit r)] := by
      simp [Dev.lockstep, h1, Dev.raise, hr]
    refine lockstep_enters (by simp [Dev.pairRuns, hout, h0]) hraised ?_
    have hpairs : (s.withDev (s.dev.lockstep (.region r 0))).dev.support.pairs ≠ [] := by
      rw [State.raise_support hraised (by decide)]
      simp [Dev.lockstep, h1]
    have hpair : ((s.withDev (s.dev.lockstep (.region r 0))).dev.region r).pair1Fenced = false := by
      rw [State.raise_pair hraised (by decide)]
      have hlock : (s.dev.lockstep (.region r 0)).regions = (s.dev.modRegion r (fun y =>
          { y with pair0Fenced := true, takeover := !y.pair1Fenced })).regions := by
        simp [Dev.lockstep, h1, Dev.raise]
      rw [Dev.region, hlock]
      exact (congrArg Region.pair1Fenced (tgetD_tset_same ..)).trans h1
    rw [Dev.afterLockstep, if_neg (by simp [hpair]), Dev.pairEff_held hpairs]
  · have hraised : (s.dev.lockstep .scheduling).raised = [(2, 0xFFFF)] := Dev.raise_raised hr
    refine lockstep_enters (by simpa [Dev.pairRuns] using h100) hraised (Dev.pairEff_held ?_)
    rw [State.raise_support hraised (by decide)]
    simp [Dev.lockstep]
  · have hraised : (s.dev.lockstep .management).raised = [(2, 0xFFFF)] := Dev.raise_raised hr
    refine lockstep_enters (by simpa [Dev.pairRuns] using h101) hraised (Dev.pairEff_held ?_)
    rw [State.raise_support hraised (by decide)]
    simp [Dev.lockstep]
  · have hraised : (s.dev.temperature (Sensor.sub x) v).raised = [(5, sensorUnit (Sensor.sub x))] := by
      simp [Dev.temperature, htrip, hhot, Dev.raise, hr]
    refine ⟨s.withDev (s.dev.temperature (Sensor.sub x) v), ?_,
      entered_apply (e := (s.dev.temperature (Sensor.sub x) v).eff) hraised rfl rfl (by decide)⟩
    simp [exec, execTemperatureReading, hpow, hdown]
  · have hfails : s.driverTest (a && b) = Dev.raise { s.dev.advance (max s.dev.driverTest s.dev.start.patternsAt +
        604800000000000) with driverTest := (s.dev.advance (max s.dev.driverTest s.dev.start.patternsAt +
          604800000000000)).now } 10 0xFFFF := by
      simp [State.driverTest, hsafe, hready, hab]
    exact entered_done (c := 10) (congrArg (fun d : Dev => s.done d.eff) hfails) (Dev.raise_raised hr) (by decide)
  · subst hn
    refine completes_done rfl (congrArg Dev.eff ?_) hr
    simp [State.driverTest, hsafe, hready, Dev.advance]

/-! ### Causes cleared -/

/-- A command that clears one cause and changes the device besides. -/
theorem clear_after {i : Instr} {s : State} {d : Dev} {c : Nat}
    (hi : exec i s = s.done { dev := d, safety := [.clear c] }) (hr : d.raised = []) :
    ∃ t, exec i s = .next t ∧ t.mem = s.mem ∧ NoticesOnly d t.dev ∧ t.safety = { s.safety with
      causes := if bit s.safety.causes c then s.safety.causes - 2 ^ c else s.safety.causes } :=
  ⟨_, hi, rfl, s.apply_only { dev := d, safety := [.clear c] } hr, by simp [hr, Safety.take, SafetyOp.run]⟩

theorem Dev.forgetCause_raised (d : Dev) (c : Nat) : (d.forgetCause c).raised = d.raised := by
  unfold Dev.forgetCause
  split <;> rfl

theorem Dev.pairEff_last {d : Dev} (h : d.support.pairs = []) : d.pairEff = { dev := d, safety := [.clear 2] } := by
  simp [Dev.pairEff, h]

/-- A row whose write passes the checks with some effect: the state after it, with the report kept. -/
theorem State.writeRow_after {s : State} {who : Requester} {w : Entry} {e : Eff} {r : Nat}
    (hn : ¬(w.idx = 0x1100 ∧ w.sub = 1 ∧ leNat w.value = 2 ∧ r = rAccepted)) (h : s.writeOne who false w = (e, r))
    (hr : e.dev.raised = []) :
    (s.writeRow who w).mem = e.mem.foldl MemOp.run s.mem ∧
      (s.writeRow who w).safety = e.safety.foldl SafetyOp.run s.safety ∧ (s.writeRow who w).pending = s.pending ∧
      NoticesOnly { e.dev with lastReport := r } (s.writeRow who w).dev := by
  have hraised : ({ (s.apply e).dev with lastReport := r } : Dev).raised = [] := State.apply_raised ..
  rw [s.writeRow_eq who w (by rw [h]; exact hn), h]
  refine ⟨rfl, ?_, rfl, ((s.apply_only e hr).reported r).trans
    ((s.apply e).apply_only ({ (s.apply e).dev with lastReport := r } : Dev).eff hraised)⟩
  refine (State.apply_calm hraised rfl).1.trans ?_
  simp [hr, Safety.take]

/-- Settles O41: what clears a cause clears its bit alone, and a release waits in SAFE (R467, R470, R479). -/
theorem causesClear : Obligations.CausesClear := by
  unfold Obligations.CausesClear
  intro s hr
  refine ⟨fun c hc => clear_after (congrArg s.done (if_pos hc)) ((s.dev.forgetCause_raised c).trans hr),
    fun r htake hpairs => ?_, fun m obs hpairs => ?_, fun c hfull hright hcauses => ?_⟩
  · have hdone : s.dev.takeoverDone r =
        { dev := (s.dev.modRegion r (fun y => { y with takeover := false })).dropPair r, safety := [.clear 2] } := by
      rw [Dev.takeoverDone, if_pos htake]
      exact Dev.pairEff_last (by simp [Dev.dropPair, hpairs])
    obtain ⟨t, ht, hmem, hdev, hsafety⟩ := clear_after (i := .pairTakeoverComplete r) (congrArg s.done hdone) hr
    refine ⟨t, ht, hmem, ?_, ?_, hsafety⟩
    · rw [Dev.region, hdev.regions]
      exact congrArg Region.takeover (tgetD_tset_same ..)
    · rw [hdev.support]
      simp [Dev.dropPair, hpairs]
  · have hdone : exec (.chipPairRestartComplete m true obs) s = s.done
        { dev := { s.dev.dropPair (if m then 101 else 100) with
            mgmt := { s.dev.mgmt with down := s.dev.mgmt.down && !m } }, safety := [.clear 2] } := by
      refine (if_neg (by simp [hpairs])).trans ((if_pos rfl).trans (congrArg s.done ?_))
      exact Dev.pairEff_last (by simp [Dev.dropPair, hpairs])
    obtain ⟨t, ht, hmem, hdev, hsafety⟩ := clear_after hdone hr
    refine ⟨t, ht, hmem, ?_, hdev.settled.mgmt_down, hsafety⟩
    rw [hdev.support]
    simp [Dev.dropPair, hpairs]
  · have hwrite : s.writeOne (.cred c) false (entryFor 0x5001 3 1) =
        ({ dev := s.dev, safety := [.release] }, rAccepted) := by
      refine (s.writeOne_number (.cred c) 0x5001 3 1 _ (by decide) rfl (by decide) (by decide) rfl ?_ (by decide)
        (by decide) rfl ?_ (by decide) (by decide) rfl).trans rfl
      · simp [Dev.mayWrite, writeRight, hright, Dev.startAllowsWrite, hfull]
      · simp [State.permits, inPartArea, hcauses]
    obtain ⟨hmem, hsafety, _, hdev⟩ := State.writeRow_after (by simp) hwrite hr
    exact ⟨_, rfl, hmem, hdev, hsafety⟩

/-! ### The loss of a region -/

/-- What the loss of data leaves of a device: the causes raised and the tables of regions and stacks. -/
def Dev.standing (d : Dev) : List (Nat × Nat) × List (Nat × Region) × List (Nat × Stack) :=
  (d.raised, d.regions, d.stackTab)

/-- The same of an effect, with its safety changes. -/
def Eff.standing (e : Eff) : (List (Nat × Nat) × List (Nat × Region) × List (Nat × Stack)) × List SafetyOp :=
  (e.dev.standing, e.safety)

theorem Eff.mod_standing {e : Eff} {f : Dev → Dev} (h : (f e.dev).standing = e.dev.standing) :
    (e.mod f).standing = e.standing := congrArg (fun x => (x, e.safety)) h

theorem Eff.Takes.standing {e e' : Eff} (h : e.Takes e') : e'.standing = e.standing := by
  have hdev : e'.dev.standing = e.dev.standing := by
    rw [h.dev]
    rfl
  rw [Eff.standing, Eff.standing, hdev, h.safety]

theorem Dev.modJob_standing (d : Dev) (n : Nat) (f : Job → Job) : (d.modJob n f).standing = d.standing := by
  unfold Dev.modJob
  split <;> rfl

theorem Eff.modJob_standing (e : Eff) (n : Nat) (f : Job → Job) : (e.mod (fun d => d.modJob n f)).standing = e.standing :=
  Eff.mod_standing (e.dev.modJob_standing n f)

theorem Eff.standing_fold {α : Type} {f : Eff → α → Eff} (h : ∀ e x, (f e x).standing = e.standing) (l : List α)
    (e : Eff) : (l.foldl f e).standing = e.standing := foldl_keep Eff.standing h l e

theorem Eff.losePage_standing (e : Eff) (n : Nat) : (e.losePage n).standing = e.standing := by
  unfold Eff.losePage
  refine (Eff.standing_fold (fun e x => ?_) _ _).trans rfl
  split
  · split <;> rfl
  · rfl

theorem Eff.loseObj_standing (e : Eff) (n : Nat) : (e.loseObj n).standing = e.standing := by
  unfold Eff.loseObj
  dsimp only
  split <;> rfl

theorem Eff.loseDirs_standing (e : Eff) (l : List Nat) : (e.loseDirs l).standing = e.standing := by
  unfold Eff.loseDirs
  refine Eff.standing_fold (fun e x => ?_) _ _
  split <;> rfl

theorem Eff.freeLocs_standing (e : Eff) (l : List (Nat × Nat)) : (e.freeLocs l).standing = e.standing := by
  unfold Eff.freeLocs
  refine Eff.standing_fold (fun _ _ => ?_) _ _
  rfl

theorem Eff.freeRecall_standing (e : Eff) (l : List (Nat × Nat × Nat)) : (e.freeRecall l).standing = e.standing := by
  unfold Eff.freeRecall
  refine Eff.standing_fold (fun _ _ => ?_) _ _
  rfl

theorem Eff.loseStreams_standing (e : Eff) (lost : Space → Nat → Nat → Bool) :
    (e.loseStreams lost).standing = e.standing := by
  unfold Eff.loseStreams
  refine (Eff.mod_standing rfl).trans (Eff.standing_fold (fun e x => ?_) _ _)
  split
  · split
    · exact (Eff.mod_standing rfl).trans (e.freeLocs_standing _)
    · rfl
  · split
    · exact (Eff.mod_standing rfl).trans (e.freeRecall_standing _)
    · split
      · exact (Eff.mod_standing rfl).trans (e.freeRecall_standing _)
      · rfl
  · rfl

theorem Eff.loseBoxes_standing (e : Eff) (lost : Space → Nat → Nat → Bool) : (e.loseBoxes lost).standing = e.standing := by
  unfold Eff.loseBoxes
  refine Eff.standing_fold (fun e x => ?_) _ _
  split
  · split <;> rfl
  · rfl

theorem Eff.loseObjects_standing (e : Eff) (lost : Space → Nat → Nat → Bool) :
    (e.loseObjects lost).standing = e.standing := by
  unfold Eff.loseObjects
  refine Eff.standing_fold (fun e x => ?_) _ _
  dsimp only
  split <;> rfl

theorem Eff.loseWeights_standing (e : Eff) (lost : Space → Nat → Nat → Bool) :
    (e.loseWeights lost).standing = e.standing := by
  unfold Eff.loseWeights
  refine (Eff.mod_standing rfl).trans ?_
  refine Eff.standing_fold (fun e x => ?_) _ _
  refine Eff.standing_fold (fun e y => ?_) _ _
  refine Eff.standing_fold (fun e z => ?_) _ _
  split <;> rfl

theorem Eff.freeHome_standing (e : Eff) (h : TensorHome) : (e.freeHome h).standing = e.standing := by
  unfold Eff.freeHome
  split <;> rfl

theorem Eff.loseHomes_standing (e : Eff) (lost : Space → Nat → Nat → Bool) : (e.loseHomes lost).standing = e.standing := by
  unfold Eff.loseHomes
  refine Eff.standing_fold (fun e j => ?_) _ _
  dsimp only
  refine (Eff.modJob_standing _ _ _).trans ?_
  have hhomes : (j.homes.foldl (fun a h => match h with
      | some t => if t.hit lost then a.freeHome t else a
      | none => a) e).standing = e.standing := by
    refine Eff.standing_fold (fun e h => ?_) _ _
    split
    · split
      · exact e.freeHome_standing _
      · rfl
    · rfl
  split
  · split
    · exact hhomes
    · exact hhomes
  · exact hhomes

theorem Dev.rehomeRec_standing (d : Dev) (job l old dest : Nat) : (d.rehomeRec job l old dest).standing = d.standing := by
  unfold Dev.rehomeRec
  split
  · rfl
  · have hfold (l : List Nat) (a : Dev) : Dev.standing (l.foldl (fun acc n =>
        let o := acc.obj n
        if o.loc = .evicted || o.loc = .recalling then acc.setObj n { o with stack := dest } else acc) a) = a.standing :=
      foldl_keep Dev.standing (fun a n => by dsimp only; split <;> rfl) l a
    exact (hfold _ _).trans (d.modJob_standing job _)

theorem Dev.moveFrame_standing (d : Dev) (n : Nat) (f : PageFrame → PageFrame) :
    (d.moveFrame n f).standing = d.standing := rfl

theorem Eff.rehomeKv_standing (e : Eff) (j : Job) (layer : Nat) (free : Bool) :
    (e.rehomeKv j layer free).standing = e.standing := by
  unfold Eff.rehomeKv
  split
  · rfl
  · rename_i h _
    extract_lets e1 set follow
    have h1 : e1.standing = e.standing := by
      unfold e1
      split <;> rfl
    have hset (x : Eff) (n : KvHome) : (set x n).standing = x.standing := Eff.modJob_standing ..
    have hfollow (x : Eff) (k : Nat) : (follow x k).standing = x.standing :=
      Eff.mod_standing (foldl_keep Dev.standing (fun a n => a.moveFrame_standing n _) _ _)
    clear_value e1 set follow
    split
    · exact (hset _ _).trans h1
    · split
      · split
        · rename_i htake
          exact (hfollow _ _).trans ((hset _ _).trans ((Eff.takeLines_takes htake).standing.trans h1))
        · exact (hset _ _).trans h1
      · exact (hset _ _).trans h1

theorem Eff.rehomeLayers_standing (e : Eff) (lost : Space → Nat → Nat → Bool) :
    (e.rehomeLayers lost).standing = e.standing := by
  unfold Eff.rehomeLayers
  refine Eff.standing_fold (fun e j => ?_) _ _
  dsimp only
  refine (Eff.standing_fold (fun e l => ?_) _ _).trans (Eff.standing_fold (fun e l => ?_) _ _)
  · split
    · rfl
    · split
      · rfl
      · exact Eff.mod_standing (e.dev.rehomeRec_standing _ _ _ _)
  · split
    · split
      · exact e.rehomeKv_standing _ _ _
      · rfl
    · rfl

theorem Eff.dropRepairs_standing (e : Eff) (keep : Nat × Nat → Bool) :
    (e.mod (fun d => { d with repairs := d.repairs.filter keep })).standing = e.standing := rfl

theorem Eff.lose_standing (e : Eff) (lost : Space → Nat → Nat → Bool) (m : Nat) : (e.lose lost m).standing = e.standing := by
  unfold Eff.lose
  extract_lets e1 pages dirs named objs e2
  have h1 : e1.standing = e.standing := rfl
  have h2 : e2.standing = e1.standing := (Eff.loseDirs_standing _ _).trans
    ((Eff.standing_fold Eff.loseObj_standing _ _).trans (Eff.standing_fold Eff.losePage_standing _ _))
  clear_value e1 e2
  exact (Eff.dropRepairs_standing _ _).trans ((Eff.rehomeLayers_standing _ _).trans ((Eff.loseHomes_standing _ _).trans
    ((Eff.loseWeights_standing _ _).trans ((Eff.loseObjects_standing _ _).trans ((Eff.loseBoxes_standing _ _).trans
      ((Eff.loseStreams_standing _ _).trans (h2.trans h1)))))))

/-! ### A region out of service -/

theorem Dev.giveBackTile_still (d : Dev) (n : Nat) (h : Held) : (d.giveBackTile n h).still = d.still :=
  d.modJob_still' _ _

theorem Dev.giveBackSlice_still (d : Dev) (h : Held) : (d.giveBackSlice h).still = d.still := d.modJob_still' _ _

theorem Dev.reissueStall_still (d : Dev) (h : Held) : (d.reissueStall h).still = d.still := by
  unfold Dev.reissueStall
  split
  · split
    · rfl
    · exact d.modJob_still' _ _
  · rfl

theorem Dev.stopAndReissue_still (d : Dev) (n : Nat) : (d.stopAndReissue n).still = d.still := by
  unfold Dev.stopAndReissue
  split
  · rfl
  · dsimp only
    rw [Dev.stopCell_still, Dev.reissueStall_still, Dev.giveBackTile_still]
    split
    · exact d.giveBackTile_still _ _
    · rfl

theorem Dev.stopSlice_still (d : Dev) (n : Nat) : (d.stopSlice n).still = d.still := by
  unfold Dev.stopSlice
  split
  · rfl
  · rw [Dev.stopEngine_still, Dev.reissueStall_still, Dev.giveBackSlice_still]

/-- What a region out of service reads, with its two stacks. -/
structure Dev.RegionGone (d : Dev) (r : Nat) : Prop where
  out : (d.region r).outOfService = true
  draining : (d.region r).draining = false
  takeover : (d.region r).takeover = false
  sorter : (d.region r).sorter = {}
  wcb : (d.region r).wcb = []
  low : (d.stack (2 * r)).outOfService = true
  high : (d.stack (2 * r + 1)).outOfService = true

theorem Dev.RegionGone.of_tables {a b : Dev} {r : Nat} (h : a.RegionGone r) (hr : b.regions = a.regions)
    (hs : b.stackTab = a.stackTab) : b.RegionGone r := by
  have hregion (n : Nat) : b.region n = a.region n := by rw [Dev.region, hr]; rfl
  have hstack (n : Nat) : b.stack n = a.stack n := by rw [Dev.stack, hs]; rfl
  exact ⟨hregion r ▸ h.out, hregion r ▸ h.draining, hregion r ▸ h.takeover, hregion r ▸ h.sorter, hregion r ▸ h.wcb,
    hstack (2 * r) ▸ h.low, hstack (2 * r + 1) ▸ h.high⟩

/-- The tables of a region and its stacks once it leaves service. -/
def Dev.leaveRegion (d : Dev) (r : Nat) : Dev :=
  ((d.modRegion r (fun x => { x with
    outOfService := true, draining := false, takeover := false, wcb := [], cached := [], levelTwo := [], sorter := {} })).modStack (2 * r)
      (fun x => { x with outOfService := true, window := none })).modStack (2 * r + 1)
      (fun x => { x with outOfService := true, window := none })

theorem Dev.leaveRegion_gone (d : Dev) (r : Nat) : (d.leaveRegion r).RegionGone r := by
  have hregion : (d.leaveRegion r).region r = { d.region r with
      outOfService := true, draining := false, takeover := false, wcb := [], cached := [], levelTwo := [], sorter := {} } :=
    tgetD_tset_same ..
  have hhigh : ((d.leaveRegion r).stack (2 * r + 1)).outOfService = true :=
    congrArg Stack.outOfService (tgetD_tset_same ..)
  have hlow : ((d.leaveRegion r).stack (2 * r)).outOfService = true :=
    (congrArg Stack.outOfService (tgetD_tset_other _ _ _ _ _ (by omega))).trans
      (congrArg Stack.outOfService (tgetD_tset_same ..))
  exact ⟨by rw [hregion], by rw [hregion], by rw [hregion], by rw [hregion], by rw [hregion], hlow, hhigh⟩

theorem Dev.markFenced_raised (d : Dev) (which : Job → Round → Bool) : (d.markFenced which).raised = d.raised := rfl

theorem Eff.leaveTables_standing (e : Eff) (r : Nat) : (e.mod (fun d => { d.capacityOf (regionUnit r) 5 with
    removals := d.removals.filter (fun x => x.unit != regionUnit r) })).standing = e.standing := rfl

/-- A region in service that is lost: its tables as it leaves, no cause raised and no safety change made. -/
theorem Eff.loseRegion_gone {e : Eff} {r : Nat} (h : (e.dev.region r).outOfService = false) :
    (e.loseRegion r).dev.RegionGone r ∧ (e.loseRegion r).dev.raised = e.dev.raised ∧
      (e.loseRegion r).safety = e.safety := by
  unfold Eff.loseRegion
  rw [if_neg (by simp [h])]
  extract_lets cells engines e1 e2 e3 e4 e5
  clear_value cells engines
  have h1 : e1.dev.raised = e.dev.raised := (Dev.markFenced_raised _ _).trans
    (Dev.still_raised (foldl_still Dev.stopAndReissue_still cells e.dev))
  have h2 : e2.dev.raised = e1.dev.raised := Dev.still_raised (foldl_still Dev.stopSlice_still engines e1.dev)
  have h2s : e2.safety = e.safety := rfl
  have h3 : e3.standing = e2.standing := Eff.lose_standing ..
  have h4 : e4 = e3.mod (fun d => d.leaveRegion r) := rfl
  clear_value e1 e2 e3
  have h5 : e5.standing = e4.standing := rfl
  clear_value e5
  have h6 := (Eff.leaveTables_standing (e5.rehomeLayers (inRegion r)) r).trans
    ((e5.rehomeLayers_standing (inRegion r)).trans (h5.trans (congrArg Eff.standing h4)))
  generalize (e5.rehomeLayers (inRegion r)).mod _ = e6 at h6 ⊢
  have hraised : e6.dev.raised = e3.dev.raised := (congrArg (fun x => x.1.1) h6 :)
  have hraised3 : e3.dev.raised = e2.dev.raised := (congrArg (fun x => x.1.1) h3 :)
  have hsafety : e6.safety = e3.safety := (congrArg Prod.snd h6 :)
  have hsafety3 : e3.safety = e2.safety := (congrArg Prod.snd h3 :)
  have hregions : e6.dev.regions = (e3.dev.leaveRegion r).regions := (congrArg (fun x => x.1.2.1) h6 :)
  have hstacks : e6.dev.stackTab = (e3.dev.leaveRegion r).stackTab := (congrArg (fun x => x.1.2.2) h6 :)
  exact ⟨(e3.dev.leaveRegion_gone r).of_tables hregions hstacks, hraised.trans (hraised3.trans (h2.trans h1)),
    hsafety.trans (hsafety3.trans h2s)⟩

/-- A command that loses a region of a device with no cause: what it leaves when it clears no cause besides. -/
theorem loseRegion_after {i : Instr} {s : State} {d : Dev} {r : Nat} (hi : exec i s = s.done (d.eff.loseRegion r))
    (hr : d.raised = []) (h : (d.region r).outOfService = false) :
    ∃ t, exec i s = .next t ∧ t.dev.RegionGone r ∧ t.safety = s.safety := by
  obtain ⟨hgone, hraised, hsafety⟩ := Eff.loseRegion_gone (e := d.eff) h
  have honly := s.apply_only (d.eff.loseRegion r) (hraised.trans hr)
  exact ⟨_, hi, hgone.of_tables honly.regions honly.stackTab, (State.apply_calm (hraised.trans hr) hsafety).1⟩

/-- The second link of a region's port fails. -/
theorem secondLink_after {s : State} {r : Fin 6} {l0 l1 : Fin 2} (hr : s.dev.raised = [])
    (hin : (s.dev.region r).outOfService = false) (hne : l0 ≠ l1) (hlinks : (s.dev.region r).linksFailed = [(l0 : Nat)]) :
    ∃ t, exec (.fabricLinkFailure r l1) s = .next t ∧ t.dev.RegionGone r ∧ t.safety = s.safety := by
  have hnew : ¬ (l1 : Nat) = l0 := fun h => hne (Fin.ext h.symm)
  have hfails : s.dev.linkFails r l1 = (((s.dev.modRegion r (fun y =>
      { y with linksFailed := y.linksFailed ++ [(l1 : Nat)] })).markReadmit
        (fun j => j.grant.cells.any (fun n => n / 64 == r))).eff.loseRegion r) := by
    simp [Dev.linkFails, hin, hlinks, hnew]
  refine loseRegion_after (congrArg s.done hfails) hr ?_
  exact (congrArg Region.outOfService (tgetD_tset_same ..)).trans hin

/-- A region whose clock, the only one lost, does not relock. -/
theorem relock_after {s : State} {r : Fin 6} (hr : s.dev.raised = []) (hin : (s.dev.region r).outOfService = false)
    (hclocks : s.dev.support.clocks = [.region r]) :
    ∃ t, exec (.clockRelockTimeout r) s = .next t ∧ t.dev.RegionGone r ∧ t.safety = { s.safety with
      causes := if bit s.safety.causes 3 then s.safety.causes - 8 else s.safety.causes } := by
  obtain ⟨hgone, hraised, hsafety⟩ := Eff.loseRegion_gone (e := s.dev.eff) hin
  have hdone : exec (.clockRelockTimeout r) s = s.done { (s.dev.eff.loseRegion r) with
      dev := { (s.dev.eff.loseRegion r).dev with support := { (s.dev.eff.loseRegion r).dev.support with clocks := [] } }
      safety := (s.dev.eff.loseRegion r).safety ++ [.clear 3] } := by
    refine congrArg s.done ((if_pos (by simp [hclocks])).trans ?_)
    simp [hclocks]
  generalize s.dev.eff.loseRegion r = e at hgone hraised hsafety hdone
  have hnone : ({ e.dev with support := { e.dev.support with clocks := [] } } : Dev).raised = [] := hraised.trans hr
  have honly := s.apply_only { e with
    dev := { e.dev with support := { e.dev.support with clocks := [] } }, safety := e.safety ++ [.clear 3] } hnone
  refine ⟨_, hdone, hgone.of_tables honly.regions honly.stackTab, ?_⟩
  have hempty : e.safety = [] := hsafety
  simp [hempty, hraised.trans hr, Safety.take, SafetyOp.run]

/-- Settles O42: each of the three loses the region, and the lost clock's cause goes with it (R273, R471, R473). -/
theorem regionsAreLost : Obligations.RegionsAreLost := by
  unfold Obligations.RegionsAreLost
  intro s r l0 l1 hr hin hne c clear hc
  simp only [List.mem_append, List.mem_singleton, Prod.mk.injEq] at hc
  rcases hc with (⟨rfl, rfl⟩ | hc) | hc
  · obtain ⟨t, ht, hgone, hsafety⟩ := loseRegion_after (i := .regionLoss r) (s := s) rfl hr hin
    exact ⟨t, ht, hgone.out, hgone.draining, hgone.takeover, hgone.sorter, hgone.wcb, hgone.low, hgone.high, hsafety⟩
  · split at hc
    · rename_i hlinks
      obtain ⟨rfl, rfl⟩ := Prod.mk.injEq .. ▸ List.mem_singleton.mp hc
      obtain ⟨t, ht, hgone, hsafety⟩ := secondLink_after hr hin hne hlinks
      exact ⟨t, ht, hgone.out, hgone.draining, hgone.takeover, hgone.sorter, hgone.wcb, hgone.low, hgone.high, hsafety⟩
    · cases hc
  · split at hc
    · rename_i hclocks
      obtain ⟨rfl, rfl⟩ := Prod.mk.injEq .. ▸ List.mem_singleton.mp hc
      obtain ⟨t, ht, hgone, hsafety⟩ := relock_after hr hin hclocks
      exact ⟨t, ht, hgone.out, hgone.draining, hgone.takeover, hgone.sorter, hgone.wcb, hgone.low, hgone.high, hsafety⟩
    · cases hc

/-! ### Fences -/

theorem Dev.modJob_eq (d : Dev) (n : Nat) (f : Job → Job) : ∃ l, d.modJob n f = { d with jobs := l } := by
  unfold Dev.modJob
  split
  · exact ⟨_, rfl⟩
  · exact ⟨d.jobs, rfl⟩

/-- What holds of a cell or engine and stays so when its work stops and when it is fenced. -/
structure Steadfast (P : ComputeUnit → Prop) : Prop where
  stopCell : ∀ c, P c → P { c with held := none, ahead := none, parts := {} }
  stopEngine : ∀ c, P c → P { c with held := none, parts := {} }
  fence : ∀ c, P c → P { c with fenced := true, pattern := false, parts := {} }

theorem steadfast_fenced : Steadfast (fun c => c.fenced = true) := ⟨fun _ h => h, fun _ h => h, fun _ _ => rfl⟩

/-- Every cell and every engine of which `P` holds stays so, no cause is raised, and what clears a cause is as before. -/
structure Dev.UnitsKept (P : ComputeUnit → Prop) (d d' : Dev) : Prop where
  cell : ∀ m, P (d.cell m) → P (d'.cell m)
  engine : ∀ m, P (d.engine m) → P (d'.engine m)
  raised : d'.raised = d.raised
  support : d'.support = d.support

section UnitsKept

variable {P : ComputeUnit → Prop}

theorem Dev.UnitsKept.refl (d : Dev) : d.UnitsKept P d := ⟨fun _ h => h, fun _ h => h, rfl, rfl⟩

theorem Dev.UnitsKept.trans {a b c : Dev} (h : a.UnitsKept P b) (g : b.UnitsKept P c) : a.UnitsKept P c :=
  ⟨fun m hm => g.cell m (h.cell m hm), fun m hm => g.engine m (h.engine m hm), g.raised.trans h.raised, g.support.trans h.support⟩

theorem Dev.UnitsKept.fold {α : Type} {f : Dev → α → Dev} (h : ∀ d x, Dev.UnitsKept P d (f d x)) (l : List α) (d : Dev) :
    d.UnitsKept P (l.foldl f d) := by
  induction l generalizing d with
  | nil => exact .refl d
  | cons x l ih => exact (h d x).trans (ih (f d x))

/-- A change that leaves the tables of cells and engines. -/
theorem Dev.UnitsKept.of_tables {d d' : Dev} (hc : d'.cells = d.cells) (he : d'.engines = d.engines)
    (hr : d'.raised = d.raised) (hs : d'.support = d.support) : d.UnitsKept P d' :=
  ⟨fun m h => by rw [Dev.cell, hc]; exact h, fun m h => by rw [Dev.engine, he]; exact h, hr, hs⟩

theorem Dev.UnitsKept.modJob (d : Dev) (n : Nat) (f : Job → Job) : d.UnitsKept P (d.modJob n f) := by
  obtain ⟨l, h⟩ := d.modJob_eq n f
  rw [h]
  exact .of_tables rfl rfl rfl rfl

theorem Dev.UnitsKept.modCell (d : Dev) (n : Nat) (f : ComputeUnit → ComputeUnit)
    (h : ∀ x, P x → P (f x)) : d.UnitsKept P (d.modCell n f) := by
  refine ⟨fun m hm => ?_, fun m hm => hm, rfl, rfl⟩
  rw [Dev.cell, Dev.modCell, tgetD_tset]
  split
  · rename_i heq
    exact h _ (heq ▸ hm)
  · exact hm

theorem Dev.UnitsKept.modEngine (d : Dev) (n : Nat) (f : ComputeUnit → ComputeUnit)
    (h : ∀ x, P x → P (f x)) : d.UnitsKept P (d.modEngine n f) := by
  refine ⟨fun m hm => hm, fun m hm => ?_, rfl, rfl⟩
  rw [Dev.engine, Dev.modEngine, tgetD_tset]
  split
  · rename_i heq
    exact h _ (heq ▸ hm)
  · exact hm

theorem Dev.UnitsKept.cellBusy (d : Dev) (j : Job) (r : Role) (n : Nat) : d.UnitsKept P (d.cellBusy j r n) := by
  unfold Dev.cellBusy
  split
  · refine Dev.UnitsKept.trans ?_ (.modJob _ _ _)
    exact .of_tables rfl rfl rfl rfl
  · refine Dev.UnitsKept.trans ?_ (.modJob _ _ _)
    exact .of_tables rfl rfl rfl rfl

theorem Dev.UnitsKept.engineBusy (d : Dev) (j : Job) (r : Role) (n : Nat) : d.UnitsKept P (d.engineBusy j r n) := by
  unfold Dev.engineBusy
  split
  · refine Dev.UnitsKept.trans ?_ (.modJob _ _ _)
    exact .of_tables rfl rfl rfl rfl
  · refine Dev.UnitsKept.trans ?_ (.modJob _ _ _)
    exact .of_tables rfl rfl rfl rfl

theorem Dev.UnitsKept.credit (d : Dev) (j : Job) (a b : Nat) : d.UnitsKept P (d.credit j a b) := by
  refine Dev.UnitsKept.trans ?_ (Dev.UnitsKept.modJob _ _ _)
  exact .of_tables rfl rfl rfl rfl

theorem Dev.UnitsKept.reissueStall (d : Dev) (h : Held) : d.UnitsKept P (d.reissueStall h) := by
  unfold Dev.reissueStall
  split
  · split
    · exact .refl d
    · exact .modJob _ _ _
  · exact .refl d

theorem Dev.UnitsKept.stopCell (hP : Steadfast P) (d : Dev) (n : Nat) : d.UnitsKept P (d.stopCell n) := by
  unfold Dev.stopCell
  split
  · exact .refl d
  · have h1 : d.UnitsKept P (d.modCell n (fun c => { c with held := none, ahead := none, parts := {} })) :=
      .modCell d n _ hP.stopCell
    dsimp only
    split
    · exact h1
    · split
      · exact (h1.trans (.cellBusy ..)).trans (.credit ..)
      · exact h1.trans (.cellBusy ..)

theorem Dev.UnitsKept.stopEngine (hP : Steadfast P) (d : Dev) (n : Nat) : d.UnitsKept P (d.stopEngine n) := by
  unfold Dev.stopEngine
  split
  · exact .refl d
  · have h1 : d.UnitsKept P (d.modEngine n (fun c => { c with held := none, parts := {} })) := .modEngine d n _ hP.stopEngine
    dsimp only
    split
    · exact h1
    · split
      · exact (h1.trans (.engineBusy ..)).trans (.credit ..)
      · exact h1.trans (.engineBusy ..)

theorem Dev.UnitsKept.stopAndReissue (hP : Steadfast P) (d : Dev) (n : Nat) : d.UnitsKept P (d.stopAndReissue n) := by
  unfold Dev.stopAndReissue
  split
  · exact .refl d
  · refine Dev.UnitsKept.trans (Dev.UnitsKept.trans (Dev.UnitsKept.trans ?_ (.modJob _ _ _)) (.reissueStall _ _))
      (.stopCell hP _ _)
    split
    · exact .modJob _ _ _
    · exact .refl d

theorem Dev.UnitsKept.stopSlice (hP : Steadfast P) (d : Dev) (n : Nat) : d.UnitsKept P (d.stopSlice n) := by
  unfold Dev.stopSlice
  split
  · exact .refl d
  · exact Dev.UnitsKept.trans (Dev.UnitsKept.trans (.modJob _ _ _) (.reissueStall _ _)) (.stopEngine hP _ _)

theorem Dev.UnitsKept.fenceCell (hP : Steadfast P) (d : Dev) (n : Nat) : d.UnitsKept P (d.fenceCell n) := by
  unfold Dev.fenceCell
  split
  · exact .refl d
  · have h1 : d.UnitsKept P ((d.stopAndReissue n).modCell n
        (fun c => { c with fenced := true, pattern := false, parts := {} })) :=
      (Dev.UnitsKept.stopAndReissue hP d n).trans (.modCell _ n _ hP.fence)
    exact h1.trans (.of_tables rfl rfl rfl rfl)

theorem Dev.UnitsKept.fenceEngine (hP : Steadfast P) (d : Dev) (n : Nat) : d.UnitsKept P (d.fenceEngine n) := by
  unfold Dev.fenceEngine
  split
  · exact .refl d
  · have h1 : d.UnitsKept P ((d.stopSlice n).modEngine n
        (fun c => { c with fenced := true, pattern := false, parts := {} })) :=
      (Dev.UnitsKept.stopSlice hP d n).trans (.modEngine _ n _ hP.fence)
    exact h1.trans (.of_tables rfl rfl rfl rfl)

theorem Dev.UnitsKept.emergencyFence (hP : Steadfast P) (d : Dev) (u : Nat) : d.UnitsKept P (d.emergencyFence u) := by
  unfold Dev.emergencyFence
  extract_lets news d1 d2
  have h1 : d.UnitsKept P d1 := .fold (.fenceCell hP) _ d
  have h2 : d1.UnitsKept P d2 := .fold (.fenceEngine hP) _ d1
  refine h1.trans (h2.trans ?_)
  split
  · exact .of_tables rfl rfl rfl rfl
  · exact .refl d2

end UnitsKept

theorem Dev.fenceCell_fenced (d : Dev) (n : Nat) : ((d.fenceCell n).cell n).fenced = true := by
  unfold Dev.fenceCell
  split
  · assumption
  · exact congrArg ComputeUnit.fenced (tgetD_tset_same ..)

theorem Dev.fenceEngine_fenced (d : Dev) (n : Nat) : ((d.fenceEngine n).engine n).fenced = true := by
  unfold Dev.fenceEngine
  split
  · assumption
  · exact congrArg ComputeUnit.fenced (tgetD_tset_same ..)

/-- Cells fenced one after another are fenced in the end. -/
theorem Dev.fenceCells_fence {n : Nat} (l : List Nat) (d : Dev) (h : n ∈ l) :
    ((l.foldl Dev.fenceCell d).cell n).fenced = true := by
  induction l generalizing d with
  | nil => cases h
  | cons m l ih =>
    rw [List.foldl_cons]
    cases h with
    | head => exact (Dev.UnitsKept.fold (Dev.UnitsKept.fenceCell steadfast_fenced) l _).cell n (d.fenceCell_fenced n)
    | tail _ h => exact ih (d.fenceCell m) h

theorem Dev.fenceEngines_fence {n : Nat} (l : List Nat) (d : Dev) (h : n ∈ l) :
    ((l.foldl Dev.fenceEngine d).engine n).fenced = true := by
  induction l generalizing d with
  | nil => cases h
  | cons m l ih =>
    rw [List.foldl_cons]
    cases h with
    | head => exact (Dev.UnitsKept.fold (Dev.UnitsKept.fenceEngine steadfast_fenced) l _).engine n (d.fenceEngine_fenced n)
    | tail _ h => exact ih (d.fenceEngine m) h

/-- An emergency fence of a unit fences every cell and every engine that the unit covers. -/
theorem Dev.emergencyFence_fences (d : Dev) (u : Nat) :
    (d.emergencyFence u).raised = d.raised ∧
      (∀ n ∈ unitCells u, ((d.emergencyFence u).cell n).fenced = true) ∧
      ∀ n ∈ unitEngines u, ((d.emergencyFence u).engine n).fenced = true := by
  refine ⟨(Dev.UnitsKept.emergencyFence steadfast_fenced d u).raised, ?_⟩
  unfold Dev.emergencyFence
  extract_lets news d1 d2
  have h2 : d1.UnitsKept (fun c => c.fenced = true) d2 := .fold (.fenceEngine steadfast_fenced) _ d1
  have h3 : d2.UnitsKept (fun c => c.fenced = true) (if news then d2.capacityOf u 0 else d2) := by
    split
    · exact .of_tables rfl rfl rfl rfl
    · exact .refl d2
  exact ⟨fun n hn => h3.cell n (h2.cell n (Dev.fenceCells_fence _ _ hn)),
    fun n hn => h3.engine n (Dev.fenceEngines_fence _ _ hn)⟩

/-! ### Reports of units -/

/-- The block and the cell of a unit's number, read back from their bits. -/
theorem unit_parts {kind q b c : Nat} (hk : kind < 16) (hq : q < 6) (hb : b < 8) (hc : c < 8) :
    (kind + q * 16 + b * 256 + c * 4096) / 256 % 8 = b ∧ (kind + q * 16 + b * 256 + c * 4096) / 4096 % 8 = c := by
  have h8 : (kind + q * 16 + b * 256 + c * 4096) / 256 = b + 16 * c := by omega
  have h12 : (kind + q * 16 + b * 256 + c * 4096) / 4096 = c := by omega
  rw [h8, h12]
  omega

theorem unitCells_cellUnit {n : Nat} (h : n < 384) : n ∈ unitCells (cellUnit n) := by
  obtain ⟨hb, hc⟩ := unit_parts (kind := 0) (q := n / 64) (b := n / 8 % 8) (c := n % 8) (by decide) (by omega) (by omega)
    (by omega)
  rw [Nat.zero_add] at hb hc
  have hlow : ¬ 0x8000 ≤ cellUnit n := by
    unfold cellUnit
    omega
  have hkind : unitKind (cellUnit n) = 0 := by
    simp only [unitKind, field, cellUnit, Nat.shiftRight_eq_div_pow]
    omega
  have hregion : unitRegion (cellUnit n) = n / 64 := by
    simp only [unitRegion, field, cellUnit, Nat.shiftRight_eq_div_pow]
    omega
  have hblock : unitBlock (cellUnit n) = n / 8 % 8 := by
    rw [unitBlock, field, Nat.shiftRight_eq_div_pow]
    exact hb
  have hcell : field (cellUnit n) 14 12 = n % 8 := by
    rw [field, Nat.shiftRight_eq_div_pow]
    exact hc
  rw [unitCells, if_neg hlow, hkind, hregion, hblock, hcell]
  have hn : n = n / 64 * 64 + n / 8 % 8 * 8 + n % 8 := by omega
  exact List.mem_singleton.mpr hn

theorem unitCells_blockUnit {m b : Nat} (h : b < 48) (hm : m / 8 = b) : m ∈ unitCells (blockUnit b) := by
  obtain ⟨hb, _⟩ := unit_parts (kind := 1) (q := b / 8) (b := b % 8) (c := 0) (by decide) (by omega) (by omega) (by decide)
  have hlow : ¬ 0x8000 ≤ blockUnit b := by
    unfold blockUnit
    omega
  have hkind : unitKind (blockUnit b) = 1 := by
    simp only [unitKind, field, blockUnit, Nat.shiftRight_eq_div_pow]
    omega
  have hregion : unitRegion (blockUnit b) = b / 8 := by
    simp only [unitRegion, field, blockUnit, Nat.shiftRight_eq_div_pow]
    omega
  have hblock : unitBlock (blockUnit b) = b % 8 := by
    rw [unitBlock, field, Nat.shiftRight_eq_div_pow]
    exact hb
  rw [unitCells, if_neg hlow, hkind, hregion, hblock]
  exact List.mem_map.mpr ⟨m % 8, List.mem_range.mpr (by omega), by omega⟩

theorem unitEngines_engineUnit (n : Nat) : n ∈ unitEngines (engineUnit n) := by
  rw [unitEngines, if_pos (by simp [engineUnit])]
  simp [engineUnit]

/-- A report that asks for an emergency fence of a unit, from a device with no cause. -/
theorem fence_after {i : Instr} {s : State} {u : Nat} (hi : exec i s = s.done (s.dev.emergencyFence u).eff)
    (hr : s.dev.raised = []) :
    ∃ t, exec i s = .next t ∧ (∀ n ∈ unitCells u, (t.dev.cell n).fenced = true) ∧
      ∀ n ∈ unitEngines u, (t.dev.engine n).fenced = true := by
  obtain ⟨hraised, hcells, hengines⟩ := s.dev.emergencyFence_fences u
  refine ⟨_, hi, fun n hn => ?_, fun n hn => ?_⟩
  · rw [State.apply_cell _ _ (hraised.trans hr)]
    exact hcells n hn
  · rw [State.apply_engine _ _ (hraised.trans hr)]
    exact hengines n hn

/-- A sorter that is fenced reads so whatever becomes of the slices that ran on it. -/
theorem Dev.fenceSorter_fences {d : Dev} {r : Nat} (h : (d.region r).sorter.fenced = false) :
    (d.fenceSorter r).raised = d.raised ∧ ((d.fenceSorter r).region r).sorter = { fenced := true } := by
  unfold Dev.fenceSorter
  rw [if_neg (by simp [h])]
  extract_lets d1 up d2
  have hfold : d2.standing = d1.standing := by
    refine foldl_keep Dev.standing (fun a j => ?_) _ d1
    split
    · rfl
    · refine foldl_keep Dev.standing (fun b x => ?_) _ a
      dsimp only
      generalize (if decide (x.state = .running) then x.sorts.filter _ else []) = mine
      split
      · rfl
      · split
        · exact ((b.modRound j.id _).modJob_standing j.id _).trans (b.modJob_standing j.id _)
        · exact b.modJob_standing j.id _
  have hraised : d2.raised = d.raised := congrArg Prod.fst hfold
  have hregions : d2.regions = d1.regions := congrArg (fun x => x.2.1) hfold
  have hregion : d2.region r = d1.region r := by rw [Dev.region, hregions, Dev.region]
  refine ⟨hraised, (congrArg Region.sorter hregion).trans ?_⟩
  exact congrArg Region.sorter (tgetD_tset_same ..)

/-- Settles O43: a corrected error counts, any other report fences (R95, R136, R223, R465). -/
theorem unitsReport : Obligations.UnitsReport := by
  unfold Obligations.UnitsReport
  intro s hr
  refine ⟨fun n hup => ⟨completes_done rfl (congrArg Dev.eff (if_pos hup)) hr, fun k hk => ?_, fun k hk => ?_⟩,
    fun k e hup => ⟨completes_done rfl (congrArg Dev.eff (if_pos hup)) hr, fun f hf => ?_⟩, fun r hjob hfenced => ?_⟩
  · have hexec : exec (.cellFault n k) s = s.done (s.dev.emergencyFence (cellUnit n)).eff := by
      refine congrArg (fun d : Dev => s.done d.eff) ((if_pos hup).trans ?_)
      simp only [List.mem_cons, List.not_mem_nil, or_false] at hk
      obtain rfl | rfl | rfl := hk <;> rfl
    obtain ⟨t, ht, hcells, _⟩ := fence_after hexec hr
    exact ⟨t, ht, hcells n (unitCells_cellUnit n.isLt)⟩
  · have hexec : exec (.cellFault n k) s = s.done (s.dev.emergencyFence (blockUnit (n / 8))).eff := by
      refine congrArg (fun d : Dev => s.done d.eff) ((if_pos hup).trans ?_)
      simp only [List.mem_cons, List.not_mem_nil, or_false] at hk
      obtain rfl | rfl | rfl := hk <;> rfl
    obtain ⟨t, ht, hcells, _⟩ := fence_after hexec hr
    exact ⟨t, ht, fun m hm => hcells m (unitCells_blockUnit (by omega) hm)⟩
  · have hexec : exec (.engineFault k e f) s = s.done (s.dev.emergencyFence (engineUnit (k * 16 + e))).eff := by
      refine congrArg (fun d : Dev => s.done d.eff) ((if_pos hup).trans ?_)
      simp only [List.mem_cons, List.not_mem_nil, or_false] at hf
      obtain rfl | rfl := hf <;> rfl
    obtain ⟨t, ht, _, hengines⟩ := fence_after hexec hr
    exact ⟨t, ht, hengines _ (unitEngines_engineUnit _)⟩
  · obtain ⟨hraised, hsorter⟩ := Dev.fenceSorter_fences hfenced
    have hexec : exec (.sorterDisagreement r) s = s.done (s.dev.fenceSorter r).eff :=
      congrArg (fun d : Dev => s.done d.eff) (if_pos hjob)
    refine ⟨_, hexec, ?_⟩
    rw [State.apply_region _ _ (hraised.trans hr)]
    exact hsorter

end Sys2Proof.Machine
end

section
/-!
The object dictionary: writes of objects and of watermark slots (O44), the configuration store and firmware (O45), the
objects that act as commands (O46), and the commands about partitions, tests, removals and resets (O47).
-/

namespace Sys2Proof.Machine

open Sys2Proof.Safety

/-! ### Entries the checks of R398 turn away -/

/-- An entry of an object that does not exist. -/
theorem State.writeOne_absent {s : State} {who : Requester} {w : Entry}
    (h : indexExists w.idx = false ∨ s.dev.absent w.idx w.sub = true) : s.writeOne who false w = (s.dev.eff, rType) := by
  refine if_pos ?_
  obtain h | h := h <;> simp [h]

/-- An entry of sub-index 0, of an alias, of an object that is only read or that the requester may not write. -/
theorem State.writeOne_refused {s : State} {who : Requester} {w : Entry} (hindex : indexExists w.idx = true)
    (hthere : s.dev.absent w.idx w.sub = false) (h : w.sub = 0 ∨ isAlias w.idx w.sub = true ∨
      ∃ i, objInfo w.idx w.sub = some i ∧ (i.acc = .ro ∨ s.dev.mayWrite who false w.idx w.sub = false)) :
    s.writeOne who false w = (s.dev.eff, rAccess) := by
  refine (if_neg (by simp [hindex, hthere])).trans ?_
  by_cases hsub : (w.sub = 0 || isAlias w.idx w.sub) = true
  · exact if_pos hsub
  · obtain h | h | ⟨i, hi, hacc⟩ := h
    · simp [h] at hsub
    · simp [h] at hsub
    · rw [if_neg hsub, hi]
      refine if_pos ?_
      obtain hacc | hacc := hacc <;> simp [hacc]

/-! ### Objects that are no command -/

/-- The objects outside the partition area whose write is a command of its own. -/
def commandKeys : List (Nat × Nat) :=
  [(0x1100, 0x01), (0x1100, 0x10), (0x1100, 0x15), (0x1100, 0x16), (0x2000, 1), (0x2000, 2), (0x2000, 6), (0x2000, 8),
    (0x5001, 3), (0x5002, 1), (0x5010, 1), (0x5021, 1), (0x6000, 4), (0x6003, 1), (0x9001, 3)]

/-- An accepted value of an object that is no command is stored, and that is all. -/
theorem State.accept_stores (s : State) (who : Requester) (v : Nat) (value : Bytes) {idx sub : Nat} {i : ObjInfo}
    (hpart : inPartArea idx = false) (hslot : subIn idx 0x7100 32 = false) (hpin : idx ≠ 0x8000) (hrights : idx ≠ 0x9010)
    (hkey : (idx, sub) ∉ commandKeys) (hkind : i.kind = .notCounter) :
    s.accept who false idx sub v value i = (s.dev.setConf idx sub v).eff := by
  unfold State.accept
  simp only [hpart, hslot, hkind, bne_self_eq_false, Bool.false_eq_true, if_false]
  split
  case h_9 => rfl
  case h_17 => exact absurd rfl hpin
  case h_18 => exact absurd rfl hrights
  case h_19 => rfl
  all_goals exact absurd (by decide) hkey

/-- No value of an object outside the partition area and the slots is reserved beyond its type, commands aside. -/
theorem Dev.encodingOk_plain (d : Dev) (v : Nat) {idx sub : Nat} (hpart : inPartArea idx = false)
    (hslot : subIn idx 0x7100 32 = false) (hkey : (idx, sub) ∉ commandKeys) : d.encodingOk idx sub v = true := by
  have hcommand {a b : Nat} (h : (a, b) ∈ commandKeys) : ¬(idx = a ∧ sub = b) := by
    rintro ⟨rfl, rfl⟩
    exact hkey h
  have h1 := hcommand (a := 0x5010) (b := 1) (by decide)
  have h2 := hcommand (a := 0x5021) (b := 1) (by decide)
  have h3 := hcommand (a := 0x2000) (b := 2) (by decide)
  have h4 := hcommand (a := 0x2000) (b := 6) (by decide)
  unfold Dev.encodingOk
  rw [if_neg (by omega), if_neg h3, if_neg h4, if_neg (by simp [hpart, hslot])]

/-! ### Watermark slots -/

/-- The up level of a slot outside the partition area. -/
theorem slot_level {n : Nat} (h : n < 32) : indexExists (0x7100 + n) = true ∧ inPartArea (0x7100 + n) = false ∧
    isAlias (0x7100 + n) 2 = false ∧ subIn (0x7100 + n) 0x7100 32 = true ∧
    objInfo (0x7100 + n) 2 = some { ty := .u64, acc := .rws, dflt := 2 ^ 64 - 1 } := by
  revert n
  decide

theorem State.permits_level (s : State) (v : Nat) (value : Bytes) {idx : Nat} (hpart : inPartArea idx = false)
    (hslot : subIn idx 0x7100 32 = true) : s.permits false idx 2 v value = true := by
  unfold State.permits
  simp only [hpart, Bool.false_eq_true, if_false]
  split
  case h_13 => rfl
  all_goals exact absurd hslot (by decide)

/-- Settles O44: a write that passes R398 stores the fitted value, any other is reported (R398, R399, R408). -/
theorem objectWritesComplete : Obligations.ObjectWritesComplete := by
  unfold Obligations.ObjectWritesComplete
  intro s who hr
  refine ⟨fun idx sub v i f hindex hpart hslot hpin hrights hkey hsub halias hinfo hmay hacc hstr hblob hkind hty hpermits hf => ?_,
    fun idx sub type v hindex hthere hwhy => ?_, fun idx sub type v habsent => ?_, fun n v hn hv hmay => ?_⟩
  · refine completes_write (d := s.dev.setConf idx sub f.1) rfl ?_ ?_ hr
    · rintro ⟨h1, h2, _⟩
      exact hkey (by simp [show idx = 0x1100 from h1, show sub = 1 from h2])
    · rw [s.writeOne_ok who _ i hindex (by simp [Dev.absent, hpart]) hsub halias hinfo hmay hacc hty
        (s.dev.encodingOk_plain _ hpart hslot hkey) hpermits, if_neg (by simp [hstr, hblob])]
      dsimp only
      rw [← hf, s.accept_stores who _ _ hpart hslot hpin hrights hkey hkind]
  · exact completes_write rfl (fun h => by simp [rAccess, rAccepted] at h) (State.writeOne_refused hindex hthere hwhy) hr
  · exact completes_write rfl (fun h => by simp [rType, rAccepted] at h) (State.writeOne_absent habsent) hr
  · obtain ⟨hindex, hpart, halias, hslot, hinfo⟩ := slot_level hn
    have hrow : exec (.watermarkSlotWrite who (0x7100 + n) 2 Ty.u64.code (toLe 8 v)) s =
        .next (s.writeRow who (entryFor (0x7100 + n) 2 v)) := by
      rw [entryFor_some v hinfo]
      rfl
    have hread : leNat (toLe 8 v) = v := by
      rw [leNat_toLe]
      exact Nat.mod_eq_of_lt (by omega)
    have hwell : ({ ty := .u64, acc := .rws, dflt := 2 ^ 64 - 1 } : ObjInfo).wellTyped (entryFor (0x7100 + n) 2 v) = true := by
      rw [entryFor_some v hinfo]
      have hmask : v &&& (2 ^ 64 - 1) = v := by rw [Nat.and_two_pow_sub_one_eq_mod]; exact Nat.mod_eq_of_lt hv
      simp only [ObjInfo.wellTyped, Ty.width, hread, hmask, toLe_length]
      simp
    have hfit : fitValue (s.dev.rangeOf (0x7100 + n) 2 { ty := .u64, acc := .rws, dflt := 2 ^ 64 - 1 }).1
        (s.dev.rangeOf (0x7100 + n) 2 { ty := .u64, acc := .rws, dflt := 2 ^ 64 - 1 }).2 1 v = (v, rAccepted) := by
      have hrange : s.dev.rangeOf (0x7100 + n) 2 { ty := .u64, acc := .rws, dflt := 2 ^ 64 - 1 } = (0, 2 ^ 64 - 1) := by
        simp [Dev.rangeOf, hpart]
      rw [hrange, fitValue, if_neg (Nat.not_lt_zero v), if_neg (by omega), if_pos (Nat.mod_one v)]
    refine completes_write hrow (fun h => by simp at h) ?_ hr
    refine (s.writeOne_number who _ 2 v _ hindex (by simp [Dev.absent, hpart]) (by decide) halias hinfo hmay (by decide)
      hwell ?_ ?_ (by decide) hread hfit).trans ?_
    · rw [Dev.encodingOk, if_neg (by omega), if_neg (by omega), if_neg (by omega), if_neg (by omega)]
    · exact s.permits_level v _ hpart hslot
    · simp [State.accept, hpart, hslot, State.writeSlot]

/-! ### The configuration store and firmware -/

/-- A command object written whole by a requester that may, whose effect raises no cause. -/
theorem completes_command {c : Instr} {s : State} {who : Requester} {idx sub v : Nat} {i : ObjInfo} {d : Dev}
    (hc : exec c s = .next (s.writeRow who (entryFor idx sub v))) (hn : ¬(idx = 0x1100 ∧ sub = 1 ∧ v = 2))
    (h : s.writeOne who false (entryFor idx sub v) = (d.eff, rAccepted)) (hinfo : objInfo idx sub = some i)
    (hread : leNat (toLe i.ty.width v) = v) (hr : d.raised = []) : CompletesTo c s { d with lastReport := rAccepted } := by
  refine completes_write hc ?_ h hr
  rw [entryFor_some v hinfo]
  rintro ⟨h1, h2, h3, _⟩
  exact hn ⟨h1, h2, hread.symm.trans h3⟩

theorem State.writeAll_raised (who : Requester) {sys : Bool} (ws : List Entry) (s : State) (h : s.dev.raised = []) :
    (s.writeAll who sys ws).1.dev.raised = [] := by
  induction ws generalizing s with
  | nil => exact h
  | cons w ws ih => exact ih _ (State.apply_raised ..)

/-- What a copy of the configuration that is durable and read back leaves (R415 step 3). -/
def Dev.storedCopy (d : Dev) (c : StoredCopy) : Dev :=
  { d.free.2 with store := { d.store with
      copyA := if d.store.inForce == 1 then d.store.copyA else some c
      copyB := if d.store.inForce == 1 then some c else d.store.copyB
      inForce := if d.store.inForce == 1 then 2 else 1
      generation := c.generation, epoch := c.epoch, result := 2, writing := none
      storedTai := d.tai.getD 0, bytes := d.free.1 % 2 ^ 32 } }

/-- What the commit of an image that verifies leaves (R531). -/
def Dev.stagedCommit (d : Dev) : Dev :=
  let b : Bank := { version := (Config.imageVersion d.start.received).toNat
                    security := (Config.imageSecurity d.start.received).toNat }
  let t := if d.start.bank = 0 then 1 else 0
  { d with start := { d.start with
      bankA := if t = 0 then b else d.start.bankA
      bankB := if t = 1 then b else d.start.bankB
      staged := some t, install := 3, stagedVersion := b.version } }.countMonotonic

/-- Settles O45: the commands of 0x1100 act on the copies of the configuration and on the install buffer (R415 to R417,
R531). -/
theorem storeAndFirmwareComplete : Obligations.StoreAndFirmwareComplete := by
  unfold Obligations.StoreAndFirmwareComplete
  intro s who hr
  have hinfo : objInfo 0x1100 0x01 = cmdObj .u8 1 3 := rfl
  have hcode {v : Nat} (hmay : s.dev.mayWrite who false 0x1100 0x01 = true) (hv : v ∈ [1, 2, 3])
      (hpermits : s.permits false 0x1100 1 v (toLe 1 v) = true) :
      s.writeOne who false (entryFor 0x1100 1 v) =
        ((if v = 2 then s.dev else s.dev.startStore (v == 3)).eff, rAccepted) := by
    simp only [List.mem_cons, List.not_mem_nil, or_false] at hv
    obtain rfl | rfl | rfl := hv <;>
      exact (s.writeOne_number who 0x1100 1 _ _ (by decide) rfl (by decide) (by decide) rfl hmay (by decide)
        (by decide) rfl hpermits (by decide) (by decide) rfl).trans rfl
  have hact {v : Nat} (hmay : s.dev.mayWrite who false 0x1100 0x16 = true) (hv : v ∈ [1, 2, 3])
      (hpermits : s.permits false 0x1100 0x16 v (toLe 1 v) = true) :
      s.writeOne who false (entryFor 0x1100 0x16 v) =
        ((if v = 1 then s.dev.firmwareBegin else if v = 2 then s.dev.firmwareCommit else s.dev.firmwareCancel).eff,
          rAccepted) := by
    simp only [List.mem_cons, List.not_mem_nil, or_false] at hv
    obtain rfl | rfl | rfl := hv <;>
      exact (s.writeOne_number who 0x1100 0x16 _ _ (by decide) rfl (by decide) (by decide) rfl hmay (by decide)
        (by decide) rfl hpermits (by decide) (by decide) rfl).trans rfl
  refine ⟨fun hmay hbusy => ⟨fun hmore htier => ?_, fun hmore htier => ?_, fun r h => ?_⟩,
    fun c hwriting hbounded => ⟨?_, ?_⟩,
    fun hmay => ⟨fun halarm => ?_, ?_, fun halarm hinstall hmono => ⟨fun hbad => ?_, fun hgood => ?_⟩⟩,
    fun v hmay halarm hinstall hmin hmax hoffset => ?_⟩
  · have hstart : s.dev.startStore false = { s.dev with store := { s.dev.store with
        result := 1, writing := some (s.dev.snapshot (s.dev.store.generation + 1) s.dev.store.epoch) } } := if_neg htier
    have hone := hcode (v := 1) hmay (by decide) (by simp [State.permits, inPartArea, hbusy, hmore])
    exact completes_command (v := 1) rfl (by decide) (hone.trans (congrArg (fun d : Dev => (d.eff, rAccepted)) hstart))
      rfl (by decide) hr
  · have hstart : s.dev.startStore true = { s.dev with store := { s.dev.store with
        result := 1, writing := some (s.dev.snapshot 1 (s.dev.store.epoch + 1)) } } := if_neg htier
    have hone := hcode (v := 3) hmay (by decide) (by simp [State.permits, inPartArea, hbusy, hmore])
    exact completes_command (v := 3) rfl (by decide) (hone.trans (congrArg (fun d : Dev => (d.eff, rAccepted)) hstart))
      rfl (by decide) hr
  · have hone := hcode (v := 2) hmay (by decide) (by simp [State.permits, inPartArea, hbusy])
    have hentry : s.writeEntry who (entryFor 0x1100 1 2) = (s.defaults who, rAccepted) := by
      unfold State.writeEntry
      rw [hone]
      exact if_pos ⟨rfl, rfl, rfl, rfl⟩
    have hrow : s.writeRow who (entryFor 0x1100 1 2) =
        (s.defaults who).withDev { (s.defaults who).dev with lastReport := rAccepted } := by
      unfold State.writeRow
      rw [hentry]
    have hraised : r.1.dev.raised = [] := h ▸ State.writeAll_raised who _ s hr
    refine ⟨_, congrArg Host.Outcome.next hrow, ?_⟩
    have hdefaults : s.defaults who = r.1.withDev { r.1.dev.setReport defaultKeys r.2 with
        store := { (r.1.dev.setReport defaultKeys r.2).store with result := 2 } } := h ▸ rfl
    rw [hdefaults]
    exact becomes_reported r.1 (Dev.eff _) rAccepted hraised rfl
  · refine completes_done (congrArg s.done ((if_neg (by simp [Dev.writeSuspended, hbounded])).trans rfl)) ?_ hr
    simp [Dev.writeSuspended, hbounded, Dev.storeDurable, hwriting]
  · obtain ⟨t, ht, hmem, hsafety, _, hdev⟩ : CompletesTo (.configStoreDurable true) s (s.dev.storedCopy c) := by
      refine completes_done (congrArg s.done ((if_neg (by simp [Dev.writeSuspended, hbounded])).trans rfl)) ?_ hr
      simp [Dev.writeSuspended, hbounded, Dev.storeDurable, hwriting, Dev.storedCopy]
    refine ⟨t, ht, hmem, hsafety, ?_, ?_, ?_, ?_, fun hforce => ?_, fun hforce => ?_⟩
    all_goals rw [hdev.settled.store]
    · rfl
    · rfl
    · rfl
    · rfl
    · simp [Dev.storedCopy, hforce]
    · simp [Dev.storedCopy, hforce]
  · have hone := hact (v := 1) hmay (by decide) (by simp [State.permits, inPartArea, halarm])
    exact completes_command (v := 1) rfl (by decide) hone rfl (by decide) hr
  · have hone := hact (v := 3) hmay (by decide) (by simp [State.permits, inPartArea])
    exact completes_command (v := 3) rfl (by decide) hone rfl (by decide) hr
  · have hone := hact (v := 2) hmay (by decide) (by simp [State.permits, inPartArea, halarm, hinstall, hmono])
    have hcommit : s.dev.firmwareCommit = { s.dev with start := { s.dev.start with install := 4 } } :=
      if_pos (by simp [hbad])
    exact completes_command (v := 2) rfl (by decide) (hone.trans (congrArg (fun d : Dev => (d.eff, rAccepted)) hcommit))
      rfl (by decide) hr
  · have hone := hact (v := 2) hmay (by decide) (by simp [State.permits, inPartArea, halarm, hinstall, hmono])
    obtain ⟨t, ht, hmem, hsafety, _, hdev⟩ : CompletesTo (.firmwareCommit who) s { s.dev.firmwareCommit with
        lastReport := rAccepted } :=
      completes_command (v := 2) rfl (by decide) hone rfl (by decide) (by
        unfold Dev.firmwareCommit
        split <;> exact hr)
    have hbank : s.dev.firmwareCommit = s.dev.stagedCommit := if_neg (by simp [hgood])
    rw [hbank] at hdev
    refine ⟨t, ht, hmem, hsafety, ?_, ?_, ?_, ?_, fun hbank => ?_, fun hbank => ?_⟩
    · rw [hdev.settled.start]; rfl
    · rw [hdev.settled.start]; rfl
    · rw [hdev.settled.start]; rfl
    · rw [hdev.settled.backup]; rfl
    · rw [hdev.settled.start]; simp [Dev.stagedCommit, Dev.countMonotonic, hbank]
    · rw [hdev.settled.start]; simp [Dev.stagedCommit, Dev.countMonotonic, hbank]
  · have hchunk : s.dev.firmwareChunk v = some { s.dev with
        start := { s.dev.start with received := s.dev.start.received ++ v.drop 8 } } := if_pos ⟨hinstall, hoffset⟩
    have hinfo : objInfo 0x1100 0x15 = some { ty := .blob, acc := .wo, minLen := 8, maxLen := 1032 } := rfl
    have hwrite : s.writeOne who false { idx := 0x1100, sub := 0x15, type := 9, status := 0, value := v } =
        (((s.dev.firmwareChunk v).getD s.dev).eff, rAccepted) := by
      refine (s.writeOne_ok who _ { ty := .blob, acc := .wo, minLen := 8, maxLen := 1032 }
        (show indexExists 0x1100 = true by decide) ?_ (show 0x15 ≠ 0 by decide) (show isAlias 0x1100 0x15 = false by decide)
        hinfo hmay (by decide) ?_ ?_ ?_).trans ((if_pos (.inr rfl)).trans ?_)
      · simp [Dev.absent, inPartArea]
      · simp [ObjInfo.wellTyped, Ty.code, hmin, hmax]
      · simp [Dev.encodingOk, inPartArea, subIn]
      · simp [State.permits, inPartArea, halarm, hchunk]
      · simp [State.accept, inPartArea, subIn]
    rw [hchunk] at hwrite
    exact completes_write rfl (fun h => absurd h.2.1 (show ¬0x15 = 1 by decide)) hwrite hr

/-! ### Objects that act as commands -/

/-- A number of an object of a numeric type that is no counter, whole, within its bits and its encoding. -/
theorem wellTyped_number {idx sub v : Nat} {i : ObjInfo} (hinfo : objInfo idx sub = some i)
    (hty : i.ty ≠ .str ∧ i.ty ≠ .blob ∧ i.ty ≠ .bool) (hkind : i.kind = .notCounter) (hread : leNat (toLe i.ty.width v) = v)
    (hbits : v &&& i.legal = v) (hcode : i.encoded = false ∨ (i.lo ≤ v ∧ v ≤ i.hi)) :
    i.wellTyped (entryFor idx sub v) = true := by
  obtain ⟨hstr, hblob, hbool⟩ := hty
  rw [entryFor_some v hinfo]
  unfold ObjInfo.wellTyped
  dsimp only
  rw [hread]
  have hrest : (!(i.kind == .event) || decide (v < 2 ^ 49)) = true ∧
      (!i.encoded || (decide (i.lo ≤ v) && decide (v ≤ i.hi))) = true := by
    refine ⟨by simp [hkind], ?_⟩
    obtain h | ⟨h1, h2⟩ := hcode
    · simp [h]
    · simp [h1, h2]
  cases hkind : i.ty <;> simp_all

theorem and_words {v : Nat} (h : v < 2 ^ 64) : v &&& (2 ^ 64 - 1) = v := by
  rw [Nat.and_two_pow_sub_one_eq_mod]
  exact Nat.mod_eq_of_lt h

theorem leNat_toLe_of_lt {n v : Nat} (h : v < 256 ^ n) : leNat (toLe n v) = v :=
  (leNat_toLe n v).trans (Nat.mod_eq_of_lt h)

/-- A value within its range and on its step is taken as it is. -/
theorem fitValue_inside {lo hi step v : Nat} (hlo : lo ≤ v) (hhi : v ≤ hi) (hstep : v % step = 0) :
    fitValue lo hi step v = (v, rAccepted) := by
  rw [fitValue, if_neg (by omega), if_neg (by omega), if_pos hstep]

/-- Pin functions that are not SAFE_STATE_IN change without the lock (R409). -/
theorem State.permits_pin (s : State) (sub v : Nat) (value : Bytes) : s.permits false 0x8000 sub v value =
    ((s.dev.lockOpened.isSome || false) || (v != 7 && s.dev.confAt 0x8000 sub != 7) || v == s.dev.confAt 0x8000 sub) := by
  simp [State.permits, inPartArea]

theorem State.accept_pin (s : State) (who : Requester) (sub v : Nat) (value : Bytes) {i : ObjInfo} (hkind : i.kind = .notCounter) :
    s.accept who false 0x8000 sub v value i =
      if v = s.dev.confAt 0x8000 sub then s.dev.eff else (s.dev.setConf 0x8000 sub v).eff.pinFunction (sub - 1) v := by
  simp [State.accept, inPartArea, subIn, hkind]

/-- The objects of the pin functions. -/
theorem pin_object : ∀ n : Fin 8, objInfo 0x8000 (n + 1) = codeObj .u8 7 0 ∧ isAlias 0x8000 (n + 1) = false := by decide

/-- A pin that is no SAFE_STATE_IN and feeds no time source begins its change at once (R550). -/
theorem Eff.pinRelease_plain {e : Eff} {n : Nat} (f : Nat) (hsafe : (e.dev.pin n).function ≠ 7) (hfeeds : e.dev.pinFeeds n = false) :
    e.pinRelease n f = e.mod (fun d => d.modPin n (fun x => { x with changing := some (f, d.now) })) := by
  simp [Eff.pinRelease, hsafe, hfeeds]

/-- The backup domain with its alarms acknowledged. -/
def Dev.acked (d : Dev) : Dev := { d with backup := { d.backup with alarmPending := false, alarms := 0 } }

theorem NoticesOnly.acked {a b : Dev} (h : NoticesOnly a b) : NoticesOnly a.acked b.acked :=
  ⟨(congrArg Dev.acked h.shell :), h.part, h.cred⟩

theorem Dev.ackAlarm_running {d : Dev} (h : d.start.status ≠ 3) : d.ackAlarm = d.acked.eff := if_neg h

theorem Dev.ackAlarm_held {d : Dev} (h : d.start.status = 3) (hfailed : d.start.failed = false) :
    d.ackAlarm = { dev := d.acked.becomeReady, safety := [.ready] } :=
  (if_pos h).trans (if_neg (by simp [hfailed]))

/-- The acknowledgement of a gone cause by a requester that may, past the reading of the switch and the cell. -/
theorem ack_write {s : State} {who : Requester} {closed good : Bool} (hr : s.dev.raised = [])
    (hmay : s.dev.mayWrite who false 0x9001 3 = true) (hmesh : s.dev.backup.meshBroken = false)
    (hswitch : (s.dev.backup.switchOpen && !closed) = false) (hcell : (s.dev.backup.cellLow && !good) = false) :
    (s.withDev (s.dev.readTamper closed good)).writeOne who false (entryFor 0x9001 3 1) =
        ((s.withDev (s.dev.readTamper closed good)).dev.ackAlarm, rAccepted) ∧
      Becomes s (s.dev.readTamper closed good) (s.withDev (s.dev.readTamper closed good)) := by
  have hbecomes : Becomes s (s.dev.readTamper closed good) (s.withDev (s.dev.readTamper closed good)) :=
    becomes_withDev (u := s) hr
  refine ⟨?_, hbecomes⟩
  obtain ⟨_, _, _, hdev⟩ := hbecomes
  generalize s.withDev (s.dev.readTamper closed good) = u at hdev ⊢
  have hback : u.dev.backup = (s.dev.readTamper closed good).backup := hdev.settled.backup
  have hmay' : u.dev.mayWrite who false 0x9001 3 = true := by
    have hstart : u.dev.start = s.dev.start := hdev.settled.start
    have hrights : u.dev.backup.rights = s.dev.backup.rights := (congrArg Backup.rights hback).trans rfl
    rw [← hmay]
    simp only [Dev.mayWrite, Dev.hasRight, Dev.rights, Dev.startAllowsWrite, Dev.fullManagement, hstart, hrights]
  have hpermits : u.permits false 0x9001 3 1 (toLe 1 1) = true := by
    simp [State.permits, inPartArea, hback, Dev.readTamper, hmesh, hswitch, hcell]
  exact (u.writeOne_number who 0x9001 3 1 _ (by decide) rfl (by decide) (by decide) rfl hmay' (by decide) (by decide) rfl
    hpermits (by decide) (by decide) rfl).trans rfl

/-- A device that becomes ready, before the notice of a forced start (R525). -/
def Dev.readied (d : Dev) : Dev :=
  let d1 := (List.range 4).foldl (fun acc n => acc.modPort n (fun x => { x with inReset := false })) d
  let d2 : Dev := { d1 with
    start := { d1.start with
      status := 1, failed := false, millis := (d1.now - d1.start.resetAt) / 1000000, firstBoot := false
      forced := false }
    backup := { d1.backup with
      failedWarm := 0
      floor := if d1.start.firstBoot then max d1.backup.floor d1.start.bankSecurity else d1.backup.floor }
    force := d1.conf
    ageing := { d1.ageing with lastAt := d1.now } }
  let d3 : Dev := { d2 with tick := { d2.tick with
    period := d2.confAt 0x2000 1, guard := d2.confAt 0x2000 4, periodWritten := none, capWritten := none
    shareWindow := d2.confAt 0x2003 1 } }
  let d4 : Dev := { d3 with tick := { d3.tick with
    next := match d3.gridPoint with
      | some g => nextGrid d3.now g d3.periodTns
      | none => d3.now } }
  d4.takeCap (d4.confAt 0x6003 1)

theorem Dev.readied_raised (d : Dev) : d.readied.raised = d.raised := rfl
theorem Dev.readied_status (d : Dev) : d.readied.start.status = 1 := rfl
theorem Dev.readied_alarmPending (d : Dev) : d.readied.backup.alarmPending = d.backup.alarmPending := rfl
theorem Dev.readied_alarms (d : Dev) : d.readied.backup.alarms = d.backup.alarms := rfl
theorem Dev.readied_force (d : Dev) : d.readied.force = d.conf := rfl

theorem Dev.becomeReady_only (d : Dev) : NoticesOnly d.readied d.becomeReady := by
  show NoticesOnly d.readied (if d.start.forced then d.readied.alarm 4 else d.readied)
  split
  · exact Dev.notify_only ..
  · exact .refl _

/-- A write of another function to a sky pin that the lock, or its safety, allows (R412, R550). -/
theorem skyPinFunctionWrite_completes {s : State} {who : Requester} (hr : s.dev.raised = []) {n : Fin 8} {f : BitVec 8}
    (hmay : s.dev.mayWrite who false 0x8000 (n + 1) = true) (hf : f.toNat ≤ 7) (hnew : f.toNat ≠ s.dev.confAt 0x8000 (n + 1))
    (hlock : s.dev.lockOpened.isSome = true ∨ (f.toNat ≠ 7 ∧ s.dev.confAt 0x8000 (n + 1) ≠ 7)) :
    ((s.dev.pin n).changing = none → (s.dev.pin n).function ≠ 7 → (s.dev.setConf 0x8000 (n + 1) f.toNat).pinFeeds n = false →
      CompletesTo (.skyPinFunctionWrite who n f) s
        { (s.dev.setConf 0x8000 (n + 1) f.toNat).modPin n (fun x => { x with changing := some (f.toNat, s.dev.now) }) with
          lastReport := rAccepted }) ∧
    ((s.dev.pin n).changing.isSome = true →
      CompletesTo (.skyPinFunctionWrite who n f) s
        { (s.dev.setConf 0x8000 (n + 1) f.toNat).modPin n (fun x => { x with queued := x.queued ++ [f.toNat] }) with
          lastReport := rAccepted }) := by
  obtain ⟨hinfo, halias⟩ := pin_object n
  have hword : leNat (toLe 1 f.toNat) = f.toNat := leNat_toLe_of_lt f.isLt
  have hone : s.writeOne who false (entryFor 0x8000 (n + 1) f.toNat) =
      ((s.dev.setConf 0x8000 (n + 1) f.toNat).eff.pinFunction n f.toNat, rAccepted) := by
    refine (s.writeOne_number who 0x8000 (n + 1) f.toNat _ (by decide) rfl (Nat.succ_ne_zero _) halias hinfo hmay (by decide)
      (wellTyped_number hinfo (by decide) rfl hword (and_words (by omega)) (.inr ⟨Nat.zero_le _, hf⟩))
      (by simp [Dev.encodingOk, inPartArea, subIn]) ?_ (by decide) hword (fitValue_inside (Nat.zero_le _) hf (Nat.mod_one _))).trans
      ?_
    · rw [State.permits_pin]
      obtain hlock | ⟨h1, h2⟩ := hlock
      · simp [hlock]
      · simp [h1, h2]
    · rw [s.accept_pin who _ _ _ rfl, if_neg hnew, Nat.add_sub_cancel]
  refine ⟨fun hchanging hsafe hfeeds => ?_, fun hchanging => ?_⟩
  · have heff : (s.dev.setConf 0x8000 (n + 1) f.toNat).eff.pinFunction n f.toNat =
        ((s.dev.setConf 0x8000 (n + 1) f.toNat).modPin n (fun x => { x with changing := some (f.toNat, s.dev.now) })).eff := by
      rw [Eff.pinFunction, if_neg]
      · exact Eff.pinRelease_plain (e := (s.dev.setConf 0x8000 (n + 1) f.toNat).eff) _ hsafe hfeeds
      · exact fun h => absurd (hchanging ▸ h : (none : Option (Nat × Tns)).isSome = true) (by decide)
    exact completes_command rfl (by simp) (hone.trans (congrArg (·, rAccepted) heff)) hinfo hword hr
  · have heff : (s.dev.setConf 0x8000 (n + 1) f.toNat).eff.pinFunction n f.toNat =
        ((s.dev.setConf 0x8000 (n + 1) f.toNat).modPin n (fun x => { x with queued := x.queued ++ [f.toNat] })).eff :=
      if_pos hchanging
    exact completes_command rfl (by simp) (hone.trans (congrArg (·, rAccepted) heff)) hinfo hword hr

section Acknowledge

variable {s : State} {who : Requester} {closed good : Bool} (hr : s.dev.raised = [])
  (hmay : s.dev.mayWrite who false 0x9001 3 = true) (hmesh : s.dev.backup.meshBroken = false)
  (hswitch : (s.dev.backup.switchOpen && !closed) = false) (hcell : (s.dev.backup.cellLow && !good) = false)
include hr hmay hmesh hswitch hcell

/-- The acknowledgement of alarms whose causes are gone while the device runs (R515). -/
theorem alarmAcknowledge_running (hstatus : s.dev.start.status ≠ 3) : CompletesTo (.alarmAcknowledge who closed good) s
    { s.dev with
      backup := { s.dev.backup with switchOpen := false, cellLow := false, alarmPending := false, alarms := 0 }
      lastReport := rAccepted } := by
  obtain ⟨hone, humem, husafety, hupending, hudev⟩ := ack_write hr hmay hmesh hswitch hcell
  have hstatus' : (s.withDev (s.dev.readTamper closed good)).dev.start.status ≠ 3 := by
    rw [hudev.settled.start]
    exact hstatus
  rw [Dev.ackAlarm_running hstatus'] at hone
  obtain ⟨hmem, hsafety, hpending, hdev⟩ := State.writeRow_after (by simp) hone (State.apply_raised ..)
  have hback : (s.dev.readTamper closed good).acked = { s.dev with
      backup := { s.dev.backup with switchOpen := false, cellLow := false, alarmPending := false, alarms := 0 } } := by
    simp [Dev.readTamper, Dev.acked, hswitch, hcell]
  have hdone := (hudev.acked.reported rAccepted).trans hdev
  rw [hback] at hdone
  exact ⟨_, rfl, hmem.trans humem, hsafety.trans husafety, hpending.trans hupending, hdone⟩

/-- The acknowledgement in the held state makes the device ready (R515). -/
theorem alarmAcknowledge_held (hstatus : s.dev.start.status = 3) (hfailed : s.dev.start.failed = false) :
    ∃ t, exec (.alarmAcknowledge who closed good) s = .next t ∧ t.mem = s.mem ∧ t.dev.ready = true ∧
      t.dev.backup.alarmPending = false ∧ t.dev.backup.alarms = 0 ∧ t.dev.force = s.dev.conf := by
  obtain ⟨hone, humem, husafety, hupending, hudev⟩ := ack_write hr hmay hmesh hswitch hcell
  have hstatus' : (s.withDev (s.dev.readTamper closed good)).dev.start.status = 3 := by
    rw [hudev.settled.start]
    exact hstatus
  have hfailed' : (s.withDev (s.dev.readTamper closed good)).dev.start.failed = false := by
    rw [hudev.settled.start]
    exact hfailed
  rw [Dev.ackAlarm_held hstatus' hfailed'] at hone
  have hexec : exec (.alarmAcknowledge who closed good) s =
      .next ((s.withDev (s.dev.readTamper closed good)).writeRow who (entryFor 0x9001 3 1)) := rfl
  generalize s.withDev (s.dev.readTamper closed good) = u at hone humem hudev hexec
  have hready := Dev.becomeReady_only u.dev.acked
  have hstatus1 := Dev.readied_status u.dev.acked
  have hpending1 := Dev.readied_alarmPending u.dev.acked
  have halarms1 := Dev.readied_alarms u.dev.acked
  have hforce1 := Dev.readied_force u.dev.acked
  have hraised1 := (Dev.readied_raised u.dev.acked).trans (hudev.raised.trans hr)
  generalize u.dev.acked.readied = v at hready hstatus1 hpending1 halarms1 hforce1 hraised1
  obtain ⟨hmem, _, _, hdev⟩ := State.writeRow_after (by simp) hone (hready.raised.trans hraised1)
  have hdone := ((hready.reported rAccepted).trans hdev).settled
  refine ⟨_, hexec, hmem.trans humem, ?_, ?_, ?_, ?_⟩
  · rw [Dev.ready, hdone.start]
    exact beq_iff_eq.mpr hstatus1
  · rw [hdone.backup]
    exact hpending1
  · rw [hdone.backup]
    exact halarms1
  · rw [hdone.force]
    exact hforce1.trans hudev.settled.conf

end Acknowledge

/-- A read with clearing of a device counter (R388). -/
theorem readAndClear_completes {s : State} {who : Requester} (hr : s.dev.raised = []) {idx sub : Nat} {i : ObjInfo}
    (hpart : inPartArea idx = false) (hinfo : objInfo idx sub = some i) (hkind : i.kind = .event ∨ i.kind = .accum)
    (hsub : sub < 0x80) (hclear : s.dev.mayClear who idx = true) (hacc : i.acc ≠ .wo) (hread : s.dev.mayRead who idx = true)
    (hstr : i.ty ≠ .str) (hblob : i.ty ≠ .blob) :
    CompletesTo (.readAndClear who idx (sub + 0x80)) s { s.dev with
      counters := tset s.dev.counters (objKey idx sub) 0
      lastValue := some (objKey idx (sub + 0x80),
        readEntryBytes idx (sub + 0x80) i.ty.code 0 (toLe i.ty.width (s.number who idx sub))) } := by
  have halias : isAlias idx (sub + 0x80) = true := by
    have hcounter : (i.kind == .event || i.kind == .accum) = true := by obtain h | h := hkind <;> simp [h]
    simp [isAlias, hinfo, hcounter]
    omega
  have habsent : s.dev.absent idx sub = false := by simp [Dev.absent, hpart]
  have hvalue : s.valueBytes who idx sub i = toLe i.ty.width (s.number who idx sub) := by
    unfold State.valueBytes
    split
    · contradiction
    · contradiction
    · rfl
  have hstatus : s.readStatus who idx sub i = 0 := by simp [State.readStatus, hread, hacc, hpart]
  have hclearDev : s.dev.clearCounter who idx sub = { s.dev with counters := tset s.dev.counters (objKey idx sub) 0 } := by
    simp [Dev.clearCounter, hpart]
  have hrow : s.clearRow who idx (sub + 0x80) = { s.dev with
      counters := tset s.dev.counters (objKey idx sub) 0
      lastValue := some (objKey idx (sub + 0x80),
        readEntryBytes idx (sub + 0x80) i.ty.code 0 (toLe i.ty.width (s.number who idx sub))) } := by
    rw [State.clearRow, if_pos halias, State.readAlias, Nat.add_sub_cancel]
    simp only [habsent, Bool.false_eq_true, if_false, hinfo, hclear, hstatus, hvalue, hclearDev, Bool.not_true, if_true]
  exact completes_done rfl (congrArg Dev.eff hrow) hr

/-- Settles O46: each command object's effect (R43, R388, R409, R412, R515, R555). -/
theorem commandObjectsComplete : Obligations.CommandObjectsComplete := by
  unfold Obligations.CommandObjectsComplete
  intro s who hr
  refine ⟨fun sec hmay hsource => ?_, fun w hmay hlo hhi hstep => ?_, fun n f hmay hf hnew hlock => ?_, fun hmay => ?_,
    fun t ht => ?_, fun closed good hmay hmesh hswitch hcell => ⟨fun hstatus => ?_, fun hstatus hfailed => ?_⟩,
    fun idx sub i hpart hinfo hkind hsub hclear hacc hread hstr hblob => ?_⟩
  · have hinfo : objInfo 0x2000 8 = some { ty := .u64, acc := .wo } := rfl
    have hword : leNat (toLe 8 sec.toNat) = sec.toNat := leNat_toLe_of_lt sec.isLt
    have hone := (s.writeOne_number who 0x2000 8 sec.toNat _ (by decide) rfl (by decide) (by decide) hinfo hmay (by decide)
      (wellTyped_number hinfo (by decide) rfl hword (and_words sec.isLt) (.inl rfl)) (by simp [Dev.encodingOk, inPartArea, subIn])
      (by simp [State.permits, inPartArea, hsource]) (by decide) hword
      (fitValue_inside (Nat.zero_le _) (by have := sec.isLt; simp [Dev.rangeOf, inPartArea, subIn]; omega) (Nat.mod_one _)))
    exact completes_command rfl (by simp) (hone.trans rfl) hinfo hword hr
  · have hinfo : objInfo 0x6003 1 = some { ty := .u16, acc := .rws, lo := 750, hi := 1500, dflt := 1500, step := 25 } := rfl
    have hword : leNat (toLe 2 w.toNat) = w.toNat := leNat_toLe_of_lt w.isLt
    have hone := (s.writeOne_number who 0x6003 1 w.toNat _ (by decide) rfl (by decide) (by decide) hinfo hmay (by decide)
      (wellTyped_number hinfo (by decide) rfl hword (and_words (by omega)) (.inl rfl)) (by simp [Dev.encodingOk, inPartArea, subIn])
      (by simp [State.permits, inPartArea]) (by decide) hword (fitValue_inside hlo hhi hstep))
    have hcap : (if w.toNat = s.dev.confAt 0x6003 1 then s.dev.setConf 0x6003 1 w.toNat else
        { s.dev.setConf 0x6003 1 w.toNat with tick := { (s.dev.setConf 0x6003 1 w.toNat).tick with capWritten := some s.dev.now } }) =
        { s.dev.setConf 0x6003 1 w.toNat with
          tick := if w.toNat = s.dev.confAt 0x6003 1 then s.dev.tick else { s.dev.tick with capWritten := some s.dev.now } } := by
      split <;> rfl
    exact completes_command rfl (by simp) (hone.trans (congrArg (fun d : Dev => (d.eff, rAccepted)) hcap)) hinfo hword hr
  · exact skyPinFunctionWrite_completes hr hmay hf hnew hlock
  · have hinfo : objInfo 0x5002 1 = some { ty := .bool, acc := .rw, hi := 1 } := rfl
    have hone := (s.writeOne_number who 0x5002 1 1 _ (by decide) rfl (by decide) (by decide) hinfo hmay (by decide)
      (by decide) rfl (by simp [State.permits, inPartArea]) (by decide) rfl rfl)
    exact completes_command rfl (by simp) (hone.trans rfl) hinfo rfl hr
  · have hexpire : s.dev.lockExpire = { s.dev with now := max s.dev.now (t + 600000000000), lockOpened := none } := by
      rw [Dev.lockExpire, ht]
      rfl
    exact completes_done rfl (congrArg Dev.eff hexpire) hr
  · exact alarmAcknowledge_running hr hmay hmesh hswitch hcell hstatus
  · exact alarmAcknowledge_held hr hmay hmesh hswitch hcell hstatus hfailed
  · exact readAndClear_completes hr hpart hinfo hkind hsub hclear hacc hread hstr hblob

/-! ### Partitions, tests, removals and resets -/

/-- The object that creates and deletes a partition. -/
theorem created_object : ∀ p : Fin 16, indexExists (partIndex p 0) = true ∧ inPartArea (partIndex p 0) = true ∧
    partIndex p 0 % 256 = 0 ∧ partOfIndex (partIndex p 0) = p ∧ isAlias (partIndex p 0) 1 = false ∧
    objInfo (partIndex p 0) 1 = codeObj .u8 1 0 := by decide

/-- A write of CREATED that the present state permits. -/
theorem State.writeOne_created {s : State} {who : Requester} {p : Fin 16} {v : Nat} (hv : v ≤ 1)
    (hmay : s.dev.mayWrite who false (partIndex p 0) 1 = true)
    (hpermits : (v != 0 || s.dev.pconf p 0 1 == 0 || (!s.dev.partHolds p && decide ((s.dev.part p).tdi = .unlocked))) = true) :
    s.writeOne who false (entryFor (partIndex p 0) 1 v) =
      ((if v = 1 ∧ s.dev.pconf p 0 1 = 0 ∧ !(s.dev.part p).created then
          ((s.dev.clearBlock p).modPart p (fun x => { x with name := [], slotValues := [] })).setConf (partIndex p 0) 1 v
        else s.dev.setConf (partIndex p 0) 1 v).eff, rAccepted) := by
  obtain ⟨hindex, hpart, hlow, hof, halias, hinfo⟩ := created_object p
  have hword : leNat (toLe 1 v) = v := leNat_toLe_of_lt (by omega)
  refine (s.writeOne_number who (partIndex p 0) 1 v _ hindex ?_ (by decide) halias hinfo hmay (by decide)
    (wellTyped_number hinfo (by decide) rfl hword (and_words (by omega)) (.inr ⟨Nat.zero_le _, hv⟩)) ?_ ?_ (by decide) hword ?_).trans
    ?_
  · simp [Dev.absent, hlow]
  · rw [Dev.encodingOk, if_neg, if_neg, if_neg, if_neg]
    · rintro ⟨hslot, -⟩
      simp only [subIn, hlow, Bool.or_eq_true, Bool.and_eq_true, decide_eq_true_eq] at hslot
      rw [partIndex] at hslot
      omega
    all_goals rw [partIndex]; omega
  · simpa only [State.permits, hpart, hlow, hof, if_true] using hpermits
  · simp only [Dev.rangeOf, hpart, hlow, if_true, subIn]
    exact fitValue_inside (Nat.zero_le _) hv (Nat.mod_one _)
  · simp [State.accept, hpart, hlow, hof]

/-- The orderly window of a reset begins, with Stratus checkpointed, and commands nothing of the safety controller
(R526). -/
theorem Dev.orderlyReset_starts (d : Dev) (cold : Bool) : (d.orderlyReset cold).safety = [] ∧
    (d.orderlyReset cold).dev.raised = d.raised ∧ (d.orderlyReset cold).dev.stratus.checkpoint = some d.now ∧
    (d.orderlyReset cold).dev.start = { d.start with
      orderly := some (if cold || d.start.status == 2 || (d.start.status == 0 && d.start.kind == 0) then 0 else 1, d.now) } := by
  have hcalm : d.eff.Calm ((List.range 16).foldl Eff.endAll d.eff) := Eff.Calm.fold Eff.endAll_calm _ _
  unfold Dev.orderlyReset
  generalize (List.range 16).foldl Eff.endAll d.eff = e at hcalm
  have hnow : e.dev.now = d.now := (congrArg Dev.now hcalm.1 :)
  have hstart : e.dev.start = d.start := (congrArg Dev.start hcalm.1 :)
  refine ⟨hcalm.2, hcalm.raised, congrArg some hnow, ?_⟩
  simp only [Eff.mod, hnow, hstart]

/-- Settles O47: what each command asks for takes effect or waits (R407, R409, R460, R461, R526). -/
theorem unitCommandsComplete : Obligations.UnitCommandsComplete := by
  unfold Obligations.UnitCommandsComplete
  intro s who hr
  refine ⟨fun p hmay => ⟨fun hconf hcreated => ?_, fun hholds htdi => ?_⟩,
    fun u r hlegal hbits hregion => ⟨fun hmay h1 h2 => ?_, fun hmay => ?_⟩, fun hmay => ?_, fun hmay horderly c cold hc => ?_,
    fun p tag k h harg0 harg1 hpayload hlegal h3 h7 h11 => ⟨fun htest => ?_, fun htest hposted => ?_⟩⟩
  · obtain ⟨_, _, _, _, _, hinfo⟩ := created_object p
    have hone := State.writeOne_created (Nat.le_refl 1) hmay rfl
    rw [if_pos ⟨rfl, hconf, by simp [hcreated]⟩] at hone
    exact completes_command rfl (by simp) hone hinfo rfl hr
  · obtain ⟨_, _, _, _, _, hinfo⟩ := created_object p
    have hone := State.writeOne_created (Nat.zero_le 1) hmay (by simp [hholds, htdi])
    rw [if_neg (by simp)] at hone
    exact completes_command rfl (by simp) hone hinfo rfl hr
  · have hinfo : objInfo 0x5010 1 = some { ty := .u16, acc := .wo, legal := 0x7773 } := rfl
    have hword : leNat (toLe 2 u.toNat) = u.toNat := leNat_toLe_of_lt u.isLt
    have hone := (s.writeOne_number who 0x5010 1 u.toNat _ (by decide) rfl (by decide) (by decide) hinfo hmay (by decide)
      (wellTyped_number hinfo (by decide) rfl hword hbits (.inl rfl)) (by simp [Dev.encodingOk, hlegal])
      (by simp [State.permits, inPartArea, h1, h2]) (by decide) hword
      (fitValue_inside (Nat.zero_le _) (by have := u.isLt; simp [Dev.rangeOf, inPartArea, subIn]; omega) (Nat.mod_one _)))
    subst hregion
    exact completes_command rfl (by simp) (hone.trans rfl) hinfo hword hr
  · have hinfo : objInfo 0x5021 1 = some { ty := .u16, acc := .wo, legal := 0x7773 } := rfl
    have hword : leNat (toLe 2 u.toNat) = u.toNat := leNat_toLe_of_lt u.isLt
    have hone := (s.writeOne_number who 0x5021 1 u.toNat _ (by decide) rfl (by decide) (by decide) hinfo hmay (by decide)
      (wellTyped_number hinfo (by decide) rfl hword hbits (.inl rfl)) (by simp [Dev.encodingOk, hlegal])
      (by simp [State.permits, inPartArea]) (by decide) hword
      (fitValue_inside (Nat.zero_le _) (by have := u.isLt; simp [Dev.rangeOf, inPartArea, subIn]; omega) (Nat.mod_one _)))
    have hplan : s.dev.planRemoval u.toNat 1 = { s.dev with
        removals := if s.dev.removals.any (fun x => x.unit == u.toNat) then s.dev.removals
          else s.dev.removals ++ [{ unit := u.toNat, cause := 1 }] } := by
      unfold Dev.planRemoval
      split <;> rfl
    exact completes_command rfl (by simp) (hone.trans (congrArg (fun d : Dev => (d.eff, rAccepted)) hplan)) hinfo hword hr
  · have hone := (s.writeOne_number who 0x6000 4 1 _ (by decide) rfl (by decide) (by decide) rfl hmay (by decide)
      (by decide) rfl (by simp [State.permits, inPartArea]) (by decide) (by decide) rfl)
    have htrigger : s.dev.replanTrigger = { s.dev with
        ageing := if s.dev.ageing.state = 0 then { s.dev.ageing with state := 1 }
          else if s.dev.ageing.state = 1 then s.dev.ageing else { s.dev.ageing with again := true } } := by
      unfold Dev.replanTrigger
      split
      next h0 => rw [if_pos h0]
      next h1 => rw [if_neg (by omega), if_pos h1]
      next h0 h1 => rw [if_neg h0, if_neg h1]
    exact completes_command rfl (by simp) (hone.trans (congrArg (fun d : Dev => (d.eff, rAccepted)) htrigger)) rfl (by decide) hr
  · have hone {v : Nat} (hv : v ∈ [1, 2]) : s.writeOne who false (entryFor 0x1100 0x10 v) =
        (s.dev.orderlyReset (v == 2), rAccepted) := by
      simp only [List.mem_cons, List.not_mem_nil, or_false] at hv
      obtain rfl | rfl := hv <;>
        exact (s.writeOne_number who 0x1100 0x10 _ _ (by decide) rfl (by decide) (by decide) rfl hmay (by decide)
          (by decide) rfl (by simp [State.permits, inPartArea, horderly]) (by decide) (by decide) rfl).trans rfl
    have hafter {v : Nat} (hv : v ∈ [1, 2]) (hcold : (v == 2) = cold) (hexec : exec c s = .next (s.writeRow who (entryFor 0x1100 0x10 v))) :
        ∃ t, exec c s = .next t ∧ t.safety = s.safety ∧ t.dev.stratus.checkpoint = some s.dev.now ∧
          t.dev.lastReport = rAccepted ∧ t.dev.start = { s.dev.start with
            orderly := some (if cold || s.dev.start.status == 2 || (s.dev.start.status == 0 && s.dev.start.kind == 0)
              then 0 else 1, s.dev.now) } := by
      obtain ⟨hsafe, hraised, hcheck, hstart⟩ := s.dev.orderlyReset_starts (v == 2)
      obtain ⟨_, hsafety, _, hdev⟩ := State.writeRow_after (by simp) (hone hv) (hraised.trans hr)
      rw [hsafe] at hsafety
      have hsettled := hdev.settled
      subst hcold
      refine ⟨_, hexec, hsafety, ?_, ?_, ?_⟩
      · rw [hsettled.stratus]
        exact hcheck
      · rw [hsettled.lastReport]
      · rw [hsettled.start]
        exact hstart
    simp only [List.mem_cons, Prod.mk.injEq, List.not_mem_nil, or_false] at hc
    obtain ⟨rfl, rfl⟩ | ⟨rfl, rfl⟩ := hc
    · exact hafter (v := 1) (by decide) rfl rfl
    · exact hafter (v := 2) (by decide) rfl rfl
  · refine completes_wait (d := s.dev.requestTest k.arg0 0) ?_ h.1
    refine congrArg s.done ((startWith_some h _).trans ?_)
    simp only [Nat.mod_eq_of_lt harg0, Nat.div_eq_of_lt harg0]
    simp [harg1, hpayload, hlegal, h3, h7, h11, htest]
  · refine completes_answer ?_ (by simp [hposted]) h.1
    refine congrArg s.done ((startWith_some h _).trans ?_)
    simp only [Nat.mod_eq_of_lt harg0, Nat.div_eq_of_lt harg0]
    simp [harg1, hpayload, hlegal, h3, h7, h11, htest, Dev.refuse]

end Sys2Proof.Machine
end

section
/-!
Time: the sources of the time unit and their losses (O49), boundaries, windows and refills (O50).
-/

namespace Sys2Proof.Machine

open Sys2Proof.Safety

/-! ### What the time unit measures and leaves -/

theorem Dev.measure_only (d : Dev) : ∃ m e f b, d.measure = { d with
    time := { d.time with mode := m, err := e, errNow := f, measured := b, present := true, holdStart := none } } := by
  unfold Dev.measure
  split
  · exact ⟨_, _, _, _, rfl⟩
  · exact ⟨_, _, _, _, rfl⟩

/-- A command that ends with a notice of an alarm leaves the device but for notices. -/
theorem completes_alarm {c : Instr} {s : State} {d : Dev} {cause : Nat} (hc : exec c s = s.done (d.alarm cause).eff)
    (hr : d.raised = []) : CompletesTo c s d := by
  obtain ⟨hmem, hsafety, hpending, hdev⟩ := becomes_apply s (d.alarm cause).eff ((d.alarm_raised cause).trans hr) rfl rfl
  exact ⟨_, hc, hmem, hsafety, hpending, (d.notify_only none [] (.alarm cause)).trans hdev⟩

/-- A PPS edge shows the source at its instant. -/
theorem Dev.ppsEdge_time (d : Dev) (t : Nat) : (d.ppsEdge t).now = d.now ∧ (d.ppsEdge t).raised = d.raised ∧
    (d.ppsEdge t).time.lastEdge = some t ∧ (d.ppsEdge t).time.present = true ∧ (d.ppsEdge t).time.holdStart = none := by
  unfold Dev.ppsEdge
  extract_lets _ d1 d2 sec
  have h2 : d2.now = d.now ∧ d2.raised = d.raised ∧ d2.time.lastEdge = some t := by
    unfold d2
    split
    · split
      · exact ⟨rfl, rfl, rfl⟩
      · exact ⟨rfl, rfl, rfl⟩
    · exact ⟨rfl, rfl, rfl⟩
  clear_value d2
  obtain ⟨hnow, hraised, hedge⟩ := h2
  split
  · obtain ⟨_, _, _, _, h⟩ := Dev.measure_only (d2.setTai (sec * 1000000000 - t))
    rw [h]
    exact ⟨hnow, hraised, hedge, rfl, rfl⟩
  · obtain ⟨_, _, _, _, h⟩ := Dev.measure_only d2
    rw [h]
    exact ⟨hnow, hraised, hedge, rfl, rfl⟩

/-- A second written 100 ms or more before a PPS edge is the edge's (R44). -/
theorem Dev.ppsEdge_second {d : Dev} {t sec w : Nat} (h : d.time.pendingSecond = some (sec, w)) (hw : w + 100000000 ≤ t) :
    (d.ppsEdge t).time.taiValid = true ∧ (d.ppsEdge t).time.taiOffset = (sec * 1000000000 : Int) - t ∧
      (d.ppsEdge t).time.pendingSecond = none := by
  unfold Dev.ppsEdge
  extract_lets _ d1 d2 second
  have h2 : d2.time.taiValid = true ∧ d2.time.taiOffset = (sec * 1000000000 : Int) - t ∧ d2.time.pendingSecond = none := by
    have hp : d1.time.pendingSecond = some (sec, w) := h
    unfold d2
    rw [hp]
    dsimp only
    rw [if_pos hw]
    exact ⟨rfl, rfl, rfl⟩
  obtain ⟨hvalid, hoffset, hpending⟩ := h2
  have hsecond : second = sec := by
    unfold second
    rw [hoffset]
    omega
  obtain ⟨_, _, _, _, hmeasure⟩ := Dev.measure_only (d2.setTai (second * 1000000000 - t))
  rw [if_pos hvalid, hmeasure, hsecond]
  exact ⟨rfl, rfl, hpending⟩

theorem Dev.ppsEdge_invalid {d : Dev} {t : Nat} (h : d.time.pendingSecond = none) (hv : d.time.taiValid = false) :
    (d.ppsEdge t).time.taiValid = false := by
  unfold Dev.ppsEdge
  simp only [h, hv, Bool.false_eq_true, if_false]
  obtain ⟨_, _, _, _, hmeasure⟩ := Dev.measure_only _
  rw [hmeasure]

/-! ### Masters of PTP -/

theorem TimeSync.ports_kept (t : TimeSync) : ∃ a b, t.ports = { t with portA := a, portB := b } := by
  unfold TimeSync.ports
  split <;> exact ⟨_, _, rfl⟩

theorem TimeSync.ports_slave (t : TimeSync) : t.ports.slave = t.slave := by
  obtain ⟨a, b, h⟩ := t.ports_kept
  rw [h]
  rfl

theorem TimeSync.ports_master (t : TimeSync) : t.ports.master = t.master := by
  obtain ⟨a, b, h⟩ := t.ports_kept
  rw [h]
  rfl

theorem TimeSync.ports_hasMaster (t : TimeSync) : t.ports.hasMaster = t.hasMaster := by
  obtain ⟨a, b, h⟩ := t.ports_kept
  rw [h]
  rfl

/-- The time unit with the masters of its two ports. -/
def TimeSync.withMasters (t : TimeSync) (a b : Option PtpMaster) : TimeSync := { t with masterA := a, masterB := b }

theorem Dev.setMasters_other {d : Dev} {a b : Option PtpMaster} (h : d.source ≠ 1) :
    d.setMasters a b = { d with time := (d.time.withMasters a b).ports } := if_pos (by simp [h])

theorem Dev.setMasters_none {d : Dev} (hsource : d.source = 1) (h1 : d.time.mode ≠ .holdover) (h2 : d.time.mode ≠ .freeRun) :
    d.setMasters none none = { d with time := { d.time.withMasters none none with
      portA := 1, portB := 1, mode := .holdover, holdStart := some d.now, present := false, err := 0, errNow := 0
      measured := false } } := by
  refine (if_neg (by simp [hsource])).trans ((if_pos rfl).trans (if_neg ?_))
  rintro (h | h | h)
  · exact absurd (hsource.symm.trans h) (by decide)
  · exact h1 h
  · exact h2 h

theorem Dev.setMasters_some {d : Dev} {a b : Option PtpMaster} (hsource : d.source = 1) (hsome : (a.isSome || b.isSome) = true) :
    d.setMasters a b =
      if (d.time.withMasters a b).slave = d.time.slave ∧
          (d.time.withMasters a b).master.map (·.identity) = d.time.master.map (·.identity) then
        { d with time := (d.time.withMasters a b).ports }
      else { d with time := { (d.time.withMasters a b).ports with
        err := 0, errNow := 0, measured := false, present := true, holdStart := none, mode := .acquiring } } := by
  have hmaster : (d.time.withMasters a b).ports.hasMaster = true := (TimeSync.ports_hasMaster _).trans hsome
  have hslave := (d.time.withMasters a b).ports_slave
  have hfollows := (d.time.withMasters a b).ports_master
  show (if d.source != 1 then _ else if !(d.time.withMasters a b).ports.hasMaster then _
    else if decide ((d.time.withMasters a b).ports.slave = d.time.slave) &&
      decide ((d.time.withMasters a b).ports.master.map (·.identity) = d.time.master.map (·.identity)) then _ else _) = _
  rw [if_neg (by simp [hsource]), if_neg (by simp [hmaster]), hslave, hfollows]
  simp only [Bool.and_eq_true, decide_eq_true_eq]
  rfl

theorem Dev.announce_a {d : Dev} {domain : Nat} (m : PtpMaster) (h : domain = d.forceAt 0x2000 7) :
    d.announce .a domain m = d.setMasters (some m) d.time.masterB := if_neg (by simp [h])

theorem Dev.announce_b {d : Dev} {domain : Nat} (m : PtpMaster) (h : domain = d.forceAt 0x2000 7) :
    d.announce .b domain m = d.setMasters d.time.masterA (some m) := if_neg (by simp [h])

/-- Settles O49: the sources of the time unit (R43 to R47, R431 to R433). -/
theorem timeSourcesComplete : Obligations.TimeSourcesComplete := by
  unfold Obligations.TimeSourcesComplete
  intro s hr
  refine ⟨fun pin t high => ⟨fun hnone => ?_, fun hhigh hpin hfeeds => ⟨fun hsource => ?_, fun hsource horigin => ?_⟩⟩,
    fun h2 h3 => ?_, fun n wait hwait hn h1 h2 => ?_, fun lan t hsource ht => ?_, fun lan t hsource h1 h2 ht hother => ?_,
    fun lan domain m t ht => ⟨fun hdomain => ?_, fun hdomain => ⟨fun hsame => ?_, fun hsource hnew => ?_⟩⟩,
    fun lan offset ns => ⟨fun hslave => ?_, fun hslave h1 h2 => ?_, fun hslave hsource => ?_⟩, fun hmode hsource => ?_,
    fun htai => ?_, fun t n htai hn => ?_⟩
  · have hedge : s.dev.timingEdge pin t high = s.dev.advance t := by
      refine if_pos ?_
      obtain h | h | h := hnone <;> simp [h]
    exact completes_done rfl (congrArg Dev.eff hedge) hr
  · have hedge : s.dev.timingEdge pin t high = (s.dev.advance t).ppsEdge t := by
      rw [Dev.timingEdge, if_neg (by simp [Nat.not_lt.mpr hhigh, hpin, hfeeds]), hsource]
      rfl
    obtain ⟨hnow, hraised, hlast, hpresent, hhold⟩ := (s.dev.advance t).ppsEdge_time t
    obtain ⟨u, hu, hmem, hsafety, _, hdev⟩ := completes_done (c := .timingEdge pin t high) (s := s) rfl
      (congrArg Dev.eff hedge) (hraised.trans hr)
    have htime := hdev.settled.time
    refine ⟨u, hu, hmem, hsafety, hdev.settled.now.trans hnow, ?_, ?_, ?_, fun sec w hp hw => ?_, fun hp hv => ?_⟩
    all_goals rw [htime]
    · exact hlast
    · exact hpresent
    · exact hhold
    · exact Dev.ppsEdge_second hp hw
    · exact Dev.ppsEdge_invalid hp hv
  · have hedge : s.dev.timingEdge pin t high = (s.dev.advance t).tickInOrigin t := by
      rw [Dev.timingEdge, if_neg (by simp [Nat.not_lt.mpr hhigh, hpin, hfeeds]), hsource]
      show (s.dev.advance t).tickInEdge t = _
      rw [Dev.tickInEdge, show (s.dev.advance t).time.gridOrigin = none from horigin]
    have horigin : ∃ m e f b, (s.dev.advance t).tickInOrigin t = { s.dev.advance t with time := { s.dev.time with
        gridOrigin := some t, gridEdges := 1, ignoredRow := 0, lastEdge := some t, mode := m, err := e, errNow := f
        measured := b, present := true, holdStart := none } } := by
      obtain ⟨m, e, f, b, h⟩ := Dev.measure_only { s.dev.advance t with time := { (s.dev.advance t).time with
        gridOrigin := some t, gridEdges := 1, ignoredRow := 0, lastEdge := some t } }
      exact ⟨m, e, f, b, h⟩
    obtain ⟨m, e, f, b, h⟩ := horigin
    obtain ⟨u, hu, hmem, hsafety, _, hdev⟩ := completes_done (c := .timingEdge pin t high) (s := s) rfl
      (congrArg Dev.eff (hedge.trans h)) hr
    have htime := hdev.settled.time
    refine ⟨u, hu, hmem, hsafety, hdev.settled.now, ?_, ?_, ?_, ?_⟩
    all_goals rw [htime]
  · have hnone : s.dev.sourceTimeout = s.dev := by
      unfold Dev.sourceTimeout
      split
      · contradiction
      · contradiction
      · rfl
    exact completes_done rfl (congrArg Dev.eff hnone) hr
  · have hlose : s.dev.sourceTimeout =
        (s.dev.advance (s.dev.time.lastEdge.getD s.dev.time.selectedAt + wait)).loseSource := by
      obtain ⟨h, rfl⟩ | ⟨h, rfl⟩ := hwait <;> rw [Dev.sourceTimeout, h] <;> rfl
    have hsource : s.dev.source ≠ 0 := by obtain ⟨h, _⟩ | ⟨h, _⟩ := hwait <;> rw [h] <;> decide
    have hlost : (s.dev.advance (s.dev.time.lastEdge.getD s.dev.time.selectedAt + wait)).loseSource = { s.dev with
        now := n
        time := { s.dev.time with
          mode := .holdover, holdStart := some n, present := false, err := 0, errNow := 0, measured := false } } := by
      subst hn
      refine if_neg ?_
      rintro (h | h | h)
      · exact hsource h
      · exact h1 h
      · exact h2 h
    exact completes_done rfl (congrArg Dev.eff (hlose.trans hlost)) hr
  · subst ht
    cases lan with
    | a => exact completes_done rfl (congrArg Dev.eff (Dev.setMasters_other hsource)) hr
    | b => exact completes_done rfl (congrArg Dev.eff (Dev.setMasters_other hsource)) hr
  · subst ht
    cases lan with
    | a =>
      have hmasters : s.dev.setMasters none s.dev.time.masterB = _ :=
        (congrArg (s.dev.setMasters none) hother).trans (Dev.setMasters_none hsource h1 h2)
      exact completes_done rfl (congrArg Dev.eff hmasters) hr
    | b =>
      have hmasters : s.dev.setMasters s.dev.time.masterA none = _ :=
        (congrArg (s.dev.setMasters · none) hother).trans (Dev.setMasters_none hsource h1 h2)
      exact completes_done rfl (congrArg Dev.eff hmasters) hr
  · exact completes_done rfl (congrArg Dev.eff (if_pos (by simp [hdomain]))) hr
  · subst ht
    by_cases h1 : s.dev.source = 1
    · have hsame := hsame.resolve_left (fun h => h h1)
      cases lan with
      | a => exact completes_done rfl (congrArg Dev.eff ((Dev.announce_a m hdomain).trans
          ((Dev.setMasters_some h1 rfl).trans (if_pos hsame)))) hr
      | b => exact completes_done rfl (congrArg Dev.eff ((Dev.announce_b m hdomain).trans
          ((Dev.setMasters_some h1 (Bool.or_true _)).trans (if_pos hsame)))) hr
    · cases lan with
      | a => exact completes_done rfl (congrArg Dev.eff ((Dev.announce_a m hdomain).trans (Dev.setMasters_other h1))) hr
      | b => exact completes_done rfl (congrArg Dev.eff ((Dev.announce_b m hdomain).trans (Dev.setMasters_other h1))) hr
  · subst ht
    cases lan with
    | a => exact completes_done rfl (congrArg Dev.eff ((Dev.announce_a m hdomain).trans
        ((Dev.setMasters_some hsource rfl).trans (if_neg hnew)))) hr
    | b => exact completes_done rfl (congrArg Dev.eff ((Dev.announce_b m hdomain).trans
        ((Dev.setMasters_some hsource (Bool.or_true _)).trans (if_neg hnew)))) hr
  · exact completes_done rfl (congrArg Dev.eff (if_pos (by simp [hslave]))) hr
  · have hsync : s.dev.ptpSync lan offset ns = { s.dev with time := { s.dev.time with offset := offset } } := by
      rw [Dev.ptpSync, if_neg (by simp [hslave])]
      split
      · contradiction
      · contradiction
      · rfl
    exact completes_done rfl (congrArg Dev.eff hsync) hr
  · obtain ⟨m, e, f, b, h⟩ := Dev.measure_only
      (({ s.dev with time := { s.dev.time with offset := offset } } : Dev).setTai ((ns : Int) - s.dev.now))
    have hsync : s.dev.ptpSync lan offset ns =
        (({ s.dev with time := { s.dev.time with offset := offset } } : Dev).setTai ((ns : Int) - s.dev.now)).measure := by
      rw [Dev.ptpSync, if_neg (by simp [hslave]), hsource]
      rfl
    obtain ⟨u, hu, hmem, hsafety, _, hdev⟩ := completes_done (c := .ptpSync lan offset ns) (s := s) rfl
      (congrArg Dev.eff (hsync.trans h)) hr
    have htime := hdev.settled.time
    refine ⟨u, hu, hmem, hsafety, hdev.settled.now, ?_, ?_, ?_, ?_, ?_⟩
    all_goals rw [htime]
    all_goals rfl
  · have hend : s.dev.holdoverEnd = Dev.alarm { s.dev with
        now := max s.dev.now (s.dev.time.holdStart.getD s.dev.now + 3600000000000)
        time := { s.dev.time with mode := .freeRun } } 1 := if_pos ⟨hmode, hsource⟩
    exact completes_alarm (congrArg (fun d : Dev => s.done d.eff) hend) hr
  · have hpulse : s.dev.secondPulse = s.dev := by rw [Dev.secondPulse, htai]
    exact completes_done rfl (congrArg Dev.eff hpulse) hr
  · have hpulse : s.dev.secondPulse = { s.dev with
        now := n, time := { s.dev.time with pulses := s.dev.time.pulses + 1, lastPulse := some n } } := by
      rw [Dev.secondPulse, htai]
      dsimp only
      rw [Dev.advance, ← hn, Nat.max_eq_right (hn ▸ Nat.le_add_right ..)]
    exact completes_done rfl (congrArg Dev.eff hpulse) hr

/-! ### The tick that begins -/

/-- What a tick begins with, of the device at its boundary and the tick before (R41, R42). -/
structure Dev.TickBegun (d : Dev) (now : Tns) (t : TickUnit) : Prop where
  now : now = d.now
  tick : t.tick = d.nextTickNo
  started : t.started = true
  start : t.start = d.now
  commitDone : t.commitDone = false
  roundsDone : t.roundsDone = false
  lossDeclared : t.lossDeclared = false
  onSchedule : t.onSchedule = if d.tick.lossDeclared then 0 else d.tick.onSchedule + 1
  period : d.tick.periodWritten = none → t.period = d.tick.period

theorem Dev.beginTick_begun (d : Dev) : d.TickBegun d.beginTick.now d.beginTick.tick := by
  unfold Dev.beginTick
  extract_lets d1 changed phase _ d2
  have hgrants : d.countGrants.clock = d.clock := Dev.countGrants_clock d
  have hnow : d.countGrants.now = d.now := congrArg Prod.fst hgrants
  have htick : d.countGrants.tick = d.tick := congrArg Prod.snd hgrants
  have hshift : (d2.shiftPhase phase).clock = d2.clock := Dev.shiftPhase_clock ..
  have hnow2 : (d2.shiftPhase phase).now = d.now := (congrArg Prod.fst hshift).trans hnow
  have htick2 : (d2.shiftPhase phase).tick = d2.tick := congrArg Prod.snd hshift
  have hnext : ((d2.shiftPhase phase).alignTick changed).tick = { d2.tick with next := ((d2.shiftPhase phase).nextTick changed).1 } := by
    rw [← htick2]
    rfl
  rw [hnext]
  refine ⟨hnow2, ?_, rfl, hnow, rfl, rfl, rfl, ?_, fun hperiod => ?_⟩
  · show d.countGrants.nextTickNo = d.nextTickNo
    rw [Dev.nextTickNo, htick, Dev.nextTickNo]
  · show (if d.countGrants.tick.lossDeclared then 0 else d.countGrants.tick.onSchedule + 1) = _
    rw [htick]
  · show (if d1.periodDue then _ else d1.tick.period) = _
    have hdue : d1.periodDue = false := by
      show (d.countGrants.tick.periodWritten.any _) = false
      rw [htick, hperiod]
      rfl
    rw [hdue]
    show d.countGrants.tick.period = _
    rw [htick]

theorem Dev.clock_now {a b : Dev} (h : a.clock = b.clock) : a.now = b.now := congrArg Prod.fst h

theorem Dev.clock_tick {a b : Dev} (h : a.clock = b.clock) : a.tick = b.tick := congrArg Prod.snd h

theorem State.boundary_begun (s : State) :
    (s.dev.advance s.dev.tick.next).TickBegun s.boundary.dev.now s.boundary.dev.tick := by
  rw [Dev.clock_now s.boundary_clock, Dev.clock_tick s.boundary_clock]
  exact (s.dev.advance s.dev.tick.next).beginTick_begun

/-! ### Refills -/

theorem Dev.refill_part (d : Dev) (p q : Nat) : (d.refill q).part p =
    if p = q then { d.part p with buckets := (d.bucketStacks p).map (fun k =>
      (k, min (d.pforce p 0x12 2) (d.bucket p k + d.pforce p 0x12 1))) } else d.part p := by
  rw [Dev.refill, Dev.part_modPart]
  split
  · rename_i h
    rw [h]
  · rfl

/-- A refill of other partitions leaves a partition. -/
theorem Dev.refills_other {p : Nat} (l : List Nat) (d : Dev) (h : p ∉ l) : (l.foldl Dev.refill d).part p = d.part p := by
  induction l generalizing d with
  | nil => rfl
  | cons q l ih =>
    rw [List.foldl_cons, ih _ (fun hp => h (List.mem_cons_of_mem _ hp)), Dev.refill_part,
      if_neg (fun hq : p = q => h (hq ▸ List.mem_cons_self ..))]

/-- Each partition of a list without repetitions is refilled once, from its buckets as they stood (R310). -/
theorem Dev.refills_part {p : Nat} (l : List Nat) (d : Dev) (hl : l.Nodup) (h : p ∈ l) :
    ((l.foldl Dev.refill d).part p).buckets = (d.bucketStacks p).map (fun k =>
      (k, min (d.pforce p 0x12 2) (d.bucket p k + d.pforce p 0x12 1))) := by
  induction l generalizing d with
  | nil => cases h
  | cons q l ih =>
    obtain ⟨hq, hl⟩ := List.nodup_cons.mp hl
    rw [List.foldl_cons]
    by_cases hp : p = q
    · rw [Dev.refills_other l _ (hp ▸ hq), Dev.refill_part, if_pos hp]
    · rw [ih (d.refill q) hl ((List.mem_cons.mp h).resolve_left hp)]
      have hbucket : (d.refill q).bucket p = d.bucket p := by
        funext k
        show tgetD ((d.refill q).part p).buckets k _ = _
        rw [Dev.refill_part, if_neg hp]
        rfl
      rw [hbucket]
      rfl

theorem Dev.refills_still (l : List Nat) (d : Dev) : (l.foldl Dev.refill d).still = d.still :=
  foldl_still (f := Dev.refill) (fun _ _ => rfl) l d

theorem Dev.refills_stackTab (l : List Nat) (d : Dev) : (l.foldl Dev.refill d).stackTab = d.stackTab :=
  foldl_keep (f := Dev.refill) Dev.stackTab (fun _ _ => rfl) l d

/-- What a refill leaves: time at the next microsecond, no latency-critical line counted, and the buckets of each
created partition with its rate added up to its burst (R310). -/
theorem Dev.regulatorRefill_fills (d : Dev) : d.regulatorRefill.raised = d.raised ∧
    d.regulatorRefill.now = (d.now / 1000 + 1) * 1000 ∧ (∀ k, (d.regulatorRefill.stack k).lcCount = 0) ∧
    (∀ p < 16, (d.part p).created = true → (d.regulatorRefill.part p).buckets = (d.bucketStacks p).map (fun k =>
      (k, min (d.pforce p 0x12 2) (d.bucket p k + d.pforce p 0x12 1)))) ∧
    (∀ p, (d.part p).created = false → (d.regulatorRefill.part p).buckets = (d.part p).buckets) := by
  unfold Dev.regulatorRefill
  extract_lets d1 d2
  have hstill := Dev.refills_still d2.createdParts d2
  refine ⟨(Dev.still_raised hstill).trans rfl, (congrArg Dev.now hstill :).trans (Nat.max_eq_right (by omega)), fun k => ?_,
    fun p hp hcreated => ?_, fun p hcreated => ?_⟩
  · rw [Dev.stack, Dev.refills_stackTab]
    exact congrArg Stack.lcCount (tgetD_map d1.stackTab (fun x => { x with lcCount := 0 }) k {} rfl)
  · refine Dev.refills_part _ d2 (List.nodup_range.filter _) (List.mem_filter.mpr ⟨List.mem_range.mpr hp, hcreated⟩)
  · refine congrArg Part.buckets (Dev.refills_other _ d2 (fun h => ?_))
    exact Bool.false_ne_true (hcreated.symm.trans (List.mem_filter.mp h).2)

theorem max_window (a b : Nat) : max (max a (b - 16000)) b = max a b := by omega

/-- Settles O50: ticks, windows and refills (R41, R42, R48, R52, R310, R376). -/
theorem ticksComplete : Obligations.TicksComplete := by
  unfold Obligations.TicksComplete
  intro s hr
  refine ⟨fun hready => ?_, fun hready => ?_, fun completes => ⟨fun hnot => ?_, fun hstarted hdone => ?_⟩,
    fun hready hstarted hloss => ?_, fun w hw => ?_, ?_⟩
  · refine completes_done (c := .tickBoundary) (e := s.dev.eff) ?_ rfl hr
    exact congrArg Host.Outcome.next (if_pos (by simp [hready]))
  · have hbegun {u : State} (hclock : u.dev.now = max s.dev.now (s.dev.tick.next - 16000) ∨ u.dev.now = s.dev.now)
        (htick : ∃ c r, u.dev.tick = { s.dev.tick with commitDone := c, roundsDone := r })
        (hexec : exec .tickBoundary s = .next u.boundary) : ∃ t, exec .tickBoundary s = .next t ∧
          t.dev.now = max s.dev.now s.dev.tick.next ∧ t.dev.tick.tick = s.dev.nextTickNo ∧ t.dev.tick.started = true ∧
          t.dev.tick.start = max s.dev.now s.dev.tick.next ∧ t.dev.tick.commitDone = false ∧
          t.dev.tick.roundsDone = false ∧ t.dev.tick.lossDeclared = false ∧
          t.dev.tick.onSchedule = (if s.dev.tick.lossDeclared then 0 else s.dev.tick.onSchedule + 1) ∧
          (s.dev.tick.periodWritten = none → t.dev.tick.period = s.dev.tick.period) := by
      obtain ⟨c, r, htick⟩ := htick
      have hbegun := u.boundary_begun
      have hadvance : (u.dev.advance u.dev.tick.next).now = max s.dev.now s.dev.tick.next := by
        show max u.dev.now u.dev.tick.next = _
        rw [htick]
        obtain h | h := hclock
        · rw [h]
          exact max_window _ _
        · rw [h]
      have hsame := (Dev.advance_tick u.dev u.dev.tick.next).trans htick
      generalize u.dev.advance u.dev.tick.next = v at hbegun hadvance hsame
      obtain ⟨h1, h2, h3, h4, h5, h6, h7, h8, h9⟩ := hbegun
      refine ⟨_, hexec, h1.trans hadvance, h2.trans ?_, h3, h4.trans hadvance, h5, h6, h7, h8.trans ?_, fun h => (h9 ?_).trans ?_⟩
      · rw [Dev.nextTickNo, hsame, Dev.nextTickNo]
      · rw [hsame]
      · rw [hsame]
        exact h
      · rw [hsame]
    by_cases hwindow : (s.dev.tick.started && !s.dev.tick.commitDone) = true
    · have hparts := hwindow
      simp only [Bool.and_eq_true, Bool.not_eq_true'] at hparts
      have hclock := s.commitWindow_clock false hparts.1 hparts.2
      exact hbegun (.inl (congrArg Prod.fst hclock)) ⟨_, _, congrArg Prod.snd hclock⟩
        (congrArg Host.Outcome.next ((if_neg (by simp [hready])).trans (if_pos hwindow)))
    · have hclock := s.flare_clock
      exact hbegun (.inr (congrArg Prod.fst hclock)) ⟨_, _, congrArg Prod.snd hclock⟩
        (congrArg Host.Outcome.next ((if_neg (by simp [hready])).trans (if_neg hwindow)))
  · refine completes_done (c := .commitWindow completes) (e := s.dev.eff) ?_ rfl hr
    refine congrArg Host.Outcome.next (if_pos ?_)
    obtain h | h := hnot <;> simp [h]
  · have hclock := s.commitWindow_clock completes hstarted hdone
    exact ⟨_, rfl, congrArg Prod.fst hclock, congrArg Prod.snd hclock⟩
  · have hlost : s.dev.tickLoss = Dev.raise { s.dev with
        now := max s.dev.now (s.dev.tick.next + s.dev.periodTns / 2)
        tick := { s.dev.tick with lossDeclared := true, onSchedule := 0 } } 6 0xFFFF :=
      if_neg (by simp [hready, hstarted, hloss])
    obtain ⟨t, ht, hentered⟩ := entered_done (i := .tickLoss) (congrArg (fun d : Dev => s.done d.eff) hlost)
      (Dev.raise_raised hr) (by decide)
    obtain rfl := Host.Outcome.next.inj ((congrArg (fun d : Dev => s.done d.eff) hlost).symm.trans ht)
    exact ⟨_, ht, hentered, State.apply_now .., State.apply_tick ..⟩
  · subst hw
    exact completes_done rfl rfl hr
  · obtain ⟨hraised, hnow, hcount, hfull, hrest⟩ := s.dev.regulatorRefill_fills
    refine ⟨_, rfl, rfl, (State.apply_calm (e := s.dev.regulatorRefill.eff) (hraised.trans hr) rfl).1,
      (State.apply_now ..).trans hnow, fun k => ?_, fun p hp hcreated => ?_, fun p hp hcreated => ?_⟩
    · rw [State.apply_stack _ _ (hraised.trans hr)]
      exact hcount k
    · exact (State.apply_part_buckets ..).trans (hfull p hp hcreated)
    · exact (State.apply_part_buckets ..).trans (hrest p hcreated)

end Sys2Proof.Machine
end

section
/-!
Field tests and the planned removal of a region (O48).
-/

namespace Sys2Proof.Machine

open Sys2Proof.Safety

/-! ### Cells and engines changed one after another -/

theorem Dev.modCells_eq (f : ComputeUnit → ComputeUnit) (l : List Nat) (d : Dev) :
    ∃ t, l.foldl (fun acc n => acc.modCell n f) d = { d with cells := t } := by
  induction l generalizing d with
  | nil => exact ⟨_, rfl⟩
  | cons n l ih =>
    obtain ⟨t, h⟩ := ih (d.modCell n f)
    exact ⟨t, h⟩

theorem Dev.modEngines_eq (f : ComputeUnit → ComputeUnit) (l : List Nat) (d : Dev) :
    ∃ t, l.foldl (fun acc n => acc.modEngine n f) d = { d with engines := t } := by
  induction l generalizing d with
  | nil => exact ⟨_, rfl⟩
  | cons n l ih =>
    obtain ⟨t, h⟩ := ih (d.modEngine n f)
    exact ⟨t, h⟩

/-- What a change establishes of every cell it is applied to holds of each cell of a list once all are changed. -/
theorem Dev.modCells_holds {P : ComputeUnit → Prop} {f : ComputeUnit → ComputeUnit} (hf : ∀ x, P (f x)) {n : Nat} (l : List Nat)
    (d : Dev) (h : n ∈ l ∨ P (d.cell n)) : P ((l.foldl (fun acc m => acc.modCell m f) d).cell n) := by
  induction l generalizing d with
  | nil => exact h.resolve_left (List.not_mem_nil)
  | cons m l ih =>
    refine ih _ ?_
    show n ∈ l ∨ P ((d.modCell m f).cell n)
    by_cases hm : n = m
    · refine .inr ?_
      rw [hm, Dev.cell, Dev.modCell, tgetD_tset_same]
      exact hf _
    · obtain h | h := h
      · exact .inl ((List.mem_cons.mp h).resolve_left hm)
      · refine .inr ?_
        rw [Dev.cell, Dev.modCell, tgetD_tset, if_neg hm]
        exact h

theorem Dev.setTesting_eq (d : Dev) (u : Nat) (on : Bool) :
    ∃ cs es, d.setTesting u on = { d with cells := cs, engines := es } ∧
      ∀ n ∈ unitCells u, (tgetD cs n {} : ComputeUnit).testing = on := by
  obtain ⟨cs, hc⟩ := Dev.modCells_eq (fun x => { x with testing := on }) (unitCells u) d
  obtain ⟨es, he⟩ := Dev.modEngines_eq (fun x => { x with testing := on }) (unitEngines u) { d with cells := cs }
  refine ⟨cs, es, ?_, fun n hn => ?_⟩
  · rw [Dev.setTesting, hc]
    exact he
  · have h := Dev.modCells_holds (P := fun c => c.testing = on) (f := fun x => { x with testing := on }) (fun _ => rfl)
      (unitCells u) d (.inl hn)
    rw [hc] at h
    exact h

theorem Dev.fenceUnit_eq (d : Dev) (u : Nat) : ∃ cs es rs, d.fenceUnit u = { d with cells := cs, engines := es, regions := rs } ∧
    (∀ n ∈ unitCells u, (tgetD cs n {} : ComputeUnit).fenced = true ∧ (tgetD cs n {} : ComputeUnit).testing = false) ∧
    ∀ r, (tgetD rs r {} : Region).tests = (d.region r).tests ∧ (tgetD rs r {} : Region).passed = (d.region r).passed := by
  obtain ⟨cs, hc⟩ := Dev.modCells_eq (fun x => { x with fenced := true, testing := false }) (unitCells u) d
  obtain ⟨es, he⟩ := Dev.modEngines_eq (fun x => { x with fenced := true, testing := false }) (unitEngines u) { d with cells := cs }
  have hcells : ∀ n ∈ unitCells u, (tgetD cs n {} : ComputeUnit).fenced = true ∧ (tgetD cs n {} : ComputeUnit).testing = false := by
    intro n hn
    have h := Dev.modCells_holds (P := fun c => c.fenced = true ∧ c.testing = false)
      (f := fun x => { x with fenced := true, testing := false }) (fun _ => ⟨rfl, rfl⟩) (unitCells u) d (.inl hn)
    rw [hc] at h
    exact h
  have hunit : d.fenceUnit u = if unitKind u = 2 then
      ({ d with cells := cs, engines := es } : Dev).modRegion (unitRegion u) (fun x => { x with sorter := { fenced := true } })
      else { d with cells := cs, engines := es } := by
    rw [Dev.fenceUnit, hc, he]
  rw [hunit]
  split
  · refine ⟨cs, es, _, rfl, hcells, fun r => ?_⟩
    rw [tgetD_tset]
    split
    · rename_i h
      rw [h]
      exact ⟨rfl, rfl⟩
    · exact ⟨rfl, rfl⟩
  · exact ⟨cs, es, d.regions, rfl, hcells, fun r => ⟨rfl, rfl⟩⟩

/-! ### Commands told of the result -/

theorem Dev.completeTag_ok_eq (d : Dev) (p tag info : Nat) : ∃ t, d.completeTag p tag .ok info = { d with parts := t } := by
  unfold Dev.completeTag
  split
  · exact ⟨_, Dev.complete_eq _ _ _ _ _ _ (fun _ => rfl)⟩
  · split
    · exact ⟨_, Dev.complete_eq _ _ _ _ _ _ (fun _ => rfl)⟩
    · exact ⟨_, rfl⟩

theorem Dev.completeTags_ok_eq (info : Nat) (l : List (Nat × Nat)) (d : Dev) :
    ∃ t, l.foldl (fun acc w => acc.completeTag w.1 w.2 .ok info) d = { d with parts := t } := by
  induction l generalizing d with
  | nil => exact ⟨_, rfl⟩
  | cons w l ih =>
    obtain ⟨t, h⟩ := d.completeTag_ok_eq w.1 w.2 info
    obtain ⟨t', h'⟩ := ih (d.completeTag w.1 w.2 .ok info)
    refine ⟨t', ?_⟩
    rw [List.foldl_cons, h', h]

theorem Dev.replanTrigger_eq (d : Dev) : ∃ a, d.replanTrigger = { d with ageing := a } := by
  unfold Dev.replanTrigger
  split <;> exact ⟨_, rfl⟩

/-! ### A field test starts and ends -/

/-- The start of a test that its region, its patterns and its unit allow (R461). -/
theorem Dev.testStart_starts {d : Dev} {r : Nat} {t : TestReq} {rest : List TestReq} (htests : (d.region r).tests = t :: rest)
    (hrun : t.running = false) (hloaded : t.loaded = true) (hdone : d.tick.commitDone = true) (hfree : d.unitFree t.unit = true)
    (hout : unitKind t.unit ≠ 2 ∨ (d.region r).outOfService = true) :
    (d.testStart r).raised = d.raised ∧ (d.testStart r).now = max d.now d.tick.next ∧
      ((d.testStart r).region r).tests = { t with
        running := true, wasFenced := !(unitCells t.unit).any d.cellUp, started := max d.now d.tick.next } :: rest ∧
      (∀ n ∈ unitCells t.unit, ((d.testStart r).cell n).testing = true) ∧
      (d.testStart r).mgmtTest = if d.mgmtTest = 1 ∧ unitInside d.mgmtTestUnit t.unit = true then 2 else d.mgmtTest := by
  have hguard : ¬(t.running || !t.loaded || !d.tick.commitDone || !d.unitFree t.unit ||
      (unitKind t.unit == 2 && !(d.region r).outOfService)) = true := by
    obtain h | h := hout <;> simp [hrun, hloaded, hdone, hfree, h]
  have hstart : d.testStart r =
      let d2 := ((d.advance d.tick.next).setTesting t.unit true).modRegion r (fun x =>
        { x with tests := { t with
            running := true, wasFenced := !(unitCells t.unit).any d.cellUp, started := max d.now d.tick.next } :: rest })
      let d3 := if (unitCells t.unit).any d.cellUp then
          (d2.capacityOf t.unit 2).markReadmit (fun j => j.grant.cells.any (fun n => (unitCells t.unit).contains n)) else d2
      if d3.mgmtTest = 1 && unitInside d3.mgmtTestUnit t.unit then { d3 with mgmtTest := 2 } else d3 := by
    unfold Dev.testStart
    rw [htests]
    exact if_neg hguard
  rw [hstart]
  extract_lets d2 d3
  have h2 : d2.raised = d.raised ∧ d2.now = max d.now d.tick.next ∧ (d2.region r).tests = { t with
      running := true, wasFenced := !(unitCells t.unit).any d.cellUp, started := max d.now d.tick.next } :: rest ∧
      (∀ n ∈ unitCells t.unit, (d2.cell n).testing = true) ∧ d2.mgmtTest = d.mgmtTest ∧ d2.mgmtTestUnit = d.mgmtTestUnit := by
    obtain ⟨cs, es, hset, htesting⟩ := (d.advance d.tick.next).setTesting_eq t.unit true
    unfold d2
    rw [hset]
    exact ⟨rfl, rfl, congrArg Region.tests (tgetD_tset_same ..), htesting, rfl, rfl⟩
  have h3 : ∃ js ce, d3 = { d2 with jobs := js, capacityEvents := ce } := by
    unfold d3
    split
    · exact ⟨_, _, rfl⟩
    · exact ⟨_, _, rfl⟩
  clear_value d3 d2
  obtain ⟨js, ce, rfl⟩ := h3
  obtain ⟨hraised, hnow, hregion, hcells, hmgmt, hunit⟩ := h2
  by_cases hm : d.mgmtTest = 1 ∧ unitInside d.mgmtTestUnit t.unit = true
  · rw [if_pos (by simpa [hmgmt, hunit] using hm), if_pos hm]
    exact ⟨hraised, hnow, hregion, hcells, rfl⟩
  · rw [if_neg (by simpa [hmgmt, hunit] using hm), if_neg hm]
    exact ⟨hraised, hnow, hregion, hcells, hmgmt⟩

/-- The end of the test that runs in a region (R462, R463). -/
theorem Dev.testEnd_ends {d : Dev} {r : Nat} {t : TestReq} {rest : List TestReq} (htests : (d.region r).tests = t :: rest)
    (hrun : t.running = true) (pass : Bool) :
    (d.testEnd r pass).raised = d.raised ∧ (d.testEnd r pass).now = max d.now (t.started + testTime t.unit) ∧
      ((d.testEnd r pass).region r).tests = rest ∧
      ((d.testEnd r pass).region r).passed = (if pass then (d.region r).passed ++ [t.unit] else (d.region r).passed) ∧
      (pass = false → ∀ n ∈ unitCells t.unit,
        ((d.testEnd r pass).cell n).fenced = true ∧ ((d.testEnd r pass).cell n).testing = false) ∧
      (d.testEnd r pass).mgmtTest =
        if d.mgmtTest = 2 ∧ unitInside d.mgmtTestUnit t.unit = true then (if pass then 3 else 4) else d.mgmtTest := by
  have hend : d.testEnd r pass =
      let d1 := (d.advance (t.started + testTime t.unit)).modRegion r (fun x =>
        { x with tests := rest, passed := if pass then x.passed ++ [t.unit] else x.passed })
      let d2 := if pass then d1 else d1.fenceUnit t.unit
      let d3 := (d2.testWaiters t.unit).foldl (fun acc w => acc.completeTag w.1 w.2 .ok (if pass then 1 else 0)) d2
      let d4 := if d3.mgmtTest = 2 && unitInside d3.mgmtTestUnit t.unit then { d3 with mgmtTest := if pass then 3 else 4 } else d3
      let marked := (unitCells t.unit).any (fun n => (d4.cell n).margin) || (unitEngines t.unit).any (fun n => (d4.engine n).margin)
      if pass && marked then d4.replanTrigger else d4 := by
    unfold Dev.testEnd
    rw [htests]
    exact if_neg (by simp [hrun])
  rw [hend]
  extract_lets d1 d2 d3 d4 marked
  have h1 : d1.raised = d.raised ∧ d1.now = max d.now (t.started + testTime t.unit) ∧ (d1.region r).tests = rest ∧
      (d1.region r).passed = (if pass then (d.region r).passed ++ [t.unit] else (d.region r).passed) ∧
      d1.mgmtTest = d.mgmtTest ∧ d1.mgmtTestUnit = d.mgmtTestUnit :=
    ⟨rfl, rfl, congrArg Region.tests (tgetD_tset_same ..), congrArg Region.passed (tgetD_tset_same ..), rfl, rfl⟩
  have h2 : d2.raised = d1.raised ∧ d2.now = d1.now ∧ (d2.region r).tests = (d1.region r).tests ∧
      (d2.region r).passed = (d1.region r).passed ∧ d2.mgmtTest = d1.mgmtTest ∧ d2.mgmtTestUnit = d1.mgmtTestUnit ∧
      (pass = false → ∀ n ∈ unitCells t.unit, (d2.cell n).fenced = true ∧ (d2.cell n).testing = false) := by
    unfold d2
    cases pass with
    | true => exact ⟨rfl, rfl, rfl, rfl, rfl, rfl, fun h => absurd h (by decide)⟩
    | false =>
      obtain ⟨cs, es, rs, hfence, hcells, hregion⟩ := d1.fenceUnit_eq t.unit
      rw [if_neg (by decide), hfence]
      exact ⟨rfl, rfl, (hregion r).1, (hregion r).2, rfl, rfl, fun _ => hcells⟩
  have h3 : ∃ ps, d3 = { d2 with parts := ps } := Dev.completeTags_ok_eq _ _ _
  clear_value d3 d2 d1
  obtain ⟨hraised1, hnow1, htests1, hpassed1, hmgmt1, hunit1⟩ := h1
  obtain ⟨hraised2, hnow2, htests2, hpassed2, hmgmt2, hunit2, hcells2⟩ := h2
  obtain ⟨ps, rfl⟩ := h3
  have h4 : ∃ m, d4 = { d2 with parts := ps, mgmtTest := m } ∧
      m = if d.mgmtTest = 2 ∧ unitInside d.mgmtTestUnit t.unit = true then (if pass then 3 else 4) else d.mgmtTest := by
    unfold d4
    by_cases hm : d.mgmtTest = 2 ∧ unitInside d.mgmtTestUnit t.unit = true
    · rw [if_pos (by simpa [hmgmt2.trans hmgmt1, hunit2.trans hunit1] using hm), if_pos hm]
      exact ⟨_, rfl, rfl⟩
    · rw [if_neg (by simpa [hmgmt2.trans hmgmt1, hunit2.trans hunit1] using hm), if_neg hm]
      exact ⟨d2.mgmtTest, rfl, hmgmt2.trans hmgmt1⟩
  clear_value marked d4
  obtain ⟨m, rfl, hm⟩ := h4
  have hlast : ∃ a, (if (pass && marked) = true then ({ d2 with parts := ps, mgmtTest := m } : Dev).replanTrigger
      else { d2 with parts := ps, mgmtTest := m }) = { d2 with parts := ps, mgmtTest := m, ageing := a } := by
    split
    · exact Dev.replanTrigger_eq _
    · exact ⟨_, rfl⟩
  obtain ⟨a, hlast⟩ := hlast
  rw [hlast]
  exact ⟨hraised2.trans hraised1, hnow2.trans hnow1, htests2.trans htests1, hpassed2.trans hpassed1, hcells2, hm⟩

/-! ### The switch of a planned removal -/

theorem tset_single {α : Type} (x : Nat) (v w : α) : tset [(x, v)] x w = [(x, w)] := by simp [tset]

/-- A region whose data is objects alone switches its objects alone. -/
theorem Eff.moveRegion_objects {e : Eff} {m : Mem} {r : Nat} (hjobs : e.dev.jobs = []) (htransfers : e.dev.transfers = [])
    (hwcb : ∀ x ∈ e.dev.regions, x.2.wcb = []) :
    e.moveRegion m r = ((e.moveObjects m r).moveBoxes m r).moveWeights m r := by
  have hflush : e.flushWhere m (fun w => (stackOfLine w.line).any (fun x => x.1 / 2 == r)) = e := by
    have hnone : e.dev.regions.flatMap (fun r' => r'.2.wcb.filter (fun w => (stackOfLine w.line).any (fun x => x.1 / 2 == r))) = [] := by
      refine List.flatMap_eq_nil_iff.mpr (fun x hx => ?_)
      rw [hwcb x hx]
      rfl
    rw [Eff.flushWhere, hnone]
    rfl
  have hlive : e.dev.liveJobs = [] := by simp [Dev.liveJobs, hjobs]
  have hrecalls : e.moveRecalls r = e := by rw [Eff.moveRecalls, htransfers]; rfl
  rw [Eff.moveRegion, hflush, hlive]
  exact congrArg (fun x : Eff => ((x.moveObjects m r).moveBoxes m r).moveWeights m r) hrecalls

theorem foldl_stays {α β : Type} {f : β → α → β} (l : List α) (b : β) (h : ∀ x ∈ l, ∀ c, f c x = c) : l.foldl f b = b := by
  induction l generalizing b with
  | nil => rfl
  | cons x l ih =>
    rw [List.foldl_cons, h x (List.mem_cons_self ..)]
    exact ih b (fun y hy => h y (List.mem_cons_of_mem _ hy))

theorem Eff.moveBoxes_none {e : Eff} {m : Mem} {r : Nat} (h : ∀ x ∈ e.dev.parts, x.2.boxes = none) : e.moveBoxes m r = e :=
  foldl_stays _ _ (fun x hx c => by rw [h x hx])

theorem Eff.moveWeights_none {e : Eff} {m : Mem} {r : Nat} (h : e.dev.images = []) : e.moveWeights m r = e := by
  rw [Eff.moveWeights, h]
  rfl

/-- The one object of a region moves to the roomiest surviving stack with its bytes and their poison (R272). -/
theorem Eff.moveRegion_one {e : Eff} {m : Mem} {r : Nat} (hjobs : e.dev.jobs = []) (himages : e.dev.images = [])
    (htransfers : e.dev.transfers = []) (hboxes : ∀ x ∈ e.dev.parts, x.2.boxes = none) (hwcb : ∀ x ∈ e.dev.regions, x.2.wcb = [])
    {h : Nat} {o : Object} {k la n : Nat} {d : Dev} (hobjects : e.dev.objects = [(h, o)]) (hstratus : o.stratus = false)
    (hlost : o.lost = false) (hstack : o.stack / 2 = r) (hn : n = ceilDiv o.total 128)
    (hroom : e.dev.roomiest (e.dev.usableStacks o.part) = some k) (hfits : n ≤ e.dev.stackFree k)
    (htake : e.dev.takeStack k 1 n o.part 0 = some (la, d)) :
    ∃ e', e.moveRegion m r = e' ∧ e'.safety = e.safety ∧ e'.dev.raised = e.dev.raised ∧
      e'.dev.objects = [(h, { o with stack := k, base := la })] ∧
      e'.mem = e.mem ++ ([MemOp.clear (stackAddr k la) (n * 128), MemOp.own (stackLine k la) n false o.part,
          MemOp.copy (stackAddr o.stack o.base) (stackAddr k la) (n * 128)] ++
        (m.poisonedIn (stackAddr o.stack o.base) (n * 128)).map (fun l =>
          MemOp.poison (l - stackAddr o.stack o.base / 128 + stackAddr k la / 128)) ++
        [MemOp.clear (stackAddr o.stack o.base) (n * 128), MemOp.own (stackLine o.stack o.base) n false 0,
          MemOp.clearPoison (stackAddr o.stack o.base) (n * 128)]) := by
  have hlines : e.takeLines k 1 n o.part = some (la, { e with
      dev := d
      mem := e.mem ++ [.clear (stackAddr k la) (n * 128), .own (stackLine k la) n false o.part] }) := by
    rw [Eff.takeLines, htake]
  have htakes := Eff.takeLines_takes hlines
  have hparts : d.parts = e.dev.parts := (congrArg Dev.parts htakes.dev :)
  have himages' : d.images = e.dev.images := (congrArg Dev.images htakes.dev :)
  have hraised : d.raised = e.dev.raised := (congrArg Dev.raised htakes.dev :)
  have hobjects' : d.objects = [(h, o)] := (congrArg Dev.objects htakes.dev :).trans hobjects
  have hroomy : e.moveRoomy m o.part o.stack o.base n = some (k, la, (({ e with
      dev := d
      mem := e.mem ++ [.clear (stackAddr k la) (n * 128), .own (stackLine k la) n false o.part] } : Eff).moveBytes m
        (stackAddr o.stack o.base) (stackAddr k la) (n * 128)).freeLines o.stack o.base n) := by
    rw [Eff.moveRoomy, hroom]
    dsimp only
    rw [if_neg (Nat.not_lt.mpr hfits), Eff.moveLines, hlines]
    rfl
  have hmove : e.moveObjects m r = ((({ e with
      dev := d
      mem := e.mem ++ [.clear (stackAddr k la) (n * 128), .own (stackLine k la) n false o.part] } : Eff).moveBytes m
        (stackAddr o.stack o.base) (stackAddr k la) (n * 128)).freeLines o.stack o.base n).mod (fun d =>
      { d with objects := tset d.objects h { o with stack := k, base := la } }) := by
    rw [Eff.moveObjects, hobjects, List.foldl_cons, List.foldl_nil]
    simp only [hstratus, hlost, hstack, bne_self_eq_false, Bool.or_self, Bool.false_eq_true, if_false, ← hn, hroomy]
  rw [Eff.moveRegion_objects hjobs htransfers hwcb, hmove]
  rw [Eff.moveBoxes_none (fun x hx => hboxes x (hparts ▸ hx)), Eff.moveWeights_none (himages'.trans himages)]
  refine ⟨_, rfl, rfl, hraised, ?_, ?_⟩
  · show tset d.objects h _ = _
    rw [hobjects', tset_single]
  · simp [Eff.mod, Eff.freeLines, Eff.ops, Eff.moveBytes]

/-- Settles O48: field tests start and end, and a drained region is switched (R272, R461, R462). -/
theorem testsAndRemovalsComplete : Obligations.TestsAndRemovalsComplete := by
  unfold Obligations.TestsAndRemovalsComplete
  intro s r t rest hr
  refine ⟨fun htests hrun hloaded hdone hfree hout => ?_, fun htests hrun hdone => ?_, fun htests hrun hunit pass => ?_,
    fun hdrain hdone => ⟨?_, ?_⟩, fun hnot => ?_⟩
  · obtain ⟨hraised, hnow, hregion, hcells, hmgmt⟩ := Dev.testStart_starts htests hrun hloaded hdone hfree hout
    have hr' := hraised.trans hr
    refine ⟨_, rfl, rfl, (State.apply_calm (e := (s.dev.testStart r).eff) hr' rfl).1, (State.apply_now ..).trans hnow, ?_, fun n hn => ?_,
      (State.apply_mgmtTest ..).trans hmgmt⟩
    · rw [State.apply_region _ _ hr']
      exact hregion
    · rw [State.apply_cell _ _ hr']
      exact hcells n hn
  · have hstay : s.dev.testStart r = s.dev := by
      unfold Dev.testStart
      rw [htests]
      exact if_pos (by simp [hdone])
    exact completes_done rfl (congrArg Dev.eff hstay) hr
  · obtain ⟨hraised, hnow, hregion, hpassed, hcells, hmgmt⟩ := Dev.testEnd_ends htests hrun pass
    have hr' := hraised.trans hr
    refine ⟨_, rfl, rfl, (State.apply_calm (e := (s.dev.testEnd r pass).eff) hr' rfl).1, (State.apply_now ..).trans hnow, ?_, ?_,
      fun hpass n hn => ?_, (State.apply_mgmtTest ..).trans hmgmt⟩
    · rw [State.apply_region _ _ hr']
      exact hregion
    · rw [State.apply_region _ _ hr']
      exact hpassed
    · rw [State.apply_cell _ _ hr']
      exact hcells hpass n hn
  · exact congrArg Host.Outcome.next (if_neg (by simp [hdrain, hdone]))
  · intro hjobs himages htransfers hboxes hwcb h o k la n d hobjects hstratus hlost hstack hn hroom hfits htake
    have hexec : exec (.plannedRemovalSwitch r) s = .next (s.apply (s.dev.eff.moveRegion s.mem r)) :=
      congrArg Host.Outcome.next (if_neg (by simp [hdrain, hdone]))
    obtain ⟨e, he, hsafe, hraised, hobjects', hmem⟩ := Eff.moveRegion_one (e := s.dev.eff) (m := s.mem) hjobs himages htransfers
      hboxes hwcb hobjects hstratus hlost hstack hn hroom hfits htake
    rw [he] at hexec
    refine ⟨_, hexec, ?_, (State.apply_objects ..).trans hobjects', ?_⟩
    · exact (State.apply_calm (hraised.trans hr) hsafe).1
    · exact congrArg (fun l : List MemOp => l.foldl MemOp.run s.mem) hmem
  · refine completes_done (c := .plannedRemovalSwitch r) (e := s.dev.eff) (congrArg Host.Outcome.next (if_pos ?_)) rfl hr
    obtain h | h := hnot <;> simp [h]

end Sys2Proof.Machine
end

section
/-!
Claims and ends of work on cells, engines and sorters, windows and rounds (O51).
-/

namespace Sys2Proof.Machine

open Sys2Proof.Safety

/-! ### What cells and engines do, and on which stacks -/

/-- The causes raised, the instant, the cells, the engines and the stacks of a device. -/
def Dev.bench (d : Dev) :
    List (Nat × Nat) × Tns × List (Nat × ComputeUnit) × List (Nat × ComputeUnit) × List (Nat × Stack) :=
  (d.raised, d.now, d.cells, d.engines, d.stackTab)

theorem Dev.bench_raised {a b : Dev} (h : b.bench = a.bench) : b.raised = a.raised := (congrArg Prod.fst h :)

theorem Dev.bench_now {a b : Dev} (h : b.bench = a.bench) : b.now = a.now := (congrArg (·.2.1) h :)

theorem Dev.bench_cell {a b : Dev} (h : b.bench = a.bench) (n : Nat) : b.cell n = a.cell n := by
  have hcells : b.cells = a.cells := (congrArg (·.2.2.1) h :)
  rw [Dev.cell, hcells, Dev.cell]

theorem Dev.bench_engine {a b : Dev} (h : b.bench = a.bench) (n : Nat) : b.engine n = a.engine n := by
  have hengines : b.engines = a.engines := (congrArg (·.2.2.2.1) h :)
  rw [Dev.engine, hengines, Dev.engine]

theorem Dev.bench_stack {a b : Dev} (h : b.bench = a.bench) (n : Nat) : b.stack n = a.stack n := by
  have hstacks : b.stackTab = a.stackTab := (congrArg (·.2.2.2.2) h :)
  rw [Dev.stack, hstacks, Dev.stack]

theorem Dev.modJob_bench (d : Dev) (n : Nat) (f : Job → Job) : (d.modJob n f).bench = d.bench := by
  unfold Dev.modJob
  split <;> rfl

theorem Dev.modRound_bench (d : Dev) (n : Nat) (f : Round → Round) : (d.modRound n f).bench = d.bench := Dev.modJob_bench ..

theorem Dev.charge_bench (d : Dev) (j : Job) (k n : Nat) : (d.charge j k n).bench = d.bench := Dev.modJob_bench ..

theorem Dev.credit_bench (d : Dev) (j : Job) (k n : Nat) : (d.credit j k n).bench = d.bench := Dev.modJob_bench ..

theorem Dev.giveBackSlice_bench (d : Dev) (h : Held) : (d.giveBackSlice h).bench = d.bench := Dev.modRound_bench ..

theorem Dev.engineBusy_bench (d : Dev) (j : Job) (r : Role) (n : Nat) : (d.engineBusy j r n).bench = d.bench := by
  unfold Dev.engineBusy
  split <;> exact Dev.modJob_bench ..

/-! ### What a unit holds -/

/-- The work of an item that a unit holds, and when it starts. -/
def Held.task (h : Held) : Nat × Nat × Nat × Nat × Role × Nat × Tns :=
  (h.job, h.round, h.op, h.item, h.role, h.cost, h.start)

/-- Taking entries leaves the item what it is, and what every unit does. -/
theorem Dev.takeEntries_keeps (l : List (Nat × Nat)) (d : Dev) (h : Held) :
    (d.takeEntries h l).1.task = h.task ∧ (d.takeEntries h l).2.bench = d.bench := by
  have hstep := foldl_keep (fun a : Held × Dev => (a.1.task, a.2.bench))
    (f := fun acc t =>
      let free := acc.2.entriesFree t.1
      if free = 0 then ({ acc.1 with wants := acc.1.wants ++ [t] }, acc.2)
      else
        let a := acc.2.pick (min t.2 free)
        ({ acc.1 with entries := acc.1.entries ++ [(t.1, a.1 + 1)] }, a.2))
    (fun a t => by dsimp only; split <;> rfl) l (h, d)
  exact ⟨congrArg Prod.fst hstep, congrArg Prod.snd hstep⟩

theorem Dev.holdWith_keeps (d : Dev) (j : Job) (h : Held) (ts : List Traffic) :
    (d.holdWith j h ts).1.task = h.task ∧ (d.holdWith j h ts).2.bench = d.bench := by
  unfold Dev.holdWith
  split
  · exact ⟨rfl, rfl⟩
  · exact Dev.takeEntries_keeps ..

theorem Dev.modCell_same (d : Dev) (n : Nat) (f : ComputeUnit → ComputeUnit) : (d.modCell n f).cell n = f (d.cell n) :=
  tgetD_tset_same ..

theorem Dev.modEngine_same (d : Dev) (n : Nat) (f : ComputeUnit → ComputeUnit) : (d.modEngine n f).engine n = f (d.engine n) :=
  tgetD_tset_same ..

/-- A cell that drops its pattern runs none and holds what it held. -/
theorem Dev.dropPattern_cell (d : Dev) (n : Nat) (h : n < 384) : (d.dropPattern n).raised = d.raised ∧
    (d.dropPattern n).now = d.now ∧ (d.dropPattern n).cell n = { d.cell n with pattern := false, idlePattern := false } := by
  unfold Dev.dropPattern
  rw [if_pos h]
  dsimp only
  rw [Dev.modCell_same]
  split <;> exact ⟨rfl, rfl, rfl⟩

/-- A tile given to a cell as an original is held by it from now, or from the end of the round's copy. -/
theorem State.giveTile_holds (s : State) (n : Nat) (j : Job) (r : Round) (x : Inst) (item : Nat) :
    (s.giveTile n j r x item).raised = s.dev.raised ∧ (s.giveTile n j r x item).now = s.dev.now ∧
      ∃ h, h.task = (j.id, r.number, x.op, item, .original, s.tileCost j r x item, max s.dev.now r.copied) ∧
        (s.giveTile n j r x item).cell n = s.beginTile j r x item { s.dev.cell n with held := some h } := by
  unfold State.giveTile
  extract_lets d cost check one d1 d2 w y d3
  have h1 : d1.bench = d.bench := Dev.modRound_bench ..
  have h2 : d2.bench = d.bench := by
    unfold d2
    split
    · exact h1
    · exact h1
  obtain ⟨htask, hkeep⟩ := Dev.holdWith_keeps d2 j (w.held (max d.now r.copied)) (d2.tileTraffic j r x item)
  have hy : y.2.bench = d.bench := hkeep.trans h2
  have hcell : d3.cell n = s.beginTile j r x item { s.dev.cell n with held := some y.1 } := by
    rw [show d3 = _ from rfl, Dev.modCell_same, Dev.bench_cell hy]
  have hlast : (if j.batch.guaranteed = true then d3 else d3.charge j 0 cost).bench = d3.bench := by
    split
    · rfl
    · exact Dev.charge_bench ..
  refine ⟨(Dev.bench_raised hlast).trans (Dev.bench_raised hy :),
    (Dev.bench_now hlast).trans (Dev.bench_now hy :), y.1, htask, ?_⟩
  exact (Dev.bench_cell hlast n).trans hcell

/-! ### What a claim takes -/

/-- A claim that gives a cell one tile as an original: the cell holds it and runs no pattern. -/
theorem State.give_holds (s : State) (n : Nat) (hn : n < 384) (j : Job) (r : Round) (x : Inst) (item : Nat) :
    ((s.giveTile n j r x item).dropPattern n).raised = s.dev.raised ∧
      ((s.giveTile n j r x item).dropPattern n).now = s.dev.now ∧
      ∃ h, h.task = (j.id, r.number, x.op, item, .original, s.tileCost j r x item, max s.dev.now r.copied) ∧
        (((s.giveTile n j r x item).dropPattern n).cell n).held = some h ∧
        (((s.giveTile n j r x item).dropPattern n).cell n).pattern = false := by
  obtain ⟨hraised, hnow, h, htask, hcell⟩ := s.giveTile_holds n j r x item
  obtain ⟨hr, ht, hc⟩ := (s.giveTile n j r x item).dropPattern_cell n hn
  rw [hc, hcell]
  exact ⟨hr.trans hraised, ht.trans hnow, h, htask, rfl, rfl⟩

/-- A free cell that a duplicate or third execution awaits takes it. -/
theorem State.tileClaim_check {s : State} {n : Nat} (hn : n < 384) (hup : s.dev.cellUp n = true)
    (hp : ((s.dev.cell n).pattern && !(s.dev.cell n).idlePattern) = false) (hheld : (s.dev.cell n).held = none)
    {j : Job} {r : Round} {x : Inst} {v : Vote} {role : Role} (hcheck : s.dev.checkFor n = some (j, r, x, v, role)) :
    (s.tileClaim n).raised = s.dev.raised ∧ (s.tileClaim n).now = s.dev.now ∧
      ∃ h, h.task = (j.id, r.number, x.op, v.item, role, s.tileCost j r x v.item, s.dev.now) ∧
        ((s.tileClaim n).cell n).held = some h ∧ ((s.tileClaim n).cell n).pattern = false := by
  unfold State.tileClaim
  extract_lets c d give
  rw [if_neg (by simp [c, hup, hp]), if_neg (by simp [c, hheld]), show d.checkFor n = _ from hcheck]
  dsimp -zeta only
  extract_lets w d1 y
  have h0 := Dev.bench_cell (Dev.modRound_bench d j.id (fun y =>
    let y1 := y.modInst x.op (fun z => z.takeCheck v.item n role)
    { y1 with ran := if y1.ran.contains n then y1.ran else y1.ran ++ [n] })) n
  obtain ⟨hr, ht, hc⟩ := Dev.dropPattern_cell (d.modRound j.id (fun y =>
    let y1 := y.modInst x.op (fun z => z.takeCheck v.item n role)
    { y1 with ran := if y1.ran.contains n then y1.ran else y1.ran ++ [n] })) n hn
  obtain ⟨htask, hkeep⟩ := Dev.holdWith_keeps d1 j (w.held d.now) (d1.tileTraffic j r x v.item)
  have hy : y.2.cell n = { d1.cell n with } := Dev.bench_cell hkeep n
  have hcell : (y.2.modCell n (fun c => s.beginTile j r x v.item { c with held := some y.1 })).cell n =
      s.beginTile j r x v.item { d1.cell n with held := some y.1 } := by
    rw [Dev.modCell_same, hy]
  rw [hcell]
  refine ⟨(Dev.bench_raised hkeep).trans (hr.trans (Dev.bench_raised (Dev.modRound_bench ..))),
    (Dev.bench_now hkeep).trans (ht.trans (Dev.bench_now (Dev.modRound_bench ..))), y.1, htask, rfl, ?_⟩
  exact congrArg ComputeUnit.pattern hc

/-- A free cell that no check awaits is given the next tile of the round it works for. -/
theorem State.tileClaim_gives {s : State} {n : Nat} (hup : s.dev.cellUp n = true)
    (hp : ((s.dev.cell n).pattern && !(s.dev.cell n).idlePattern) = false) (hheld : (s.dev.cell n).held = none)
    {j : Job} {r : Round} {x : Inst} {item : Nat} (hcheck : s.dev.checkFor n = none)
    (how : s.dev.ownerOf n = some (j, r) ∨ (s.dev.ownerOf n = none ∧
      ∃ b, s.dev.offered 0 ((s.cellJobs n).map Prod.fst) = some b ∧
        (s.cellJobs n).find? (fun y => y.1.id == b.id) = some (j, r)))
    (htile : r.tileFor (n / 64) = some (x, item)) :
    s.tileClaim n = (s.giveTile n j r x item).dropPattern n := by
  unfold State.tileClaim
  extract_lets c d give l
  rw [if_neg (by simp [c, hup, hp]), if_neg (by simp [c, hheld]), show d.checkFor n = _ from hcheck]
  dsimp -zeta only
  obtain how | ⟨hnone, b, hoffer, hfind⟩ := how
  · rw [show d.ownerOf n = _ from how]
    dsimp only
    rw [htile]
  · rw [show d.ownerOf n = _ from hnone]
    dsimp only [l, d]
    rw [hoffer]
    dsimp only
    rw [hfind]
    dsimp only
    rw [htile]

/-- A free cell that no check awaits, that no guaranteed round owns and that no best-effort job can use takes nothing. -/
theorem State.tileClaim_idle {s : State} {n : Nat} (hheld : (s.dev.cell n).held = none) (hcheck : s.dev.checkFor n = none)
    (howner : s.dev.ownerOf n = none) (hjobs : s.cellJobs n = []) : s.tileClaim n = s.dev := by
  unfold State.tileClaim
  extract_lets c d give l
  split
  · rfl
  · rw [if_neg (by simp [c, hheld]), show d.checkFor n = _ from hcheck, show d.ownerOf n = _ from howner, show l = _ from hjobs]
    rfl

/-- A cell that is out of service, runs a pattern it may not abandon, or holds a tile and one ahead, takes nothing. -/
theorem State.tileClaim_busy {s : State} {n : Nat} (h : s.dev.cellUp n = false ∨
    ((s.dev.cell n).pattern = true ∧ (s.dev.cell n).idlePattern = false) ∨
    ((s.dev.cell n).held.isSome = true ∧ (s.dev.cell n).ahead.isSome = true)) : s.tileClaim n = s.dev := by
  unfold State.tileClaim
  extract_lets c d give
  split
  · rfl
  · rename_i hfree
    obtain h | ⟨hp, hi⟩ | ⟨hheld, hahead⟩ := h
    · exact absurd (by simp [h]) hfree
    · exact absurd (by simp [c, hp, hi]) hfree
    · rw [if_pos hheld]
      obtain ⟨a, ha⟩ := Option.isSome_iff_exists.mp hahead
      obtain ⟨x, hx⟩ := Option.isSome_iff_exists.mp hheld
      rw [show c.held = some x from hx, show c.ahead = some a from ha]

/-- With DOUBLE set a cell that runs a guaranteed tile claims the next one of its round ahead. -/
theorem State.tileClaim_ahead {s : State} {n : Nat} (hup : s.dev.cellUp n = true)
    (hp : ((s.dev.cell n).pattern && !(s.dev.cell n).idlePattern) = false) {h : Held} {j : Job} {r : Round} {x : Inst} {item : Nat}
    (hheld : (s.dev.cell n).held = some h) (hahead : (s.dev.cell n).ahead = none) (hcheck : s.dev.checkFor n = none)
    (hround : s.dev.round? h.job = some (j, r)) (hg : j.batch.guaranteed = true) (howner : s.dev.ownerOf n = some (j, r))
    (hdouble : (j.prog.op h.op).double = true) (hrole : h.role = .original) (hnumber : r.number = h.round)
    (hwork : r.working j.batch = true) (htile : r.tileFor (n / 64) = some (x, item)) :
    (s.tileClaim n).raised = s.dev.raised ∧ (s.tileClaim n).now = s.dev.now ∧
      ∃ a, a.task = (j.id, r.number, x.op, item, .original, s.tileCost j r x item, max s.dev.now r.copied) ∧
        ((s.tileClaim n).cell n).held = some h ∧ ((s.tileClaim n).cell n).ahead = some a := by
  obtain ⟨hraised, hnow, a, htask, hcell⟩ := s.giveTile_holds n j r x item
  unfold State.tileClaim
  extract_lets c d give
  rw [if_neg (by simp [c, hup, hp]), if_pos (by simp [c, hheld]), show c.held = _ from hheld, show c.ahead = _ from hahead]
  dsimp only
  unfold State.claimAhead
  dsimp only
  rw [hround]
  dsimp only
  rw [if_neg (by simp [hg, howner, hdouble, hrole, hnumber, hwork, hcheck]), htile]
  dsimp only
  rw [Dev.modCell_same, hcell]
  exact ⟨hraised, hnow, a, htask, rfl, rfl⟩

/-! ### Ends of tiles, slices and passes -/

theorem State.meet_raised (l : List LineError) (s : State) (h : s.dev.raised = []) : (s.meet l).dev.raised = [] := by
  induction l generalizing s with
  | nil => exact h
  | cons x l ih => exact ih _ (State.apply_raised ..)

/-- A unit that holds nothing, or whose item waits for entries, has nothing at its end. -/
theorem filter_wants {o : Option Held} (h : o = none ∨ ∃ x, o = some x ∧ x.wants ≠ []) :
    o.filter (fun x => x.wants.isEmpty) = none := by
  obtain rfl | ⟨x, rfl, hx⟩ := h
  · rfl
  · simp [Option.filter, hx]

theorem State.tileComplete_none {s : State} {n : Nat} (obs : UnitObs)
    (h : (s.dev.cell n).held = none ∨ ∃ x, (s.dev.cell n).held = some x ∧ x.wants ≠ []) :
    s.tileComplete n obs = s.apply s.dev.eff := by
  unfold State.tileComplete
  rw [filter_wants h]

theorem State.sliceComplete_none {s : State} {n : Nat} (obs : UnitObs)
    (h : (s.dev.engine n).held = none ∨ ∃ x, (s.dev.engine n).held = some x ∧ x.wants ≠ []) :
    s.sliceComplete n obs = s.apply s.dev.eff := by
  unfold State.sliceComplete
  rw [filter_wants h]

theorem State.tileComplete_halts {s : State} {n : Nat} {obs : UnitObs} {h : Held} {w : Stall}
    (hheld : (s.dev.cell n).held = some h) (hwants : h.wants = []) (hhalt : s.tileHalt h obs = some w) :
    s.tileComplete n obs = s.withDev ((s.dev.advance (h.endAt s.dev.ageing.clock)).modCell n (fun u =>
      { u with held := some (h.halt w (s.dev.advance (h.endAt s.dev.ageing.clock)).now) })) := by
  unfold State.tileComplete
  simp only [hheld, Option.filter, hwants, List.isEmpty_nil, if_true, Option.bind, hhalt]

theorem State.sliceComplete_halts {s : State} {n : Nat} {obs : UnitObs} {h : Held} {w : Stall}
    (hheld : (s.dev.engine n).held = some h) (hwants : h.wants = []) (hhalt : s.sliceHalt h obs = some w) :
    s.sliceComplete n obs = s.withDev ((s.dev.advance (h.since + h.cost)).modEngine n (fun u =>
      { u with held := some (h.halt w (s.dev.advance (h.since + h.cost)).now) })) := by
  unfold State.sliceComplete
  simp only [hheld, Option.filter, hwants, List.isEmpty_nil, if_true, Option.bind, hhalt]

theorem State.tileComplete_ends {s : State} {n : Nat} {obs : UnitObs} {h : Held}
    (hheld : (s.dev.cell n).held = some h) (hwants : h.wants = []) (hhalt : s.tileHalt h obs = none) :
    s.tileComplete n obs = (State.settleInst ((((s.tileEnd n h obs).dev.job? h.job).map (fun j => (j.prog.op h.op).fuel)).getD 0)
      (s.tileEnd n h obs) h.job h.op).pump := by
  unfold State.tileComplete
  simp only [hheld, Option.filter, hwants, List.isEmpty_nil, if_true, Option.bind, hhalt]

theorem State.sliceComplete_ends {s : State} {n : Nat} {obs : UnitObs} {h : Held}
    (hheld : (s.dev.engine n).held = some h) (hwants : h.wants = []) (hhalt : s.sliceHalt h obs = none) :
    s.sliceComplete n obs = (State.settleInst 2 ((s.sliceEnd n h obs).countSteps h.job h.op) h.job h.op).pump := by
  unfold State.sliceComplete
  simp only [hheld, Option.filter, hwants, List.isEmpty_nil, if_true, Option.bind, hhalt]

/-- A device known in brief has the round, under its number. -/
theorem Dev.round_of_brief {d : Dev} {k n g m : Nat} {a l e c z} (h : d.brief k n g = (a, some (m, l), e, c, z)) :
    ∃ j r, d.round? k = some (j, r) ∧ r.number = m ∧ r.insts.map Inst.brief = l := by
  have hround : (d.round? k).map (fun y => y.2.brief) = some (m, l) := (congrArg (·.2.1) h :)
  obtain ⟨⟨j, r⟩, hjr, hb⟩ := Option.map_eq_some_iff.mp hround
  exact ⟨j, r, hjr, (congrArg Prod.fst hb :), (congrArg Prod.snd hb :)⟩

/-- What an item belongs to is found by its operator among those that run. -/
theorem find_running {l : List Inst} {op : Nat} {kind : UnitKind} (h : ∃ x ∈ l, x.op = op ∧ x.runs kind = true) :
    ∃ x, l.find? (fun y => y.op == op && y.runs kind) = some x := by
  obtain ⟨x, hx, hop, hrun⟩ := h
  refine Option.isSome_iff_exists.mp (List.find?_isSome.mpr ⟨x, hx, by simp [hop, hrun]⟩)

/-- The end of an original tile leaves its cell to what it claimed ahead and its operator with one item fewer. -/
theorem State.tileEnd_leaves {s : State} {n : Nat} {h : Held} {obs : UnitObs} {j : Job} {r : Round}
    (hraised : s.dev.raised = []) (hround : s.dev.round? h.job = some (j, r)) (hnumber : r.number = h.round)
    (hdoomed : r.doomed j.batch = false) (hrun : ∃ x ∈ r.insts, x.op = h.op ∧ x.runs .cells = true) (hrole : h.role = .original)
    (hlines : obs.lines = []) (hvotes : ∀ y ∈ r.insts, y.op = h.op → ∀ v ∈ y.votes, v.item ≠ h.item) :
    ((s.tileEnd n h obs).dev.cell n).held = (s.dev.cell n).ahead.map (fun a =>
        { a with start := (s.tileEnd n h obs).dev.now, since := (s.tileEnd n h obs).dev.now }) ∧
      ∃ j' r', (s.tileEnd n h obs).dev.round? h.job = some (j', r') ∧ r'.number = r.number ∧
        r'.insts.map (fun y => (y.op, y.left)) =
          r.insts.map (fun y => (y.op, if y.op = h.op then y.left - 1 else y.left)) := by
  obtain ⟨x, hx⟩ := find_running hrun
  have hb := s.tileEnd_brief n 0 h obs j r x hraised hlines hround hnumber hx hrole hvotes hdoomed
  obtain ⟨j', r', hjr, hm, hl⟩ := Dev.round_of_brief hb
  refine ⟨(congrArg (·.2.2.1) hb :), j', r', hjr, hm, ?_⟩
  have hmap := congrArg (List.map (fun b => (b.1, b.2.1))) hl
  rw [List.map_map, List.map_map, List.map_map] at hmap
  refine hmap.trans (List.map_congr_left (fun y _ => ?_))
  show ((oneLess h.op y.brief).1, (oneLess h.op y.brief).2.1) = _
  unfold oneLess Inst.brief
  split <;> rfl

/-- The end of an original slice leaves its engine free and its operator with the slice done and one item fewer. -/
theorem State.sliceEnd_leaves {s : State} {n : Nat} {h : Held} {obs : UnitObs} {j : Job} {r : Round} {x : Inst}
    (hraised : s.dev.raised = []) (hround : s.dev.round? h.job = some (j, r)) (hnumber : r.number = h.round)
    (hdoomed : r.doomed j.batch = false) (hx : r.insts.find? (fun y => y.op == h.op && y.runs .cirrus) = some x)
    (hslice : ∃ sl ∈ x.slices, sl.item = h.item) (hrole : h.role = .original)
    (hlines : obs.lines = []) (hvotes : ∀ y ∈ r.insts, y.op = h.op → ∀ v ∈ y.votes, v.item ≠ h.item) :
    (((s.sliceEnd n h obs).countSteps h.job h.op).dev.engine n).held = none ∧
      ∃ j' r', ((s.sliceEnd n h obs).countSteps h.job h.op).dev.round? h.job = some (j', r') ∧ r'.number = r.number ∧
        r'.insts.map (fun y => (y.op, y.left, y.slices)) = r.insts.map (fun y =>
          if y.op = h.op then (y.op, y.left - 1, y.slices.map (fun a => if a.item = h.item then { a with done := true } else a))
          else (y.op, y.left, y.slices)) := by
  obtain ⟨sl0, hmem, hitem⟩ := hslice
  obtain ⟨sl, hsl⟩ := Option.isSome_iff_exists.mp
    (List.find?_isSome.mpr ⟨sl0, hmem, beq_iff_eq.mpr hitem⟩ : (x.slices.find? (fun y => y.item == h.item)).isSome = true)
  have hend := s.sliceEnd_brief n 0 h obs j r x sl hraised hlines hround hnumber hx hsl hrole hvotes hdoomed
  have hb := (Dev.brief_of_items (State.countSteps_items (job := h.job) (n := n) (g := 0) (s.sliceEnd n h obs) h.job h.op
    (congrArg Prod.fst hend :))).trans hend
  obtain ⟨j', r', hjr, hm, hl⟩ := Dev.round_of_brief hb
  refine ⟨(congrArg (·.2.2.2.1) hb :), j', r', hjr, hm, ?_⟩
  have hmap := congrArg (List.map (fun b => (b.1, b.2.1, b.2.2.1))) hl
  rw [List.map_map, List.map_map, List.map_map, List.map_map] at hmap
  refine hmap.trans (List.map_congr_left (fun y _ => ?_))
  show ((oneLess h.op (sliceDone h.op h.item y.brief)).1, (oneLess h.op (sliceDone h.op h.item y.brief)).2.1,
    (oneLess h.op (sliceDone h.op h.item y.brief)).2.2.1) = _
  by_cases hop : y.op = h.op
  · simp [oneLess, sliceDone, Inst.brief, hop]
  · simp [oneLess, sliceDone, Inst.brief, hop]

/-! ### Windows -/

theorem Dev.endWindow_engines (d : Dev) (k : Nat) : (d.endWindow k).engines = d.engines := by
  unfold Dev.endWindow
  split
  · rfl
  · dsimp only
    split <;> rfl

/-- An engine that is stopped holds nothing, and every other one what it held. -/
theorem Dev.stopEngine_held (d : Dev) (n m : Nat) :
    ((d.stopEngine n).engine m).held = if m = n then none else (d.engine m).held := by
  unfold Dev.stopEngine
  split
  · rename_i hnone
    split
    · rename_i hm
      rw [hm, hnone]
    · rfl
  · rename_i h hsome
    extract_lets ran d1
    have hd1 : (d1.engine m).held = if m = n then none else (d.engine m).held := by
      show (tgetD (tset d.engines n _) m {} : ComputeUnit).held = _
      rw [tgetD_tset]
      split <;> rfl
    split
    · exact hd1
    · rename_i j hj
      extract_lets d2
      have hd2 : d2.engine m = d1.engine m := Dev.bench_engine (Dev.engineBusy_bench ..) m
      split
      · exact (congrArg ComputeUnit.held ((Dev.bench_engine (Dev.credit_bench ..) m).trans hd2)).trans hd1
      · exact (congrArg ComputeUnit.held hd2).trans hd1

/-- The slice of an engine stopped for a window goes back to its job. -/
def Dev.giveUpSlice (d : Dev) (n : Nat) : Dev :=
  match (d.engine n).held with
  | none => d
  | some h => (d.giveBackSlice h).stopEngine n

theorem Dev.giveUpSlice_held (d : Dev) (n m : Nat) :
    ((d.giveUpSlice n).engine m).held = if m = n then none else (d.engine m).held := by
  unfold Dev.giveUpSlice
  split
  · rename_i hnone
    split
    · rename_i hm
      rw [hm, hnone]
    · rfl
  · rw [Dev.stopEngine_held, Dev.bench_engine (Dev.giveBackSlice_bench ..) m]

theorem Dev.giveUpSlices_held (l : List Nat) (d : Dev) (m : Nat) (h : m ∈ l ∨ (d.engine m).held = none) :
    ((l.foldl Dev.giveUpSlice d).engine m).held = none := by
  induction l generalizing d with
  | nil => exact h.resolve_left List.not_mem_nil
  | cons n l ih =>
    refine ih _ ?_
    rw [Dev.giveUpSlice_held]
    by_cases hm : m = n
    · exact .inr (if_pos hm)
    · rw [if_neg hm]
      exact h.imp_left fun hmem => (List.mem_cons.mp hmem).resolve_left hm

/-- A guaranteed window that opens on a stack is the job's from now on, and no engine of the stack holds anything. -/
theorem Dev.windowStart_opens {d : Dev} {k : Nat} {j : Job} {r : Round} (hup : (d.stack k).outOfService = false)
    (hfree : (d.stack k).window = none ∨ (d.overrun k).isSome = true)
    (hfind : (d.workingJobs true).find? (fun y => decide (d.overrun k ≠ some y.1.id) &&
      y.1.grant.windows.any (fun w => w.stack == k) && y.2.needsStack k) = some (j, r)) :
    ((d.windowStart k).stack k).window = some j.id ∧ ((d.windowStart k).stack k).windowStart = d.now ∧
      ∀ e < 16, ((d.windowStart k).engine (k * 16 + e)).held = none := by
  unfold Dev.windowStart
  extract_lets spent busy d1
  have hopen : ¬ ((d.stack k).window.isSome && spent.isNone || (d.stack k).outOfService) = true := by
    obtain h | h := hfree
    · simp [h, hup]
    · obtain ⟨b, hb⟩ := Option.isSome_iff_exists.mp h
      simp [spent, hb, hup]
  rw [if_neg hopen, show (d.workingJobs true).find? _ = some (j, r) from hfind]
  dsimp only
  have hstack : (d1.modStack k (fun x => { x with window := some j.id, windowStart := d.now })).stack k =
      { d1.stack k with window := some j.id, windowStart := d.now } := tgetD_tset_same ..
  rw [hstack]
  refine ⟨rfl, rfl, fun e he => ?_⟩
  refine Dev.giveUpSlices_held busy (d.endWindow k) (k * 16 + e) ?_
  cases hheld : (d.engine (k * 16 + e)).held with
  | none =>
    refine .inr ?_
    rw [Dev.engine, Dev.endWindow_engines]
    exact hheld
  | some h =>
    refine .inl (List.mem_filter.mpr ⟨List.mem_map.mpr ⟨e, List.mem_range.mpr he, rfl⟩, ?_⟩)
    simp [hheld]

theorem Dev.giveUpSlice_clock (d : Dev) (n : Nat) : (d.giveUpSlice n).clock = d.clock := by
  unfold Dev.giveUpSlice
  split
  · rfl
  · exact (Dev.stopEngine_clock ..).trans (Dev.giveBackSlice_clock ..)

theorem Dev.windowStart_clock (d : Dev) (k : Nat) : (d.windowStart k).clock = d.clock := by
  unfold Dev.windowStart
  extract_lets spent busy d1
  split
  · rfl
  · split
    · rfl
    · exact (foldl_keep Dev.clock Dev.giveUpSlice_clock busy _ : d1.clock = _).trans (Dev.endWindow_clock ..)

theorem Dev.windowStart_standing {d : Dev} {k : Nat} (hopen : (d.stack k).window.isSome = true) (hspent : d.overrun k = none) :
    d.windowStart k = d := by
  unfold Dev.windowStart
  extract_lets spent
  rw [if_pos (by simp [hopen, spent, hspent])]

/-! ### Work on units (O51) -/

/-- A claim that leaves a device with every cause taken answers it. -/
theorem tileClaim_next {s : State} (hs : s.dev.raised = []) {n : Fin 384} (h : (s.tileClaim n).raised = s.dev.raised) :
    ∃ t, exec (.tileClaim n) s = .next t ∧ t.mem = s.mem ∧ t.safety = s.safety ∧ t.dev.now = (s.tileClaim n).now ∧
      ∀ m, t.dev.cell m = (s.tileClaim n).cell m := by
  obtain ⟨hmem, hsafety, -, honly⟩ := becomes_apply s (s.tileClaim n).eff (h.trans hs) rfl rfl
  exact ⟨_, rfl, hmem, hsafety, State.apply_now .., fun m => by rw [Dev.cell, honly.cells]; rfl⟩

/-- A claim of a free cell: the clauses of O51 about a check, a tile and nothing to take. -/
theorem tileClaim_free {s : State} (hs : s.dev.raised = []) {n : Fin 384} (hup : s.dev.cellUp n = true)
    (hp : ((s.dev.cell n).pattern && !(s.dev.cell n).idlePattern) = false) (hheld : (s.dev.cell n).held = none) :
    (∀ j r x v role, s.dev.checkFor n = some (j, r, x, v, role) →
      ∃ t h, exec (.tileClaim n) s = .next t ∧ t.mem = s.mem ∧ t.safety = s.safety ∧ t.dev.now = s.dev.now ∧
        (t.dev.cell n).held = some h ∧ h.job = j.id ∧ h.round = r.number ∧ h.op = x.op ∧ h.item = v.item ∧
        h.role = role ∧ h.start = s.dev.now ∧ h.cost = s.tileCost j r x v.item ∧ (t.dev.cell n).pattern = false) ∧
    (∀ j r x item, s.dev.checkFor n = none →
      s.dev.ownerOf n = some (j, r) ∨ (s.dev.ownerOf n = none ∧
        ∃ b, s.dev.offered 0 ((s.cellJobs n).map Prod.fst) = some b ∧
          (s.cellJobs n).find? (fun y => y.1.id == b.id) = some (j, r)) →
      r.tileFor ((n : Nat) / 64) = some (x, item) →
      ∃ t h, exec (.tileClaim n) s = .next t ∧ t.mem = s.mem ∧ t.safety = s.safety ∧ t.dev.now = s.dev.now ∧
        (t.dev.cell n).held = some h ∧ h.job = j.id ∧ h.round = r.number ∧ h.op = x.op ∧ h.item = item ∧
        h.role = .original ∧ h.start = max s.dev.now r.copied ∧ h.cost = s.tileCost j r x item ∧
        (t.dev.cell n).pattern = false) ∧
    (s.dev.checkFor n = none → s.dev.ownerOf n = none → s.cellJobs n = [] → CompletesTo (.tileClaim n) s s.dev) := by
  refine ⟨fun j r x v role hcheck => ?_, fun j r x item hcheck how htile => ?_, fun hcheck howner hjobs => ?_⟩
  · obtain ⟨hr, hnow, h, htask, hh, hpat⟩ := State.tileClaim_check n.isLt hup hp hheld hcheck
    obtain ⟨t, ht, hmem, hsafety, htn, htc⟩ := tileClaim_next hs hr
    simp only [Held.task, Prod.mk.injEq] at htask
    obtain ⟨e1, e2, e3, e4, e5, e6, e7⟩ := htask
    exact ⟨t, h, ht, hmem, hsafety, htn.trans hnow, (htc n).symm ▸ hh, e1, e2, e3, e4, e5, e7, e6, (htc n).symm ▸ hpat⟩
  · have heq := State.tileClaim_gives hup hp hheld hcheck how htile
    obtain ⟨hr, hnow, h, htask, hh, hpat⟩ := s.give_holds n n.isLt j r x item
    rw [← heq] at hr hnow hh hpat
    obtain ⟨t, ht, hmem, hsafety, htn, htc⟩ := tileClaim_next hs hr
    simp only [Held.task, Prod.mk.injEq] at htask
    obtain ⟨e1, e2, e3, e4, e5, e6, e7⟩ := htask
    exact ⟨t, h, ht, hmem, hsafety, htn.trans hnow, (htc n).symm ▸ hh, e1, e2, e3, e4, e5, e7, e6, (htc n).symm ▸ hpat⟩
  · exact completes_done rfl (congrArg Dev.eff (State.tileClaim_idle hheld hcheck howner hjobs)) hs

/-- A state whose device moves on to an instant, where a cell changes. -/
theorem withDev_modCell (s : State) (hs : s.dev.raised = []) (t : Tns) (n : Nat) (f : Tns → ComputeUnit → ComputeUnit) {u : State}
    (hu : u = s.withDev ((s.dev.advance t).modCell n (f (s.dev.advance t).now))) : u.mem = s.mem ∧ u.safety = s.safety ∧
      u.dev.tick = s.dev.tick ∧ u.dev.now = max s.dev.now t ∧ u.dev.cell n = f u.dev.now (s.dev.cell n) := by
  subst hu
  obtain ⟨hmem, hsafety, -, honly⟩ := becomes_apply s ((s.dev.advance t).modCell n (f (s.dev.advance t).now)).eff hs rfl rfl
  have hnow : (s.withDev ((s.dev.advance t).modCell n (f (s.dev.advance t).now))).dev.now = (s.dev.advance t).now := honly.settled.now
  refine ⟨hmem, hsafety, honly.settled.tick, hnow, ?_⟩
  rw [hnow]
  have hcells : (s.withDev ((s.dev.advance t).modCell n (f (s.dev.advance t).now))).dev.cells = _ := honly.cells
  rw [Dev.cell, hcells]
  exact Dev.modCell_same ..

/-- A state whose device moves on to an instant, where an engine changes. -/
theorem withDev_modEngine (s : State) (hs : s.dev.raised = []) (t : Tns) (n : Nat) (f : Tns → ComputeUnit → ComputeUnit) {u : State}
    (hu : u = s.withDev ((s.dev.advance t).modEngine n (f (s.dev.advance t).now))) : u.mem = s.mem ∧ u.safety = s.safety ∧
      u.dev.tick = s.dev.tick ∧ u.dev.now = max s.dev.now t ∧ u.dev.engine n = f u.dev.now (s.dev.engine n) := by
  subst hu
  obtain ⟨hmem, hsafety, -, honly⟩ := becomes_apply s ((s.dev.advance t).modEngine n (f (s.dev.advance t).now)).eff hs rfl rfl
  have hnow : (s.withDev ((s.dev.advance t).modEngine n (f (s.dev.advance t).now))).dev.now = (s.dev.advance t).now := honly.settled.now
  refine ⟨hmem, hsafety, honly.settled.tick, hnow, ?_⟩
  rw [hnow]
  have hengines : (s.withDev ((s.dev.advance t).modEngine n (f (s.dev.advance t).now))).dev.engines = _ := honly.engines
  rw [Dev.engine, hengines]
  exact Dev.modEngine_same ..

/-- An item that waits for a line stays on its unit. -/
def ComputeUnit.halted (h : Held) (w : Stall) (t : Tns) (c : ComputeUnit) : ComputeUnit := { c with held := some (h.halt w t) }

/-- A pass of a running sorter ends after its cycles, and takes its operator one pass on. -/
theorem zenithPass_ends {s u : State} (hu : u.dev.raised = []) (hclock : u.dev.clock = s.dev.clock) {g job op : Nat}
    (hjob : (u.dev.region g).sorter.job = some (job, op)) :
    (u.passEnd g).dev.tick = s.dev.tick ∧
      (u.passEnd g).dev.now = max s.dev.now ((u.dev.region g).sorter.start +
        ceilDiv (72 * 1000 - (u.dev.region g).sorter.milli) u.dev.ageing.clock) ∧
      ∀ j r, u.dev.round? job = some (j, r) → (∃ x ∈ r.insts, x.op = op ∧ x.runs .sorter = true) →
        ∃ v : State, u.passEnd g = (State.settleInst 2 v job op).pump ∧
          (v.dev.region g).sorter = { (u.dev.region g).sorter with job := none } ∧
          ∃ j' r', v.dev.round? job = some (j', r') ∧ r'.number = r.number ∧ r'.insts = r.insts.map (fun y =>
            if y.op = op then y.pass (u.view j r) (j.prog.op op) g else y) := by
  have hc := u.passEnd_clock g job op hjob
  refine ⟨(congrArg Prod.snd hc).trans (Dev.clock_tick hclock), (congrArg Prod.fst hc).trans ?_, fun j r hround hrun => ?_⟩
  · rw [Dev.clock_now hclock]
  · obtain ⟨x, hx⟩ := find_running hrun
    obtain ⟨v, hv, hitems⟩ := u.passEnd_items job op 0 g j r x hu hjob hround hx
    have hdealt : (v.dev.round? job).map (fun y => y.2.dealt) = _ := (congrArg (·.2.1) hitems :)
    obtain ⟨⟨j', r'⟩, hjr, hb⟩ := Option.map_eq_some_iff.mp hdealt
    exact ⟨v, hv, (congrArg (·.2.2.2.2) hitems :), j', r', hjr, (congrArg Prod.fst hb :), (congrArg Prod.snd hb :)⟩

theorem exec_roundComplete_nil (s : State) (n : Nat) : exec (.roundComplete n []) s = .next (s.roundComplete n) := by
  have hexec : exec (.roundComplete n []) s = .next ((s.meet []).roundComplete n) := rfl
  rw [hexec, State.meet_nil]

/-- Settles O51: what each claim gives, what each end leaves, and the windows and rounds. -/
theorem computeWorkCompletes : Obligations.ComputeWorkCompletes := by
  unfold Obligations.ComputeWorkCompletes
  intro s hs
  refine ⟨fun n c hc => ?_, fun k e obs c hc => ?_, fun g met u hu => ?_, fun k j r hup => ?_, fun job met u hu => ?_,
    fun j r hflare hjobs hlive hround hwork hcopy hstep hphase hsteps hvotes hwcb hclosers => ?_⟩
  · subst hc
    refine ⟨fun h => completes_done rfl (congrArg Dev.eff (State.tileClaim_busy h)) hs,
      fun hup hp hheld => tileClaim_free hs hup hp hheld,
      fun h j r x item hup hp hheld hahead hcheck hround hg howner hdouble hrole hnumber hwork htile => ?_,
      fun obs h => completes_done (d := s.dev) (congrArg Host.Outcome.next (State.tileComplete_none obs h)) rfl hs,
      fun obs h w hheld hwants hhalt => ⟨_, rfl, withDev_modCell s hs _ _ (ComputeUnit.halted h w)
        (State.tileComplete_halts hheld hwants hhalt)⟩, fun obs h hheld hwants hhalt => ?_⟩
    · obtain ⟨hr, hnow, a, htask, hh, ha⟩ := State.tileClaim_ahead hup hp hheld hahead hcheck hround hg howner hdouble hrole
        hnumber hwork htile
      obtain ⟨t, ht, hmem, hsafety, htn, htc⟩ := tileClaim_next hs hr
      simp only [Held.task, Prod.mk.injEq] at htask
      obtain ⟨e1, e2, e3, e4, e5, e6, -⟩ := htask
      exact ⟨t, a, ht, hmem, hsafety, htn.trans hnow, (htc n).symm ▸ hh, (htc n).symm ▸ ha, e1, e2, e3, e4, e5, e6⟩
    · have hclock := s.tileComplete_clock n obs h hheld hwants hhalt
      refine ⟨_, s.tileEnd n h obs, _, rfl, State.tileComplete_ends hheld hwants hhalt, (congrArg Prod.snd hclock :),
        (congrArg Prod.fst hclock :), fun j r hround hnumber hdoomed hrun hrole hlines hvotes => ?_⟩
      obtain ⟨hleft, hrest⟩ := State.tileEnd_leaves (n := n) hs hround hnumber hdoomed hrun hrole hlines hvotes
      have hend : (s.tileEnd n h obs).dev.now = (s.tileComplete n obs).dev.now :=
        (congrArg Prod.fst ((State.tileEnd_clock s n h obs).trans (Dev.itemEnds_clock ..)) :).trans (congrArg Prod.fst hclock :).symm
      rw [hend] at hleft
      exact ⟨hleft, hrest⟩
  · subst hc
    refine ⟨fun h => completes_done (d := s.dev) (congrArg Host.Outcome.next (State.sliceComplete_none obs h)) rfl hs,
      fun h w hheld hwants hhalt => ⟨_, rfl, withDev_modEngine s hs _ _ (ComputeUnit.halted h w)
        (State.sliceComplete_halts hheld hwants hhalt)⟩, fun h hheld hwants hhalt => ?_⟩
    have hclock := s.sliceComplete_clock (k * 16 + e) obs h hheld hwants hhalt
    refine ⟨_, (s.sliceEnd (k * 16 + e) h obs).countSteps h.job h.op, rfl, State.sliceComplete_ends hheld hwants hhalt,
      (congrArg Prod.snd hclock :), (congrArg Prod.fst hclock :), fun j r x hround hnumber hdoomed hx hslice hrole hlines hvotes => ?_⟩
    exact State.sliceEnd_leaves (n := k * 16 + e) hs hround hnumber hdoomed hx hslice hrole hlines hvotes
  · subst hu
    refine ⟨fun hnone => ?_, fun job op hjob => ⟨_, rfl, zenithPass_ends (State.meet_raised met s hs) (State.meet_clock ..) hjob⟩⟩
    refine congrArg Host.Outcome.next ?_
    rw [State.passEnd, hnone]
  · refine ⟨fun hopen hspent => ?_, fun hfree hfind => ?_⟩
    · exact congrArg (fun d => Host.Outcome.next (s.withDev d).offerEngines) (Dev.windowStart_standing hopen hspent)
    · obtain ⟨hwindow, hstart, hengines⟩ := Dev.windowStart_opens hup hfree hfind
      exact ⟨s.dev.windowStart k, rfl, Dev.clock_now (Dev.windowStart_clock ..), Dev.clock_tick (Dev.windowStart_clock ..), hwindow,
        hstart, fun e => hengines e e.isLt⟩
  · subst hu
    have hclock : ((s.meet met).roundComplete job).dev.clock = s.dev.clock :=
      (State.roundComplete_clock ..).trans (State.meet_clock ..)
    exact ⟨_, rfl, rfl, Dev.clock_now hclock, Dev.clock_tick hclock⟩
  · have hend := s.roundComplete_ready j.id j r hs hflare hjobs rfl hlive hround hwork hcopy hstep hphase hsteps hvotes hwcb hclosers
    obtain ⟨j', r', hj, hr, hready, hat, -⟩ := hend.job
    exact ⟨s.roundComplete j.id, j', r', exec_roundComplete_nil s j.id, hj, hr, hready, hat⟩

end Sys2Proof.Machine
end

section
/-!
Lanes, lines and write-combining buffers of the stacks (O52).
-/

namespace Sys2Proof.Machine

open Sys2Proof.Safety

/-! ### A flush of a combined line -/

/-- No write-combining buffer of a device holds a line. -/
def Dev.Uncombined (d : Dev) (line : Nat) : Prop := ∀ g, ∀ x ∈ (d.region g).wcb, x.line ≠ line

/-- The device with a line taken from every write-combining buffer. -/
def Dev.uncombine (d : Dev) (line : Nat) : Dev :=
  { d with regions := d.regions.map (fun r => (r.1, { r.2 with wcb := r.2.wcb.filter (fun x => x.line != line) })) }

theorem Dev.uncombine_uncombined (d : Dev) (line : Nat) : (d.uncombine line).Uncombined line := by
  intro g x hx
  have hmap : (d.uncombine line).region g = { d.region g with wcb := (d.region g).wcb.filter (fun x => x.line != line) } :=
    tgetD_map d.regions (fun r => { r with wcb := r.wcb.filter (fun x => x.line != line) }) g {} rfl
  rw [hmap] at hx
  simpa using (List.mem_filter.mp hx).2

theorem Dev.Uncombined.of_standing {a b : Dev} {line : Nat} (h : b.standing = a.standing) (ha : a.Uncombined line) :
    b.Uncombined line := by
  have hregions : b.regions = a.regions := (congrArg (·.2.1) h :)
  intro g x hx
  rw [Dev.region, hregions] at hx
  exact ha g x hx

/-- Jobs changed one after another leave regions and stacks, and raise nothing. -/
theorem foldl_standing {f : Dev → Nat → Dev} (h : ∀ d n, (f d n).standing = d.standing) (l : List Nat) (d : Dev) :
    (l.foldl f d).standing = d.standing := foldl_keep Dev.standing h l d

/-- An entry whose channel does not retrain is flushed: it leaves its buffer, and the poison of a line it covers goes. -/
theorem Eff.flushEntry_flushes {d : Dev} {m : Mem} {w : WcbEntry} (h : d.retrains w.line = false) :
    ∃ e, d.eff.flushEntry m w = ⟨e, if wholeLine w.cells then [.clearPoison (w.line * 128) 128] else [], []⟩ ∧
      e.raised = d.raised ∧ e.Uncombined w.line := by
  have hbase : ∀ {b : Dev}, b.standing = (d.uncombine w.line).standing → b.Uncombined w.line :=
    fun h => (d.uncombine_uncombined w.line).of_standing h
  unfold Eff.flushEntry
  extract_lets e1
  rw [if_neg (by simp [Dev.eff, h])]
  split
  · rename_i hpoison
    have hpart : wholeLine w.cells = false := by simp_all
    rw [if_neg (by simp [hpart])]
    have hkeep := foldl_standing (f := fun acc job => match acc.job? job with
        | some j => acc.modRound job (fun r => r.fail
            ((stackOfLine w.line).bind (fun x => acc.lineOwner j r x.1 x.2)) .linePoisoned acc.now
            (((stackOfLine w.line).map (fun x => x.1 / 2)).getD 6))
        | none => acc) (fun d n => by
          split
          · exact Dev.modJob_standing ..
          · rfl) w.jobs (d.uncombine w.line)
    exact ⟨_, rfl, (congrArg (·.1) hkeep :), hbase hkeep⟩
  · have hkeep := foldl_standing (f := fun acc job => acc.stageCells job w.cells.reverse)
      (fun d n => Dev.modJob_standing ..) w.jobs (d.uncombine w.line)
    exact ⟨_, rfl, (congrArg (·.1) hkeep :), hbase hkeep⟩

theorem Eff.flushEntry_waits {d : Dev} {m : Mem} {w : WcbEntry} (h : d.retrains w.line = true) : d.eff.flushEntry m w = d.eff := by
  unfold Eff.flushEntry
  exact if_pos h

/-- The age of a combined line reached: it is flushed, and its buffers hold the line no longer. -/
theorem ageFlush_after (s u : State) (r n : Nat) (w : WcbEntry) (hu : u.dev.raised = []) (hclock : u.dev.clock = s.dev.clock)
    (hw : (u.dev.region r).wcb[n]? = some w) (hfree : u.dev.retrains w.line = false) :
    ∃ t, u.done (u.ageFlush r n) = .next t ∧ t.safety = u.safety ∧ t.dev.tick = s.dev.tick ∧
      t.dev.now = max s.dev.now (w.born + ceilDiv (2048 * 1000) u.dev.ageing.clock) ∧
      (∀ g, ∀ x ∈ (t.dev.region g).wcb, x.line ≠ w.line) ∧
      t.mem = (if wholeLine w.cells then MemOp.run u.mem (.clearPoison (w.line * 128) 128) else u.mem) := by
  have hflush : u.ageFlush r n =
      (u.dev.advance (w.born + ceilDiv (2048 * 1000) u.dev.ageing.clock)).eff.flushEntry u.mem w := by
    unfold State.ageFlush
    rw [hw]
  have hd : ∀ d : Dev, d.raised = [] →
      d.retrains w.line = false → ∃ t, u.done (d.eff.flushEntry u.mem w) = .next t ∧ t.safety = u.safety ∧
      t.dev.clock = d.clock ∧ (∀ g, ∀ x ∈ (t.dev.region g).wcb, x.line ≠ w.line) ∧
      t.mem = (if wholeLine w.cells then MemOp.run u.mem (.clearPoison (w.line * 128) 128) else u.mem) := by
    intro d hraised hopen
    have hc := Eff.flushEntry_clock d.eff u.mem w
    obtain ⟨e, he, hr, hgone⟩ := Eff.flushEntry_flushes (m := u.mem) hopen
    rw [he] at hc ⊢
    obtain ⟨hmem, hsafety, -, honly⟩ := becomes_with u ⟨e, if wholeLine w.cells then [.clearPoison (w.line * 128) 128] else [], []⟩
      (hr.trans hraised) rfl
    refine ⟨_, rfl, hsafety, (State.apply_clock ..).trans hc, fun g x hx => ?_, hmem.trans ?_⟩
    · rw [Dev.region, honly.regions] at hx
      exact hgone g x hx
    · split <;> rfl
  obtain ⟨t, ht, hsafety, hc, hgone, hmem⟩ := hd (u.dev.advance (w.born + ceilDiv (2048 * 1000) u.dev.ageing.clock)) hu hfree
  rw [hflush]
  refine ⟨t, ht, hsafety, ?_, ?_, hgone, hmem⟩
  · exact (congrArg Prod.snd hc :).trans (show u.dev.tick = s.dev.tick from Dev.clock_tick hclock)
  · exact (congrArg Prod.fst hc :).trans (congrArg (max · _) (Dev.clock_now hclock))

/-! ### The check of a line and a retraining -/

theorem Dev.laneHit_counts {d : Dev} {k c lane : Nat} {hits : List Tns}
    (h : hits = d.now :: (tgetD (d.stack k).laneHits (c * 128 + lane) []).filter (fun t => decide (d.now < t + 1000000)))
    (hfew : hits.length < 16) :
    d.laneHit k c lane = (d.count 0x7010 (k + 1) 1).modStack k (fun y =>
      { y with laneHits := tset y.laneHits (c * 128 + lane) hits }) := by
  unfold Dev.laneHit
  extract_lets key hits' full d1
  have hhits : hits' = hits := h.symm
  have hfull : full = false := decide_eq_false (by rw [hhits]; exact Nat.not_le.mpr hfew)
  rw [if_neg (by simp [hfull])]
  unfold d1
  rw [hfull, hhits]
  rfl

theorem Dev.arrayError_corrected (d : Dev) {x : LineError} (h : x.symbols < 2) : d.arrayError x = d.eff := by
  unfold Dev.arrayError
  rw [if_pos h]

theorem Dev.lineError_array {d : Dev} {m : Mem} {x : LineError} (h : x.array = true) : d.lineError m x = d.arrayError x := by
  unfold Dev.lineError
  rw [if_pos h]

theorem Dev.lineError_corrected {d : Dev} {m : Mem} {x : LineError} (h : x.array = false) (h1 : x.symbols = 1) :
    d.lineError m x = (d.laneHit x.stack (laChannel x.la) x.lane).eff := by
  unfold Dev.lineError
  rw [if_neg (by simp [h]), if_pos h1]

/-- A line that is not correctable is poisoned, and put up for repair when it is read-only. -/
theorem Dev.lineError_bad {d : Dev} {m : Mem} {x : LineError} (h : x.array = false)
    (hbad : 2 ≤ x.symbols ∨ (x.symbols = 0 ∧ x.tagFails = true)) :
    ((m.sideOf (stackLine x.stack x.la)).ro = true → d.lineError m x = ⟨{ d with
        repairs := if d.repairs.contains ((x.stack : Nat), x.la) then d.repairs else d.repairs ++ [((x.stack : Nat), x.la)] },
      [.poison (stackLine x.stack x.la)], []⟩) ∧
    ((m.sideOf (stackLine x.stack x.la)).ro = false → d.tableLine x.stack x.la = none →
      d.lineError m x = ⟨d, [.poison (stackLine x.stack x.la)], []⟩) := by
  have hbadLine : badLine x = true := by
    unfold badLine
    obtain h2 | ⟨h0, ht⟩ := hbad
    · simp [h2]
    · simp [h0, ht]
  have hone : x.symbols ≠ 1 := by
    obtain h2 | ⟨h0, -⟩ := hbad <;> omega
  unfold Dev.lineError
  extract_lets line table
  rw [if_neg (by simp [h]), if_neg hone, if_neg (by simp [hbadLine])]
  refine ⟨fun hro => ?_, fun hro htable => ?_⟩
  · rw [if_pos hro]
    rfl
  · rw [if_neg (by simp [line, hro])]
    unfold table
    rw [htable]
    rfl

theorem Dev.retrained_none {d : Dev} {k c : Nat} {failing : List Nat} (h : tget (d.stack k).retraining c = none) :
    d.retrained k c failing = d.eff := by
  unfold Dev.retrained
  rw [h]

/-- A stack with a channel's retraining over and its failing lanes on spares. -/
def Stack.spared (x : Stack) (c : Nat) (failing : List Nat) : Stack := { x with
  retraining := terase x.retraining c
  spares := tset x.spares c (failing.filter (fun l => decide (l < 72))).length
  badSpares := tset x.badSpares c (failing.filter (fun l => decide (72 ≤ l))).length
  failedLanes := tset x.failedLanes c failing }

/-- A channel whose failing lanes have spares is trained 1.2 ms after the retraining began. -/
theorem Dev.retrained_trains {d : Dev} {k c : Nat} {failing : List Nat} {t : Tns} (h : tget (d.stack k).retraining c = some t)
    (hlanes : (failing.filter (fun l => decide (l < 72))).length + (failing.filter (fun l => decide (72 ≤ l))).length ≤ 2)
    (hopen : (d.stack k).fenced.contains c = false) :
    ∃ e : Dev, d.retrained k c failing = e.eff ∧ e.raised = d.raised ∧ e.now = max d.now (t + 1200000) ∧
      e.stack k = (d.stack k).spared c failing := by
  unfold Dev.retrained
  rw [h]
  dsimp -zeta only
  extract_lets d1 trained
  have hd1 : d1.stack k = { d.stack k with retraining := terase (d.stack k).retraining c } := tgetD_tset_same ..
  have htrained : trained = (d.stack k).spared c failing := by
    unfold trained
    rw [hd1, Stack.train, if_pos (by omega)]
    rfl
  have hkept : trained.fenced.contains c = false := by
    rw [htrained]
    exact hopen
  rw [if_neg (by simpa using hkept)]
  refine ⟨_, rfl, rfl, rfl, ?_⟩
  rw [← htrained]
  exact tgetD_tset_same ..

/-- A read-only line whose image can be read in Stratus is written whole again. -/
theorem Dev.repaired_mends {s d : Dev} {k la : Nat} {im : Image} {t : ImageEntry} {sl : WeightSlice} {src : Nat × Nat}
    (hwait : (s.repairsOf (k / 2)).contains (k, la) = true)
    (hd : d = { s with repairs := s.repairs.filter (fun r => decide (r ≠ (k, la))) })
    (hslice : d.sliceAt k la = some (im, t, sl)) (hsrc : src = im.lineSource t sl la)
    (hgood : d.badRange ((src.1 - Space.stratus.addr 0) / 4096) 1 = false) :
    s.repaired k la true = ⟨d, [.clear (stackAddr k la) 128, .copy src.1 (stackAddr k la) src.2,
      .clearPoison (stackAddr k la) 128], []⟩ := by
  unfold Dev.repaired
  rw [if_neg (by simp [show (k, la) ∈ s.repairsOf (k / 2) from by simpa using hwait])]
  extract_lets d1
  rw [show d1 = d from hd.symm, hslice]
  dsimp only
  rw [← hsrc, if_pos (by simp [hgood])]
  rfl

theorem Dev.laneFails_fails {d : Dev} {k c : Nat} (lane : Nat) (hup : (d.stack k).outOfService = false)
    (hopen : (d.stack k).fenced.contains c = false) (hidle : tget (d.stack k).retraining c = none) :
    d.laneFails k c lane = d.modStack k (fun y => { y with
      retraining := tset y.retraining c d.now
      failedLanes := tset y.failedLanes c (lane :: ((tgetD y.failedLanes c []).filter (· != lane))) }) := by
  unfold Dev.laneFails
  rw [if_neg (by simp only [hup, hopen, hidle]; decide)]

theorem Dev.laneFails_stays {d : Dev} {k c : Nat} (lane : Nat) (h : (d.stack k).outOfService = true ∨
    (d.stack k).fenced.contains c = true ∨ (tget (d.stack k).retraining c).isSome = true) : d.laneFails k c lane = d := by
  unfold Dev.laneFails
  dsimp only
  rw [if_pos (by obtain h | h | h := h <;> simp only [h, Bool.or_true, Bool.true_or])]

theorem State.scrub_outside {s : State} {x : LineError} (h : (s.dev.stack x.stack).outOfService = true ∨ s.dev.stackCap x.stack ≤ x.la) :
    s.scrub x = s.dev.eff := by
  unfold State.scrub
  rw [if_pos (by obtain h | h := h <;> simp [h])]

theorem State.scrub_inside {s : State} {x : LineError} (hup : (s.dev.stack x.stack).outOfService = false)
    (hla : x.la < s.dev.stackCap x.stack) : s.scrub x = s.dev.lineError s.mem x := by
  unfold State.scrub
  rw [if_neg (by simp [hup, hla])]

/-- A command whose effect changes the memories and raises nothing. -/
theorem completes_mem {c : Instr} {s : State} {e : Eff} {d : Dev} {ops : List MemOp} (hc : exec c s = s.done e) (he : e = ⟨d, ops, []⟩)
    (h : d.raised = []) : CompletesWith c s d ops := by
  subst he
  exact ⟨_, hc, becomes_with s ⟨d, ops, []⟩ h rfl⟩

/-- Settles O52, clause by clause: lanes, retrainings, scrubs, flushes and repairs. -/
theorem stackEventsComplete : Obligations.StackEventsComplete := by
  unfold Obligations.StackEventsComplete
  intro s hs
  refine ⟨fun k c lane lost => ⟨fun hup hopen hidle => ?_, fun h => ?_⟩, fun k c failing => ⟨fun h => ?_, ?_⟩, fun x h => ?_,
    fun x hits hup hla hhits => ?_, fun r n met u hu => ?_, fun k la im t sl src d hwait hd hslice hsrc hgood => ?_⟩
  · exact completes_done rfl (congrArg Dev.eff (Dev.laneFails_fails lane hup hopen hidle)) hs
  · exact completes_done rfl (congrArg Dev.eff (Dev.laneFails_stays lane h)) hs
  · exact completes_done rfl (Dev.retrained_none h) hs
  · intro t active bad ht hactive hbad hlanes hopen
    subst hactive hbad
    obtain ⟨e, he, hraised, hnow, hstack⟩ := Dev.retrained_trains ht hlanes hopen
    obtain ⟨u, hu, hmem, hsafety, -, honly⟩ :=
      completes_done (c := .retrainingComplete k c failing) (s := s) rfl he (hraised.trans hs)
    refine ⟨u, hu, hmem, hsafety, honly.settled.now.trans hnow, ?_⟩
    rw [Dev.stack, honly.stackTab]
    exact hstack
  · exact completes_done rfl (State.scrub_outside h) hs
  · have hscrub := State.scrub_inside hup hla
    refine ⟨fun harray hfew => ?_, fun harray hone hfew => ?_, fun harray hbad => ?_⟩
    · exact completes_done rfl (hscrub.trans ((Dev.lineError_array harray).trans (Dev.arrayError_corrected _ hfew))) hs
    · exact completes_done rfl (hscrub.trans ((Dev.lineError_corrected harray hone).trans
        (congrArg Dev.eff (Dev.laneHit_counts hhits hfew)))) hs
    · obtain ⟨hro, hrw⟩ := Dev.lineError_bad (d := s.dev) (m := s.mem) harray hbad
      exact ⟨fun h => completes_mem rfl (hscrub.trans (hro h)) hs, fun h htable => completes_mem rfl (hscrub.trans (hrw h htable)) hs⟩
  · subst hu
    refine ⟨fun hnone => ?_, fun w hw hwait => ?_, fun w hw hfree => ?_⟩
    · refine congrArg (s.meet met).done (?_ : (s.meet met).ageFlush r n = _)
      unfold State.ageFlush
      rw [hnone]
    · refine congrArg (s.meet met).done (?_ : (s.meet met).ageFlush r n = _)
      unfold State.ageFlush
      rw [hw]
      exact Eff.flushEntry_waits hwait
    · exact ageFlush_after s (s.meet met) r n w (State.meet_raised met s hs) (State.meet_clock ..) hw hfree
  · refine ⟨s.apply (s.dev.repaired k la true), rfl, ?_⟩
    have heff := Dev.repaired_mends hwait hd hslice hsrc hgood
    rw [heff]
    exact becomes_with s ⟨d, _, []⟩ (by rw [hd]; exact hs) rfl

end Sys2Proof.Machine
end

section
/-!
Idle patterns and the ends of patterns (O53).
-/

namespace Sys2Proof.Machine

open Sys2Proof.Safety

/-! ### A unit by its code -/

theorem Dev.modUnit_same (d : Dev) (c : Nat) (f : ComputeUnit → ComputeUnit) : (d.modUnit c f).unitOf c = f (d.unitOf c) := by
  unfold Dev.unitOf Dev.modUnit
  split
  · exact Dev.modCell_same ..
  · exact Dev.modEngine_same ..

theorem Dev.unitOf_tables {a b : Dev} (hc : b.cells = a.cells) (he : b.engines = a.engines) (c : Nat) : b.unitOf c = a.unitOf c := by
  rw [Dev.unitOf, Dev.cell, Dev.engine, hc, he, Dev.unitOf, Dev.cell, Dev.engine]

theorem Dev.startPattern_eq (d : Dev) (c : Nat) : d.startPattern c =
    d.modUnit c (fun x => { x with pattern := true, idlePattern := false, patternAt := d.now, patternMilli := 0 }) := rfl

/-- What changes on a unit changes nothing but the tables of cells and engines. -/
theorem Dev.modUnit_eq (d : Dev) (c : Nat) (f : ComputeUnit → ComputeUnit) :
    ∃ cs es, d.modUnit c f = { d with cells := cs, engines := es } := by
  unfold Dev.modUnit
  split
  · exact ⟨_, d.engines, rfl⟩
  · exact ⟨d.cells, _, rfl⟩

theorem Dev.UnitsKept.unitOf {P : ComputeUnit → Prop} {d d' : Dev} (h : d.UnitsKept P d') {c : Nat} (hc : P (d.unitOf c)) :
    P (d'.unitOf c) := by
  unfold Dev.unitOf at hc ⊢
  split
  · rw [if_pos ‹_›] at hc
    exact h.cell c hc
  · rw [if_neg ‹_›] at hc
    exact h.engine (c - 384) hc

/-! ### An idle pattern -/

theorem Dev.idleRun_stays {d : Dev} {c : Nat} (h : d.fullManagement = false ∨ d.patternFree c = false ∨ d.patternOn c = true ∨
    d.heldByRound c = true) : d.idleRun c = d := by
  unfold Dev.idleRun
  rw [if_pos (by obtain h | h | h | h := h <;> simp [h])]

/-- A unit that is free begins an idle pattern 10 ms after its last pass. -/
theorem Dev.idleRun_begins {d : Dev} {c : Nat} (hm : d.fullManagement = true) (hf : d.patternFree c = true)
    (hon : d.patternOn c = false) (hh : d.heldByRound c = false) :
    (d.idleRun c).raised = d.raised ∧ (d.idleRun c).now = max d.now (d.lastPass c + 10000000) ∧
      (d.idleRun c).unitOf c = { d.unitOf c with
        pattern := true, idlePattern := true, patternAt := max d.now (d.lastPass c + 10000000), patternMilli := 0 } := by
  unfold Dev.idleRun
  rw [if_neg (by simp [hm, hf, hon, hh]), Dev.startPattern_eq]
  generalize d.lastPass c + 10000000 = t
  obtain ⟨cs, es, h1⟩ := (d.advance t).modUnit_eq c (fun x =>
    { x with pattern := true, idlePattern := false, patternAt := (d.advance t).now, patternMilli := 0 })
  have hsame := (d.advance t).modUnit_same c (fun x =>
    { x with pattern := true, idlePattern := false, patternAt := (d.advance t).now, patternMilli := 0 })
  rw [h1] at hsame ⊢
  rw [Dev.modUnit_same, hsame]
  obtain ⟨cs', es', h2⟩ := ({ d.advance t with cells := cs, engines := es } : Dev).modUnit_eq c (fun x => { x with idlePattern := true })
  rw [h2]
  exact ⟨rfl, rfl, rfl⟩

/-! ### Tests asked for -/

theorem Dev.requestTest_eq (d : Dev) (u origin : Nat) : ∃ rs, d.requestTest u origin = { d with regions := rs } := ⟨_, rfl⟩

/-- A test that is asked for stands in its region's queue, alone or inside one that waits. -/
theorem Dev.requestTest_asked (d : Dev) (u origin : Nat) : TestAsked (d.requestTest u origin) u := by
  unfold TestAsked
  have hregion : (d.requestTest u origin).region (unitRegion u) = _ := tgetD_tset_same ..
  rw [hregion]
  dsimp only
  split
  · rename_i hany
    obtain ⟨y, hy, hin⟩ := List.any_eq_true.mp hany
    refine ⟨y, hy, ?_⟩
    simp only [Bool.or_eq_true, Bool.and_eq_true, Bool.not_eq_true', beq_iff_eq] at hin
    exact hin.symm
  · exact ⟨{ unit := u, origin := origin }, List.mem_append_right _ List.mem_cons_self, .inl rfl⟩

theorem testAsked_regions {a b : Dev} {u : Nat} (h : TestAsked a u) (hr : b.regions = a.regions) : TestAsked b u := by
  unfold TestAsked at h ⊢
  rw [Dev.region, hr]
  exact h

/-! ### The end of a pattern -/

/-- A pattern ends at its instant, and its unit runs none. -/
theorem Dev.endPattern_ends (d : Dev) (c : Nat) : (d.endPattern c).raised = d.raised ∧ (d.endPattern c).support = d.support ∧
    (d.endPattern c).unitOf c = { d.unitOf c with pattern := false, idlePattern := false } := by
  unfold Dev.endPattern
  extract_lets x ns
  obtain ⟨cs, es, h⟩ := ((d.advance (x.patternAt + ns)).count 0x7000 (if c < 384 then 3 else 4) (patternCycles c)).modUnit_eq c
    (fun y => { y with pattern := false, idlePattern := false })
  have hsame := ((d.advance (x.patternAt + ns)).count 0x7000 (if c < 384 then 3 else 4) (patternCycles c)).modUnit_same c
    (fun y => { y with pattern := false, idlePattern := false })
  rw [hsame, h]
  exact ⟨rfl, rfl, rfl⟩

/-- A unit that owes cause [0] no pattern any more: what clears the cause changes, and the memories do not. -/
theorem Eff.patternDone_eq (e : Eff) (c : Nat) : ∃ x ops, e.patternDone c =
    { e with dev := { e.dev with support := x }, safety := ops } := by
  unfold Eff.patternDone
  extract_lets was l e1
  split
  · exact ⟨_, _, rfl⟩
  · exact ⟨_, e.safety, rfl⟩

theorem Dev.closingDone_eq (d : Dev) (c : Nat) : ∃ l, d.closingDone c = { d with jobs := l } := ⟨_, rfl⟩

/-- What the end of a pattern leaves of an effect whose memories are as before: the unit, the queue of its region's tests. -/
structure Eff.PatternOver (e : Eff) (c : Nat) (x : ComputeUnit) : Prop where
  raised : e.dev.raised = []
  mem : e.mem = []
  unit : e.dev.unitOf c = x

/-- The last steps of a pattern's end keep the units and the tests. -/
theorem patternOver {e : Dev} {c : Nat} (hraised : e.raised = []) :
    ((({ dev := e.closingDone c } : Eff).patternDone c).PatternOver c (e.unitOf c)) ∧
      (({ dev := e.closingDone c } : Eff).patternDone c).dev.regions = e.regions := by
  obtain ⟨x, ops, h⟩ := Eff.patternDone_eq { dev := e.closingDone c } c
  rw [h]
  exact ⟨⟨hraised, rfl, rfl⟩, rfl⟩

/-- The test unit of the unit with a pattern code. -/
def patternTest (c : Nat) : Nat := testUnit (decide (c < 384)) (if c < 384 then c else c - 384)

/-- A pattern that passes leaves its unit with no suspect work and its last pass now. -/
theorem Eff.patternPasses_over {d : Dev} {c : Nat} (hraised : d.raised = []) :
    (d.eff.patternPasses c).PatternOver c { d.unitOf c with lastPass := d.now, suspects := [] } ∧
      ((d.unitOf c).fenced = true → (d.unitOf c).margin = false → TestAsked (d.eff.patternPasses c).dev (patternTest c)) := by
  unfold Eff.patternPasses
  extract_lets d' d1 d2
  obtain ⟨cs, es, h1⟩ := d.modUnit_eq c (fun x => { x with lastPass := d.now, suspects := [] })
  have hd1 : d1 = { d with cells := cs, engines := es } := h1
  have hunit : d1.unitOf c = { d.unitOf c with lastPass := d.now, suspects := [] } := Dev.modUnit_same ..
  have h2 : ∃ rs, d2 = { d1 with regions := rs } := by
    unfold d2
    split
    · exact Dev.requestTest_eq ..
    · exact ⟨d1.regions, rfl⟩
  obtain ⟨rs, hrs⟩ := h2
  have hr2 : d2.raised = [] := by rw [hrs, hd1]; exact hraised
  have hu2 : d2.unitOf c = { d.unitOf c with lastPass := d.now, suspects := [] } := by rw [← hunit, hrs]; rfl
  obtain ⟨hover, hregions⟩ := patternOver (c := c) hr2
  rw [hu2] at hover
  refine ⟨hover, fun hfenced hmargin => ?_⟩
  have hasked : TestAsked d2 (patternTest c) := by
    unfold d2
    rw [if_pos (by simp [d', Dev.eff, hfenced, hmargin])]
    exact Dev.requestTest_asked ..
  exact testAsked_regions hasked hregions

/-- Suspect work run again, or the rounds that hold it failed: no unit changes, nothing is raised. -/
theorem Dev.suspectWork_kept {P : ComputeUnit → Prop} (d : Dev) (c : Nat) : d.UnitsKept P (d.suspectWork c) := by
  unfold Dev.suspectWork
  extract_lets l
  split
  · refine .fold (fun d x => ?_) l d
    have hfree : d.UnitsKept P d.free.2 := .of_tables rfl rfl rfl rfl
    exact (hfree.trans (.modJob ..)).trans (.modJob ..)
  · exact .fold (fun d x => .modJob ..) l d

/-- A unit that runs no pattern and owes no suspect work. -/
def ComputeUnit.Clean (x : ComputeUnit) : Prop := x.pattern = false ∧ x.suspects = []

theorem steadfast_clean : Steadfast ComputeUnit.Clean :=
  ⟨fun _ h => h, fun _ h => h, fun _ h => ⟨rfl, h.2⟩⟩

/-- The failure of a pattern is noted, and raises nothing while no other block has failed one within 1 s. -/
theorem Dev.notePatternFail_alone {d : Dev} {c : Nat}
    (h : ∀ f ∈ d.support.patternFails, f.1 ≠ patternBlock c → f.2 + 1000000000 < d.now) :
    (d.notePatternFail c).raised = d.raised ∧ (d.notePatternFail c).regions = d.regions ∧
      (d.notePatternFail c).unitOf c = d.unitOf c := by
  unfold Dev.notePatternFail
  extract_lets near d1
  have hnear : near.any (fun f => f.1 != patternBlock c) = false := by
    refine List.any_eq_false.mpr fun f hf => ?_
    obtain ⟨hmem, hlate⟩ := List.mem_filter.mp hf
    intro hother
    exact absurd (of_decide_eq_true hlate) (Nat.not_le.mpr (h f hmem (by simpa using hother)))
  rw [if_neg (by simp [hnear])]
  exact ⟨rfl, rfl, rfl⟩

/-- A fence by the code of a unit. -/
theorem Dev.emergencyFence_code (d : Dev) {c : Nat} :
    ((d.emergencyFence (if c < 384 then cellUnit c else engineUnit (c - 384))).unitOf c).fenced = true := by
  obtain ⟨-, hcells, hengines⟩ := d.emergencyFence_fences (if c < 384 then cellUnit c else engineUnit (c - 384))
  unfold Dev.unitOf
  by_cases hc : c < 384
  · rw [if_pos hc] at hcells ⊢
    rw [if_pos hc]
    exact hcells c (unitCells_cellUnit hc)
  · rw [if_neg hc] at hengines ⊢
    rw [if_neg hc]
    exact hengines (c - 384) (unitEngines_engineUnit _)

/-- A pattern that fails leaves its unit fenced and without suspect work, and its test asked for. -/
theorem Eff.patternFails_over {d : Dev} {c : Nat} (hraised : d.raised = []) (hpattern : (d.unitOf c).pattern = false)
    (halone : ∀ f ∈ d.support.patternFails, f.1 ≠ patternBlock c → f.2 + 1000000000 < d.now) :
    ∃ x, (d.eff.patternFails c).PatternOver c x ∧ x.fenced = true ∧ x.pattern = false ∧ x.suspects = [] ∧
      TestAsked (d.eff.patternFails c).dev (patternTest c) := by
  unfold Eff.patternFails
  extract_lets d0 d1 d2
  have hwork : d.UnitsKept (fun x => x.pattern = false) d0 := Dev.suspectWork_kept d c
  obtain ⟨cs, es, hmod⟩ := d0.modUnit_eq c (fun x => { x with suspects := [] })
  have hclean : ((d0.modUnit c (fun x => { x with suspects := [] })).unitOf c).Clean := by
    rw [Dev.modUnit_same]
    exact ⟨hwork.unitOf hpattern, rfl⟩
  have hfence : (d0.modUnit c (fun x => { x with suspects := [] })).UnitsKept ComputeUnit.Clean d1 :=
    .emergencyFence steadfast_clean _ _
  have hunit : (d1.unitOf c).Clean := hfence.unitOf hclean
  have hfenced : (d1.unitOf c).fenced = true := Dev.emergencyFence_code ..
  have hr1 : d1.raised = [] := by
    rw [hfence.raised, hmod]
    exact hwork.raised.trans hraised
  have hs1 : d1.support = d.support := by
    rw [hfence.support, hmod]
    exact hwork.support
  have hnow : d2.now = d.now := Dev.clock_now ((Dev.requestTest_clock ..).trans ((Dev.emergencyFence_clock ..).trans
    ((Dev.modUnit_clock ..).trans (Dev.suspectWork_clock ..))))
  obtain ⟨hr, hregions, hu⟩ := Dev.notePatternFail_alone (d := d2) (c := c) (by
    rw [show d2.support = d1.support from rfl, hs1, hnow]
    exact halone)
  obtain ⟨hover, hregions'⟩ := patternOver (c := c) (hr.trans hr1)
  have hasked : TestAsked d2 (patternTest c) := Dev.requestTest_asked ..
  rw [hu] at hover
  exact ⟨d1.unitOf c, hover, hfenced, hunit.1, hunit.2, testAsked_regions hasked (hregions'.trans hregions)⟩

/-- A pattern's end carried out. -/
theorem patternOver_after {s : State} {e : Eff} {c : Nat} {x : ComputeUnit} (h : e.PatternOver c x) :
    (s.apply e).mem = s.mem ∧ (s.apply e).dev.unitOf c = x ∧ (s.apply e).dev.regions = e.dev.regions := by
  have honly := s.apply_only e h.raised
  refine ⟨?_, (Dev.unitOf_tables honly.cells honly.engines c).trans h.unit, honly.regions⟩
  rw [State.apply_mem, h.mem]
  rfl

theorem exec_patternComplete {s : State} (u : PatternUnit) (pass : Bool) (h : s.dev.patternOn (patternCode u) = true) :
    exec (.patternComplete u pass) s = .next (s.apply (if pass then (s.dev.endPattern (patternCode u)).eff.patternPasses (patternCode u)
      else (s.dev.endPattern (patternCode u)).eff.patternFails (patternCode u))).pump := by
  show Host.Outcome.next (s.patternEnd (patternCode u) pass) = _
  rw [State.patternEnd, if_neg (by simp [h])]

/-- Settles O53: idle patterns, and what a pass or a failure leaves. -/
theorem patternsComplete : Obligations.PatternsComplete := by
  unfold Obligations.PatternsComplete
  intro s u c tu hs hc htu
  subst hc
  have htest : tu = patternTest (patternCode u) := htu
  subst htest
  refine ⟨fun h => completes_done rfl (congrArg Dev.eff (Dev.idleRun_stays h)) hs, fun hm hf hon hh => ?_, fun pass h => ?_,
    fun e hon he => ?_⟩
  · obtain ⟨hraised, hnow, hunit⟩ := Dev.idleRun_begins hm hf hon hh
    obtain ⟨hmem, hsafety, hpending, honly⟩ := becomes_apply s (s.dev.idleRun (patternCode u)).eff (hraised.trans hs) rfl rfl
    have htime : (s.apply (s.dev.idleRun (patternCode u)).eff).dev.now = _ := honly.settled.now.trans hnow
    refine ⟨_, rfl, hmem, hsafety, hpending, htime, ?_⟩
    rw [htime]
    exact (Dev.unitOf_tables honly.cells honly.engines _).trans hunit
  · refine completes_done (e := s.dev.eff) ?_ rfl hs
    show Host.Outcome.next (s.patternEnd (patternCode u) pass) = _
    rw [State.patternEnd, if_pos (by simp [h])]
    rfl
  · obtain ⟨hraised, hsupport, hunit⟩ := s.dev.endPattern_ends (patternCode u)
    have hclock := s.dev.endPattern_clock (patternCode u)
    have hnow : (s.dev.endPattern (patternCode u)).now = e := (congrArg Prod.fst hclock).trans he.symm
    have htick : (s.dev.endPattern (patternCode u)).tick = s.dev.tick := (congrArg Prod.snd hclock :)
    have hr0 := hraised.trans hs
    generalize hd : s.dev.endPattern (patternCode u) = d at hr0 hsupport hunit hnow htick
    refine ⟨?_, fun halone => ?_⟩
    · obtain ⟨hover, hasked⟩ := Eff.patternPasses_over (c := patternCode u) hr0
      obtain ⟨hmem, hafter, hregions⟩ := patternOver_after (s := s) hover
      have hc : (s.apply (d.eff.patternPasses (patternCode u))).dev.clock = d.clock :=
        (State.apply_clock ..).trans (Eff.patternPasses_clock ..)
      rw [hunit, hnow] at hafter
      refine ⟨_, (exec_patternComplete u true hon).trans (by rw [hd]; rfl), (Dev.clock_now hc).trans hnow,
        (Dev.clock_tick hc).trans htick, hmem, hafter, fun hfenced hmargin => ?_⟩
      exact testAsked_regions (hasked (by rw [hunit]; exact hfenced) (by rw [hunit]; exact hmargin)) hregions
    · obtain ⟨x, hover, hfenced, hpattern, hsuspects, hasked⟩ := Eff.patternFails_over (c := patternCode u) hr0 (by rw [hunit])
        (by rw [hsupport, hnow]; exact halone)
      obtain ⟨hmem, hafter, hregions⟩ := patternOver_after (s := s) hover
      have hc : (s.apply (d.eff.patternFails (patternCode u))).dev.clock = d.clock :=
        (State.apply_clock ..).trans (Eff.patternFails_clock ..)
      rw [← hafter] at hfenced hpattern hsuspects
      exact ⟨_, (exec_patternComplete u false hon).trans (by rw [hd]; rfl), (Dev.clock_now hc).trans hnow,
        (Dev.clock_tick hc).trans htick, hmem, hfenced, hpattern, hsuspects, testAsked_regions hasked hregions⟩

end Sys2Proof.Machine
end

section
/-!
Placements, spills, evictions and recalls (O54).
-/

namespace Sys2Proof.Machine

open Sys2Proof.Safety

/-! ### Where images, pages and streams are -/

/-- The causes raised, and the images, page frames and streams of a device. -/
def Dev.stored (d : Dev) : List (Nat × Nat) × List (Nat × Image) × List (Nat × PageFrame) × List (Nat × StreamEntry) :=
  (d.raised, d.images, d.pageFrames, d.streams)

/-- The same of an effect, with what it asks of the safety controller. -/
def Eff.stored (e : Eff) :
    (List (Nat × Nat) × List (Nat × Image) × List (Nat × PageFrame) × List (Nat × StreamEntry)) × List SafetyOp :=
  (e.dev.stored, e.safety)

theorem Dev.stored_raised {a b : Dev} (h : b.stored = a.stored) : b.raised = a.raised := (congrArg Prod.fst h :)
theorem Dev.stored_images {a b : Dev} (h : b.stored = a.stored) : b.images = a.images := (congrArg (·.2.1) h :)

theorem Dev.stored_frame {a b : Dev} (h : b.stored = a.stored) (n : Nat) : b.frame n = a.frame n := by
  have hframes : b.pageFrames = a.pageFrames := (congrArg (·.2.2.1) h :)
  rw [Dev.frame, hframes, Dev.frame]

theorem Dev.stored_stream {a b : Dev} (h : b.stored = a.stored) (n : Nat) : b.stream? n = a.stream? n := by
  have hstreams : b.streams = a.streams := (congrArg (·.2.2.2) h :)
  rw [Dev.stream?, hstreams, Dev.stream?]

theorem stored_of_notices {a b : Dev} (h : NoticesOnly a b) : b.stored = a.stored := (congrArg Dev.stored h.shell :)

theorem stored_of_still {a b : Dev} (h : b.still = a.still) :
    b.raised = a.raised ∧ b.images = a.images := ⟨(congrArg Dev.raised h :), (congrArg Dev.images h :)⟩

theorem Dev.modJob_stored (d : Dev) (n : Nat) (f : Job → Job) : (d.modJob n f).stored = d.stored := by
  obtain ⟨l, h⟩ := d.modJob_eq n f
  rw [h]
  rfl

theorem Dev.lifeMarks_stored (d : Dev) : d.lifeMarks.stored = d.stored := by
  unfold Dev.lifeMarks
  extract_lets life mark
  split
  · exact Eq.trans (stored_of_notices (Dev.notify_only _ _ _ _)) rfl
  · rfl

theorem Dev.countSpare_stored (d : Dev) : d.countSpare.stored = d.stored := by
  unfold Dev.countSpare
  refine (foldl_keep Dev.stored (fun d x => ?_) _ _).trans rfl
  split
  · exact Dev.modJob_stored ..
  · rfl

theorem Dev.spareMarks_stored (d : Dev) : d.spareMarks.stored = d.stored := by
  unfold Dev.spareMarks
  split
  · split
    · exact d.countSpare_stored
    · rfl
  · split <;> rfl

theorem Dev.wroteUnits_stored (d : Dev) (n : Nat) : (d.wroteUnits n).stored = d.stored :=
  (Dev.spareMarks_stored _).trans (Dev.lifeMarks_stored _)

theorem Dev.readUnits_stored (d : Dev) : d.readUnits.stored = d.stored := rfl

theorem Dev.markBad_stored (d : Dev) (loc units : Nat) : (d.markBad loc units).stored = d.stored := by
  unfold Dev.markBad
  split <;> rfl

theorem Dev.readRange_stored (d : Dev) (loc units : Nat) (correctable : Bool) :
    (d.readRange loc units correctable).1.stored = d.stored := by
  unfold Dev.readRange
  extract_lets d1
  split
  · rfl
  · exact (Dev.markBad_stored ..).trans rfl

theorem Dev.readRange_jobs (d : Dev) (loc units : Nat) (correctable : Bool) :
    (d.readRange loc units correctable).1.jobs = d.jobs := by
  unfold Dev.readRange Dev.markBad
  extract_lets d1
  split
  · rfl
  · dsimp only
    split <;> rfl

/-- A range with no unit known to be bad is read whole. -/
theorem Dev.readRange_good {d : Dev} {loc units : Nat} (h : d.badRange loc units = false) :
    d.readRange loc units true = (d.readUnits, true) := by
  unfold Dev.readRange
  exact if_pos (by rw [show d.readUnits.badRange loc units = d.badRange loc units from rfl, h]; rfl)

theorem Dev.readRange_bad {d : Dev} {loc units : Nat} {correctable : Bool} (h : correctable = false ∨ d.badRange loc units = true) :
    (d.readRange loc units correctable).2 = false := by
  unfold Dev.readRange
  extract_lets d1
  rw [if_neg]
  rw [show d1.badRange loc units = d.badRange loc units from rfl]
  obtain h | h := h <;> simp [h]

theorem Dev.writeSuspended_stored (d : Dev) : d.writeSuspended.2.stored = d.stored := by
  unfold Dev.writeSuspended Dev.settleDie
  split
  · rfl
  · dsimp only
    split <;> split <;> rfl

theorem Eff.freeUnits_stored (e : Eff) (loc n : Nat) : (e.freeUnits loc n).stored = e.stored := rfl

theorem Eff.freeLines_stored (e : Eff) (k la n : Nat) : (e.freeLines k la n).stored = e.stored := rfl

theorem Eff.mod_stored {e : Eff} {f : Dev → Dev} (h : (f e.dev).stored = e.dev.stored) : (e.mod f).stored = e.stored :=
  congrArg (fun x => (x, e.safety)) h

/-- An effect that asks nothing of the safety controller leaves it, and its device has what it has. -/
theorem stored_after {s : State} {e : Eff} (hr : e.dev.raised = []) (hs : e.safety = []) :
    (s.apply e).safety = s.safety ∧ (s.apply e).pending = s.pending ∧ (s.apply e).dev.stored = e.dev.stored := by
  obtain ⟨-, hsafety, hpending, honly⟩ := becomes_with s e hr hs
  exact ⟨hsafety, hpending, stored_of_notices honly⟩

/-! ### Placements -/

/-- Packets of a partition completed one after another leave everything but partitions, counters and notices. -/
theorem Dev.completeTags_still (p : Nat) (c : Code) (l : List Nat) (d : Dev) :
    (l.foldl (fun acc t => acc.completeTag p t c) d).still = d.still := foldl_still (fun _ _ => Dev.completeTag_still ..) l d

theorem Dev.placementDone_none {d : Dev} {image : Nat} (correctable : Bool) (h : d.placing image = false) :
    d.placementDone image correctable = d.eff := by
  unfold Dev.placementDone
  split
  · rfl
  · rw [if_pos (by simp [h])]

/-- A placement whose units can be read copies every slice, and the image is placed. -/
theorem Dev.placementDone_places {d : Dev} {image : Nat} {im : Image} (him : tget d.images image = some im)
    (hnumber : im.number = image) (hplacing : d.placing image = true) (hgood : d.badRange im.loc im.units = false) :
    ∃ e, d.placementDone image true = ⟨e, (im.entries.zip im.slices).flatMap (fun x => x.2.flatMap (im.copyOps x.1)), []⟩ ∧
      e.raised = d.raised ∧ tget e.images image = some { im with placed := true } := by
  unfold Dev.placementDone
  rw [him]
  dsimp only
  rw [if_neg (by simp [hplacing]), Dev.readRange_good hgood]
  dsimp only
  rw [if_pos rfl]
  have hstill := Dev.completeTags_still im.part .ok
    (((d.part im.part).waits.filter (fun w => decide (w.what = .placed image))).map (fun w => w.pkt.tag))
    (d.readUnits.setImage { im with placed := true })
  obtain ⟨hr, hi⟩ := stored_of_still hstill
  refine ⟨_, rfl, hr, ?_⟩
  refine (congrArg (tget · image) hi).trans ?_
  rw [← hnumber]
  exact tget_tset_same ..

/-- An image that no live job binds leaves the stacks and stays in Stratus alone. -/
theorem Eff.abandonImage_leaves {e : Eff} {im : Image} (h : ∀ j ∈ e.dev.liveJobs, j.imageNo ≠ im.number) :
    (e.abandonImage im).dev.raised = e.dev.raised ∧ (e.abandonImage im).safety = e.safety ∧
      tget (e.abandonImage im).dev.images im.number = some { im with placed := false, restoring := false, slices := [] } := by
  unfold Eff.abandonImage
  have hnone : e.dev.liveJobs.filter (fun j => j.imageNo == im.number) = [] :=
    List.filter_eq_nil_iff.mpr fun j hj => by simpa using h j hj
  rw [hnone]
  extract_lets js e1 e2
  have hcalm : e1.Calm e2 := Eff.Calm.fold (fun e l => Eff.Calm.fold (fun e x => by
    split
    · exact Eff.Calm.refl e
    · exact e.freeLines_calm _ _ _) l e) im.slices e1
  exact ⟨hcalm.raised, hcalm.2, tget_tset_same ..⟩

/-- A placement that cannot read its image, which no live job binds, leaves it in Stratus alone. -/
theorem Dev.placementDone_fails {d : Dev} {image : Nat} {im : Image} {correctable : Bool} (him : tget d.images image = some im)
    (hnumber : im.number = image) (hplacing : d.placing image = true) (hjobs : ∀ j ∈ d.liveJobs, j.imageNo ≠ image)
    (hbad : correctable = false ∨ d.badRange im.loc im.units = true) :
    (d.placementDone image correctable).dev.raised = d.raised ∧ (d.placementDone image correctable).safety = [] ∧
      tget (d.placementDone image correctable).dev.images image =
        some { im with placed := false, restoring := false, slices := [] } := by
  unfold Dev.placementDone
  rw [him]
  dsimp -zeta only
  extract_lets r tags e
  rw [if_neg (by simp [hplacing])]
  have hr : r.2 = false := Dev.readRange_bad hbad
  have hlive : r.1.liveJobs = d.liveJobs := by rw [Dev.liveJobs, show r.1.jobs = d.jobs from Dev.readRange_jobs .., Dev.liveJobs]
  have he : e = r.1.eff.abandonImage im := if_neg (by simp [hr])
  obtain ⟨h1, h2, h3⟩ := Eff.abandonImage_leaves (e := r.1.eff) (im := im) (by
    rw [show r.1.eff.dev.liveJobs = d.liveJobs from hlive, hnumber]
    exact hjobs)
  rw [← he] at h1 h2 h3
  obtain ⟨hraised, himages⟩ := stored_of_still
    (Dev.completeTags_still im.part (if r.2 = true then .ok else .tierFailed) tags e.dev)
  exact ⟨hraised.trans (h1.trans (Dev.stored_raised (Dev.readRange_stored ..))), h2, by
    refine (congrArg (tget · image) himages).trans ?_
    rw [← hnumber]
    exact h3⟩

/-! ### Pages -/

theorem Dev.frame_setFrame {d : Dev} {n : Nat} {f : PageFrame} (h : f.ref ≠ 0) : (d.setFrame n f).frame n = f := by
  unfold Dev.setFrame Dev.frame
  rw [if_neg (fun he => h (by rw [he]))]
  exact tgetD_tset_same ..

theorem Dev.moveFrame_frame {d : Dev} {page : Nat} {f : PageFrame → PageFrame} (h : (f (d.frame page)).ref ≠ 0) :
    (d.moveFrame page f).frame page = f (d.frame page) := Dev.frame_setFrame h

theorem Dev.moveFrame_raised (d : Dev) (page : Nat) (f : PageFrame → PageFrame) : (d.moveFrame page f).raised = d.raised := rfl

/-- A page as it stays when its spill fails. -/
def PageFrame.stays (f : PageFrame) : PageFrame := { f with state := .resident }

/-- A page whose units in Stratus are freed again stays resident. -/
theorem Dev.page_stays {x : Dev} {loc n page : Nat} (h : (x.frame page).ref ≠ 0) {e : Eff}
    (he : e = (x.eff.freeUnits loc n).mod (fun y => y.moveFrame page (fun g => { g with state := .resident }))) :
    e.dev.raised = x.raised ∧ e.safety = [] ∧ e.dev.frame page = (x.frame page).stays := by
  subst he
  exact ⟨Dev.moveFrame_raised .., rfl, Dev.moveFrame_frame (d := (x.eff.freeUnits loc n).dev) h⟩

/-- A spill that fails, or finds a read-only tier, leaves its page resident. -/
theorem Dev.spillDone_stays {d : Dev} {page loc : Nat} {ok : Bool} (h : d.spillLoc page = some loc) (href : (d.frame page).ref ≠ 0)
    (hfail : ok = false ∨ d.stratus.state = 2) : (d.spillDone page ok).dev.raised = d.raised ∧ (d.spillDone page ok).safety = [] ∧
      (d.spillDone page ok).dev.frame page = (d.frame page).stays := by
  unfold Dev.spillDone
  rw [h]
  dsimp -zeta only
  extract_lets f n h' d1 e
  have hstop : (ok && d.stratus.state != 2) = false := by
    obtain h | h := hfail <;> simp [h]
  rw [if_neg (by simp [hstop]), if_neg href]
  have he : e = (d1.eff.freeUnits loc n).mod (fun x => x.moveFrame page (fun g => { g with state := .resident })) :=
    if_neg (by simp [hstop])
  have hstored : d1.stored = d.stored := (rfl : d1.stored = h'.2.stored).trans (Dev.writeSuspended_stored d)
  have hframe : d1.frame page = d.frame page := Dev.stored_frame hstored page
  obtain ⟨hr, hs, hf⟩ := Dev.page_stays (by rw [hframe]; exact href) he
  exact ⟨hr.trans (Dev.stored_raised hstored), hs, hf.trans (congrArg PageFrame.stays hframe)⟩

theorem Dev.writeSuspended_free {d : Dev} (h : d.boundedReads = false) : d.writeSuspended = (false, d) := by
  unfold Dev.writeSuspended
  rw [if_pos (by simp [h])]

/-- A spill moves the lines of its page to Stratus and frees them. -/
theorem Dev.spillDone_moves {d : Dev} {page loc : Nat} (h : d.spillLoc page = some loc) (href : (d.frame page).ref ≠ 0)
    (hstate : d.stratus.state ≠ 2) (hreads : d.boundedReads = false) :
    ∃ e, d.spillDone page true = ⟨e, [.copy (stackAddr (d.frame page).stack (d.frame page).loc) (Space.stratus.addr (loc * 4096))
        ((d.frame page).lines * 128), .clear (stackAddr (d.frame page).stack (d.frame page).loc) ((d.frame page).lines * 128),
        .own (stackLine (d.frame page).stack (d.frame page).loc) (d.frame page).lines false 0,
        .clearPoison (stackAddr (d.frame page).stack (d.frame page).loc) ((d.frame page).lines * 128)], []⟩ ∧
      e.raised = d.raised ∧ e.frame page = { d.frame page with
        state := .spilled, loc := loc, stack := (d.bufferStack page).getD (d.frame page).stack } := by
  unfold Dev.spillDone
  rw [h, Dev.writeSuspended_free hreads]
  dsimp -zeta only
  extract_lets f n h' d1 e
  rw [if_neg (by simp [h']), if_neg href]
  have hstored : (d1.wroteUnits n).stored = d.stored := Dev.wroteUnits_stored ..
  have hframe : (d1.wroteUnits n).frame page = d.frame page := Dev.stored_frame hstored page
  have he : e = _ := if_pos (by simp [hstate])
  rw [he]
  generalize d1.wroteUnits n = w at hstored hframe
  refine ⟨_, rfl, show w.raised = d.raised from Dev.stored_raised hstored, (Dev.moveFrame_frame (d := w.giveStack f.stack f.loc) ?_).trans ?_⟩
  · exact fun h0 => href ((congrArg PageFrame.ref hframe).symm.trans h0)
  · exact congrArg (fun g : PageFrame => { g with
      state := .spilled, loc := loc, stack := (d.bufferStack page).getD g.stack }) hframe

/-! ### Streams -/

theorem Dev.setObj_stored (d : Dev) (n : Nat) (o : StateObj) : (d.setObj n o).stored = d.stored := rfl

theorem Eff.ops_stored (e : Eff) (l : List MemOp) : (e.ops l).stored = e.stored := rfl

theorem Eff.setObj_stored (e : Eff) (n : Nat) (o : StateObj) : (e.mod (fun y => y.setObj n o)).stored = e.stored :=
  Eff.mod_stored (Dev.setObj_stored ..)

theorem Eff.keptObj_stored (e : Eff) (x : Nat × Nat) : (e.keptObj x).stored = e.stored := by
  unfold Eff.keptObj
  extract_lets o e1
  split
  · rfl
  · split
    · exact (Eff.setObj_stored ..).trans ((Eff.freeLines_stored ..).trans (Eff.freeUnits_stored ..))
    · exact (Eff.setObj_stored ..).trans (Eff.freeUnits_stored ..)

theorem Eff.evictedObj_stored (e : Eff) (x : Nat × Nat) : (e.evictedObj x).stored = e.stored := by
  unfold Eff.evictedObj
  extract_lets o e1
  have h1 : e1.stored = e.stored :=
    (Eff.freeLines_stored ..).trans ((Eff.ops_stored ..).trans (Eff.mod_stored (Dev.wroteUnits_stored ..)))
  split
  · rfl
  · split
    · exact (Eff.setObj_stored ..).trans ((Eff.freeUnits_stored ..).trans h1)
    · exact (Eff.setObj_stored ..).trans h1

theorem Dev.endEvict_stream {d : Dev} {n : Nat} {x : StreamEntry} (loc : Loc) (h : d.stream? n = some x) (hx : x.loc = .evicting) :
    (d.endEvict n loc).stream? n = some { x with loc := loc } ∧ (d.endEvict n loc).raised = d.raised := by
  unfold Dev.endEvict
  rw [h]
  dsimp only
  rw [if_pos hx]
  exact ⟨Dev.stream?_setStream .., rfl⟩

/-- An eviction that fails, or finds a read-only tier, leaves its stream resident. -/
theorem Dev.evictDone_stays {d : Dev} {n k : Nat} {ok : Bool} {locs : List (Nat × Nat)} {x : StreamEntry}
    (h : d.evictOf n = some (locs, k)) (hx : d.stream? n = some x) (hloc : x.loc = .evicting)
    (hfail : ok = false ∨ d.stratus.state = 2) : (d.evictDone n ok).dev.raised = d.raised ∧ (d.evictDone n ok).safety = [] ∧
      (d.evictDone n ok).dev.stream? n = some { x with loc := .resident } := by
  unfold Dev.evictDone
  rw [h]
  dsimp -zeta only
  extract_lets h'
  rw [if_pos (by obtain h | h := hfail <;> simp [h])]
  unfold Eff.stopEvict
  have hkeep : (locs.foldl Eff.keptObj (d.eff.mod (fun d => d.dropTransfer (.evict n locs k)))).stored = d.eff.stored :=
    (foldl_keep Eff.stored Eff.keptObj_stored locs _).trans rfl
  generalize locs.foldl Eff.keptObj (d.eff.mod (fun d => d.dropTransfer (.evict n locs k))) = e at hkeep
  have hdev : e.dev.stored = d.stored := (congrArg Prod.fst hkeep :)
  obtain ⟨hs, hr⟩ := Dev.endEvict_stream .resident ((Dev.stored_stream hdev n).trans hx) hloc
  exact ⟨hr.trans (Dev.stored_raised hdev), (congrArg Prod.snd hkeep :), hs⟩

/-- An eviction that completes leaves its stream evicted, when no chunk waits for it. -/
theorem Dev.evictDone_evicts {d : Dev} {n k : Nat} {locs : List (Nat × Nat)} {x : StreamEntry}
    (h : d.evictOf n = some (locs, k)) (hx : d.stream? n = some x) (hloc : x.loc = .evicting) (hstate : d.stratus.state ≠ 2)
    (hreads : d.boundedReads = false) (hspare : d.stratus.spareHeld = false) (hchunk : d.chunkWaits x = false) :
    (d.evictDone n true).dev.raised = d.raised ∧ (d.evictDone n true).safety = [] ∧
      (d.evictDone n true).dev.stream? n = some { x with loc := .evicted } := by
  unfold Dev.evictDone
  rw [h, Dev.writeWaits_free _ hreads hspare]
  dsimp -zeta only
  extract_lets h' d' e
  rw [if_neg (by simp [hstate]), if_neg (by simp [h'])]
  have hkeep : (locs.foldl Eff.evictedObj (d.dropTransfer (.evict n locs k)).eff).stored = d.eff.stored :=
    (foldl_keep Eff.stored Eff.evictedObj_stored locs _).trans rfl
  have hend : e.dev.raised = d.raised ∧ e.safety = [] ∧ e.dev.stream? n = some { x with loc := .evicted } := by
    unfold e
    generalize locs.foldl Eff.evictedObj (d'.dropTransfer (.evict n locs k)).eff = a at hkeep
    have hdev : a.dev.stored = d.stored := (congrArg Prod.fst hkeep :)
    obtain ⟨hs, hr⟩ := Dev.endEvict_stream .evicted ((Dev.stored_stream hdev n).trans hx) hloc
    exact ⟨hr.trans (Dev.stored_raised hdev), (congrArg Prod.snd hkeep :), hs⟩
  have hwait : d'.chunkWaits { x with loc := .evicted } = false := hchunk
  rw [if_neg (by rw [hend.2.2]; simp [hwait])]
  exact hend

theorem Dev.transfers_stored (d : Dev) (l : List Transfer) : ({ d with transfers := l } : Dev).stored = d.stored := rfl

theorem Eff.stopRecall_stored (e : Eff) (n : Nat) : (e.stopRecall n).stored = e.stored := by
  unfold Eff.stopRecall
  refine foldl_keep Eff.stored (fun acc t => ?_) _ e
  split
  · rfl
  · dsimp only
    split
    · rfl
    · rename_i addrs _
      have ha : (addrs.foldl (fun b x => b.freeLines x.2.1 x.2.2 (b.dev.obj x.1).lines) acc).stored = acc.stored :=
        foldl_keep Eff.stored (fun _ _ => Eff.freeLines_stored ..) addrs acc
      refine Eq.trans (Eff.mod_stored ?_) ha
      exact (Dev.transfers_stored ..).trans (foldl_keep Dev.stored (fun _ _ => Dev.setObj_stored ..) _ _)
  · rfl

/-- One object recalled: its bytes copied to its lines, its units freed. -/
theorem recalled_stored (m : Mem) (l : List (Nat × Nat × Nat)) (e : Eff) :
    (l.foldl (fun acc x =>
        let o := acc.dev.obj x.1
        ((acc.ops (.copy (Space.stratus.addr (o.addr * 4096)) (stackAddr x.2.1 x.2.2) (o.lines * 128) ::
          m.poisonBack o x.2.1 x.2.2)).freeUnits o.addr
          (lineUnits o.lines)).mod
            (fun y => y.setObj x.1 { o with loc := .resident, stack := x.2.1, addr := x.2.2 })) e).stored = e.stored :=
  foldl_keep Eff.stored
    (fun _ _ => (Eff.setObj_stored ..).trans ((Eff.freeUnits_stored ..).trans (Eff.ops_stored ..))) l e

theorem Dev.recallDone_none {d : Dev} {m : Mem} {n : Nat} {correctable : Bool} (h : d.recallTo n = none ∨ d.stream? n = none) :
    d.recallDone m n correctable = d.eff := by
  unfold Dev.recallDone
  obtain h | h := h
  · rw [h]
  · rw [h]
    cases d.recallTo n <;> rfl

/-- A recall makes its stream resident. -/
theorem Dev.recallDone_recalls {d : Dev} {m : Mem} {n : Nat} {l : List (Nat × Nat × Nat)} {x : StreamEntry}
    (h : d.recallTo n = some l) (hx : d.stream? n = some x)
    (hgood : ∀ o ∈ l, d.badRange (d.obj o.1).addr (lineUnits (d.obj o.1).lines) = false) :
    (d.recallDone m n true).dev.raised = d.raised ∧ (d.recallDone m n true).safety = [] ∧
      (d.recallDone m n true).dev.stream? n = some { x with loc := .resident } := by
  unfold Dev.recallDone
  rw [h, hx]
  dsimp -zeta only
  extract_lets bad d1 d2 e
  have hbad : bad = false := List.any_eq_false.mpr fun o ho => by simp [hgood o ho]
  rw [if_neg (by simp [hbad])]
  have hkeep : e.stored = d.eff.stored := (recalled_stored m l _).trans rfl
  exact ⟨show e.dev.raised = d.raised from Dev.stored_raised (congrArg Prod.fst hkeep :), (congrArg Prod.snd hkeep :),
    Dev.stream?_setStream ..⟩

/-- A recall that cannot read its object leaves its stream evicted, when a reset is its next step. -/
theorem Dev.recallDone_fails {d : Dev} {m : Mem} {n : Nat} {correctable : Bool} {l : List (Nat × Nat × Nat)} {x : StreamEntry}
    (h : d.recallTo n = some l) (hx : d.stream? n = some x) (hreset : d.resetNext x = true)
    (hbad : correctable = false ∨ ∃ o ∈ l, d.badRange (d.obj o.1).addr (lineUnits (d.obj o.1).lines) = true) :
    (d.recallDone m n correctable).dev.raised = d.raised ∧ (d.recallDone m n correctable).safety = [] ∧
      (d.recallDone m n correctable).dev.stream? n = some { x with loc := .evicted } := by
  unfold Dev.recallDone
  rw [h, hx]
  dsimp -zeta only
  extract_lets bad d1 d2 e
  have hfail : (!correctable || bad) = true := by
    obtain h | ⟨o, ho, hb⟩ := hbad
    · simp [h]
    · have : bad = true := List.any_eq_true.mpr ⟨o, ho, hb⟩
      simp [this]
  rw [if_pos hfail]
  have h1 : d1.stored = d.stored := by
    unfold d1
    split
    · split
      · rfl
      · exact Dev.markBad_stored ..
    · rfl
  have hkeep : (d1.eff.stopRecall n).stored = d1.eff.stored := Eff.stopRecall_stored ..
  rw [hreset]
  exact ⟨show (d1.eff.stopRecall n).dev.raised = d.raised from
      (Dev.stored_raised (congrArg Prod.fst hkeep :)).trans (Dev.stored_raised h1), (congrArg Prod.snd hkeep :),
    Dev.stream?_setStream ..⟩

/-! ### Transfers (O54) -/

theorem exec_spillComplete {s : State} {page : Nat} {ok b : Bool} {met : List LineError}
    (h : (ok && !(s.meet met).mem.rangePoisoned (stackAddr ((s.meet met).dev.frame page).stack ((s.meet met).dev.frame page).loc)
      (((s.meet met).dev.frame page).lines * 128)) = b) :
    exec (.spillComplete page ok met) s = .next ((s.meet met).apply ((s.meet met).dev.spillDone page b)) :=
  congrArg (fun b => (s.meet met).done ((s.meet met).dev.spillDone page b)) h

/-- The objects that an eviction writes are those of its transfer. -/
theorem evictable {u : State} {n k : Nat} {locs : List (Nat × Nat)} (h : u.dev.evictOf n = some (locs, k))
    (hclean : ∀ l ∈ locs,
      u.mem.rangePoisoned (stackAddr (u.dev.obj l.1).stack (u.dev.obj l.1).addr) ((u.dev.obj l.1).lines * 128) = false) :
    ((((u.dev.evictOf n).map (fun x => x.1.map Prod.fst)).getD []).map u.dev.obj).any
      (fun o => u.mem.rangePoisoned (stackAddr o.stack o.addr) (o.lines * 128)) = false := by
  rw [h]
  refine List.any_eq_false.mpr fun o ho => ?_
  simp only [Option.map_some, Option.getD_some, List.map_map, List.mem_map] at ho
  obtain ⟨l, hl, rfl⟩ := ho
  simpa using hclean l hl

theorem exec_evictionComplete {s : State} {n : Nat} {ok b : Bool} {met : List LineError}
    (h : (ok && !((((((s.meet met).dev.evictOf n).map (fun x => x.1.map Prod.fst)).getD []).map (s.meet met).dev.obj).any
      (fun o => (s.meet met).mem.rangePoisoned (stackAddr o.stack o.addr) (o.lines * 128)))) = b) :
    exec (.evictionComplete n ok met) s = .next ((s.meet met).apply ((s.meet met).dev.evictDone n b)) :=
  congrArg (fun b => (s.meet met).done ((s.meet met).dev.evictDone n b)) h

theorem Dev.spillDone_none {d : Dev} {page : Nat} {ok : Bool} (h : d.spillLoc page = none) : d.spillDone page ok = d.eff := by
  unfold Dev.spillDone
  rw [h]

theorem Dev.evictDone_none {d : Dev} {n : Nat} {ok : Bool} (h : d.evictOf n = none) : d.evictDone n ok = d.eff := by
  unfold Dev.evictDone
  rw [h]

/-- The clauses of O54 about placements. -/
theorem placements_complete {s : State} (hs : s.dev.raised = []) (image : Nat) :
    (s.dev.placing image = false → CompletesTo (.placementComplete image) s s.dev) ∧
    (∀ im, tget s.dev.images image = some im → im.number = image → s.dev.placing image = true →
      s.dev.badRange im.loc im.units = false →
      ∃ t, exec (.placementComplete image) s = .next t ∧ t.safety = s.safety ∧ t.pending = s.pending ∧
        t.mem = ((im.entries.zip im.slices).flatMap (fun x => x.2.flatMap (im.copyOps x.1))).foldl MemOp.run s.mem ∧
        tget t.dev.images image = some { im with placed := true }) ∧
    (∀ im, tget s.dev.images image = some im → im.number = image → s.dev.placing image = true →
      (∀ j ∈ s.dev.liveJobs, j.imageNo ≠ image) →
      (s.dev.badRange im.loc im.units = true →
        ∃ t, exec (.placementComplete image) s = .next t ∧ t.safety = s.safety ∧ t.pending = s.pending ∧
          tget t.dev.images image = some { im with placed := false, restoring := false, slices := [] }) ∧
      (s.dev.stratus.mounted = true →
        ∃ u : State, exec (.stratusReadComplete (.restore image) false) s = .next u.pump ∧ u.safety = s.safety ∧
          u.pending = s.pending ∧
          tget u.dev.images image = some { im with placed := false, restoring := false, slices := [] })) := by
  refine ⟨fun h => completes_done rfl (Dev.placementDone_none true h) hs, fun im him hnumber hplacing hgood => ?_,
    fun im him hnumber hplacing hjobs => ⟨fun hbad => ?_, fun hmounted => ?_⟩⟩
  · obtain ⟨e, he, hr, hi⟩ := Dev.placementDone_places him hnumber hplacing hgood
    have hexec : exec (.placementComplete image) s = .next (s.apply (s.dev.placementDone image true)) := rfl
    rw [he] at hexec
    obtain ⟨hmem, hsafety, hpending, honly⟩ := becomes_with s ⟨e, _, []⟩ (hr.trans hs) rfl
    refine ⟨_, hexec, hsafety, hpending, hmem, ?_⟩
    rw [Dev.stored_images (stored_of_notices honly)]
    exact hi
  · obtain ⟨hr, hsafe, hi⟩ := Dev.placementDone_fails (correctable := true) him hnumber hplacing hjobs (.inr hbad)
    obtain ⟨hsafety, hpending, hstored⟩ := stored_after (s := s) (hr.trans hs) hsafe
    exact ⟨_, rfl, hsafety, hpending, by rw [Dev.stored_images hstored]; exact hi⟩
  · obtain ⟨hr, hsafe, hi⟩ := Dev.placementDone_fails (correctable := false) him hnumber hplacing hjobs (.inl rfl)
    obtain ⟨hsafety, hpending, hstored⟩ := stored_after (s := s) (hr.trans hs) hsafe
    refine ⟨s.apply (s.dev.placementDone image false), ?_, hsafety, hpending, by rw [Dev.stored_images hstored]; exact hi⟩
    have hread : s.stratusRead (.restore image) false = s.dev.placementDone image false := by
      unfold State.stratusRead
      dsimp only
      rw [if_neg (by simp [hmounted]), if_pos (by simp [hplacing])]
    exact congrArg (fun e => Host.Outcome.next (s.apply e).pump) hread

/-- Settles O54: placements, spills, evictions and recalls, each with its failing forms. -/
theorem transfersComplete : Obligations.TransfersComplete := by
  unfold Obligations.TransfersComplete
  intro s hs
  refine ⟨placements_complete hs, fun page ok met u hu => ?_, fun n ok met u hu => ?_, fun n correctable => ?_⟩
  · subst hu
    have hraised := State.meet_raised met s hs
    refine ⟨fun hnone => ?_, fun loc f hloc hf href => ?_⟩
    · refine (exec_spillComplete rfl).trans ?_
      rw [Dev.spillDone_none hnone]
    · subst hf
      refine ⟨fun hfail => ?_, fun hok hstate hreads hclean => ?_⟩
      · obtain ⟨hr, hsafe, hframe⟩ := Dev.spillDone_stays hloc href
          (hfail.imp_left fun h => (by rw [h]; rfl : (ok && !(s.meet met).mem.rangePoisoned _ _) = false))
        obtain ⟨hsafety, -, hstored⟩ := stored_after (s := s.meet met) (hr.trans hraised) hsafe
        exact ⟨_, exec_spillComplete rfl, hsafety, (Dev.stored_frame hstored page).trans hframe⟩
      · obtain ⟨e, he, hr, hframe⟩ := Dev.spillDone_moves hloc href hstate hreads
        have hexec := exec_spillComplete (s := s) (page := page) (ok := ok) (b := true) (met := met) (by rw [hok, hclean]; rfl)
        rw [he] at hexec
        obtain ⟨hmem, hsafety, -, honly⟩ := becomes_with (s.meet met) ⟨e, _, []⟩ (hr.trans hraised) rfl
        exact ⟨_, hexec, hsafety, hmem, (Dev.stored_frame (stored_of_notices honly) page).trans hframe⟩
  · subst hu
    have hraised := State.meet_raised met s hs
    refine ⟨fun hnone => ?_, fun locs k x hloc hx hevicting => ⟨fun hfail => ?_, fun hok hstate hreads hspare hchunk hclean => ?_⟩⟩
    · refine (exec_evictionComplete rfl).trans ?_
      rw [Dev.evictDone_none hnone]
    · obtain ⟨hr, hsafe, hstream⟩ := Dev.evictDone_stays hloc hx hevicting
        (hfail.imp_left fun h => (by rw [h]; rfl : (ok && !List.any ((((s.meet met).dev.evictOf n).map (fun x =>
          x.1.map Prod.fst)).getD [] |>.map (s.meet met).dev.obj) (fun o =>
            (s.meet met).mem.rangePoisoned (stackAddr o.stack o.addr) (o.lines * 128))) = false))
      obtain ⟨hsafety, -, hstored⟩ := stored_after (s := s.meet met) (hr.trans hraised) hsafe
      exact ⟨_, exec_evictionComplete rfl, hsafety, (Dev.stored_stream hstored n).trans hstream⟩
    · obtain ⟨hr, hsafe, hstream⟩ := Dev.evictDone_evicts hloc hx hevicting hstate hreads hspare hchunk
      obtain ⟨hsafety, -, hstored⟩ := stored_after (s := s.meet met) (hr.trans hraised) hsafe
      exact ⟨_, exec_evictionComplete (by rw [hok, evictable hloc hclean]; rfl), hsafety,
        (Dev.stored_stream hstored n).trans hstream⟩
  · refine ⟨fun h => completes_done rfl (Dev.recallDone_none h) hs, fun l x hl hx hok hgood => ?_, fun l x hl hx hreset hbad => ?_⟩
    · subst hok
      obtain ⟨hr, hsafe, hstream⟩ := Dev.recallDone_recalls (m := s.mem) hl hx hgood
      obtain ⟨hsafety, -, hstored⟩ := stored_after (s := s) (hr.trans hs) hsafe
      exact ⟨_, rfl, hsafety, (Dev.stored_stream hstored n).trans hstream⟩
    · obtain ⟨hr, hsafe, hstream⟩ := Dev.recallDone_fails (m := s.mem) hl hx hreset hbad
      obtain ⟨hsafety, -, hstored⟩ := stored_after (s := s) (hr.trans hs) hsafe
      exact ⟨_, rfl, hsafety, (Dev.stored_stream hstored n).trans hstream⟩

end Sys2Proof.Machine
end

section
/-!
Upkeep of the flash tier: collection, refreshes, wear levelling, retirement, dies, checkpoint and mount (O55).
-/

namespace Sys2Proof.Machine

open Sys2Proof.Safety

/-! ### The least and the greatest of a list -/

theorem argMin_none {α : Type} {key : α → Nat} {l : List α} (h : argMin key l = none) : l = [] := by
  cases l with
  | nil => rfl
  | cons a l =>
    unfold argMin at h
    split at h
    · cases h
    · split at h <;> cases h

theorem argMin_spec {α : Type} {key : α → Nat} {l : List α} {b : α} (h : argMin key l = some b) :
    b ∈ l ∧ ∀ x ∈ l, key b ≤ key x := by
  induction l generalizing b with
  | nil => cases h
  | cons a l ih =>
    unfold argMin at h
    split at h
    · rename_i hnone
      cases h
      rw [argMin_none hnone]
      exact ⟨List.mem_cons_self, fun x hx => Nat.le_of_eq (congrArg key (List.mem_singleton.mp hx).symm)⟩
    · rename_i c hc
      obtain ⟨hmem, hle⟩ := ih hc
      split at h
      · rename_i hlt
        cases h
        exact ⟨List.mem_cons_of_mem _ hmem, List.forall_mem_cons.mpr ⟨Nat.le_of_lt hlt, hle⟩⟩
      · rename_i hge
        cases h
        exact ⟨List.mem_cons_self, List.forall_mem_cons.mpr ⟨Nat.le_refl _, fun x hx => Nat.le_trans (Nat.not_lt.mp hge) (hle x hx)⟩⟩

theorem argMax_none {α : Type} {key : α → Nat} {l : List α} (h : argMax key l = none) : l = [] := by
  cases l with
  | nil => rfl
  | cons a l =>
    unfold argMax at h
    split at h
    · cases h
    · split at h <;> cases h

theorem argMax_spec {α : Type} {key : α → Nat} {l : List α} {b : α} (h : argMax key l = some b) :
    b ∈ l ∧ ∀ x ∈ l, key x ≤ key b := by
  induction l generalizing b with
  | nil => cases h
  | cons a l ih =>
    unfold argMax at h
    split at h
    · rename_i hnone
      cases h
      rw [argMax_none hnone]
      exact ⟨List.mem_cons_self, fun x hx => Nat.le_of_eq (congrArg key (List.mem_singleton.mp hx))⟩
    · rename_i c hc
      obtain ⟨hmem, hle⟩ := ih hc
      split at h
      · rename_i hlt
        cases h
        exact ⟨List.mem_cons_of_mem _ hmem, List.forall_mem_cons.mpr ⟨Nat.le_of_lt hlt, hle⟩⟩
      · rename_i hge
        cases h
        exact ⟨List.mem_cons_self, List.forall_mem_cons.mpr ⟨Nat.le_refl _, fun x hx => Nat.le_trans (hle x hx) (Nat.not_lt.mp hge)⟩⟩

/-! ### Dies and blocks -/

/-- The causes raised, and the dies, the blocks and the retired blocks of the tier. -/
def Dev.tier (d : Dev) : List (Nat × Nat) × List (Nat × Die) × List (Nat × Block) × Nat :=
  (d.raised, d.stratus.dies, d.stratus.blocks, d.stratus.retired)

theorem Dev.tier_raised {a b : Dev} (h : b.tier = a.tier) : b.raised = a.raised := (congrArg Prod.fst h :)

theorem Dev.tier_die {a b : Dev} (h : b.tier = a.tier) (n : Nat) : b.die n = a.die n := by
  have hdies : b.stratus.dies = a.stratus.dies := (congrArg (·.2.1) h :)
  rw [Dev.die, hdies, Dev.die]

theorem Dev.tier_block {a b : Dev} (h : b.tier = a.tier) (n m : Nat) : b.block n m = a.block n m := by
  have hblocks : b.stratus.blocks = a.stratus.blocks := (congrArg (·.2.2.1) h :)
  rw [Dev.block, hblocks, Dev.block]

theorem Dev.tier_retired {a b : Dev} (h : b.tier = a.tier) : b.stratus.retired = a.stratus.retired := (congrArg (·.2.2.2) h :)

theorem tier_of_notices {a b : Dev} (h : NoticesOnly a b) : b.tier = a.tier := (congrArg Dev.tier h.shell :)

theorem Dev.lifeMarks_tier (d : Dev) : d.lifeMarks.tier = d.tier := by
  unfold Dev.lifeMarks
  extract_lets life mark
  split
  · exact Eq.trans (tier_of_notices (Dev.notify_only _ _ _ _)) rfl
  · rfl

theorem Dev.modJob_tier (d : Dev) (n : Nat) (f : Job → Job) : (d.modJob n f).tier = d.tier := by
  obtain ⟨l, h⟩ := d.modJob_eq n f
  rw [h]
  rfl

theorem Dev.spareMarks_tier (d : Dev) : d.spareMarks.tier = d.tier := by
  unfold Dev.spareMarks Dev.countSpare
  split
  · split
    · refine (foldl_keep Dev.tier (fun d x => ?_) _ _).trans rfl
      split
      · exact Dev.modJob_tier ..
      · rfl
    · rfl
  · split <;> rfl

theorem Dev.modBlock_same (d : Dev) (n b : Nat) (f : Block → Block) : (d.modBlock n b f).block n b = f (d.block n b) :=
  tgetD_tset_same ..

theorem Dev.modBlock_block (d : Dev) (n a b : Nat) (f : Block → Block) :
    (d.modBlock n a f).block n b = if b = a then f (d.block n b) else d.block n b := by
  show tgetD (tset d.stratus.blocks (n * 2048 + a) _) (n * 2048 + b) {} = _
  rw [tgetD_tset]
  by_cases h : b = a
  · rw [if_pos (by rw [h]), if_pos h, h]
    rfl
  · rw [if_neg (fun he => h (by omega)), if_neg h]
    rfl

theorem Dev.modDie_same (d : Dev) (n : Nat) (f : Die → Die) : (d.modDie n f).die n = f (d.die n) := tgetD_tset_same ..

theorem Dev.pick_lt (d : Dev) {n : Nat} (h : 0 < n) : (d.pick n).1 < n := by
  rw [Dev.pick, Nat.max_eq_left h]
  exact Nat.mod_lt _ h

/-- A die that no read of bounded time waits for carries out its program or erase. -/
theorem Dev.unlessSuspended_runs {d : Dev} (n : Nat) (f : Dev → Dev) (h : d.boundedReads = false) :
    ∃ e, d.unlessSuspended n f = f e ∧ e.raised = d.raised ∧ (∀ m b, e.block m b = d.block m b) ∧
      e.stratus.retired = d.stratus.retired := by
  unfold Dev.unlessSuspended
  extract_lets d1
  have hd1 : ((d1.die n).suspended = false) ∧ d1.raised = d.raised ∧ (∀ m b, d1.block m b = d.block m b) ∧
      d1.stratus.retired = d.stratus.retired := by
    unfold d1 Dev.settleDie
    extract_lets b o
    have hb : b = (0, d) := if_neg (by simp [h])
    have ho : o.2.tier = d.tier := by
      unfold o
      rw [hb]
      split <;> rfl
    refine ⟨?_, show o.2.raised = d.raised from Dev.tier_raised ho, fun m k => Dev.tier_block ho m k,
      show o.2.stratus.retired = d.stratus.retired from Dev.tier_retired ho⟩
    rw [Dev.modDie_same, hb]
    rfl
  rw [if_neg (by simp [hd1.1])]
  exact ⟨d1, rfl, hd1.2⟩

theorem Dev.mem_usedBlocks {d : Dev} {n b : Nat} : b ∈ d.usedBlocks n ↔ b < 2048 ∧ (d.block n b).retired = false := by
  unfold Dev.usedBlocks Dev.block
  simp

/-- A block emptied is erased once more, and keeps being retired or not. -/
theorem Dev.moveBlock_erases (d : Dev) (n b : Nat) : (d.moveBlock n b).raised = d.raised ∧
    ((d.moveBlock n b).block n b).erases = (d.block n b).erases + 1 ∧ ((d.moveBlock n b).block n b).reads = 0 ∧
    ((d.moveBlock n b).block n b).retired = (d.block n b).retired := by
  unfold Dev.moveBlock
  extract_lets v d1 a
  have h1 : d1.block n b = (d.block n b).erased := Dev.modBlock_same ..
  split
  · rw [h1]
    exact ⟨rfl, rfl, rfl, rfl⟩
  · have ha : a.2.block n b = (d.block n b).erased := h1
    rw [Dev.modBlock_block, ha]
    refine ⟨rfl, ?_⟩
    split
    · split <;> exact ⟨rfl, rfl, rfl⟩
    · exact ⟨rfl, rfl, rfl⟩

theorem Dev.pick_tier (d : Dev) (n : Nat) : (d.pick n).2.tier = d.tier := rfl

theorem Dev.modBlock_raised (d : Dev) (n b : Nat) (f : Block → Block) : (d.modBlock n b f).raised = d.raised := rfl

theorem Dev.modDie_raised (d : Dev) (n : Nat) (f : Die → Die) : (d.modDie n f).raised = d.raised := rfl

theorem Dev.modDie_block (d : Dev) (n m b : Nat) (f : Die → Die) : (d.modDie n f).block m b = d.block m b := rfl

/-- A collection erases the programmed block with the fewest valid units and ends with the mark reached. -/
theorem Dev.collect_collects {d : Dev} {n : Nat} (hup : (d.die n).fenced = false) (hlow : (d.die n).freeErased < 10)
    (hreads : d.boundedReads = false) : (d.collect n).raised = d.raised ∧ 10 ≤ ((d.collect n).die n).freeErased ∧
      ((d.collect n).die n).freeErased ≤ 100 ∧ ∃ b < 2048, ((d.collect n).block n b).erases = (d.block n b).erases + 1 ∧
        ((d.collect n).block n b).reads = 0 ∧ ((d.collect n).block n b).retired = (d.block n b).retired ∧
        ∀ x < 2048, (d.block n x).programmed = true → (d.block n x).retired = false →
          (d.block n b).programmed = true ∧ (d.block n b).valid ≤ (d.block n x).valid := by
  have hmark : (!d.dieUp n || decide (collectMark ≤ (d.die n).freeErased)) = false := by
    rw [Dev.dieUp, hup, decide_eq_false (show ¬ collectMark ≤ _ from Nat.not_le.mpr hlow)]
    decide
  unfold Dev.collect
  rw [if_neg (by rw [hmark]; exact Bool.false_ne_true)]
  obtain ⟨e, he, hraised, hblock, -⟩ := d.unlessSuspended_runs n _ hreads
  rw [he]
  extract_lets a b
  have ha : a.1 < 2048 ∧ a.2.raised = e.raised ∧ (∀ k, a.2.block n k = e.block n k) ∧
      ∀ x < 2048, (e.block n x).programmed = true → (e.block n x).retired = false →
        (e.block n a.1).programmed = true ∧ (e.block n a.1).valid ≤ (e.block n x).valid := by
    unfold a
    split
    · rename_i b hb
      obtain ⟨hmem, hle⟩ := argMin_spec hb
      obtain ⟨hused, hprog⟩ := List.mem_filter.mp hmem
      exact ⟨(Dev.mem_usedBlocks.mp hused).1, rfl, fun _ => rfl, fun x hx hp hr =>
        ⟨hprog, hle x (List.mem_filter.mpr ⟨Dev.mem_usedBlocks.mpr ⟨hx, hr⟩, hp⟩)⟩⟩
    · rename_i hnone
      refine ⟨Dev.pick_lt _ (by decide), rfl, fun _ => rfl, fun x hx hp hr => ?_⟩
      exact absurd (List.mem_filter.mpr ⟨Dev.mem_usedBlocks.mpr ⟨hx, hr⟩, hp⟩) (by rw [argMin_none hnone]; exact List.not_mem_nil)
  obtain ⟨hlt, har, hab, hmin⟩ := ha
  have hpick : b.2.tier = (a.2.moveBlock n a.1).tier := Dev.pick_tier ..
  have hb : b.1 < 91 := Dev.pick_lt _ (by decide)
  obtain ⟨hmr, he1, hr1, ht1⟩ := a.2.moveBlock_erases n a.1
  have hblocks := Dev.tier_block hpick n a.1
  have hb2 := (Dev.tier_raised hpick).trans hmr
  clear_value b
  have htier : ((b.2.modDie n (fun x => { x with freeErased := collectMark + b.1 })).lifeMarks.spareMarks).tier =
      (b.2.modDie n (fun x => { x with freeErased := collectMark + b.1 })).tier :=
    (Dev.spareMarks_tier _).trans (Dev.lifeMarks_tier _)
  have hfree : ((b.2.modDie n (fun x => { x with freeErased := collectMark + b.1 })).die n).freeErased = 10 + b.1 := by
    rw [Dev.modDie_same]
    rfl
  rw [Dev.tier_die htier, hfree, Dev.tier_raised htier, Dev.modDie_raised]
  refine ⟨hb2.trans (har.trans hraised), by omega, by omega, a.1, hlt, ?_⟩
  rw [Dev.tier_block htier, Dev.modDie_block, hblocks]
  simp only [hblock] at hmin
  rw [hab, hblock] at he1 ht1
  exact ⟨he1, hr1, ht1, hmin⟩

theorem Dev.collect_rests {d : Dev} {n : Nat} (h : (d.die n).fenced = true ∨ 10 ≤ (d.die n).freeErased) : d.collect n = d := by
  unfold Dev.collect
  rw [if_pos (by obtain h | h := h <;> simp [Dev.dieUp, collectMark, h])]

theorem Dev.refreshBlock_rests {d : Dev} {n b : Nat} (h : (d.die n).fenced = true ∨ (d.block n b).retired = true) :
    d.refreshBlock n b = d := by
  unfold Dev.refreshBlock
  rw [if_pos (by obtain h | h := h <;> simp [Dev.dieUp, h])]

/-- A refreshed block is erased once more. -/
theorem Dev.refreshBlock_erases {d : Dev} {n b : Nat} (hup : (d.die n).fenced = false) (hused : (d.block n b).retired = false)
    (hreads : d.boundedReads = false) : (d.refreshBlock n b).raised = d.raised ∧
      ((d.refreshBlock n b).block n b).erases = (d.block n b).erases + 1 ∧ ((d.refreshBlock n b).block n b).reads = 0 ∧
      ((d.refreshBlock n b).block n b).retired = false := by
  unfold Dev.refreshBlock
  rw [if_neg (by simp [Dev.dieUp, hup, hused])]
  obtain ⟨e, he, hraised, hblock, -⟩ := d.unlessSuspended_runs n _ hreads
  rw [he]
  have htier : (e.moveBlock n b).lifeMarks.tier = (e.moveBlock n b).tier := Dev.lifeMarks_tier _
  obtain ⟨hr, h1, h2, h3⟩ := e.moveBlock_erases n b
  rw [Dev.tier_raised htier, Dev.tier_block htier, hr, h1, h2, h3, hblock, hused]
  exact ⟨hraised, rfl, rfl, rfl⟩

theorem Dev.readDisturb_rests {d : Dev} {n b : Nat} (h : (d.block n b).reads < 50000) : d.readDisturb n b = d := by
  exact if_pos h

theorem Dev.readDisturb_refreshes {d : Dev} {n b : Nat} (h : 50000 ≤ (d.block n b).reads) :
    d.readDisturb n b = d.refreshBlock n b := by
  exact if_neg (Nat.not_lt.mpr h)

theorem Dev.levelWear_rests {d : Dev} {n : Nat} (h : (d.die n).fenced = true) : d.levelWear n = d := by
  unfold Dev.levelWear
  extract_lets mine
  split
  · rw [if_neg (by simp [Dev.dieUp, h])]
  · rfl

/-- Where two blocks in use are more than 200 erases apart, the least worn one is emptied and erased. -/
theorem Dev.levelWear_levels {d : Dev} {n a c : Nat} (ha : a < 2048) (hc : c < 2048) (hau : (d.block n a).retired = false)
    (hcu : (d.block n c).retired = false) (hfar : (d.block n a).erases + 200 < (d.block n c).erases)
    (hup : (d.die n).fenced = false) (hreads : d.boundedReads = false) : (d.levelWear n).raised = d.raised ∧
      ∃ b < 2048, (d.block n b).retired = false ∧
        (∀ x < 2048, (d.block n x).retired = false → (d.block n b).erases ≤ (d.block n x).erases) ∧
        (d.levelWear n).block n b = (d.block n b).erased := by
  have hma : a ∈ d.usedBlocks n := Dev.mem_usedBlocks.mpr ⟨ha, hau⟩
  have hmc : c ∈ d.usedBlocks n := Dev.mem_usedBlocks.mpr ⟨hc, hcu⟩
  unfold Dev.levelWear
  extract_lets mine
  replace hma : a ∈ mine := hma
  split
  · rename_i lo hi hlo hhi
    obtain ⟨hlomem, hlole⟩ := argMin_spec hlo
    obtain ⟨hlolt, hlou⟩ := Dev.mem_usedBlocks.mp hlomem
    have hspread : d.blockErases n lo + 200 < d.blockErases n hi := by
      have h1 : d.blockErases n lo ≤ (d.block n a).erases := hlole a hma
      have h2 : (d.block n c).erases ≤ d.blockErases n hi := (argMax_spec hhi).2 c hmc
      omega
    rw [if_pos (by simp [Dev.dieUp, hup, hspread])]
    obtain ⟨e, he, hraised, hblock, -⟩ := d.unlessSuspended_runs n _ hreads
    rw [he]
    extract_lets v d1
    have h1 : d1.raised = e.raised ∧ d1.block n lo = e.block n lo := by
      unfold d1
      split
      · rename_i w hw
        have hother : lo ≠ w := fun heq => by
          have := (List.mem_filter.mp (argMax_spec hw).1).2
          simp [heq] at this
        exact ⟨rfl, by rw [Dev.modBlock_block, if_neg hother]⟩
      · exact ⟨rfl, rfl⟩
    have htier : (d1.modBlock n lo Block.erased).lifeMarks.tier = (d1.modBlock n lo Block.erased).tier := Dev.lifeMarks_tier _
    rw [Dev.tier_raised htier, Dev.modBlock_raised]
    refine ⟨h1.1.trans hraised, lo, hlolt, hlou, fun x hx hxu => hlole x (Dev.mem_usedBlocks.mpr ⟨hx, hxu⟩), ?_⟩
    rw [Dev.tier_block htier, Dev.modBlock_same, h1.2, hblock]
  · rename_i hnone
    cases hlo : argMin (d.blockErases n) mine with
    | none => exact absurd hma (by rw [argMin_none hlo]; exact List.not_mem_nil)
    | some lo =>
      cases hhi : argMax (d.blockErases n) mine with
      | none => exact absurd hma (by rw [argMax_none hhi]; exact List.not_mem_nil)
      | some hi => exact (hnone lo hi hlo hhi).elim

theorem Dev.retireBlock_rests {d : Dev} {n b : Nat} (h : (d.die n).fenced = true ∨ (d.block n b).retired = true) :
    d.retireBlock n b = d := by
  unfold Dev.retireBlock
  rw [if_pos (by obtain h | h := h <;> simp [Dev.dieUp, h])]

/-- A block that is used no more. -/
def Block.gone (b : Block) : Block := { b with retired := true, programmed := false, valid := 0 }

/-- What the retirement of a block does to a die that its reads do not hold up. -/
def Dev.retireNow (d : Dev) (n b : Nat) : Dev :=
  let v := (d.block n b).valid
  let a := (d.modBlock n b Block.gone).pick 2048
  let d1 := a.2.modBlock n a.1 (fun x => if x.retired || v = 0 then x else { x with programmed := true, valid := x.valid + v })
  { d1 with stratus := { d1.stratus with retired := d1.stratus.retired + 1 } }

theorem Dev.retireNow_retires (d : Dev) (n b : Nat) : (d.retireNow n b).raised = d.raised ∧
    (d.retireNow n b).block n b = (d.block n b).gone ∧ (d.retireNow n b).stratus.retired = d.stratus.retired + 1 := by
  unfold Dev.retireNow
  extract_lets v a d1
  have h0 : a.2.block n b = (d.block n b).gone := Dev.modBlock_same ..
  have h1 : d1.block n b = (d.block n b).gone := by
    rw [Dev.modBlock_block, h0]
    split
    · exact if_pos rfl
    · rfl
  exact ⟨rfl, h1, rfl⟩

/-- A bad block is used no more, and counted. -/
theorem Dev.retireBlock_retires {d : Dev} {n b : Nat} (hup : (d.die n).fenced = false) (hused : (d.block n b).retired = false)
    (hreads : d.boundedReads = false) : (d.retireBlock n b).raised = d.raised ∧
      (d.retireBlock n b).block n b = (d.block n b).gone ∧ (d.retireBlock n b).stratus.retired = d.stratus.retired + 1 := by
  obtain ⟨e, he, hraised, hblock, hretired⟩ := d.unlessSuspended_runs n (fun e => e.retireNow n b) hreads
  have heq : d.retireBlock n b = d.unlessSuspended n (fun e => e.retireNow n b) := by
    unfold Dev.retireBlock Dev.retireNow Block.gone
    exact if_neg (by simp [Dev.dieUp, hup, hused])
  obtain ⟨hr, hb, hcount⟩ := e.retireNow_retires n b
  rw [heq, he, hr, hb, hcount, hblock, hretired]
  exact ⟨hraised, rfl, rfl⟩

/-! ### A die that fails -/

/-- The causes raised and the dies of a device. -/
def Dev.dies (d : Dev) : List (Nat × Nat) × List (Nat × Die) := (d.raised, d.stratus.dies)

/-- The same of an effect, with what it asks of the safety controller. -/
def Eff.dies (e : Eff) : (List (Nat × Nat) × List (Nat × Die)) × List SafetyOp := (e.dev.dies, e.safety)

theorem Dev.dies_die {a b : Dev} (h : b.dies = a.dies) (n : Nat) : b.die n = a.die n := by
  have hdies : b.stratus.dies = a.stratus.dies := (congrArg Prod.snd h :)
  rw [Dev.die, hdies, Dev.die]

theorem Eff.mod_dies {e : Eff} {f : Dev → Dev} (h : (f e.dev).dies = e.dev.dies) : (e.mod f).dies = e.dies :=
  congrArg (fun x => (x, e.safety)) h

theorem Eff.freeUnits_dies (e : Eff) (loc n : Nat) : (e.freeUnits loc n).dies = e.dies := rfl

theorem Eff.freeLines_dies (e : Eff) (k la n : Nat) : (e.freeLines k la n).dies = e.dies := rfl

theorem Dev.setFrame_dies (d : Dev) (n : Nat) (f : PageFrame) : (d.setFrame n f).dies = d.dies := rfl

theorem Dev.moveFrame_dies (d : Dev) (n : Nat) (f : PageFrame → PageFrame) : (d.moveFrame n f).dies = d.dies := rfl

theorem Dev.setObj_dies (d : Dev) (n : Nat) (o : StateObj) : (d.setObj n o).dies = d.dies := rfl

theorem Dev.dropTransfer_dies (d : Dev) (t : Transfer) : (d.dropTransfer t).dies = d.dies := rfl

theorem Dev.endEvict_dies (d : Dev) (n : Nat) (loc : Loc) : (d.endEvict n loc).dies = d.dies := by
  unfold Dev.endEvict
  split
  · split <;> rfl
  · rfl

theorem Eff.freePage_dies (e : Eff) (n : Nat) : (e.freePage n).dies = e.dies := by
  unfold Eff.freePage
  extract_lets f
  split
  · exact (Eff.mod_dies (Dev.setFrame_dies ..)).trans (Eff.freeLines_dies ..)
  · exact (Eff.mod_dies (Dev.setFrame_dies ..)).trans (Eff.freeUnits_dies ..)
  · exact Eff.mod_dies (Dev.setFrame_dies ..)
  · exact Eff.mod_dies (Dev.setFrame_dies ..)
  · rfl

theorem Eff.keptObj_dies (e : Eff) (x : Nat × Nat) : (e.keptObj x).dies = e.dies := by
  unfold Eff.keptObj
  extract_lets o e1
  split
  · rfl
  · split
    · exact (Eff.mod_dies (Dev.setObj_dies ..)).trans ((Eff.freeLines_dies ..).trans (Eff.freeUnits_dies ..))
    · exact (Eff.mod_dies (Dev.setObj_dies ..)).trans (Eff.freeUnits_dies ..)

theorem Eff.stopEvict_dies (e : Eff) (n : Nat) (locs : List (Nat × Nat)) (k : Nat) : (e.stopEvict n locs k).dies = e.dies :=
  (Eff.mod_dies (Dev.endEvict_dies ..)).trans ((foldl_keep Eff.dies Eff.keptObj_dies locs _).trans
    (Eff.mod_dies (Dev.dropTransfer_dies ..)))

theorem Eff.stopSpills_dies (e : Eff) : e.stopSpills.dies = e.dies := by
  unfold Eff.stopSpills
  refine foldl_keep Eff.dies (fun acc t => ?_) _ e
  split
  · rename_i page loc
    extract_lets f a
    have ha : a.dies = acc.dies := (Eff.mod_dies (Dev.moveFrame_dies ..)).trans
      ((Eff.freeUnits_dies ..).trans (Eff.mod_dies (Dev.dropTransfer_dies ..)))
    split
    · exact (Eff.freePage_dies ..).trans ha
    · exact ha
  · exact Eff.stopEvict_dies ..
  · rfl

theorem Dev.spareMarks_dies (d : Dev) : d.spareMarks.dies = d.dies :=
  congrArg (fun x => (x.1, x.2.1)) d.spareMarks_tier

theorem Dev.loseStripe_dies (d : Dev) : d.loseStripe.dies = d.dies := rfl

theorem Dev.dieFails_rests {d : Dev} {n : Nat} (h : (d.die n).fenced = true) : d.dieFails n = d.eff := by
  unfold Dev.dieFails
  rw [if_pos (by simp [Dev.dieUp, h])]

/-- A die that fails is fenced until its rebuild. -/
theorem Dev.dieFails_fences {d : Dev} {n : Nat} (h : (d.die n).fenced = false) : (d.dieFails n).dev.raised = d.raised ∧
    (d.dieFails n).safety = [] ∧ (d.dieFails n).dev.die n = { d.die n with fenced := true, rebuilding := true } := by
  unfold Dev.dieFails
  rw [if_neg (by simp [Dev.dieUp, h])]
  extract_lets d0 d1 _
  have h0 : d0.dies = d.dies := by
    unfold d0
    split
    · exact Dev.loseStripe_dies d
    · rfl
  have hdie0 : d0.die n = d.die n := Dev.dies_die h0 n
  have hdie1 : d1.die n = { d0.die n with fenced := true, rebuilding := true } :=
    (Dev.modDie_same d0 n (fun x => { x with fenced := true, rebuilding := true }) :)
  have hr1 : d1.raised = d0.raised := rfl
  have hlast : ((if d1.stratus.state = 2 then d1.eff.stopSpills else d1.eff).mod Dev.spareMarks).dies = d1.eff.dies := by
    refine (Eff.mod_dies (Dev.spareMarks_dies _)).trans ?_
    split
    · exact Eff.stopSpills_dies _
    · rfl
  generalize (if d1.stratus.state = 2 then d1.eff.stopSpills else d1.eff).mod Dev.spareMarks = e at hlast
  have hdies : e.dev.dies = d1.dies := (congrArg Prod.fst hlast :)
  refine ⟨(congrArg Prod.fst hdies :).trans (hr1.trans (congrArg Prod.fst h0 :)), (congrArg Prod.snd hlast :), ?_⟩
  rw [Dev.dies_die hdies, hdie1, hdie0]

/-! ### Upkeep (O55) -/

/-- A command whose effect is a device that raises nothing more answers it. -/
theorem upkeep_after {c : Instr} {s : State} {d : Dev} (hc : exec c s = s.done d.eff) (h : d.raised = []) :
    ∃ t, exec c s = .next t ∧ t.mem = s.mem ∧ t.safety = s.safety ∧ t.dev.stratus = d.stratus := by
  obtain ⟨t, ht, hmem, hsafety, -, honly⟩ := completes_done hc rfl h
  exact ⟨t, ht, hmem, hsafety, honly.settled.stratus⟩

theorem Dev.die_of {a b : Dev} (h : b.stratus = a.stratus) (n : Nat) : b.die n = a.die n := by
  rw [Dev.die, h, Dev.die]

theorem Dev.block_of {a b : Dev} (h : b.stratus = a.stratus) (n m : Nat) : b.block n m = a.block n m := by
  rw [Dev.block, h, Dev.block]

theorem Dev.checkpoint_rests {d : Dev} (h : d.stratus.mounted = false) : d.checkpoint = d := by
  unfold Dev.checkpoint
  rw [if_pos (by simp [h])]

theorem Dev.checkpoint_makes {d : Dev} {x : Tns} (h : d.stratus.mounted = true)
    (hx : x = max d.now ((d.stratus.checkpoint.map (· + 10000000000)).getD d.now)) :
    d.checkpoint = { d with now := x, stratus := { d.stratus with checkpoint := some x } } := by
  unfold Dev.checkpoint
  rw [if_neg (by simp [h]), hx]
  rfl

theorem Dev.dieRebuilt_rests {d : Dev} {n : Nat} (h : (d.die n).rebuilding = false) : d.dieRebuilt n = d := by
  unfold Dev.dieRebuilt
  rw [if_neg (by simp [h])]

theorem Dev.dieRebuilt_ends {d : Dev} {n : Nat} (h : (d.die n).rebuilding = true) :
    d.dieRebuilt n = d.modDie n (fun x => { x with rebuilding := false }) := by
  unfold Dev.dieRebuilt
  rw [if_pos h]

theorem stratusMount_rests {s : State} {verifies : Bool} (h : s.dev.stratus.mounted = true ∨ s.dev.start.powered = false) :
    exec (.stratusMount verifies) s = s.done s.dev.eff :=
  congrArg (fun d : Dev => s.done d.eff) (if_pos (by obtain h | h := h <;> simp [h]))

theorem stratusMount_mounts {s : State} {verifies : Bool} (h : s.dev.stratus.mounted = false) (hp : s.dev.start.powered = true) :
    exec (.stratusMount verifies) s = s.done (s.dev.mount (s.dev.start.kind == 0 || !verifies)).eff :=
  congrArg (fun d : Dev => s.done d.eff) (if_neg (by simp [h, hp]))

theorem Dev.mount_eq (d : Dev) (k : Nat) (verifies : Bool) : d.mount (k == 0 || !verifies) = { d with
    now := d.now + (if k = 0 ∨ verifies = false then 18000000000 else 400000000)
    stratus := { d.stratus with mounted := true, checkpoint := some d.now } } := by
  unfold Dev.mount
  by_cases h : k = 0 ∨ verifies = false
  · rw [if_pos h, if_pos (by simpa using h)]
  · rw [if_neg h, if_neg (by simpa using h)]

/-- Settles O55: each kind of upkeep when it is due, and when it is not. -/
theorem tierUpkeepCompletes : Obligations.TierUpkeepCompletes := by
  unfold Obligations.TierUpkeepCompletes
  intro s n die old now hs hdie hold hnow
  subst hdie hold
  refine ⟨fun h => ?_, fun hup hlow hreads => ?_, fun b c hc => ⟨fun h => ?_, fun hup hused hreads hdue => ?_⟩, fun b h => ?_,
    fun h => ?_, fun a c ha hc hau hcu hfar hup hreads => ?_, fun b => ⟨fun h => ?_, fun hup hused hreads => ?_⟩, fun h => ?_,
    fun h => ?_, fun h => ?_, fun h => ?_, fun h => ?_, fun x hm hx => ?_, fun verifies => ⟨fun h => ?_, fun hm hp => ?_⟩⟩
  · exact completes_done rfl (congrArg Dev.eff (Dev.collect_rests h)) hs
  · obtain ⟨hr, h10, h100, b, hb, he, hreads, hret, hmin⟩ := Dev.collect_collects hup hlow hreads
    obtain ⟨t, ht, hmem, hsafety, hst⟩ := upkeep_after (c := .garbageCollection n) rfl (hr.trans hs)
    rw [← Dev.die_of hst] at h10 h100
    rw [← Dev.block_of hst, ← hnow] at he hreads hret
    exact ⟨t, ht, hmem, hsafety, h10, h100, b, hb, he, hreads, hret, hmin⟩
  · simp only [List.mem_cons, List.not_mem_nil, or_false] at hc
    obtain rfl | rfl := hc
    · refine completes_done rfl (congrArg Dev.eff (?_ : s.dev.readDisturb n b = s.dev)) hs
      by_cases hfew : (s.dev.block n b).reads < 50000
      · exact Dev.readDisturb_rests hfew
      · exact (Dev.readDisturb_refreshes (Nat.not_lt.mp hfew)).trans (Dev.refreshBlock_rests h)
    · exact completes_done rfl (congrArg Dev.eff (Dev.refreshBlock_rests h)) hs
  · obtain ⟨hr, he, hzero, hret⟩ := Dev.refreshBlock_erases hup hused hreads
    have hexec : exec c s = s.done (s.dev.refreshBlock n b).eff := by
      simp only [List.mem_cons, List.not_mem_nil, or_false] at hc
      obtain rfl | rfl := hc
      · have hmany : 50000 ≤ (s.dev.block n b).reads := hdue.resolve_left (by intro h; cases h)
        exact congrArg (fun d : Dev => s.done d.eff) (Dev.readDisturb_refreshes hmany)
      · rfl
    obtain ⟨t, ht, hmem, hsafety, hst⟩ := upkeep_after hexec (hr.trans hs)
    rw [← Dev.block_of hst, ← hnow] at he hzero hret
    exact ⟨t, ht, hmem, hsafety, he, hzero, hret⟩
  · exact completes_done rfl (congrArg Dev.eff (Dev.readDisturb_rests h)) hs
  · exact completes_done rfl (congrArg Dev.eff (Dev.levelWear_rests h)) hs
  · obtain ⟨hr, b, hb, hused, hmin, hblock⟩ := Dev.levelWear_levels ha hc hau hcu hfar hup hreads
    obtain ⟨t, ht, hmem, hsafety, hst⟩ := upkeep_after (c := .staticWearLevelling n) rfl (hr.trans hs)
    rw [← Dev.block_of hst, ← hnow] at hblock
    exact ⟨t, b, ht, hmem, hsafety, hb, hused, hmin, hblock⟩
  · exact completes_done rfl (congrArg Dev.eff (Dev.retireBlock_rests h)) hs
  · obtain ⟨hr, hblock, hcount⟩ := Dev.retireBlock_retires hup hused hreads
    obtain ⟨t, ht, hmem, hsafety, hst⟩ := upkeep_after (c := .badBlockRetirement n b) rfl (hr.trans hs)
    rw [← Dev.block_of hst, ← hnow] at hblock
    exact ⟨t, ht, hmem, hsafety, hblock, (congrArg Stratus.retired hst).trans hcount⟩
  · exact completes_done rfl (Dev.dieFails_rests h) hs
  · obtain ⟨hr, hsafe, hd⟩ := Dev.dieFails_fences h
    obtain ⟨-, hsafety, -, honly⟩ := becomes_with s (s.dev.dieFails n) (hr.trans hs) hsafe
    exact ⟨_, rfl, hsafety, (Dev.die_of honly.settled.stratus n).trans hd⟩
  · exact completes_done rfl (congrArg Dev.eff (Dev.dieRebuilt_rests h)) hs
  · exact completes_done rfl (congrArg Dev.eff (Dev.dieRebuilt_ends h)) hs
  · exact completes_done rfl (congrArg Dev.eff (Dev.checkpoint_rests h)) hs
  · exact completes_done rfl (congrArg Dev.eff (Dev.checkpoint_makes hm hx)) hs
  · exact completes_done (stratusMount_rests h) rfl hs
  · exact completes_done (stratusMount_mounts hm hp) (congrArg Dev.eff (Dev.mount_eq ..)) hs

end Sys2Proof.Machine
end

section
/-!
Reads and writes of Stratus that complete (O56).
-/

namespace Sys2Proof.Machine

open Sys2Proof.Safety

/-! ### Reads -/

theorem State.stratusRead_unmounted {s : State} {x : StratusRead} {b : Bool} (h : s.dev.stratus.mounted = false) :
    s.stratusRead x b = s.dev.eff := by
  unfold State.stratusRead
  exact if_pos (by simp [h])

theorem State.stratusRead_patterns {s : State} {r : Fin 6} {b : Bool} (h : s.dev.stratus.mounted = true) :
    s.stratusRead (.patterns r) b = (s.dev.patternsRead r b).eff := by
  unfold State.stratusRead
  exact if_neg (by simp [h])

theorem State.stratusRead_state {s : State} {p : Fin 16} {tag : Nat} {b : Bool} (h : s.dev.stratus.mounted = true) :
    s.stratusRead (.restoreState p tag) b = (s.dev.savedRead p tag b).eff := by
  unfold State.stratusRead
  exact if_neg (by simp [h])

/-- A read for a job that is live no longer changes nothing. -/
theorem Dev.roundRead_dead {d : Dev} {job : Nat} {ranges : Job → Round → List TierRead} {b : Bool} (h : d.liveJob job = none) :
    d.roundRead job ranges b = d := by
  unfold Dev.roundRead
  rw [h]
  rfl

theorem State.stratusRead_dead {s : State} {job : Nat} (layer : Nat) {b : Bool} (h : s.dev.liveJob job = none) :
    s.stratusRead (.kvRecall job layer) b = s.dev.eff ∧ s.stratusRead (.weightStream job) b = s.dev.eff := by
  unfold State.stratusRead
  dsimp only
  rw [Dev.roundRead_dead h, Dev.roundRead_dead h]
  exact ⟨ite_self _, ite_self _⟩

/-- A read whose effect is a device that raises nothing becomes it, and what waited for the read goes on. -/
theorem stratusRead_becomes {s : State} {x : StratusRead} {b : Bool} {d : Dev} (h : s.stratusRead x b = d.eff) (hr : d.raised = []) :
    ∃ u : State, exec (.stratusReadComplete x b) s = .next u.pump ∧ Becomes s d u := by
  refine ⟨s.apply (s.stratusRead x b), rfl, ?_⟩
  rw [h]
  exact becomes_apply s d.eff hr rfl rfl

/-- The patterns of a region's first test are loaded. -/
theorem Dev.patternsRead_loads {d : Dev} {r : Nat} {t : TestReq} {rest : List TestReq} (ht : (d.region r).tests = t :: rest)
    (hrun : t.running = false) (hload : t.loaded = false) : (d.patternsRead r true).raised = d.raised ∧
      ((d.patternsRead r true).region r).tests = { t with loaded := true } :: rest := by
  unfold Dev.patternsRead
  rw [ht]
  dsimp only
  rw [if_neg (by simp [hrun, hload]), if_pos rfl]
  exact ⟨rfl, congrArg Region.tests (tgetD_tset_same ..)⟩

/-- The read of a saved state lets its RESTORE go on. -/
theorem Dev.savedRead_restores {d : Dev} {p tag : Nat} {w : Wait} {o : Object} (hw : d.wait? p tag = some w)
    (hwhat : w.what = .restoring false) (ho : d.object? p w.pkt.arg1 = some o)
    (hgood : d.badRange o.base (ceilDiv o.total 4096) = false) :
    d.savedRead p tag true = d.readUnits.modPart p (fun x => { x with waits := x.waits.map (fun y =>
      if y.pkt.tag = tag then { y with what := .restoring true } else y) }) := by
  unfold Dev.savedRead
  rw [hw]
  dsimp only
  rw [hwhat]
  dsimp only
  rw [ho]
  dsimp only
  rw [Dev.readRange_good hgood]
  exact if_neg (by simp)

/-! ### Writes -/

theorem Dev.writeDurable_none {d : Dev} {p tag : Nat} (h : d.wait? p tag = none ∨ d.stratus.mounted = false) :
    d.writeDurable p tag = d.eff := by
  unfold Dev.writeDurable
  split
  · rfl
  · rename_i w hw
    rw [if_pos]
    obtain h | h := h
    · rw [h] at hw
      cases hw
    · simp [h]

/-- A write that nothing holds up is that of an image or of an object. -/
theorem Dev.writeDurable_runs {d : Dev} {p tag : Nat} {w : Wait} (hw : d.wait? p tag = some w) (hwhat : w.what = .durable)
    (hmounted : d.stratus.mounted = true) (hreads : d.boundedReads = false) (hspare : d.stratus.spareHeld = false) :
    d.writeDurable p tag = if w.pkt.opcode = 1 then d.imageDurable p w.pkt else (d.objectDurable p w.pkt).eff := by
  unfold Dev.writeDurable
  rw [hw]
  dsimp only
  rw [if_neg (by simp [hwhat, hmounted]), Dev.writeWaits_free p hreads hspare]
  exact if_neg (by simp)

/-- A partition but for notices and watermark slots after a write. -/
theorem Dev.lifeMarks_part (d : Dev) (p : Nat) : (d.lifeMarks.part p).shell = (d.part p).shell := by
  unfold Dev.lifeMarks
  extract_lets life mark
  split
  · exact (Dev.notify_only _ _ _ _).part p
  · rfl

theorem Dev.modJob_part (d : Dev) (n : Nat) (f : Job → Job) (p : Nat) : (d.modJob n f).part p = d.part p := by
  obtain ⟨l, h⟩ := d.modJob_eq n f
  rw [h]
  rfl

theorem Dev.spareMarks_part (d : Dev) (p : Nat) : d.spareMarks.part p = d.part p := by
  unfold Dev.spareMarks Dev.countSpare
  split
  · split
    · refine (foldl_keep (fun d : Dev => d.part p) (fun d x => ?_) _ _).trans rfl
      split
      · exact Dev.modJob_part ..
      · rfl
    · rfl
  · split <;> rfl

theorem Dev.wroteUnits_part (d : Dev) (n p : Nat) : ((d.wroteUnits n).part p).shell = (d.part p).shell :=
  (congrArg Part.shell (Dev.spareMarks_part _ p)).trans (Dev.lifeMarks_part _ p)

/-- What the answer to a waiting command leaves of its partition's staged writes and waits. -/
theorem answered_waits {d : Dev} {p : Nat} {k : Packet} {c : Code} {info : Nat} {payload : Bytes} {x : Part} {u : Dev}
    (hu : NoticesOnly (d.answered p k c info payload) u) (hd : (d.part p).shell = x.shell) :
    (u.part p).storeWrites = x.storeWrites ∧ (u.part p).waits = x.waits.filter (fun w => w.pkt.tag != k.tag) := by
  have hshell : (u.part p).shell = ((d.part p).answer k (d.answers p k c info payload)).shell :=
    (hu.part p).trans (congrArg Part.shell (Dev.part_setPart_same ..))
  exact ⟨(congrArg Part.storeWrites hshell :).trans (congrArg Part.storeWrites hd :),
    (congrArg Part.waits hshell :).trans (congrArg (fun z : Part => z.waits.filter (fun w => w.pkt.tag != k.tag)) hd :)⟩

/-- The partition `x` with the staged write of a tag readable at home. -/
def Part.homed (x : Part) (tag : Nat) : Part :=
  { x with storeWrites := x.storeWrites.map (fun w => if w.tag = tag && !w.atHome then { w with atHome := true } else w) }

/-- A write to an object that is durable at home makes its bytes readable and answers. -/
theorem objectDurable_homes {c : Instr} {s : State} {p : Nat} {k : Packet} (hc : exec c s = s.done (s.dev.objectDurable p k).eff)
    (hstate : s.dev.stratus.state ≠ 2) (hr : s.dev.raised = []) :
    ∃ t, exec c s = .next t ∧ t.mem = s.mem ∧ t.safety = s.safety ∧
      (t.dev.part p).storeWrites = (s.dev.part p).storeWrites.map (fun x =>
        if x.tag = k.tag && !x.atHome then { x with atHome := true } else x) ∧
      (t.dev.part p).waits = (s.dev.part p).waits.filter (fun x => x.pkt.tag != k.tag) := by
  unfold Dev.objectDurable at hc
  rw [if_neg hstate] at hc
  have hwrote := s.dev.wroteUnits_part (ceilDiv k.payload.length 4096) p
  obtain ⟨t, ht, hmem, hsafety, -, honly⟩ := completes_ok hc ((Dev.wroteUnits_raised ..).trans hr)
  have hhomed : (((s.dev.wroteUnits (ceilDiv k.payload.length 4096)).part p).homed k.tag).shell =
      ((s.dev.part p).homed k.tag).shell := (congrArg (fun z : Part => z.homed k.tag) hwrote :)
  exact ⟨t, ht, hmem, hsafety, answered_waits honly ((congrArg Part.shell (Dev.part_modPart_same ..)).trans hhomed)⟩

/-- A durable chunk of an image stands at its place in Stratus. -/
theorem imageDurable_places {c : Instr} {s : State} {p : Nat} {k : Packet} {im : Image}
    (hc : exec c s = s.done (s.dev.imageDurable p k)) (hstate : s.dev.stratus.state ≠ 2) (him : s.dev.imageOf k.arg1 = some im)
    (hr : s.dev.raised = []) :
    ∃ t, exec c s = .next t ∧ t.safety = s.safety ∧
      t.mem = s.mem.writeBytes (Space.stratus.addr (im.loc * 4096 + field k.arg0 63 8))
        (k.payload.take (im.dataBytes - field k.arg0 63 8)) ∧
      (t.dev.part p).waits = (s.dev.part p).waits.filter (fun x => x.pkt.tag != k.tag) := by
  unfold Dev.imageDurable at hc
  rw [him] at hc
  dsimp only at hc
  rw [if_neg hstate, Dev.complete_eq _ _ _ _ _ _ (fun _ => rfl)] at hc
  have hwrote := s.dev.wroteUnits_part (ceilDiv (k.payload.take (im.dataBytes - field k.arg0 63 8)).length 4096) p
  obtain ⟨t, ht, hmem, hsafety, -, honly⟩ := completes_mem hc rfl ((Dev.wroteUnits_raised ..).trans hr)
  exact ⟨t, ht, hsafety, hmem, (answered_waits honly hwrote).2⟩

/-- Settles O56, clause by clause: reads of Stratus and writes to it. -/
theorem flashReadsAndWritesComplete : Obligations.FlashReadsAndWritesComplete := by
  unfold Obligations.FlashReadsAndWritesComplete
  intro s hs
  refine ⟨fun x b hunmounted => stratusRead_becomes (State.stratusRead_unmounted hunmounted) hs,
    fun hmounted => ⟨fun r t rest ht hrun hload => ?_, fun p tag w o hw hwhat ho hgood => ?_, fun job layer b hdead => ?_⟩,
    fun p tag => ⟨fun h => completes_done rfl (Dev.writeDurable_none h) hs,
      fun w hw hwhat hmounted hreads hspare hposted => ?_⟩⟩
  · obtain ⟨hraised, htests⟩ := Dev.patternsRead_loads ht hrun hload
    obtain ⟨u, hu, hmem, hsafety, hpending, honly⟩ :=
      stratusRead_becomes (State.stratusRead_patterns hmounted) (hraised.trans hs)
    exact ⟨u, hu, hmem, hsafety, hpending, (congrArg (fun l => (tgetD l r ({} : Region)).tests) honly.regions :).trans htests⟩
  · obtain ⟨u, hu, hmem, hsafety, hpending, honly⟩ :=
      stratusRead_becomes ((State.stratusRead_state hmounted).trans (congrArg Dev.eff (Dev.savedRead_restores hw hwhat ho hgood))) hs
    refine ⟨u, hu, hmem, hsafety, hpending, (congrArg Part.waits (honly.part p) :).trans ?_⟩
    exact congrArg Part.waits (Dev.part_modPart_same ..)
  · obtain ⟨hrecall, hstream⟩ := State.stratusRead_dead layer (b := b) hdead
    exact ⟨stratusRead_becomes hrecall hs, stratusRead_becomes hstream hs⟩
  · have hrun : exec (.stratusWriteDurable p tag) s = s.done (s.dev.writeDurable p tag) := rfl
    rw [Dev.writeDurable_runs hw hwhat hmounted hreads hspare] at hrun
    refine ⟨fun hobject hstate => ?_, fun hobject hstate => ?_, fun im off himage hstate him hoff => ?_⟩
    · rw [if_neg hobject, Dev.objectDurable, if_pos hstate] at hrun
      exact completes_answer hrun (by simp [hposted]) hs
    · rw [if_neg hobject] at hrun
      exact objectDurable_homes hrun hstate hs
    · subst hoff
      rw [if_pos himage] at hrun
      exact imageDurable_places hrun hstate him hs

end Sys2Proof.Machine
end

section
/-!
Readings of the ageing monitors and re-plans (O59).
-/

namespace Sys2Proof.Machine

open Sys2Proof.Safety

/-! ### Triggers -/

/-- The trigger of a re-plan by the state of the one before (R489). -/
theorem Dev.replanTrigger_if (d : Dev) : d.replanTrigger =
    if d.ageing.state = 0 then { d with ageing := { d.ageing with state := 1 } }
    else if d.ageing.state = 1 then d else { d with ageing := { d.ageing with again := true } } := by
  unfold Dev.replanTrigger
  split
  · rename_i h
    exact (if_pos h).symm
  · rename_i h
    rw [if_neg (by simp [h]), if_pos h]
  · rename_i h0 h1
    rw [if_neg h0, if_neg h1]

theorem Dev.replanTrigger_state (d : Dev) : d.replanTrigger.ageing.state ≠ 0 := by
  rw [Dev.replanTrigger_if]
  split
  · exact Nat.one_ne_zero
  · split <;> assumption

theorem Dev.replanTrigger_raised (d : Dev) : d.replanTrigger.raised = d.raised := by
  obtain ⟨a, h⟩ := d.replanTrigger_eq
  rw [h]

/-! ### Readings -/

theorem Dev.eyeRead_idle {d : Dev} {n : Nat} {w : List Nat} (h : (d.port n).linkUp = false ∨ w = []) : d.eyeRead n w = d := by
  unfold Dev.eyeRead
  exact if_pos (by simpa using h)

theorem Dev.eyeRead_widths {d : Dev} {n x : Nat} {w : List Nat} (h : (d.port n).linkUp = true) : d.eyeRead n (x :: w) =
    d.modPort n (fun y => { y with
      eye := w.foldl min x
      retune := (List.range (w.length + 1)).filter (fun i => decide ((x :: w).getD i 0 < 200)) }) := by
  unfold Dev.eyeRead
  rw [if_neg (by simp [h])]
  simp only [List.headD_cons, List.foldl_cons, Nat.min_self, List.length_cons]

theorem Dev.setDelay_unit (d : Dev) (u : PatternUnit) (v : Nat) :
    d.setDelay (u, v) = d.modUnit (patternCode u) (fun c => { c with delay := v }) := by
  cases u with
  | cell n => exact (if_pos n.isLt).symm
  | engine k e =>
    have hcode : ¬ patternCode (.engine k e) < 384 := by
      dsimp only [patternCode]
      omega
    have hengine : patternCode (.engine k e) - 384 = k.val * 16 + e.val := by
      dsimp only [patternCode]
      omega
    rw [Dev.modUnit, if_neg hcode, hengine]
    rfl

theorem Dev.worst_eq (d : Dev) : ∃ w u, d.worst = { d with ageing := { d.ageing with worstDelay := w, worstUnit := u } } := by
  unfold Dev.worst
  dsimp only
  split
  · exact ⟨_, _, rfl⟩
  · exact ⟨_, _, rfl⟩

theorem Dev.readDelays_raised (d : Dev) (l : List (PatternUnit × Nat)) : (d.readDelays l).raised = d.raised := by
  unfold Dev.readDelays
  obtain ⟨w, u, h⟩ := (l.foldl Dev.setDelay d).worst_eq
  rw [h]
  refine foldl_raised (fun d x => ?_) l d
  rw [show d.setDelay x = _ from Dev.setDelay_unit d x.1 x.2]
  obtain ⟨cs, es, hu⟩ := d.modUnit_eq (patternCode x.1) (fun c => { c with delay := x.2 })
  rw [hu]

/-- A reading of one unit that leaves the rule in force raises a re-plan. -/
theorem Dev.replicaRead_one (d : Dev) (u : PatternUnit) (v : Nat) :
    (d.replicaRead [(u, v)]).raised = d.raised ∧
    (d.replicaRead [(u, v)]).unitOf (patternCode u) = { d.unitOf (patternCode u) with delay := v } ∧
    (∀ n, u = .cell n → d.cellUp n = true → delayOk v d.ageing.planned = false → (d.replicaRead [(u, v)]).ageing.state ≠ 0) := by
  have hraised := d.readDelays_raised [(u, v)]
  obtain ⟨w, wu, hread⟩ := (d.setDelay (u, v)).worst_eq
  replace hread : d.readDelays [(u, v)] = _ := hread
  rw [Dev.setDelay_unit] at hread
  have hunit : (d.readDelays [(u, v)]).unitOf (patternCode u) = { d.unitOf (patternCode u) with delay := v } := by
    rw [hread]
    exact Dev.modUnit_same ..
  unfold Dev.replicaRead
  dsimp only
  split
  · rename_i hquiet
    refine ⟨hraised, hunit, fun n hn hup hbad => ?_⟩
    subst hn
    obtain ⟨cs, es, hmod⟩ := d.modUnit_eq (patternCode (.cell n)) (fun c => { c with delay := v })
    have hcell : (d.readDelays [(.cell n, v)]).cell n = { d.cell n with delay := v } := by
      simpa [Dev.unitOf, patternCode] using hunit
    have hmem : (n : Nat) ∈ (d.readDelays [(.cell n, v)]).slowCells (d.readDelays [(.cell n, v)]).ageing.planned := by
      refine List.mem_filter.2 ⟨List.mem_filter.2 ⟨List.mem_range.2 n.isLt, ?_⟩, ?_⟩
      · rw [Dev.cellUp, hcell, hread, hmod]
        exact hup
      · rw [hcell, hread, hmod]
        simpa using hbad
    obtain ⟨hslow, -⟩ := Bool.and_eq_true_iff.1 hquiet
    rw [List.isEmpty_iff.1 hslow] at hmem
    cases hmem
  · obtain ⟨a, ha⟩ := (d.readDelays [(u, v)]).replanTrigger_eq
    refine ⟨(Dev.replanTrigger_raised _).trans hraised, ?_, fun _ _ _ _ => Dev.replanTrigger_state _⟩
    rw [ha]
    exact hunit

/-- A fold over the first numbers that sets each one's entry of a table leaves every one of them set. -/
theorem foldl_tset {σ α : Type} {f : σ → Nat → σ} {t : σ → List (Nat × α)} {g : Nat → α → α} {z : α} (x : σ) (m : Nat)
    (h : ∀ x, ∀ r < m, t (f x r) = tset (t x) r (g r (tgetD (t x) r z))) : ∀ n ≤ m, ∀ r,
      tget (t ((List.range n).foldl f x)) r = if r < n then some (g r (tgetD (t x) r z)) else tget (t x) r
  | 0, _, r => (if_neg (Nat.not_lt_zero r)).symm
  | n + 1, hn, r => by
    have ih := foldl_tset x m h n (Nat.le_of_succ_le hn)
    rw [List.range_succ, List.foldl_append, List.foldl_cons, List.foldl_nil, h _ n hn, tget_tset, tgetD, ih n,
      if_neg (Nat.lt_irrefl n), ih r]
    by_cases hr : r = n
    · subst hr
      rw [if_pos rfl, if_pos (Nat.lt_succ_self r), tgetD]
    · rw [if_neg hr]
      by_cases hlt : r < n
      · rw [if_pos hlt, if_pos (Nat.lt_succ_of_lt hlt)]
      · rw [if_neg hlt, if_neg (by omega)]

theorem mem_of_tget {α : Type} {x : Nat} {v : α} : ∀ {t : List (Nat × α)}, tget t x = some v → (x, v) ∈ t
  | (k, w) :: t, h => by
    unfold tget at h
    split at h
    · rename_i hk
      cases h
      subst hk
      exact List.mem_cons_self
    · exact List.mem_cons_of_mem _ (mem_of_tget h)

theorem Dev.setLosses_raised (d : Dev) (l : List Nat) : (d.setLosses l).raised = d.raised := by
  unfold Dev.setLosses
  refine (foldl_raised (fun d k => ?_) _ _).trans (foldl_raised (fun d r => ?_) _ _) <;> split <;> rfl

/-- The losses of six regions and twelve base dies stand at their dies. -/
theorem Dev.setLosses_tables {d : Dev} {l : List Nat} (hl : l.length = 18) :
    (∀ r < 6, tget (d.setLosses l).regions r = some { d.region r with oscLoss := l.getD r 0 }) ∧
    (∀ k < 12, tget (d.setLosses l).stackTab k = some { d.stack k with oscLoss := l.getD (6 + k) 0 }) := by
  unfold Dev.setLosses
  extract_lets d1
  have hregions : ∀ r < 6, tget d1.regions r = some { d.region r with oscLoss := l.getD r 0 } := fun r hr =>
    (foldl_tset (t := Dev.regions) (g := fun r (x : Region) => { x with oscLoss := l.getD r 0 }) (z := {}) d 6
      (fun x r hr => congrArg Dev.regions (if_pos (by omega))) 6 (Nat.le_refl 6) r).trans (if_pos hr)
  have hstacks : d1.stackTab = d.stackTab := foldl_keep Dev.stackTab (fun d r => by split <;> rfl) _ d
  clear_value d1
  refine ⟨fun r hr => ?_, fun k hk => ?_⟩
  · rw [foldl_keep Dev.regions (fun d k => by split <;> rfl) _ d1]
    exact hregions r hr
  · refine (foldl_tset (t := Dev.stackTab) (g := fun k (x : Stack) => { x with oscLoss := l.getD (6 + k) 0 }) (z := {}) d1 12
      (fun x k hk => congrArg Dev.stackTab (if_pos (by omega))) 12 (Nat.le_refl 12) k).trans ((if_pos hk).trans ?_)
    rw [hstacks]
    rfl

/-- The losses that the ring oscillators read; a region 50 above its last re-plan raises one. -/
theorem Dev.oscillatorRead_losses {d : Dev} {l : List Nat} (hl : l.length = 18) : (d.oscillatorRead l).raised = d.raised ∧
    (∀ r < 6, ((d.oscillatorRead l).region r).oscLoss = l.getD r 0) ∧
    (∀ k < 12, ((d.oscillatorRead l).stack k).oscLoss = l.getD (6 + k) 0) ∧
    ((∃ r < 6, (d.region r).oscAtReplan + 50 ≤ l.getD r 0) → (d.oscillatorRead l).ageing.state ≠ 0) := by
  obtain ⟨hregions, hstacks⟩ := Dev.setLosses_tables (d := d) hl
  have hregion : ∀ r < 6, ((d.setLosses l).region r).oscLoss = l.getD r 0 := fun r hr => by
    rw [Dev.region, tgetD, hregions r hr]
    rfl
  have hstack : ∀ k < 12, ((d.setLosses l).stack k).oscLoss = l.getD (6 + k) 0 := fun k hk => by
    rw [Dev.stack, tgetD, hstacks k hk]
    rfl
  obtain ⟨a, ha⟩ := (d.setLosses l).replanTrigger_eq
  unfold Dev.oscillatorRead
  dsimp only
  split
  · refine ⟨(Dev.replanTrigger_raised _).trans (d.setLosses_raised l), ?_, ?_, fun _ => Dev.replanTrigger_state _⟩
    · rw [ha]
      exact hregion
    · rw [ha]
      exact hstack
  · rename_i hquiet
    refine ⟨d.setLosses_raised l, hregion, hstack, fun ⟨r, hr, hrise⟩ => absurd ?_ hquiet⟩
    rw [Bool.or_eq_true]
    exact .inl (List.any_eq_true.2 ⟨_, mem_of_tget (hregions r hr), decide_eq_true hrise⟩)

theorem Dev.retentionRead_rule {d : Dev} (k c ms : Nat) :
    (4 * (d.stack k).refreshOf c ≤ ms →
      d.retentionRead k c ms = d.modStack k (fun x => { x with retention := tset x.retention c ms })) ∧
    (ms < 4 * (d.stack k).refreshOf c →
      d.retentionRead k c ms = (d.modStack k (fun x => { x with retention := tset x.retention c ms })).replanTrigger) := by
  have hok : ((d.modStack k (fun x => { x with retention := tset x.retention c ms })).stack k).retentionOk c =
      decide (4 * (d.stack k).refreshOf c ≤ ms) := by
    rw [Dev.stack, Dev.modStack, tgetD_tset_same, Stack.retentionOk, tget_tset_same]
    rfl
  unfold Dev.retentionRead
  dsimp only
  rw [hok]
  exact ⟨fun h => if_pos (decide_eq_true h), fun h => if_neg (by simpa using h)⟩

/-! ### A decision of a re-plan -/

theorem Dev.guardLoop_raised : ∀ (fuel : Nat) (d : Dev) (u : Nat) (obs : List ReplanObs), (Dev.guardLoop fuel d u obs).1.raised = d.raised
  | 0, _, _, _ => rfl
  | fuel + 1, d, u, obs => by
    unfold Dev.guardLoop
    split
    · rfl
    · split
      · refine (Dev.guardLoop_raised fuel _ u _).trans ((Dev.readDelays_raised _ _).trans ?_)
        split <;> rfl
      · exact Dev.guardLoop_raised fuel d (u + 1) obs

theorem Dev.marginFence_raised (d : Dev) (p : PatternUnit) : (d.marginFence p).raised = d.raised := by
  unfold Dev.marginFence Dev.planRemoval
  split <;> split <;> rfl

theorem Dev.marginReturn_raised (d : Dev) (clock : Nat) (stepped : List Nat) : (d.marginReturn clock stepped).raised = d.raised := by
  unfold Dev.marginReturn
  exact (foldl_raised (fun _ _ => by rfl) _ _).trans (foldl_raised (fun _ _ => by rfl) _ _)

theorem Dev.writePlan_raised (d : Dev) (clock : Nat) : (d.writePlan clock).raised = d.raised := by
  unfold Dev.writePlan
  extract_lets p g q inA
  split <;> rfl

/-- What a decision leaves: the clock as planned, or a new one pending for the boundary 10 ms later (R490). -/
theorem Dev.replanDecide_decides {d : Dev} {steps : List ReplanObs} (h : d.ageing.state = 1) :
    ∃ x, NoticesOnly x (d.replanDecide steps) ∧ x.raised = d.raised ∧ x.ageing.raiseOnce = false ∧ x.ageing.lastAt = x.now ∧
      ((x.ageing.state = 0 ∧ x.ageing.pendingClock = none) ∨
        (x.ageing.state = 2 ∧ ∃ clock k, clock ≠ x.ageing.planned ∧
          x.ageing.pendingClock = some (clock, x.now + 10000000, k))) := by
  unfold Dev.replanDecide
  rw [if_neg (by simp [h])]
  extract_lets before g d1 raise fences clock d2 d3 d4 _ d5 d6 d7 guards change due k _ d8
  have hd1 : d1.raised = d.raised := Dev.guardLoop_raised ..
  clear_value d1
  have hd2 : d2.raised = d1.raised := foldl_raised (fun d n => Dev.marginFence_raised ..) _ _
  clear_value d2
  have hd3 : d3.raised = d2.raised := foldl_raised (fun d n => Dev.marginFence_raised ..) _ _
  clear_value d3
  have hd4 : d4.raised = d3.raised := Dev.marginReturn_raised ..
  clear_value d4
  have hd7 : d7.raised = d4.raised := Dev.writePlan_raised d6 clock
  have hraised : d7.raised = d.raised := hd7.trans (hd4.trans (hd3.trans (hd2.trans hd1)))
  clear_value d7
  refine ⟨d8, ?_, hraised, rfl, rfl, ?_⟩
  · split
    · exact Dev.notify_only ..
    · exact .refl _
  · by_cases hchange : clock = d7.ageing.planned
    · have hc : change = false := decide_eq_false (fun hne => hne hchange)
      exact .inl ⟨by simp only [d8, hc]; rfl, by simp only [d8, hc]; rfl⟩
    · have hc : change = true := decide_eq_true hchange
      exact .inr ⟨by simp only [d8, hc]; rfl, clock, k, hchange, by simp only [d8, hc]; rfl⟩

/-- Settles O59, clause by clause: readings, triggers and decisions. -/
theorem ageingComplete : Obligations.AgeingComplete := by
  unfold Obligations.AgeingComplete
  intro s hs
  have htrigger : ∀ x : Dev, x.raised = [] → x.replanTrigger.raised = [] := fun x hx => (Dev.replanTrigger_raised x).trans hx
  refine ⟨fun p w h => completes_done rfl (congrArg Dev.eff (Dev.eyeRead_idle h)) hs,
    fun p x w hup => completes_done rfl (congrArg Dev.eff (Dev.eyeRead_widths hup)) hs, fun hdue => ?_, fun d n hn hd => ?_,
    fun u v => ?_, fun l hl => ?_, fun obs hstate => ?_, fun obs hstate => ?_⟩
  · refine completes_done rfl (congrArg Dev.eff ?_) hs
    unfold Dev.replanAfterStart
    rw [hdue]
  · obtain rfl : d = Dev.replanTrigger := hd.trans (funext fun x => x.replanTrigger_if.symm)
    subst hn
    refine ⟨completes_done rfl rfl (htrigger _ hs), fun hdue => ?_, fun k c ms x hx => ?_⟩
    · obtain ⟨t, ht⟩ := Option.isSome_iff_exists.1 hdue
      refine completes_done rfl (congrArg Dev.eff ?_) (htrigger _ hs)
      unfold Dev.replanAfterStart
      rw [ht]
    · subst hx
      obtain ⟨hkept, hbroken⟩ := s.dev.retentionRead_rule k c ms
      exact ⟨fun h => completes_done rfl (congrArg Dev.eff (hkept h)) hs,
        fun h => completes_done rfl (congrArg Dev.eff (hbroken h)) (htrigger _ hs)⟩
  · obtain ⟨hraised, hunit, hstate⟩ := s.dev.replicaRead_one u v
    obtain ⟨t, ht, hmem, hsafety, -, honly⟩ := completes_done (c := .replicaRead [(u, v)]) (s := s) rfl rfl (hraised.trans hs)
    refine ⟨t, ht, hmem, hsafety, (Dev.unitOf_tables honly.cells honly.engines _).trans hunit, fun n hn hup hbad => ?_⟩
    rw [show t.dev.ageing = (s.dev.replicaRead [(u, v)]).ageing from (congrArg Dev.ageing honly.shell :)]
    exact hstate n hn hup hbad
  · obtain ⟨hraised, hregions, hstacks, hstate⟩ := Dev.oscillatorRead_losses (d := s.dev) hl
    obtain ⟨t, ht, hmem, hsafety, -, honly⟩ := completes_done (c := .ringOscillatorRead l) (s := s) rfl rfl (hraised.trans hs)
    refine ⟨t, ht, hmem, hsafety, fun r hr => ?_, fun k hk => ?_, fun hrise => ?_⟩
    · exact (congrArg (fun l => (tgetD l r ({} : Region)).oscLoss) honly.regions :).trans (hregions r hr)
    · exact (congrArg (fun l => (tgetD l k ({} : Stack)).oscLoss) honly.stackTab :).trans (hstacks k hk)
    · rw [show t.dev.ageing = (s.dev.oscillatorRead l).ageing from (congrArg Dev.ageing honly.shell :)]
      exact hstate hrise
  · refine completes_done rfl (congrArg Dev.eff ?_) hs
    unfold Dev.replanDecide
    exact if_pos (by simpa using hstate)
  · obtain ⟨x, hx, hraised, hend⟩ := Dev.replanDecide_decides (steps := obs) hstate
    obtain ⟨t, ht, hmem, -, -, honly⟩ := completes_done (c := .replanDecision obs) (s := s) rfl rfl (hx.raised.trans (hraised.trans hs))
    have hshell := (hx.trans honly).shell
    have hageing : t.dev.ageing = x.ageing := (congrArg Dev.ageing hshell :)
    have hnow : t.dev.now = x.now := (congrArg Dev.now hshell :)
    rw [← hageing, ← hnow] at hend
    exact ⟨t, ht, hmem, hend⟩

end Sys2Proof.Machine
end

section
/-!
Tamper events, the backup domain, the throttle and the SKY pins (O58).
-/

namespace Sys2Proof.Machine

open Sys2Proof.Safety

/-! ### The backup domain -/

/-- A command whose device is `d` but for notices and watermark slots. -/
theorem completes_notices {c : Instr} {s : State} {d d' : Dev} (hc : exec c s = s.done d'.eff) (honly : NoticesOnly d d')
    (hr : d.raised = []) : CompletesTo c s d := by
  obtain ⟨t, ht, hmem, hsafety, hpending, hnotices⟩ := completes_done hc rfl (honly.raised.trans hr)
  exact ⟨t, ht, hmem, hsafety, hpending, honly.trans hnotices⟩

/-- Nothing in the backup domain is recorded while its clock stands still without power. -/
def Dev.Dark (d : Dev) : Prop := d.start.powered = false ∧ d.backup.clockStopped = true

/-- The device with a lasting condition of the backup domain recorded (R514). -/
def Dev.recorded (d : Dev) (b : Nat) : Dev :=
  { d with backup := { d.backup with
    alarms := d.backup.alarms ||| 2 ^ b, alarmPending := d.backup.alarmPending || !d.start.powered } }

theorem dark_test {powered stopped : Bool} (h : powered = true ∨ stopped = false) : ¬ (!powered && stopped) = true := by
  obtain h | h := h <;> simp [h]

theorem Dev.backupAlarm_only {d : Dev} (b : Nat) (h : d.start.powered = true ∨ d.backup.clockStopped = false) :
    NoticesOnly (d.recorded b) (d.backupAlarm b) := by
  unfold Dev.backupAlarm
  rw [if_neg (dark_test h)]
  cases hpowered : d.start.powered with
  | true =>
    have hrecorded : d.recorded b = { d with backup := { d.backup with alarms := d.backup.alarms ||| 2 ^ b } } := by
      simp [Dev.recorded, hpowered]
    rw [hrecorded]
    dsimp only
    rw [if_pos rfl]
    split
    · exact .refl _
    · exact Dev.notify_only ..
  | false =>
    have hrecorded : d.recorded b = { d with backup := { d.backup with
        alarms := d.backup.alarms ||| 2 ^ b, alarmPending := true } } := by
      simp [Dev.recorded, hpowered]
    rw [hrecorded]
    exact .refl _

theorem Dev.backupAlarm_dark {d : Dev} (b : Nat) (hpowered : d.start.powered = false) (hstopped : d.backup.clockStopped = true) :
    d.backupAlarm b = d := by
  unfold Dev.backupAlarm
  exact if_pos (by simp [hpowered, hstopped])

/-! ### The SKY pins -/

theorem Dev.pin_modPin_same (d : Dev) (n : Nat) (f : SkyPin → SkyPin) : (d.modPin n f).pin n = f (d.pin n) := tgetD_tset_same ..

/-- The device with a level accepted at a pin. -/
def Dev.levelled (d : Dev) (n : Nat) (b : Bool) : Dev := d.modPin n (fun y => { y with outside := some b, acceptedHigh := b })

theorem Dev.pinLevelHeld_other {d : Dev} {n : Nat} {level : Bool} (h : (d.pin n).function ≠ 7 ∨ (d.pin n).changing.isSome = true) :
    d.pinLevelHeld n level = (d.modPin n (fun y => { y with outside := some level })).eff := by
  unfold Dev.pinLevelHeld
  exact if_pos (by simpa using h)

/-- A level at a SAFE_STATE_IN pin (R478). -/
theorem Dev.pinLevelHeld_safe {d : Dev} {n : Nat} {level : Bool} (hfunction : (d.pin n).function = 7)
    (hidle : (d.pin n).changing = none) : d.pinLevelHeld n level =
      if level then (d.levelled n level).eff.pinHigh n
      else if d.support.pinsLow.contains n then (d.levelled n level).eff
      else (({ d.levelled n level with support := { d.support with pinsLow := d.support.pinsLow ++ [n] } } : Dev).raise 8
        0xFFFF).eff := by
  have hlevelled : (d.modPin n (fun x => { x with outside := some level })).modPin n (fun x => { x with acceptedHigh := level }) =
      d.levelled n level := by
    rw [Dev.modPin, Dev.pin_modPin_same]
    exact congrArg (fun l => { d with pins := l }) (tset_tset ..)
  unfold Dev.pinLevelHeld
  dsimp only
  rw [if_neg (by simp [hfunction, hidle]), hlevelled]
  rfl

/-- The end of a SAFE_STATE_IN pin's low level (R478). -/
theorem pinHigh_after {c : Instr} {s : State} {d : Dev} {n : Nat} (hc : exec c s = s.done (d.eff.pinHigh n)) (hr : d.raised = [])
    (hkept : d.support = s.dev.support) :
    ∃ t, exec c s = .next t ∧ t.mem = s.mem ∧ t.dev.support.pinsLow = s.dev.support.pinsLow.filter (· != n) ∧
      t.safety = (if s.dev.support.pinsLow.contains n && (s.dev.support.pinsLow.filter (· != n)).isEmpty then
        { s.safety with causes := if bit s.safety.causes 8 then s.safety.causes - 256 else s.safety.causes } else s.safety) := by
  unfold Eff.pinHigh at hc
  dsimp only at hc
  rw [show d.eff.dev.support = s.dev.support from hkept] at hc
  split
  · rename_i hlast
    rw [if_pos hlast] at hc
    obtain ⟨t, ht, hmem, honly, hsafety⟩ := clear_after hc hr
    exact ⟨t, ht, hmem, (congrArg CauseSupport.pinsLow honly.support :), hsafety⟩
  · rename_i hlast
    rw [if_neg hlast] at hc
    obtain ⟨t, ht, hmem, hsafety, -, honly⟩ := completes_done hc rfl hr
    exact ⟨t, ht, hmem, (congrArg CauseSupport.pinsLow honly.support :), hsafety⟩

theorem Dev.pinTake_idle {d : Dev} {n : Nat} (h : (d.pin n).changing = none) : d.pinTake n = d.eff := by
  unfold Dev.pinTake
  rw [h]

/-- A pin whose new function took it at an instant. -/
def SkyPin.took (y : SkyPin) (f : Nat) (t : Tns) : SkyPin := { y with function := f, since := t, changing := none, acceptedHigh := true }

/-- A function takes its pin at a free reference edge (R550). -/
theorem Dev.pinTake_takes {d : Dev} {n f t0 : Nat} (hchange : (d.pin n).changing = some (f, t0)) (hqueue : (d.pin n).queued = []) :
    ∃ (x : Dev) (k : Nat), d.pinTake n = x.eff ∧ x.raised = d.raised ∧ 1 ≤ k ∧ k ≤ 40 ∧ x.now = max d.now (t0 + 2560 + k) ∧
      x.pin n = (d.pin n).took f x.now := by
  unfold Dev.pinTake
  rw [hchange]
  dsimp -zeta only
  extract_lets r d1 d2 _ d3
  have hk : 1 + r.1 % 40 ≤ 40 := by omega
  have hnow : d1.now = max d.now (t0 + 2560 + (1 + r.1 % 40)) := by
    rw [← Nat.add_assoc]
    rfl
  have hpin : d2.pin n = (d.pin n).took f d1.now :=
    Dev.pin_modPin_same ..
  have hd3 : ∃ x, d3 = { d2 with time := x } := by
    unfold d3
    split
    · exact ⟨_, rfl⟩
    · exact ⟨d2.time, rfl⟩
  have hraised : d2.raised = d.raised := rfl
  have hsame : d2.now = d1.now := rfl
  clear_value d3 d2 d1
  obtain ⟨x, rfl⟩ := hd3
  have hqueued : (d2.pin n).queued = [] := by
    rw [hpin]
    exact hqueue
  refine ⟨{ d2 with time := x }, 1 + r.1 % 40, ?_, hraised, by omega, hk, hsame.trans hnow, ?_⟩
  · rw [show (({ d2 with time := x } : Dev).pin n).queued = [] from hqueued]
  · exact hpin.trans (congrArg ((d.pin n).took f) hsame.symm)

/-- Settles O58, clause by clause: the backup domain, the throttle and the pins. -/
theorem backupAndPinsComplete : Obligations.BackupAndPinsComplete := by
  unfold Obligations.BackupAndPinsComplete
  intro s hs
  refine ⟨fun hpowered hstopped => ⟨fun x => ?_, ?_⟩, fun h => ⟨fun x => ?_, ?_, fun v hv => ?_⟩, fun v hlow hhigh => ?_, ?_,
    fun hthrottle hcool => ?_, fun h => ?_, fun n d hd => ⟨fun level h => ?_, fun hfunction hidle => ⟨fun hlow => ?_, fun hlow => ?_, ?_⟩,
      fun hidle => ?_, fun f t0 hchange hqueue => ?_⟩⟩
  · refine completes_done rfl (congrArg Dev.eff (if_pos ?_)) hs
    simp [hpowered, hstopped]
  · exact completes_done rfl (congrArg Dev.eff (Dev.backupAlarm_dark 1 hpowered hstopped)) hs
  · exact completes_done rfl (congrArg Dev.eff (if_neg (dark_test h))) hs
  · exact completes_notices rfl (Dev.backupAlarm_only (d := { s.dev with backup := { s.dev.backup with cellLow := true } }) 1 h) hs
  · have hrecorded := Dev.backupAlarm_only (d := { s.dev with power := { s.dev.power with
      sensors := tset s.dev.power.sensors (Sensor.sub .backup) v } }) 2 h
    exact completes_notices (congrArg (fun d => s.done (Dev.eff d)) (if_pos hv)) hrecorded hs
  · refine completes_done rfl (congrArg Dev.eff (if_neg ?_)) hs
    omega
  · refine completes_done rfl (congrArg Dev.eff ?_) hs
    cases hpowered : s.dev.start.powered with
    | true => simp
    | false => simp
  · refine completes_done rfl (congrArg Dev.eff (if_pos ?_)) hs
    simp [hthrottle, hcool]
  · refine completes_done rfl (congrArg Dev.eff (if_neg fun hboth => ?_)) hs
    obtain ⟨hslow, hcool⟩ := Bool.and_eq_true_iff.1 hboth
    obtain h | h := h
    · exact absurd (of_decide_eq_true hslow) (Nat.not_lt.2 h)
    · rw [h] at hcool
      cases hcool
  · exact completes_done (congrArg s.done (Dev.pinLevelHeld_other h)) rfl hs
  · have hlevel : s.dev.pinLevelHeld n false = (s.dev.levelled n false).eff := by
      rw [Dev.pinLevelHeld_safe hfunction hidle, if_neg (by decide), if_pos (by simpa using hlow)]
    rw [hd]
    exact completes_done (congrArg s.done hlevel) rfl hs
  · have hlevel := Dev.pinLevelHeld_safe (level := false) hfunction hidle
    rw [if_neg (by decide), if_neg (by simpa using hlow)] at hlevel
    exact entered_done (congrArg s.done hlevel) (Dev.raise_raised hs) (by decide)
  · have hlevel := Dev.pinLevelHeld_safe (level := true) hfunction hidle
    rw [if_pos rfl] at hlevel
    exact pinHigh_after (congrArg s.done hlevel) hs rfl
  · exact completes_done rfl (Dev.pinTake_idle hidle) hs
  · obtain ⟨x, k, htake, hraised, hmin, hmax, hnow, hpin⟩ := Dev.pinTake_takes hchange hqueue
    obtain ⟨t, ht, hmem, hsafety, -, honly⟩ := completes_done (c := .skyPinTake n) (s := s) rfl htake (hraised.trans hs)
    have hsame : t.dev.now = x.now := (congrArg Dev.now honly.shell :)
    rw [← hsame] at hnow hpin
    exact ⟨t, k, ht, hmem, hsafety, hmin, hmax, hnow, (congrArg (fun d : Dev => d.pin n) honly.shell :).trans hpin⟩

end Sys2Proof.Machine
end

section
/-!
Starts, resets and losses of the input (O57).
-/

namespace Sys2Proof.Machine

open Sys2Proof.Safety

/-! ### What the stored configuration leaves (R418) -/

/-- What a start's last steps find of the units, of the stored plans and of its status, and the causes raised. -/
def Dev.footing (d : Dev) : List (Nat × Nat) × List (Nat × ComputeUnit) × (Nat → Bool) × Option Plan × Option Plan × Nat :=
  (d.raised, d.cells, fun r => (d.region r).outOfService, d.ageing.planA, d.ageing.planB, d.start.status)

theorem NoticesOnly.footing {a b : Dev} (h : NoticesOnly a b) : b.footing = a.footing := (congrArg Dev.footing h.shell :)

theorem Dev.replanTrigger_footing (d : Dev) : d.replanTrigger.footing = d.footing := by
  rw [Dev.replanTrigger_if]
  split
  · rfl
  · split <;> rfl

theorem Dev.modRegion_footing (d : Dev) (r : Nat) {f : Region → Region} (h : ∀ x, (f x).outOfService = x.outOfService) :
    (d.modRegion r f).footing = d.footing := by
  have hout : (fun k => ((d.modRegion r f).region k).outOfService) = fun k => (d.region k).outOfService := by
    funext k
    rw [Dev.region, Dev.modRegion, tgetD_tset]
    split
    · rename_i hk
      subst hk
      exact h _
    · rfl
  exact congrArg (fun o => (d.raised, d.cells, o, d.ageing.planA, d.ageing.planB, d.start.status)) hout

theorem Dev.requestMgmtTest_footing (d : Dev) (u : Nat) : (d.requestMgmtTest u).footing = d.footing := by
  refine (show (d.requestMgmtTest u).footing = (d.requestTest u 1).footing from rfl).trans (Dev.modRegion_footing _ _ fun x => ?_)
  split <;> rfl

theorem Dev.planRemoval_footing (d : Dev) (u cause : Nat) : (d.planRemoval u cause).footing = d.footing := by
  unfold Dev.planRemoval
  split <;> rfl

theorem Eff.pinFunction_footing (e : Eff) (n f : Nat) : (e.pinFunction n f).dev.footing = e.dev.footing := by
  have hhigh : (e.pinHigh n).dev.footing = e.dev.footing := by
    unfold Eff.pinHigh
    dsimp only
    split <;> rfl
  unfold Eff.pinFunction Eff.pinRelease
  dsimp only
  split
  · rfl
  · show Dev.footing (Eff.dev _) = _
    have hfirst : (if (e.dev.pin n).function = 7 then e.pinHigh n else e).dev.footing = e.dev.footing := by
      split
      · exact hhigh
      · rfl
    refine Eq.trans ?_ hfirst
    generalize (if (e.dev.pin n).function = 7 then e.pinHigh n else e) = e1
    split
    · unfold Dev.loseSource
      dsimp only [Eff.mod]
      split <;> rfl
    · rfl

theorem State.resetSlot_footing (s : State) (d : Dev) (idx target up : Nat) : (s.resetSlot d idx target up).footing = d.footing := by
  unfold State.resetSlot Dev.setSlot
  dsimp only
  split <;> rfl

theorem State.writeSlot_footing (s : State) (idx sub v : Nat) : (s.writeSlot idx sub v).footing = s.dev.footing := by
  unfold State.writeSlot
  dsimp only
  split
  · split
    · refine (State.resetSlot_footing ..).trans ?_
      split <;> rfl
    · split <;> rfl
  · split
    · refine (State.resetSlot_footing ..).trans ?_
      split <;> rfl
    · split <;> rfl

theorem Dev.writeSelector_footing (d : Dev) (who : Requester) (p low v : Nat) : (d.writeSelector who p low v).footing = d.footing := by
  unfold Dev.writeSelector
  split <;> rfl

theorem Dev.ackAlarm_footing {d : Dev} (h : d.start.status ≠ 3) : d.ackAlarm.dev.footing = d.footing := by
  unfold Dev.ackAlarm
  dsimp only
  rw [if_neg h]
  rfl

/-- An accepted value in a partition's area. -/
theorem State.accept_part_footing {s : State} {who : Requester} {sys : Bool} {idx sub v : Nat} {value : Bytes} {i : ObjInfo}
    (h : inPartArea idx = true) : (s.accept who sys idx sub v value i).dev.footing = s.dev.footing := by
  unfold State.accept
  dsimp only
  rw [if_pos h]
  split
  · split <;> rfl
  · split
    · rfl
    · split
      · rfl
      · split
        · rfl
        · split
          · exact Dev.writeSelector_footing ..
          · split
            · exact State.writeSlot_footing ..
            · rfl

/-- What an accepted value does to the units, but for a reset and the stored copies of 0x1100. -/
theorem State.accept_footing {s : State} {who : Requester} {sys : Bool} {idx sub v : Nat} {value : Bytes} {i : ObjInfo}
    (hidx : idx ≠ 0x1100) (hstatus : s.dev.start.status ≠ 3) :
    (s.accept who sys idx sub v value i).dev.footing = s.dev.footing := by
  by_cases hpart : inPartArea idx = true
  · exact State.accept_part_footing hpart
  unfold State.accept
  dsimp only
  rw [if_neg hpart]
  split
  · rfl
  split
  · exact State.writeSlot_footing ..
  split
  case h_1 => exact absurd rfl hidx
  case h_2 => exact absurd rfl hidx
  case h_3 => exact absurd rfl hidx
  case h_4 => exact absurd rfl hidx
  case h_5 => split <;> rfl
  case h_6 => split <;> rfl
  case h_7 =>
    split
    · rfl
    · split <;> rfl
  case h_12 => exact Dev.requestMgmtTest_footing ..
  case h_13 => exact Dev.planRemoval_footing ..
  case h_14 => exact Dev.replanTrigger_footing ..
  case h_15 => split <;> rfl
  case h_16 => exact Dev.ackAlarm_footing hstatus
  case h_17 =>
    split
    · rfl
    · exact Eff.pinFunction_footing ..
  all_goals rfl

/-- An entry outside 0x1100 leaves the footing. -/
theorem State.writeOne_footing {s : State} {who : Requester} {sys : Bool} {w : Entry} (hidx : w.idx ≠ 0x1100)
    (hstatus : s.dev.start.status ≠ 3) : (s.writeOne who sys w).1.dev.footing = s.dev.footing := by
  unfold State.writeOne
  dsimp only
  split
  · rfl
  split
  · rfl
  split
  · rfl
  split
  · rfl
  split
  · rfl
  split
  · rw [if_neg (fun h => hidx h.1)]
    rfl
  split
  · exact State.accept_footing hidx hstatus
  · exact State.accept_footing hidx hstatus

/-- Entries outside 0x1100 that are applied to a start leave its footing. -/
theorem State.writeAll_footing {who : Requester} {sys : Bool} : ∀ {ws : List Entry} {s : State}, (∀ w ∈ ws, w.idx ≠ 0x1100) →
    s.dev.raised = [] → s.dev.start.status ≠ 3 → (s.writeAll who sys ws).1.dev.footing = s.dev.footing
  | [], _, _, _, _ => rfl
  | w :: ws, s, hws, hr, hstatus => by
    have hone := State.writeOne_footing (who := who) (sys := sys) (hws w List.mem_cons_self) hstatus
    have hraised : (s.writeOne who sys w).1.dev.raised = [] := (congrArg Prod.fst hone :).trans hr
    have hnext : (s.apply (s.writeOne who sys w).1).dev.footing = s.dev.footing := (State.apply_only _ _ hraised).footing.trans hone
    have hsame : (s.apply (s.writeOne who sys w).1).dev.start.status = s.dev.start.status :=
      (congrArg (fun x => x.2.2.2.2.2) hnext :)
    have hstatus' : (s.apply (s.writeOne who sys w).1).dev.start.status ≠ 3 := fun h => hstatus (hsame.symm.trans h)
    exact (State.writeAll_footing (fun x hx => hws x (List.mem_cons_of_mem _ hx)) (State.apply_raised ..) hstatus').trans hnext

/-- The stored configuration, applied, leaves the queue; where it holds no entry of 0x1100, it leaves the footing. -/
theorem State.applyConfig_footing {s : State} {ok : List Bool} (hr : s.dev.raised = []) :
    (s.applyConfig ok).pending = s.pending ∧ (s.applyConfig ok).dev.raised = [] ∧
      (s.dev.start.status ≠ 3 → (∀ y, s.dev.store.chosen ok = some y → ∀ w ∈ y.2.entries, w.idx ≠ 0x1100) →
        (s.applyConfig ok).dev.footing = s.dev.footing) := by
  unfold State.applyConfig
  split
  · refine ⟨State.apply_pending .., State.apply_raised .., fun _ _ => ?_⟩
    exact (State.apply_only _ _ ((s.dev.alarm_raised 2).trans hr)).footing.trans (Dev.notify_only ..).footing
  · rename_i n c hc
    refine ⟨(State.apply_pending ..).trans (State.writeAll_follows ..).pending, State.apply_raised .., fun hstatus hentries => ?_⟩
    have hraised := State.writeAll_raised (.cred 0) (sys := true) c.entries s hr
    have hwritten := State.writeAll_footing (who := .cred 0) (sys := true) (hentries _ hc) hr hstatus
    dsimp only
    generalize s.writeAll (.cred 0) true c.entries = r at hraised hwritten
    exact (State.apply_only _ _ hraised).footing.trans hwritten

/-! ### A start's last steps -/

theorem Dev.modRegion_cellUp {d : Dev} (r n : Nat) {f : Region → Region} (h : ∀ x, (f x).outOfService = x.outOfService) :
    (d.modRegion r f).cellUp n = d.cellUp n := by
  have hout : ((d.modRegion r f).region (n / 64)).outOfService = (d.region (n / 64)).outOfService :=
    congrFun (congrArg (fun x => x.2.2.1) (d.modRegion_footing r h)) (n / 64)
  unfold Dev.cellUp
  rw [hout]
  rfl

theorem Dev.modCell_cellUp {d : Dev} {m n : Nat} {f : ComputeUnit → ComputeUnit}
    (h : m ≠ n ∨ ∀ x, (f x).fenced = x.fenced ∧ (f x).testing = x.testing) : (d.modCell m f).cellUp n = d.cellUp n := by
  have hcell : ((d.modCell m f).cell n).fenced = (d.cell n).fenced ∧ ((d.modCell m f).cell n).testing = (d.cell n).testing := by
    rw [Dev.cell, Dev.modCell, tgetD_tset]
    split
    · rename_i hn
      obtain h | h := h
      · exact absurd hn.symm h
      · subst hn
        exact h _
    · exact ⟨rfl, rfl⟩
  unfold Dev.cellUp
  rw [hcell.1, hcell.2]
  rfl

theorem Dev.replanTrigger_cellUp (d : Dev) (n : Nat) : d.replanTrigger.cellUp n = d.cellUp n := by
  obtain ⟨a, h⟩ := d.replanTrigger_eq
  rw [h]
  rfl

/-- A fold whose steps on the list's members leave an observation leaves it. -/
theorem foldl_keep_of_mem {α β γ : Type} (g : β → γ) {f : β → α → β} : ∀ (l : List α) (b : β),
    (∀ x ∈ l, ∀ b, g (f b x) = g b) → g (l.foldl f b) = g b
  | [], _, _ => rfl
  | x :: l, b, h => (foldl_keep_of_mem g l (f b x) fun y hy => h y (List.mem_cons_of_mem _ hy)).trans (h x List.mem_cons_self b)

/-- The plan's marks fence no other cell (R497). -/
theorem Dev.applyPlan_cellUp {d : Dev} {o : StartObs} {b : Bool} {n : Nat}
    (h : ∀ y, d.ageing.verified o.planVerifies = some y → n ∉ y.markCells) : (d.applyPlan o b).cellUp n = d.cellUp n := by
  have hregions : ∀ (g : Nat → Nat) (l : List Nat) (d : Dev),
      (l.foldl (fun acc r => acc.modRegion r (fun x => { x with guard := g r })) d).cellUp n = d.cellUp n := fun g =>
    foldl_keep (fun d : Dev => d.cellUp n) fun d r => Dev.modRegion_cellUp r n fun _ => rfl
  unfold Dev.applyPlan
  split
  · rename_i p hp
    extract_lets d1 d2 d3 d4 d5
    have h1 : d1.cellUp n = d.cellUp n := hregions ..
    clear_value d1
    have h2 : d2.cellUp n = d1.cellUp n := foldl_keep (fun d : Dev => d.cellUp n) (fun d k => by rfl) _ d1
    clear_value d2
    have h3 : d3.cellUp n = d2.cellUp n := foldl_keep (fun d : Dev => d.cellUp n) (fun d k => by rfl) _ d2
    clear_value d3
    have h4 : d4.cellUp n = d3.cellUp n := foldl_keep_of_mem (fun d : Dev => d.cellUp n) _ d3 fun m hm d =>
      Dev.modCell_cellUp (.inl fun e => h p hp (e ▸ hm))
    clear_value d4
    have h5 : d5.cellUp n = d4.cellUp n := foldl_keep (fun d : Dev => d.cellUp n) (fun d k => by rfl) _ d4
    clear_value d5
    exact h5.trans (h4.trans (h3.trans (h2.trans h1)))
  · extract_lets g d1 d2
    have h1 : d1.cellUp n = d.cellUp n := hregions ..
    clear_value d1
    have h2 : d2.cellUp n = d1.cellUp n := foldl_keep (fun d : Dev => d.cellUp n) (fun d k => by rfl) _ d1
    clear_value d2
    exact h2.trans h1

theorem Dev.applyPlan_raised (d : Dev) (o : StartObs) (b : Bool) : (d.applyPlan o b).raised = d.raised := by
  unfold Dev.applyPlan
  split
  · exact (foldl_raised (fun _ _ => by rfl) _ _).trans ((foldl_raised (fun _ _ => by rfl) _ _).trans
      ((foldl_raised (fun _ _ => by rfl) _ _).trans ((foldl_raised (fun _ _ => by rfl) _ _).trans
        (foldl_raised (fun _ _ => by rfl) _ _))))
  · exact (foldl_raised (fun _ _ => by rfl) _ _).trans (foldl_raised (fun _ _ => by rfl) _ _)

theorem Dev.failAtStart_raised (d : Dev) (u : PatternUnit) : (d.failAtStart u).raised = d.raised := by
  unfold Dev.failAtStart
  split <;> rfl

theorem Dev.failAtStart_cellUp {d : Dev} {u : PatternUnit} {n : Fin 384} (h : u ≠ .cell n) :
    (d.failAtStart u).cellUp n = d.cellUp n := by
  unfold Dev.failAtStart
  split
  · rename_i m
    have hcell : (d.modCell m (fun c => { c with fenced := true })).cellUp n = d.cellUp n :=
      Dev.modCell_cellUp (.inl fun e => h (congrArg PatternUnit.cell (Fin.ext e)))
    exact hcell
  · rfl

theorem Dev.setLosses_cellUp (d : Dev) (l : List Nat) (n : Nat) : (d.setLosses l).cellUp n = d.cellUp n := by
  unfold Dev.setLosses
  refine (foldl_keep (fun d : Dev => d.cellUp n) (fun d k => ?_) _ _).trans (foldl_keep (fun d : Dev => d.cellUp n) (fun d r => ?_) _ _)
  · split <;> rfl
  · split
    · exact Dev.modRegion_cellUp _ _ fun _ => rfl
    · rfl

theorem Dev.retentionRead_kept (d : Dev) (k c ms n : Nat) :
    (d.retentionRead k c ms).raised = d.raised ∧ (d.retentionRead k c ms).cellUp n = d.cellUp n := by
  unfold Dev.retentionRead
  dsimp only
  split
  · exact ⟨rfl, rfl⟩
  · exact ⟨Dev.replanTrigger_raised _, Dev.replanTrigger_cellUp _ n⟩

theorem Dev.replicaRead_kept (d : Dev) (l : List (PatternUnit × Nat)) (n : Nat) :
    (d.replicaRead l).raised = d.raised ∧ (d.replicaRead l).cellUp n = d.cellUp n := by
  have hread : (d.readDelays l).cellUp n = d.cellUp n := by
    unfold Dev.readDelays
    obtain ⟨w, u, h⟩ := (l.foldl Dev.setDelay d).worst_eq
    rw [h]
    refine foldl_keep (fun d : Dev => d.cellUp n) (fun d x => ?_) l d
    unfold Dev.setDelay
    split
    · exact Dev.modCell_cellUp (.inr fun _ => ⟨rfl, rfl⟩)
    · rfl
  unfold Dev.replicaRead
  dsimp only
  split
  · exact ⟨d.readDelays_raised l, hread⟩
  · exact ⟨(Dev.replanTrigger_raised _).trans (d.readDelays_raised l), (Dev.replanTrigger_cellUp _ n).trans hread⟩

/-- The first readings leave every cell's service. -/
theorem Dev.startReadings_kept (d : Dev) (o : StartObs) (cold : Bool) (n : Nat) :
    (d.startReadings o cold).raised = d.raised ∧ (d.startReadings o cold).cellUp n = d.cellUp n := by
  unfold Dev.startReadings
  extract_lets d1 _ d2 d3
  have h2 : d2.raised = d.raised ∧ d2.cellUp n = d.cellUp n := by
    refine ⟨d.setLosses_raised _, Eq.trans ?_ (d.setLosses_cellUp o.oscillators n)⟩
    have hregion : d2.region (n / 64) = { d1.region (n / 64) with oscAtReplan := (d1.region (n / 64)).oscLoss } :=
      tgetD_map d1.regions (fun r => { r with oscAtReplan := r.oscLoss }) (n / 64) {} rfl
    unfold Dev.cellUp
    rw [hregion]
    rfl
  have h3 : d3.raised = d2.raised ∧ d3.cellUp n = d2.cellUp n := by
    unfold d3
    split
    · exact ⟨foldl_raised (fun d x => (d.retentionRead_kept _ _ _ n).1) _ _,
        foldl_keep (fun d : Dev => d.cellUp n) (fun d x => (d.retentionRead_kept _ _ _ n).2) _ _⟩
    · exact ⟨rfl, rfl⟩
  obtain ⟨hraised, hup⟩ := d3.replicaRead_kept o.delays n
  exact ⟨hraised.trans (h3.1.trans h2.1), hup.trans (h3.2.trans h2.2)⟩

/-- A start that failed at a step, with an alarm pending or not (R519, R529, R530). -/
structure Start.FailedAt (step : Nat) (pend : Bool) (x y : Start) : Prop where
  failed : y.failed = true
  undone : y.stepsDone = false
  patterns : y.patternsAt = x.patternsAt
  kind : y.kind = x.kind
  status : y.status = if x.kind = 1 then x.status else if pend then 3 else 2
  step : x.kind ≠ 1 → pend = false → y.failedStep = step

theorem Dev.startFails_eq (d : Dev) (step : Nat) :
    ∃ x, d.startFails step = { d with start := x } ∧ Start.FailedAt step d.backup.alarmPending d.start x := by
  refine ⟨_, rfl, ?_⟩
  generalize hbank : (if d.start.firstBoot && decide (d.start.bank < 2) then
    { d.start with bank := 1 - d.start.bank, firstBoot := false } else d.start : Start) = y
  have hkept : y.patternsAt = d.start.patternsAt ∧ y.kind = d.start.kind ∧ y.status = d.start.status := by
    rw [← hbank]
    split <;> exact ⟨rfl, rfl, rfl⟩
  obtain ⟨hpatterns, hkind, hstatus⟩ := hkept
  split
  · rename_i hwarm
    exact ⟨rfl, rfl, hpatterns, hkind, by simp [hwarm, hstatus], fun h => absurd hwarm h⟩
  · rename_i hcold
    split
    · rename_i hpend
      exact ⟨rfl, rfl, hpatterns, hkind, by simp [hcold, hpend], fun _ h => by simp [hpend] at h⟩
    · rename_i hpend
      exact ⟨rfl, rfl, hpatterns, hkind, by simp [hcold, hpend], fun _ _ => rfl⟩

/-- How a start's last steps end (R519): done, or failed where no region has a cell in service. -/
theorem Dev.startEnds_ends {d : Dev} {o : StartObs} {interrupted cold : Bool} (hr : d.raised = []) :
    (d.startEnds o interrupted cold).raised = [] ∧
    (d.startEnds o interrupted cold).start.patternsAt = (d.startEnds o interrupted cold).now ∧
    ((d.startEnds o interrupted cold).start.stepsDone = true ∨ (d.startEnds o interrupted cold).start.failed = true) ∧
    ∀ n : Fin 384, PatternUnit.cell n ∉ o.patternFails →
      (∀ y, d.ageing.verified o.planVerifies = some y → (n : Nat) ∉ y.markCells) → d.cellUp n = true →
      (d.startEnds o interrupted cold).start.stepsDone = true := by
  unfold Dev.startEnds
  extract_lets d5 d6 d7 _ d8
  have hraised : d8.raised = [] := by
    have h5 : d5.raised = d.raised := Dev.applyPlan_raised ..
    have h6 : d6.raised = d5.raised := foldl_raised Dev.failAtStart_raised _ _
    have h7 : d7.raised = d6.raised := (d6.startReadings_kept o cold 0).1
    exact h7.trans (h6.trans (h5.trans hr))
  have hregions : ∀ n : Fin 384, PatternUnit.cell n ∉ o.patternFails →
      (∀ y, d.ageing.verified o.planVerifies = some y → (n : Nat) ∉ y.markCells) → d.cellUp n = true → d8.regionsUp ≠ [] := by
    intro n hpass hmark hup
    have h5 : d5.cellUp n = d.cellUp n := Dev.applyPlan_cellUp hmark
    have h6 : d6.cellUp n = d5.cellUp n := foldl_keep_of_mem (fun d : Dev => d.cellUp n) _ d5 fun u hu d =>
      Dev.failAtStart_cellUp fun e => hpass (e ▸ hu)
    have h7 : d7.cellUp n = d6.cellUp n := (d6.startReadings_kept o cold n).2
    have h8 : d8.cellUp n = true := h7.trans (h6.trans (h5.trans hup))
    refine List.ne_nil_of_mem (a := (n : Nat) / 64) (List.mem_filter.2 ⟨List.mem_range.2 (by omega), ?_⟩)
    refine List.any_eq_true.2 ⟨(n : Nat) % 64, List.mem_range.2 (Nat.mod_lt _ (by decide)), ?_⟩
    rw [Nat.div_add_mod']
    exact h8
  have hpatterns : d8.start.patternsAt = d8.now := rfl
  have hdone : d8.start.stepsDone = true := rfl
  clear_value d8
  split
  · rename_i hempty
    obtain ⟨x, hx, hfailed⟩ := d8.startFails_eq 8
    rw [hx]
    exact ⟨hraised, hfailed.patterns.trans hpatterns, .inr hfailed.failed,
      fun n hpass hmark hup => absurd (List.isEmpty_iff.1 hempty) (hregions n hpass hmark hup)⟩
  · exact ⟨hraised, hpatterns, .inl hdone, fun _ _ _ _ => hdone⟩

/-! ### A start's first steps -/

/-- The device of a start before its memories are trained (R518 steps 1 to 3). -/
def Dev.booted (old : Dev) (cold : Bool) (since : Tns) (o : StartObs) : Dev :=
  { old.fresh with
    start := ({ old.fresh.start with kind := if cold then 0 else 1, resetAt := since, moduleId := o.moduleId.toNat } : Start).boot
      o.bankVerifies
    backup := { old.backup with failedWarm := if cold then old.backup.failedWarm else old.backup.failedWarm + 1 }
    time := { old.fresh.time with invalidStart := old.backup.clockStopped } }

theorem foldl_stackTab {α : Type} {f : Dev → α → Dev} (h : ∀ d x, ∃ t, f d x = { d with stackTab := t }) :
    ∀ (l : List α) (d : Dev), ∃ t, l.foldl f d = { d with stackTab := t }
  | [], d => ⟨d.stackTab, rfl⟩
  | x :: l, d => by
    obtain ⟨t, ht⟩ := h d x
    obtain ⟨t', ht'⟩ := foldl_stackTab h l (f d x)
    exact ⟨t', ht'.trans (by rw [ht])⟩

theorem foldl_capacity {α : Type} {f : Dev → α → Dev} (h : ∀ d x, ∃ c, f d x = { d with capacityEvents := c }) :
    ∀ (l : List α) (d : Dev), ∃ c, l.foldl f d = { d with capacityEvents := c }
  | [], d => ⟨d.capacityEvents, rfl⟩
  | x :: l, d => by
    obtain ⟨c, hc⟩ := h d x
    obtain ⟨c', hc'⟩ := foldl_capacity h l (f d x)
    exact ⟨c', hc'.trans (by rw [hc])⟩

theorem Dev.tellChannels_eq (d : Dev) : ∃ t c, d.tellChannels = { d with stackTab := t, capacityEvents := c } := by
  have hstack : ∀ (d : Dev) (k : Nat × Stack), ∃ c,
      k.2.fenced.foldl (fun a c => a.capacityEvent 5 4 (k.1 * 32 + c)) d = { d with capacityEvents := c } := fun d k =>
    foldl_capacity (fun _ _ => ⟨_, rfl⟩) _ d
  unfold Dev.tellChannels
  extract_lets d1
  obtain ⟨c, hc⟩ := foldl_capacity hstack d1.stackTab d1
  exact ⟨_, c, hc⟩

theorem Dev.startStacks_eq (d old : Dev) (o : StartObs) (cold : Bool) :
    ∃ t c, d.startStacks old o cold = { d with stackTab := t, capacityEvents := c } := by
  unfold Dev.startStacks
  extract_lets trained d1 d2
  have h1 : ∃ t, d1 = { d with stackTab := t } := by
    unfold d1
    split
    · exact foldl_stackTab (fun d x => ⟨_, rfl⟩) _ _
    · exact ⟨_, rfl⟩
  have h2 : ∃ t, d2 = { d1 with stackTab := t } := by
    unfold d2
    split
    · exact foldl_stackTab (fun d x => ⟨_, rfl⟩) _ _
    · exact ⟨d1.stackTab, rfl⟩
  clear_value d1 d2
  obtain ⟨t1, rfl⟩ := h1
  obtain ⟨t2, rfl⟩ := h2
  exact Dev.tellChannels_eq _

/-- Training and what a warm start keeps change the memories' tables alone. -/
theorem Dev.startTrained_eq (old : Dev) (cold : Bool) (since : Tns) (o : StartObs) : ∃ t c im al,
    old.startTrained cold since o = { old.booted cold since o with stackTab := t, capacityEvents := c, images := im, stackAlloc := al } := by
  obtain ⟨t, c, h⟩ := (old.booted cold since o).startStacks_eq old o cold
  have htrained : old.startTrained cold since o = if cold then (old.booted cold since o).startStacks old o cold
    else ((old.booted cold since o).startStacks old o cold).keepPlacements old o := rfl
  rw [htrained, h]
  split
  · exact ⟨t, c, (old.booted cold since o).images, (old.booted cold since o).stackAlloc, rfl⟩
  · exact ⟨t, c, _, _, rfl⟩

/-- What a start with the tier mounted has from before it: stored plans and copies, and the backup domain. -/
structure MountedFrom (old : Dev) (cold : Bool) (o : StartObs) (d : Dev) : Prop where
  raised : d.raised = []
  cells : d.cells = []
  regions : d.regions = []
  jobs : d.jobs = []
  tick : d.tick.started = false
  ageing : d.ageing.verified o.planVerifies = old.ageing.verified o.planVerifies
  store : d.store.chosen o.configVerifies = old.store.chosen o.configVerifies
  status : d.start.status = 0
  kind : d.start.kind = if cold then 0 else 1
  alarmPending : d.backup.alarmPending = old.backup.alarmPending
  failedWarm : d.backup.failedWarm = if cold then old.backup.failedWarm else old.backup.failedWarm + 1

theorem State.startMounted_from (s : State) (cold : Bool) (since : Tns) (o : StartObs) :
    (s.startMounted cold since o).pending = s.pending ∧ (s.startMounted cold since o).safety = {} ∧
      MountedFrom s.dev cold o (s.startMounted cold since o).dev := by
  obtain ⟨t, c, im, al, h⟩ := s.dev.startTrained_eq cold since o
  have hstart : (s.dev.booted cold since o).start.status = 0 ∧ (s.dev.booted cold since o).start.kind = if cold then 0 else 1 := by
    unfold Dev.booted Start.boot
    dsimp only
    split <;> exact ⟨rfl, rfl⟩
  refine ⟨rfl, rfl, ?_⟩
  unfold State.startMounted
  dsimp only
  rw [h]
  exact ⟨rfl, rfl, rfl, rfl, rfl, rfl, rfl, hstart.1, hstart.2, rfl, rfl⟩

/-! ### Starts -/

theorem Ageing.verified_plans {a b : Ageing} (ok : List Bool) (hA : a.planA = b.planA) (hB : a.planB = b.planB) :
    a.verified ok = b.verified ok := by
  unfold Ageing.verified Ageing.stored
  rw [hA, hB]

/-- What a start takes from a state `u` after what went before it in `s`: the queue, plans, copies, and a backup domain. -/
structure RestartsFrom (s u : State) (o : StartObs) (pend : Bool) (warm : Nat) : Prop where
  pending : u.pending = s.pending
  ageing : u.dev.ageing.verified o.planVerifies = s.dev.ageing.verified o.planVerifies
  store : u.dev.store.chosen o.configVerifies = s.dev.store.chosen o.configVerifies
  alarmPending : u.dev.backup.alarmPending = pend
  failedWarm : u.dev.backup.failedWarm = warm

/-- A start that failed at the step its findings name (R519, R529, R530). -/
structure FailedStart (s : State) (cold pend : Bool) (warm n : Nat) (t : State) : Prop where
  pending : t.pending = s.pending
  safety : t.safety = {}
  failed : t.dev.start.failed = true
  undone : t.dev.start.stepsDone = false
  kind : t.dev.start.kind = if cold then 0 else 1
  warm : t.dev.backup.failedWarm = if cold then warm else warm + 1
  status : t.dev.start.status = if cold then (if pend then 3 else 2) else 0
  step : cold = true → pend = false → t.dev.start.failedStep = n
  jobs : t.dev.jobs = []
  tick : t.dev.tick.started = false

/-- A start whose findings fail no step, at its end. -/
structure EndedStart (s : State) (o : StartObs) (t : State) : Prop where
  pending : t.pending = s.pending
  patterns : t.dev.start.patternsAt = t.dev.now
  ended : t.dev.start.stepsDone = true ∨ t.dev.start.failed = true
  done : ∀ n : Fin 384, PatternUnit.cell n ∉ o.patternFails →
    (∀ y, s.dev.ageing.verified o.planVerifies = some y → (n : Nat) ∉ y.markCells) →
    (∀ y, s.dev.store.chosen o.configVerifies = some y → ∀ w ∈ y.2.entries, w.idx ≠ 0x1100) → t.dev.start.stepsDone = true

/-- The two ends of a start. -/
structure Restarted (s : State) (o : StartObs) (cold pend : Bool) (warm : Nat) (t : State) : Prop where
  raised : t.dev.raised = []
  fails : ∀ n, startFailsAt o = some n → FailedStart s cold pend warm n t
  ends : startFailsAt o = none → EndedStart s o t

theorem restart_fails {s u : State} {o : StartObs} {cold pend : Bool} {warm n : Nat} (since : Tns)
    (h : RestartsFrom s u o pend warm) (hn : startFailsAt o = some n) : FailedStart s cold pend warm n (u.restart cold since o) := by
  obtain ⟨hpending, hsafety, hfrom⟩ := u.startMounted_from cold since o
  unfold State.restart
  dsimp only
  rw [hn]
  generalize u.startMounted cold since o = v at hpending hsafety hfrom
  obtain ⟨x, hx, hfailed⟩ := v.dev.startFails_eq n
  dsimp only
  rw [hx]
  obtain ⟨-, hsafety', hpending', honly⟩ := becomes_withDev (u := v) (d := { v.dev with start := x }) hfrom.raised
  generalize v.withDev { v.dev with start := x } = t at hsafety' hpending' honly
  have hstart : t.dev.start = x := honly.settled.start
  refine { pending := hpending'.trans (hpending.trans h.pending), safety := hsafety'.trans hsafety, failed := ?_, undone := ?_,
           kind := ?_, warm := ?_, status := ?_, step := ?_, jobs := honly.jobs.trans hfrom.jobs, tick := ?_ }
  · rw [hstart]
    exact hfailed.failed
  · rw [hstart]
    exact hfailed.undone
  · rw [hstart]
    exact hfailed.kind.trans hfrom.kind
  · rw [(honly.settled.backup : t.dev.backup = v.dev.backup), hfrom.failedWarm, h.failedWarm]
  · rw [hstart, hfailed.status, hfrom.kind, hfrom.status, hfrom.alarmPending, h.alarmPending]
    cases cold <;> rfl
  · intro hcold hpend
    rw [hstart]
    refine hfailed.step ?_ (hfrom.alarmPending.trans (h.alarmPending.trans hpend))
    rw [hfrom.kind, hcold]
    decide
  · rw [(honly.settled.tick : t.dev.tick = v.dev.tick)]
    exact hfrom.tick

theorem restart_ends {s u : State} {o : StartObs} {cold pend : Bool} {warm : Nat} (since : Tns)
    (h : RestartsFrom s u o pend warm) (hn : startFailsAt o = none) : EndedStart s o (u.restart cold since o) := by
  obtain ⟨hpending, -, hfrom⟩ := u.startMounted_from cold since o
  unfold State.restart
  dsimp only
  rw [hn]
  dsimp only
  generalize u.startMounted cold since o = v at hpending hfrom
  obtain ⟨hpending2, hraised, hfooting⟩ := v.applyConfig_footing (ok := o.configVerifies) hfrom.raised
  generalize v.applyConfig o.configVerifies = w at hpending2 hraised hfooting
  obtain ⟨hraised', hpatterns, hended, hdone⟩ :=
    w.dev.startEnds_ends (o := o) (interrupted := u.dev.ageing.state == 1) (cold := cold) hraised
  generalize w.dev.startEnds o (u.dev.ageing.state == 1) cold = d at hraised' hpatterns hended hdone
  obtain ⟨-, -, hpending3, honly⟩ := becomes_withDev (u := w) hraised'
  have hstart : (w.withDev d).dev.start = d.start := honly.settled.start
  refine ⟨hpending3.trans (hpending2.trans (hpending.trans h.pending)), ?_, ?_, fun n hpass hmark hentries => ?_⟩
  · rw [hstart, honly.settled.now]
    exact hpatterns
  · rw [hstart]
    exact hended
  · rw [← h.ageing, ← hfrom.ageing] at hmark
    rw [← h.store, ← hfrom.store] at hentries
    have hfoot := hfooting (by rw [hfrom.status]; decide) hentries
    have hcells : w.dev.cells = [] := (congrArg (fun x => x.2.1) hfoot :).trans hfrom.cells
    have hregions : (w.dev.region ((n : Nat) / 64)).outOfService = false := by
      refine (congrFun (congrArg (fun x => x.2.2.1) hfoot) ((n : Nat) / 64) :).trans ?_
      show (v.dev.region _).outOfService = false
      rw [Dev.region, hfrom.regions]
      rfl
    have hup : w.dev.cellUp n = true := by
      unfold Dev.cellUp
      rw [hregions, Dev.cell, hcells]
      rfl
    rw [hstart]
    refine hdone n hpass (fun y hy => hmark y ?_) hup
    exact (Ageing.verified_plans _ (congrArg (fun x => x.2.2.2.1) hfoot) (congrArg (fun x => x.2.2.2.2.1) hfoot)).symm.trans hy

theorem restart_restarted {s u : State} {o : StartObs} (cold : Bool) {pend : Bool} {warm : Nat} (since : Tns)
    (h : RestartsFrom s u o pend warm) : Restarted s o cold pend warm (u.restart cold since o) := by
  refine ⟨?_, fun n hn => restart_fails since h hn, fun hn => restart_ends since h hn⟩
  unfold State.restart
  dsimp only
  split <;> exact State.apply_raised ..

/-- A start marked as forced ends as it would (R529). -/
theorem Restarted.forced {s t : State} {o : StartObs} {cold pend : Bool} {warm : Nat} (h : Restarted s o cold pend warm t) :
    Restarted s o cold pend warm (t.withDev { t.dev with start := { t.dev.start with forced := true } }) := by
  obtain ⟨-, hsafety, hpending, honly⟩ := becomes_withDev (u := t) (d := { t.dev with start := { t.dev.start with forced := true } }) h.raised
  generalize t.withDev { t.dev with start := { t.dev.start with forced := true } } = v at hsafety hpending honly
  have hstart : v.dev.start = { t.dev.start with forced := true } := honly.settled.start
  refine ⟨honly.raised.trans h.raised, fun n hn => ?_, fun hn => ?_⟩
  · have hf := h.fails n hn
    refine { pending := hpending.trans hf.pending, safety := hsafety.trans hf.safety, failed := ?_, undone := ?_, kind := ?_
             warm := (congrArg Backup.failedWarm honly.settled.backup :).trans hf.warm, status := ?_, step := ?_
             jobs := honly.jobs.trans hf.jobs, tick := ?_ }
    · rw [hstart]
      exact hf.failed
    · rw [hstart]
      exact hf.undone
    · rw [hstart]
      exact hf.kind
    · rw [hstart]
      exact hf.status
    · rw [hstart]
      exact hf.step
    · rw [honly.settled.tick]
      exact hf.tick
  · have he := h.ends hn
    refine ⟨hpending.trans he.pending, ?_, ?_, fun n hpass hmark hentries => ?_⟩
    · rw [hstart, honly.settled.now]
      exact he.patterns
    · rw [hstart]
      exact he.ended
    · rw [hstart]
      exact he.done n hpass hmark hentries

theorem restartsFrom_withDev {s v : State} {d : Dev} {o : StartObs} (hpending : v.pending = s.pending) (hr : d.raised = [])
    (hageing : d.ageing.verified o.planVerifies = s.dev.ageing.verified o.planVerifies)
    (hstore : d.store.chosen o.configVerifies = s.dev.store.chosen o.configVerifies) :
    RestartsFrom s (v.withDev d) o d.backup.alarmPending d.backup.failedWarm := by
  obtain ⟨-, -, hpending', honly⟩ := becomes_withDev (u := v) hr
  exact ⟨hpending'.trans hpending, by rw [honly.settled.ageing, hageing], by rw [honly.settled.store, hstore],
    by rw [honly.settled.backup], by rw [honly.settled.backup]⟩

/-- A command runs a start of a kind from a backup domain. -/
def Starts (s : State) (o : StartObs) (x : Instr × Bool × Bool × Nat) : Prop :=
  ∃ t, exec x.1 s = .next t ∧ Restarted s o x.2.1 x.2.2.1 x.2.2.2 t

theorem powerOn_starts {s : State} {o : StartObs} (h : s.dev.mayPower = true) : Starts s o (.powerOn o, true,
    s.dev.backup.alarmPending || bit s.dev.backup.alarms 1 || bit s.dev.backup.alarms 2, s.dev.backup.failedWarm) := by
  have hexec : exec (.powerOn o) s = .next (((s.powerOff false).withDev { (s.powerOff false).dev with
      start := { (s.powerOff false).dev.start with powered := true, waitInput := false } }).restart true (s.powerOff false).dev.now o) :=
    if_pos h
  exact ⟨_, hexec, restart_restarted true _ (restartsFrom_withDev rfl rfl rfl rfl)⟩

theorem resetN_starts {s : State} {o : StartObs} (hr : s.dev.raised = []) (hinput : s.dev.start.waitInput = false)
    (h : s.dev.mayPower = true) :
    Starts s o (.resetN o, s.dev.resetNCold, s.dev.backup.alarmPending, s.dev.backup.failedWarm) := by
  have hexec : exec (.resetN o) s = .next ((s.withDev { s.dev with
      start := { s.dev.start with powered := true, thermalOff := false } }).restart s.dev.resetNCold s.dev.now o) :=
    if_neg (by simp [hinput, h])
  exact ⟨_, hexec, restart_restarted _ _ (restartsFrom_withDev rfl hr rfl rfl)⟩

theorem orderlyWindowEnd_starts {s : State} {o : StartObs} {k : Nat} {t : Tns} (hr : s.dev.raised = [])
    (h : s.dev.start.orderly = some (k, t)) :
    Starts s o (.orderlyWindowEnd o, k == 0, s.dev.backup.alarmPending, s.dev.backup.failedWarm) := by
  have hexec : exec (.orderlyWindowEnd o) s = .next ((s.withDev (s.dev.advance (t + 50000000))).restart (k == 0) t o) := by
    simp only [exec, execOrderlyWindowEnd, h]
  exact ⟨_, hexec, restart_restarted _ _ (restartsFrom_withDev (d := s.dev.advance (t + 50000000)) rfl hr rfl rfl)⟩

theorem warmStartRetry_starts {s : State} {o : StartObs} (hr : s.dev.raised = []) (hfailed : s.dev.start.failed = true)
    (hstatus : s.dev.start.status = 0) (hkind : s.dev.start.kind = 1) :
    Starts s o (.warmStartRetry o, decide (3 ≤ s.dev.backup.failedWarm), s.dev.backup.alarmPending,
      if 3 ≤ s.dev.backup.failedWarm then 0 else s.dev.backup.failedWarm) := by
  have hexec : exec (.warmStartRetry o) s = _ := if_pos ⟨hfailed, hstatus, hkind⟩
  dsimp only at hexec
  by_cases hcount : s.dev.backup.failedWarm < 3
  · rw [if_pos hcount] at hexec
    rw [decide_eq_false (by omega), if_neg (by omega)]
    exact ⟨_, hexec, restart_restarted false _ (restartsFrom_withDev (d := { s.dev with now := s.dev.now + 1000000000 }) rfl hr
      rfl rfl)⟩
  · rw [if_neg hcount] at hexec
    rw [decide_eq_true (by omega), if_pos (by omega)]
    exact ⟨_, hexec, (restart_restarted true _ (restartsFrom_withDev (d := { s.dev with
      now := s.dev.now + 1000000000, backup := { s.dev.backup with failedWarm := 0 } }) rfl hr rfl rfl)).forced⟩

/-- The end of a start with no alarm pending (R517, R525). -/
theorem startReady_readies {s : State} (hr : s.dev.raised = []) (hstatus : s.dev.start.status = 0)
    (hdone : s.dev.start.stepsDone = true) (hfailed : s.dev.start.failed = false) (hidle : s.dev.start.orderly = none)
    (halarm : s.dev.backup.alarmPending = false) :
    ∃ t, exec .startReady s = .next t ∧ t.mem = s.mem ∧
      t.safety = { s.safety with faultHigh := !s.safety.safe && s.safety.causes == 0 } ∧ NoticesOnly s.dev.readied t.dev := by
  have hexec : exec .startReady s = s.done { dev := s.dev.becomeReady, safety := [.ready] } :=
    (if_pos ⟨hstatus, hdone, by simp [hfailed], by simp [hidle]⟩).trans (if_neg (by simp [halarm]))
  have honly := s.dev.becomeReady_only
  have hraised := honly.raised.trans ((Dev.readied_raised _).trans hr)
  generalize s.dev.becomeReady = d at hexec honly hraised
  exact ⟨_, hexec, rfl, by simp [hraised, Safety.take, SafetyOp.run],
    honly.trans (s.apply_only { dev := d, safety := [.ready] } hraised)⟩

theorem Dev.readied_start (d : Dev) : d.readied.start = { d.start with
    status := 1, failed := false, millis := (d.now - d.start.resetAt) / 1000000, firstBoot := false, forced := false } := rfl

theorem Dev.readied_failedWarm (d : Dev) : d.readied.backup.failedWarm = 0 := rfl

/-- Settles O57, clause by clause: starts, their ends and losses of the input. -/
theorem startsComplete : Obligations.StartsComplete := by
  unfold Obligations.StartsComplete
  intro s hs
  refine ⟨fun obs h => completes_done (if_neg (by simp [h])) rfl hs, fun obs h => completes_done (if_pos ?_) rfl hs, fun obs h => ?_,
    fun obs h => completes_done (if_neg ?_) rfl hs, fun obs c cold pend warm hmem => ?_,
    fun step h => completes_done rfl (congrArg Dev.eff (if_neg ?_)) hs, fun step hstatus hfailed hpowered hboot => ?_,
    fun h => completes_done (if_neg ?_) rfl hs, fun hstatus hdone hfailed hidle => ⟨fun halarm => ?_, fun halarm => ?_⟩,
    fun h => completes_done (if_neg (by simp [h])) rfl hs, fun hpowered => ?_, fun f p q => completes_done rfl rfl hs⟩
  · obtain h | h := h
    · simp [h]
    · simp [h]
  · refine completes_done (e := s.dev.eff) ?_ rfl hs
    simp only [exec, execOrderlyWindowEnd, h]
  · rintro ⟨hfailed, hstatus, hkind⟩
    obtain h | h | h := h
    · rw [hfailed] at h
      cases h
    · exact h hstatus
    · exact h hkind
  · have hstarts : Starts s obs (c, cold, pend, warm) := by
      obtain ((hmem | hmem) | hmem) | hmem := by simpa only [List.mem_append] using hmem
      · split at hmem
        · rename_i h
          cases List.mem_singleton.1 hmem
          exact powerOn_starts h
        · cases hmem
      · split at hmem
        · rename_i h
          cases List.mem_singleton.1 hmem
          exact resetN_starts hs h.1 h.2
        · cases hmem
      · split at hmem
        · rename_i k t h
          cases List.mem_singleton.1 hmem
          exact orderlyWindowEnd_starts hs h
        · cases hmem
      · split at hmem
        · rename_i h
          obtain ⟨hfailed, hstatus, hkind⟩ := h
          cases List.mem_singleton.1 hmem
          exact warmStartRetry_starts hs hfailed hstatus hkind
        · cases hmem
    obtain ⟨t, ht, hrestarted⟩ := hstarts
    refine ⟨fun n hn => ?_, fun hn => ?_⟩
    · have hf := hrestarted.fails n hn
      exact ⟨t, ht, hf.pending, hf.safety, hf.failed, hf.undone, hf.kind, hf.warm, hf.status, hf.step, hf.jobs, hf.tick⟩
    · have he := hrestarted.ends hn
      exact ⟨t, ht, he.pending, he.patterns, he.ended, he.done⟩
  · rintro ⟨hstatus, hfailed, hpowered⟩
    obtain h | h | h := h
    · exact h hstatus
    · simp [h] at hfailed
    · simp [h] at hpowered
  · refine completes_done rfl (congrArg Dev.eff ((if_pos ⟨hstatus, by simp [hfailed], hpowered⟩).trans ?_)) hs
    unfold Dev.startFails
    simp only [hboot, Bool.false_and, Bool.false_eq_true, if_false]
  · rintro ⟨hstatus, hdone, hfailed, hidle⟩
    obtain h | h | h | h := h
    · exact h hstatus
    · simp [h] at hdone
    · simp [h] at hfailed
    · rw [Option.isNone_iff_eq_none] at hidle
      simp [hidle] at h
  · obtain ⟨t, ht, hmem, hsafety, -, honly⟩ := completes_alarm (c := .startReady) (s := s)
      (d := { s.dev with start := { s.dev.start with status := 3 } }) (cause := 3)
      ((if_pos ⟨hstatus, hdone, by simp [hfailed], by simp [hidle]⟩).trans (if_pos halarm)) hs
    exact ⟨t, ht, hmem, hsafety, honly.settled.start⟩
  · obtain ⟨t, ht, hmem, hsafety, honly⟩ := startReady_readies hs hstatus hdone hfailed hidle halarm
    refine ⟨t, ht, hmem, hsafety, ?_, ?_, ?_⟩
    · rw [honly.settled.start]
      exact Dev.readied_start ..
    · rw [honly.settled.backup]
      exact Dev.readied_failedWarm ..
    · rw [honly.settled.force]
      exact Dev.readied_force ..
  · have hexec : exec .inputResetRange s = .next ((s.powerOff false).withDev (s.powerOff false).dev) := if_pos hpowered
    obtain ⟨-, hsafety, hpending, honly⟩ := becomes_withDev (u := s.powerOff false) (d := (s.powerOff false).dev) rfl
    refine ⟨_, hexec, hpending, hsafety, ?_, ?_, honly.jobs, honly.settled.backup⟩
    · rw [honly.settled.start]
      rfl
    · rw [honly.settled.start]
      rfl

end Sys2Proof.Machine
end

section
/-!
Port commands that are turned away, failing packets and function resets (O60).
-/

namespace Sys2Proof.Machine

open Sys2Proof.Safety

/-! ### Packets -/

theorem Dev.packetFetch_idle {d : Dev} {p : Nat} {urgent : Bool} (data : HostRead) (h : d.mayFetch p urgent = false) :
    d.packetFetch p urgent data = d := by
  unfold Dev.packetFetch
  exact if_pos (by simp [h])

/-- A packet for which the inbox has no room only uses its function's turn (R342). -/
theorem Dev.packetFetch_full {d : Dev} {p : Nat} {urgent : Bool} {bs : Bytes} (hm : d.mayFetch p urgent = true)
    (hlimit : leAt bs 24 4 ≤ ringLimit urgent) (hfull : d.inboxFree p urgent < 64 + leAt bs 24 4) :
    d.packetFetch p urgent (.packet bs) = d.serve p := by
  unfold Dev.packetFetch
  rw [if_neg (by simp [hm])]
  exact if_pos (by simp [hlimit, hfull])

/-- A packet with an illegal LEN or a bad CRC halts its ring (R343). -/
theorem Dev.packetFetch_broken {d : Dev} {p : Nat} {urgent bad : Bool} {bs : Bytes} (hm : d.mayFetch p urgent = true)
    (hroom : ringLimit urgent < leAt bs 24 4 ∨ 64 + leAt bs 24 4 ≤ d.inboxFree p urgent)
    (hbad : bad = (!lenLegal urgent (leAt bs 24 4) || bs.length != 64 + leAt bs 24 4)) (h : bad = true ∨ packetCrcOk bs = false) :
    d.packetFetch p urgent (.packet bs) = (d.serve p).haltRing p urgent (if bad then 2 else 1) bs := by
  have hjudged : ¬ (decide (leAt bs 24 4 ≤ ringLimit urgent) && decide (d.inboxFree p urgent < 64 + leAt bs 24 4)) = true := by
    simp only [Bool.and_eq_true, decide_eq_true_eq]
    omega
  unfold Dev.packetFetch
  rw [if_neg (by simp [hm])]
  dsimp only
  rw [if_neg hjudged, ← hbad]
  cases bad with
  | true => rfl
  | false => exact (if_neg (by decide)).trans (if_pos (by simpa using h))

/-- A halted ring raises no cause and keeps the tags in flight. -/
theorem Dev.haltRing_kept (d : Dev) (p : Nat) (urgent : Bool) (cause : Nat) (header : Bytes) :
    (d.haltRing p urgent cause header).raised = d.raised ∧
      ((d.haltRing p urgent cause header).part p).flights = (d.part p).flights := by
  unfold Dev.haltRing
  extract_lets w d1 r
  obtain ⟨f, -, he⟩ := vector_part (d1.emit p r) p 2
  obtain ⟨a, b, h⟩ := vector_same (d1.emit p r) p 2
  have hemit : (d1.emit p r).part p = { d1.part p with outbox := (d1.part p).outbox ++ [r] } := Dev.part_modPart_same ..
  have hring : d1.part p = (d.part p).setCmdRing urgent { (d.part p).cmdRing urgent with halted := true, cause := cause } :=
    Dev.part_modPart_same ..
  refine ⟨by rw [he]; rfl, ?_⟩
  rw [h, hemit, hring]
  cases urgent <;> rfl

/-- A fetch that halts its ring, as a command. -/
theorem haltRing_after {c : Instr} {s : State} {d : Dev} {p : Nat} {urgent : Bool} {cause : Nat} {header : Bytes}
    (hc : exec c s = s.done (d.haltRing p urgent cause header).eff) (hr : d.raised = []) :
    ∃ t, exec c s = .next t ∧ t.mem = s.mem ∧ t.safety = s.safety ∧
      (t.dev.part p).cmdRing urgent = { (d.part p).cmdRing urgent with halted := true, cause := cause } ∧
      (t.dev.part p).inbox = (d.part p).inbox ∧ (t.dev.part p).flights = (d.part p).flights ∧
      ∃ r, (t.dev.part p).outbox = (d.part p).outbox ++ [r] ∧ r.code = Code.rejectedFormat.toNat ∧ r.accepted = false := by
  obtain ⟨hraised, hflights⟩ := d.haltRing_kept p urgent cause header
  obtain ⟨hring, hinbox, houtbox⟩ := d.haltRing_part p urgent cause header
  refine ⟨_, hc, rfl, (State.apply_calm (hraised.trans hr) rfl).1, ?_⟩
  rw [State.apply_cmdRing, State.apply_part_inbox, State.apply_part_flights, State.apply_part_outbox]
  exact ⟨hring, hinbox, hflights, _, houtbox, rfl, rfl⟩

/-! ### Functions and links -/

/-- A function that the bus does not reach answers nothing (R334). -/
theorem unreached_still {s : State} {p : Fin 16} (hr : s.dev.raised = []) (h : s.dev.reach p = false) (on : Bool) :
    ∀ c ∈ [Instr.functionLevelReset p, .stopInterface p, .busMasterEnable p on, .ideCheckFail p, .getTdispVersion p,
      .lockInterface p], CompletesTo c s s.dev := by
  intro c hc
  simp only [List.mem_cons, List.not_mem_nil, or_false] at hc
  obtain rfl | rfl | rfl | rfl | rfl | rfl := hc
  · exact completes_done rfl (if_neg (by simp [h])) hr
  · exact completes_done rfl (if_neg (by simp [h])) hr
  · exact completes_done rfl (if_pos (by simp [h])) hr
  · exact completes_done rfl (if_pos (by simp [h])) hr
  · exact completes_done rfl (congrArg Dev.eff (if_neg (by simp [h]))) hr
  · exact completes_done rfl (if_pos (by simp [h])) hr

/-- A function reset keeps the bus mastership. -/
theorem Eff.functionReset_busMaster (e : Eff) (p : Nat) :
    ((e.functionReset p).dev.part p).busMaster = (e.dev.part p).busMaster := by
  obtain ⟨e1, b, hcore, heq⟩ := e.functionReset_eq p
  have hpart : (e.functionReset p).dev.part p = (e1.dev.part p).unlocked b := by
    rw [heq]
    exact Dev.part_modPart_same ..
  have hkept : ((e1.dev.part p).unlocked b).busMaster = (e1.dev.part p).busMaster := by
    cases b <;> rfl
  rw [hpart, hkept]
  exact (congrArg Part.busMaster (hcore p) :)

/-- A virtual function enabled or disabled after an effect (R334). -/
def Eff.enabled (e : Eff) (p : Nat) (on : Bool) : Eff :=
  e.mod (fun d => d.modPart p (fun x => { x with present := on, busMaster := on && x.busMaster }))

theorem Eff.enabled_part (e : Eff) (p : Nat) (on : Bool) : (e.enabled p on).dev.raised = e.dev.raised ∧
    (e.enabled p on).safety = e.safety ∧ (e.enabled p on).dev.part p =
      { e.dev.part p with present := on, busMaster := on && (e.dev.part p).busMaster } :=
  ⟨rfl, rfl, Dev.part_modPart_same ..⟩

/-- The host enables or disables a virtual function whose TDI is locked or runs (R334, R508). -/
theorem vfEnable_locked {s : State} {p : Fin 16} {on : Bool} (hr : s.dev.raised = []) (hv : (p : Nat) % 4 ≠ 0)
    (hlink : (s.dev.port (p / 4)).linkUp = true) (htdi : (s.dev.part p).tdi = .locked ∨ (s.dev.part p).tdi = .run) :
    ∃ t, exec (.vfEnable p on) s = .next t ∧ t.safety = s.safety ∧ (t.dev.part p).present = on ∧
      (t.dev.part p).busMaster = (on && (s.dev.part p).busMaster) ∧ (t.dev.part p).tdi = .error ∧
      (t.dev.part p).quiesced = true ∧ (t.dev.part p).created = (s.dev.part p).created := by
  obtain ⟨hcalm, herror, hquiesced, hcreated, hmaster⟩ := Eff.tdiError_moves (e := s.dev.eff) htdi
  have hexec : exec (.vfEnable p on) s = s.done ((s.dev.eff.tdiError p).enabled p on) := congrArg s.done (if_neg (by simp [hv, hlink]))
  generalize s.dev.eff.tdiError p = e at hcalm herror hquiesced hcreated hmaster hexec
  obtain ⟨hraised, hsafety, hpart⟩ := e.enabled_part p on
  refine ⟨_, hexec, (State.apply_calm (hraised.trans (hcalm.raised.trans hr)) (hsafety.trans hcalm.2)).1, ?_⟩
  rw [State.apply_part_present, State.apply_part_busMaster, State.apply_part_tdi, State.apply_part_quiesced,
    State.apply_part_created, hpart]
  exact ⟨rfl, congrArg (on && ·) hmaster, herror, hquiesced, hcreated⟩

theorem Dev.spdm_down {d : Dev} {n who : Nat} {f : Dev → Dev} (h : (d.port n).linkUp = false) : d.spdm n who f = d := by
  unfold Dev.spdm
  exact if_pos (by simp [h])

/-- A port without link answers no requester (R510). -/
theorem linkless_still {s : State} {n : Fin 4} (hr : s.dev.raised = []) (h : (s.dev.port n).linkUp = false) (who slot : Nat)
    (nonce : Bytes) : ∀ c ∈ [Instr.getCertificate n who slot, .challenge n who slot nonce, .getMeasurements n who slot nonce,
      .keyExchange n who slot nonce], CompletesTo c s s.dev := by
  have still {c : Instr} {f : Dev → Dev} (hc : exec c s = s.done (s.dev.spdm n who f).eff) : CompletesTo c s s.dev :=
    completes_done hc (congrArg Dev.eff (Dev.spdm_down h)) hr
  intro c hc
  simp only [List.mem_cons, List.not_mem_nil, or_false] at hc
  obtain rfl | rfl | rfl | rfl := hc
  · exact still rfl
  · exact still rfl
  · exact still rfl
  · exact still rfl

/-- Settles O60, clause by clause: packets, functions and links. -/
theorem portsTurnAway : Obligations.PortsTurnAway := by
  unfold Obligations.PortsTurnAway
  intro s hs
  refine ⟨fun p urgent => ⟨fun data hm => completes_done rfl (congrArg Dev.eff (Dev.packetFetch_idle data hm)) hs,
      fun bs bad hm hroom hbad h => ?_, fun bs hm hlimit hfull =>
        completes_done rfl (congrArg Dev.eff (Dev.packetFetch_full hm hlimit hfull)) hs⟩,
    fun p => ⟨fun h on => unreached_still hs h on, fun hreach => ?_, fun on h => completes_done rfl (if_pos ?_) hs,
      fun on hv hlink htdi => vfEnable_locked hs hv hlink htdi, fun h => completes_done rfl (if_neg (by simp [h])) hs⟩,
    fun n => ⟨fun speed width h => completes_done rfl (congrArg Dev.eff (if_pos ?_)) hs, fun h =>
      ⟨completes_done rfl (if_neg (by simp [h])) hs, fun who slot nonce => linkless_still hs h who slot nonce⟩⟩⟩
  · exact haltRing_after (d := s.dev.serve p) (congrArg (fun d => s.done (Dev.eff d)) (Dev.packetFetch_broken hm hroom hbad h)) hs
  · have hcalm := s.dev.eff.functionReset_calm p
    obtain ⟨ht, hsafety, h, hcreated, -, -⟩ :=
      functionReset_after (c := .functionLevelReset p) (congrArg s.done (if_pos hreach)) (hcalm.raised.trans hs) hcalm.2 rfl
    exact ⟨_, ht, hsafety, h.ring .normal, h.ring .urgent, h.ring .response, h.ring .notice, h.quiesced, h.tdi, h.ide, hcreated,
      (State.apply_part_busMaster ..).trans (Eff.functionReset_busMaster ..)⟩
  · obtain h | h := h
    · simp [h]
    · simp [h]
  · obtain h | h | h := h
    · simp [h]
    · simp [h]
    · simp [h]

end Sys2Proof.Machine
end
